-- ==== Sys2Proof/Word.lean ====
section
/-! DEFINITION. Sys2Proof/Word.lean: the word types of the Y216 and their plainest arithmetic. -/

namespace Sys2Proof

/-- A byte of memory. -/
abbrev Byte := BitVec 8

/-- A control-plane payload, a register, an address (R13). -/
abbrev Word := BitVec 64

/-- The 64-byte payload of a data-plane token (R13, R188). A control payload stands in its low 64 bits. -/
abbrev Payload := BitVec 512

/-- Bits [hi:lo] of a word, as a number (R5). -/
def bitsAt {n : Nat} (x : BitVec n) (lo len : Nat) : Nat := x.toNat / 2 ^ lo % 2 ^ len

/-- Bit i of a word. -/
def bitAt {n : Nat} (x : BitVec n) (i : Nat) : Bool := bitsAt x i 1 == 1

end Sys2Proof
end

