-- ==== Sys2Proof/Syntax.lean ====
section
/-! DEFINITION. Sys2Proof/Syntax.lean: the steps of the Y216, one constructor for each row of
spec/opcode_table.json. An instruction of the opcode map (R128) carries the fields of its node record (R115);
a machine event carries the place it happens at. -/

namespace Sys2Proof

/-- The fields of a node record below its OP (R115). -/
structure NodeRec where
  /-- variant within the OP, bits [87:84] -/
  var : BitVec 4
  /-- element type, bits [83:80] -/
  ty : BitVec 4
  /-- arity and literal use, bits [79:77] -/
  ar : BitVec 3
  /-- tag arithmetic on outgoing tokens, bits [76:75] -/
  tg : BitVec 2
  /-- plane of the outgoing tokens, bit [74]: false control, true data -/
  pl : Bool
  /-- destination 0, bits [73:53] -/
  d0 : BitVec 21
  /-- destination 1, bits [52:32] -/
  d1 : BitVec 21
  /-- literal, bits [31:0] -/
  lit : BitVec 32
  deriving DecidableEq, Repr, Inhabited

/-- Where a machine event happens. The spec encodes no event; this layout is the model's own (notes/assumptions/1.md). -/
structure EvArgs where
  /-- course concerned -/
  course : BitVec 4
  /-- bay, element address, crucible number, channel or downpipe, as the event needs -/
  unit : BitVec 16
  /-- frame tag, or pool-map entry -/
  ft : BitVec 12
  /-- an index: token in flight, wave sequence, pool, stream context, entry of a list -/
  k : BitVec 16
  /-- context -/
  cx : BitVec 12
  /-- any further operand -/
  aux : BitVec 36
  deriving DecidableEq, Repr, Inhabited

/-- One whole and indivisible step of the part. -/
inductive Instr where
  /-- TOKEN_ARRIVAL (R21): A token arrives at a bay and is checked in order, then written into its slot, into a spilled image, held for a moving frame, or rejected with a fault token. -/
  | tokenArrival (e : EvArgs)
  /-- CAST_COMMIT (R26): A quiet cast whose EXIT has fired commits: held writes in wave order, FREE and USE effects, outgoing tokens, slot clearing and the freeing of a cast-scoped frame. -/
  | castCommit (e : EvArgs)
  /-- CAST_ABORT (R27): A cast with E set aborts once quiet: held effects are discarded, granted room is given back, slots are kept and one fault token is sent. -/
  | castAbort (e : EvArgs)
  /-- STALL (R29): A live cast's stall counter reaches the context's cast stall bound and the cast raises STALL, a hard fault. -/
  | stall (e : EvArgs)
  /-- COMPACTION_MOVE_DONE (R63): The copy of one allocation during compaction ends, its MV clears, waiting tokens and accesses go on, and after the last move the head is granted. -/
  | compactionMoveDone (e : EvArgs)
  /-- SPILL_TIMER_EXPIRY (R64): The spill timer of an anchored short head reaches S and the bay allocator spills blocked victims, youngest grant first. -/
  | spillTimerExpiry (e : EvArgs)
  /-- SPILL_WRITE_ACK (R66): The far-memory write of a spill image is acknowledged, the victim becomes spilled and its room returns to the pool. -/
  | spillWriteAck (e : EvArgs)
  /-- WAVE_LOAD_PERFORM (R215): A load waiting in the wave buffer is performed once every lower record is settled, with held writes of its cast forwarded. -/
  | waveLoadPerform (e : EvArgs)
  /-- WALK_COMPLETE (R317): A translation walk ends, filling the caches of every bay that took part or faulting every access that joined it. -/
  | walkComplete (e : EvArgs)
  /-- WALKER_START (R317): A queued translation miss receives a free walker and its walk begins. -/
  | walkerStart (e : EvArgs)
  /-- CMB_PARTIAL_ARRIVAL (R233): A combine partial reaches its home, joins or opens a cell, and the cell releases its folded update when it holds N partials. -/
  | cmbPartialArrival (e : EvArgs)
  /-- CMB_CELL_TIMEOUT (R234): A combine cell stays open with no partial joining for the stall bound and is closed without an update, with a POISON record. -/
  | cmbCellTimeout (e : EvArgs)
  /-- BARRIER_PHASE_COMPLETE (R236): A barrier phase whose count is reached completes after the scope's latency and waiting BAR.wait nodes emit. -/
  | barrierPhaseComplete (e : EvArgs)
  /-- RIDGE_OCCURRENCE (R338): In each beat every channel carries the occurrence of its slot, with the merged writes of the course at the head of that slot's list. -/
  | ridgeOccurrence (e : EvArgs)
  /-- RIDGE_CONTROL_WORD (R340): In each beat the control lane carries the earliest queued control word, or an idle word. -/
  | ridgeControlWord (e : EvArgs)
  /-- RIDGE_MIRROR_APPLY (R333): Every mirror and the Plate copy apply the changes of beat n at the start of beat n + 4, completing RDG waits and barriers that they cover. -/
  | ridgeMirrorApply (e : EvArgs)
  /-- TICK_UNTIL_EXPIRY (R246): The pod time reaches the tick that a TICK.until waits for and the node emits its token. -/
  | tickUntilExpiry (e : EvArgs)
  /-- CRUCIBLE_TOKEN_ARRIVAL (R250): A token arrives at a crucible, is checked, and a handler record whose ports are all present fires and is accepted as one operation. -/
  | crucibleTokenArrival (e : EvArgs)
  /-- CRUCIBLE_OPERATION_START (R251): An accepted crucible operation starts once earlier operations on its parts are done, reading memory at its start. -/
  | crucibleOperationStart (e : EvArgs)
  /-- PERMIT_HANDOUT (R261): A free pour permit stops at the first downstream crucible with a waiting burst whose context is under its share, and the burst runs. -/
  | permitHandout (e : EvArgs)
  /-- BURST_END (R261): An MX.MMA burst ends, its accumulator is written, its permit is returned and its completion is sent. -/
  | burstEnd (e : EvArgs)
  /-- GATE_STREAM_BIND (R268): A gate takes a stream request when its stream context is free and binds it, checking the region before any beat moves. -/
  | gateStreamBind (e : EvArgs)
  /-- GATE_FEED_BEAT (R270): A GATE.FEED beat is granted its frame and its data token is sent to D0. -/
  | gateFeedBeat (e : EvArgs)
  /-- GATE_DRAIN_BEAT (R271): A data token arrives at a gate stream context with an open drain and is checked, accepted and written into the pattern. -/
  | gateDrainBeat (e : EvArgs)
  /-- GATE_STREAM_COMPLETE (R273): A gate stream finishes all its elements and sends its completion as a release of its writes. -/
  | gateStreamComplete (e : EvArgs)
  /-- GATE_STREAM_FAULT (R274): A fault after binding stops a stream at element n, which is named in the fault record. -/
  | gateStreamFault (e : EvArgs)
  /-- FAULT_DELIVERY (R382): An unsettled fault is granted a fault frame in the handler's Gutter bay and its fault token is delivered to the handler node. -/
  | faultDelivery (e : EvArgs)
  /-- VERDICT_APPLY (R388): A verdict reaches its fault's site and re-fires, resumes, skips, kills or reflects as the site requires. -/
  | verdictApply (e : EvArgs)
  /-- KERNEL_SELECT (R357): Among the heads of a context's launch queues that meet every condition, the highest-priority kernel is selected to start. -/
  | kernelSelect (e : EvArgs)
  /-- KERNEL_START (R359): The Plate checks holdings, drops the plane, grants Ridge slots and data buffers, writes arguments and requests the launch frame. -/
  | kernelStart (e : EvArgs)
  /-- KERNEL_CANCEL (R356): A waiting STRICT kernel whose prerequisite ended other than normally ends CANCELLED. -/
  | kernelCancel (e : EvArgs)
  /-- GANG_START_TICK (R362): The pod time reaches the gang's start tick and each stack makes its injections. -/
  | gangStartTick (e : EvArgs)
  /-- SOURCE_INJECTION (R360): The launch frame is granted and each SRC and GAIN.TAKE of the entry block receives its injection. -/
  | sourceInjection (e : EvArgs)
  /-- KERNEL_END (R356): A running kernel meets its end conditions, the Plate frees a remaining launch frame, and the kernel ends NORMAL. -/
  | kernelEnd (e : EvArgs)
  /-- HEAP_POP (R304): An armed GAIN.TAKE with a granted frame pops the entry of greatest key from its course's heap and sends the task. -/
  | heapPop (e : EvArgs)
  /-- SLICE_END (R421): A slice's effective quantum expires and the course passes to the lowest-pass contender, by a sweep if another waits. -/
  | sliceEnd (e : EvArgs)
  /-- SWEEP (R426): The Plate sweeps a context's region on a course, saving its ready queues, pending stores and configuration. -/
  | sweep (e : EvArgs)
  /-- FREEZE (R428): A sweep not complete when the floor has passed becomes a freeze that scans out the unswept bays. -/
  | freeze (e : EvArgs)
  /-- SLICE_RESUME (R429): At a context's next slice its saved configuration is loaded and flipped in one beat and its pending work resumes. -/
  | sliceResume (e : EvArgs)
  /-- CFG_FILL_COMPLETE (R294): A shadow-bank fill from the Thatch ends and is validated, releasing CFG.LOAD's result or a fault. -/
  | cfgFillComplete (e : EvArgs)
  /-- PAGE_PULL (R432): A walk on the target stack meets a migration-pending leaf and the Plate copies the page over the Eave links. -/
  | pagePull (e : EvArgs)
  /-- PULL_LOST (R433): A post-copy pull whose source or link fails stops and every waiting cast aborts with PULL_LOST. -/
  | pullLost (e : EvArgs)
  /-- PERMIT_STEP_LOWER (R451): Every 10 µs while over the limit or too hot, the controller lowers one course's permit step by one. -/
  | permitStepLower (e : EvArgs)
  /-- PERMIT_STEP_RAISE (R451): Every 100 µs while under 0.95 of the limit, the controller raises the step of the lowest-stepped course with a waiting burst. -/
  | permitStepRaise (e : EvArgs)
  /-- COURSE_RETENTION_ENTER (R453): A quiet course moves into retention sleep after the conditions of R345 have held for 100 µs. -/
  | courseRetentionEnter (e : EvArgs)
  /-- COURSE_OFF_ENTER (R453): A course in retention for 10 ms with nothing backed on it moves into off. -/
  | courseOffEnter (e : EvArgs)
  /-- COURSE_WAKE (R453): A course that is needed wakes, zeroing SRAM and catching up its mirror when leaving off. -/
  | courseWake (e : EvArgs)
  /-- SCRUB (R395): Background scrubbing reads a word, corrects and writes back a correctable error and counts it. -/
  | scrub (e : EvArgs)
  /-- UNCORRECTABLE_ERROR (R396): An uncorrectable error traps to the memory manager, which remaps, retires or marks data lost by what the word belonged to. -/
  | uncorrectableError (e : EvArgs)
  /-- DOWNPIPE_FAIL (R400): A failed downpipe is drained and its unacknowledged flits are resent on the neighbouring downpipe. -/
  | downpipeFail (e : EvArgs)
  /-- COURSE_FAIL (R400): A failed course loses its state and every affected context receives DATA_LOST of course scope. -/
  | courseFail (e : EvArgs)
  /-- DOWNPIPE_TEST_BEAT (R401): The background tester drives one test beat over the downpipe under test, yielding to demand flits. -/
  | downpipeTestBeat (e : EvArgs)
  /-- EAVE_FLIT_REPLAY (R449): An Eave flit that fails its CRC is replayed from the sender's buffer. -/
  | eaveFlitReplay (e : EvArgs)
  /-- EAVE_LINK_LOSS (R449): The loss of an Eave link makes the firmware recompute the pod routing tables. -/
  | eaveLinkLoss (e : EvArgs)
  /-- RESTORE_COPY_DONE (R70): The copy of a spilled image back into the bay store ends, SP and ARR clear, BASE is set, the image is marked done and tokens waiting at the bay are delivered. -/
  | restoreCopyDone (e : EvArgs)
  /-- CRUCIBLE_OPERATION_COMPLETE (R252): A crucible load or drain operation finishes its memory reads or writes, sends its completion as a release and, for a RETURN record, frees the crucible frame. -/
  | crucibleOperationComplete (e : EvArgs)
  /-- SIG_DELIVERY_ACK (R442): The UCIe link layer acknowledges the delivery of a SIG message and its HOST.SIG queue entry frees. -/
  | sigDeliveryAck (e : EvArgs)
  /-- HOST_WINDOW_WRITE (R443): The host writes far memory through its window, bypassing translation and bumping any tagged table line. -/
  | hostWindowWrite (e : EvArgs)
  /-- PERMIT_FALL_DUE (R452): The 2 µs fall interval of a course's drawn permits expires, and a crucible running ballast returns its kept permit. -/
  | permitFallDue (e : EvArgs)
  /-- PASS (0x01, R161): Sends operand A on D0 and D1. -/
  | pass (r : NodeRec)
  /-- SINK (0x02, R161): Consumes operand A and sends nothing. -/
  | sink (r : NodeRec)
  /-- LIT (0x03, R161): Fires on A and sends the literal value. -/
  | lit (r : NodeRec)
  /-- SRC (0x04, R161): Sends the literal value once per injection. -/
  | src (r : NodeRec)
  /-- STEER (0x05, R161): Sends A on D0 when predicate B is true, on D1 otherwise. -/
  | steer (r : NodeRec)
  /-- SEL (0x06, R161): Sends C when predicate A is true, B otherwise. -/
  | sel (r : NodeRec)
  /-- MERGE (0x07, R162): Fires on each single arrival and sends the operand that arrived. -/
  | merge (r : NodeRec)
  /-- JOIN (0x08, R161): Waits for its operands and sends the one of the highest named port. -/
  | join (r : NodeRec)
  /-- VERT (0x09, R163): Sends its value to another course over the downpipe. -/
  | vert (r : NodeRec)
  /-- EAVE (0x0A, R163): Sends its value to a course of another stack over an Eave link. -/
  | eave (r : NodeRec)
  /-- REPL (0x0B, R164): Replicates a control value into every lane of a data token. -/
  | repl (r : NodeRec)
  /-- EXTR (0x0C, R164): Extracts one lane of a data token into a control token. -/
  | extr (r : NodeRec)
  /-- TAGGET (0x10, R166): Emits the frame word of its own frame. -/
  | tagget (r : NodeRec)
  /-- TAGSET (0x11, R166): Sets a frame row's IT at commit and emits the changed frame word. -/
  | tagset (r : NodeRec)
  /-- CALL (0x12, R167): Sends B into the frame that A names and writes its linkage at commit. -/
  | call (r : NodeRec)
  /-- RET (0x13, R168): Sends A to the linkage's return destination. -/
  | ret (r : NodeRec)
  /-- EXIT (0x14, R169): Marks the live cast's EXIT as fired. -/
  | exit (r : NodeRec)
  /-- ITER (0x15, R170): Links the next frame of an iteration chain and gives it IT + 1. -/
  | iter (r : NodeRec)
  /-- STRAND (0x16, R172): Writes a new strand number into a frame's linkage at commit. -/
  | strand (r : NodeRec)
  /-- ALLOC_FRM (0x20, R175): Requests a frame from an FRM pool, parking until granted, and emits its frame word. -/
  | allocFrm (r : NodeRec)
  /-- ALLOC_BUF (0x21, R176): Requests a buffer from a BUF pool, parking until granted, and emits its handle. -/
  | allocBuf (r : NodeRec)
  /-- ALLOC_RDG (0x22, R178): Requests a Ridge slot from the Plate's Ridge allocator and emits its slot word. -/
  | allocRdg (r : NodeRec)
  /-- ALLOC_CRU (0x23, R177): Requests a crucible frame in arrival order and emits its frame word. -/
  | allocCru (r : NodeRec)
  /-- FREE_FRM (0x24, R179): Frees the frame that A names at commit. -/
  | freeFrm (r : NodeRec)
  /-- FREE_BUF (0x25, R180): Frees the buffer that A names at commit. -/
  | freeBuf (r : NodeRec)
  /-- USE (0x26, R180): Lowers a buffer's use count at commit, freeing it at zero. -/
  | use (r : NodeRec)
  /-- FREE_RDG (0x27, R178): Gives back a run-time Ridge slot at commit. -/
  | freeRdg (r : NodeRec)
  /-- POOLQ (0x28, R181): Emits a counter or descriptor word of a pool. -/
  | poolq (r : NodeRec)
  /-- ADD (0x30, R183): Integer addition, wrapping. -/
  | add (r : NodeRec)
  /-- SUB (0x31, R183): Integer subtraction, wrapping. -/
  | sub (r : NodeRec)
  /-- MUL (0x32, R183): Integer multiplication, wrapping. -/
  | mul (r : NodeRec)
  /-- MULH (0x33, R183): High half of the exact integer product. -/
  | mulh (r : NodeRec)
  /-- DIV (0x34, R183): Integer division truncating toward zero. -/
  | div (r : NodeRec)
  /-- REM (0x35, R183): Integer remainder with the sign of the dividend. -/
  | rem (r : NodeRec)
  /-- MAD (0x36, R183): Integer a × b + c with one wrap. -/
  | mad (r : NodeRec)
  /-- NEG (0x37, R183): Integer negation. -/
  | neg (r : NodeRec)
  /-- ABS (0x38, R183): Integer absolute value. -/
  | abs (r : NodeRec)
  /-- MIN (0x39, R183): Integer minimum. -/
  | min (r : NodeRec)
  /-- MAX (0x3A, R183): Integer maximum. -/
  | max (r : NodeRec)
  /-- AND (0x3B, R183): Bitwise and. -/
  | and (r : NodeRec)
  /-- OR (0x3C, R183): Bitwise or. -/
  | or (r : NodeRec)
  /-- XOR (0x3D, R183): Bitwise exclusive or. -/
  | xor (r : NodeRec)
  /-- NOT (0x3E, R183): Bitwise complement. -/
  | not (r : NodeRec)
  /-- ANDN (0x3F, R183): a and not b. -/
  | andn (r : NodeRec)
  /-- SHL (0x40, R184): Shift left with zero fill. -/
  | shl (r : NodeRec)
  /-- SHR (0x41, R184): Logical shift right. -/
  | shr (r : NodeRec)
  /-- SAR (0x42, R184): Arithmetic shift right. -/
  | sar (r : NodeRec)
  /-- ROL (0x43, R184): Rotate left. -/
  | rol (r : NodeRec)
  /-- CLZ (0x44, R183): Count leading zero bits. -/
  | clz (r : NodeRec)
  /-- POP (0x45, R183): Count set bits. -/
  | pop (r : NodeRec)
  /-- CMP (0x46, R185): Compares two integers and emits a predicate. -/
  | cmp (r : NodeRec)
  /-- LEA (0x47, R183): Computes b + a × 2^VAR. -/
  | lea (r : NodeRec)
  /-- BFX (0x48, R186): Extracts a bit field. -/
  | bfx (r : NodeRec)
  /-- BFI (0x49, R186): Inserts a bit field. -/
  | bfi (r : NodeRec)
  /-- EXT (0x4A, R186): Sign- or zero-extends from 8, 16 or 32 bits. -/
  | ext (r : NodeRec)
  /-- SATADD (0x4B, R187): Saturating integer addition. -/
  | satadd (r : NodeRec)
  /-- CLAMP (0x4C, R187): Clamps a between b and c. -/
  | clamp (r : NodeRec)
  /-- VADD (0x50, R191): Lane-wise integer addition. -/
  | vadd (r : NodeRec)
  /-- VSUB (0x51, R191): Lane-wise integer subtraction. -/
  | vsub (r : NodeRec)
  /-- VMUL (0x52, R191): Lane-wise integer multiplication. -/
  | vmul (r : NodeRec)
  /-- VMAD (0x53, R191): Lane-wise integer multiply-add. -/
  | vmad (r : NodeRec)
  /-- VMIN (0x54, R191): Lane-wise integer minimum. -/
  | vmin (r : NodeRec)
  /-- VMAX (0x55, R191): Lane-wise integer maximum. -/
  | vmax (r : NodeRec)
  /-- VAND (0x56, R191): Lane-wise bitwise and. -/
  | vand (r : NodeRec)
  /-- VOR (0x57, R191): Lane-wise bitwise or. -/
  | vor (r : NodeRec)
  /-- VXOR (0x58, R191): Lane-wise bitwise exclusive or. -/
  | vxor (r : NodeRec)
  /-- VSHL (0x59, R191): Lane-wise shift left. -/
  | vshl (r : NodeRec)
  /-- VSHR (0x5A, R191): Lane-wise shift right. -/
  | vshr (r : NodeRec)
  /-- VCMP (0x5B, R191): Lane-wise integer compare into a mask. -/
  | vcmp (r : NodeRec)
  /-- VSEL (0x5C, R191): Lane-wise select by a mask. -/
  | vsel (r : NodeRec)
  /-- VABS (0x5D, R191): Lane-wise integer absolute value. -/
  | vabs (r : NodeRec)
  /-- VDOT4 (0x5E, R192): Four-way byte dot products accumulated into 32-bit lanes. -/
  | vdot4 (r : NodeRec)
  /-- VPOPC (0x5F, R191): Lane-wise count of set bits. -/
  | vpopc (r : NodeRec)
  /-- VPERM (0x60, R194): Permutes lanes by an index token. -/
  | vperm (r : NodeRec)
  /-- VSLIDE (0x61, R194): Slides lanes up or down by a distance. -/
  | vslide (r : NodeRec)
  /-- VPACK (0x62, R195): Narrows two tokens' lanes into one. -/
  | vpack (r : NodeRec)
  /-- VUNPK (0x63, R195): Widens half of a token's lanes. -/
  | vunpk (r : NodeRec)
  /-- VRED (0x64, R196): Reduces all lanes into lane 0. -/
  | vred (r : NodeRec)
  /-- VSCAN (0x65, R196): Computes the inclusive prefix over lanes. -/
  | vscan (r : NodeRec)
  /-- VINS (0x66, R194): Inserts a control value into one lane. -/
  | vins (r : NodeRec)
  /-- VMASK (0x67, R197): Packs a mask into bits. -/
  | vmask (r : NodeRec)
  /-- VIOTA (0x68, R194): Writes base + i into each lane. -/
  | viota (r : NodeRec)
  /-- VFADD (0x70, R199): Lane-wise floating addition rounded once. -/
  | vfadd (r : NodeRec)
  /-- VFSUB (0x71, R199): Lane-wise floating subtraction rounded once. -/
  | vfsub (r : NodeRec)
  /-- VFMUL (0x72, R199): Lane-wise floating multiplication rounded once. -/
  | vfmul (r : NodeRec)
  /-- VFMA (0x73, R199): Lane-wise fused multiply-add rounded once. -/
  | vfma (r : NodeRec)
  /-- VFMIN (0x74, R200): Lane-wise floating minimum. -/
  | vfmin (r : NodeRec)
  /-- VFMAX (0x75, R200): Lane-wise floating maximum. -/
  | vfmax (r : NodeRec)
  /-- VFABS (0x76, R200): Clears the sign of each lane. -/
  | vfabs (r : NodeRec)
  /-- VFNEG (0x77, R200): Inverts the sign of each lane. -/
  | vfneg (r : NodeRec)
  /-- VFCMP (0x78, R201): Lane-wise floating compare into a mask. -/
  | vfcmp (r : NodeRec)
  /-- VFDIV (0x79, R199): Lane-wise correctly rounded division. -/
  | vfdiv (r : NodeRec)
  /-- VFSQRT (0x7A, R199): Lane-wise correctly rounded square root. -/
  | vfsqrt (r : NodeRec)
  /-- VFRCP (0x7B, R149): Lane-wise correctly rounded reciprocal. -/
  | vfrcp (r : NodeRec)
  /-- VFRSQ (0x7C, R149): Lane-wise correctly rounded reciprocal square root. -/
  | vfrsq (r : NodeRec)
  /-- VFEXP2 (0x7D, R149): Lane-wise correctly rounded 2^x. -/
  | vfexp2 (r : NodeRec)
  /-- VFLOG2 (0x7E, R149): Lane-wise correctly rounded log2. -/
  | vflog2 (r : NodeRec)
  /-- VFCLS (0x7F, R202): Classifies each lane into one set bit. -/
  | vfcls (r : NodeRec)
  /-- VCVT (0x80, R204): Converts lanes between types. -/
  | vcvt (r : NodeRec)
  /-- QCVT (0x81, R205): Quantises a block of 32 f32 values to a narrow format with its scale. -/
  | qcvt (r : NodeRec)
  /-- DQCVT (0x82, R206): Dequantises a block of narrow values by its metadata. -/
  | dqcvt (r : NodeRec)
  /-- FCVT (0x83, R207): Converts one control-plane value between types. -/
  | fcvt (r : NodeRec)
  /-- SFOP (0x84, R208): Computes one control-plane floating operation selected by VAR. -/
  | sfop (r : NodeRec)
  /-- VRND (0x85, R210): Rounds each lane to an integral value. -/
  | vrnd (r : NodeRec)
  /-- LD (0x90, R218): Loads a control-plane value. -/
  | ld (r : NodeRec)
  /-- ST (0x91, R219): Stores a control-plane value at commit. -/
  | st (r : NodeRec)
  /-- VLD (0x92, R218): Loads a data-plane value. -/
  | vld (r : NodeRec)
  /-- VST (0x93, R219): Stores a data-plane value at commit. -/
  | vst (r : NodeRec)
  /-- LDX (0x94, R220): Bounds-checked indexed control-plane load. -/
  | ldx (r : NodeRec)
  /-- STX (0x95, R220): Bounds-checked indexed control-plane store. -/
  | stx (r : NodeRec)
  /-- LDL (0x96, R221): Loads through a handle and lowers the buffer's use count at commit. -/
  | ldl (r : NodeRec)
  /-- VLDX (0x97, R220): Bounds-checked indexed data-plane load. -/
  | vldx (r : NodeRec)
  /-- VSTX (0x98, R220): Bounds-checked indexed data-plane store. -/
  | vstx (r : NodeRec)
  /-- PREF (0x99, R222): Starts moving a translation and line toward the bay. -/
  | pref (r : NodeRec)
  /-- ATOM (0xA0, R225): Performs an atomic update at the home at commit and returns the old value. -/
  | atom (r : NodeRec)
  /-- CAS (0xA1, R225): Performs a compare-and-swap at the home at commit. -/
  | cas (r : NodeRec)
  /-- ILD (0xA2, R229): Reads a structure word, parking a reader record when it is empty. -/
  | ild (r : NodeRec)
  /-- IST (0xA3, R230): Fills a structure word once at commit and re-emits to parked readers. -/
  | ist (r : NodeRec)
  /-- ICLR (0xA4, R231): Empties a structure word at commit. -/
  | iclr (r : NodeRec)
  /-- CMB (0xA5, R232): Sends a combine partial to its home at commit. -/
  | cmb (r : NodeRec)
  /-- FENCE (0xA6, R235): Orders the strand's accesses at its scope. -/
  | fence (r : NodeRec)
  /-- BAR_ARRIVE (0xA7, R237): Arrives at a barrier phase at commit and emits the phase word. -/
  | barArrive (r : NodeRec)
  /-- BAR_WAIT (0xA7, R238): Waits until a barrier phase completes, as an acquire. -/
  | barWait (r : NodeRec)
  /-- PUBLISH (0xA8, R241): Flips a shadow-capable page's selector at commit. -/
  | publish (r : NodeRec)
  /-- SHADOW (0xA9, R239): Emits a page's shadow alias and optionally copies live into shadow at commit. -/
  | shadow (r : NodeRec)
  /-- RDG_ST (0xAA, R244): Queues a Ridge write at commit and emits its position word when sent. -/
  | rdgSt (r : NodeRec)
  /-- RDG_LD (0xAB, R245): Reads bytes of a Ridge entry from the course's mirror. -/
  | rdgLd (r : NodeRec)
  /-- RDG_WAIT (0xAC, R245): Waits until the mirror holds every Ridge write up to a position. -/
  | rdgWait (r : NodeRec)
  /-- TICK_RD (0xAD, R246): Emits the pod time base. -/
  | tickRd (r : NodeRec)
  /-- TICK_UNTIL (0xAD, R246): Waits until the pod time passes A. -/
  | tickUntil (r : NodeRec)
  /-- GATE_LOAD (0xB0, R269): Requests a gate stream copying a pattern from memory into a buffer. -/
  | gateLoad (r : NodeRec)
  /-- GATE_STORE (0xB1, R269): Requests a gate stream copying a buffer into a pattern in memory. -/
  | gateStore (r : NodeRec)
  /-- GATE_FEED (0xB2, R270): Requests a gate stream that sends each beat into a frame of its own. -/
  | gateFeed (r : NodeRec)
  /-- GATE_DRAIN (0xB3, R271): Opens a stream context to receive data beats into a pattern. -/
  | gateDrain (r : NodeRec)
  /-- GATE_FENCE (0xB4, R272): Completes when every earlier stream of the gate has completed. -/
  | gateFence (r : NodeRec)
  /-- GATE_QRY (0xB5, R275): Emits the state of a stream context. -/
  | gateQry (r : NodeRec)
  /-- GATE_CANCEL (0xB6, R275): Stops a stream and sends its completion poisoned. -/
  | gateCancel (r : NodeRec)
  /-- MX_LDB (0xC0, R256): Loads a B bank from a column-major tile and its metadata. -/
  | mxLdb (r : NodeRec)
  /-- MX_GATHER (0xC1, R258): Gathers 16 rows of the A latch by index. -/
  | mxGather (r : NodeRec)
  /-- MX_LDA (0xC2, R257): Loads the A latch from rows and metadata. -/
  | mxLda (r : NodeRec)
  /-- MX_MMA (0xC3, R260): Multiplies the A latch by a B bank into an accumulator under a pour permit. -/
  | mxMma (r : NodeRec)
  /-- MX_SCALE (0xC4, R259): Writes one metadata entry named by a scale word. -/
  | mxScale (r : NodeRec)
  /-- MX_DRAIN (0xC5, R262): Converts and writes an accumulator's rows to memory. -/
  | mxDrain (r : NodeRec)
  /-- MX_ZERO (0xC6, R263): Clears an accumulator. -/
  | mxZero (r : NodeRec)
  /-- MX_ADDC (0xC7, R263): Adds a row of 128 values into every live accumulator row. -/
  | mxAddc (r : NodeRec)
  /-- MX_QRY (0xC8, R264): Emits a selected status word of the crucible frame. -/
  | mxQry (r : NodeRec)
  /-- SPAWN (0xD0, R302): Reserves a heap entry and enqueues a task with a gain at commit. -/
  | spawn (r : NodeRec)
  /-- GAIN_ADD (0xD1, R303): Adds a delta to a task's gain at commit, re-keying or queuing it. -/
  | gainAdd (r : NodeRec)
  /-- GAIN_TAKE (0xD2, R304): Armed source node that repeatedly takes a frame and pops a task from its course's heap. -/
  | gainTake (r : NodeRec)
  /-- GAIN_DONE (0xD3, R305): Ends a running task at commit, removing its taken gain and requeuing it if active. -/
  | gainDone (r : NodeRec)
  /-- RESID_RD (0xD4, R306): Emits the residual sum. -/
  | residRd (r : NodeRec)
  /-- TOL_WR (0xD5, R306): Sets the tolerance at commit. -/
  | tolWr (r : NodeRec)
  /-- HEAP_Q (0xD6, R306): Emits a selected word about the course's heap. -/
  | heapQ (r : NodeRec)
  /-- GAIN_SET (0xD7, R303): Sets a task's gain at commit, re-keying or queuing it. -/
  | gainSet (r : NodeRec)
  /-- CTX_NEW (0xE0, R284): Creates a child context from a creation record and holding list. -/
  | ctxNew (r : NodeRec)
  /-- CTX_GRANT (0xE1, R285): Grants holding entries to a child. -/
  | ctxGrant (r : NodeRec)
  /-- CTX_REVOKE (0xE2, R418): Takes holding entries back from a child and its descendants. -/
  | ctxRevoke (r : NodeRec)
  /-- CTX_RUN (0xE3, R286): Makes a stopped child runnable. -/
  | ctxRun (r : NodeRec)
  /-- CTX_STOP (0xE4, R286): Makes a child not runnable and waits until its subtree holds no slice. -/
  | ctxStop (r : NodeRec)
  /-- CTX_DEL (0xE5, R287): Deletes a child and its whole subtree. -/
  | ctxDel (r : NodeRec)
  /-- CTX_RST (0xE6, R287): Resets a child's subtree, keeping numbers and holdings. -/
  | ctxRst (r : NodeRec)
  /-- CSR_RD (0xE7, R288): Reads a special register of its target. -/
  | csrRd (r : NodeRec)
  /-- CSR_WR (0xE8, R288): Writes a special register of its target at commit. -/
  | csrWr (r : NodeRec)
  /-- TRAP (0xE9, R291): Raises fault kind TRAP, hard or soft. -/
  | trap (r : NodeRec)
  /-- REPAIR (0xEA, R292): Answers a named fault with the verdict of its VAR at commit. -/
  | repair (r : NodeRec)
  /-- HOST_SIG (0xEB, R293): Queues a payload on a host endpoint at commit. -/
  | hostSig (r : NodeRec)
  /-- CFG_LOAD (0xEC, R294): Requests a fill of a course's shadow banks from a Thatch plane. -/
  | cfgLoad (r : NodeRec)
  /-- CFG_FLIP (0xED, R295): Exchanges active and shadow banks of a course in one Ridge beat at commit. -/
  | cfgFlip (r : NodeRec)
  /-- LAUNCH (0xEE, R296): Queues a kernel in the issuing context or a descendant. -/
  | launch (r : NodeRec)
  /-- PERMIT (0xEF, R297): Sets the context's permit ceiling on its course. -/
  | permit (r : NodeRec)
  /-- POWER_MEASURE (R451): The stack power controller measures package power every microsecond. -/
  | powerMeasure
  /-- TIME_SYNC (R450): Once per ms each stack measures link delays by timestamp exchange and corrects its pod time base. -/
  | timeSync
  /-- POWER_GOOD (R454): Power-good starts bring-up through its seven phases until READY is set. -/
  | powerGood
  /-- WFENCE (R437): A host read of WFENCE returns 0 once every earlier host window write is performed at its GDDR controller. -/
  | wfence
  /-- CTX_CREATE (R439): The host creates a runnable depth-1 context from context 0's holdings. -/
  | ctxCreate
  /-- CTX_DELETE (R439): The host deletes a depth-1 context and its subtree. -/
  | ctxDelete
  /-- PLANE_PUT (R114): The host puts an ECXO plane into the Thatch through the loader checks. -/
  | planePut
  /-- LAUNCH_MESSAGE (R439): The host queues a kernel from a launch record and receives its kernel word. -/
  | launchMessage
  /-- MEM_COPY_TO_DEVICE (R439): The host copies bytes from host memory into device memory as a SYS-scope release. -/
  | memCopyToDevice
  /-- MEM_COPY_TO_HOST (R439): The host copies bytes from device memory to host memory. -/
  | memCopyToHost
  /-- MEM_COPY_DEVICE (R439): The host copies bytes from one device address to another. -/
  | memCopyDevice
  /-- CHECKPOINT (R444): The host stops and freezes a subtree or the stack and writes its image to host memory. -/
  | checkpoint
  /-- CHECKPOINT_DEBUG (R446): A debug checkpoint stops every clock of the stack, writes the whole capture and leaves FROZEN set. -/
  | checkpointDebug
  /-- RESTORE_MESSAGE (R445): The host restores a checkpointed subtree from an image after checking its digest and holdings. -/
  | restoreMessage
  /-- ATTEST_REPORT (R447): The root of trust returns a signed report over the nonce, ROM, key and policy state. -/
  | attestReport
  /-- ATTEST_CHAIN (R447): The root of trust returns the identity key's certificate chain. -/
  | attestChain
  /-- TELEM_POWER (R452): TELEM selector 0 returns package power and every course's step. -/
  | telemPower
  /-- TELEM_TEMPERATURE (R452): TELEM selector 1 returns temperatures. -/
  | telemTemperature
  /-- TELEM_ERRORS (R452): TELEM selector 2 returns error counts and retired banks. -/
  | telemErrors
  /-- TELEM_SLEEP (R452): TELEM selector 3 returns each course's sleep state. -/
  | telemSleep
  /-- TELEM_SYNC (R452): TELEM selector 4 returns the sync flag and master stack. -/
  | telemSync
  /-- RESET_STACK (R455): RESET of the stack repeats bring-up phases 3 to 7 and leaves only context 0. -/
  | resetStack
  /-- RESET_CONTEXT (R439): RESET of a depth-1 context resets its subtree as CTX.RST does. -/
  | resetContext
  /-- EP_SEND (R439): The host fills a structure word of a context through an endpoint with IST.rel.sys. -/
  | epSend
  /-- POLICY_POWER_LIMIT (R448): POLICY selector 0 sets the package power limit. -/
  | policyPowerLimit
  /-- POLICY_SLEEP (R448): POLICY selector 1 allows or forbids retention and off sleep. -/
  | policySleep
  /-- POLICY_SPARE_BANKS (R448): POLICY selector 2 sets the spare banks withheld per course. -/
  | policySpareBanks
  /-- POLICY_SIGNED_PLANES (R448): POLICY selector 3 sets whether signed planes are required. -/
  | policySignedPlanes
  /-- POLICY_KEY_INSTALL (R448): POLICY selector 4 installs a plane-signing public key. -/
  | policyKeyInstall
  /-- HOST_LINK_DOWN (R293): The UCIe host link goes down, so HOST.SIG queues nothing and returns pred 0. -/
  | hostLinkDown
  deriving DecidableEq, Repr

end Sys2Proof
end

