-- ==== Sys2Proof/WellFormed.lean ====
section
/-! DEFINITION. Sys2Proof/WellFormed.lean: which node records plane validation accepts, from the record alone
(R115 to R131 and the field tables of the instruction chapters). A refusal is named by its code of R132. The checks
that need the whole plane (target planes, blocks, pools, maps) stand in Machine/Validate.lean. -/

namespace Sys2Proof

/-- How a record's LIT is read when it is checked (R122 to R124). -/
inductive LitRule where
  /-- every bit 0 unless AR takes a literal value (R122) -/
  | value
  /-- always a literal value (LIT, SRC) -/
  | always
  /-- memory record (R123): OWN is 1 to 126; the flag says that OFF must be 0 -/
  | mem (offZero : Bool)
  /-- bits outside the mask are 0 -/
  | mask (m : Nat)
  /-- the rule of its own named by the OP's entry -/
  | own (n : Nat)
  deriving DecidableEq, Repr

/-- What an OP accepts in each field, as bit masks over the field's codes. -/
structure OpInfo where
  vars : Nat
  tys : Nat
  ars : Nat
  tgs : Nat
  pls : Nat
  scopes : Nat := 0
  orders : Nat := 0
  lit : LitRule := .value
  deriving DecidableEq, Repr

/-- Code k is in the mask m. -/
def inMask (m k : Nat) : Bool := m / 2 ^ k % 2 == 1

/-! The field tables of the instruction chapters (R160, R165, R174, R182, R190, R193, R198, R203, R217, R224, R227,
R232, R235 to R242, R246, R255, R266, R278, R299): first OP, last OP, what they accept. -/

/-- Field table: token plumbing. -/
def opRows0 : List (Nat × Nat × OpInfo) := [
  (0x01, 0x01, ⟨0x1, 0xBFFF, 0x1, 0xB, 3, 0x0, 0, .value⟩),
  (0x02, 0x02, ⟨0x1, 0xBFFF, 0x1, 0x1, 3, 0x0, 0, .value⟩),
  (0x03, 0x03, ⟨0x1, 0xBFFF, 0x1, 0xF, 1, 0x0, 0, .always⟩),
  (0x04, 0x04, ⟨0x1, 0xBFFF, 0x20, 0xB, 1, 0x0, 0, .always⟩),
  (0x05, 0x05, ⟨0x1, 0xBFFF, 0x2, 0xB, 3, 0x0, 0, .value⟩),
  (0x06, 0x06, ⟨0x1, 0xBFFF, 0x18, 0xB, 3, 0x0, 0, .value⟩),
  (0x07, 0x07, ⟨0x1, 0xBFFF, 0xA, 0xB, 3, 0x0, 0, .value⟩),
  (0x08, 0x08, ⟨0x1, 0xBFFF, 0x1E, 0xF, 3, 0x0, 0, .value⟩),
  (0x09, 0x09, ⟨0x1, 0xBFFF, 0x3, 0xC, 3, 0x0, 0, .mask 0xF⟩),
  (0x0A, 0x0A, ⟨0x1, 0xBFFF, 0x3, 0xC, 3, 0x0, 0, .mask 0x3FFF⟩),
  (0x0B, 0x0B, ⟨0x1, 0x3FFF, 0x1, 0xB, 2, 0x0, 0, .value⟩),
  (0x0C, 0x0C, ⟨0x1, 0x3FFF, 0x6, 0xB, 1, 0x0, 0, .value⟩)]

/-- Field table: tags, casts and room. -/
def opRows1 : List (Nat × Nat × OpInfo) := [
  (0x10, 0x10, ⟨0x1, 0xFF, 0x1, 0xB, 1, 0x0, 0, .value⟩),
  (0x11, 0x11, ⟨0x1, 0xFF, 0x6, 0xB, 1, 0x0, 0, .value⟩),
  (0x12, 0x12, ⟨0x1, 0xBFFF, 0x2, 0x4, 1, 0x0, 0, .own 0x12⟩),
  (0x13, 0x13, ⟨0x1, 0xBFFF, 0x1, 0x8, 1, 0x0, 0, .value⟩),
  (0x14, 0x14, ⟨0x1, 0xBFFF, 0x1, 0x1, 1, 0x0, 0, .value⟩),
  (0x15, 0x15, ⟨0x1, 0xBFFF, 0x2, 0xB, 1, 0x0, 0, .value⟩),
  (0x16, 0x16, ⟨0x1, 0xFF, 0x6, 0xB, 1, 0x0, 0, .value⟩),
  (0x20, 0x20, ⟨0x3, 0xFF, 0x1, 0xB, 1, 0x0, 0, .mask 0xFF07⟩),
  (0x21, 0x21, ⟨0x1, 0xFF, 0x1, 0xB, 1, 0x0, 0, .own 0x21⟩),
  (0x22, 0x22, ⟨0x1, 0xFF, 0x1, 0xB, 1, 0x0, 0, .value⟩),
  (0x23, 0x23, ⟨0x1, 0xFF, 0x1, 0xB, 1, 0x0, 0, .own 0x23⟩),
  (0x24, 0x27, ⟨0x1, 0xFF, 0x1, 0xB, 1, 0x0, 0, .value⟩),
  (0x28, 0x28, ⟨0x1, 0xFF, 0x1, 0xB, 1, 0x0, 0, .own 0x28⟩)]

/-- Field table: integers. -/
def opRows2 : List (Nat × Nat × OpInfo) := [
  (0x30, 0x35, ⟨0x1, 0xFF, 0x6, 0xB, 1, 0x0, 0, .value⟩),
  (0x36, 0x36, ⟨0x1, 0xFF, 0x18, 0xB, 1, 0x0, 0, .value⟩),
  (0x37, 0x38, ⟨0x1, 0xFF, 0x1, 0xB, 1, 0x0, 0, .value⟩),
  (0x39, 0x3D, ⟨0x1, 0xFF, 0x6, 0xB, 1, 0x0, 0, .value⟩),
  (0x3E, 0x3E, ⟨0x1, 0xFF, 0x1, 0xB, 1, 0x0, 0, .value⟩),
  (0x3F, 0x43, ⟨0x1, 0xFF, 0x6, 0xB, 1, 0x0, 0, .value⟩),
  (0x44, 0x45, ⟨0x1, 0xFF, 0x1, 0xB, 1, 0x0, 0, .value⟩),
  (0x46, 0x46, ⟨0x3F, 0xFF, 0x6, 0xB, 1, 0x0, 0, .value⟩),
  (0x47, 0x47, ⟨0x7F, 0xFF, 0x6, 0xB, 1, 0x0, 0, .value⟩),
  (0x48, 0x48, ⟨0x1, 0xFF, 0x6, 0xB, 1, 0x0, 0, .value⟩),
  (0x49, 0x49, ⟨0x1, 0xFF, 0x18, 0xB, 1, 0x0, 0, .value⟩),
  (0x4A, 0x4A, ⟨0x7, 0xFF, 0x1, 0xB, 1, 0x0, 0, .value⟩),
  (0x4B, 0x4B, ⟨0x1, 0xFF, 0x6, 0xB, 1, 0x0, 0, .value⟩),
  (0x4C, 0x4C, ⟨0x1, 0xFF, 0x18, 0xB, 1, 0x0, 0, .value⟩)]

/-- Field table: vector integers and lane movement. -/
def opRows3 : List (Nat × Nat × OpInfo) := [
  (0x50, 0x52, ⟨0x3, 0xFF, 0x6, 0xB, 2, 0x0, 0, .value⟩),
  (0x53, 0x53, ⟨0x1, 0xFF, 0x18, 0xB, 2, 0x0, 0, .value⟩),
  (0x54, 0x5A, ⟨0x1, 0xFF, 0x6, 0xB, 2, 0x0, 0, .value⟩),
  (0x5B, 0x5B, ⟨0x3F, 0xFF, 0x6, 0xB, 2, 0x0, 0, .value⟩),
  (0x5C, 0x5C, ⟨0x1, 0x1FFF, 0x8, 0xB, 2, 0x0, 0, .value⟩),
  (0x5D, 0x5D, ⟨0x1, 0xFF, 0x1, 0xB, 2, 0x0, 0, .value⟩),
  (0x5E, 0x5E, ⟨0x1, 0x44, 0x1A, 0xB, 2, 0x0, 0, .value⟩),
  (0x5F, 0x5F, ⟨0x1, 0xFF, 0x1, 0xB, 2, 0x0, 0, .value⟩),
  (0x60, 0x60, ⟨0x1, 0x1FFF, 0x2, 0xB, 2, 0x0, 0, .value⟩),
  (0x61, 0x61, ⟨0x3, 0x3FFF, 0x3, 0xB, 2, 0x0, 0, .own 0x61⟩),
  (0x62, 0x62, ⟨0x3, 0xEE, 0x2, 0xB, 2, 0x0, 0, .value⟩),
  (0x63, 0x63, ⟨0x3, 0x77, 0x1, 0xB, 2, 0x0, 0, .value⟩),
  (0x64, 0x65, ⟨0x7F, 0x7FF, 0x1, 0xB, 2, 0x0, 0, .value⟩),
  (0x66, 0x66, ⟨0x1, 0x3FFF, 0x18, 0xB, 2, 0x0, 0, .value⟩),
  (0x67, 0x67, ⟨0x1, 0x1FFF, 0x1, 0xB, 2, 0x0, 0, .value⟩),
  (0x68, 0x68, ⟨0x1, 0xFF, 0x5, 0xB, 2, 0x0, 0, .value⟩)]

/-- Field table: vector floating point and conversion. -/
def opRows4 : List (Nat × Nat × OpInfo) := [
  (0x70, 0x72, ⟨0x3F, 0x700, 0x6, 0xB, 2, 0x0, 0, .value⟩),
  (0x73, 0x73, ⟨0x3F, 0x700, 0x18, 0xB, 2, 0x0, 0, .value⟩),
  (0x74, 0x75, ⟨0x1, 0x700, 0x6, 0xB, 2, 0x0, 0, .value⟩),
  (0x76, 0x77, ⟨0x1, 0x700, 0x1, 0xB, 2, 0x0, 0, .value⟩),
  (0x78, 0x78, ⟨0xFF, 0x700, 0x6, 0xB, 2, 0x0, 0, .value⟩),
  (0x79, 0x79, ⟨0x3F, 0x700, 0x6, 0xB, 2, 0x0, 0, .value⟩),
  (0x7A, 0x7A, ⟨0x3F, 0x700, 0x1, 0xB, 2, 0x0, 0, .value⟩),
  (0x7B, 0x7F, ⟨0x1, 0x700, 0x1, 0xB, 2, 0x0, 0, .value⟩),
  (0x80, 0x80, ⟨0x3F3F, 0x3FFF, 0xB, 0xB, 2, 0x0, 0, .own 0x80⟩),
  (0x81, 0x81, ⟨0x3F3F, 0x3800, 0xA, 0xB, 2, 0x0, 0, .own 0x81⟩),
  (0x82, 0x82, ⟨0x3F, 0x700, 0x2, 0xB, 2, 0x0, 0, .own 0x82⟩),
  (0x83, 0x83, ⟨0x3F3F, 0x3FFF, 0x1, 0xB, 1, 0x0, 0, .own 0x83⟩),
  (0x84, 0x84, ⟨0xFF, 0x700, 0x1F, 0xB, 1, 0x0, 0, .own 0x84⟩),
  (0x85, 0x85, ⟨0xF, 0x700, 0x1, 0xB, 2, 0x0, 0, .value⟩)]

/-- Field table: memory, atomics and synchronisation. -/
def opRows5 : List (Nat × Nat × OpInfo) := [
  (0x90, 0x90, ⟨0x1, 0x1FFF, 0x1, 0xB, 1, 0x6F, 3, .mem false⟩),
  (0x91, 0x91, ⟨0x1, 0x1FFF, 0x2, 0xB, 1, 0x6F, 5, .mem false⟩),
  (0x92, 0x92, ⟨0xF, 0x3FFF, 0x1, 0xB, 2, 0x6F, 3, .mem false⟩),
  (0x93, 0x93, ⟨0xF, 0x3FFF, 0x2, 0xB, 2, 0x6F, 5, .mem false⟩),
  (0x94, 0x94, ⟨0x1, 0x1FFF, 0x2, 0xB, 1, 0x6F, 3, .mem false⟩),
  (0x95, 0x95, ⟨0x1, 0x1FFF, 0x8, 0xB, 1, 0x6F, 5, .mem false⟩),
  (0x96, 0x96, ⟨0x1, 0x1FFF, 0x1, 0xB, 1, 0x6F, 3, .mem false⟩),
  (0x97, 0x97, ⟨0xF, 0x3FFF, 0x2, 0xB, 2, 0x6F, 3, .mem false⟩),
  (0x98, 0x98, ⟨0xF, 0x3FFF, 0x8, 0xB, 2, 0x6F, 5, .mem false⟩),
  (0x99, 0x99, ⟨0x1, 0xBFFF, 0x1, 0xB, 1, 0x6F, 1, .mem false⟩),
  (0xA0, 0xA0, ⟨0xFF, 0x1CC, 0x2, 0xB, 1, 0x6F, 15, .mem false⟩),
  (0xA1, 0xA1, ⟨0x1, 0xCC, 0x8, 0xB, 1, 0x6F, 15, .mem false⟩),
  (0xA2, 0xA2, ⟨0x1, 0xBFFF, 0x1, 0xB, 1, 0x6F, 2, .mem false⟩),
  (0xA3, 0xA3, ⟨0x1, 0xBFFF, 0x2, 0xB, 1, 0x6F, 4, .mem false⟩),
  (0xA4, 0xA4, ⟨0x1, 0xBFFF, 0x1, 0xB, 1, 0x6F, 5, .mem false⟩),
  (0xA5, 0xA5, ⟨0x7F, 0x1CC, 0x8, 0xB, 3, 0x6F, 15, .mem false⟩),
  (0xA6, 0xA6, ⟨0x3, 0xBFFF, 0x1, 0xB, 1, 0x7F, 14, .mem true⟩),
  (0xA7, 0xA7, ⟨0x3, 0xBFFF, 0x3, 0xB, 1, 0x3E, 7, .mem false⟩),
  (0xA8, 0xA8, ⟨0x1, 0xBFFF, 0x1, 0xB, 1, 0x7F, 4, .mem false⟩),
  (0xA9, 0xA9, ⟨0x1, 0xBFFF, 0x1, 0xB, 1, 0x0, 0, .mask 1⟩),
  (0xAA, 0xAA, ⟨0x1, 0xBFFF, 0x2, 0xB, 3, 0x10, 5, .mem false⟩),
  (0xAB, 0xAB, ⟨0x1, 0xBFFF, 0x1, 0xB, 3, 0x10, 3, .mem false⟩),
  (0xAC, 0xAC, ⟨0x1, 0xBFFF, 0x1, 0xB, 1, 0x0, 0, .value⟩),
  (0xAD, 0xAD, ⟨0x3, 0xBFFF, 0x1, 0xB, 1, 0x0, 0, .value⟩)]

/-- Field table: gates and crucibles. -/
def opRows6 : List (Nat × Nat × OpInfo) := [
  (0xB0, 0xB2, ⟨0x1, 0xBFFF, 0x2, 0xB, 1, 0x0, 0, .own 0xB0⟩),
  (0xB3, 0xB3, ⟨0x1, 0xBFFF, 0x1, 0xB, 1, 0x0, 0, .own 0xB0⟩),
  (0xB4, 0xB4, ⟨0x1, 0xBFFF, 0x1, 0xB, 1, 0x0, 0, .value⟩),
  (0xB5, 0xB6, ⟨0x1, 0xBFFF, 0x1, 0xB, 1, 0x0, 0, .mask 3⟩),
  (0xC0, 0xC0, ⟨0x3, 0x3E00, 0x1, 0x9, 1, 0x0, 0, .own 0xC0⟩),
  (0xC1, 0xC1, ⟨0x1, 0x3E00, 0x8, 0x9, 1, 0x0, 0, .own 0xC0⟩),
  (0xC2, 0xC2, ⟨0x1, 0x3E00, 0x2, 0x9, 1, 0x0, 0, .own 0xC0⟩),
  (0xC3, 0xC3, ⟨0xFFFF, 0x3E00, 0x42, 0x9, 1, 0x0, 0, .own 0xC3⟩),
  (0xC4, 0xC4, ⟨0x1, 0xBFFF, 0x1, 0x9, 1, 0x0, 0, .value⟩),
  (0xC5, 0xC5, ⟨0xF, 0x1F00, 0x2, 0x9, 1, 0x0, 0, .own 0xC5⟩),
  (0xC6, 0xC6, ⟨0xF, 0xBFFF, 0x1, 0x9, 1, 0x0, 0, .value⟩),
  (0xC7, 0xC7, ⟨0xF, 0x700, 0x1, 0x9, 1, 0x0, 0, .value⟩),
  (0xC8, 0xC8, ⟨0x1, 0xBFFF, 0x1, 0x9, 1, 0x0, 0, .own 0xC8⟩)]

/-- Field table: heap, contexts and configuration. -/
def opRows7 : List (Nat × Nat × OpInfo) := [
  (0xD0, 0xD0, ⟨0x1, 0x100, 0x2, 0xB, 1, 0x0, 0, .value⟩),
  (0xD1, 0xD1, ⟨0x1, 0x100, 0x6, 0xB, 1, 0x0, 0, .value⟩),
  (0xD2, 0xD2, ⟨0x1, 0xBFFF, 0x20, 0x1, 1, 0x0, 0, .mask 0xFF01⟩),
  (0xD3, 0xD3, ⟨0x1, 0x100, 0x1, 0xB, 1, 0x0, 0, .value⟩),
  (0xD4, 0xD4, ⟨0x1, 0x8, 0x1, 0xB, 1, 0x0, 0, .value⟩),
  (0xD5, 0xD5, ⟨0x1, 0x8, 0x6, 0xB, 1, 0x0, 0, .value⟩),
  (0xD6, 0xD6, ⟨0x1, 0xBFFF, 0x1, 0xB, 1, 0x0, 0, .own 0xC8⟩),
  (0xD7, 0xD7, ⟨0x1, 0x100, 0x6, 0xB, 1, 0x0, 0, .value⟩),
  (0xE0, 0xE0, ⟨0x1, 0xFF, 0x1, 0xB, 1, 0x0, 0, .value⟩),
  (0xE1, 0xE2, ⟨0x1, 0xFF, 0x8, 0xB, 1, 0x0, 0, .value⟩),
  (0xE3, 0xE6, ⟨0x1, 0xFF, 0x1, 0xB, 1, 0x0, 0, .value⟩),
  (0xE7, 0xE7, ⟨0x1, 0xFF, 0x1, 0xB, 1, 0x0, 0, .mask 0xFFF⟩),
  (0xE8, 0xE8, ⟨0x1, 0xFF, 0x6, 0xB, 1, 0x0, 0, .own 0xE8⟩),
  (0xE9, 0xE9, ⟨0x1, 0xFF, 0x1, 0xB, 1, 0x0, 0, .mask 0x1FFFF⟩),
  (0xEA, 0xEA, ⟨0x1F, 0xFF, 0x1, 0xB, 1, 0x0, 0, .value⟩),
  (0xEB, 0xEB, ⟨0x1, 0xFF, 0x1, 0xB, 1, 0x0, 0, .mask 0x3F⟩),
  (0xEC, 0xEC, ⟨0x1, 0xFF, 0x6, 0xB, 1, 0x0, 0, .value⟩),
  (0xED, 0xED, ⟨0x1, 0xFF, 0x1, 0xB, 1, 0x0, 0, .value⟩),
  (0xEE, 0xEE, ⟨0x1, 0xFF, 0x1, 0xB, 1, 0x0, 0, .value⟩),
  (0xEF, 0xEF, ⟨0x1, 0xFF, 0x6, 0xB, 1, 0x0, 0, .value⟩)]

/-- The rows of every OP that the opcode map assigns (R128). -/
def opRows : List (Nat × Nat × OpInfo) :=
  opRows0 ++ opRows1 ++ opRows2 ++ opRows3 ++ opRows4 ++ opRows5 ++ opRows6 ++ opRows7

/-- What an OP accepts; none for an OP that R128 leaves unassigned. -/
def opInfo (op : Nat) : Option OpInfo :=
  (opRows.find? fun x => x.1 ≤ op && op ≤ x.2.1).map (·.2.2)

/-- "No destination" (R120). -/
def noDest : BitVec 21 := 0x1FFFFF#21

/-- A destination that R120 accepts. -/
def destOk (d : BitVec 21) : Bool :=
  let el := bitsAt d 8 13
  let node := bitsAt d 2 6
  d == noDest || el < 0x1000 || (el < 0x1018 && node < 16) || (0x1100 ≤ el && el < 0x1200 && node < 4)

/-- LIT selects an element constant (R122). -/
def isConstSel (lit : BitVec 32) : Bool := bitsAt lit 4 28 == 0x8000000

/-- The lane width of a type (R188); 0 for x37 and pred. -/
def laneWidth (ty : Nat) : Nat :=
  match ty with
  | 0 | 4 | 11 | 12 => 8
  | 1 | 5 | 9 | 10 => 16
  | 2 | 6 | 8 => 32
  | 3 | 7 => 64
  | 13 => 4
  | _ => 0

/-- A literal value within the limits of R122 for its type. -/
def litValueOk (ty : Nat) (lit : BitVec 32) : Bool :=
  isConstSel lit ||
    (match ty with
     | 9 | 10 => bitsAt lit 16 16 == 0
     | 11 | 12 => bitsAt lit 8 24 == 0
     | 13 => bitsAt lit 4 28 == 0
     | 15 => bitsAt lit 1 31 == 0
     | _ => true)

/-- The AR code takes a literal operand (R117). -/
def arLit (ar : Nat) : Bool := ar == 2 || ar == 4

/-- SFOP's constant selector (R209). -/
def sfopConst (lit : BitVec 32) : Bool := bitsAt lit 7 25 == 0x1000000

/-- The LIT rules that an OP's own entry gives (R124, R167, R176, R177, R181, R193, R203 to R209, R255, R264, R266, R289). -/
def litOwnOk (n : Nat) (r : NodeRec) : Bool :=
  let ar := r.ar.toNat
  let ty := r.ty.toNat
  let l := r.lit
  match n with
  | 0x12 => bitsAt l 21 11 == 0 && destOk (BitVec.ofNat 21 l.toNat)
  | 0x21 => 1 ≤ bitsAt l 16 16 && bitsAt l 16 16 ≤ 61440 && bitsAt l 3 5 == 0
  | 0x23 => l.toNat < 24
  | 0x28 => bitsAt l 8 24 == 0 && bitAt l 3 == false && bitsAt l 4 4 ≤ 10
  | 0x61 => bitsAt l 8 24 == 0 && bitsAt l 0 8 ≤ 512 / laneWidth ty
  | 0x80 => bitsAt l 0 8 == 0 && bitsAt l 12 19 == 0 && bitsAt l 8 4 ≤ 13
  | 0x81 => bitsAt l 8 23 == 0 && (ar != 3 || bitsAt l 0 8 == 0)
  | 0x82 => bitsAt l 0 8 == 0 && bitsAt l 12 20 == 0 && 11 ≤ bitsAt l 8 4 && bitsAt l 8 4 ≤ 13
  | 0x83 => bitsAt l 0 8 == 0 && bitsAt l 12 20 == 0 && bitsAt l 8 4 ≤ 13
  | 0x84 =>
    (r.var.toNat < 6 || bitsAt l 0 3 == 0) &&
      (if arLit ar then ty == 8 || sfopConst l || bitsAt l 3 13 == 0 else bitsAt l 3 29 == 0)
  | 0xB0 => bitsAt l 0 22 != 0
  | 0xC0 => ty != 9 && ty != 10 || l == 0#32
  | 0xC3 => bitsAt l 2 30 == 0 && bitsAt l 0 2 != 3
  | 0xC5 => l.toNat % 64 == 0 && 128 * (laneWidth ty / 8) ≤ l.toNat
  | 0xC8 => l.toNat ≤ 4
  | 0xE8 => if arLit ar then bitAt l 31 == false || bitsAt l 16 15 == 0 else bitsAt l 12 20 == 0
  | _ => false

/-- LIT is within the limits of its rule (code 10 of R132). -/
def litOk (rule : LitRule) (r : NodeRec) : Bool :=
  match rule with
  | .value => if arLit r.ar.toNat then litValueOk r.ty.toNat r.lit else r.lit == 0#32
  | .always => litValueOk r.ty.toNat r.lit
  | .mem offZero => 1 ≤ bitsAt r.lit 25 7 && bitsAt r.lit 25 7 ≤ 126 && (!offZero || bitsAt r.lit 0 6 == 0)
  | .mask m => r.lit.toNat &&& m == r.lit.toNat
  | .own n => litOwnOk n r

/-- VAR rules beyond the mask: an integer reduction on a float type or the converse (R193), `fadd` with an integer type or
another VAR with f32 (R224), and SFOP's rounding code in LIT (R209). A type that the OP takes with no VAR is code 4. -/
def varOk (op : Nat) (r : NodeRec) : Bool :=
  let v := r.var.toNat
  let ty := r.ty.toNat
  match op with
  | 0x64 | 0x65 => decide (0xE ≤ ty) || (v == 6) == decide (8 ≤ ty)
  | 0xA0 => decide (8 < ty) || (v == 7) == (ty == 8)
  | 0x84 => bitsAt r.lit 0 3 < 6
  | _ => true

/-- AR rules beyond the mask: SFOP by its variant (R208), VERT and EAVE by TG (R160), BAR by its variant (R236). -/
def arOk (op : Nat) (r : NodeRec) : Bool :=
  let v := r.var.toNat
  let ar := r.ar.toNat
  match op with
  | 0x09 | 0x0A => (ar == 0) == (r.tg.toNat == 3)
  | 0x84 => if v == 3 then ar == 3 || ar == 4 else if v == 5 then ar == 0 else ar == 1 || ar == 2
  | 0xA7 => (ar == 1) == (v == 0)
  | _ => true

/-- CMB takes f32 with `fadd` and an integer type otherwise (R232). -/
def tyOk (op : Nat) (r : NodeRec) : Bool :=
  match op with
  | 0xA5 => (r.var.toNat == 6) == (r.ty.toNat == 8)
  | _ => true

/-- Order limits beyond the mask: FENCE.sc only acqrel, BAR.arrive rlx or rel, BAR.wait acq (R123). -/
def orderOk (op : Nat) (r : NodeRec) : Bool :=
  let ord := bitsAt r.lit 6 2
  match op with
  | 0xA6 => r.var.toNat == 0 || ord == 3
  | 0xA7 => if r.var.toNat == 0 then ord != 1 else ord == 1
  | _ => true

/-- D0 and D1 by R120, R118 (RETURN), R159 (SINK and EXIT name no result) and R227 (ILD's D1). -/
def destsOk (op : Nat) (r : NodeRec) : Bool :=
  destOk r.d0 && destOk r.d1 &&
    (!(r.tg.toNat == 3 || op == 0x02 || op == 0x14) || (r.d0 == noDest && r.d1 == noDest)) &&
    (op != 0xA2 || r.d1 == noDest) &&
    (op != 0x09 && op != 0x0A || ((r.d0 == noDest || bitsAt r.d0 8 13 < 0x1000) && (r.d1 == noDest || bitsAt r.d1 8 13 < 0x1000)))

/-- The code of R132 under which a record is rejected, from the record alone; none when it is accepted. -/
def recordFault (op : Nat) (r : NodeRec) : Option Nat :=
  match opInfo op with
  | none => some 1
  | some o =>
    let mem := match o.lit with | .mem _ => true | _ => false
    if !inMask o.vars r.var.toNat || !varOk op r then some 2
    else if !inMask o.ars r.ar.toNat || !arOk op r then some 3
    else if !inMask o.tys r.ty.toNat || !tyOk op r then some 4
    else if mem && !inMask o.scopes (bitsAt r.lit 8 3) then some 5
    else if mem && (!inMask o.orders (bitsAt r.lit 6 2) || !orderOk op r) then some 6
    else if !inMask o.tgs r.tg.toNat || !destsOk op r then some 7
    else if !inMask o.pls (if r.pl then 1 else 0) then some 8
    else if !litOk o.lit r then some 10
    else none

/-- The OP of an instruction (R128); none for a machine event. -/
def Instr.op : Instr → Option Nat
  | .tokenArrival _ => none
  | .castCommit _ => none
  | .castAbort _ => none
  | .stall _ => none
  | .compactionMoveDone _ => none
  | .spillTimerExpiry _ => none
  | .spillWriteAck _ => none
  | .waveLoadPerform _ => none
  | .walkComplete _ => none
  | .walkerStart _ => none
  | .cmbPartialArrival _ => none
  | .cmbCellTimeout _ => none
  | .barrierPhaseComplete _ => none
  | .ridgeOccurrence _ => none
  | .ridgeControlWord _ => none
  | .ridgeMirrorApply _ => none
  | .tickUntilExpiry _ => none
  | .crucibleTokenArrival _ => none
  | .crucibleOperationStart _ => none
  | .permitHandout _ => none
  | .burstEnd _ => none
  | .gateStreamBind _ => none
  | .gateFeedBeat _ => none
  | .gateDrainBeat _ => none
  | .gateStreamComplete _ => none
  | .gateStreamFault _ => none
  | .faultDelivery _ => none
  | .verdictApply _ => none
  | .kernelSelect _ => none
  | .kernelStart _ => none
  | .kernelCancel _ => none
  | .gangStartTick _ => none
  | .sourceInjection _ => none
  | .kernelEnd _ => none
  | .heapPop _ => none
  | .sliceEnd _ => none
  | .sweep _ => none
  | .freeze _ => none
  | .sliceResume _ => none
  | .cfgFillComplete _ => none
  | .pagePull _ => none
  | .pullLost _ => none
  | .powerMeasure => none
  | .permitStepLower _ => none
  | .permitStepRaise _ => none
  | .courseRetentionEnter _ => none
  | .courseOffEnter _ => none
  | .courseWake _ => none
  | .scrub _ => none
  | .uncorrectableError _ => none
  | .downpipeFail _ => none
  | .courseFail _ => none
  | .downpipeTestBeat _ => none
  | .timeSync => none
  | .eaveFlitReplay _ => none
  | .eaveLinkLoss _ => none
  | .powerGood => none
  | .wfence => none
  | .ctxCreate => none
  | .ctxDelete => none
  | .planePut => none
  | .launchMessage => none
  | .memCopyToDevice => none
  | .memCopyToHost => none
  | .memCopyDevice => none
  | .checkpoint => none
  | .checkpointDebug => none
  | .restoreMessage => none
  | .attestReport => none
  | .attestChain => none
  | .telemPower => none
  | .telemTemperature => none
  | .telemErrors => none
  | .telemSleep => none
  | .telemSync => none
  | .resetStack => none
  | .resetContext => none
  | .epSend => none
  | .policyPowerLimit => none
  | .policySleep => none
  | .policySpareBanks => none
  | .policySignedPlanes => none
  | .policyKeyInstall => none
  | .restoreCopyDone _ => none
  | .crucibleOperationComplete _ => none
  | .sigDeliveryAck _ => none
  | .hostWindowWrite _ => none
  | .hostLinkDown => none
  | .permitFallDue _ => none
  | .pass _ => some 0x01
  | .sink _ => some 0x02
  | .lit _ => some 0x03
  | .src _ => some 0x04
  | .steer _ => some 0x05
  | .sel _ => some 0x06
  | .merge _ => some 0x07
  | .join _ => some 0x08
  | .vert _ => some 0x09
  | .eave _ => some 0x0A
  | .repl _ => some 0x0B
  | .extr _ => some 0x0C
  | .tagget _ => some 0x10
  | .tagset _ => some 0x11
  | .call _ => some 0x12
  | .ret _ => some 0x13
  | .exit _ => some 0x14
  | .iter _ => some 0x15
  | .strand _ => some 0x16
  | .allocFrm _ => some 0x20
  | .allocBuf _ => some 0x21
  | .allocRdg _ => some 0x22
  | .allocCru _ => some 0x23
  | .freeFrm _ => some 0x24
  | .freeBuf _ => some 0x25
  | .use _ => some 0x26
  | .freeRdg _ => some 0x27
  | .poolq _ => some 0x28
  | .add _ => some 0x30
  | .sub _ => some 0x31
  | .mul _ => some 0x32
  | .mulh _ => some 0x33
  | .div _ => some 0x34
  | .rem _ => some 0x35
  | .mad _ => some 0x36
  | .neg _ => some 0x37
  | .abs _ => some 0x38
  | .min _ => some 0x39
  | .max _ => some 0x3A
  | .and _ => some 0x3B
  | .or _ => some 0x3C
  | .xor _ => some 0x3D
  | .not _ => some 0x3E
  | .andn _ => some 0x3F
  | .shl _ => some 0x40
  | .shr _ => some 0x41
  | .sar _ => some 0x42
  | .rol _ => some 0x43
  | .clz _ => some 0x44
  | .pop _ => some 0x45
  | .cmp _ => some 0x46
  | .lea _ => some 0x47
  | .bfx _ => some 0x48
  | .bfi _ => some 0x49
  | .ext _ => some 0x4A
  | .satadd _ => some 0x4B
  | .clamp _ => some 0x4C
  | .vadd _ => some 0x50
  | .vsub _ => some 0x51
  | .vmul _ => some 0x52
  | .vmad _ => some 0x53
  | .vmin _ => some 0x54
  | .vmax _ => some 0x55
  | .vand _ => some 0x56
  | .vor _ => some 0x57
  | .vxor _ => some 0x58
  | .vshl _ => some 0x59
  | .vshr _ => some 0x5A
  | .vcmp _ => some 0x5B
  | .vsel _ => some 0x5C
  | .vabs _ => some 0x5D
  | .vdot4 _ => some 0x5E
  | .vpopc _ => some 0x5F
  | .vperm _ => some 0x60
  | .vslide _ => some 0x61
  | .vpack _ => some 0x62
  | .vunpk _ => some 0x63
  | .vred _ => some 0x64
  | .vscan _ => some 0x65
  | .vins _ => some 0x66
  | .vmask _ => some 0x67
  | .viota _ => some 0x68
  | .vfadd _ => some 0x70
  | .vfsub _ => some 0x71
  | .vfmul _ => some 0x72
  | .vfma _ => some 0x73
  | .vfmin _ => some 0x74
  | .vfmax _ => some 0x75
  | .vfabs _ => some 0x76
  | .vfneg _ => some 0x77
  | .vfcmp _ => some 0x78
  | .vfdiv _ => some 0x79
  | .vfsqrt _ => some 0x7A
  | .vfrcp _ => some 0x7B
  | .vfrsq _ => some 0x7C
  | .vfexp2 _ => some 0x7D
  | .vflog2 _ => some 0x7E
  | .vfcls _ => some 0x7F
  | .vcvt _ => some 0x80
  | .qcvt _ => some 0x81
  | .dqcvt _ => some 0x82
  | .fcvt _ => some 0x83
  | .sfop _ => some 0x84
  | .vrnd _ => some 0x85
  | .ld _ => some 0x90
  | .st _ => some 0x91
  | .vld _ => some 0x92
  | .vst _ => some 0x93
  | .ldx _ => some 0x94
  | .stx _ => some 0x95
  | .ldl _ => some 0x96
  | .vldx _ => some 0x97
  | .vstx _ => some 0x98
  | .pref _ => some 0x99
  | .atom _ => some 0xA0
  | .cas _ => some 0xA1
  | .ild _ => some 0xA2
  | .ist _ => some 0xA3
  | .iclr _ => some 0xA4
  | .cmb _ => some 0xA5
  | .fence _ => some 0xA6
  | .barArrive _ => some 0xA7
  | .barWait _ => some 0xA7
  | .publish _ => some 0xA8
  | .shadow _ => some 0xA9
  | .rdgSt _ => some 0xAA
  | .rdgLd _ => some 0xAB
  | .rdgWait _ => some 0xAC
  | .tickRd _ => some 0xAD
  | .tickUntil _ => some 0xAD
  | .gateLoad _ => some 0xB0
  | .gateStore _ => some 0xB1
  | .gateFeed _ => some 0xB2
  | .gateDrain _ => some 0xB3
  | .gateFence _ => some 0xB4
  | .gateQry _ => some 0xB5
  | .gateCancel _ => some 0xB6
  | .mxLdb _ => some 0xC0
  | .mxGather _ => some 0xC1
  | .mxLda _ => some 0xC2
  | .mxMma _ => some 0xC3
  | .mxScale _ => some 0xC4
  | .mxDrain _ => some 0xC5
  | .mxZero _ => some 0xC6
  | .mxAddc _ => some 0xC7
  | .mxQry _ => some 0xC8
  | .spawn _ => some 0xD0
  | .gainAdd _ => some 0xD1
  | .gainTake _ => some 0xD2
  | .gainDone _ => some 0xD3
  | .residRd _ => some 0xD4
  | .tolWr _ => some 0xD5
  | .heapQ _ => some 0xD6
  | .gainSet _ => some 0xD7
  | .ctxNew _ => some 0xE0
  | .ctxGrant _ => some 0xE1
  | .ctxRevoke _ => some 0xE2
  | .ctxRun _ => some 0xE3
  | .ctxStop _ => some 0xE4
  | .ctxDel _ => some 0xE5
  | .ctxRst _ => some 0xE6
  | .csrRd _ => some 0xE7
  | .csrWr _ => some 0xE8
  | .trap _ => some 0xE9
  | .repair _ => some 0xEA
  | .hostSig _ => some 0xEB
  | .cfgLoad _ => some 0xEC
  | .cfgFlip _ => some 0xED
  | .launch _ => some 0xEE
  | .permit _ => some 0xEF

/-- The record fields of an instruction. -/
def Instr.fields : Instr → NodeRec
  | .tokenArrival _ => default
  | .castCommit _ => default
  | .castAbort _ => default
  | .stall _ => default
  | .compactionMoveDone _ => default
  | .spillTimerExpiry _ => default
  | .spillWriteAck _ => default
  | .waveLoadPerform _ => default
  | .walkComplete _ => default
  | .walkerStart _ => default
  | .cmbPartialArrival _ => default
  | .cmbCellTimeout _ => default
  | .barrierPhaseComplete _ => default
  | .ridgeOccurrence _ => default
  | .ridgeControlWord _ => default
  | .ridgeMirrorApply _ => default
  | .tickUntilExpiry _ => default
  | .crucibleTokenArrival _ => default
  | .crucibleOperationStart _ => default
  | .permitHandout _ => default
  | .burstEnd _ => default
  | .gateStreamBind _ => default
  | .gateFeedBeat _ => default
  | .gateDrainBeat _ => default
  | .gateStreamComplete _ => default
  | .gateStreamFault _ => default
  | .faultDelivery _ => default
  | .verdictApply _ => default
  | .kernelSelect _ => default
  | .kernelStart _ => default
  | .kernelCancel _ => default
  | .gangStartTick _ => default
  | .sourceInjection _ => default
  | .kernelEnd _ => default
  | .heapPop _ => default
  | .sliceEnd _ => default
  | .sweep _ => default
  | .freeze _ => default
  | .sliceResume _ => default
  | .cfgFillComplete _ => default
  | .pagePull _ => default
  | .pullLost _ => default
  | .powerMeasure => default
  | .permitStepLower _ => default
  | .permitStepRaise _ => default
  | .courseRetentionEnter _ => default
  | .courseOffEnter _ => default
  | .courseWake _ => default
  | .scrub _ => default
  | .uncorrectableError _ => default
  | .downpipeFail _ => default
  | .courseFail _ => default
  | .downpipeTestBeat _ => default
  | .timeSync => default
  | .eaveFlitReplay _ => default
  | .eaveLinkLoss _ => default
  | .powerGood => default
  | .wfence => default
  | .ctxCreate => default
  | .ctxDelete => default
  | .planePut => default
  | .launchMessage => default
  | .memCopyToDevice => default
  | .memCopyToHost => default
  | .memCopyDevice => default
  | .checkpoint => default
  | .checkpointDebug => default
  | .restoreMessage => default
  | .attestReport => default
  | .attestChain => default
  | .telemPower => default
  | .telemTemperature => default
  | .telemErrors => default
  | .telemSleep => default
  | .telemSync => default
  | .resetStack => default
  | .resetContext => default
  | .epSend => default
  | .policyPowerLimit => default
  | .policySleep => default
  | .policySpareBanks => default
  | .policySignedPlanes => default
  | .policyKeyInstall => default
  | .restoreCopyDone _ => default
  | .crucibleOperationComplete _ => default
  | .sigDeliveryAck _ => default
  | .hostWindowWrite _ => default
  | .hostLinkDown => default
  | .permitFallDue _ => default
  | .pass r => r
  | .sink r => r
  | .lit r => r
  | .src r => r
  | .steer r => r
  | .sel r => r
  | .merge r => r
  | .join r => r
  | .vert r => r
  | .eave r => r
  | .repl r => r
  | .extr r => r
  | .tagget r => r
  | .tagset r => r
  | .call r => r
  | .ret r => r
  | .exit r => r
  | .iter r => r
  | .strand r => r
  | .allocFrm r => r
  | .allocBuf r => r
  | .allocRdg r => r
  | .allocCru r => r
  | .freeFrm r => r
  | .freeBuf r => r
  | .use r => r
  | .freeRdg r => r
  | .poolq r => r
  | .add r => r
  | .sub r => r
  | .mul r => r
  | .mulh r => r
  | .div r => r
  | .rem r => r
  | .mad r => r
  | .neg r => r
  | .abs r => r
  | .min r => r
  | .max r => r
  | .and r => r
  | .or r => r
  | .xor r => r
  | .not r => r
  | .andn r => r
  | .shl r => r
  | .shr r => r
  | .sar r => r
  | .rol r => r
  | .clz r => r
  | .pop r => r
  | .cmp r => r
  | .lea r => r
  | .bfx r => r
  | .bfi r => r
  | .ext r => r
  | .satadd r => r
  | .clamp r => r
  | .vadd r => r
  | .vsub r => r
  | .vmul r => r
  | .vmad r => r
  | .vmin r => r
  | .vmax r => r
  | .vand r => r
  | .vor r => r
  | .vxor r => r
  | .vshl r => r
  | .vshr r => r
  | .vcmp r => r
  | .vsel r => r
  | .vabs r => r
  | .vdot4 r => r
  | .vpopc r => r
  | .vperm r => r
  | .vslide r => r
  | .vpack r => r
  | .vunpk r => r
  | .vred r => r
  | .vscan r => r
  | .vins r => r
  | .vmask r => r
  | .viota r => r
  | .vfadd r => r
  | .vfsub r => r
  | .vfmul r => r
  | .vfma r => r
  | .vfmin r => r
  | .vfmax r => r
  | .vfabs r => r
  | .vfneg r => r
  | .vfcmp r => r
  | .vfdiv r => r
  | .vfsqrt r => r
  | .vfrcp r => r
  | .vfrsq r => r
  | .vfexp2 r => r
  | .vflog2 r => r
  | .vfcls r => r
  | .vcvt r => r
  | .qcvt r => r
  | .dqcvt r => r
  | .fcvt r => r
  | .sfop r => r
  | .vrnd r => r
  | .ld r => r
  | .st r => r
  | .vld r => r
  | .vst r => r
  | .ldx r => r
  | .stx r => r
  | .ldl r => r
  | .vldx r => r
  | .vstx r => r
  | .pref r => r
  | .atom r => r
  | .cas r => r
  | .ild r => r
  | .ist r => r
  | .iclr r => r
  | .cmb r => r
  | .fence r => r
  | .barArrive r => r
  | .barWait r => r
  | .publish r => r
  | .shadow r => r
  | .rdgSt r => r
  | .rdgLd r => r
  | .rdgWait r => r
  | .tickRd r => r
  | .tickUntil r => r
  | .gateLoad r => r
  | .gateStore r => r
  | .gateFeed r => r
  | .gateDrain r => r
  | .gateFence r => r
  | .gateQry r => r
  | .gateCancel r => r
  | .mxLdb r => r
  | .mxGather r => r
  | .mxLda r => r
  | .mxMma r => r
  | .mxScale r => r
  | .mxDrain r => r
  | .mxZero r => r
  | .mxAddc r => r
  | .mxQry r => r
  | .spawn r => r
  | .gainAdd r => r
  | .gainTake r => r
  | .gainDone r => r
  | .residRd r => r
  | .tolWr r => r
  | .heapQ r => r
  | .gainSet r => r
  | .ctxNew r => r
  | .ctxGrant r => r
  | .ctxRevoke r => r
  | .ctxRun r => r
  | .ctxStop r => r
  | .ctxDel r => r
  | .ctxRst r => r
  | .csrRd r => r
  | .csrWr r => r
  | .trap r => r
  | .repair r => r
  | .hostSig r => r
  | .cfgLoad r => r
  | .cfgFlip r => r
  | .launch r => r
  | .permit r => r

/-- The number of a machine event in the step word (notes/assumptions/1.md); 0 for an instruction. -/
def Instr.eventNo : Instr → Nat
  | .tokenArrival _ => 1
  | .castCommit _ => 2
  | .castAbort _ => 3
  | .stall _ => 4
  | .compactionMoveDone _ => 5
  | .spillTimerExpiry _ => 6
  | .spillWriteAck _ => 7
  | .waveLoadPerform _ => 8
  | .walkComplete _ => 9
  | .walkerStart _ => 10
  | .cmbPartialArrival _ => 11
  | .cmbCellTimeout _ => 12
  | .barrierPhaseComplete _ => 13
  | .ridgeOccurrence _ => 14
  | .ridgeControlWord _ => 15
  | .ridgeMirrorApply _ => 16
  | .tickUntilExpiry _ => 17
  | .crucibleTokenArrival _ => 18
  | .crucibleOperationStart _ => 19
  | .permitHandout _ => 20
  | .burstEnd _ => 21
  | .gateStreamBind _ => 22
  | .gateFeedBeat _ => 23
  | .gateDrainBeat _ => 24
  | .gateStreamComplete _ => 25
  | .gateStreamFault _ => 26
  | .faultDelivery _ => 27
  | .verdictApply _ => 28
  | .kernelSelect _ => 29
  | .kernelStart _ => 30
  | .kernelCancel _ => 31
  | .gangStartTick _ => 32
  | .sourceInjection _ => 33
  | .kernelEnd _ => 34
  | .heapPop _ => 35
  | .sliceEnd _ => 36
  | .sweep _ => 37
  | .freeze _ => 38
  | .sliceResume _ => 39
  | .cfgFillComplete _ => 40
  | .pagePull _ => 41
  | .pullLost _ => 42
  | .powerMeasure => 43
  | .permitStepLower _ => 44
  | .permitStepRaise _ => 45
  | .courseRetentionEnter _ => 46
  | .courseOffEnter _ => 47
  | .courseWake _ => 48
  | .scrub _ => 49
  | .uncorrectableError _ => 50
  | .downpipeFail _ => 51
  | .courseFail _ => 52
  | .downpipeTestBeat _ => 53
  | .timeSync => 54
  | .eaveFlitReplay _ => 55
  | .eaveLinkLoss _ => 56
  | .powerGood => 57
  | .wfence => 58
  | .ctxCreate => 59
  | .ctxDelete => 60
  | .planePut => 61
  | .launchMessage => 62
  | .memCopyToDevice => 63
  | .memCopyToHost => 64
  | .memCopyDevice => 65
  | .checkpoint => 66
  | .checkpointDebug => 67
  | .restoreMessage => 68
  | .attestReport => 69
  | .attestChain => 70
  | .telemPower => 71
  | .telemTemperature => 72
  | .telemErrors => 73
  | .telemSleep => 74
  | .telemSync => 75
  | .resetStack => 76
  | .resetContext => 77
  | .epSend => 78
  | .policyPowerLimit => 79
  | .policySleep => 80
  | .policySpareBanks => 81
  | .policySignedPlanes => 82
  | .policyKeyInstall => 83
  | .restoreCopyDone _ => 84
  | .crucibleOperationComplete _ => 85
  | .sigDeliveryAck _ => 86
  | .hostWindowWrite _ => 87
  | .hostLinkDown => 88
  | .permitFallDue _ => 89
  | .pass _ => 0
  | .sink _ => 0
  | .lit _ => 0
  | .src _ => 0
  | .steer _ => 0
  | .sel _ => 0
  | .merge _ => 0
  | .join _ => 0
  | .vert _ => 0
  | .eave _ => 0
  | .repl _ => 0
  | .extr _ => 0
  | .tagget _ => 0
  | .tagset _ => 0
  | .call _ => 0
  | .ret _ => 0
  | .exit _ => 0
  | .iter _ => 0
  | .strand _ => 0
  | .allocFrm _ => 0
  | .allocBuf _ => 0
  | .allocRdg _ => 0
  | .allocCru _ => 0
  | .freeFrm _ => 0
  | .freeBuf _ => 0
  | .use _ => 0
  | .freeRdg _ => 0
  | .poolq _ => 0
  | .add _ => 0
  | .sub _ => 0
  | .mul _ => 0
  | .mulh _ => 0
  | .div _ => 0
  | .rem _ => 0
  | .mad _ => 0
  | .neg _ => 0
  | .abs _ => 0
  | .min _ => 0
  | .max _ => 0
  | .and _ => 0
  | .or _ => 0
  | .xor _ => 0
  | .not _ => 0
  | .andn _ => 0
  | .shl _ => 0
  | .shr _ => 0
  | .sar _ => 0
  | .rol _ => 0
  | .clz _ => 0
  | .pop _ => 0
  | .cmp _ => 0
  | .lea _ => 0
  | .bfx _ => 0
  | .bfi _ => 0
  | .ext _ => 0
  | .satadd _ => 0
  | .clamp _ => 0
  | .vadd _ => 0
  | .vsub _ => 0
  | .vmul _ => 0
  | .vmad _ => 0
  | .vmin _ => 0
  | .vmax _ => 0
  | .vand _ => 0
  | .vor _ => 0
  | .vxor _ => 0
  | .vshl _ => 0
  | .vshr _ => 0
  | .vcmp _ => 0
  | .vsel _ => 0
  | .vabs _ => 0
  | .vdot4 _ => 0
  | .vpopc _ => 0
  | .vperm _ => 0
  | .vslide _ => 0
  | .vpack _ => 0
  | .vunpk _ => 0
  | .vred _ => 0
  | .vscan _ => 0
  | .vins _ => 0
  | .vmask _ => 0
  | .viota _ => 0
  | .vfadd _ => 0
  | .vfsub _ => 0
  | .vfmul _ => 0
  | .vfma _ => 0
  | .vfmin _ => 0
  | .vfmax _ => 0
  | .vfabs _ => 0
  | .vfneg _ => 0
  | .vfcmp _ => 0
  | .vfdiv _ => 0
  | .vfsqrt _ => 0
  | .vfrcp _ => 0
  | .vfrsq _ => 0
  | .vfexp2 _ => 0
  | .vflog2 _ => 0
  | .vfcls _ => 0
  | .vcvt _ => 0
  | .qcvt _ => 0
  | .dqcvt _ => 0
  | .fcvt _ => 0
  | .sfop _ => 0
  | .vrnd _ => 0
  | .ld _ => 0
  | .st _ => 0
  | .vld _ => 0
  | .vst _ => 0
  | .ldx _ => 0
  | .stx _ => 0
  | .ldl _ => 0
  | .vldx _ => 0
  | .vstx _ => 0
  | .pref _ => 0
  | .atom _ => 0
  | .cas _ => 0
  | .ild _ => 0
  | .ist _ => 0
  | .iclr _ => 0
  | .cmb _ => 0
  | .fence _ => 0
  | .barArrive _ => 0
  | .barWait _ => 0
  | .publish _ => 0
  | .shadow _ => 0
  | .rdgSt _ => 0
  | .rdgLd _ => 0
  | .rdgWait _ => 0
  | .tickRd _ => 0
  | .tickUntil _ => 0
  | .gateLoad _ => 0
  | .gateStore _ => 0
  | .gateFeed _ => 0
  | .gateDrain _ => 0
  | .gateFence _ => 0
  | .gateQry _ => 0
  | .gateCancel _ => 0
  | .mxLdb _ => 0
  | .mxGather _ => 0
  | .mxLda _ => 0
  | .mxMma _ => 0
  | .mxScale _ => 0
  | .mxDrain _ => 0
  | .mxZero _ => 0
  | .mxAddc _ => 0
  | .mxQry _ => 0
  | .spawn _ => 0
  | .gainAdd _ => 0
  | .gainTake _ => 0
  | .gainDone _ => 0
  | .residRd _ => 0
  | .tolWr _ => 0
  | .heapQ _ => 0
  | .gainSet _ => 0
  | .ctxNew _ => 0
  | .ctxGrant _ => 0
  | .ctxRevoke _ => 0
  | .ctxRun _ => 0
  | .ctxStop _ => 0
  | .ctxDel _ => 0
  | .ctxRst _ => 0
  | .csrRd _ => 0
  | .csrWr _ => 0
  | .trap _ => 0
  | .repair _ => 0
  | .hostSig _ => 0
  | .cfgLoad _ => 0
  | .cfgFlip _ => 0
  | .launch _ => 0
  | .permit _ => 0

/-- The place of a machine event. -/
def Instr.args : Instr → EvArgs
  | .tokenArrival e => e
  | .castCommit e => e
  | .castAbort e => e
  | .stall e => e
  | .compactionMoveDone e => e
  | .spillTimerExpiry e => e
  | .spillWriteAck e => e
  | .waveLoadPerform e => e
  | .walkComplete e => e
  | .walkerStart e => e
  | .cmbPartialArrival e => e
  | .cmbCellTimeout e => e
  | .barrierPhaseComplete e => e
  | .ridgeOccurrence e => e
  | .ridgeControlWord e => e
  | .ridgeMirrorApply e => e
  | .tickUntilExpiry e => e
  | .crucibleTokenArrival e => e
  | .crucibleOperationStart e => e
  | .permitHandout e => e
  | .burstEnd e => e
  | .gateStreamBind e => e
  | .gateFeedBeat e => e
  | .gateDrainBeat e => e
  | .gateStreamComplete e => e
  | .gateStreamFault e => e
  | .faultDelivery e => e
  | .verdictApply e => e
  | .kernelSelect e => e
  | .kernelStart e => e
  | .kernelCancel e => e
  | .gangStartTick e => e
  | .sourceInjection e => e
  | .kernelEnd e => e
  | .heapPop e => e
  | .sliceEnd e => e
  | .sweep e => e
  | .freeze e => e
  | .sliceResume e => e
  | .cfgFillComplete e => e
  | .pagePull e => e
  | .pullLost e => e
  | .powerMeasure => default
  | .permitStepLower e => e
  | .permitStepRaise e => e
  | .courseRetentionEnter e => e
  | .courseOffEnter e => e
  | .courseWake e => e
  | .scrub e => e
  | .uncorrectableError e => e
  | .downpipeFail e => e
  | .courseFail e => e
  | .downpipeTestBeat e => e
  | .timeSync => default
  | .eaveFlitReplay e => e
  | .eaveLinkLoss e => e
  | .powerGood => default
  | .wfence => default
  | .ctxCreate => default
  | .ctxDelete => default
  | .planePut => default
  | .launchMessage => default
  | .memCopyToDevice => default
  | .memCopyToHost => default
  | .memCopyDevice => default
  | .checkpoint => default
  | .checkpointDebug => default
  | .restoreMessage => default
  | .attestReport => default
  | .attestChain => default
  | .telemPower => default
  | .telemTemperature => default
  | .telemErrors => default
  | .telemSleep => default
  | .telemSync => default
  | .resetStack => default
  | .resetContext => default
  | .epSend => default
  | .policyPowerLimit => default
  | .policySleep => default
  | .policySpareBanks => default
  | .policySignedPlanes => default
  | .policyKeyInstall => default
  | .restoreCopyDone e => e
  | .crucibleOperationComplete e => e
  | .sigDeliveryAck e => e
  | .hostWindowWrite e => e
  | .hostLinkDown => default
  | .permitFallDue e => e
  | .pass _ => default
  | .sink _ => default
  | .lit _ => default
  | .src _ => default
  | .steer _ => default
  | .sel _ => default
  | .merge _ => default
  | .join _ => default
  | .vert _ => default
  | .eave _ => default
  | .repl _ => default
  | .extr _ => default
  | .tagget _ => default
  | .tagset _ => default
  | .call _ => default
  | .ret _ => default
  | .exit _ => default
  | .iter _ => default
  | .strand _ => default
  | .allocFrm _ => default
  | .allocBuf _ => default
  | .allocRdg _ => default
  | .allocCru _ => default
  | .freeFrm _ => default
  | .freeBuf _ => default
  | .use _ => default
  | .freeRdg _ => default
  | .poolq _ => default
  | .add _ => default
  | .sub _ => default
  | .mul _ => default
  | .mulh _ => default
  | .div _ => default
  | .rem _ => default
  | .mad _ => default
  | .neg _ => default
  | .abs _ => default
  | .min _ => default
  | .max _ => default
  | .and _ => default
  | .or _ => default
  | .xor _ => default
  | .not _ => default
  | .andn _ => default
  | .shl _ => default
  | .shr _ => default
  | .sar _ => default
  | .rol _ => default
  | .clz _ => default
  | .pop _ => default
  | .cmp _ => default
  | .lea _ => default
  | .bfx _ => default
  | .bfi _ => default
  | .ext _ => default
  | .satadd _ => default
  | .clamp _ => default
  | .vadd _ => default
  | .vsub _ => default
  | .vmul _ => default
  | .vmad _ => default
  | .vmin _ => default
  | .vmax _ => default
  | .vand _ => default
  | .vor _ => default
  | .vxor _ => default
  | .vshl _ => default
  | .vshr _ => default
  | .vcmp _ => default
  | .vsel _ => default
  | .vabs _ => default
  | .vdot4 _ => default
  | .vpopc _ => default
  | .vperm _ => default
  | .vslide _ => default
  | .vpack _ => default
  | .vunpk _ => default
  | .vred _ => default
  | .vscan _ => default
  | .vins _ => default
  | .vmask _ => default
  | .viota _ => default
  | .vfadd _ => default
  | .vfsub _ => default
  | .vfmul _ => default
  | .vfma _ => default
  | .vfmin _ => default
  | .vfmax _ => default
  | .vfabs _ => default
  | .vfneg _ => default
  | .vfcmp _ => default
  | .vfdiv _ => default
  | .vfsqrt _ => default
  | .vfrcp _ => default
  | .vfrsq _ => default
  | .vfexp2 _ => default
  | .vflog2 _ => default
  | .vfcls _ => default
  | .vcvt _ => default
  | .qcvt _ => default
  | .dqcvt _ => default
  | .fcvt _ => default
  | .sfop _ => default
  | .vrnd _ => default
  | .ld _ => default
  | .st _ => default
  | .vld _ => default
  | .vst _ => default
  | .ldx _ => default
  | .stx _ => default
  | .ldl _ => default
  | .vldx _ => default
  | .vstx _ => default
  | .pref _ => default
  | .atom _ => default
  | .cas _ => default
  | .ild _ => default
  | .ist _ => default
  | .iclr _ => default
  | .cmb _ => default
  | .fence _ => default
  | .barArrive _ => default
  | .barWait _ => default
  | .publish _ => default
  | .shadow _ => default
  | .rdgSt _ => default
  | .rdgLd _ => default
  | .rdgWait _ => default
  | .tickRd _ => default
  | .tickUntil _ => default
  | .gateLoad _ => default
  | .gateStore _ => default
  | .gateFeed _ => default
  | .gateDrain _ => default
  | .gateFence _ => default
  | .gateQry _ => default
  | .gateCancel _ => default
  | .mxLdb _ => default
  | .mxGather _ => default
  | .mxLda _ => default
  | .mxMma _ => default
  | .mxScale _ => default
  | .mxDrain _ => default
  | .mxZero _ => default
  | .mxAddc _ => default
  | .mxQry _ => default
  | .spawn _ => default
  | .gainAdd _ => default
  | .gainTake _ => default
  | .gainDone _ => default
  | .residRd _ => default
  | .tolWr _ => default
  | .heapQ _ => default
  | .gainSet _ => default
  | .ctxNew _ => default
  | .ctxGrant _ => default
  | .ctxRevoke _ => default
  | .ctxRun _ => default
  | .ctxStop _ => default
  | .ctxDel _ => default
  | .ctxRst _ => default
  | .csrRd _ => default
  | .csrWr _ => default
  | .trap _ => default
  | .repair _ => default
  | .hostSig _ => default
  | .cfgLoad _ => default
  | .cfgFlip _ => default
  | .launch _ => default
  | .permit _ => default

/-- BAR and TICK each name two instructions by VAR (R236, R246): the variant that the constructor stands for. -/
def Instr.variantOk : Instr → Bool
  | .barArrive r | .tickRd r => r.var == 0#4
  | .barWait r | .tickUntil r => r.var == 1#4
  | _ => true

/-- A step that can occur: an event, or an instruction whose record validation accepts. -/
def Instr.wellFormed (i : Instr) : Bool :=
  match i.op with
  | none => true
  | some op => i.variantOk && (recordFault op i.fields).isNone

end Sys2Proof
end

