-- ==== Sys2Proof/Decode.lean ====
section
/-! DEFINITION. Sys2Proof/Decode.lean: a step word read as a step, total on any bytes and refusing by name, and after it
the encoder. A step word is 13 bytes: the node record's 96 bits least significant byte first (R101, R115), then a class
byte, 0 for a record and otherwise the number of a machine event (the model's own, notes/assumptions/1.md). -/

namespace Sys2Proof

/-- Why a step word is refused. -/
inductive DecodeError where
  /-- fewer bytes than a step word has -/
  | short
  /-- OP 0x00: an empty record slot (R15, R115) -/
  | emptySlot
  /-- validation rejects the record with this code of R132 -/
  | cfgIllegal (code : Nat)
  /-- no machine event has this class byte -/
  | noEvent
  deriving DecidableEq, Repr

/-- The fields of a record word (R115). -/
def recFields (w : BitVec 96) : NodeRec where
  var := w.extractLsb' 84 4
  ty := w.extractLsb' 80 4
  ar := w.extractLsb' 77 3
  tg := w.extractLsb' 75 2
  pl := bitAt w 74
  d0 := w.extractLsb' 53 21
  d1 := w.extractLsb' 32 21
  lit := w.extractLsb' 0 32

/-- The OP of a record word. -/
def recOp (w : BitVec 96) : Nat := bitsAt w 88 8

/-- The operands of an event word. -/
def evFields (w : BitVec 96) : EvArgs where
  course := w.extractLsb' 92 4
  unit := w.extractLsb' 76 16
  ft := w.extractLsb' 64 12
  k := w.extractLsb' 48 16
  cx := w.extractLsb' 36 12
  aux := w.extractLsb' 0 36

/-- The instruction of an OP, with its fields (R128, and R236 and R246 for the two variants of BAR and TICK). -/
def instrOfOp (op : Nat) (r : NodeRec) : Option Instr :=
  match op with
  | 0x01 => some (.pass r)
  | 0x02 => some (.sink r)
  | 0x03 => some (.lit r)
  | 0x04 => some (.src r)
  | 0x05 => some (.steer r)
  | 0x06 => some (.sel r)
  | 0x07 => some (.merge r)
  | 0x08 => some (.join r)
  | 0x09 => some (.vert r)
  | 0x0A => some (.eave r)
  | 0x0B => some (.repl r)
  | 0x0C => some (.extr r)
  | 0x10 => some (.tagget r)
  | 0x11 => some (.tagset r)
  | 0x12 => some (.call r)
  | 0x13 => some (.ret r)
  | 0x14 => some (.exit r)
  | 0x15 => some (.iter r)
  | 0x16 => some (.strand r)
  | 0x20 => some (.allocFrm r)
  | 0x21 => some (.allocBuf r)
  | 0x22 => some (.allocRdg r)
  | 0x23 => some (.allocCru r)
  | 0x24 => some (.freeFrm r)
  | 0x25 => some (.freeBuf r)
  | 0x26 => some (.use r)
  | 0x27 => some (.freeRdg r)
  | 0x28 => some (.poolq r)
  | 0x30 => some (.add r)
  | 0x31 => some (.sub r)
  | 0x32 => some (.mul r)
  | 0x33 => some (.mulh r)
  | 0x34 => some (.div r)
  | 0x35 => some (.rem r)
  | 0x36 => some (.mad r)
  | 0x37 => some (.neg r)
  | 0x38 => some (.abs r)
  | 0x39 => some (.min r)
  | 0x3A => some (.max r)
  | 0x3B => some (.and r)
  | 0x3C => some (.or r)
  | 0x3D => some (.xor r)
  | 0x3E => some (.not r)
  | 0x3F => some (.andn r)
  | 0x40 => some (.shl r)
  | 0x41 => some (.shr r)
  | 0x42 => some (.sar r)
  | 0x43 => some (.rol r)
  | 0x44 => some (.clz r)
  | 0x45 => some (.pop r)
  | 0x46 => some (.cmp r)
  | 0x47 => some (.lea r)
  | 0x48 => some (.bfx r)
  | 0x49 => some (.bfi r)
  | 0x4A => some (.ext r)
  | 0x4B => some (.satadd r)
  | 0x4C => some (.clamp r)
  | 0x50 => some (.vadd r)
  | 0x51 => some (.vsub r)
  | 0x52 => some (.vmul r)
  | 0x53 => some (.vmad r)
  | 0x54 => some (.vmin r)
  | 0x55 => some (.vmax r)
  | 0x56 => some (.vand r)
  | 0x57 => some (.vor r)
  | 0x58 => some (.vxor r)
  | 0x59 => some (.vshl r)
  | 0x5A => some (.vshr r)
  | 0x5B => some (.vcmp r)
  | 0x5C => some (.vsel r)
  | 0x5D => some (.vabs r)
  | 0x5E => some (.vdot4 r)
  | 0x5F => some (.vpopc r)
  | 0x60 => some (.vperm r)
  | 0x61 => some (.vslide r)
  | 0x62 => some (.vpack r)
  | 0x63 => some (.vunpk r)
  | 0x64 => some (.vred r)
  | 0x65 => some (.vscan r)
  | 0x66 => some (.vins r)
  | 0x67 => some (.vmask r)
  | 0x68 => some (.viota r)
  | 0x70 => some (.vfadd r)
  | 0x71 => some (.vfsub r)
  | 0x72 => some (.vfmul r)
  | 0x73 => some (.vfma r)
  | 0x74 => some (.vfmin r)
  | 0x75 => some (.vfmax r)
  | 0x76 => some (.vfabs r)
  | 0x77 => some (.vfneg r)
  | 0x78 => some (.vfcmp r)
  | 0x79 => some (.vfdiv r)
  | 0x7A => some (.vfsqrt r)
  | 0x7B => some (.vfrcp r)
  | 0x7C => some (.vfrsq r)
  | 0x7D => some (.vfexp2 r)
  | 0x7E => some (.vflog2 r)
  | 0x7F => some (.vfcls r)
  | 0x80 => some (.vcvt r)
  | 0x81 => some (.qcvt r)
  | 0x82 => some (.dqcvt r)
  | 0x83 => some (.fcvt r)
  | 0x84 => some (.sfop r)
  | 0x85 => some (.vrnd r)
  | 0x90 => some (.ld r)
  | 0x91 => some (.st r)
  | 0x92 => some (.vld r)
  | 0x93 => some (.vst r)
  | 0x94 => some (.ldx r)
  | 0x95 => some (.stx r)
  | 0x96 => some (.ldl r)
  | 0x97 => some (.vldx r)
  | 0x98 => some (.vstx r)
  | 0x99 => some (.pref r)
  | 0xA0 => some (.atom r)
  | 0xA1 => some (.cas r)
  | 0xA2 => some (.ild r)
  | 0xA3 => some (.ist r)
  | 0xA4 => some (.iclr r)
  | 0xA5 => some (.cmb r)
  | 0xA6 => some (.fence r)
  | 0xA7 => some (if r.var == 0#4 then .barArrive r else .barWait r)
  | 0xA8 => some (.publish r)
  | 0xA9 => some (.shadow r)
  | 0xAA => some (.rdgSt r)
  | 0xAB => some (.rdgLd r)
  | 0xAC => some (.rdgWait r)
  | 0xAD => some (if r.var == 0#4 then .tickRd r else .tickUntil r)
  | 0xB0 => some (.gateLoad r)
  | 0xB1 => some (.gateStore r)
  | 0xB2 => some (.gateFeed r)
  | 0xB3 => some (.gateDrain r)
  | 0xB4 => some (.gateFence r)
  | 0xB5 => some (.gateQry r)
  | 0xB6 => some (.gateCancel r)
  | 0xC0 => some (.mxLdb r)
  | 0xC1 => some (.mxGather r)
  | 0xC2 => some (.mxLda r)
  | 0xC3 => some (.mxMma r)
  | 0xC4 => some (.mxScale r)
  | 0xC5 => some (.mxDrain r)
  | 0xC6 => some (.mxZero r)
  | 0xC7 => some (.mxAddc r)
  | 0xC8 => some (.mxQry r)
  | 0xD0 => some (.spawn r)
  | 0xD1 => some (.gainAdd r)
  | 0xD2 => some (.gainTake r)
  | 0xD3 => some (.gainDone r)
  | 0xD4 => some (.residRd r)
  | 0xD5 => some (.tolWr r)
  | 0xD6 => some (.heapQ r)
  | 0xD7 => some (.gainSet r)
  | 0xE0 => some (.ctxNew r)
  | 0xE1 => some (.ctxGrant r)
  | 0xE2 => some (.ctxRevoke r)
  | 0xE3 => some (.ctxRun r)
  | 0xE4 => some (.ctxStop r)
  | 0xE5 => some (.ctxDel r)
  | 0xE6 => some (.ctxRst r)
  | 0xE7 => some (.csrRd r)
  | 0xE8 => some (.csrWr r)
  | 0xE9 => some (.trap r)
  | 0xEA => some (.repair r)
  | 0xEB => some (.hostSig r)
  | 0xEC => some (.cfgLoad r)
  | 0xED => some (.cfgFlip r)
  | 0xEE => some (.launch r)
  | 0xEF => some (.permit r)
  | _ => none

/-- The machine event of a class byte. -/
def eventOfNo (n : Nat) (e : EvArgs) : Option Instr :=
  match n with
  | 1 => some (.tokenArrival e)
  | 2 => some (.castCommit e)
  | 3 => some (.castAbort e)
  | 4 => some (.stall e)
  | 5 => some (.compactionMoveDone e)
  | 6 => some (.spillTimerExpiry e)
  | 7 => some (.spillWriteAck e)
  | 8 => some (.waveLoadPerform e)
  | 9 => some (.walkComplete e)
  | 10 => some (.walkerStart e)
  | 11 => some (.cmbPartialArrival e)
  | 12 => some (.cmbCellTimeout e)
  | 13 => some (.barrierPhaseComplete e)
  | 14 => some (.ridgeOccurrence e)
  | 15 => some (.ridgeControlWord e)
  | 16 => some (.ridgeMirrorApply e)
  | 17 => some (.tickUntilExpiry e)
  | 18 => some (.crucibleTokenArrival e)
  | 19 => some (.crucibleOperationStart e)
  | 20 => some (.permitHandout e)
  | 21 => some (.burstEnd e)
  | 22 => some (.gateStreamBind e)
  | 23 => some (.gateFeedBeat e)
  | 24 => some (.gateDrainBeat e)
  | 25 => some (.gateStreamComplete e)
  | 26 => some (.gateStreamFault e)
  | 27 => some (.faultDelivery e)
  | 28 => some (.verdictApply e)
  | 29 => some (.kernelSelect e)
  | 30 => some (.kernelStart e)
  | 31 => some (.kernelCancel e)
  | 32 => some (.gangStartTick e)
  | 33 => some (.sourceInjection e)
  | 34 => some (.kernelEnd e)
  | 35 => some (.heapPop e)
  | 36 => some (.sliceEnd e)
  | 37 => some (.sweep e)
  | 38 => some (.freeze e)
  | 39 => some (.sliceResume e)
  | 40 => some (.cfgFillComplete e)
  | 41 => some (.pagePull e)
  | 42 => some (.pullLost e)
  | 43 => if e = default then some .powerMeasure else none
  | 44 => some (.permitStepLower e)
  | 45 => some (.permitStepRaise e)
  | 46 => some (.courseRetentionEnter e)
  | 47 => some (.courseOffEnter e)
  | 48 => some (.courseWake e)
  | 49 => some (.scrub e)
  | 50 => some (.uncorrectableError e)
  | 51 => some (.downpipeFail e)
  | 52 => some (.courseFail e)
  | 53 => some (.downpipeTestBeat e)
  | 54 => if e = default then some .timeSync else none
  | 55 => some (.eaveFlitReplay e)
  | 56 => some (.eaveLinkLoss e)
  | 57 => if e = default then some .powerGood else none
  | 58 => if e = default then some .wfence else none
  | 59 => if e = default then some .ctxCreate else none
  | 60 => if e = default then some .ctxDelete else none
  | 61 => if e = default then some .planePut else none
  | 62 => if e = default then some .launchMessage else none
  | 63 => if e = default then some .memCopyToDevice else none
  | 64 => if e = default then some .memCopyToHost else none
  | 65 => if e = default then some .memCopyDevice else none
  | 66 => if e = default then some .checkpoint else none
  | 67 => if e = default then some .checkpointDebug else none
  | 68 => if e = default then some .restoreMessage else none
  | 69 => if e = default then some .attestReport else none
  | 70 => if e = default then some .attestChain else none
  | 71 => if e = default then some .telemPower else none
  | 72 => if e = default then some .telemTemperature else none
  | 73 => if e = default then some .telemErrors else none
  | 74 => if e = default then some .telemSleep else none
  | 75 => if e = default then some .telemSync else none
  | 76 => if e = default then some .resetStack else none
  | 77 => if e = default then some .resetContext else none
  | 78 => if e = default then some .epSend else none
  | 79 => if e = default then some .policyPowerLimit else none
  | 80 => if e = default then some .policySleep else none
  | 81 => if e = default then some .policySpareBanks else none
  | 82 => if e = default then some .policySignedPlanes else none
  | 83 => if e = default then some .policyKeyInstall else none
  | 84 => some (.restoreCopyDone e)
  | 85 => some (.crucibleOperationComplete e)
  | 86 => some (.sigDeliveryAck e)
  | 87 => some (.hostWindowWrite e)
  | 88 => if e = default then some .hostLinkDown else none
  | 89 => some (.permitFallDue e)
  | _ => none

/-- A record word read as an instruction (R115, R128, R132). -/
def decodeRecord (w : BitVec 96) : Except DecodeError Instr :=
  let op := recOp w
  if op = 0 then .error .emptySlot
  else
    match recordFault op (recFields w) with
    | some code => .error (.cfgIllegal code)
    | none =>
      match instrOfOp op (recFields w) with
      | some i => .ok i
      | none => .error (.cfgIllegal 1)

/-- A step word read as a step. -/
def decodeStep (w : BitVec 104) : Except DecodeError Instr :=
  let body : BitVec 96 := w.extractLsb' 0 96
  let cls := bitsAt w 96 8
  if cls = 0 then decodeRecord body
  else
    match eventOfNo cls (evFields body) with
    | some i => .ok i
    | none => .error .noEvent

/-- Little-endian bytes as a number. -/
def leNat : List Byte → Nat
  | [] => 0
  | b :: bs => b.toNat + 256 * leNat bs

/-- The first step of a byte string, and the bytes after it. -/
def decodeBytes (bs : List Byte) : Except DecodeError (Instr × List Byte) :=
  if bs.length < 13 then .error .short
  else
    match decodeStep (BitVec.ofNat 104 (leNat (bs.take 13))) with
    | .ok i => .ok (i, bs.drop 13)
    | .error e => .error e

/-- The bytes of a number, least significant first. -/
def leBytes : Nat → Nat → List Byte
  | 0, _ => []
  | n + 1, x => BitVec.ofNat 8 x :: leBytes n (x / 256)

/-- What the decoder reads from a table word: its bits as the least significant ones of a step word, those above 0. -/
def decodeTableWord (nbits w : Nat) : Option Instr :=
  match decodeBytes (leBytes 13 (w % 2 ^ nbits)) with
  | .ok (i, _) => some i
  | .error _ => none

/-- The record word of an OP and its fields (R115). -/
def recWord (op : Nat) (r : NodeRec) : BitVec 96 :=
  BitVec.ofNat 8 op ++ r.var ++ r.ty ++ r.ar ++ r.tg ++ BitVec.ofBool r.pl ++ r.d0 ++ r.d1 ++ r.lit

/-- The event word of an event's operands. -/
def evWord (e : EvArgs) : BitVec 96 :=
  e.course ++ e.unit ++ e.ft ++ e.k ++ e.cx ++ e.aux

/-- The step word of a step. -/
def encode (i : Instr) : BitVec 104 :=
  match i.op with
  | some op => 0#8 ++ recWord op i.fields
  | none => BitVec.ofNat 8 i.eventNo ++ evWord i.args

/-- The bytes of a step word as stored. -/
def encodeBytes (i : Instr) : List Byte := leBytes 13 (encode i).toNat

end Sys2Proof
end

