-- ==== Sys2Proof/Config.lean ====
section
/-! DEFINITION. Sys2Proof/Config.lean: the free values, which the spec leaves open and nothing in the model can evaluate
(notes/assumptions/2.md to 7.md). Each is applied to plain data of State, so that a claim about it holds whatever it is. -/

namespace Sys2Proof.Config

/-- Cycles of the 1.4 GHz clock that pass before a freely chosen step, 0 counting as 1: times other than the stated ones are open (R457).
The argument is State.stepCount. -/
opaque elapsed : Nat → Nat

/-- Which of several enabled steps comes next, where no rule orders them. The argument is State.stepCount. -/
opaque choice : Nat → Nat

/-- Steps for which a possible move is at most passed over: no step waits without bound (R457), and the bound is open. -/
opaque patience : Nat

/-- A measured quantity the spec gives no rule for: package power in W, junction temperatures in degrees, energy of a
step in µJ (R425, R451, R452). Arguments: which quantity, and State.fresh. -/
opaque measure : Nat → Nat → BitVec 64

/-- A byte that the spec gives no value: a byte of a feed beat whose element SKIP left out (R274), named by its stream's record
and its place in the packed stream, or a byte of a retired block (R396), named by State.fresh. -/
opaque freeByte : Nat → Byte

/-- The payload of a result that is sent poisoned and whose value the spec does not give: the result of a Plate request
that was not sent (R279). The argument names the firing, so that the value is that of the tokens alone (R329). -/
opaque poisonWord : Nat → BitVec 64

/-- The literal value of a record of type pred on the data plane: R122 gives it lane by lane, and pred has no lanes (R188).
The argument is the control-plane value. -/
opaque predLanes : Nat → BitVec 512

/-- The spare banks that the firmware withholds on a course, which the spec does not place (R396, R448): course, number of
the spare; the answer modulo 4096 is bay × 16 + bank. -/
opaque spareBank : Nat → Nat → Nat

/-- SHA-512, which the spec names and does not define (R105, R113, R445, R447). -/
opaque sha512 : List Byte → BitVec 512

/-- RSASSA-PSS verification with a key, over signed bytes, of a signature (R113). -/
opaque sigVerify : List Byte → List Byte → List Byte → Bool

/-- The root of trust's signature and certificate chain (R447). Arguments: the bytes signed, and State.fresh. -/
opaque rootSign : List Byte → Nat → List Byte

/-- The identity key's certificate chain (R447). -/
opaque certChain : List Byte

/-- The digest of the ROM image and of the identity public key (R447). -/
opaque romDigest : BitVec 512

/-- The digest of the identity public key (R447). -/
opaque identityDigest : BitVec 512

/-- The bytes of a capture's scan-out, the CAPT section of an image, whose layout the spec does not give (R428, R444 to R446).
The argument is State.fresh. -/
opaque captureBytes : Nat → List Byte

/-- Byte i of a context's 128-byte entry in the CTXS section of an image, which the spec does not lay out (R445): State.fresh,
the context, i. -/
opaque ctxsByte : Nat → Nat → Nat → Byte

/-- The time that the pod's time base shows when a stack joins it at bring-up (R454). The argument is State.fresh. -/
opaque podTick : Nat → BitVec 64

/-- The stack's number, read from the module's straps (R437). -/
opaque stackStraps : BitVec 10

/-- A correction of the pod time base within 1 ns per µs (R450), from delays the spec gives no value for. -/
opaque timeCorrection : Nat → Int

/-- The stacks that the routes computed at bring-up reach (R449, R454). -/
opaque podReach : List Nat

end Sys2Proof.Config
end

