-- ==== Sys2Proof/Machine/State.lean ====
section
/-! DEFINITION. Sys2Proof/Machine/State.lean: the state of one Y216 stack as plain data, and the state after reset.
Sparse structures are lists of (key, value) with rising keys; what is not listed holds its reset value. -/

namespace Sys2Proof.Machine

/-- An operand value with its marks: payload, poison P, exception mark E (R12, R14). -/
structure Opnd where
  val : Payload
  p : Bool
  e : Bool
  deriving DecidableEq, Repr, Inhabited

/-- The linkage slot of a frame (R19). -/
structure Link where
  cft : BitVec 12
  cit : BitVec 16
  rdest : BitVec 21
  str : BitVec 11
  e : Bool
  lc : Bool
  deriving DecidableEq, Repr, Inhabited

/-- What a node has when it issues: its place, its frame and the operands that met there (R22). For a crucible record,
`unit` is 0x1000 + n. `skip` is set at the first firing of a node that a SKIP verdict names (R388). `tags` is the linkage of its frame with NV
and NFT as they stood when it issued, from which its results take their tags whenever they are sent (R118); a crucible
record, or one that has not been issued, has none. -/
structure Firing where
  course : BitVec 4
  unit : BitVec 13
  node : BitVec 6
  cx : BitVec 12
  ft : BitVec 12
  it : BitVec 16
  a : Option Opnd
  b : Option Opnd
  c : Option Opnd
  s : Option Opnd
  skip : Bool
  tags : Option (Link × Bool × BitVec 12) := none
  deriving DecidableEq, Repr, Inhabited

/-- A record that has issued and whose further effect is held, parked or waiting. -/
structure Pend where
  word : BitVec 96
  fir : Firing
  deriving DecidableEq, Repr, Inhabited

/-- A token (R12, R13). A control payload stands in the low 64 bits of `val`. -/
structure Token where
  pl : Bool
  p : Bool
  e : Bool
  cx : BitVec 12
  ft : BitVec 12
  it : BitVec 16
  dest : BitVec 21
  val : Payload
  deriving DecidableEq, Repr, Inhabited

/-- A token on its way, with its target course and stack (R13), its sender, and whether it is internal to the live cast
of its frame (R25). -/
structure Transit where
  tok : Token
  course : BitVec 4
  stack : BitVec 10
  sStack : BitVec 10
  sCourse : BitVec 4
  sUnit : BitVec 13
  sNode : BitVec 6
  internal : Bool
  /-- the step after which it was on its way; 0 before that step (notes/assumptions/1.md) -/
  born : Nat
  /-- the cycle before which it does not arrive: the latency of the access that it answers (R319) -/
  due : Nat
  /-- the senders of acq partials in open cells that a cast entered by it comes after in its strand (R31, R234): course,
  element, FT, IT -/
  after : List (BitVec 4 × BitVec 13 × BitVec 12 × BitVec 16) := []
  deriving DecidableEq, Repr, Inhabited

/-- A fault record (R384), field by field. `bay` is by × 16 + bx. -/
structure FaultRec where
  kind : BitVec 5
  site : BitVec 3
  soft : Bool
  hops : BitVec 3
  ocx : BitVec 12
  aux : BitVec 16
  course : BitVec 4
  bay : BitVec 8
  unit : BitVec 13
  node : BitVec 6
  port : BitVec 2
  stack : BitVec 10
  ft : BitVec 12
  it : BitVec 16
  wave : BitVec 7
  str : BitVec 11
  strv : Bool
  addr : Word
  pos : BitVec 32
  snode : BitVec 6
  data0 : Word
  data1 : Word
  seq : BitVec 32
  verdict : BitVec 3
  lost : BitVec 16
  deriving DecidableEq, Repr, Inhabited

/-- What an unsettled fault holds (R380). -/
inductive Site where
  /-- nothing: a record or a notice -/
  | nothing
  /-- an aborted cast of a frame -/
  | cast (course : BitVec 4) (bay : BitVec 8) (ft : BitVec 12)
  /-- a write in a bay's replay queue and its suspended commit -/
  | home (course : BitVec 4) (bay : BitVec 8) (ft : BitVec 12)
  /-- the operation at the head of a crucible -/
  | crucible (course : BitVec 4) (n : BitVec 8)
  /-- a stream context of a bay's gate -/
  | gate (course : BitVec 4) (bay : BitVec 8) (sc : BitVec 2)
  /-- a spill held in a bay's spill latch, for a pool -/
  | spillLatch (course : BitVec 4) (bay : BitVec 8) (pool : BitVec 3)
  /-- an eviction held in a heap's latch -/
  | heapLatch (course : BitVec 4)
  /-- a discarded fill, by its CFG.LOAD -/
  | config (course : BitVec 4) (p : Pend)
  /-- a rejected token -/
  | token (t : Transit)
  deriving DecidableEq, Repr, Inhabited

/-- An unsettled or settled fault in the table of the context that handles it (R383). -/
structure FaultEntry where
  /-- the context whose table holds it; 0 is the firmware -/
  holder : BitVec 12
  info : FaultRec
  site : Site
  /-- entered into the table: it has its SEQ, and the cycle by which its fault token is due -/
  entered : Bool
  due : Nat
  /-- its fault token has been delivered -/
  delivered : Bool
  /-- the verdict that a REPAIR has sent and that has not reached the site (R388) -/
  answer : Option (BitVec 3)
  /-- the verdict has reached its site -/
  settled : Bool
  deriving DecidableEq, Repr, Inhabited

/-- One entry of a bay's wave buffer (R215). -/
structure WaveEntry where
  own : Nat
  pred : Nat
  succ : Nat
  /-- the record is a load waiting to be performed -/
  load : Bool
  performed : Bool
  pend : Pend
  deriving DecidableEq, Repr, Inhabited

/-- A request that a commit sends after the writes of step 1 (R267, R292, R293), with the linkage and the tokens that its
tags gave when it issued. -/
structure AfterReq where
  pend : Pend
  link : Link
  toks : List Transit
  deriving DecidableEq, Repr, Inhabited

/-- The live cast of a frame (R25 to R27) and the effects it holds. -/
structure Cast where
  /-- its block: plane number × 2^17 + index in FRM -/
  block : Nat
  strand : BitVec 11
  /-- its source nodes have had their injections, from which a re-fired cast runs them again (R360) -/
  injected : Bool
  /-- its injections wait for a slice of its context on the course (R361) -/
  owed : Bool
  exited : Bool
  /-- held writes of step 1 of R26 -/
  held : List Pend
  /-- held effects of step 2 -/
  effects : List Pend
  /-- Plate request of the cast (R279) -/
  plate : List Pend
  /-- gate requests, host signals and verdicts sent after the writes of step 1 (R267, R292, R293) -/
  after : List AfterReq
  /-- outgoing tokens -/
  out : List Transit
  /-- outstanding responses: BAR.wait, RDG.WAIT, TICK.until, listed ILD -/
  waits : List Pend
  wave : List WaveEntry
  /-- room granted to the cast: frames, buffers (pool, entry), crucibles, Ridge slots (R27) -/
  gotFrames : List (BitVec 12)
  gotBufs : List (Nat × Nat)
  gotCru : List Nat
  gotRdg : List Nat
  /-- heap entries reserved by its SPAWNs, one a course entry (R302) -/
  gotHeap : Nat
  /-- frame linked by its own ITER, with the iteration that frame had (R170) -/
  linked : Option (BitVec 12 × BitVec 16)
  /-- flags to be ORed into NFLAG at commit (R145) -/
  flags : BitVec 7
  /-- the first hard fault raised, with its owner (R27, R381) -/
  fault : Option (BitVec 12 × FaultRec)
  /-- the abort is made and its verdict is awaited -/
  aborted : Bool
  /-- the node that a SKIP verdict names for the re-fired cast: unit and node (R388) -/
  skip : Option (BitVec 13 × BitVec 6)
  /-- the commit has begun: its requests are answered and its checks made (R26, R279) -/
  committing : Bool
  /-- the commit is suspended at a write in the replay queue (R226) -/
  suspended : Option Pend
  /-- stall counter in cycles (R29) -/
  stall : Nat
  deriving DecidableEq, Repr, Inhabited

/-- A frame: its row of the frame table (R20), its linkage (R19) and its slots. V is being listed. -/
structure Frame where
  cx : BitVec 12
  sp : Bool
  cs : Bool
  mv : Bool
  pool : BitVec 3
  base : BitVec 16
  map : BitVec 8
  arr : BitVec 7
  nv : Bool
  nft : BitVec 12
  it : BitVec 16
  pres : BitVec 64
  inp : BitVec 64
  link : Link
  /-- slot values by slot index; an unlisted slot holds no token's bytes yet -/
  slots : List (Nat × Opnd)
  /-- slots that tokens have filled, the newest first: the last arrival completes a node (R22, R34) -/
  arrivals : List Nat
  /-- granules of its map, without a guard granule -/
  size : Nat
  /-- a guard granule of checked mode stands above it (R392) -/
  guard : Bool
  /-- slots of its map, and which are data slots (R17) -/
  nslots : Nat
  dmask : Word
  cast : Option Cast
  /-- blocks with waiting tokens, by first arrival, each with the cycle of that arrival (R23) -/
  waiting : List (Nat × Nat)
  /-- order of its grant in the bay, for R65 -/
  age : Nat
  /-- ring offset in 16-byte units and SEQ of its image while spilled (R66) -/
  image : Nat × Nat
  /-- freed by a commit while its copy runs: it goes when the copy ends (R63) -/
  freeing : Bool
  /-- freed by a KILL_STRAND while its copy runs: it goes when the copy ends, and no handler sees the tokens that then
  arrive for it (R388) -/
  killing : Bool
  /-- a FREE.FRM named it while its cast was live: it goes when that cast ends (R179) -/
  endFree : Bool
  /-- the SEQ of the fault whose handling it belongs to, for a fault frame (R382) -/
  faultSeq : Option (BitVec 32)
  /-- tokens that wait at the bay for it (R21, R68) -/
  atBay : List Transit
  /-- the senders of acq partials that its tokens come after (R31, R234) -/
  after : List (BitVec 4 × BitVec 13 × BitVec 12 × BitVec 16)
  deriving DecidableEq, Repr, Inhabited

/-- An entry of a partition table (R42); a listed entry is valid. -/
structure Part where
  cx : BitVec 12
  fth : BitVec 12
  ftl : BitVec 12
  deriving DecidableEq, Repr, Inhabited

/-- An entry of a pool map (R54). `gen` stays when the entry is free. -/
structure PEntry where
  v : Bool
  sp : Bool
  mv : Bool
  ch : Bool
  gen : BitVec 8
  base : BitVec 16
  size : BitVec 16
  uc : BitVec 8
  hft : BitVec 12
  /-- the context that holds it, and its grant's order and guard, which the entry's 64 bits do not name -/
  cx : BitVec 12
  age : Nat
  guard : Bool
  seq : Nat
  /-- freed by a commit while its copy runs: it goes when the copy ends (R63) -/
  freeing : Bool
  /-- marked lost (R398) -/
  lost : Bool
  /-- ring offset in bytes of its image while spilled, of which BASE shows 16 bits in 16-byte units (R54) -/
  img : Nat
  deriving DecidableEq, Repr, Inhabited

/-- Who waits in a pool's list (R57, R58). -/
inductive Party where
  /-- an ALLOC or ILD node parked in its port-A slot -/
  | node
  /-- a stream context of the bay's gate -/
  | stream (sc : Nat)
  /-- the take latch of a GAIN.TAKE node -/
  | take
  /-- the launch frame of a kernel -/
  | launch (cx : BitVec 12) (serial : BitVec 32)
  /-- the fault frame of an unsettled fault of a context -/
  | fault (cx : BitVec 12) (seq : BitVec 32)
  deriving DecidableEq, Repr, Inhabited

/-- A request in a pool's waiting list, as its wait word shows it (R57). -/
structure Waiter where
  party : Party
  pend : Pend
  size : Nat
  nslots : Nat
  dmask : Word
  map : BitVec 8
  cs : Bool
  ovt : BitVec 5
  uc : BitVec 8
  guard : Bool
  deriving DecidableEq, Repr, Inhabited

/-- An allocation of a pool, for moves and spills: a frame, or a pool-map entry. -/
inductive AllocId where
  | frame (ft : BitVec 12)
  | buf (entry : Nat)
  deriving DecidableEq, Repr, Inhabited

/-- A pool: its descriptor (R50), map (R54), waiting list, counters (R83) and what its state machine holds (R71). -/
structure Pool where
  kind : BitVec 2
  cx : BitVec 12
  allow : BitVec 4
  sc : BitVec 4
  base : BitVec 16
  size : BitVec 16
  rsv : BitVec 16
  anchored : Bool
  waiters : List Waiter
  pmap : List (Nat × PEntry)
  grants : BitVec 32
  releases : BitVec 32
  overtakes : BitVec 32
  anchors : BitVec 32
  compactions : BitVec 32
  spills : BitVec 32
  restores : BitVec 32
  intoSpilled : BitVec 32
  /-- spill timer in cycles (R64) -/
  timer : Nat
  /-- a spill has been made for the anchored head (R70) -/
  spilledForHead : Bool
  /-- allocations still to move in a compaction, the first being copied (R63) -/
  moving : List AllocId
  /-- target base of the one being copied, and the cycle in which its copy ends (R63) -/
  moveBase : Nat
  moveDue : Nat
  /-- the victim whose image is being written, with the image's ring offset and SEQ (R66), and whether ROOM or PAGE holds it (R73, R74) -/
  spilling : Option (AllocId × Nat × BitVec 32)
  spillHeld : Bool
  /-- its place in the ring is taken and its header written -/
  spillPlaced : Bool
  /-- the allocations being copied back, oldest first, each with the base that its copy goes to (R70) -/
  restoring : List (AllocId × Nat)
  /-- the restore pseudo-request that heads the pool (R70) -/
  pseudo : Option AllocId
  /-- granules retired by failed memory, counted as allocated (R399): base and size -/
  retired : List (Nat × Nat)
  /-- granules that a revocation took from its context, counted as allocated until they are granted again (R418) -/
  away : List (Nat × Nat)
  deriving DecidableEq, Repr, Inhabited

/-- A gate pattern (R107): element size and dimensions (stride, count), innermost first. -/
structure Pattern where
  es : Nat
  dims : List (Int × Nat)
  deriving DecidableEq, Repr, Inhabited

/-- A stream context of a gate (R265 to R275). `state` is that of GATE.QRY. -/
structure Stream where
  state : Nat
  pend : Pend
  /-- linkage of the issuing frame, and the tokens of its completion, captured at issue -/
  link : Link
  toks : List Transit
  /-- the next element in order -/
  pos : Nat
  /-- elements of the packed stream -/
  count : Nat
  pat : Pattern
  /-- FEED: beats sent; the beat's frame request is parked; the granted frame that waits for its beat -/
  beat : Nat
  parked : Bool
  frame : Option (BitVec 12)
  /-- elements that SKIP left out (R274) -/
  skipped : List Nat
  /-- DRAIN: beats that have arrived, with their payloads; elements written or left out -/
  beats : List (Nat × Payload)
  doneEls : List Nat
  /-- its completion carries P = 1: an element was skipped, or lost data was read (R223, R274) -/
  poisoned : Bool
  /-- order in which its gate took it: a fence taken before holds it (R272) -/
  order : Nat
  /-- the selectors as they stood at its binding (R240) -/
  sels : List (Nat × Bool)
  deriving DecidableEq, Repr, Inhabited

/-- An entry of a bay's translation cache (R316). -/
structure TlbEntry where
  cx : BitVec 12
  /-- page-aligned virtual address and page size of the composed entry -/
  va : Nat
  size : Nat
  /-- backing: the leaf of the physical level, its size, and the offset of the page in it (R413, R315) -/
  base : Nat
  bsize : Nat
  boff : Nat
  /-- the same of the second copy of a shadow-capable page (R411) -/
  snd : Nat × Nat × Nat := (0, 0, 0)
  cls : Nat
  w : Bool
  /-- every D bit of the chain is set (R416) -/
  dirty : Bool
  gen : BitVec 16
  deriving DecidableEq, Repr, Inhabited

/-- A bay (R2): frame table, partition table, pools, gate, translation cache, spill sequence number. -/
structure Bay where
  frames : List (Nat × Frame)
  parts : List (Nat × Part)
  pools : List (Nat × Pool)
  streams : List (Nat × Stream)
  /-- GATE.FENCEs not yet complete: the order number at which each was taken, the tokens and the word it emits -/
  fences : List (Nat × List Transit × Word)
  taken : Nat
  tlb : List TlbEntry
  spillSeq : BitVec 32
  grantAge : Nat
  /-- frame-table rows retired by memory errors (R396), and the room of lost buffers that have been freed (R398) -/
  retiredRows : List Nat
  retiredRoom : List (Nat × Nat)
  /-- free rows whose last frame KILL_STRAND freed: tokens for them go without a fault (R388) -/
  killed : List Nat
  /-- when the background scrubber last went through its store (ns) (R395) -/
  lastScrub : Nat
  deriving DecidableEq, Repr, Inhabited

/-- An entry of a ready queue or pending store (R22, R33): the payload of the completing token rides with it when its
port has no slot. -/
structure Ready where
  cx : BitVec 12
  ft : BitVec 12
  it : BitVec 16
  node : BitVec 6
  arrived : Option (BitVec 2 × Opnd)
  /-- issue slots waited at the head of its queue (R36) -/
  waited : Nat
  /-- the cycle in which it completed, and the plane of the arrival that completed it (R34) -/
  cyc : Nat
  pl : Bool
  /-- the step in which it completed (notes/assumptions/1.md) -/
  born : Nat
  deriving DecidableEq, Repr, Inhabited

/-- One record bank with its node slot table and setting word (R15, R16, R126). -/
structure Bank where
  recs : List (Nat × BitVec 96)
  nst : List (Nat × BitVec 32)
  setting : Word
  deriving DecidableEq, Repr, Inhabited

/-- A GAIN.TAKE's take latch (R304). -/
structure TakeLatch where
  cx : BitVec 12
  serial : BitVec 32
  link : Link
  /-- its frame request is parked -/
  parked : Bool
  /-- the granted frame that waits for a task, with its place in grant order -/
  frame : Option (BitVec 12 × Nat)
  deriving DecidableEq, Repr, Inhabited

/-- An element (R2, R15, R33). -/
structure Element where
  active : Bank
  shadow : Bank
  k : List (Nat × Word)
  ready : List Ready
  pending : List Ready
  /-- tokens that wait at the input because queue and store are full (R33) -/
  input : List Transit
  /-- completions that no token carries and that wait, queue and store being full -/
  late : List Ready
  /-- one more than the cycle of its last issue, and of the last arrivals over its networks on the control and the data
  plane (R33); 0 before any -/
  lastIssue : Nat
  lastCtl : Nat
  lastDat : Nat
  /-- the step of its last issue (notes/assumptions/1.md) -/
  lastStep : Nat
  lastIt : BitVec 16
  /-- take latches by context × 64 + node: those of a context that is swept out stay (R304) -/
  takes : List (Nat × TakeLatch)
  deriving DecidableEq, Repr, Inhabited

/-- One accepted operation of a crucible (R251). -/
structure CruOp where
  pend : Pend
  started : Bool
  /-- MX.MMA: waits for a pour permit; holds one and runs its burst (R260, R261) -/
  wantPermit : Bool
  burst : Bool
  /-- its effect is made and its completion is due; the completion carries P -/
  done : Bool
  poisoned : Bool
  result : Word
  /-- held by a fault (R253) -/
  held : Bool
  /-- MX.MMA: its scale word is written (R259); cycles waited for scale entries (R260); the cycle in which its burst ends
  (R261) -/
  scaled : Bool
  waited : Nat
  burstDue : Nat
  /-- the cycle that accepted it (R251) -/
  cyc : Nat
  /-- flags that are set when it completes (R145, R262) -/
  flags : BitVec 7 := 0
  deriving DecidableEq, Repr, Inhabited

/-- A B bank of a crucible: format, and 128 columns of 128 element codes of 16 bits (R248). -/
structure BBank where
  loaded : Bool
  fmt : BitVec 4
  cols : List (Nat × BitVec 2048)
  deriving DecidableEq, Repr, Inhabited

/-- A crucible and its one frame (R248). -/
structure Crucible where
  granted : Bool
  cx : BitVec 12
  it : BitVec 16
  link : Link
  slots : List (Nat × Opnd)
  ra : Nat
  aFmt : BitVec 4
  aSparse : BitVec 2
  aRows : List (Nat × BitVec 2048)
  aMasks : List (Nat × BitVec 128)
  b0 : BBank
  b1 : BBank
  /-- present scale entries by side × 512 + index × 4 + block -/
  scales : List (Nat × BitVec 16)
  /-- accumulator cells by n × 16384 + row × 128 + column, in x37; unlisted cells are +0 -/
  acc : List (Nat × BitVec 37)
  rows : List (Nat × Nat)
  gstat : Word
  ops : List CruOp
  accepted : BitVec 32
  /-- handler records, active and shadow -/
  active : List (Nat × BitVec 96)
  shadow : List (Nat × BitVec 96)
  /-- parked ALLOC.CRU requests with their tickets (R82) -/
  waiters : List (BitVec 21 × Pend)
  ticket : BitVec 21
  /-- holds a pour permit; it runs ballast for the context that held it last (R452) -/
  permit : Bool
  ballast : Bool
  burstCx : BitVec 12
  deriving DecidableEq, Repr, Inhabited

/-- A translation walk, queued or begun, with the accesses that joined it (R317). -/
structure Walk where
  cx : BitVec 12
  page : Nat
  begun : Bool
  /-- generation when it began (R414), and the cycle in which its reads are done (R317) -/
  gen : BitVec 16
  due : Nat
  /-- waiting accesses, each with its bay -/
  users : List Pend
  /-- firings of prefetches, commits and engines that the walk serves as well; they go on by themselves -/
  guests : List Firing
  /-- the other ends of the accesses that wait, by bay and address: they wait on the entries of those pages too (R316) -/
  needs : List (Nat × Nat) := []
  deriving DecidableEq, Repr, Inhabited

/-- An entry of a course's heap (R365). -/
structure HeapEntry where
  rv : Bool
  cx : BitVec 12
  key : BitVec 32
  task : BitVec 32
  deriving DecidableEq, Repr, Inhabited

/-- A reservation that waits for a heap entry: a parked SPAWN, or a change of a committing cast (R302, R303). -/
structure HeapWait where
  cx : BitVec 12
  task : BitVec 32
  pend : Pend
  /-- a change, which waits whole at its home: cell, RESID and heap are as before it (R301) -/
  change : Bool
  deriving DecidableEq, Repr, Inhabited

/-- A course's heap (R365 to R370). -/
structure Heap where
  entries : List HeapEntry
  waits : List HeapWait
  /-- an eviction held by ROOM or PAGE (R370) -/
  held : Bool
  /-- per context: eviction sequence number; pops; and their number when its heap kernel began -/
  evictSeq : List (Nat × BitVec 32)
  pops : List (Nat × BitVec 32)
  oldPops : List (Nat × BitVec 32)
  /-- tasks running on the course, with their contexts (R304, R306) -/
  running : List (BitVec 12 × BitVec 32)
  takeOrder : Nat
  /-- the cycle after that of the last pop: changes come before a pop of their cycle (R368) -/
  popped : Nat
  deriving DecidableEq, Repr, Inhabited

/-- Power state of a course (R345). -/
inductive Power where
  | awake | retention | off
  deriving DecidableEq, Repr, Inhabited

/-- A write queued at a course's Ridge port (R244, R338). -/
structure RidgeWrite where
  slot : Nat
  mask : BitVec 128
  data : BitVec 1024
  cx : BitVec 12
  str : BitVec 11
  /-- tokens that carry its position word once it is sent, and the firing of its RDG.ST, whose cast then releases them -/
  toks : List Transit
  beat : Nat
  sender : Option Firing := none
  deriving DecidableEq, Repr, Inhabited

/-- A control word queued for the Ridge's control lane (R340). -/
structure CtlWord where
  word : Word
  beat : Nat
  /-- PUBLISH: the selector that flips (R342) -/
  page : Nat
  cx : BitVec 12
  str : BitVec 11
  /-- BAR.arrive: tokens that carry its phase word, the record of a count that differs (R237), and its firing -/
  toks : List Transit
  note : Option FaultRec
  sender : Option Firing := none
  deriving DecidableEq, Repr, Inhabited

/-- A unit's entry of PLN (R104). -/
structure PUnit where
  course : Nat
  crucible : Bool
  x : Nat
  y : Nat
  setting : Word
  k : List Word
  recs : List (BitVec 96)
  nst : List (BitVec 32)
  deriving DecidableEq, Repr, Inhabited

/-- A frame map (R105). -/
structure PMap where
  idx : Nat
  slots : Nat
  gran : Nat
  dmask : Word
  deriving DecidableEq, Repr, Inhabited

/-- A block entry (R105), with the nodes of the block as (element address, node) (notes/assumptions/8.md). -/
structure PBlock where
  course : Nat
  bay : Nat
  name : List Byte
  hash : Word
  maps : List Nat
  nodes : List (Nat × Nat)
  deriving DecidableEq, Repr, Inhabited

/-- A pool entry of POL (R106). -/
structure PPool where
  course : Nat
  bay : Nat
  id : Nat
  w0 : Word
  w1 : Word
  deriving DecidableEq, Repr, Inhabited

/-- A data section (R108). -/
structure PDat where
  buf : Bool
  course : Nat
  bay : Nat
  pool : Nat
  uc : Nat
  va : Word
  gran : Nat
  bytes : List Byte
  deriving DecidableEq, Repr, Inhabited

/-- A HANDLE relocation (R109): data section, unit index in PLN, K index, addend. -/
structure PHandle where
  dat : Nat
  unit : Nat
  k : Nat
  add : Int
  deriving DecidableEq, Repr, Inhabited

/-- The launch entry LCH (R111). -/
structure PLaunch where
  course : Nat
  bay : Nat
  pool : Nat
  argc : Nat
  block : Nat
  ak : List Nat
  ft : Nat
  perm : Nat
  depth : Nat
  heap : Nat
  rdgn : Nat
  cru : Nat
  deriving DecidableEq, Repr, Inhabited

/-- A plane held in the Thatch, with its name and the bytes of its file. `damaged` is set by an uncorrectable Thatch error (R396). -/
structure Plane where
  name : List Byte
  bytes : Nat
  units : List PUnit
  maps : List PMap
  blocks : List PBlock
  pools : List PPool
  pats : List Pattern
  dats : List PDat
  handles : List PHandle
  launch : Option PLaunch
  rdg : List Nat
  damaged : Bool
  deriving DecidableEq, Repr, Inhabited

/-- A course's shadow configuration (R294, R295). -/
inductive Shadow where
  /-- no complete configuration -/
  | none
  /-- plane of a context, complete -/
  | complete (cx : BitVec 12) (plane : BitVec 16) (info : Plane)
  deriving DecidableEq, Repr, Inhabited

/-- A CFG.LOAD fill in progress (R294). -/
structure Fill where
  cx : BitVec 12
  plane : BitVec 16
  pend : Pend
  toks : List Transit
  /-- the strand of the issuing cast -/
  str : BitVec 11
  /-- the issuing cast's commit is complete, so that the result may follow (R279) -/
  ready : Bool
  /-- held by CFG_FETCH, CFG_ILLEGAL or LAYOUT -/
  held : Bool
  deriving DecidableEq, Repr, Inhabited

/-- A plane that a context has active on a course, as it was dropped or flipped in; the newest stands first, and owns the
units that it places. -/
structure Loaded where
  cx : BitVec 12
  plane : BitVec 16
  /-- the kernel that dropped it -/
  serial : BitVec 32
  info : Plane
  deriving DecidableEq, Repr, Inhabited

/-- A course (R2): power, permits, slice holder, configuration, heap, Ridge port, walkers. -/
structure Course where
  step : Nat
  power : Power
  /-- last beat applied while off (R346), and its mirror then -/
  lastBeat : Nat
  mirror : Option (List (Nat × Byte))
  holder : Option (BitVec 12)
  /-- the slice's end in ns, and when it began -/
  sliceEnd : Nat
  sliceStart : Nat
  /-- a sweep in progress: the context swept, its start, and the next holder (R426) -/
  sweeping : Option (BitVec 12 × Nat × BitVec 12)
  /-- the next holder, chosen when the sweep began (R426) -/
  next : Option (BitVec 12)
  /-- one more than the beat of the course's last exchange of banks (R430) -/
  exchanged : Nat
  /-- the beat from which nodes issue again after a sleep (R345) -/
  issueFrom : Nat
  /-- tokens that a freeze has scanned out of the course's links, until their context's next slice (R428) -/
  frozen : List Transit
  loaded : List Loaded
  shadow : Shadow
  /-- the complete configuration is the former plane that a flip left there (R295), and those of contexts swept off -/
  former : Bool
  kept : List (BitVec 12 × BitVec 16 × Plane)
  fill : Option Fill
  /-- fills that wait for it to end -/
  fillNext : List Fill
  /-- contexts whose interrupted fill restarts at their next slice (R430) -/
  refill : List Fill
  heap : Heap
  port : List RidgeWrite
  ctl : List CtlWord
  walks : List Walk
  /-- a permit change of the course was made at this time in ns (R452) -/
  lastRise : Nat
  lastFall : Nat
  /-- conditions of R345 have held since (ns); retention began at (ns) -/
  quietSince : Nat
  retainedAt : Nat
  /-- when its mirror copy was last scrubbed (ns; R395) -/
  mirrorScrub : Nat
  /-- a wake in progress: the cycles in which it may end and must have ended (R345, R453) -/
  waking : Option (Nat × Nat)
  failed : Bool
  deriving DecidableEq, Repr, Inhabited

/-- A holding entry (R282). -/
structure Holding where
  kind : BitVec 4
  course : BitVec 4
  p0 : BitVec 56
  p1 : Word
  deriving DecidableEq, Repr, Inhabited

/-- A ring: descriptor of R67, with the count of images written. -/
structure Ring where
  base : Word
  sz : BitVec 4
  head : BitVec 32
  tail : BitVec 32
  written : Nat
  deriving DecidableEq, Repr, Inhabited

/-- A launch record with its arguments (R354). -/
structure LaunchRec where
  cx : BitVec 12
  plane : BitVec 16
  queue : BitVec 2
  prio : BitVec 3
  ev : Bool
  strict : Bool
  course : BitVec 4
  bay : BitVec 8
  pool : BitVec 3
  blk : BitVec 17
  pre : List Word
  start : Word
  gid : BitVec 32
  gn : BitVec 11
  args : List Word
  deriving DecidableEq, Repr, Inhabited

/-- State of a kernel (R356). `selected` is a WAITING kernel that R357 has selected. -/
inductive KState where
  | queued | waiting | selected | starting | running | ended
  deriving DecidableEq, Repr, Inhabited

/-- End status of a kernel, as KEND codes it (R442). -/
inductive KStatus where
  | normal | cancelled | refused | killed
  deriving DecidableEq, Repr, Inhabited

/-- A kernel (R353 to R360). -/
structure Kernel where
  cx : BitVec 12
  serial : BitVec 32
  launch : LaunchRec
  fromHost : Bool
  state : KState
  status : KStatus
  fault : BitVec 5
  code : BitVec 16
  /-- entry course, bay, pool and block index -/
  course : BitVec 4
  bay : BitVec 8
  pool : BitVec 3
  block : Nat
  frame : Option (BitVec 12)
  /-- injections are still to be made -/
  pending : Bool
  /-- its plane as it was dropped; none before its start -/
  info : Option Plane
  /-- start tick of its gang (R362) -/
  tick : Nat
  heap : Bool
  /-- its kernel-end token has been emitted (R371) -/
  endToken : Bool
  /-- Ridge slots it reserved (R336) -/
  slots : List Nat
  deriving DecidableEq, Repr, Inhabited

/-- A context (R280 to R290, R353, R383, R422). -/
structure Ctx where
  depth : BitVec 3
  parent : BitVec 12
  runnable : Bool
  seed : Word
  sbc : BitVec 5
  /-- SBC at its creation, which a reset restores (R287, R290) -/
  sbc0 : BitVec 5
  fpol0 : Word
  faultPol : Word
  handler : Word
  nflag : BitVec 7
  timeG : Word
  timeS : Word
  energy : Word
  revoking : Bool
  pceil : List (Nat × BitVec 5)
  resid : BitVec 96
  tol : Word
  thresh : BitVec 32
  taskBase : Word
  taskN : BitVec 32
  frec : FaultRec
  troot : Word
  gen : BitVec 16
  holds : List Holding
  /-- holdings at its creation, for the replacing kinds of R285 -/
  born : List Holding
  weight : BitVec 16
  quantum : BitVec 32
  saveTime : Nat
  /-- pass values (R422): by course as a contender under its parent, by 16 + course as a contender under itself -/
  pass : List (Nat × BitVec 64)
  /-- overflow ring (SEL 0) and heap ring (SEL 1) per course, by SEL × 16 + course -/
  rings : List (Nat × Ring)
  serial : BitVec 32
  faultSeq : BitVec 32
  /-- soft records dropped since the last one delivered (R383) -/
  lost : BitVec 16
  deriving DecidableEq, Repr, Inhabited

/-- A barrier instance (R236): context, scope, number, unit, with its open phase. -/
structure Barrier where
  cx : BitVec 12
  scope : BitVec 3
  num : BitVec 6
  unit : Nat
  phase : BitVec 16
  count : Nat
  arrivals : Nat
  /-- phases whose count is reached, each with the cycle at which its completion is due (R44) -/
  due : List (BitVec 16 × Nat)
  deriving DecidableEq, Repr, Inhabited

/-- A partial in a combine cell: its sender's order key and value (R156, R233). -/
structure Partial where
  it : BitVec 16
  course : BitVec 4
  unit : BitVec 13
  node : BitVec 6
  val : Payload
  p : Bool
  ft : BitVec 12
  /-- the OWN of its CMB, which a record of its release names as WAVE (R390) -/
  own : Nat
  /-- an acq CMB, and its strand, whose later accesses wait for the cell (R234) -/
  acq : Bool
  str : BitVec 11
  /-- its cast ran in a fault frame, whose faults its own handler does not see (R381) -/
  inFault : Bool := false
  deriving DecidableEq, Repr, Inhabited

/-- A combine cell, open until it holds `n` partials (R233). -/
structure Cell where
  cx : BitVec 12
  /-- the physical address, or a handle with its offset, whose bytes the release finds where they then are (R55) -/
  pa : Nat
  addr : Word
  home : Nat
  var : BitVec 4
  ty : BitVec 4
  pl : Bool
  n : Nat
  parts : List Partial
  /-- cycles open with no partial joining it (R234) -/
  idle : Nat
  deriving DecidableEq, Repr, Inhabited

/-- The tag of a structure word (R228); unlisted words are empty. HEAD and TAIL are granules of the DEF pool. -/
structure STag where
  full : Bool
  res : Bool
  wait : Bool
  pool : BitVec 3
  head : Option (BitVec 16)
  tail : Option (BitVec 16)
  deriving DecidableEq, Repr, Inhabited

/-- The state of a Ridge slot in its holding context (R336). -/
inductive SlotState where
  | idle | reserved | granted
  deriving DecidableEq, Repr, Inhabited

/-- A slot held by a context, with the number of live kernels that reserve it, and a release that waits for its zero
entry (R337). -/
structure Slot where
  cx : BitVec 12
  state : SlotState
  users : Nat
  leaving : Bool
  deriving DecidableEq, Repr, Inhabited

/-- What a beat of the Ridge carried and the mirrors have yet to apply (R333). -/
structure RidgeChange where
  beat : Nat
  ch : Nat
  slot : Nat
  mask : BitVec 128
  data : BitVec 1024
  /-- its source: 0 to 15 a course, 16 the Plate (R331) -/
  src : BitVec 5
  /-- contexts and strands whose writes it merges -/
  by_ : List (BitVec 12 × BitVec 11)
  ctl : Option CtlWord
  deriving DecidableEq, Repr, Inhabited

/-- A host message, request or response (R438). -/
structure Msg where
  opc : BitVec 8
  flags : BitVec 8
  tag : BitVec 16
  cx : BitVec 16
  status : BitVec 16
  p0 : Word
  p1 : Word
  payload : List Byte
  /-- the header's reserved bytes 0x0C to 0x0F -/
  rsv : BitVec 32 := 0
  deriving DecidableEq, Repr, Inhabited

/-- One element's part of a context's save area (R426). -/
structure Saved where
  cx : BitVec 12
  course : BitVec 4
  el : Nat
  bank : Bank
  k : List (Nat × Word)
  ready : List Ready
  pending : List Ready
  late : List Ready
  deriving DecidableEq, Repr, Inhabited

/-- A page marked DATA_LOST (R397); `snd` is the base and size of its second copy, which goes with it. -/
structure LostPage where
  pa : Nat
  size : Nat
  snd : Option (Nat × Nat) := none
  /-- the table entries that mapped it: the mark goes when one is rewritten -/
  leaves : List Nat
  /-- banks of it that have no backing, no spare bank having been free (R396) -/
  gone : List Nat := []
  deriving DecidableEq, Repr, Inhabited

/-- The next move (the model's own, notes/assumptions/1.md). -/
inductive Pick where
  /-- a step word -/
  | event (w : BitVec 104)
  /-- an element issues a ready node (R33) -/
  | issue (course : BitVec 4) (el : BitVec 13)
  /-- a record acts on a firing: a crucible operation that has started, or an access whose walk has ended -/
  | fire (p : Pend)
  /-- the Plate goes on with a request that it has accepted (R286, R295, R418) -/
  | plate (p : Pend)
  deriving DecidableEq, Repr, Inhabited

/-- What waits for its turn among the moves (the model's own, notes/assumptions/1.md): a move, whatever the free choice that it
carries, or a token that has not arrived. -/
inductive Turn where
  | move (p : Pick)
  | token (t : Transit)
  deriving DecidableEq, Repr, Inhabited

/-- Bring-up and sideband registers (R437, R454). -/
structure Sideband where
  phase : BitVec 4
  ready : Bool
  frozen : Bool
  stackNo : BitVec 10
  deriving DecidableEq, Repr, Inhabited

/-- POLICY values (R448): power limit, sleep, spare banks, signed planes, keys. -/
structure Policy where
  power : Nat
  sleep : BitVec 2
  spare : Nat
  signed : Bool
  keys : List (List Byte)
  deriving DecidableEq, Repr, Inhabited

/-- Counters and measurements that TELEM and the controllers read (R451, R452, R395, R399). -/
structure Telem where
  power : Word
  /-- the last 100 measurements of package power, newest first, whose mean the controller uses (R451) -/
  powers : List Word
  temps : List (Nat × Word)
  corrected : Nat
  uncorrectable : Nat
  /-- errors of a bank, by (course, bay, bank) number, with the ns of each -/
  bankErrors : List (Nat × List Nat)
  retiredBanks : List Nat
  /-- spare banks taken into use, as bank numbers, and the banks whose pages they back (R396) -/
  usedSpares : List Nat
  remaps : List (Nat × Nat)
  /-- downpipes, one a bay position (R3), that have failed and are drained onto a neighbour (R400); downpipe under test, beats driven (R401) -/
  failedPipes : List Nat
  testPipe : Nat
  testBeats : Nat
  /-- far blocks retired to spare blocks (R396) -/
  retiredFar : List Nat
  syncFlag : Bool
  master : BitVec 10
  /-- Eave flits replayed; Eave links that are lost, of the 16 (R2, R449) -/
  replays : Nat
  lostLinks : List Nat
  scrubbed : Nat
  /-- when the power controller last lowered and last raised a step (ns); 0 is not yet (R451) -/
  lastLower : Nat
  lastRaise : Nat
  /-- when power was last measured, and time last exchanged (ns); 0 is not yet -/
  lastMeasure : Nat
  lastSync : Nat
  /-- when a downpipe was last tested, and the Thatch last scrubbed (ns; R395, R401) -/
  lastTest : Nat
  lastThatch : Nat
  /-- correction of the pod time base in ns per µs, -1, 0 or 1 (R450) -/
  drift : Int
  deriving DecidableEq, Repr, Inhabited

/-- A message queued on a host endpoint, sent as SIG and awaiting the acknowledgement of its delivery (R293, R442). -/
structure SigMsg where
  cx : BitVec 12
  ep : Nat
  val : Word
  deriving DecidableEq, Repr, Inhabited

/-- A GUARD record that waits for its strand's next BAR.arrive or its kernel's end (R394). -/
structure GuardNote where
  cx : BitVec 12
  info : FaultRec
  deriving DecidableEq, Repr, Inhabited

/-- A strand or context that a soft record's policy ends, once the commit of the cast at `place` is complete (R387). -/
structure Doom where
  cx : BitVec 12
  str : BitVec 11
  whole : Bool
  place : Option (BitVec 4 × BitVec 8 × BitVec 12)
  deriving DecidableEq, Repr, Inhabited

/-- A Plate request that has been accepted and is not complete: a CTX.REVOKE, a CTX.STOP or a CFG.FLIP, with the tokens
of its result and the child and holding entries concerned (R279). -/
structure PlateWork where
  pend : Pend
  toks : List Transit
  child : BitVec 12
  entries : List Holding
  /-- its cast's commit is complete: its result, or its flip, may follow (R279, R295 step 2) -/
  ready : Bool
  /-- CTX.REVOKE: steps 3 to 9 of R418 are done, and REVOKED is due (R420) -/
  noticeDue : Bool
  /-- CTX.REVOKE: the tick of the pod time base by which those steps are done on an unloaded device (R419); 0 for another
  request -/
  due : Nat
  deriving DecidableEq, Repr, Inhabited

/-- What an image written by CHECKPOINT holds (R428, R444, R445): the parts of the subtree, each list restricted to them.
The bytes written to the host are those of `image`. -/
structure Capture where
  root : BitVec 12
  debug : Bool
  /-- the bytes of the image's CAPT section (R445); none of a migration's capture -/
  scan : List Byte
  ctxs : List (Nat × Ctx)
  kernels : List Kernel
  bays : List (Nat × Bay)
  elements : List (Nat × Element)
  crucibles : List (Nat × Crucible)
  courses : List (Nat × Course)
  saved : List Saved
  transit : List Transit
  faults : List FaultEntry
  dooms : List Doom
  barriers : List Barrier
  cells : List Cell
  cellWaits : List (Nat × Pend × Partial)
  stags : List (Nat × STag)
  selectors : List (Nat × Bool)
  structPages : List (Nat × Nat)
  lostPages : List LostPage
  replay : List (Nat × Pend)
  guardNotes : List GuardNote
  plateWork : List PlateWork
  slots : List (Nat × Slot)
  /-- the bytes of their entries of the Ridge, with the changes on their way -/
  ridge : List Host.Cell
  rdgWaits : List (BitVec 21 × Pend)
  sigs : List SigMsg
  fires : List Pend
  /-- the ranges of memory that it holds, and their bytes -/
  ranges : List (Nat × Nat)
  mem : List Host.Cell
  deriving DecidableEq, Repr, Inhabited

/-- The state of a stack. -/
structure State where
  /-- the issue latch: the firing whose record the next instruction step acts on -/
  firing : Firing
  agenda : List Pick
  stepCount : Nat
  /-- moves that have been possible and passed over, with the steps since (the model's own, notes/assumptions/1.md) -/
  waited : List (Turn × Nat)
  fresh : Nat
  /-- cycles of the 1.4 GHz clock since reset; the pod time base in ns (R450); the beat of the Ridge clock (R331) -/
  cycles : Nat
  tick : Word
  beat : Nat
  mem : List Host.Cell
  bays : List (Nat × Bay)
  elements : List (Nat × Element)
  crucibles : List (Nat × Crucible)
  courses : List (Nat × Course)
  ctxs : List (Nat × Ctx)
  kernels : List Kernel
  planes : List (Nat × Plane)
  transit : List Transit
  /-- tokens sent to other stacks over the Eave links (R41) -/
  eaveOut : List Transit
  /-- ready words of gangs that left for the other stacks, as in `readyWords` (R362) -/
  readyOut : List (Nat × Nat × Nat)
  /-- the answers of the sideband's WFENCE register to the host's reads (R437) -/
  sidebandOut : List Word
  faults : List FaultEntry
  dooms : List Doom
  barriers : List Barrier
  cells : List Cell
  cellWaits : List (Nat × Pend × Partial)
  stags : List (Nat × STag)
  selectors : List (Nat × Bool)
  lineTags : List (Nat × BitVec 12)
  lostPages : List LostPage
  /-- structure pages with word tags, each with the table entry that mapped it (R228, R315) -/
  structPages : List (Nat × Nat)
  replay : List (Nat × Pend)
  guardNotes : List GuardNote
  plateWork : List PlateWork
  /-- contexts whose capture has left for another stack (R431) -/
  migrated : List (BitVec 12 × Nat)
  /-- the captures that migrations have sent to other stacks, with the stack (R431) -/
  departed : List (Nat × Capture)
  ridge : List (Nat × Byte)
  slots : List (Nat × Slot)
  rdgWaits : List (BitVec 21 × Pend)
  rdgTicket : BitVec 21
  changes : List RidgeChange
  /-- the Plate's journal, oldest first, and one more than the beat of the last record overwritten (R346) -/
  journal : List RidgeChange
  journalCut : Nat
  saved : List Saved
  hostIn : List Msg
  /-- the host's window writes that are on their way to their GDDR controllers: far offset and bytes (R443) -/
  windowIn : List (Nat × List Byte)
  hostOut : List Msg
  hostMem : List Host.Cell
  sigs : List SigMsg
  linkUp : Bool
  sideband : Sideband
  policy : Policy
  telem : Telem
  /-- stacks of the pod that a route reaches -/
  reach : List Nat
  /-- ready words of gangs received: gang, stack, tick (R362) -/
  readyWords : List (Nat × Nat × Nat)
  /-- releases of pools made in a step and not yet served: course, bay, pool (R61). None stand between steps -/
  released : List (Nat × Nat × Nat)
  /-- a CTX_CREATE has been performed since the last stack reset (R440) -/
  created : Bool
  /-- the captures whose images have been written to the host (R444) -/
  captures : List Capture
  deriving DecidableEq, Repr

/-- Reasons the model stops with a fault. The spec's own faults are next states (R27), so none is listed but this. -/
inductive Fault where
  /-- Raised by no meaning; kept so that the type is not empty. Safe: it is never answered. -/
  | never
  deriving DecidableEq, Repr

/-- Reasons the model has no step. -/
inductive Refusal where
  /-- An arm of exec whose instruction has no meaning yet. Safe: a claim about it cannot be proved. -/
  | notModelled (mnemonic : String)
  /-- Raised by step for a step word that the decoder refuses: validation keeps such a record from executing (R133).
  Safe: the machine stops where the hardware has no such step. -/
  | undecodable
  deriving DecidableEq, Repr

/-- A frame linkage with no caller (R360). -/
def Link.root : Link where
  cft := 0
  cit := 0
  rdest := 0x1FFFFF#21
  str := 0
  e := false
  lc := false

/-- An unwritten bank (R115, R126). -/
def Bank.empty : Bank where
  recs := []
  nst := []
  setting := 0x4000000000000000#64

def Bay.empty : Bay where
  frames := []
  parts := []
  pools := []
  streams := []
  fences := []
  taken := 0
  tlb := []
  spillSeq := 0
  grantAge := 0
  retiredRows := []
  retiredRoom := []
  killed := []
  lastScrub := 0

def Element.empty : Element where
  active := Bank.empty
  shadow := Bank.empty
  k := []
  ready := []
  pending := []
  input := []
  late := []
  lastIssue := 0
  lastCtl := 0
  lastDat := 0
  lastStep := 0
  lastIt := 0
  takes := []

def BBank.empty : BBank := { loaded := false, fmt := 0, cols := [] }

def Crucible.empty : Crucible where
  granted := false
  cx := 0
  it := 0
  link := Link.root
  slots := []
  ra := 0
  aFmt := 0
  aSparse := 0
  aRows := []
  aMasks := []
  b0 := BBank.empty
  b1 := BBank.empty
  scales := []
  acc := []
  rows := []
  gstat := 0
  ops := []
  accepted := 0
  active := []
  shadow := []
  waiters := []
  ticket := 0
  permit := false
  ballast := false
  burstCx := 0

def Heap.empty : Heap where
  entries := []
  waits := []
  held := false
  evictSeq := []
  pops := []
  oldPops := []
  popped := 0
  running := []
  takeOrder := 0

/-- A course after reset: awake at L = 8 (R455). -/
def Course.empty : Course where
  step := 8
  power := .awake
  lastBeat := 0
  mirror := none
  holder := none
  sliceEnd := 0
  sliceStart := 0
  sweeping := none
  next := none
  exchanged := 0
  issueFrom := 0
  frozen := []
  loaded := []
  shadow := .none
  former := false
  kept := []
  fill := none
  fillNext := []
  refill := []
  heap := Heap.empty
  port := []
  ctl := []
  walks := []
  lastRise := 0
  lastFall := 0
  quietSince := 0
  retainedAt := 0
  mirrorScrub := 0
  waking := none
  failed := false

def FaultRec.zero : FaultRec where
  kind := 0
  site := 0
  soft := false
  hops := 0
  ocx := 0
  aux := 0
  course := 0
  bay := 0
  unit := 0
  node := 0
  port := 0
  stack := 0
  ft := 0
  it := 0
  wave := 0
  str := 0
  strv := false
  addr := 0
  pos := 0
  snode := 0
  data0 := 0
  data1 := 0
  seq := 0
  verdict := 0
  lost := 0

/-- A context with the reset values of R290. -/
def Ctx.fresh : Ctx where
  depth := 0
  parent := 0
  runnable := false
  seed := 0
  sbc := 8
  sbc0 := 8
  fpol0 := 0
  faultPol := 0
  handler := 0
  nflag := 0
  timeG := 0
  timeS := 0
  energy := 0
  revoking := false
  pceil := []
  resid := 0
  tol := 0
  thresh := 1
  taskBase := 0
  taskN := 0
  frec := FaultRec.zero
  troot := 0
  gen := 0
  holds := []
  born := []
  weight := 1
  quantum := 0
  saveTime := 0
  pass := []
  rings := []
  serial := 1
  faultSeq := 1
  lost := 0

/-- An empty issue latch. -/
def Firing.none : Firing where
  course := 0
  unit := 0
  node := 0
  cx := 0
  ft := 0
  it := 0
  a := Option.none
  b := Option.none
  c := Option.none
  s := Option.none
  skip := false

/-- The stack right after bring-up or RESET (R454, R455): only context 0, memory zero, every course awake at L = 8,
the Thatch without planes, POLICY at its defaults, STATUS at phase 7 and READY. -/
def State.reset : State where
  firing := Firing.none
  agenda := []
  stepCount := 0
  waited := []
  fresh := 0
  cycles := 0
  tick := 0
  beat := 0
  mem := []
  bays := []
  elements := []
  crucibles := []
  courses := []
  ctxs := [(0, { Ctx.fresh with runnable := true })]
  kernels := []
  planes := []
  transit := []
  eaveOut := []
  readyOut := []
  sidebandOut := []
  faults := []
  dooms := []
  barriers := []
  cells := []
  cellWaits := []
  stags := []
  selectors := []
  lineTags := []
  lostPages := []
  structPages := []
  replay := []
  guardNotes := []
  plateWork := []
  migrated := []
  departed := []
  ridge := []
  slots := []
  rdgWaits := []
  rdgTicket := 0
  changes := []
  journal := []
  journalCut := 0
  saved := []
  hostIn := []
  windowIn := []
  hostOut := []
  hostMem := []
  sigs := []
  linkUp := true
  sideband := { phase := 7, ready := true, frozen := false, stackNo := 0 }
  policy := { power := 1800, sleep := 1, spare := 1, signed := false, keys := [] }
  telem := { power := 0, powers := [], temps := [], corrected := 0, uncorrectable := 0, bankErrors := [], retiredBanks := [],
             usedSpares := [], remaps := [], failedPipes := [], testPipe := 0, testBeats := 0, retiredFar := [], syncFlag := false,
             master := 0, replays := 0, lostLinks := [], scrubbed := 0, lastLower := 0, lastRaise := 0, lastMeasure := 0, lastSync := 0, lastTest := 0, lastThatch := 0,
             drift := 0 }
  reach := []
  readyWords := []
  released := []
  created := false
  captures := []

end Sys2Proof.Machine
end

