-- ==== Sys2Proof/Machine/Mem.lean ====
section
/-! DEFINITION. Sys2Proof/Machine/Mem.lean: the named operations over sparse lists and over byte memory. A list of
(key, value) pairs is kept with rising keys; a byte memory also lists no zero byte, which is what an unlisted address
reads as (R454, R455). -/

namespace Sys2Proof.Machine

/-- The value a list holds for a key. -/
def lkp {α : Type} : List (Nat × α) → Nat → Option α
  | [], _ => none
  | (k, v) :: l, i => if k = i then some v else lkp l i

/-- The list with a key's value set, keys rising. -/
def put {α : Type} : List (Nat × α) → Nat → α → List (Nat × α)
  | [], i, v => [(i, v)]
  | (k, w) :: l, i, v =>
    if i < k then (i, v) :: (k, w) :: l
    else if i = k then (i, v) :: l
    else (k, w) :: put l i v

/-- The list without a key. -/
def del {α : Type} : List (Nat × α) → Nat → List (Nat × α)
  | [], _ => []
  | (k, v) :: l, i => if k = i then del l i else (k, v) :: del l i

/-- The list with one position's entry changed. -/
def modAt {α : Type} (f : α → α) : List α → Nat → List α
  | [], _ => []
  | x :: l, 0 => f x :: l
  | x :: l, n + 1 => x :: modAt f l n

/-- Entries whose key lies in a range. -/
def keysIn {α : Type} (l : List (Nat × α)) (lo len : Nat) : List (Nat × α) :=
  l.filter (fun e => lo ≤ e.1 && decide (e.1 < lo + len))

/-- The canonical form of a byte memory: rising addresses, no zero byte listed. -/
def Memory.wf : List Host.Cell → Bool
  | [] => true
  | [(_, v)] => v != 0#8
  | (a, v) :: (b, w) :: l => v != 0#8 && decide (a < b) && Memory.wf ((b, w) :: l)

/-- One byte of a memory; an unlisted address reads 0. -/
def Memory.read (m : List Host.Cell) (a : Nat) : Byte := (lkp m a).getD 0#8

/-- A memory with one byte written; a zero is not listed. -/
def Memory.write : List Host.Cell → Nat → Byte → List Host.Cell
  | [], a, v => if v = 0#8 then [] else [(a, v)]
  | (k, w) :: l, a, v =>
    if a < k then (if v = 0#8 then (k, w) :: l else (a, v) :: (k, w) :: l)
    else if a = k then (if v = 0#8 then l else (a, v) :: l)
    else (k, w) :: Memory.write l a v

/-- `n` bytes from an address, as a list. -/
def Memory.bytes (m : List Host.Cell) : Nat → Nat → List Byte
  | _, 0 => []
  | a, n + 1 => Memory.read m a :: Memory.bytes m (a + 1) n

/-- `n` bytes from an address as a little-endian number (R211). -/
def Memory.get (m : List Host.Cell) (a n : Nat) : Nat := leNat (Memory.bytes m a n)

/-- Consecutive bytes written at an address. -/
def Memory.putBytes (m : List Host.Cell) : Nat → List Byte → List Host.Cell
  | _, [] => m
  | a, b :: bs => Memory.putBytes (Memory.write m a b) (a + 1) bs

/-- The low `n` bytes of a number written at an address, least significant first. -/
def Memory.set (m : List Host.Cell) (a n x : Nat) : List Host.Cell := Memory.putBytes m a (leBytes n x)

/-- A memory with the listed bytes of a range removed: the range reads 0. -/
def Memory.clear (m : List Host.Cell) (a n : Nat) : List Host.Cell :=
  m.filter (fun c => !(a ≤ c.1 && decide (c.1 < a + n)))

/-- The bay of an element: (ey div 4) × 16 + ex div 4 (R3). -/
def elBay (el : Nat) : Nat := (el / 256) * 16 + el % 64 / 4

/-- The position of an element within its bay: (ey mod 4) × 4 + ex mod 4 (R3, R57). -/
def elPos (el : Nat) : Nat := el / 64 % 4 * 4 + el % 4

/-- The element at a position of a bay. -/
def elAt (bay pos : Nat) : Nat := (bay / 16 * 4 + pos / 4) * 64 + bay % 16 * 4 + pos % 4

/-- Element address of a destination (R120). -/
def destUnit (d : BitVec 21) : Nat := bitsAt d 8 13
/-- Node field of a destination. -/
def destNode (d : BitVec 21) : Nat := bitsAt d 2 6
/-- Port field of a destination. -/
def destPort (d : BitVec 21) : Nat := bitsAt d 0 2

/-- The kinds of unit that a destination names (R120). -/
inductive UnitKind where
  | elem (el : Nat)
  | cru (n : Nat)
  | gate (bay : Nat)
  | none
  deriving DecidableEq, Repr

/-- The unit of an element address. -/
def unitKind (u : Nat) : UnitKind :=
  if u < 0x1000 then .elem u
  else if u < 0x1018 then .cru (u - 0x1000)
  else if 0x1100 ≤ u ∧ u < 0x1200 then .gate (u - 0x1100)
  else .none

/-- The bay of a firing's element. -/
def Firing.bay (f : Firing) : Nat := elBay f.unit.toNat

/-! Units of the state, by course and number; what is not listed is as after reset. -/

def State.bay (s : State) (c b : Nat) : Bay := (lkp s.bays (c * 256 + b)).getD Bay.empty
def State.setBay (s : State) (c b : Nat) (x : Bay) : State := { s with bays := put s.bays (c * 256 + b) x }
def State.modBay (s : State) (c b : Nat) (f : Bay → Bay) : State := s.setBay c b (f (s.bay c b))

def State.elem (s : State) (c el : Nat) : Element := (lkp s.elements (c * 8192 + el)).getD Element.empty
def State.setElem (s : State) (c el : Nat) (x : Element) : State :=
  { s with elements := put s.elements (c * 8192 + el) x }
def State.modElem (s : State) (c el : Nat) (f : Element → Element) : State := s.setElem c el (f (s.elem c el))

def State.cru (s : State) (c n : Nat) : Crucible := (lkp s.crucibles (c * 32 + n)).getD Crucible.empty
def State.setCru (s : State) (c n : Nat) (x : Crucible) : State := { s with crucibles := put s.crucibles (c * 32 + n) x }
def State.modCru (s : State) (c n : Nat) (f : Crucible → Crucible) : State := s.setCru c n (f (s.cru c n))

def State.crs (s : State) (c : Nat) : Course := (lkp s.courses c).getD Course.empty
def State.modCrs (s : State) (c : Nat) (f : Course → Course) : State :=
  { s with courses := put s.courses c (f (s.crs c)) }

def State.ctx? (s : State) (cx : Nat) : Option Ctx := lkp s.ctxs cx
def State.ctx (s : State) (cx : Nat) : Ctx := (lkp s.ctxs cx).getD Ctx.fresh
/-- Change a context that exists. -/
def State.modCtx (s : State) (cx : Nat) (f : Ctx → Ctx) : State :=
  match lkp s.ctxs cx with
  | some x => { s with ctxs := put s.ctxs cx (f x) }
  | none => s

def State.frame? (s : State) (c b ft : Nat) : Option Frame := lkp (s.bay c b).frames ft
def State.setFrame (s : State) (c b ft : Nat) (x : Frame) : State :=
  s.modBay c b fun y => { y with frames := put y.frames ft x }
def State.delFrame (s : State) (c b ft : Nat) : State :=
  s.modBay c b fun y => { y with frames := del y.frames ft }
/-- Change a live frame. -/
def State.modFrame (s : State) (c b ft : Nat) (f : Frame → Frame) : State :=
  match s.frame? c b ft with
  | some x => s.setFrame c b ft (f x)
  | none => s

def State.cast? (s : State) (c b ft : Nat) : Option Cast := (s.frame? c b ft).bind Frame.cast
/-- Change the live cast of a frame. -/
def State.modCast (s : State) (c b ft : Nat) (f : Cast → Cast) : State :=
  s.modFrame c b ft fun x => { x with cast := x.cast.map f }

def State.pool? (s : State) (c b p : Nat) : Option Pool := lkp (s.bay c b).pools p
def State.modPool (s : State) (c b p : Nat) (f : Pool → Pool) : State :=
  s.modBay c b fun y =>
    match lkp y.pools p with
    | some x => { y with pools := put y.pools p (f x) }
    | none => y

/-- The cast of the current firing changes. -/
def State.modOwn (s : State) (g : Firing) (f : Cast → Cast) : State :=
  s.modCast g.course.toNat g.bay g.ft.toNat f

/-- The save area of a context for an element, while it is swept off it (R426). -/
def State.savedAt (s : State) (cx c el : Nat) : Option Saved :=
  s.saved.find? fun x => x.cx.toNat == cx && x.course.toNat == c && x.el == el

/-- The bank in which a context's records of an element stand: its saved bank, else the active one (R15, R427). -/
def State.bankOf (s : State) (cx c el : Nat) : Bank :=
  match s.savedAt cx c el with
  | some x => x.bank
  | none => (s.elem c el).active

/-- A record of a context on an element (R15); an unwritten slot is empty. -/
def State.record (s : State) (cx c el node : Nat) : BitVec 96 := (lkp (s.bankOf cx c el).recs node).getD 0#96

/-- The slot table byte of a port (R16). -/
def State.portByte (s : State) (cx c el node port : Nat) : Nat :=
  bitsAt ((lkp (s.bankOf cx c el).nst node).getD 0#32) (8 * port) 8

/-- The record word of an instruction with this OP and these fields, as held effects carry it. -/
def pendOf (op : Nat) (r : NodeRec) (g : Firing) : Pend := { word := recWord op r, fir := g }

/-- A plane places a unit of a course: an element, or a crucible at 0x1000 + n. -/
def Plane.places (p : Plane) (c u : Nat) : Bool :=
  p.units.any fun x => x.course == c && (if x.crucible then 0x1000 + x.x else x.y * 64 + x.x) == u

/-- What a context has active on a unit of a course: the newest plane that places it. -/
def State.loadedAt (s : State) (cx c u : Nat) : Option Loaded :=
  (s.crs c).loaded.find? fun l => l.cx.toNat == cx && l.info.places c u

/-- The plane that a context has active on a unit of a course. -/
def State.planeOf (s : State) (cx c u : Nat) : Option Plane := (s.loadedAt cx c u).map Loaded.info

/-- The index of the block that holds a node, in a plane. -/
def Plane.blockOf (p : Plane) (c el node : Nat) : Option Nat :=
  p.blocks.findIdx? fun b => b.course == c && b.bay == elBay el && b.nodes.any (fun n => n.1 == el && n.2 == node)

/-- The block of a node of a context: plane number × 2^17 + index. -/
def State.blockOf (s : State) (cx c el node : Nat) : Option Nat :=
  match s.loadedAt cx c el with
  | some l => (l.info.blockOf c el node).map fun i => l.plane.toNat * 2 ^ 17 + i
  | none => none

/-- A block of a context on a course. -/
def State.blockAt (s : State) (cx c block : Nat) : Option PBlock :=
  ((s.crs c).loaded.find? fun l => l.cx.toNat == cx && l.plane.toNat == block / 2 ^ 17).bind
    fun l => l.info.blocks[block % 2 ^ 17]?

/-- The nodes of a block of a context, as (element, node). -/
def State.blockNodes (s : State) (cx c block : Nat) : List (Nat × Nat) :=
  ((s.blockAt cx c block).map PBlock.nodes).getD []

end Sys2Proof.Machine
end

