-- ==== Sys2Proof/Machine/Flags.lean ====
section
/-! DEFINITION. Sys2Proof/Machine/Flags.lean: the sticky flags of a context's NFLAG word (R145). -/

namespace Sys2Proof.Machine

/-- A set of sticky flags. -/
abbrev Flags := BitVec 7

/-- Inexact: a rounding changed a value. -/
def fNX : Flags := 0x01
/-- A result that is tiny after rounding and inexact. -/
def fUF : Flags := 0x02
/-- Overflow. -/
def fOF : Flags := 0x04
/-- An infinite result from finite operands. -/
def fDZ : Flags := 0x08
/-- Invalid. -/
def fIV : Flags := 0x10
/-- Integer division or remainder by zero. -/
def iDZ : Flags := 0x20
/-- A saturating operation or sat conversion changed a value. -/
def fSAT : Flags := 0x40

/-- A flag raised on a condition. -/
def flagIf (c : Bool) (f : Flags) : Flags := if c then f else 0

end Sys2Proof.Machine
end

