-- ==== Sys2Proof/Machine/Numbers.lean ====
section
/-! DEFINITION. Sys2Proof/Machine/Numbers.lean: number formats, rounding and sum order (R135 to R158). Arithmetic is
exact on integers scaled by powers of two; one function rounds. -/

namespace Sys2Proof.Machine

/-! ### Integers -/

/-- Width in bits of a type code (R116, R136 to R140). pred counts as 1. -/
def tyWidth (t : Nat) : Nat :=
  match t with
  | 0 | 4 | 11 | 12 => 8
  | 1 | 5 | 9 | 10 => 16
  | 2 | 6 | 8 => 32
  | 3 | 7 => 64
  | 13 => 4
  | 14 => 37
  | _ => 1

/-- An i type (R116). -/
def tySigned (t : Nat) : Bool := decide (t < 4)
/-- An i or n type. -/
def tyInt (t : Nat) : Bool := decide (t < 8)

/-- The two's-complement value of the low `w` bits of `x`. -/
def signedVal (w x : Nat) : Int :=
  let y := x % 2 ^ w
  if 2 * y < 2 ^ w then (y : Int) else (y : Int) - (2 ^ w : Nat)

/-- The mathematical value of the low bits of a payload in an i or n type (R135). -/
def intVal (t x : Nat) : Int := if tySigned t then signedVal (tyWidth t) x else ((x % 2 ^ tyWidth t : Nat) : Int)

/-- An integer modulo 2^w, as a natural number. -/
def natMod (x : Int) (w : Nat) : Nat := (x % ((2 ^ w : Nat) : Int)).toNat

/-- wrap (R134): a value into a type, as it stands in a lane of the type's width. -/
def wrapLane (t : Nat) (x : Int) : Nat := natMod x (tyWidth t)

/-- A value as a control-plane payload of its type: extended through bit 63 (R135). -/
def wrap64 (t : Nat) (x : Int) : Nat :=
  if tySigned t then natMod (signedVal (tyWidth t) (wrapLane t x)) 64 else wrapLane t x

/-- Smallest and largest value of an integer type. -/
def tyMin (t : Nat) : Int := if tySigned t then -((2 ^ (tyWidth t - 1) : Nat) : Int) else 0
def tyMax (t : Nat) : Int := if tySigned t then ((2 ^ (tyWidth t - 1) : Nat) : Int) - 1 else ((2 ^ tyWidth t : Nat) : Int) - 1

/-- sat (R134), with SAT when the clamp changes the value. -/
def satInt (t : Nat) (x : Int) : Int × Flags :=
  if x < tyMin t then (tyMin t, fSAT) else if tyMax t < x then (tyMax t, fSAT) else (x, 0)

/-- Quotient truncated toward zero and remainder, with the fixed cases of R158. -/
def intDiv (t : Nat) (a b : Int) : Int × Int × Flags :=
  if b = 0 then (if tySigned t then -1 else tyMax t, a, iDZ)
  else if tySigned t && a == tyMin t && b == -1 then (tyMin t, 0, 0)
  else (a.tdiv b, a.tmod b, 0)

/-! ### Floating-point values -/

/-- A decoded value: NaN, an infinity, or ±m × 2^e (R136). -/
inductive FV where
  | nan
  | inf (neg : Bool)
  | fin (neg : Bool) (m : Nat) (e : Int)
  deriving DecidableEq, Repr, Inhabited

/-- A format: significand bits with the hidden one, exponent bits, bias, and its top codes: 0 IEEE, 1 e4m3, 2 e2m1. -/
structure Fmt where
  p : Nat
  eb : Nat
  bias : Nat
  top : Nat
  deriving DecidableEq, Repr, Inhabited

def f32 : Fmt := ⟨24, 8, 127, 0⟩
def f16 : Fmt := ⟨11, 5, 15, 0⟩
def bf16 : Fmt := ⟨8, 8, 127, 0⟩
def e4m3 : Fmt := ⟨4, 4, 7, 1⟩
def e5m2 : Fmt := ⟨3, 5, 15, 0⟩
def e2m1 : Fmt := ⟨2, 2, 1, 2⟩
def x37 : Fmt := ⟨27, 10, 511, 0⟩

/-- The format of a floating-point type code. -/
def tyFmt (t : Nat) : Fmt :=
  match t with
  | 8 => f32
  | 9 => f16
  | 10 => bf16
  | 11 => e4m3
  | 12 => e5m2
  | 13 => e2m1
  | _ => x37

/-- A floating-point type code. -/
def tyFloat (t : Nat) : Bool := decide (8 ≤ t) && decide (t ≤ 13)

/-- Sign bit position. -/
def Fmt.signPos (f : Fmt) : Nat := f.eb + f.p - 1
/-- Exponent of the least subnormal. -/
def Fmt.qmin (f : Fmt) : Int := 1 - (f.bias : Int) - ((f.p - 1 : Nat) : Int)
/-- The largest finite magnitude, as significand and exponent. -/
def Fmt.maxM (f : Fmt) : Nat := if f.top = 1 then 14 else 2 ^ f.p - 1
def Fmt.maxQ (f : Fmt) : Int :=
  let topE : Nat := if f.top = 0 then 2 ^ f.eb - 2 else 2 ^ f.eb - 1
  (topE : Int) - 1 + f.qmin

/-- The value of a code (R136, R138 to R140). Code 1000 of e2m1 reads here as −0: its spare value is the caller's. -/
def Fmt.decode (f : Fmt) (x : Nat) : FV :=
  let neg := x / 2 ^ f.signPos % 2 == 1
  let ex := x / 2 ^ (f.p - 1) % 2 ^ f.eb
  let fr := x % 2 ^ (f.p - 1)
  let top := 2 ^ f.eb - 1
  if f.top = 0 ∧ ex = top then (if fr = 0 then .inf neg else .nan)
  else if f.top = 1 ∧ ex = top ∧ fr = 2 ^ (f.p - 1) - 1 then .nan
  else if ex = 0 then .fin neg fr f.qmin
  else .fin neg (2 ^ (f.p - 1) + fr) (f.qmin + (ex : Int) - 1)

/-- The canonical NaN (R137). e2m1 has no NaN code of its own; its code 1000 stands for it (R139). -/
def Fmt.nan (f : Fmt) : Nat :=
  if f.top = 0 then (2 ^ f.eb - 1) * 2 ^ (f.p - 1) + 2 ^ (f.p - 2)
  else if f.top = 1 then 0x7F else 0x8

/-- An infinity of an IEEE-like format. -/
def Fmt.inf (f : Fmt) (neg : Bool) : Nat := (if neg then 2 ^ f.signPos else 0) + (2 ^ f.eb - 1) * 2 ^ (f.p - 1)

/-- The code of ±t × 2^q, where t ≤ 2^p and q is at least that of the least subnormal. -/
def Fmt.pack (f : Fmt) (neg : Bool) (t : Nat) (q : Int) : Nat :=
  let (t, q) := if t = 2 ^ f.p then (2 ^ (f.p - 1), q + 1) else (t, q)
  let sgn := if neg && !(f.top == 2 && t == 0) then 2 ^ f.signPos else 0
  if t < 2 ^ (f.p - 1) then sgn + t
  else sgn + (q - f.qmin + 1).toNat * 2 ^ (f.p - 1) + (t - 2 ^ (f.p - 1))

/-- The largest finite value of a sign. -/
def Fmt.largest (f : Fmt) (neg : Bool) : Nat := f.pack neg f.maxM f.maxQ

/-- The value of a code has a larger format that holds it: widening (R146). -/
def Fmt.isNan (f : Fmt) (x : Nat) : Bool := f.decode x == .nan

/-! ### Rounding -/

/-- Bits of a number: 0 for 0. -/
def bitLen (m : Nat) : Nat := if m = 0 then 0 else Nat.log2 m + 1

/-- A magnitude m × 2^e, with `st` when the exact one lies strictly between it and the next, rounded to a multiple of
2^q (R143, R144): the multiple, whether it is inexact, and whether it was rounded up. `draw` is word[63:32] of R144. -/
def roundAt (mode : Nat) (draw : Nat) (neg : Bool) (m : Nat) (e : Int) (st : Bool) (q : Int) : Nat × Bool × Bool :=
  if q ≤ e then (m * 2 ^ (e - q).toNat, st, false)
  else
    let sh := (q - e).toNat
    let t := m / 2 ^ sh
    let r := m % 2 ^ sh
    let inexact := r != 0 || st
    if !inexact then (t, false, false)
    else
      let up :=
        match mode with
        | 0 => decide (2 ^ sh < 2 * r) || (2 * r == 2 ^ sh && (st || t % 2 == 1))
        | 1 => false
        | 2 => !neg
        | 3 => neg
        | 4 => t % 2 == 0
        | _ => decide (2 ^ 32 ≤ r * 2 ^ 32 / 2 ^ sh + draw)
      (if up then t + 1 else t, true, up && mode != 4)

/-- How an overflow, an infinity or a NaN enters a narrow format (R147): sat or nsat. -/
structure Rounder where
  mode : Nat
  draw : Nat := 0
  sat : Bool := true
  deriving DecidableEq, Repr, Inhabited

/-- A rounded code, its flags, and whether the target could not hold the value (R148). -/
structure Rounded where
  code : Nat
  flags : Flags
  ovf : Bool
  deriving DecidableEq, Repr, Inhabited

/-- A narrow format (R138, R139). -/
def Fmt.narrow (f : Fmt) : Bool := f == e4m3 || f == e5m2 || f == e2m1

/-- The result of an overflow or of an infinity in a narrow format (R147). -/
def narrowOver (f : Fmt) (sat neg : Bool) : Nat × Flags :=
  if sat then (f.largest neg, fSAT)
  else if f.top = 0 then (f.inf neg, 0)
  else if f.top = 1 then (0x7F, 0)
  else (0x8, fIV)

/-- The result of an overflow (R143, R147). `up` says that it rounded up in magnitude. -/
def overflowCode (f : Fmt) (k : Rounder) (neg up : Bool) : Nat × Flags :=
  if f.narrow then narrowOver f k.sat neg
  else if f == x37 then (f.inf neg, 0)
  else
    match k.mode with
    | 0 => (f.inf neg, 0)
    | 2 => (if neg then f.largest true else f.inf false, 0)
    | 3 => (if neg then f.inf true else f.largest false, 0)
    | 5 => (if up then f.inf neg else f.largest neg, 0)
    | _ => (f.largest neg, 0)

/-- round of a finite magnitude (R134, R137, R143): m × 2^e, strictly below the next when `st`. -/
def roundFin (f : Fmt) (k : Rounder) (neg : Bool) (m : Nat) (e : Int) (st : Bool) : Rounded :=
  if m = 0 ∧ st = false then ⟨f.pack neg 0 f.qmin, 0, false⟩
  else
    let qu : Int := e + (bitLen m : Int) - (f.p : Int)
    let (tu, _, upU) := roundAt k.mode k.draw neg m e st qu
    let big := compare (((tu : Nat) : Int) * ((2 ^ (qu - f.maxQ).toNat : Nat) : Int))
      (((f.maxM : Nat) : Int) * ((2 ^ (f.maxQ - qu).toNat : Nat) : Int)) == .gt
    if big then
      let (c, fl) := overflowCode f k neg upU
      ⟨c, fl ||| fOF ||| fNX, true⟩
    else
      let q := if qu < f.qmin then f.qmin else qu
      let (t, ix, _) := roundAt k.mode k.draw neg m e st q
      -- tiny: the unbounded rounding lies below the smallest normal, 2^(qmin + p − 1) (R137)
      let tiny := decide (tu * 2 ^ (qu - f.qmin).toNat < 2 ^ (f.p - 1) * 2 ^ (f.qmin - qu).toNat)
      ⟨f.pack neg t q, flagIf ix fNX ||| flagIf (ix && tiny) fUF, false⟩

/-- round (R134) of a decoded value, with R146 and R147 for NaN and infinities. -/
def roundFV (f : Fmt) (k : Rounder) (v : FV) : Rounded :=
  match v with
  | .nan => ⟨f.nan, flagIf (f.top == 2) fIV, false⟩
  | .inf neg =>
    if f.narrow then let (c, fl) := narrowOver f k.sat neg; ⟨c, fl, false⟩ else ⟨f.inf neg, 0, false⟩
  | .fin neg m e => roundFin f k neg m e false

/-- A finite value rounded to an integer, and whether the rounding changed it. -/
def roundToInt (k : Rounder) (neg : Bool) (m : Nat) (e : Int) : Int × Bool :=
  let (t, ix, _) := roundAt k.mode k.draw neg m e false 0
  (if neg then -(t : Int) else (t : Int), ix)

/-- Conversion of a value to an integer type (R146): value, flags, whether FIV was set. -/
def floatToInt (t : Nat) (k : Rounder) (v : FV) : Int × Flags × Bool :=
  match v with
  | .nan => (0, fIV, true)
  | .inf neg => (if neg then tyMin t else tyMax t, fIV, true)
  | .fin neg m e =>
    let (x, ix) := roundToInt k neg m e
    if x < tyMin t then (tyMin t, fIV, true)
    else if tyMax t < x then (tyMax t, fIV, true)
    else (x, flagIf ix fNX, false)

/-- An integer as an exact value. -/
def intFV (x : Int) : FV := .fin (decide (x < 0)) x.natAbs 0

/-! ### Exact arithmetic on values -/

/-- A value multiplied by a power of two. -/
def FV.scale (v : FV) (k : Int) : FV :=
  match v with
  | .fin n m e => .fin n m (e + k)
  | x => x

def FV.neg (v : FV) : FV :=
  match v with
  | .nan => .nan
  | .inf n => .inf (!n)
  | .fin n m e => .fin (!n) m e

/-- Exact sum; an exact zero of opposite signs is +0, or −0 under rd (R143). The flag is FIV for ∞ − ∞. -/
def FV.add (mode : Nat) (a b : FV) : FV × Flags :=
  match a, b with
  | .nan, _ => (.nan, 0)
  | _, .nan => (.nan, 0)
  | .inf x, .inf y => if x = y then (.inf x, 0) else (.nan, fIV)
  | .inf x, .fin _ _ _ => (.inf x, 0)
  | .fin _ _ _, .inf y => (.inf y, 0)
  | .fin na ma ea, .fin nb mb eb =>
    let e := if ea < eb then ea else eb
    let x : Int := ((ma * 2 ^ (ea - e).toNat : Nat) : Int) * (if na then -1 else 1)
    let y : Int := ((mb * 2 ^ (eb - e).toNat : Nat) : Int) * (if nb then -1 else 1)
    let z := x + y
    if z = 0 then (.fin (if na = nb then na else mode == 3) 0 e, 0)
    else (.fin (decide (z < 0)) z.natAbs e, 0)

/-- Exact product; FIV for 0 × ∞. -/
def FV.mul (a b : FV) : FV × Flags :=
  match a, b with
  | .nan, _ => (.nan, 0)
  | _, .nan => (.nan, 0)
  | .inf x, .inf y => (.inf (x != y), 0)
  | .inf x, .fin y m _ => if m = 0 then (.nan, fIV) else (.inf (x != y), 0)
  | .fin x m _, .inf y => if m = 0 then (.nan, fIV) else (.inf (x != y), 0)
  | .fin x m e, .fin y n g => (.fin (x != y) (m * n) (e + g), 0)

/-- Comparison of two values: none when unordered; zeros of either sign are equal. -/
def FV.cmp (a b : FV) : Option Ordering :=
  match a, b with
  | .nan, _ => none
  | _, .nan => none
  | .inf x, .inf y => some (if x = y then .eq else if x then .lt else .gt)
  | .inf x, .fin _ _ _ => some (if x then .lt else .gt)
  | .fin _ _ _, .inf y => some (if y then .gt else .lt)
  | .fin na ma ea, .fin nb mb eb =>
    let e := if ea < eb then ea else eb
    let x : Int := ((ma * 2 ^ (ea - e).toNat : Nat) : Int) * (if na then -1 else 1)
    let y : Int := ((mb * 2 ^ (eb - e).toNat : Nat) : Int) * (if nb then -1 else 1)
    some (compare x y)

def FV.isNeg (v : FV) : Bool :=
  match v with
  | .nan => false
  | .inf n => n
  | .fin n _ _ => n

def FV.isZero (v : FV) : Bool :=
  match v with
  | .fin _ m _ => m == 0
  | _ => false

def FV.finite (v : FV) : Bool :=
  match v with
  | .fin _ _ _ => true
  | _ => false

/-! ### Operations on codes, one rounding each -/

/-- A rounded sum of two codes of a format. -/
def fAdd (f : Fmt) (k : Rounder) (a b : Nat) : Rounded :=
  let (v, fl) := FV.add k.mode (f.decode a) (f.decode b)
  let r := roundFV f k v
  { r with flags := r.flags ||| fl }

def fSub (f : Fmt) (k : Rounder) (a b : Nat) : Rounded :=
  let (v, fl) := FV.add k.mode (f.decode a) (f.decode b).neg
  let r := roundFV f k v
  { r with flags := r.flags ||| fl }

def fMul (f : Fmt) (k : Rounder) (a b : Nat) : Rounded :=
  let (v, fl) := FV.mul (f.decode a) (f.decode b)
  let r := roundFV f k v
  { r with flags := r.flags ||| fl }

/-- a × b + c with one rounding (R137). -/
def fFma (f : Fmt) (k : Rounder) (a b c : Nat) : Rounded :=
  let (v, fl) := FV.mul (f.decode a) (f.decode b)
  let (w, fl2) := FV.add k.mode v (f.decode c)
  let r := roundFV f k w
  { r with flags := r.flags ||| fl ||| fl2 }

/-- Fraction bits kept by the inexact functions below: far more than any rounding decision of an f32 result needs. -/
def funPrec : Nat := 256

/-- A rounded quotient, with the special results of R149. -/
def fDiv (f : Fmt) (k : Rounder) (a b : Nat) : Rounded :=
  match f.decode a, f.decode b with
  | .nan, _ => ⟨f.nan, 0, false⟩
  | _, .nan => ⟨f.nan, 0, false⟩
  | .inf x, .inf _ => let _ := x; ⟨f.nan, fIV, false⟩
  | .inf x, .fin y _ _ => ⟨f.inf (x != y), 0, false⟩
  | .fin x _ _, .inf y => ⟨f.pack (x != y) 0 f.qmin, 0, false⟩
  | .fin x m e, .fin y n g =>
    if n = 0 then (if m = 0 then ⟨f.nan, fIV, false⟩ else ⟨f.inf (x != y), fDZ, false⟩)
    else if m = 0 then ⟨f.pack (x != y) 0 f.qmin, 0, false⟩
    else
      let w := m * 2 ^ funPrec
      roundFin f k (x != y) (w / n) (e - g - (funPrec : Int)) (w % n != 0)

/-- Integer square root by binary digits: the greatest r with r² ≤ n, bits below `b` of r still to find. -/
def isqrtGo (n : Nat) : Nat → Nat → Nat
  | 0, r => r
  | b + 1, r => let t := r + 2 ^ b; isqrtGo n b (if t * t ≤ n then t else r)

def isqrt (n : Nat) : Nat := isqrtGo n (bitLen n / 2 + 1) 0

def fSqrt (f : Fmt) (k : Rounder) (a : Nat) : Rounded :=
  match f.decode a with
  | .nan => ⟨f.nan, 0, false⟩
  | .inf true => ⟨f.nan, fIV, false⟩
  | .inf false => ⟨f.inf false, 0, false⟩
  | .fin x m e =>
    if m = 0 then ⟨f.pack x 0 f.qmin, 0, false⟩
    else if x then ⟨f.nan, fIV, false⟩
    else
      let (m, e) := if e % 2 = 0 then (m, e) else (2 * m, e - 1)
      let w := m * 2 ^ (2 * 80)
      let r := isqrt w
      roundFin f k false r (e / 2 - 80) (r * r != w)

def fRcp (f : Fmt) (k : Rounder) (a : Nat) : Rounded := fDiv f k (f.pack false (2 ^ (f.p - 1)) (1 - (f.p : Int))) a

def fRsq (f : Fmt) (k : Rounder) (a : Nat) : Rounded :=
  match f.decode a with
  | .nan => ⟨f.nan, 0, false⟩
  | .inf true => ⟨f.nan, fIV, false⟩
  | .inf false => ⟨f.pack false 0 f.qmin, 0, false⟩
  | .fin x m e =>
    if m = 0 then ⟨f.inf x, fDZ, false⟩
    else if x then ⟨f.nan, fIV, false⟩
    else
      let (m, e) := if e % 2 = 0 then (m, e) else (2 * m, e - 1)
      let w := 2 ^ 320
      let r := isqrt (w / m)
      roundFin f k false r (-(e / 2) - 160) (r * r * m != w)

/-- ln 2 × 2^funPrec: the sum of 1 / (j × 2^j) over j = n, …, 1. -/
def ln2Sum : Nat → Nat
  | 0 => 0
  | j + 1 => ln2Sum j + 2 ^ funPrec / ((j + 1) * 2 ^ (j + 1))

def ln2Fix : Nat := ln2Sum 270

/-- e^y for y × 2^funPrec: terms j, …, j + fuel of the exponential series, `term` being the j-th. -/
def expSum (y : Nat) : Nat → Nat → Nat → Nat
  | 0, _, _ => 0
  | fuel + 1, j, term => term + expSum y fuel (j + 1) (term * y / 2 ^ funPrec / (j + 1))

/-- 2^frac × 2^funPrec for frac × 2^funPrec in [0, 1). -/
def exp2Fix (frac : Nat) : Nat := expSum (frac * ln2Fix / 2 ^ funPrec) 90 0 (2 ^ funPrec)

/-- 2^x, rounded once (R149). -/
def fExp2 (f : Fmt) (k : Rounder) (a : Nat) : Rounded :=
  match f.decode a with
  | .nan => ⟨f.nan, 0, false⟩
  | .inf true => ⟨f.pack false 0 f.qmin, 0, false⟩
  | .inf false => ⟨f.inf false, 0, false⟩
  | .fin neg m e =>
    -- beyond ±2^12 every result overflows or rounds as 2^±4096 does
    let big := decide (13 ≤ (bitLen m : Int) + e)
    if big then roundFin f k false 1 (if neg then -4096 else 4096) false
    else
      let x : Int := (if neg then -1 else 1) * (((m * 2 ^ (e + (funPrec : Int)).toNat) / 2 ^ (-(e + (funPrec : Int))).toNat : Nat) : Int)
      let ip := x / ((2 ^ funPrec : Nat) : Int)
      let fr := (x % ((2 ^ funPrec : Nat) : Int)).toNat
      if fr = 0 then roundFin f k false 1 ip false
      else roundFin f k false (exp2Fix fr) (ip - (funPrec : Int)) true

/-- Terms j, j + 2, … of the series of artanh: z^j / j, with `zj` being z^j. -/
def artanhSum (z2 : Nat) : Nat → Nat → Nat → Nat
  | 0, _, _ => 0
  | fuel + 1, j, zj => zj / j + artanhSum z2 fuel (j + 2) (zj * z2 / 2 ^ funPrec)

/-- log2 of m / 2^b in [1, 2), × 2^funPrec. -/
def log2Fix (m b : Nat) : Nat :=
  let z := (m - 2 ^ b) * 2 ^ funPrec / (m + 2 ^ b)
  2 * artanhSum (z * z / 2 ^ funPrec) 90 1 z * 2 ^ funPrec / ln2Fix

/-- log2 x, rounded once (R149). -/
def fLog2 (f : Fmt) (k : Rounder) (a : Nat) : Rounded :=
  match f.decode a with
  | .nan => ⟨f.nan, 0, false⟩
  | .inf true => ⟨f.nan, fIV, false⟩
  | .inf false => ⟨f.inf false, 0, false⟩
  | .fin neg m e =>
    if m = 0 then ⟨f.inf true, fDZ, false⟩
    else if neg then ⟨f.nan, fIV, false⟩
    else
      let b := bitLen m - 1
      let ip : Int := e + (b : Int)
      if m = 2 ^ b then roundFV f k (intFV ip)
      else
        let y : Int := ip * ((2 ^ funPrec : Nat) : Int) + (log2Fix m b : Int)
        roundFin f k (decide (y < 0)) y.natAbs (-(funPrec : Int)) true

/-- A function of f32, for a lane of a type: on f16 and bf16 the f32 result converted rne, flags of both (R149). -/
def viaF32 (f : Fmt) (g : Nat → Rounded) (a : Nat) : Rounded :=
  if f == f32 then g a
  else
    let r := g (roundFV f32 ⟨0, 0, true⟩ (f.decode a)).code
    let t := roundFV f ⟨0, 0, true⟩ (f32.decode r.code)
    { t with flags := t.flags ||| r.flags }

def viaF32₂ (f : Fmt) (g : Nat → Nat → Rounded) (a b : Nat) : Rounded :=
  if f == f32 then g a b
  else
    let w := fun x => (roundFV f32 ⟨0, 0, true⟩ (f.decode x)).code
    let r := g (w a) (w b)
    let t := roundFV f ⟨0, 0, true⟩ (f32.decode r.code)
    { t with flags := t.flags ||| r.flags }

/-! ### Stochastic rounding -/

/-- mix (R144). -/
def srMix (z : Nat) : Nat :=
  let m := 2 ^ 64
  let z := z % m
  let z := (z ^^^ (z / 2 ^ 30)) * 0xBF58476D1CE4E5B9 % m
  let z := (z ^^^ (z / 2 ^ 27)) * 0x94D049BB133111EB % m
  z ^^^ (z / 2 ^ 31)

/-- word[63:32] of the draw of a lane (R144). -/
def srDraw (seed it course ey ex node lane str : Nat) : Nat :=
  let ctr := (it * 2 ^ 48 ||| course * 2 ^ 44 ||| ey * 2 ^ 38 ||| ex * 2 ^ 32 ||| node * 2 ^ 26 ||| lane * 2 ^ 19 ||| str * 2 ^ 8) % 2 ^ 64
  srMix (ctr ^^^ srMix seed) / 2 ^ 32

/-! ### Block metadata and the residual grid -/

/-- The power of two of an e8m0 scale code; none for NaN (R141). -/
def scaleExp (s : Nat) : Option Int := if s % 256 = 255 then none else some ((s % 256 : Nat) - 127 : Int)

/-- A value times its block's scale; a NaN scale makes it NaN. -/
def FV.scaled (v : FV) (s : Nat) : FV :=
  match scaleExp s with
  | none => .nan
  | some k => v.scale k

/-- An element code of a format with its spare value: code 1000 of e2m1 reads as the spare e4m3 code (R139, R141). -/
def elemVal (f : Fmt) (spare code : Nat) : FV :=
  if f == e2m1 then (if code % 16 = 8 then e4m3.decode (spare % 256) else e2m1.decode (code % 16))
  else f.decode code

/-- q(v) of the residual grid, with its flags (R157). -/
def gridQ (v : FV) : Int × Flags :=
  match v with
  | .nan => (0, fIV)
  | .inf neg => (if neg then tyMin 3 else tyMax 3, fSAT)
  | .fin neg m e =>
    let (x, ix) := roundToInt ⟨0, 0, true⟩ neg m (e + 32)
    let (y, fl) := satInt 3 x
    (y, fl ||| flagIf ix fNX)

end Sys2Proof.Machine
end

