-- ==== Sys2Proof/Machine/Operands.lean ====
section
/-! DEFINITION. Sys2Proof/Machine/Operands.lean: operand forms (R117, R122, R134), lanes of a data payload (R188), and
frame and handle words (R53, R125). -/

namespace Sys2Proof.Machine

/-- An operand without marks. -/
def plain (x : Nat) : Opnd := { val := BitVec.ofNat 512 x, p := false, e := false }

/-- Payload bits [63:0]. -/
def Opnd.word (o : Opnd) : Nat := o.val.toNat % 2 ^ 64

/-- A register K of an element (R15); a crucible has none. -/
def State.kReg (s : State) (c el i : Nat) : Word :=
  if el < 0x1000 then (lkp (s.elem c el).k i).getD 0#64 else 0#64

/-- LIT selects a constant (R122). -/
def kSelects (r : NodeRec) : Bool := bitsAt r.lit 4 28 == 0x8000000

/-- The literal value on the control plane (R122). -/
def litCtl (s : State) (g : Firing) (r : NodeRec) : Nat :=
  let l := r.lit.toNat
  if kSelects r then (s.kReg g.course.toNat g.unit.toNat (l % 16)).toNat
  else
    let t := r.ty.toNat
    if tySigned t then natMod (signedVal 32 l) 64
    else if t < 9 then l
    else if t < 15 then l % 2 ^ tyWidth t
    else l % 2

/-- Lane width of a type code on the data plane (R188). -/
def laneBits (t : Nat) : Nat := tyWidth t

/-- Lane i of a payload of lane width w (R188). -/
def laneAt (w : Nat) (v : Payload) (i : Nat) : Nat := v.toNat / 2 ^ (i * w) % 2 ^ w

/-- The lanes of a payload of width w, lane 0 first. -/
def lanesOf (w : Nat) (v : Payload) : List Nat := (List.range (512 / w)).map (laneAt w v)

/-- The number that lanes of width w make, lane 0 lowest. -/
def lanesNat (w : Nat) : List Nat → Nat
  | [] => 0
  | x :: xs => x % 2 ^ w + 2 ^ w * lanesNat w xs

/-- A payload from its lanes. -/
def ofLanes (w : Nat) (xs : List Nat) : Payload := BitVec.ofNat 512 (lanesNat w xs)

/-- Every lane the same. -/
def splat (w x : Nat) : Payload := ofLanes w (List.replicate (512 / w) x)

/-- The literal value on the data plane: every lane takes the low lane-width bits (R122). For pred, which has no lanes
(R188), it is a free value (notes/assumptions/5.md, DESIGN CHOICE). -/
def litData (s : State) (g : Firing) (r : NodeRec) : Payload :=
  if r.ty = 15#4 then Config.predLanes (litCtl s g r) else splat (laneBits r.ty.toNat) (litCtl s g r)

/-- Resolved operands of a firing (R117). -/
structure Args where
  a : Opnd
  b : Opnd
  c : Opnd
  s : Opnd
  /-- some operand carries P = 1 -/
  p : Bool
  /-- some operand carries E = 1 -/
  e : Bool
  deriving DecidableEq, Repr, Inhabited

/-- The operands that an AR code names, with the literal value `l` at B for 010 and at C for 100 (R117). -/
def argsOf (ar : Nat) (g : Firing) (l : Payload) : Args :=
  let o := fun (x : Option Opnd) => x.getD (plain 0)
  let lo : Opnd := { val := l, p := false, e := false }
  let a := if ar = 5 then plain 0 else o g.a
  let b := if ar = 1 ∨ ar = 3 ∨ ar = 4 ∨ ar = 6 then o g.b else if ar = 2 then lo else plain 0
  let c := if ar = 3 then o g.c else if ar = 4 then lo else plain 0
  let s := if ar = 6 then o g.s else plain 0
  { a := a, b := b, c := c, s := s, p := a.p || b.p || c.p || s.p, e := a.e || b.e || c.e || s.e }

/-- Operands with a control-plane literal. -/
def argsCtl (s : State) (r : NodeRec) (g : Firing) : Args := argsOf r.ar.toNat g (BitVec.ofNat 512 (litCtl s g r))

/-- Operands with a data-plane literal. -/
def argsData (s : State) (r : NodeRec) (g : Firing) : Args := argsOf r.ar.toNat g (litData s g r)

/-- Value of an integer operand in a type (val of R159). -/
def Opnd.int (o : Opnd) (t : Nat) : Int := intVal t o.val.toNat

/-! Frame words (R125) and handles (R53). -/

def frameWord (kind course unit it ft : Nat) : Nat :=
  kind * 2 ^ 40 + course % 16 * 2 ^ 36 + unit % 256 * 2 ^ 28 + it % 65536 * 2 ^ 12 + ft % 4096

structure FrameRef where
  kind : Nat
  course : Nat
  unit : Nat
  it : Nat
  ft : Nat
  deriving DecidableEq, Repr, Inhabited

def frameRef (x : Nat) : FrameRef where
  kind := x / 2 ^ 40 % 2
  course := x / 2 ^ 36 % 16
  unit := x / 2 ^ 28 % 256
  it := x / 2 ^ 12 % 65536
  ft := x % 4096

def handleWord (course bay pool entry gen : Nat) : Nat :=
  0xF * 2 ^ 60 + course % 16 * 2 ^ 56 + bay % 256 * 2 ^ 48 + pool % 8 * 2 ^ 45 + entry % 256 * 2 ^ 37 + gen % 256 * 2 ^ 29

structure Handle where
  course : Nat
  bay : Nat
  pool : Nat
  entry : Nat
  gen : Nat
  rsvd : Nat
  off : Nat
  deriving DecidableEq, Repr, Inhabited

def handleOf (x : Nat) : Handle where
  course := x / 2 ^ 56 % 16
  bay := x / 2 ^ 48 % 256
  pool := x / 2 ^ 45 % 8
  entry := x / 2 ^ 37 % 256
  gen := x / 2 ^ 29 % 256
  rsvd := x / 2 ^ 20 % 512
  off := x % 2 ^ 20

/-- A value is a handle: HM is 0xF (R53). -/
def isHandle (x : Nat) : Bool := x / 2 ^ 60 % 16 == 0xF

/-! Fields of a memory record's LIT (R123). -/

def litOwn (r : NodeRec) : Nat := bitsAt r.lit 25 7
def litPred (r : NodeRec) : Nat := bitsAt r.lit 18 7
def litSucc (r : NodeRec) : Nat := bitsAt r.lit 11 7
def litScope (r : NodeRec) : Nat := bitsAt r.lit 8 3
def litOrd (r : NodeRec) : Nat := bitsAt r.lit 6 2
def litOff (r : NodeRec) : Int := signedVal 6 (bitsAt r.lit 0 6)

/-- IT comparison modulo 2^16: a is older than b (R30). -/
def itOlder (a b : Nat) : Bool :=
  let d := (b + 65536 - a % 65536) % 65536
  decide (1 ≤ d) && decide (d ≤ 32767)

end Sys2Proof.Machine
end

