-- ==== Sys2Proof/Machine/Tokens.lean ====
section
/-! DEFINITION. Sys2Proof/Machine/Tokens.lean: what a node sends (R12, R14, R25, R27, R118 to R121, R125) and the fault
entries that name it (R379 to R387). -/

namespace Sys2Proof.Machine

/-- The key of a firing's take latch in its element (R304). -/
def Firing.takeKey (g : Firing) : Nat := g.cx.toNat * 64 + g.node.toNat

/-- A number for what a firing is in every run of its kernel: context, place and iteration (R329). -/
def Firing.key (g : Firing) : Nat :=
  (((g.cx.toNat * 16 + g.course.toNat) * 2 ^ 13 + g.unit.toNat) * 64 + g.node.toNat) * 2 ^ 16 + g.it.toNat

/-- The firing is of a crucible's handler record. -/
def Firing.isCru (g : Firing) : Bool := decide (0x1000 ≤ g.unit.toNat)

/-- The linkage of the frame in which a firing happens (R19, R118). -/
def State.linkOf (s : State) (g : Firing) : Link :=
  if g.isCru then (s.cru g.course.toNat (g.unit.toNat - 0x1000)).link
  else ((s.frame? g.course.toNat g.bay g.ft.toNat).map Frame.link).getD Link.root

/-- The strand of a firing: that with which its cast began (R172), else its frame's. -/
def State.strandOf (s : State) (g : Firing) : BitVec 11 :=
  if g.isCru then (s.linkOf g).str
  else
    match s.cast? g.course.toNat g.bay g.ft.toNat with
    | some c => c.strand
    | none => (s.linkOf g).str

/-- The linkage that a firing hands on: its frame's, with the strand of its cast (R19, R172). -/
def State.ownLink (s : State) (g : Firing) : Link := { s.linkOf g with str := s.strandOf g }

/-- The linkage from which a firing's results take their tags: as it stood when the node issued (R118). -/
def State.tagLink (s : State) (g : Firing) : Link := (g.tags.map Prod.fst).getD (s.linkOf g)

/-! ### Tags -/

/-- What TG gives (R118, R125): course, FT and IT of the outgoing tokens, a poisoned frame word, or a fault's code. -/
inductive TagRes where
  | ok (course ft it : Nat)
  | poisoned
  | bad (code : Nat)
  deriving DecidableEq, Repr

/-- A destination lies in the unit that a frame word names (R125); "no destination" names none. -/
def destIn (w : FrameRef) (d : BitVec 21) : Bool :=
  if d = 0x1FFFFF#21 then true
  else
    match unitKind (destUnit d) with
    | .elem el => w.kind == 0 && elBay el == w.unit
    | .gate b => w.kind == 0 && b == w.unit
    | .cru n => w.kind == 1 && n == w.unit
    | .none => false

/-- NV and NFT of a firing's frame, as they stood when the node issued (R118). -/
def State.nextTag (s : State) (g : Firing) : Bool × BitVec 12 :=
  (g.tags.map Prod.snd).getD (((s.frame? g.course.toNat g.bay g.ft.toNat).map fun f => (f.nv, f.nft)).getD (false, 0))

/-- A record names a destination on D0 or on D1. -/
def hasDest (r : NodeRec) : Bool := r.d0 != 0x1FFFFF#21 || r.d1 != 0x1FFFFF#21

/-- TG of a record at a firing; `to` is the target course, that of VERT and EAVE or the firing's own. A frame word can fail
only a destination that the record names (R125). -/
def tagTo (s : State) (r : NodeRec) (g : Firing) (dest : Nat) : TagRes :=
  match r.tg.toNat with
  | 0 => .ok dest g.ft.toNat g.it.toNat
  | 1 => if (s.nextTag g).1 then .ok dest (s.nextTag g).2.toNat ((g.it.toNat + 1) % 65536) else .bad 6
  | 2 =>
    let a := g.a.getD (plain 0)
    let w := frameRef a.word
    if a.p then .poisoned
    else if hasDest r = true ∧ (w.course ≠ dest ∨ destIn w r.d0 = false ∨ destIn w r.d1 = false) then .bad 7
    else .ok dest w.ft w.it
  | _ => .ok dest (s.tagLink g).cft.toNat (s.tagLink g).cit.toNat

def tagOf (s : State) (r : NodeRec) (g : Firing) : TagRes := tagTo s r g g.course.toNat

/-! ### Sending -/

/-- A value for one destination: payload and poison. -/
abbrev Val := Payload × Bool

/-- A token goes to a node of the live cast of the sender's own frame: same bay, frame, iteration and block (R25). -/
def isInternal (s : State) (g : Firing) (t : Transit) : Bool :=
  if g.isCru then false
  else
    match s.cast? g.course.toNat g.bay g.ft.toNat, unitKind (destUnit t.tok.dest) with
    | some c, .elem el =>
      t.course == g.course && t.stack == t.sStack && elBay el == g.bay && t.tok.ft == g.ft && t.tok.it == g.it
        && s.blockOf g.cx.toNat g.course.toNat el (destNode t.tok.dest) == some c.block
    | _, _ => false

/-- A token leaves its node: an internal one at once, any other with the commit of the live cast (R25). A crucible, which
has no cast, sends at once. -/
def sendTok (s : State) (g : Firing) (t : Transit) : State :=
  if isInternal s g t then { s with transit := s.transit ++ [{ t with internal := true }] }
  else if g.isCru then { s with transit := s.transit ++ [t] }
  else
    match s.cast? g.course.toNat g.bay g.ft.toNat with
    | some _ => s.modOwn g fun c => { c with out := c.out ++ [t] }
    | none => { s with transit := s.transit ++ [t] }

/-- The token of a firing for one destination. -/
def mkTok (s : State) (g : Firing) (e : Bool) (stack course ft it : Nat) (d : BitVec 21) (pl : Bool) (v : Val) : Transit where
  tok := { pl := pl, p := v.2, e := e, cx := g.cx, ft := BitVec.ofNat 12 ft, it := BitVec.ofNat 16 it, dest := d,
           val := if e then 0#512 else v.1 }
  course := BitVec.ofNat 4 course
  stack := BitVec.ofNat 10 stack
  sStack := s.sideband.stackNo
  sCourse := g.course
  sUnit := g.unit
  sNode := g.node
  internal := false
  born := 0
  due := 0

/-- Send to one destination, unless it is "no destination". -/
def sendTo (s : State) (g : Firing) (e : Bool) (stack course ft it : Nat) (d : BitVec 21) (pl : Bool) (v : Option Val) :
    State :=
  match v with
  | none => s
  | some v => if d = 0x1FFFFF#21 then s else sendTok s g (mkTok s g e stack course ft it d pl v)

/-- Send a value on D0 and one on D1, each on its plane; under RETURN the one value goes to RDEST (R118, R119), that of D1
when the node sends on D1 alone (notes/assumptions/18.md). -/
def emitTagged (s : State) (r : NodeRec) (g : Firing) (e : Bool) (stack course ft it : Nat) (pl0 pl1 : Bool)
    (v0 v1 : Option Val) : State :=
  if r.tg = 3#2 then sendTo s g e stack course ft it (s.tagLink g).rdest (if v0.isSome then pl0 else pl1) (v0.or v1)
  else sendTo (sendTo s g e stack course ft it r.d0 pl0 v0) g e stack course ft it r.d1 pl1 v1

/-- The E bit of a frame's linkage: an exception seen in the live cast (R27). -/
def State.eBit (s : State) (g : Firing) : Bool := if g.isCru then false else (s.linkOf g).e

/-- Send by the record's TG, D0 and D1 each on its plane; a tag that cannot be formed sends nothing (its fault is raised where
the node issues). -/
def emitOn (s : State) (r : NodeRec) (g : Firing) (e pl0 pl1 : Bool) (v0 v1 : Option Val) : State :=
  match tagOf s r g with
  | .ok course ft it => emitTagged s r g e s.sideband.stackNo.toNat course ft it pl0 pl1 v0 v1
  | _ => s

/-- Send on the record's plane. -/
def emitVals (s : State) (r : NodeRec) (g : Firing) (e : Bool) (v0 v1 : Option Val) : State := emitOn s r g e r.pl r.pl v0 v1

/-- The same for a record whose D1 has the control plane, whatever PL holds (R119, R244). -/
def emitPos (s : State) (r : NodeRec) (g : Firing) (e : Bool) (v0 v1 : Option Val) : State := emitOn s r g e r.pl false v0 v1

/-- emit (R134) of a control value. -/
def emitWord (s : State) (r : NodeRec) (g : Firing) (x : Nat) (p : Bool) : State :=
  let v : Val := (BitVec.ofNat 512 (x % 2 ^ 64), p)
  emitVals s r g (s.eBit g) (some v) (some v)

/-- emit of a payload. -/
def emitData (s : State) (r : NodeRec) (g : Firing) (x : Payload) (p : Bool) : State :=
  emitVals s r g (s.eBit g) (some (x, p)) (some (x, p))

/-- The tokens that a firing has sent since a state do not arrive before a cycle: its access takes that long (R319). -/
def delaySince (s0 s : State) (g : Firing) (due : Nat) : State :=
  let late := fun (t : Transit) => { t with due := due }
  let n := ((s0.cast? g.course.toNat g.bay g.ft.toNat).map fun k => k.out.length).getD 0
  { s with transit := s.transit.take s0.transit.length ++ (s.transit.drop s0.transit.length).map late }.modOwn g fun k =>
    { k with out := k.out.take n ++ (k.out.drop n).map late }

/-- emit of a payload whose access takes some cycles (R319). -/
def emitAfter (s : State) (r : NodeRec) (g : Firing) (x : Payload) (p : Bool) (d : Nat) : State :=
  delaySince s (emitData s r g x p) g (s.cycles + d)

/-! ### Fault records -/

/-- A record of a kind raised by a firing (R384). -/
def recOf (s : State) (g : Firing) (kind site code : Nat) (soft : Bool) : FaultRec :=
  { FaultRec.zero with
    kind := BitVec.ofNat 5 kind
    site := BitVec.ofNat 3 site
    soft := soft
    ocx := g.cx
    aux := BitVec.ofNat 16 code
    course := g.course
    bay := if g.isCru then 0#8 else BitVec.ofNat 8 g.bay
    unit := g.unit
    node := g.node
    stack := s.sideband.stackNo
    ft := g.ft
    it := g.it
    str := s.strandOf g
    strv := true }

/-- Fault kinds (R379). -/
def kPAGE : Nat := 1
def kPROT : Nat := 2
def kALIGN : Nat := 3
def kATTR : Nat := 4
def kWONCE : Nat := 5
def kTAG : Nat := 6
def kEMPTY : Nat := 7
def kHOLDING : Nat := 8
def kSPARSE : Nat := 9
def kSTALL : Nat := 10
def kPOISON : Nat := 11
def kROOM : Nat := 12
def kCFGILL : Nat := 13
def kCFGFETCH : Nat := 14
def kLAYOUT : Nat := 15
def kGUARD : Nat := 16
def kDATALOST : Nat := 17
def kPULLLOST : Nat := 18
def kREVOKED : Nat := 19
def kTRAP : Nat := 20

/-- Sites (R380). -/
def sCAST : Nat := 0
def sRECORD : Nat := 1
def sHOME : Nat := 2
def sENGINE : Nat := 3
def sLATCH : Nat := 4
def sCONFIG : Nat := 5
def sNOTICE : Nat := 6
def sTOKEN : Nat := 7

/-- Gutter bays of a course (R2). -/
def isGutter (b : Nat) : Bool := b == 0xEE || b == 0xEF || b == 0xFE || b == 0xFF

/-- The fault frame's pool: the lowest-numbered FRM pool that a context owns in a bay (R382). -/
def State.faultPool (s : State) (cx c b : Nat) : Option Nat :=
  ((s.bay c b).pools.find? (fun e => e.2.kind == 0#2 && e.2.cx.toNat == cx)).map Prod.fst

/-- A context's handler, when it can take a fault: its course, bay, pool, node address and frame map (R381, R382). -/
def State.handlerOf (s : State) (cx : Nat) : Option (Nat × Nat × Nat × BitVec 21 × Nat) :=
  let h := (s.ctx cx).handler
  let c := bitsAt h 21 4
  let d : BitVec 21 := h.extractLsb' 0 21
  let b := elBay (destUnit d)
  if bitAt h 25 && decide (destUnit d < 0x1000) && isGutter b then
    match s.faultPool cx c b, s.planeOf cx c (destUnit d) with
    | some p, some pl =>
      match (pl.blockOf c (destUnit d) (destNode d)).bind (fun i => pl.blocks[i]?) with
      | some blk => blk.maps.head?.map fun m => (c, b, p, d, m)
      | none => none
    | _, _ => none
  else none

/-- The context that takes a fault from `cx` upwards, and the reflections made; 0 is the firmware (R381). `own` says that
`cx` is the owner, whose mask applies and which must not have raised it in a fault frame. -/
def routeUp (s : State) (kind : Nat) (inFaultFrame : Bool) : Nat → Bool → Nat → Nat → Nat × Nat
  | 0, _, _, hops => (0, hops)
  | fuel + 1, own, cx, hops =>
    if cx = 0 ∨ (s.ctx? cx).isNone then (0, hops)
    else
      let x := s.ctx cx
      let takes := (s.handlerOf cx).isSome && (!own || (bitsAt x.handler (32 + kind) 1 == 1 && !inFaultFrame))
      if takes then (cx, hops) else routeUp s kind inFaultFrame fuel false x.parent.toNat (hops + 1)

/-- Unsettled faults of a holder's table (R383). -/
def State.tableSize (s : State) (h : Nat) : Nat :=
  (s.faults.filter (fun f => f.holder.toNat == h && f.entered && !f.settled)).length

/-- The latest record delivered to a context takes the verdict that settles its fault (R384). -/
def noteVerdict (s : State) (f : FaultEntry) (v : BitVec 3) : State :=
  s.modCtx f.holder.toNat fun x =>
    if x.frec.seq = f.info.seq ∧ x.frec.verdict = 0#3 then { x with frec := { x.frec with verdict := v } } else x

/-- Enter a fault in a holder's table when it has room: it takes the next SEQ (R383). A soft record that finds the table
full is dropped and counted. -/
def enterFault (s : State) (h : Nat) (rc : FaultRec) (site : Site) : State :=
  let hb := BitVec.ofNat 12 h
  if s.tableSize h < 64 then
    let x := s.ctx h
    let rc := { rc with seq := x.faultSeq }
    let s := s.modCtx h fun y => { y with faultSeq := y.faultSeq + 1 }
    { s with faults := s.faults ++ [{ holder := hb, info := rc, site := site, entered := true, due := s.cycles + 200, delivered := false, answer := none, settled := false }] }
  else if rc.soft then s.modCtx h fun y => { y with lost := y.lost + 1 }
  else { s with faults := s.faults ++ [{ holder := hb, info := rc, site := site, entered := false, due := 0, delivered := false, answer := none, settled := false }] }

/-- The fault that waited longest for room enters a holder's table (R383). -/
def admitFaults (s : State) (h : Nat) : State :=
  match s.faults.find? (fun f => f.holder.toNat == h && !f.entered) with
  | some f => if s.tableSize h < 64 then enterFault { s with faults := s.faults.erase f } h f.info f.site else s
  | none => s

/-- Route a fault from its owner and enter it (R381, R383). -/
def fileFault (s : State) (owner : Nat) (inFaultFrame : Bool) (rc : FaultRec) (site : Site) : State :=
  let (h, hops) := routeUp s rc.kind.toNat inFaultFrame 9 true owner 0
  enterFault s h { rc with hops := BitVec.ofNat 3 hops } site

/-- Pass a fault on to the parent of the context that holds it (R381, R388). -/
def reflectFault (s : State) (h : Nat) (rc : FaultRec) (site : Site) : State :=
  let (h2, hops) := routeUp s rc.kind.toNat false 9 false (s.ctx h).parent.toNat (rc.hops.toNat + 1)
  enterFault s h2 { rc with hops := BitVec.ofNat 3 hops } site

/-- The firing's frame is a fault frame (R382). -/
def State.inFaultFrame (s : State) (g : Firing) : Bool :=
  if g.isCru then false
  else ((s.frame? g.course.toNat g.bay g.ft.toNat).map (fun f => f.faultSeq.isSome)).getD false

/-- A soft record under FAULT_POL (R387). `place` is the cast whose commit must be complete before a strand or context
ends. A record that names no strand, STRV being 0, ends none. -/
def softRec (s : State) (rc : FaultRec) (inFF : Bool) (place : Option (BitVec 4 × BitVec 8 × BitVec 12)) : State :=
  let cx := rc.ocx.toNat
  let x := s.ctx cx
  let code := if rc.kind.toNat = kPOISON then bitsAt x.faultPol 0 2 else bitsAt x.faultPol 2 2
  match code with
  | 0 => fileFault s cx inFF rc .nothing
  | 1 =>
    let s := fileFault s cx inFF { rc with verdict := 3 } .nothing
    if rc.strv then { s with dooms := s.dooms ++ [{ cx := rc.ocx, str := rc.str, whole := false, place := place }] } else s
  | 2 =>
    let s := reflectFault s cx { rc with verdict := 4 } .nothing
    { s with dooms := s.dooms ++ [{ cx := rc.ocx, str := rc.str, whole := true, place := place }] }
  | _ => s.modCtx cx fun y => { y with lost := y.lost + 1 }

/-- A soft record made by a firing. -/
def softAt (s : State) (g : Firing) (kind code : Nat) (upd : FaultRec → FaultRec) : State :=
  softRec s (upd (recOf s g kind sRECORD code true)) (s.inFaultFrame g)
    (if g.isCru then none else some (g.course, BitVec.ofNat 8 g.bay, g.ft))

/-- A POISON record: an effect suppressed (R390). -/
def poisonRec (s : State) (g : Firing) (aux : Nat) : State := softAt s g kPOISON aux id

/-- A POISON record of AUX 0, with the address and the wave sequence (R390). -/
def poisonMem (s : State) (r : NodeRec) (g : Firing) (addr : Nat) : State :=
  softAt s g kPOISON 0 fun x => { x with addr := BitVec.ofNat 64 addr, wave := BitVec.ofNat 7 (litOwn r) }

/-- A notice to a context (R380): DATA_LOST or REVOKED. -/
def notice (s : State) (cx kind aux : Nat) (upd : FaultRec → FaultRec) : State :=
  if (s.ctx? cx).isNone then s
  else
    let rc := upd { FaultRec.zero with kind := BitVec.ofNat 5 kind, site := BitVec.ofNat 3 sNOTICE, soft := true,
                                       ocx := BitVec.ofNat 12 cx, aux := BitVec.ofNat 16 aux, stack := s.sideband.stackNo }
    if kind = kDATALOST ∧ bitAt (s.ctx cx).faultPol 4 = true then
      { s with dooms := s.dooms ++ [{ cx := BitVec.ofNat 12 cx, str := 0, whole := true, place := none }] }
    else fileFault s cx false rc .nothing

end Sys2Proof.Machine
end

