-- ==== Sys2Proof/Machine/Translate.lean ====
section
/-! DEFINITION. Sys2Proof/Machine/Translate.lean: the physical space and its backing (R313 to R315, R412), table walks and
their composition (R410 to R416, R318), translation caches (R316), and the checks of an access (R55, R211 to R213). -/

namespace Sys2Proof.Machine

/-! ### The physical space (R412) -/

def nearPA (course bay byte : Nat) : Nat := course * 2 ^ 28 + bay * 2 ^ 20 + byte
def farBase : Nat := 0x010000000000
def farSize : Nat := 96 * 2 ^ 30

def isNearPA (a : Nat) : Bool := decide (a < 2 ^ 32)
def isFarPA (a : Nat) : Bool := decide (farBase ≤ a) && decide (a < farBase + farSize)
def isPodPA (a : Nat) : Bool := a / 2 ^ 55 % 2 == 1

/-- A pod address that names this stack is the local address (R412). -/
def State.localPA (s : State) (a : Nat) : Nat :=
  if isPodPA a && a / 2 ^ 45 % 1024 == s.sideband.stackNo.toNat then a % 2 ^ 45 else a

/-- A pod address of another stack that no route reaches (R449). -/
def State.unreachable (s : State) (a : Nat) : Bool :=
  let a := s.localPA a
  isPodPA a && !(s.reach.contains (a / 2 ^ 45 % 1024))

/-- The address without its stack prefix, near or far. -/
def stackAddr (a : Nat) : Nat := if isPodPA a then a % 2 ^ 45 else a

/-- Byte `off` of a page whose leaf is at `base` with size `size` (R315): a 2 MiB near page is spread over 32 bays. -/
def pageByte (base size off : Nat) : Nat :=
  if isNearPA (stackAddr base) && size == 2 ^ 21 then
    let n := off / 64
    base + (n % 16) * 2 ^ 20 + (n / 16 % 2) * 2 ^ 24 + 64 * (n / 32) + off % 64
  else base + off

/-- The second copy of a shadow-capable page stands the page size after the first (R411); for a 2 MiB near page, which is
bank b of 32 bays, that is bank b + 1 of them (notes/assumptions/9.md). -/
def secondCopy (base size : Nat) : Nat :=
  if isNearPA (stackAddr base) && size == 2 ^ 21 then base + 2 ^ 16 else base + size

/-! ### Table walks -/

/-- A walk's fault: kind, code and owner (R318, R413). -/
structure XErr where
  kind : Nat
  code : Nat
  owner : Nat
  /-- the walk met M = 1: leaf entry, old and new backing, size (R432) -/
  pull : Option (Nat × Nat × Nat × Nat) := none
  /-- the class of that leaf -/
  cls : Nat := 0
  /-- size of the page, as far as the walk has come to know it -/
  span : Nat := 2 ^ 16
  deriving DecidableEq, Repr, Inhabited

/-- A composed entry (R413). `va` is page aligned in the composed page size. -/
structure XOk where
  size : Nat
  base : Nat
  bsize : Nat
  boff : Nat
  /-- base, size and offset of the second copy of a shadow-capable page (R411) -/
  snd : Nat × Nat × Nat := (0, 0, 0)
  /-- the first byte of its first copy, by which its selector is known (R240, R315) -/
  sel : Nat := 0
  cls : Nat
  w : Bool
  dirty : Bool
  /-- leaf entries of the chain, by physical address (R416) -/
  leaves : List Nat
  /-- table lines read, with the context whose level they hold (R415) -/
  tags : List (Nat × Nat)
  /-- far copy of the page: the leaf entry that names it by FC, and the copy's base, size and offset (R397, R411) -/
  farCopy : Option (Nat × Nat × Nat × Nat)
  deriving DecidableEq, Repr, Inhabited

/-- The copy of a page that an access uses: base, size and offset. That of a virtual address is the one that the selector names,
that of a shadow alias the other (R240). -/
def XOk.copy (o : XOk) (s : State) (shadow : Bool) : Nat × Nat × Nat :=
  if o.cls = 5 ∧ ((lkp s.selectors o.sel).getD false != shadow) = true then o.snd else (o.base, o.bsize, o.boff)

/-- Byte `i` from a translated address on, in the copy that an access uses. -/
def XOk.byte (o : XOk) (s : State) (shadow : Bool) (i : Nat) : Nat :=
  let q := o.copy s shadow
  s.localPA (pageByte q.1 q.2.1 (q.2.2 + i))

/-- A table entry that a walk reads stands at an address of the parent's space that translates so: its byte address and the
table lines read to find it, or PAGE with code 8 when no route reaches its stack (R413, R415, R449). -/
def tableAt (s : State) (cx : Nat) (o : XOk) : Except XErr (Nat × List (Nat × Nat)) :=
  let a := o.byte s false 0
  if s.unreachable a then .error { kind := kPAGE, code := 8, owner := cx } else .ok (a, o.tags)

/-- A window of a context covers an address, with its write right (R282). -/
def windowAt (x : Ctx) (a : Nat) : Option Bool :=
  let hit := x.holds.filter fun h =>
    h.kind == 2#4 && decide (h.p0.toNat ≤ a) && decide (a < h.p0.toNat + bitsAt h.p1 0 32 * 2 ^ 16)
  if hit.isEmpty then none else some (hit.any fun h => bitAt h.p1 32)

/-- Every 64 KiB unit of [a, stop) lies in a window; each step passes one window's end, and `fuel` bounds the windows. -/
def windowsCover (x : Ctx) (stop : Nat) : Nat → Nat → Bool
  | 0, a => decide (stop ≤ a)
  | fuel + 1, a =>
    if stop ≤ a then true
    else
      match x.holds.find? fun h => h.kind == 2#4 && decide (h.p0.toNat ≤ a) && decide (a < h.p0.toNat + bitsAt h.p1 0 32 * 2 ^ 16) with
      | some h => windowsCover x stop fuel (h.p0.toNat + bitsAt h.p1 0 32 * 2 ^ 16)
      | none => false

/-- Page size allowed for a class (R313). -/
def sizeOk (cls size : Nat) : Bool :=
  match cls with
  | 0 | 5 => size == 2 ^ 16 || size == 2 ^ 21
  | 1 | 2 => size == 2 ^ 16 || size == 2 ^ 21 || size == 2 ^ 30
  | _ => size == 2 ^ 16

/-- A leaf met by a walk of one level. -/
structure Leaf where
  addr : Nat
  size : Nat
  cls : Nat
  w : Bool
  fc : Bool
  d : Bool
  m : Bool
  alt : Nat
  entry : Nat
  tags : List (Nat × Nat)
  deriving DecidableEq, Repr, Inhabited

/-- A leaf's page is a 2 MiB near page of a stack, spread over 32 bays (R315, R412): its ADDR is an address of a stack's
space and names bank b of bay (0, 2j). -/
def spreadPage (phys : Bool) (addr size : Nat) : Bool := phys && isNearPA (stackAddr addr) && size == 2 ^ 21

/-- ADDR of a leaf is aligned for its page (R412, R413); class 4 names a mirror window there (R411). -/
def leafAligned (phys : Bool) (cls addr size : Nat) : Bool :=
  if cls = 4 then addr / 2 ^ 20 == 0
  else if spreadPage phys addr size then addr / 2 ^ 20 % 32 == 0
  else addr % size == 0

/-- The ranges of the parent's space that a leaf's page stands in. -/
def pageRanges (phys : Bool) (addr size : Nat) : List (Nat × Nat) :=
  if spreadPage phys addr size then (List.range 32).map fun i => (addr + i * 2 ^ 20, 2 ^ 16) else [(addr, size)]

/-- The ranges of a leaf's page, with those of the second copy of a shadow-capable one (R411). -/
def Leaf.ranges (l : Leaf) (phys : Bool) : List (Nat × Nat) :=
  pageRanges phys l.addr l.size
    ++ if l.cls = 5 then pageRanges phys (if phys then secondCopy l.addr l.size else l.addr + l.size) l.size else []

/-- Levels still to read: the bit position and number of index bits, and the leaf size allowed there (0 for none). -/
def tableLevels : List (Nat × Nat × Nat) :=
  [(48, 8, 0), (39, 9, 0), (30, 9, 2 ^ 30), (21, 9, 2 ^ 21), (16, 5, 2 ^ 16)]

/-- A walk of one context's table from the table at `tab`, an address of its parent's space that `rd` resolves (R410,
R411). `bad` is the code and owner of an invalid entry; `phys` says that the parent's space is the stack's own. -/
def walkTable (mem : List Host.Cell) (rd : Nat → Except XErr (Nat × List (Nat × Nat))) (phys : Bool) (cx : Nat) (bad : XErr) (va : Nat) :
    List (Nat × Nat × Nat) → Nat → List (Nat × Nat) → Except XErr Leaf
  | [], _, _ => .error bad
  | (pos, bits, lsz) :: rest, tab, tags =>
    match rd (tab + 16 * (va / 2 ^ pos % 2 ^ bits)) with
    | .error e => .error e
    | .ok (ea, read) =>
      let w0 := Memory.get mem ea 8
      let w1 := Memory.get mem (ea + 8) 8
      let tags := (ea / 64, cx) :: (read ++ tags)
      let bit := fun i => w0 / 2 ^ i % 2 == 1
      let addr := w0 / 2 ^ 16 % 2 ^ 40 * 2 ^ 16
      let alt := w1 % 2 ^ 56
      let form : XErr := { kind := kPAGE, code := 6, owner := cx }
      if !(bit 63) then .error bad
      else
        let lf := bit 62
        let cls := w0 / 2 ^ 59 % 8
        let fc := bit 56
        let m := bit 15
        if w0 % 2 ^ 15 ≠ 0 ∨ w1 / 2 ^ 56 ≠ 0 ∨ (lf && lsz == 0) = true ∨ (!lf && rest.isEmpty) = true then .error form
        else if !lf then
          (if fc || m || alt != 0 then .error form else walkTable mem rd phys cx bad va rest addr tags)
        else if (fc && cls != 0) || (fc && m) || (!fc && !m && alt != 0) then .error { form with span := lsz }
        else if cls ≥ 6 then .error { kind := kPAGE, code := 2, owner := cx, span := lsz }
        else if !(sizeOk cls lsz) then .error { kind := kPAGE, code := 3, owner := cx, span := lsz }
        else if !(leafAligned phys cls addr lsz) then .error { form with span := lsz }
        else .ok { addr := addr, size := lsz, cls := cls, w := bit 58, fc := fc, d := bit 57, m := m, alt := alt,
                   entry := ea, tags := tags }

/-- The translation of an address of a context's space through a chain of contexts, the context first and its ancestors
of depth 1 and more after it (R413). `depth` counts the levels passed. A page outside the windows is HOLDING with code 8, as
R282 and R318 say, where the record of R408 shows 0 (notes/assumptions/111.md). Both copies of a shadow-capable page have to
lie in the windows, and the second is translated as the first is (R411). A structure page is writable (R313). A class-4 leaf names a window of the mirror, no address of the
parent's space, so no ancestor's level composes it (R335; notes/assumptions/115.md, DEDUCED). -/
def xlate (s : State) : List Nat → Nat → Nat → Except XErr XOk
  | [], va, _ =>
    .ok { size := 2 ^ 56, base := 0, bsize := 2 ^ 56, boff := va, cls := 8, w := true, dirty := true, leaves := [],
          tags := [], farCopy := none }
  | cx :: up, va, depth =>
    let x := s.ctx cx
    let bad : XErr := { kind := kPAGE, code := if depth = 0 then 0 else 1, owner := cx }
    let rd := fun a =>
      match xlate s up a (depth + 1) with
      | .error e => .error e
      | .ok o => tableAt s cx o
    match walkTable s.mem rd up.isEmpty cx bad va tableLevels x.troot.toNat [] with
    | .error e => .error e
    | .ok l =>
      if l.cls = 4 then
        .ok { size := l.size, base := l.addr / 2 ^ 16 % 16 * 2 ^ 16, bsize := l.size, boff := va % l.size, cls := 4,
              w := false, dirty := true, leaves := [l.entry], tags := l.tags, farCopy := none }
      else if l.m then .error { kind := kPAGE, code := 0, owner := cx, pull := some (l.entry, l.addr, l.alt, l.size), cls := l.cls, span := l.size }
      else if !((l.ranges up.isEmpty).all fun q => windowsCover x (q.1 + q.2) (x.holds.length + 1) q.1) then
        .error { kind := kHOLDING, code := 8, owner := x.parent.toNat, span := l.size }
      else
        let off := va % l.size
        let a := l.addr + off
        let wr := l.cls == 3 || l.w && (windowAt x (if up.isEmpty then pageByte l.addr l.size off else a)).getD false
        if up.isEmpty then
          .ok { size := l.size, base := l.addr, bsize := l.size, boff := off, snd := (secondCopy l.addr l.size, l.size, off),
                sel := s.localPA l.addr, cls := l.cls, w := wr, dirty := l.d,
                leaves := [l.entry], tags := l.tags, farCopy := if l.fc then some (l.entry, l.alt, l.size, 0) else none }
        else
          match xlate s up a (depth + 1) with
          | .error e => .error { e with span := min l.size e.span }
          | .ok o =>
            let size := min l.size o.size
            let second : Except XErr (Nat × Nat × Nat) :=
              if l.cls = 5 then
                (match xlate s up (a + l.size) (depth + 1) with
                  | .error e => .error e
                  | .ok q => if q.cls ≠ 5 then .error { kind := kPAGE, code := 7, owner := (up.headD 0) } else .ok (q.base, q.bsize, q.boff))
              else .ok (0, 0, 0)
            if o.cls ≠ l.cls then .error { kind := kPAGE, code := 7, owner := (up.headD 0), span := size }
            else match second with
            | .error e => .error { e with span := min size e.span }
            | .ok second =>
              let far := if l.fc then (match xlate s up l.alt (depth + 1) with
                | .ok q => some (l.entry, q.base, q.bsize, q.boff)
                | .error _ => none) else o.farCopy
              .ok { size := size, base := o.base, bsize := o.bsize, boff := o.boff, snd := second,
                    sel := s.localPA (pageByte o.base o.bsize (o.boff - va % size)), cls := l.cls,
                    w := wr && o.w, dirty := l.d && o.dirty, leaves := l.entry :: o.leaves, tags := l.tags ++ o.tags,
                    farCopy := far }

/-- A context and its ancestors of depth 1 and more. -/
def chainGo (s : State) : Nat → Nat → List Nat
  | 0, _ => []
  | fuel + 1, cx => if cx = 0 then [] else cx :: chainGo s fuel (s.ctx cx).parent.toNat

def State.chain (s : State) (cx : Nat) : List Nat := chainGo s 8 cx

/-- The pools of a bay overlap granules [g, g + n) (R314). -/
def State.poolOver (s : State) (c b g n : Nat) : Bool :=
  (s.bay c b).pools.any fun e => decide (g < e.2.base.toNat + e.2.size.toNat) && decide (e.2.base.toNat < g + n)

/-- The bays and granules that back a near page (R315): course, bay and first granule of each bank. -/
def nearBanks (base size : Nat) : List (Nat × Nat × Nat) :=
  let c := base / 2 ^ 28 % 16
  let b := base / 2 ^ 20 % 256
  let g := base % 2 ^ 20 / 16
  if size = 2 ^ 30 then (List.range 16384).map fun i => ((c + i / 4096) % 16, i / 16 % 256, i % 16 * 4096)
  else if size = 2 ^ 21 then (List.range 32).map fun i => (c, b + i % 16 + 16 * (i / 16), g)
  else [(c, b, g)]

/-- The banks that back a composed near page, those of its second copy among them. -/
def XOk.banks (o : XOk) : List (Nat × Nat × Nat) :=
  nearBanks o.base o.bsize ++ (if o.cls = 5 then nearBanks o.snd.1 o.snd.2.1 else [])

/-- A retired bank backs no page again: neither a spare bank stands for it, nor does a lost page still keep its mark (R397,
R399). -/
def State.deadBank (s : State) (base bank : Nat) : Bool :=
  s.telem.retiredBanks.contains bank && (lkp s.telem.remaps bank).isNone && !(s.lostPages.any fun p => p.pa == base)

/-- The checks that a walk ends with on its physical page: a pool over it or the Ridge mirror's bank 15 (R314;
notes/assumptions/103.md, DESIGN CHOICE), a retired bank under it, which backs no page again (R399), the fifth structure page
of a bay (R315), then the entry. A pod page of this stack is a local one (R412). -/
def State.walk (s : State) (cx va : Nat) : Except XErr XOk :=
  if cx = 0 then xlate s [] va 0
  else
    match xlate s (s.chain cx) va 0 with
    | .error e => .error e
    | .ok o =>
      let base := s.localPA o.base
      let o := { o with base := base, snd := (s.localPA o.snd.1, o.snd.2) }
      let near := o.cls != 4 && isNearPA base
      if near && o.banks.any (fun (c, b, g) => g == 0xF000 || s.poolOver c b g 0x1000 || s.deadBank base (c * 4096 + b * 16 + g / 4096)) then
        .error { kind := kPAGE, code := 5, owner := cx, span := o.size }
      else if o.cls = 3 ∧ (s.structPages.any (fun p => p.1 == base)) = false
          ∧ 4 ≤ (s.structPages.filter (fun p => p.1 / 2 ^ 20 == base / 2 ^ 20)).length then
        .error { kind := kPAGE, code := 4, owner := cx, span := o.size }
      else .ok o

/-- The stack's own resolution of an address of a context's space, used by the units of the Plate: byte addresses of
`n` bytes, or the fault (R284, R370, R372). -/
def State.resolveByte (s : State) (cx va : Nat) : Except XErr Nat :=
  match s.walk cx va with
  | .error e => .error e
  | .ok o => .ok (o.byte s false 0)

def State.resolve (s : State) (cx va : Nat) : Nat → Except XErr (List Nat)
  | 0 => .ok []
  | n + 1 =>
    match s.resolveByte cx (va + n) with
    | .error e => .error e
    | .ok a =>
      match s.resolve cx va n with
      | .error e => .error e
      | .ok as => .ok (as ++ [a])

/-! ### Generations and writes -/

/-- A context is `a` or a descendant of `a`; every context descends from context 0. -/
def State.inSubtree (s : State) (a cx : Nat) : Bool := a == 0 || (s.chain cx).contains a || cx == a

/-- A bump of a context (R414): its generation and those of its descendants rise; a generation that comes to 0 first
loses its cached entries. -/
def bumpGen (s : State) (cx : Nat) : State :=
  let hit := fun n => s.inSubtree cx n
  let zero := (s.ctxs.filter fun e => hit e.1 && e.2.gen == 0xFFFF#16).map Prod.fst
  let s1 := { s with ctxs := s.ctxs.map fun e => if hit e.1 then (e.1, { e.2 with gen := e.2.gen + 1 }) else e }
  if zero.isEmpty then s1
  else { s1 with bays := s1.bays.map fun e => (e.1, { e.2 with tlb := e.2.tlb.filter fun t => !(zero.contains t.cx.toNat) }) }

/-- Nearest common ancestor of two contexts (R415). -/
def State.commonUp (s : State) (a b : Nat) : Nat := ((s.chain a).find? fun x => (s.chain b).contains x).getD 0

/-- Tag the lines that a walk read (R415). -/
def tagLines (s : State) : List (Nat × Nat) → State
  | [] => s
  | (l, cx) :: rest =>
    let t := match lkp s.lineTags l with
      | some o => if o.toNat = cx then cx else s.commonUp o.toNat cx
      | none => cx
    tagLines { s with lineTags := put s.lineTags l (BitVec.ofNat 12 t) } rest

/-- Before a write to a byte is performed: a tagged line bumps its context (R415). -/
def touchLine (s : State) (a : Nat) : State :=
  match lkp s.lineTags (a / 64) with
  | none => s
  | some cx =>
    let s := bumpGen s cx.toNat
    { s with lineTags := del s.lineTags (a / 64) }

/-- The stack's own logic is about to write a range: its tagged lines bump their contexts (R415). -/
def touchRange (s : State) (lo n : Nat) : State :=
  ((s.lineTags.map Prod.fst).filter fun l => decide (lo < 64 * l + 64) && decide (64 * l < lo + n)).foldl (fun s l => touchLine s (64 * l)) s

/-- The valid leaves of a table, each with its virtual address, its entry's address and its size (R410). -/
def tableLeaves (mem : List Host.Cell) (rd : Nat → Except XErr (Nat × List (Nat × Nat))) :
    List (Nat × Nat × Nat) → Nat → Nat → List (Nat × Nat × Nat)
  | [], _, _ => []
  | (pos, bits, lsz) :: rest, tab, va =>
    (List.range (2 ^ bits)).flatMap fun i =>
      match rd (tab + 16 * i) with
      | .error _ => []
      | .ok (ea, _) =>
        let w0 := Memory.get mem ea 8
        if w0 / 2 ^ 63 = 0 then []
        else if w0 / 2 ^ 62 % 2 = 1 then (if lsz = 0 then [] else [(va + i * 2 ^ pos, ea, lsz)])
        else tableLeaves mem rd rest (w0 / 2 ^ 16 % 2 ^ 40 * 2 ^ 16) (va + i * 2 ^ pos)

/-- A table entry of a context at an address of its parent's space, whose chain is `up` (R413). -/
def tableRd (s : State) (up : List Nat) (cx a : Nat) : Except XErr (Nat × List (Nat × Nat)) :=
  match xlate s up a 1 with
  | .error e => .error e
  | .ok o => tableAt s cx o

/-- The leaves of a context's table (R410, R413). -/
def State.leavesOf (s : State) (cx : Nat) : List (Nat × Nat × Nat) :=
  let rd := tableRd s (s.chain (s.ctx cx).parent.toNat) cx
  -- a valid entry has bit 63 set
  if cx = 0 ∨ s.mem.all (fun e => !(e.1 % 8 == 7 && decide (128 ≤ e.2.toNat))) = true then [] else tableLeaves s.mem rd tableLevels (s.ctx cx).troot.toNat 0

/-- The composed pages of `n` bytes from a virtual address on, as `tr` translates it. -/
def pieces (tr : Nat → Except XErr XOk) : Nat → Nat → Nat → List (Nat × XOk)
  | 0, _, _ => []
  | fuel + 1, va, n =>
    if n = 0 then []
    else
      match tr va with
      | .error e => let k := min n (e.span - va % e.span); pieces tr fuel (va + k) (n - k)
      | .ok o => let k := min n (o.size - va % o.size); (va, o) :: pieces tr fuel (va + k) (n - k)

/-- The composed pages of a leaf of a context: its own page, or the smaller ones that its ancestors' leaves make of it (R413). -/
def State.leafPages (s : State) (cx : Nat) (l : Nat × Nat × Nat) : List (Nat × XOk) :=
  pieces (fun va => xlate s (s.chain cx) va 0) (l.2.2 / 2 ^ 16) l.1 l.2.2

/-- Some context maps a page backed by granules [g, g + n) of a bay, where no pool may be declared (R314). -/
def State.mappedOver (s : State) (c b g n : Nat) : Bool :=
  s.ctxs.any fun e => (s.leavesOf e.1).any fun l => (s.leafPages e.1 l).any fun p =>
    let o := { p.2 with base := s.localPA p.2.base, snd := (s.localPA p.2.snd.1, p.2.snd.2) }
    o.cls != 4 && isNearPA o.base
      && o.banks.any fun q => q.1 == c && q.2.1 == b && decide (g < q.2.2 + 0x1000) && decide (q.2.2 < g + n)

/-- A line, of a table or not, holds a shadow-capable leaf's bits. -/
def shadowBits (s : State) (line : Nat) : Bool :=
  (List.range 4).any fun i => let w0 := Memory.get s.mem (64 * line + 16 * i) 8
    w0 / 2 ^ 62 == 3 && w0 / 2 ^ 59 % 8 == 5

/-- The selectors of the shadow-capable pages that the written leaves of a table line map name the first copy, whichever
contexts' tables hold the line (R240); `hit` says which entries are written. -/
def resetShadow (hit : Nat → Bool) (s : State) (line : Nat) : State :=
  if shadowBits s line then
    let keys := s.ctxs.flatMap fun e => ((s.leavesOf e.1).filter fun l => l.2.1 / 64 == line && hit l.2.1).flatMap fun l =>
      ((s.leafPages e.1 l).filter fun p => p.2.cls == 5).map fun p => p.2.sel
    { s with selectors := s.selectors.filter fun x => !(keys.contains x.1) }
  else s

/-- The tagged ones among some lines, each with its context. -/
def taggedLines (s : State) (ls : List Nat) : List (Nat × Nat) :=
  ls.filterMap fun l => (lkp s.lineTags l).map fun cx => (l, cx.toNat)

/-- Some entry of a line is valid, if the line is a table's. -/
def validLine (s : State) (line : Nat) : Bool :=
  (List.range 4).any fun i => decide (128 ≤ (Memory.read s.mem (64 * line + 16 * i + 7)).toNat)

/-- A structure page is one that some context maps (R228, R315). -/
def State.structMapped (s : State) (pa : Nat) : Bool :=
  s.ctxs.any fun e => (s.leavesOf e.1).any fun l => (s.leafPages e.1 l).any fun p => p.2.cls == 3 && s.localPA p.2.base == pa

/-- Structure pages that no context maps any longer have no word tags: a bay holds those of four pages, and a page that is
mapped anew reads as all words empty (R228, R315). -/
def dropStruct (s : State) : State :=
  if s.structPages.isEmpty then s else { s with structPages := s.structPages.filter fun p => s.structMapped p.1 }

/-- A near byte stands in a bank of a lost page that has no backing (R396). -/
def State.noBacking (s : State) (a : Nat) : Bool :=
  s.lostPages.any fun p => isNearPA a && p.gone.contains (a / 2 ^ 28 * 4096 + a / 2 ^ 20 % 256 * 16 + a % 2 ^ 20 / 2 ^ 16)

/-- A write of bytes at physical addresses, in order, as performed by any observer: tagged lines first bump their
contexts (R415), marks that hang on a rewritten table entry go (R228, R397), and the selectors that a written leaf maps are
reset (R240). -/
def writeBytes (s : State) (l : List (Nat × Byte)) : State :=
  let lines := (l.map fun x => x.1 / 64).eraseDups
  let hit := fun (e : Nat) => l.any fun x => decide (e ≤ x.1) && decide (x.1 < e + 16)
  let edits := !s.structPages.isEmpty && lines.any (validLine s)
  let s := (taggedLines s lines).foldl (fun s e => touchLine s (64 * e.1)) (lines.foldl (resetShadow hit) s)
  let s := { s with mem := (l.filter fun x => !(s.noBacking x.1)).foldl (fun m e => Memory.write m e.1 e.2) s.mem
                    lostPages := s.lostPages.filter fun p => !(p.leaves.any hit)
                    structPages := s.structPages.filter fun p => !(hit p.2) }
  let s := lines.foldl (resetShadow hit) s
  if edits then dropStruct s else s

/-- The mirror of a course (R333): the copy it stopped at while off, else the common one. -/
def State.mirrorOf (s : State) (c : Nat) : List Host.Cell := (s.crs c).mirror.getD s.ridge

/-- Where a near byte of bank 15 stands in the mirror of its course (R314, R334): entry s of a row of bays stands in bay
(s mod 16, row), at 0xF_0000 + 128 × (s div 16). -/
def mirrorByte (a : Nat) : Nat := (a % 2 ^ 16 / 128 * 16 + a / 2 ^ 20 % 16) * 128 + a % 128

/-- The byte at a physical address: bank 15 of a bay store is its part of the Ridge mirror (R334). What the host writes there
has no effect: the spec lets the Ridge alone write it (notes/assumptions/116.md, DESIGN CHOICE). -/
def State.byteAt (s : State) (a : Nat) : Byte :=
  if isNearPA a && decide (0xF0000 ≤ a % 2 ^ 20) then Memory.read (s.mirrorOf (a / 2 ^ 28)) (mirrorByte a) else Memory.read s.mem a

/-- Bytes at physical addresses. -/
def readBytes (s : State) (as : List Nat) : List Byte := as.map s.byteAt

/-- The ranges of a page marked DATA_LOST. -/
def LostPage.ranges (p : LostPage) : List (Nat × Nat) :=
  pageRanges true p.pa p.size ++ match p.snd with | some q => pageRanges true q.1 q.2 | none => []

/-- A byte lies in a page marked DATA_LOST (R397). -/
def State.lostByte (s : State) (a : Nat) : Bool :=
  s.lostPages.any fun p => p.ranges.any fun r => decide (r.1 ≤ a) && decide (a < r.1 + r.2)

/-! ### Translation caches -/

/-- The current translation of an address in a bay's cache, if it has one that is not stale (R316). -/
def State.tlbHit (s : State) (c b cx va : Nat) : Option TlbEntry :=
  (s.bay c b).tlb.find? fun t =>
    t.cx.toNat == cx && decide (t.va ≤ va) && decide (va < t.va + t.size) && t.gen == (s.ctx cx).gen

/-- An access of a bay that waits for another page waits on this entry too: it touches both (R316). -/
def State.tlbWaited (s : State) (c b : Nat) (t : TlbEntry) : Bool :=
  (s.crs c).walks.any fun w => w.cx == t.cx && w.needs.any fun q => q.1 == b && decide (t.va ≤ q.2) && decide (q.2 < t.va + t.size)

/-- The last entry of a cache, most recently used first, that no access waits on goes. -/
def tlbDrop (keep : TlbEntry → Bool) : List TlbEntry → List TlbEntry
  | [] => []
  | t :: ts => if !(keep t) && ts.all keep then ts else t :: tlbDrop keep ts

/-- Put an entry in front of a bay's cache: 128 entries, the least recently used one that no access waits on leaving
(R316). -/
def tlbPut (s : State) (c b : Nat) (t : TlbEntry) : State :=
  s.modBay c b fun y =>
    let old := y.tlb.filter fun u => !(u.cx == t.cx && u.va == t.va && u.size == t.size)
    { y with tlb := t :: if old.length < 128 then old else (tlbDrop (s.tlbWaited c b) old).take 127 }

/-- An access has used the entries of its pages (R316): they stand first in the order of use. -/
def tlbUse (s : State) (c b cx va n : Nat) : State :=
  [va + n - 1, va].foldl (fun s a => match s.tlbHit c b cx a with
    | some t => tlbPut s c b t
    | none => s) s

/-- The cache entry of a composed page. -/
def tlbOf (s : State) (cx va : Nat) (o : XOk) : TlbEntry where
  cx := BitVec.ofNat 12 cx
  va := va / o.size * o.size
  size := o.size
  base := o.base
  bsize := o.bsize
  boff := o.boff - va % o.size
  snd := (o.snd.1, o.snd.2.1, o.snd.2.2 - va % o.size)
  cls := o.cls
  w := o.w
  dirty := o.dirty
  gen := (s.ctx cx).gen

/-- A composed page enters a bay's cache: the lines read are tagged, and a structure page that its context maps anew reads
as all words empty (R228, R415). -/
def install (s : State) (c b cx va : Nat) (o : XOk) : State :=
  let s := tagLines s o.tags
  let s :=
    if o.cls = 3 ∧ (s.structPages.any fun p => p.1 == o.base) = false then
      let s := touchRange s o.base (2 ^ 16)
      { s with structPages := s.structPages ++ [(o.base, o.leaves.headD 0)]
               stags := s.stags.filter (fun e => !(decide (o.base ≤ e.1) && decide (e.1 < o.base + 2 ^ 16)))
               mem := Memory.clear s.mem o.base (2 ^ 16) }
    else s
  tlbPut s c b (tlbOf s cx va o)

/-! ### Accesses -/

/-- Kinds of an address operand (R211). -/
inductive AddrKind where
  | virt
  | handle
  | shadowAlias
  | bad
  deriving DecidableEq, Repr

def addrKind (x : Nat) : AddrKind :=
  if x / 2 ^ 56 % 256 = 0 then .virt
  else if isHandle x then .handle
  else if x / 2 ^ 60 % 16 = 0xE ∧ x / 2 ^ 56 % 16 = 0 then .shadowAlias
  else .bad

/-- The address accessed: the operand plus OFF × size, in the OFFSET field for a handle; a carry leaves the field and
fails R55's third check (R211). The sum keeps the operand's kind: that of a virtual address or an alias is formed in its
bits [55:0] (notes/assumptions/102.md, DEDUCED). -/
def addrPlus (x : Nat) (d : Int) : Nat :=
  if isHandle x then
    let o : Int := (x % 2 ^ 20 : Nat) + d
    if o < 0 ∨ (2 ^ 20 : Nat) ≤ o then x / 2 ^ 20 * 2 ^ 20 + (o % ((2 ^ 20 : Nat) : Int)).toNat + 2 ^ 64
    else x / 2 ^ 20 * 2 ^ 20 + o.toNat
  else if addrKind x = .bad then x
  else x / 2 ^ 56 * 2 ^ 56 + natMod ((x % 2 ^ 56 : Nat) + d) 56

/-- What the checks of an access give (R212). -/
inductive Access where
  /-- the byte addresses, whether the data is lost, and the class -/
  | ok (as : List Nat) (lost : Bool) (cls : Nat)
  /-- the page misses the bay's cache; the other end of the access -/
  | miss (va other : Nat)
  /-- the allocation of a handle is moving or spilled (R55), or the home sleeps (R453) -/
  | held
  | bad (kind code owner : Nat)
  deriving DecidableEq, Repr

/-- Class masks of R213. -/
def clsLoad : Nat := 0b110111
def clsStore : Nat := 0b100111
def clsStruct : Nat := 0b001000
def clsShadow : Nat := 0b100000

/-- R55 on a handle for an access of `n` bytes by a context: the pool-map entry, or the PROT code. -/
def State.handleEntry (s : State) (cx x n : Nat) : Except Nat PEntry :=
  let h := handleOf x
  match s.pool? h.course h.bay h.pool with
  | none => .error 1
  | some p =>
    if p.cx.toNat ≠ cx then .error 1
    else
      match lkp p.pmap h.entry with
      | none => .error 2
      | some e =>
        if !e.v || e.gen.toNat != h.gen then .error 2
        else if h.rsvd ≠ 0 ∨ x ≥ 2 ^ 64 ∨ 16 * e.size.toNat < h.off + n then .error 3
        else .ok e

/-! ### Sleeping courses (R345, R453) -/

/-- A course sleeps: its SRAM is out of reach. -/
def State.asleep (s : State) (c : Nat) : Bool := (s.crs c).power != .awake

/-- A near address is homed on a sleeping course. -/
def State.asleepAt (s : State) (a : Nat) : Bool := isNearPA a && s.asleep (a / 2 ^ 28)

/-- The first of some bytes that is homed on a sleeping course. -/
def State.firstAsleep (s : State) (as : List Nat) : Option Nat :=
  if s.courses.all fun e => e.2.power == .awake then none else as.findIdx? s.asleepAt

/-- A course begins to wake: 2 µs from retention; from off 50 µs and a catch-up of at most 512 beats, its SRAM being zeroed
first (R345, R347, R453). -/
def startWake (s : State) (c : Nat) : State :=
  let y := s.crs c
  if y.waking.isSome then s
  else
    match y.power with
    | .awake => s
    | .retention => s.modCrs c fun y => { y with waking := some (s.cycles + 2800, s.cycles + 2800) }
    | .off =>
      let s := touchRange s (nearPA c 0 0) (2 ^ 28)
      ({ s with mem := Memory.clear s.mem (nearPA c 0 0) (2 ^ 28) } : State).modCrs c fun y =>
        { y with waking := some (s.cycles + 70000, s.cycles + 71024) }

/-- The sleeping courses on which some bytes are homed begin to wake (R453). -/
def wakeAt (s : State) (as : List Nat) : State :=
  if (s.firstAsleep as).isNone then s else ((as.filter s.asleepAt).map (· / 2 ^ 28)).eraseDups.foldl startWake s

/-- The courses on which the page or the buffer of an address is homed. -/
def State.homesOf (s : State) (cx x : Nat) : List Nat :=
  if isHandle x then [(handleOf x).course]
  else
    match s.walk cx (x % 2 ^ 56) with
    | .error _ => []
    | .ok o =>
      if o.cls = 4 then []
      else (((o.base :: if o.cls = 5 then [o.snd.1] else []).map s.localPA).filter isNearPA).map (· / 2 ^ 28)

/-- An access of `n` bytes needs the course of its home: it waits for the wake (R453). -/
def callHome (s : State) (cx x n : Nat) : State :=
  ((s.homesOf cx x ++ s.homesOf cx (x + n - 1)).filter s.asleep).foldl startWake s

/-- The bytes of a buffer in its bay store. -/
def bufBytes (x : Nat) (e : PEntry) (n : Nat) : List Nat :=
  let h := handleOf x
  (List.range n).map fun i => nearPA h.course h.bay (16 * e.base.toNat + h.off + i)

/-- Bytes of the room that a handle's entry names, whoever holds the entry now: what a load that passed its checks reads once
its buffer has been freed (R212). -/
def State.roomBytes (s : State) (x n : Nat) : List Nat :=
  let h := handleOf x
  match (s.pool? h.course h.bay h.pool).bind fun p => lkp p.pmap h.entry with
  | some e => bufBytes x e n
  | none => []

/-- Byte addresses of `n` bytes of a page, from its cache entry; `shadow` selects the shadow copy (R240). -/
def pageBytes (s : State) (t : TlbEntry) (va n : Nat) (shadow : Bool) : List Nat :=
  let sel := (lkp s.selectors (s.localPA (pageByte t.base t.bsize t.boff))).getD false
  let q := if t.cls = 5 ∧ (sel != shadow) = true then t.snd else (t.base, t.bsize, t.boff)
  (List.range n).map fun i => s.localPA (pageByte q.1 q.2.1 (q.2.2 + (va + i - t.va)))

/-- The translation checks of a virtual access of `n` bytes (R212 steps 3 to 6), `cls` being the classes allowed. -/
def State.virtAccess (s : State) (c b cx va n cls : Nat) (write shadow : Bool) : Access :=
  let last := va + n - 1
  match s.tlbHit c b cx va with
  | none => .miss va last
  | some t =>
    match s.tlbHit c b cx last with
    | none => .miss last va
    | some u =>
      if cls / 2 ^ t.cls % 2 = 0 ∨ (shadow = true ∧ t.cls ≠ 5) then .bad kPROT 7 cx
      else if cls / 2 ^ u.cls % 2 = 0 ∨ (shadow = true ∧ u.cls ≠ 5) then .bad kPROT 7 cx
      else if write && !(t.w && u.w) then .bad kPROT 6 cx
      else if t.cls ≠ u.cls then .bad kATTR 0 cx
      else
        let k := min n (t.va + t.size - va)
        let as := pageBytes s t va k shadow ++ pageBytes s u (va + k) (n - k) shadow
        if t.cls ≠ 4 ∧ (s.firstAsleep as).isSome = true then .held else .ok as (t.cls != 4 && as.any s.lostByte) t.cls

/-- The checks of an access by a node of a bay (R211, R212): address operand `x` already offset, `n` bytes, aligned to
`al`, classes `cls`. -/
def State.access (s : State) (c b cx x n al cls : Nat) (write : Bool) : Access :=
  match addrKind (x % 2 ^ 64) with
  | .bad => .bad kPROT 0 cx
  | .handle =>
    if x % al ≠ 0 then .bad kALIGN 0 cx
    else
      match s.handleEntry cx x n with
      | .error code => .bad kPROT code cx
      | .ok e =>
        if cls % 2 = 0 then .bad kPROT 7 cx
        else if e.mv || e.sp || s.asleep (handleOf x).course then .held
        else .ok (bufBytes x e n) e.lost 0
  | .virt =>
    if x % al ≠ 0 then .bad kALIGN 0 cx else s.virtAccess c b cx x n cls write false
  | .shadowAlias =>
    if x % al ≠ 0 then .bad kALIGN 0 cx else s.virtAccess c b cx (x % 2 ^ 56) n cls write true

/-- A byte of a course's mirror as a context reads it through a window: 0 in a slot that it does not hold (R335). -/
def State.windowByte (s : State) (c cx a : Nat) : Byte :=
  match lkp s.slots (a / 128) with
  | some x => if x.cx.toNat = cx ∧ x.leaving = false then Memory.read (s.mirrorOf c) a else 0#8
  | none => 0#8

/-- Bytes as an access of a context reads them: the mirror of the issuing course for a ridge window, memory otherwise. -/
def State.readAccess (s : State) (c cx : Nat) (as : List Nat) (cls : Nat) : List Byte :=
  if cls = 4 then as.map (s.windowByte c cx) else readBytes s as

/-- Set the D bits of a page's chain before the first write through it (R416); the walker's own writes bump nothing
(R415). -/
def setDirty (s : State) (c b cx va : Nat) : State :=
  match s.tlbHit c b cx va with
  | none => s
  | some t =>
    if t.dirty then s
    else
      match s.walk cx va with
      | .error _ => s
      | .ok o =>
        let mem := o.leaves.foldl (fun m e => Memory.set m e 8 (Memory.get m e 8 ||| 2 ^ 57)) s.mem
        tlbPut { s with mem := mem } c b { t with dirty := true }

/-! ### Latencies (R319) -/

/-- Cycles from a bay to a bay store: 6 within the bay, 20 and the hops to another, 24 more to another course. -/
def nearDelay (c b hc hb : Nat) : Nat :=
  let d := fun (x y : Nat) => max x y - min x y
  if c = hc ∧ b = hb then 6 else 20 + d (b % 16) (hb % 16) + d (b / 16) (hb / 16) + 2 + (if c = hc then 0 else 24)

/-- Cycles that an access of a bay to an address takes: 380 ns to far memory. The rule bounds those to a pod home from above
alone. A ridge window is read in the bay of its row that holds the entry (R334). -/
def State.accessDelay (s : State) (c b a cls : Nat) : Nat :=
  let a := s.localPA a
  if cls = 4 then nearDelay c b c (a / 128 % 16 + b / 16 * 16)
  else if isNearPA a then nearDelay c b (a / 2 ^ 28 % 16) (a / 2 ^ 20 % 256)
  else if isFarPA a then 532 else 0

/-- The same for ATOM and CAS: 2 cycles more at a near home, 390 ns at a far one. -/
def State.atomDelay (s : State) (c b a : Nat) : Nat :=
  let p := s.localPA a
  if isNearPA p then s.accessDelay c b a 0 + 2 else if isFarPA p then 546 else 0

/-! ### Walks as events (R316 to R318) -/

/-- The table entries that a walk of one level reads, by address. -/
def tableReads (mem : List Host.Cell) (rd : Nat → Except XErr (Nat × List (Nat × Nat))) (va : Nat) : List (Nat × Nat × Nat) → Nat → List Nat
  | [], _ => []
  | (pos, bits, _) :: rest, tab =>
    match rd (tab + 16 * (va / 2 ^ pos % 2 ^ bits)) with
    | .error _ => []
    | .ok (ea, _) =>
      let w0 := Memory.get mem ea 8
      ea :: if w0 / 2 ^ 62 = 2 then tableReads mem rd va rest (w0 / 2 ^ 16 % 2 ^ 40 * 2 ^ 16) else []

/-- The table entries that a walk reads: one a level of each context that it composes (R317). -/
def walkReads (s : State) : List Nat → Nat → List Nat
  | [], _ => []
  | cx :: up, va =>
    let rd := tableRd s up cx
    let bad : XErr := { kind := kPAGE, code := 0, owner := cx }
    tableReads s.mem rd va tableLevels (s.ctx cx).troot.toNat
      ++ match walkTable s.mem rd up.isEmpty cx bad va tableLevels (s.ctx cx).troot.toNat [] with
        | .ok l => if l.cls = 4 then [] else walkReads s up (l.addr + va % l.size)
        | .error _ => []

/-- Cycles of a walk: the latency of each of its reads, from the bay of the access that began it (R317, R319;
notes/assumptions/66.md). -/
def State.walkDelay (s : State) (c b cx va : Nat) : Nat :=
  ((walkReads s (s.chain cx) va).map fun a => s.accessDelay c b a 0).foldl (· + ·) 0

/-- Two addresses of a context lie in one page (R317). -/
def State.samePage (s : State) (cx va vb : Nat) : Bool :=
  va / 2 ^ 16 == vb / 2 ^ 16 || (match s.walk cx va with | .ok o => va / o.size == vb / o.size | .error e => va / e.span == vb / e.span)

/-- A walk for a context's page changes: one that is queued or in progress, else a new one at the end of the queue (R317). -/
def onWalkOf (s : State) (c cx va : Nat) (f : Walk → Walk) : State :=
  let hit := fun (w : Walk) => w.cx.toNat == cx && s.samePage cx va (w.page * 2 ^ 16)
  s.modCrs c fun y =>
    match y.walks.findIdx? hit with
    | some i => { y with walks := y.walks.modify i f }
    | none =>
      { y with walks := y.walks ++ [f { cx := BitVec.ofNat 12 cx, page := va / 2 ^ 16, begun := false, gen := (s.ctx cx).gen, due := 0, users := [], guests := [] }] }

/-- An access waits for a walk: it joins the one for its context and page, or queues one (R317). `other` is its other end. -/
def joinWalk (s : State) (c cx va other : Nat) (p : Pend) : State :=
  onWalkOf s c cx va fun w => { w with users := w.users ++ [p], needs := w.needs ++ [(p.fir.bay, other)] }

/-- A prefetch, a commit or an engine has a page walked, and goes on by itself once the walk has ended. -/
def guestWalk (s : State) (c cx va : Nat) (g : Firing) : State :=
  onWalkOf s c cx va fun w => if w.guests.contains g then w else { w with guests := w.guests ++ [g] }

/-- A page stands in the way of an engine, or of a unit of the Plate: its leaf is marked M, and a walk for it is queued
(R432), or its home sleeps (R453). -/
def needPage (s : State) (c cx va : Nat) (g : Firing) : State :=
  if isHandle va then callHome s cx va 1
  else
    match s.walk cx (va % 2 ^ 56) with
    | .error _ => guestWalk s c cx va g
    | .ok _ => callHome s cx va 1

/-- The first page of a region whose leaf is marked M: a walk for it is queued, which pulls it (R432). -/
def askPull (s : State) (c cx : Nat) (g : Firing) : Nat → Nat → Nat → State
  | 0, _, _ => s
  | fuel + 1, va, n =>
    if n = 0 then s
    else
      match s.walk cx va with
      | .error e => if e.pull.isSome then guestWalk s c cx va g else s
      | .ok o =>
        let k := min n (o.size - va % o.size)
        askPull s c cx g fuel (va + k) (n - k)

/-- The firing waits on a walk: it counts as issuing (R317). -/
def State.onWalk (s : State) (g : Firing) : Bool :=
  (s.crs g.course.toNat).walks.any fun w => w.users.any fun p => p.fir == g

/-- The D bits of the pages of a written region (R416). -/
def dirtyRegion (s : State) (cx : Nat) : Nat → Nat → Nat → State
  | 0, _, _ => s
  | fuel + 1, va, n =>
    if n = 0 then s
    else
      match s.walk cx va with
      | .error _ => s
      | .ok o =>
        let k := min n (o.size - va % o.size)
        let mem := if o.dirty then s.mem else o.leaves.foldl (fun m e => Memory.set m e 8 (Memory.get m e 8 ||| 2 ^ 57)) s.mem
        dirtyRegion { s with mem := mem } cx fuel (va + k) (n - k)

/-! ### Pulls (R432, R433) -/

/-- Byte `off` of a page whose leaf gives `base`, an address of the space of context `up`. -/
def backingByte (s : State) (up base size off : Nat) : Except XErr Nat :=
  if up = 0 then .ok (s.localPA (pageByte base size off)) else s.resolveByte up (base + off)

/-- One line of 64 bytes copied; none when either side does not translate. -/
def pullLine (up from_ to_ size : Nat) (s : State) (i : Nat) : Option State :=
  match backingByte s up from_ size (64 * i), backingByte s up to_ size (64 * i) with
  | .ok a, .ok b => some (writeBytes s ((List.range 64).map fun j => (b + j, Memory.read s.mem (a + j))))
  | _, _ => none

def pullLines (up from_ to_ size : Nat) : Nat → Nat → State → Option State
  | 0, _, s => some s
  | n + 1, i, s => (pullLine up from_ to_ size s i).bind (pullLines up from_ to_ size n (i + 1))

/-- Step 3 of R432: ADDR := ALT, M := 0, ALT := 0, and the leaf's context is bumped. -/
def rewriteLeaf (s : State) (owner entry alt : Nat) : State :=
  let w0 := Memory.get s.mem entry 8
  let new := w0 - w0 / 2 ^ 16 % 2 ^ 40 * 2 ^ 16 - w0 / 2 ^ 15 % 2 * 2 ^ 15 + alt / 2 ^ 16 % 2 ^ 40 * 2 ^ 16
  bumpGen (writeBytes s ((List.range 16).map (entry + ·) |>.zip (leBytes 8 new ++ leBytes 8 0))) owner

/-- The first byte of the old backing, as it stands on its stack. -/
def sourceByte (s : State) (up from_ size : Nat) : Nat := match backingByte s up from_ size 0 with | .ok a => a | .error _ => 0

/-- The code of a pull that cannot complete (R433): 0, the source is unreachable; 2, it reports DATA_LOST; 1, the link
failed during the copy, which is an input. -/
def pullCode (s : State) (src aux : Nat) : Option Nat :=
  if s.unreachable src then some 0 else if s.lostByte src then some 2 else if aux = 1 then some 1 else none

/-- The first byte of the source of a pull, by the context whose leaf is marked and the pull. -/
def pullSource (s : State) (owner : Nat) (q : Nat × Nat × Nat × Nat) : Nat := sourceByte s (s.ctx owner).parent.toNat q.2.1 q.2.2.2

/-- A page is pulled: copied, and its leaf rewritten; none when its source is out of reach or lost, or does not translate. -/
def pullNow (s : State) (owner : Nat) (q : Nat × Nat × Nat × Nat) : Option State :=
  let (entry, from_, to_, size) := q
  if (pullCode s (pullSource s owner q) 0).isSome then none
  else (pullLines (s.ctx owner).parent.toNat from_ to_ size (size / 64) 0 s).map fun s => rewriteLeaf s owner entry to_

/-- The marked leaves of an address's chain are pulled, one after another. -/
def pullPage (s : State) (cx va : Nat) : Nat → State
  | 0 => s
  | fuel + 1 =>
    match s.walk cx va with
    | .ok _ => s
    | .error e =>
      match e.pull.bind (pullNow s e.owner) with
      | some s => pullPage s cx va fuel
      | none => s

/-- The pages of `n` bytes of a context's space that a unit of the stack needs at once are pulled (R432; notes/assumptions/42.md). -/
def pullRange (s : State) (cx : Nat) : Nat → Nat → Nat → State
  | 0, _, _ => s
  | fuel + 1, va, n =>
    if n = 0 then s
    else
      let s := pullPage s cx va 8
      let k := min n (2 ^ 16 - va % 2 ^ 16)
      pullRange s cx fuel (va + k) (n - k)

/-- The fault of an access whose page could not be pulled is PULL_LOST (R433). -/
def pullFault (s : State) (e : XErr) : XErr :=
  match e.pull.bind fun q => pullCode s (pullSource s e.owner q) 0 with
  | some code => { e with kind := kPULLLOST, code := code, pull := none }
  | none => e

/-- A unit of the stack reaches `n` bytes of a context's space: its marked pages are pulled first. -/
def reachBytes (s : State) (cx va n : Nat) : State × Except XErr (List Nat) :=
  match s.resolve cx va n with
  | .ok as => (s, .ok as)
  | .error e =>
    if e.pull.isNone then (s, .error e)
    else
      let s := pullRange s cx (n / 2 ^ 16 + 2) va n
      (s, match s.resolve cx va n with | .ok as => .ok as | .error e => .error (pullFault s e))

end Sys2Proof.Machine
end

