-- ==== Sys2Proof/Machine/Room.lean ====
section
/-! DEFINITION. Sys2Proof/Machine/Room.lean: the bay allocator (R50 to R83): holes, grants, the waiting list, overtaking,
compaction, spilling to the overflow ring and restoring, and releases. -/

namespace Sys2Proof.Machine

/-! ### Frame layout (R17) -/

/-- Size of slot i: a data slot is 64 bytes, a control slot 8. -/
def slotSize (dmask : Word) (i : Nat) : Nat := if bitAt dmask i then 64 else 8

def roundUp (x a : Nat) : Nat := (x + a - 1) / a * a

/-- Byte offset at which slot i begins, after slots 0 to i − 1, each aligned to its own size. -/
def slotEnd (dmask : Word) : Nat → Nat
  | 0 => 0
  | i + 1 => roundUp (slotEnd dmask i) (slotSize dmask i) + slotSize dmask i

def slotOff (dmask : Word) (i : Nat) : Nat := roundUp (slotEnd dmask i) (slotSize dmask i)

/-- Granules of a frame of n slots. -/
def frameGranules (dmask : Word) (n : Nat) : Nat := roundUp (slotEnd dmask n) 16 / 16

/-- Alignment in granules: 64 bytes for a frame with a data slot (R17, R60). -/
def alignOf (dmask : Word) : Nat := if dmask = 0 then 1 else 4

/-- The linkage as slot 0 holds it (R19). -/
def linkWord (l : Link) : Nat :=
  l.cft.toNat * 2 ^ 52 + l.cit.toNat * 2 ^ 36 + l.rdest.toNat * 2 ^ 15 + l.str.toNat * 2 ^ 4 + l.e.toNat * 8 + l.lc.toNat * 4

def linkOfWord (x : Nat) : Link where
  cft := BitVec.ofNat 12 (x / 2 ^ 52)
  cit := BitVec.ofNat 16 (x / 2 ^ 36)
  rdest := BitVec.ofNat 21 (x / 2 ^ 15)
  str := BitVec.ofNat 11 (x / 2 ^ 4)
  e := x / 8 % 2 == 1
  lc := x / 4 % 2 == 1

/-! ### Room of a pool -/

/-- Live allocations of a pool that hold room in the bay store: id, base, size with any guard granule. -/
def poolAllocs (y : Bay) (pid : Nat) : List (AllocId × Nat × Nat) :=
  (y.frames.filter fun e => e.2.pool.toNat == pid && !e.2.sp).map
      (fun e => (.frame (BitVec.ofNat 12 e.1), e.2.base.toNat, e.2.size + e.2.guard.toNat))
    ++ (match lkp y.pools pid with
        | some p => (p.pmap.filter fun e => e.2.v && !e.2.sp).map
            fun e => (.buf e.1, e.2.base.toNat, e.2.size.toNat + e.2.guard.toNat)
        | none => [])

/-- Size with guard and alignment of an allocation. -/
def spillSize (y : Bay) (pid : Nat) (id : AllocId) : Nat × Nat :=
  match id with
  | .frame ft => ((lkp y.frames ft.toNat).map fun f => (f.size + f.guard.toNat, alignOf f.dmask)).getD (0, 1)
  | .buf i => (((lkp y.pools pid).bind fun p => lkp p.pmap i).map fun e => (e.size.toNat + e.guard.toNat, 1)).getD (0, 1)

/-- The range that the copy in progress of a compaction goes to (R63). -/
def moveRange (y : Bay) (pid : Nat) (p : Pool) : List (Nat × Nat) :=
  match p.moving with
  | [] => []
  | id :: _ => [(p.moveBase, (spillSize y pid id).1)]

/-- Ranges of a pool that are not free: allocations, those being copied back, and retired granules (R70, R399). -/
def poolRanges (y : Bay) (pid : Nat) (p : Pool) : List (Nat × Nat) :=
  (poolAllocs y pid).map (fun a => a.2) ++ p.restoring.map (fun r => (r.2, (spillSize y pid r.1).1)) ++ p.retired ++ p.away

/-- The part of [lo, hi) that some ranges leave uncovered. -/
def uncovered : List (Nat × Nat) → Nat → Nat → Nat
  | [], lo, hi => hi - lo
  | r :: rs, lo, hi =>
    if hi ≤ lo then 0
    else if r.1 + r.2 ≤ lo ∨ hi ≤ r.1 then uncovered rs lo hi
    else uncovered rs lo (max lo r.1) + uncovered rs (min hi (r.1 + r.2)) hi

/-- Granules that some ranges cover together, an overlap counted once. -/
def rangesSize (seen : List (Nat × Nat)) : List (Nat × Nat) → Nat
  | [] => 0
  | r :: rs => uncovered seen r.1 (r.1 + r.2) + rangesSize (r :: seen) rs

/-- FREE (R50): an allocation in a retired or revoked range counts once. -/
def poolFree (y : Bay) (pid : Nat) (p : Pool) : Nat := p.size.toNat - rangesSize [] (poolRanges y pid p)

/-- The part of a range of granules that lies in a pool. -/
def Pool.clip (p : Pool) (r : Nat × Nat) : Option (Nat × Nat) :=
  let lo := max r.1 p.base.toNat
  let hi := min (r.1 + r.2) (p.base.toNat + p.size.toNat)
  if lo < hi then some (lo, hi - lo) else none

/-- Ranges of failed memory, counted as allocated for ever in a pool that covers them (R399). -/
def Pool.retire (p : Pool) (rs : List (Nat × Nat)) : Pool :=
  { p with retired := p.retired ++ (rs.filterMap p.clip).filter fun r => !(p.retired.contains r) }

/-- Granules of a bay's retired banks, and of lost buffers that have been freed (R398, R399). -/
def State.deadRanges (s : State) (c b : Nat) : List (Nat × Nat) :=
  ((s.telem.retiredBanks.filter fun k => k / 16 == c * 256 + b).map fun k => (k % 16 * 4096, 4096)) ++ (s.bay c b).retiredRoom

def disjointFrom (pos n : Nat) (rs : List (Nat × Nat)) : Bool :=
  rs.all fun r => decide (pos + n ≤ r.1) || decide (r.1 + r.2 ≤ pos)

/-- The lowest base at an alignment at which `n` granules are free (R60). -/
def lowestHole (y : Bay) (pid : Nat) (p : Pool) (n align : Nat) : Option Nat :=
  let rs := poolRanges y pid p ++ moveRange y pid p
  let cand := (p.base.toNat :: rs.map (fun r => r.1 + r.2)).map (roundUp · align)
  let good := cand.filter fun c => decide (p.base.toNat ≤ c) && decide (c + n ≤ p.base.toNat + p.size.toNat) && disjointFrom c n rs
  good.foldl (fun m c => match m with | none => some c | some x => some (min x c)) none

/-- A free pool-map entry, the lowest (R54). -/
def freeEntry (p : Pool) : Option Nat := (List.range 256).find? fun i => !(((lkp p.pmap i).map PEntry.v).getD false)

/-- The lowest free frame tag of a context's ranges in a bay (R43, R56). The run of R11 records a victim as FT 0x01C where
at most 11 frames of tags from 0x000 are live: R56 is followed (notes/assumptions/97.md, DESIGN CHOICE). -/
def freeTag (y : Bay) (cx : Nat) : Option Nat :=
  let rs := (y.parts.map Prod.snd).filter fun q => q.cx.toNat == cx
  (List.range 4096).find? fun ft =>
    rs.any (fun q => decide (q.ftl.toNat ≤ ft) && decide (ft ≤ q.fth.toNat)) && (lkp y.frames ft).isNone
      && !(y.retiredRows.contains ft)

/-- A request's granules, its guard granule included (R392). -/
def Waiter.need (w : Waiter) : Nat := w.size + w.guard.toNat

/-- A request fits (R56, R60): room, and a free tag or pool-map entry. -/
def fitsAt (y : Bay) (pid : Nat) (p : Pool) (cx : Nat) (w : Waiter) : Option Nat :=
  if poolFree y pid p < w.need + p.rsv.toNat then none
  else
    let id? := if p.kind = 0#2 then freeTag y cx else freeEntry p
    if id?.isNone then none else lowestHole y pid p w.need (alignOf w.dmask)

/-! ### What holds a cast (R26, R29, R65, R171) -/

/-- The elements of a bay, by position. -/
def bayElems (b : Nat) : List Nat := (List.range 16).map (elAt b)

/-- Ready and pending nodes of a frame, as (element, entry). -/
def readyOf (s : State) (c b ft : Nat) : List (Nat × Ready) :=
  (bayElems b).flatMap fun el =>
    let x := s.elem c el
    let kept := (s.saved.filter fun v => v.course.toNat == c && v.el == el).flatMap fun v => v.ready ++ v.pending
    (x.ready ++ x.pending ++ x.late ++ kept).filterMap fun r => if r.ft.toNat = ft then some (el, r) else none

/-- A ready node with TG = NEXT whose frame has no link: R171 holds it back. -/
def heldNext (s : State) (c el : Nat) (f : Frame) (n : Nat) : Bool :=
  bitsAt (s.record f.cx.toNat c el n) 75 2 == 1 && !f.nv

/-- The frame of a firing is this one. -/
def Firing.inFrame (g : Firing) (c b ft : Nat) : Bool :=
  g.course.toNat == c && !g.isCru && g.bay == b && g.ft.toNat == ft

/-- Requests of a frame's nodes parked in any allocator's list (R57, R82, R302). -/
def parkedOf (s : State) (c b ft : Nat) : List Pend :=
  ((s.bay c b).pools.flatMap fun e => (e.2.waiters.filter fun w => w.party == .node).map Waiter.pend).filter (fun p => p.fir.inFrame c b ft)
    ++ (s.rdgWaits.map Prod.snd).filter (fun p => p.fir.inFrame c b ft)
    ++ (s.crucibles.filter (fun e => e.1 / 32 == c)).flatMap (fun e => (e.2.waiters.map Prod.snd).filter fun p => p.fir.inFrame c b ft)
    ++ (((s.crs c).heap.waits.filter fun h => !h.change).map HeapWait.pend).filter (fun p => p.fir.inFrame c b ft)

/-- Accesses of a frame's nodes that wait for a walk; they count as issuing (R317). -/
def walkingOf (s : State) (c b ft : Nat) : List Pend :=
  ((s.crs c).walks.flatMap Walk.users ++ s.agenda.filterMap fun p => match p with | .fire q => some q | _ => none).filter
    fun p => p.fir.inFrame c b ft

/-- OP of a held record. -/
def Pend.op (p : Pend) : Nat := recOp p.word

/-- The frame of a row as a context finds it: a row of another context's is none that it may read or write (R43;
notes/assumptions/119.md, DESIGN CHOICE). -/
def State.ownFrame? (s : State) (cx : BitVec 12) (c b ft : Nat) : Option Frame := (s.frame? c b ft).filter fun f => f.cx == cx
def Pend.r (p : Pend) : NodeRec := recFields p.word

/-- Listed ILDs among a cast's responses: they wait on a structure word (R29, R229). -/
def listedIlds (k : Cast) : List Pend := k.waits.filter fun p => p.op == 0xA2 && k.wave.any fun w => w.pend == p

/-- Outstanding responses of a cast, loads still to be performed included. -/
def outstanding (k : Cast) : Bool :=
  (k.waits.any fun p => p.op != 0xA2) || (k.wave.any fun w => w.load && !w.performed)

/-- A token that a take latch sent. The two tokens of one pop enter one cast, which no choice may part (R304, R329). -/
def ofPop (s : State) (t : Transit) : Bool :=
  match unitKind t.sUnit.toNat with
  | .elem el => recOp (s.record t.tok.cx.toNat t.sCourse.toNat el t.sNode.toNat) == 0xD2
  | _ => false

/-- Tokens in flight for a frame that hold its cast: its internal ones and those of a pop, the ones that wait at an input or
at the bay included. -/
def tokensOf (s : State) (c b ft : Nat) : Bool :=
  s.transit.any (fun t => (t.internal || ofPop s t) && t.course.toNat == c && t.tok.ft.toNat == ft
      && (match unitKind (destUnit t.tok.dest) with | .elem el => elBay el == b | _ => false))
    || ((s.frame? c b ft).map (fun f => f.atBay.any fun t => t.internal || ofPop s t)).getD false
    || (bayElems b).any fun el => (s.elem c el).input.any fun t => (t.internal || ofPop s t) && t.tok.ft.toNat == ft

/-- A memory response of a frame's cast is still on its way: an access has been performed and its result token is not yet due
(R65, R319). -/
def respAway (s : State) (c b ft : Nat) (k : Cast) : Bool :=
  (k.out.any fun t => decide (s.cycles < t.due))
    || s.transit.any fun t => t.internal && t.course.toNat == c && t.tok.ft.toNat == ft && decide (s.cycles < t.due)
        && (match unitKind (destUnit t.tok.dest) with | .elem el => elBay el == b | _ => false)

/-- A holder is blocked (R65). -/
def blocked (s : State) (c b ft : Nat) : Bool :=
  match s.frame? c b ft with
  | none => false
  | some f =>
    match f.cast with
    | none => false
    | some k =>
      (!(parkedOf s c b ft).isEmpty || !(listedIlds k).isEmpty)
        && (readyOf s c b ft).all (fun (el, r) => heldNext s c el f r.node.toNat)
        && (walkingOf s c b ft).isEmpty && !(outstanding k) && !(respAway s c b ft k)

/-! ### Wait words (R57, R82) -/

/-- A link to the next request: FT and slot index, or the latch it names. R58 names none for a launch frame or a fault frame:
its link is 0 (notes/assumptions/98.md, DESIGN CHOICE). -/
def partyLink (s : State) (c : Nat) (w : Waiter) : Nat × Nat :=
  let g := w.pend.fir
  match w.party with
  | .node => (g.ft.toNat, bitsAt (BitVec.ofNat 8 (s.portByte g.cx.toNat c g.unit.toNat g.node.toNat 0)) 0 6)
  | .stream sc => (sc % 4, 0)
  | .take => (2 ^ 11 + g.node.toNat * 16 + elPos g.unit.toNat, 0)
  | .launch _ _ => (0, 0)
  | .fault _ _ => (0, 0)

/-- The wait word of a request, given the next one. -/
def waitWord (s : State) (c : Nat) (w : Waiter) (anchored : Bool) (next : Option Waiter) : Nat :=
  let (nft, nsl, nv) := match next with | some n => let l := partyLink s c n; (l.1, l.2, 1) | none => (0, 0, 0)
  nft % 4096 * 2 ^ 52 + nsl % 64 * 2 ^ 46 + nv * 2 ^ 45 + w.need % 65536 * 2 ^ 29 + w.ovt.toNat * 2 ^ 24
    + anchored.toNat * 2 ^ 23 + elPos w.pend.fir.unit.toNat * 2 ^ 19 + w.pend.fir.node.toNat * 2 ^ 13 + w.uc.toNat * 2 ^ 5

/-- The ring of a context for a course and selector; one that its creator has not set stands at its reset values (R67,
R369). -/
def State.ring (s : State) (cx sel c : Nat) : Ring :=
  (lkp (s.ctx cx).rings (sel * 16 + c)).getD { base := 0, sz := 0, head := 0, tail := 0, written := 0 }
def setRing (s : State) (cx sel c : Nat) (r : Ring) : State :=
  s.modCtx cx fun x => { x with rings := put x.rings (sel * 16 + c) r }

/-- Bytes in the ring of a context, as a write by the stack's own logic, with the D bits of its pages (R416); none when a page is
unmapped. A page marked M is pulled first (R432), and a sleeping course that it needs begins to wake (R453). -/
def ringPut (s : State) (cx sel c off : Nat) (bs : List Byte) : Except XErr State :=
  let va := (s.ring cx sel c).base.toNat + off
  match reachBytes s cx va bs.length with
  | (_, .error e) => .error e
  | (s, .ok as) => .ok (writeBytes (wakeAt (dirtyRegion s cx (bs.length / 2 ^ 16 + 2) va bs.length) as) (as.zip bs))

/-- Bytes of the ring; of a page that is unmapped by then none, which a restore takes for zeros (notes/assumptions/114.md, DESIGN
CHOICE). -/
def ringGet (s : State) (cx sel c off n : Nat) : List Byte :=
  match reachBytes s cx ((s.ring cx sel c).base.toNat + off) n with
  | (_, .error _) => []
  | (s, .ok as) => readBytes s as

/-- A slot's value written where the frame's bytes stand while it is spilled: its image (R59, R68). A page of it that is unmapped
by then takes nothing (notes/assumptions/114.md, DESIGN CHOICE). -/
def imageSlotPut (s : State) (c : Nat) (f : Frame) (i : Nat) (v : Payload) : State :=
  if f.sp then
    match ringPut s f.cx.toNat 0 c (f.image.1 + 16 + slotOff f.dmask i) (leBytes (slotSize f.dmask i) v.toNat) with
    | .ok s' => s'
    | .error _ => s
  else s

/-- A slot takes a value. -/
def setSlot (s : State) (c b ft i : Nat) (o : Opnd) : State :=
  match s.frame? c b ft with
  | none => s
  | some f => imageSlotPut (s.setFrame c b ft { f with slots := put f.slots i o }) c f i o.val

/-- The wait words of a list's requests, written into their slots (R57). -/
def syncWaits (s : State) (c b : Nat) (anchored : Bool) : List Waiter → State
  | [] => s
  | w :: rest =>
    let s := match w.party with
      | .node =>
        let (ft, sl) := partyLink s c w
        match s.frame? c b ft with
        | some f =>
          match lkp f.slots sl with
          | some o => setSlot s c b ft sl { o with val := BitVec.ofNat 512 (waitWord s c w anchored rest.head?) }
          | none => s
        | none => s
      | _ => s
    syncWaits s c b false rest

/-- Renew the wait words of a pool. -/
def syncPool (s : State) (c b pid : Nat) : State :=
  match s.pool? c b pid with
  | some p => syncWaits s c b p.anchored p.waiters
  | none => s

/-! ### Tickets (R82) -/

/-- The slot of a parked node: the frame tag and slot index of its port A. -/
def parkSlot (s : State) (p : Pend) : Nat × Nat :=
  let g := p.fir
  (g.ft.toNat, s.portByte g.cx.toNat g.course.toNat g.unit.toNat g.node.toNat 0 % 64)

/-- Two requests stand in one bay. -/
def sameBay (p q : Pend) : Bool := p.fir.course == q.fir.course && p.fir.bay == q.fir.bay

/-- A bay's head in an allocator's list: the slot of its first parked request, and that request's ticket. -/
def bayHead (s : State) (ws : List (BitVec 21 × Pend)) (c b : Nat) : Option (Nat × Nat × BitVec 21) :=
  (ws.find? fun w => w.2.fir.course.toNat == c && w.2.fir.bay == b).map fun w => ((parkSlot s w.2).1, (parkSlot s w.2).2, w.1)

/-- An allocator's registers: the bays with a request parked with it, by course × 256 + bay, each with its head ticket. -/
def headTickets (ws : List (BitVec 21 × Pend)) : List (Nat × BitVec 21) :=
  ws.foldl (fun l w => let key := w.2.fir.course.toNat * 256 + w.2.fir.bay
    if l.any (fun e => e.1 == key) then l else l ++ [(key, w.1)]) []

/-- The wait word of a request that holds a ticket, linked to the next of its bay. -/
def ticketWord (s : State) (t : BitVec 21) (p : Pend) (next : Option Pend) : Nat :=
  let (nft, nsl, nv) := match next with | some q => let l := parkSlot s q; (l.1, l.2, 1) | none => (0, 0, 0)
  nft % 4096 * 2 ^ 52 + nsl * 2 ^ 46 + nv * 2 ^ 45 + t.toNat * 2 ^ 24 + elPos p.fir.unit.toNat * 2 ^ 19 + p.fir.node.toNat * 2 ^ 13

/-- The wait words of an allocator's list, written into the requests' port-A slots. -/
def syncTickets : List (BitVec 21 × Pend) → State → State
  | [], s => s
  | (t, p) :: rest, s =>
    let c := p.fir.course.toNat
    let b := p.fir.bay
    let (ft, sl) := parkSlot s p
    let s := match (s.frame? c b ft).bind fun f => lkp f.slots sl with
      | some o => setSlot s c b ft sl { o with val := BitVec.ofNat 512 (ticketWord s t p ((rest.find? fun w => sameBay p w.2).map Prod.snd)) }
      | none => s
    syncTickets rest s

/-! ### Grants -/

/-- Guard granule bytes (R392). -/
def guardPut (s : State) (c b g : Nat) (on : Bool) : State :=
  if on then { s with mem := Memory.putBytes s.mem (nearPA c b (16 * g)) (List.replicate 16 0xA5#8) } else s

/-- A GUARD record when a guard granule no longer holds its bytes (R393, R394): it waits for the holder's strand. -/
def guardCheck (s : State) (c b g cx : Nat) (on : Bool) (ft : BitVec 12) (it : BitVec 16) (str : BitVec 11) : State :=
  if on then
    let bs := Memory.bytes s.mem (nearPA c b (16 * g)) 16
    -- a guard that stays changed is noted once for its allocation
    let noted := s.guardNotes.any fun n => n.cx.toNat == cx && n.info.course.toNat == c && n.info.bay.toNat == b
      && n.info.data0.toNat == g && n.info.ft == ft
    if bs.all (· == 0xA5#8) || noted then s
    else
      { s with guardNotes := s.guardNotes ++
          [{ cx := BitVec.ofNat 12 cx
             info := { FaultRec.zero with
               kind := BitVec.ofNat 5 kGUARD, site := BitVec.ofNat 3 sRECORD, soft := true, ocx := BitVec.ofNat 12 cx,
               course := BitVec.ofNat 4 c, bay := BitVec.ofNat 8 b, stack := s.sideband.stackNo, ft := ft, it := it,
               str := str, strv := true, data0 := BitVec.ofNat 64 g,
               data1 := BitVec.ofNat 64 (Memory.get s.mem (nearPA c b (16 * g)) 8) } }] }
  else s

/-- The row and linkage of a new frame (R19, R20, R175). -/
def newFrame (cx : BitVec 12) (w : Waiter) (pid base age : Nat) (it : BitVec 16) (link : Link)
    (fseq : Option (BitVec 32)) : Frame where
  cx := cx
  sp := false
  cs := w.cs
  mv := false
  pool := BitVec.ofNat 3 pid
  base := BitVec.ofNat 16 base
  map := w.map
  arr := 0
  nv := false
  nft := 0
  it := it
  pres := 0
  inp := 0
  link := { link with e := false, lc := false }
  slots := []
  arrivals := []
  size := w.size
  guard := w.guard
  nslots := w.nslots
  dmask := w.dmask
  cast := none
  waiting := []
  age := age
  image := (0, 0)
  freeing := false
  killing := false
  endFree := false
  faultSeq := fseq
  atBay := []
  after := []

/-- Count a grant of a pool (R83). -/
def countGrant (s : State) (c b pid : Nat) : State :=
  (s.modBay c b fun y => { y with grantAge := y.grantAge + 1 }).modPool c b pid fun p => { p with grants := p.grants + 1 }

/-- The fault token of an entry of a handler's table, into its fault frame (R382, R385). -/
def faultToken (s : State) (f : FaultEntry) (c ft : Nat) (d : BitVec 21) : Transit where
  tok := { pl := false, p := false, e := false, cx := f.holder, ft := BitVec.ofNat 12 ft, it := 0, dest := d,
           val := BitVec.ofNat 512 (f.info.kind.toNat * 2 ^ 59 + f.info.site.toNat * 2 ^ 56 + f.info.soft.toNat * 2 ^ 55
             + f.info.ocx.toNat * 2 ^ 43 + f.info.seq.toNat) }
  course := BitVec.ofNat 4 c
  stack := s.sideband.stackNo
  sStack := s.sideband.stackNo
  sCourse := BitVec.ofNat 4 c
  sUnit := 0x1FFF
  sNode := 0
  internal := false
  born := 0
  due := 0

/-- The base of the DEF pool of a bay that covers a granule, from which the NEXT of a record there counts (R80). -/
def State.defBase (s : State) (c b g : Nat) : Nat :=
  (((s.bay c b).pools.find? fun e => e.2.kind == 2#2 && decide (e.2.base.toNat ≤ g) && decide (g < e.2.base.toNat + e.2.size.toNat)).map
    fun e => e.2.base.toNat).getD 0

/-- Word 1 of the DEF record at granule `g`: the granule of the next reader's record, if one follows (R80). -/
def defNext (s : State) (c b g : Nat) (next : Option Nat) : Nat :=
  match next with
  | some n => 2 ^ 63 + (n + 65536 - s.defBase c b g) % 65536 * 2 ^ 47
  | none => 0

/-- The DEF record of a listed ILD (R80): its bytes at a granule. -/
def defPut (s : State) (c b g ft it : Nat) (dest : BitVec 21) (next : Option Nat) : State :=
  let w0 := ft % 4096 * 2 ^ 52 + it % 65536 * 2 ^ 36 + dest.toNat * 2 ^ 15
  { s with mem := Memory.set (Memory.set s.mem (nearPA c b (16 * g)) 8 w0) (nearPA c b (16 * g) + 8) 8 (defNext s c b g next) }

/-- The structure word that an ILD, IST or ICLR names, by physical address: its checks are made elsewhere, and the word is found
whatever the bay's translation cache holds and whether or not its home sleeps (R229, R230). -/
def ildWord (s : State) (p : Pend) : Option Nat :=
  let g := p.fir
  match s.resolve g.cx.toNat (addrPlus (g.a.getD (plain 0)).word (litOff p.r * 8)) 8 with
  | .ok (a :: _) => some a
  | _ => none

/-- A DEF record that is not needed goes back, which is a release (R80). -/
def giveBackDef (s : State) (c b pid entry : Nat) : State :=
  s.modPool c b pid fun q =>
    { q with pmap := put q.pmap entry { ((lkp q.pmap entry).getD default) with v := false }, timer := 0, releases := q.releases + 1 }

/-- A granted DEF record joins its word's list, whichever pool it came from (notes/assumptions/101.md, DESIGN CHOICE), unless the
word was filled meanwhile: its value then goes out at once (R229). When the page no longer translates, the record goes back and
the ILD is checked again. -/
def listIld (s : State) (c b pid entry base : Nat) (p : Pend) : State :=
  let g := p.fir
  let r := p.r
  match ildWord s p with
  | none =>
    let s := giveBackDef s c b pid entry
    { s with agenda := s.agenda ++ [.fire p] }
  | some a =>
    let t : STag := (lkp s.stags a).getD { full := false, res := false, wait := false, pool := 0, head := none, tail := none }
    if t.full then
      let s := giveBackDef s c b pid entry
      let s := s.modOwn g fun k => { k with wave := k.wave.map fun w => if w.pend == p then { w with performed := true } else w }
      emitWord s r g (Memory.get s.mem a 8) false
    else
      let s := defPut s c b base g.ft.toNat g.it.toNat r.d0 none
      let s := match t.tail with
        | some tl =>
          let w1 := nearPA c b (16 * tl.toNat) + 8
          { s with mem := Memory.set s.mem w1 8 (defNext s c b tl.toNat (some base)) }
        | none => s
      let bt := BitVec.ofNat 16 base
      let t' : STag := { t with wait := true, pool := if t.wait then t.pool else BitVec.ofNat 3 pid,
                                head := some (t.head.getD bt), tail := some bt }
      let s := { s with stags := put s.stags a t' }
      s.modOwn g fun k => { k with waits := k.waits ++ [p] }

/-- A request is granted room at a base (R56, R175, R176, R229, R270, R304, R360, R382). -/
def grantAt (s : State) (c b pid : Nat) (p : Pool) (w : Waiter) (base : Nat) : State :=
  let y := s.bay c b
  let g := w.pend.fir
  let cxN := match w.party with
    | .launch cx _ => cx
    | .fault cx _ => cx
    | _ => g.cx
  let s := guardPut s c b (base + w.size) w.guard
  if p.kind = 0#2 then
    match freeTag y cxN.toNat with
    | none => s
    | some ft =>
      let ftB := BitVec.ofNat 12 ft
      let s := countGrant s c b pid
      let age := y.grantAge
      match w.party with
      | .node =>
        let own := s.frame? c b g.ft.toNat
        let fr := newFrame g.cx w pid base age g.it (s.ownLink g) ((own.bind Frame.faultSeq))
        let s := s.setFrame c b ft fr
        let s := s.modOwn g fun k => { k with gotFrames := k.gotFrames ++ [ftB] }
        emitWord s w.pend.r g (frameWord 0 c b g.it.toNat ft) false
      | .stream sc =>
        let st := (lkp y.streams sc).getD default
        let own := s.frame? c b g.ft.toNat
        let fr := newFrame g.cx w pid base age (BitVec.ofNat 16 (g.it.toNat + st.beat)) st.link (own.bind Frame.faultSeq)
        let s := s.setFrame c b ft fr
        s.modBay c b fun y => { y with streams := put y.streams sc { st with parked := false, state := 2, frame := some ftB } }
      | .take =>
        let s := s.modElem c g.unit.toNat fun x =>
          match lkp x.takes g.takeKey with
          | some t => { x with takes := put x.takes g.takeKey { t with parked := false, frame := some (ftB, (s.crs c).heap.takeOrder) } }
          | none => x
        let l := ((lkp (s.elem c g.unit.toNat).takes g.takeKey).map TakeLatch.link).getD Link.root
        let s := s.setFrame c b ft (newFrame g.cx w pid base age 0 l none)
        s.modCrs c fun z => { z with heap := { z.heap with takeOrder := z.heap.takeOrder + 1 } }
      | .launch cx serial =>
        let s := s.setFrame c b ft (newFrame cx w pid base age 0 Link.root none)
        { s with kernels := s.kernels.map fun k =>
            if k.cx == cx && k.serial == serial then { k with frame := some ftB } else k }
      | .fault cx seq =>
        let s := s.setFrame c b ft { newFrame cx w pid base age 0 Link.root (some seq) with cs := true }
        match s.faults.find? (fun f => f.holder == cx && f.info.seq == seq && f.entered), s.handlerOf cx.toNat with
        | some f, some (_, _, _, d, _) =>
          { (s.modCtx cx.toNat fun x => { x with frec := f.info }) with transit := s.transit ++ [faultToken s f c ft d] }
        | _, _ => s
  else
    match freeEntry p with
    | none => s
    | some i =>
      let old := lkp p.pmap i
      let gen : BitVec 8 := ((old.map PEntry.gen).getD 0) + 1
      let ent : PEntry := { v := true, sp := false, mv := false, ch := false, gen := gen, base := BitVec.ofNat 16 base,
                            size := BitVec.ofNat 16 w.size, uc := w.uc, hft := g.ft, cx := g.cx, age := y.grantAge,
                            guard := w.guard, seq := 0, freeing := false, lost := false, img := 0 }
      let s := (countGrant s c b pid).modPool c b pid fun q => { q with pmap := put q.pmap i ent }
      if p.kind = 1#2 then
        let s := s.modOwn g fun k => { k with gotBufs := k.gotBufs ++ [(pid, i)] }
        emitWord s w.pend.r g (handleWord c b pid i gen.toNat) false
      else listIld s c b pid i base w.pend

/-! ### Moves (R63) -/

/-- Bytes of a bay store moved down by granules. -/
def moveBytes (s : State) (c b from_ to_ n : Nat) : State :=
  let bs := Memory.bytes s.mem (nearPA c b (16 * from_)) (16 * n)
  { s with mem := Memory.putBytes s.mem (nearPA c b (16 * to_)) bs }

/-- MV of an allocation. -/
def setMv (s : State) (c b pid : Nat) (id : AllocId) (v : Bool) : State :=
  match id with
  | .frame ft => s.modFrame c b ft.toNat fun f => { f with mv := v }
  | .buf i => s.modPool c b pid fun p => { p with pmap := p.pmap.map fun e => if e.1 = i then (e.1, { e.2 with mv := v }) else e }

/-- An allocation of a bay: base, size, guard, alignment, and whether it is live and in the bay store. -/
def allocInfo (y : Bay) (pid : Nat) (id : AllocId) : Option (Nat × Nat × Bool × Nat) :=
  match id with
  | .frame ft => (lkp y.frames ft.toNat).bind fun f => if f.sp then none else some (f.base.toNat, f.size, f.guard, alignOf f.dmask)
  | .buf i => ((lkp y.pools pid).bind fun p => lkp p.pmap i).bind fun e =>
      if e.v && !e.sp then some (e.base.toNat, e.size.toNat, e.guard, 1) else none

/-- Cycles of a copy of some granules: 8, and one for each 64 bytes (R63). -/
def copyCycles (n : Nat) : Nat := 8 + (16 * n + 63) / 64

/-- Begin the copy of the first allocation that has to move; those that stand where they would go are passed over. -/
def beginMove (s : State) (c b pid : Nat) : List AllocId → State
  | [] => s.modPool c b pid fun p => { p with moving := [] }
  | id :: rest =>
    let y := s.bay c b
    match allocInfo y pid id, lkp y.pools pid with
    | some (base, size, guard, al), some p =>
      let ends := (poolRanges y pid p).filterMap fun r => if r.1 < base then some (r.1 + r.2) else none
      let tgt := roundUp (ends.foldl max p.base.toNat) al
      if tgt < base then
        setMv (s.modPool c b pid fun q => { q with moving := id :: rest, moveBase := tgt, moveDue := s.cycles + copyCycles (size + guard.toNat) }) c b pid id true
      else beginMove s c b pid rest
    | _, _ => beginMove s c b pid rest

/-- Insert in rising base. -/
def insertBase (x : AllocId × Nat) : List (AllocId × Nat) → List (AllocId × Nat)
  | [] => [x]
  | y :: l => if x.2 ≤ y.2 then x :: y :: l else y :: insertBase x l

/-- Start a compaction: every allocation above the lowest hole, in rising base (R63). One that is being copied back has its
place among them, and moves if its copy has ended by its turn. Where nothing can move yet, no compaction begins. -/
def beginCompact (s : State) (c b pid : Nat) (p : Pool) : State :=
  let y := s.bay c b
  let ids := ((poolAllocs y pid).map (fun a => (a.1, a.2.1)) ++ p.restoring).foldl (fun l a => insertBase a l) []
  let t := beginMove s c b pid (ids.map Prod.fst)
  match t.pool? c b pid with
  | some q => if q.moving.isEmpty then s else t.modPool c b pid fun q => { q with compactions := q.compactions + 1 }
  | none => s

/-! ### Restores (R70) -/

/-- Spilled allocations of a pool with their SEQ. -/
def spilledOf (y : Bay) (pid : Nat) : List (AllocId × Nat) :=
  (y.frames.filter fun e => e.2.sp && e.2.pool.toNat == pid).map (fun e => (.frame (BitVec.ofNat 12 e.1), e.2.image.2))
    ++ (match lkp y.pools pid with
        | some p => (p.pmap.filter fun e => e.2.v && e.2.sp).map fun e => (.buf e.1, e.2.seq)
        | none => [])

/-- The holder of a spilled frame holds its tag; the image of one whose range was revoked stays in the ring until a range that
covers it is granted again (R418). -/
def tagHeld (y : Bay) (id : AllocId) : Bool :=
  match id with
  | .frame ft =>
    match lkp y.frames ft.toNat with
    | some f => y.parts.any fun q => q.2.cx == f.cx && decide (q.2.ftl.toNat ≤ ft.toNat) && decide (ft.toNat ≤ q.2.fth.toNat)
    | none => false
  | .buf _ => true

/-- The oldest spilled allocation that may come back and is not being copied back. -/
def oldestSpill (y : Bay) (pid : Nat) : Option AllocId :=
  let coming := ((lkp y.pools pid).map Pool.restoring).getD []
  (((spilledOf y pid).filter fun e => tagHeld y e.1 && !(coming.any fun r => r.1 == e.1)).foldl (fun m e => match m with
    | none => some e
    | some x => if e.2 < x.2 then some e else some x) none).map Prod.fst

/-- A restore fits: the reserve counts as free room (R70). -/
def restoreFits (y : Bay) (pid : Nat) (p : Pool) (id : AllocId) : Option Nat :=
  let (n, al) := spillSize y pid id
  if poolFree y pid p < n then none else lowestHole y pid p n al

/-- Begin to copy an image back into a base, with MV = 1; SP and the image stand until the copy ends (R70, R21). -/
def beginRestore (s : State) (c b pid : Nat) (id : AllocId) (base : Nat) : State :=
  (setMv s c b pid id true).modPool c b pid fun p =>
    { p with restoring := p.restoring ++ [(id, base)], pseudo := none, timer := if p.pseudo.isSome then 0 else p.timer }

/-- The end of a copy: a frame's slots and linkage, or a buffer's bytes, come from the image; SP, MV and ARR are cleared and
BASE is set (R70). -/
def endRestore (s : State) (c b pid : Nat) (id : AllocId) (base : Nat) : State :=
  match id with
  | .frame ft =>
    match s.frame? c b ft.toNat with
    | none => s
    | some f =>
      let cx := f.cx.toNat
      let img := f.image.1
      let rd := fun i => leNat (ringGet s cx 0 c (img + 16 + slotOff f.dmask i) (slotSize f.dmask i))
      let slots := f.slots.map fun e => (e.1, { e.2 with val := BitVec.ofNat 512 (rd e.1) })
      let s := if f.guard then
          { s with mem := Memory.putBytes s.mem (nearPA c b (16 * (base + f.size))) (ringGet s cx 0 c (img + 16 + 16 * f.size) 16) }
        else s
      s.setFrame c b ft.toNat
        { f with sp := false, mv := false, arr := 0, base := BitVec.ofNat 16 base, slots := slots, link := linkOfWord (rd 0) }
  | .buf i =>
    match (s.pool? c b pid).bind (fun p => lkp p.pmap i) with
    | none => s
    | some e =>
      let bs := ringGet s e.cx.toNat 0 c (e.img + 16) (16 * (e.size.toNat + e.guard.toNat))
      let s := { s with mem := Memory.putBytes s.mem (nearPA c b (16 * base)) bs }
      s.modPool c b pid fun p =>
        { p with pmap := put p.pmap i { e with sp := false, mv := false, base := BitVec.ofNat 16 base } }

/-- The restore that a release allows (R61 step 1, R70); one that does not fit heads the pool as a pseudo-request. -/
def restoreStep (s : State) (c b pid : Nat) : State :=
  match s.pool? c b pid with
  | none => s
  | some p =>
    let y := s.bay c b
    if p.anchored && p.spilledForHead && p.pseudo.isNone then s
    else
      match (match p.pseudo with | some i => some i | none => oldestSpill y pid) with
      | none => s
      | some id =>
        match restoreFits y pid p id with
        | some base => beginRestore s c b pid id base
        | none => s.modPool c b pid fun q => { q with pseudo := some id }

/-! ### The scan (R61, R62) -/

/-- Take a waiter out of a pool's list, the next becoming the head. -/
def unlist (s : State) (c b pid i : Nat) : State :=
  s.modPool c b pid fun p =>
    { p with waiters := p.waiters.eraseIdx i, anchored := if i = 0 then false else p.anchored,
             spilledForHead := if i = 0 then false else p.spilledForHead, timer := if i = 0 then 0 else p.timer }

/-- Context that a waiter's grant belongs to. -/
def Waiter.cx (w : Waiter) : Nat :=
  match w.party with
  | .launch cx _ => cx.toNat
  | .fault cx _ => cx.toNat
  | _ => w.pend.fir.cx.toNat

/-- The first request that fits: position, request, base. -/
def firstFit (y : Bay) (pid : Nat) (p : Pool) : Nat → List Waiter → Option (Nat × Waiter × Nat)
  | _, [] => none
  | i, w :: ws =>
    match fitsAt y pid p w.cx w with
    | some base => some (i, w, base)
    | none => if i = 0 ∧ p.anchored = true then none else firstFit y pid p (i + 1) ws

/-- Grant from the head until no request fits; an anchored head, or a restore pseudo-request, is passed by nothing, and a
head that a compaction serves is granted at its end (R63). -/
def scanGo (c b pid : Nat) : Nat → State → State
  | 0, s => s
  | fuel + 1, s =>
    match s.pool? c b pid with
    | none => s
    | some p =>
      if p.pseudo.isSome || (p.anchored && !p.moving.isEmpty) then s
      else
        match firstFit (s.bay c b) pid p 0 p.waiters with
        | none => s
        | some (i, w, base) =>
          let s := unlist s c b pid i
          -- a grant past the head raises its OVT, and anchors it above A
          let s := if i = 0 then s else s.modPool c b pid fun q =>
            match q.waiters with
            | h :: t =>
              let o := h.ovt + 1
              let an := decide (p.allow.toNat < o.toNat)
              { q with waiters := { h with ovt := o } :: t, anchored := q.anchored || an, overtakes := q.overtakes + 1,
                       anchors := if an then q.anchors + 1 else q.anchors }
            | [] => q
          scanGo c b pid fuel (grantAt s c b pid p w base)

/-- An anchored head that fits no hole is served by compaction at once when room covers it; so is a pseudo-request
(R63, R70). -/
def compactIfDue (s : State) (c b pid : Nat) : State :=
  match s.pool? c b pid with
  | none => s
  | some p =>
    let y := s.bay c b
    if !p.moving.isEmpty || p.spilling.isSome then s
    else
      match p.pseudo with
      | some id =>
        let (n, al) := spillSize y pid id
        if decide (n ≤ poolFree y pid p) && (lowestHole y pid p n al).isNone then beginCompact s c b pid p else s
      | none =>
        match p.waiters with
        | h :: _ =>
          if p.anchored && decide (h.need + p.rsv.toNat ≤ poolFree y pid p) && (lowestHole y pid p h.need (alignOf h.dmask)).isNone
          then beginCompact s c b pid p else s
        | [] => s

/-- Steps 2 and 3 of R61, with the compaction that an anchored head then starts. -/
def scanPool (s : State) (c b pid : Nat) : State :=
  match s.pool? c b pid with
  | none => s
  | some p => syncPool (compactIfDue (scanGo c b pid (p.waiters.length + 1) s) c b pid) c b pid

/-- A release resets the spill timer and counts; it is served when the step's releases are (R61, R64, R83). -/
def noteRelease (s : State) (c b pid : Nat) : State :=
  let s := s.modPool c b pid fun p => { p with timer := 0, releases := p.releases + 1 }
  { s with released := s.released ++ [(c, b, pid)] }

/-- What follows the releases of one step, which are applied together before any grant: in each pool the restore, then the
scan (R61). -/
def serveReleases (s : State) : State :=
  s.released.eraseDups.foldl (fun s r => scanPool (restoreStep s r.1 r.2.1 r.2.2) r.1 r.2.1 r.2.2) { s with released := [] }

/-- A request joins (R56): granted at once when it may be, else parked at the tail. -/
def joinPool (s : State) (c b pid : Nat) (w : Waiter) : State :=
  match s.pool? c b pid with
  | none => s
  | some p =>
    let y := s.bay c b
    let open_ := p.waiters.isEmpty || !p.anchored
    match (if open_ && p.pseudo.isNone then fitsAt y pid p w.cx w else none) with
    | some base =>
      let s := if p.waiters.isEmpty then s else s.modPool c b pid fun q =>
        match q.waiters with
        | h :: t =>
          let o := h.ovt + 1
          let an := decide (p.allow.toNat < o.toNat)
          { q with waiters := { h with ovt := o } :: t, anchored := q.anchored || an, overtakes := q.overtakes + 1,
                   anchors := if an then q.anchors + 1 else q.anchors }
        | [] => q
      let s := grantAt s c b pid ((s.pool? c b pid).getD p) w base
      syncPool (compactIfDue s c b pid) c b pid
    | none => syncPool (s.modPool c b pid fun q => { q with waiters := q.waiters ++ [w] }) c b pid

/-! ### Rings and images (R66, R67) -/

/-- Where an image of `len` 16-byte units goes: its offset, the pad's length in units before it, and the new TAIL; none
when the ring is full (R67). -/
def ringRoom (r : Ring) (len : Nat) : Option (Nat × Nat × Nat) :=
  let sz := 2 ^ 16 * 2 ^ r.sz.toNat
  let head := r.head.toNat
  let tail := r.tail.toNat
  let used := (tail + sz - head) % sz
  let pad := if tail + 16 * len > sz then sz - tail else 0
  if sz ≤ used + pad + 16 * len then none
  else
    let off := if pad = 0 then tail else 0
    some (off, pad / 16, (off + 16 * len) % sz)

/-- Header words of an image. -/
def imageHead (done : Bool) (kind bay pool id size seq len : Nat) : List Byte :=
  leBytes 8 (done.toNat * 2 ^ 63 + kind * 2 ^ 60 + bay * 2 ^ 52 + pool * 2 ^ 49 + id * 2 ^ 37 + size * 2 ^ 21)
    ++ leBytes 8 (seq % 2 ^ 32 * 2 ^ 32 + len % 65536 * 2 ^ 16)

/-- HEAD passes done images and pads. -/
def ringAdvance (cx sel c : Nat) : Nat → State → State
  | 0, s => s
  | fuel + 1, s =>
    let r := s.ring cx sel c
    if r.head = r.tail then s
    else
      let h := leNat (ringGet s cx sel c r.head.toNat 8)
      let l := leNat (ringGet s cx sel c (r.head.toNat + 8) 8)
      let len := l / 2 ^ 16 % 65536
      if (h / 2 ^ 63 = 1 ∨ h / 2 ^ 60 % 8 = 7) ∧ len ≠ 0 then
        let sz := 2 ^ 16 * 2 ^ r.sz.toNat
        ringAdvance cx sel c fuel (setRing s cx sel c { r with head := BitVec.ofNat 32 ((r.head.toNat + 16 * len) % sz) })
      else s

/-- Mark an image done and advance HEAD (R66, R67); one on a page that is unmapped by then is not marked
(notes/assumptions/114.md, DESIGN CHOICE). -/
def imageDone (s : State) (cx c off : Nat) : State :=
  let w := leNat (ringGet s cx 0 c off 8)
  let s := match ringPut s cx 0 c off (leBytes 8 (w % 2 ^ 63 + 2 ^ 63)) with
    | .ok s' => s'
    | .error _ => s
  ringAdvance cx 0 c ((s.ring cx 0 c).written + 1) s

/-- Bytes of an allocation in granule order: a frame's linkage and slots, a buffer's bytes, with any guard granule. -/
def allocBytes (s : State) (c b pid : Nat) (id : AllocId) : List Byte :=
  match id with
  | .frame ft =>
    match s.frame? c b ft.toNat with
    | none => []
    | some f =>
      let at_ := nearPA c b (16 * f.base.toNat)
      let raw := Memory.putBytes (keysIn s.mem at_ (16 * (f.size + 1))) at_ (leBytes 8 (linkWord f.link))
      let raw := f.slots.foldl (fun m e => Memory.set m (at_ + slotOff f.dmask e.1) (slotSize f.dmask e.1) e.2.val.toNat) raw
      Memory.bytes raw at_ (16 * (f.size + f.guard.toNat))
  | .buf i =>
    match (s.pool? c b pid).bind (fun p => lkp p.pmap i) with
    | none => []
    | some e => Memory.bytes s.mem (nearPA c b (16 * e.base.toNat)) (16 * (e.size.toNat + e.guard.toNat))

/-- The FT, IT and strand that a guard note of an allocation names: its holder frame's (R394). -/
def holderOf (s : State) (c b pid : Nat) (id : AllocId) : Nat × BitVec 12 × BitVec 16 × BitVec 11 :=
  let ft := match id with
    | .frame ft => ft
    | .buf i => (((s.pool? c b pid).bind fun p => lkp p.pmap i).map PEntry.hft).getD 0
  match s.frame? c b ft.toNat with
  | some f => (f.cx.toNat, ft, f.it, f.link.str)
  | none => ((((s.pool? c b pid).map Pool.cx).getD 0).toNat, ft, 0, 0)

def guardOf (s : State) (c b pid : Nat) (id : AllocId) : State :=
  match allocInfo (s.bay c b) pid id with
  | some (base, size, on, _) =>
    let (cx, ft, it, str) := holderOf s c b pid id
    guardCheck s c b (base + size) cx on ft it str
  | none => s

/-- The record of a held spill (R73, R74, R386, R458). -/
def latchRec (s : State) (c b pid : Nat) (cx kind aux : Nat) (addr : Nat) (d0 d1 : Nat) : FaultRec :=
  let base : FaultRec := { FaultRec.zero with
    kind := BitVec.ofNat 5 kind, site := BitVec.ofNat 3 sLATCH, ocx := BitVec.ofNat 12 cx, aux := BitVec.ofNat 16 aux,
    course := BitVec.ofNat 4 c, bay := BitVec.ofNat 8 b, stack := s.sideband.stackNo, addr := BitVec.ofNat 64 addr,
    data0 := BitVec.ofNat 64 d0, data1 := BitVec.ofNat 64 d1 }
  match s.pool? c b pid with
  | none => base
  | some p =>
    match p.pseudo with
    | some id =>
      let (_, ft, it, str) := holderOf s c b pid id
      { base with ft := ft, it := it, str := str, strv := (s.frame? c b ft.toNat).isSome }
    | none =>
      match p.waiters.head? with
      | some w =>
        let g := w.pend.fir
        match w.party with
        | .node => { base with ft := g.ft, it := g.it, str := (s.linkOf g).str, strv := true }
        | .stream sc => { base with ft := g.ft, it := g.it, str := (((lkp (s.bay c b).streams sc).map Stream.link).getD Link.root).str, strv := true }
        | .take => { base with str := (((lkp (s.elem c g.unit.toNat).takes g.takeKey).map TakeLatch.link).getD Link.root).str, strv := true }
        | _ => base
      | none => base

/-- The first page of a range in a context's space whose byte does not resolve, from page to page, with the fault of its
translation, which an ancestor's table may have made (R381, R413). -/
def firstUnmapped (s : State) (cx va last : Nat) : Nat → Option (Nat × XErr)
  | 0 => none
  | fuel + 1 =>
    if last < va then none
    else
      match s.resolve cx va 1 with
      | .error e => some (va, pullFault s e)
      | .ok _ => firstUnmapped s cx ((va / 2 ^ 16 + 1) * 2 ^ 16) last fuel

/-- A spill held by ROOM or PAGE in the bay's latch (R73, R74); `at_` is its place in the ring, once it is taken. The fault of a
ring page is the one that its translation makes, filed for the context that owns it (R381). -/
def holdSpill (s : State) (c b pid : Nat) (id : AllocId) (at_ : Option (Nat × BitVec 32)) (e : XErr) (addr d0 d1 : Nat) : State :=
  let cx := ((s.pool? c b pid).map fun p => p.cx.toNat).getD 0
  let place := at_.getD (0, 0)
  let s := s.modPool c b pid fun p =>
    { p with spilling := some (id, place.1, place.2), spillHeld := true, spillPlaced := at_.isSome }
  fileFault s e.owner false (latchRec s c b pid cx e.kind e.code addr d0 d1) (.spillLatch (BitVec.ofNat 4 c) (BitVec.ofNat 8 b) (BitVec.ofNat 3 pid))

/-- First bytes of the pages of `n` bytes of a context's space, where they translate. -/
def pageHeads (s : State) (cx va n : Nat) : List Nat :=
  (va :: ((List.range (n / 2 ^ 16 + 1)).map fun i => (va / 2 ^ 16 + 1 + i) * 2 ^ 16).filter fun x => decide (x < va + n)).filterMap fun x =>
    match s.resolveByte cx x with
    | .ok a => some a
    | .error _ => none

/-- Begin or resume the spill of a victim: take its place in the ring, with the image's header not done, or hold it by ROOM
or PAGE (R66, R73, R74). Pages of the place that are marked M are pulled first (R432), and while their course sleeps the spill has no
place yet (R453). -/
def beginSpill (s : State) (c b pid : Nat) (id : AllocId) : State :=
  let y := s.bay c b
  match allocInfo y pid id with
  | none => s.modPool c b pid fun p => { p with spilling := none, spillHeld := false, spillPlaced := false }
  | some (_, size, guard, _) =>
    let cx := ((s.pool? c b pid).map fun p => p.cx.toNat).getD 0
    let len := size + guard.toNat + 1
    let s := setMv s c b pid id true
    let r := s.ring cx 0 c
    match ringRoom r len with
    | none => holdSpill s c b pid id none { kind := kROOM, code := 0, owner := cx } 0 len pid
    | some (off, pad, tail) =>
      let at_ := r.base.toNat + off
      let s := (reachBytes (if pad = 0 then s else (reachBytes s cx (r.base.toNat + r.tail.toNat) 16).1) cx at_ (16 * len)).1
      let heads := pageHeads s cx at_ (16 * len)
      let bad := (if pad = 0 then none else firstUnmapped s cx (r.base.toNat + r.tail.toNat) (r.base.toNat + r.tail.toNat) 1).or
        (firstUnmapped s cx at_ (at_ + 16 * len - 1) (len / 4096 + 2))
      match bad with
      | some (x, e) => holdSpill s c b pid id none e x 0 0
      | none =>
        if (s.firstAsleep heads).isSome then
          (wakeAt s heads).modPool c b pid fun p => { p with spilling := some (id, 0, 0), spillHeld := false, spillPlaced := false }
        else
        let put := fun (s : State) (x : Nat) (bs : List Byte) => match ringPut s cx 0 c x bs with | .ok s => s | .error _ => s
        let (kind, n) := match id with | .frame ft => (0, ft.toNat) | .buf i => (1, i)
        let s := if pad = 0 then s else put s r.tail.toNat (imageHead false 7 0 0 0 0 0 pad)
        let s := put s off (imageHead false kind b pid n size y.spillSeq.toNat len)
        let s := setRing s cx 0 c { r with tail := BitVec.ofNat 32 tail, written := r.written + (if pad = 0 then 1 else 2) }
        let s := s.modBay c b fun z => { z with spillSeq := z.spillSeq + 1 }
        s.modPool c b pid fun p => { p with spilling := some (id, off, y.spillSeq), spillHeld := false, spillPlaced := true }

/-- Victims of a pool for its head (R65): frames and buffers of blocked holders, not of the head's own frame. -/
def victims (s : State) (c b pid : Nat) (p : Pool) : List (AllocId × Nat) :=
  let y := s.bay c b
  let headFt : Option Nat :=
    match p.pseudo, p.waiters.head? with
    | some (.frame ft), _ => some ft.toNat
    | some (.buf i), _ => (lkp p.pmap i).map fun e => e.hft.toNat
    | none, some w => if w.party == .node then some w.pend.fir.ft.toNat else none
    | none, none => none
  let ok := fun ft => some ft != headFt && blocked s c b ft
  if p.kind = 0#2 then
    (y.frames.filter fun e => e.2.pool.toNat == pid && !e.2.sp && !e.2.mv && ok e.1).map fun e => (.frame (BitVec.ofNat 12 e.1), e.2.age)
  else if p.kind = 1#2 then
    (p.pmap.filter fun e => e.2.v && !e.2.sp && !e.2.mv && !e.2.ch && ok e.2.hft.toNat).map fun e => (.buf e.1, e.2.age)
  else []

/-- The youngest victim. -/
def nextVictim (s : State) (c b pid : Nat) (p : Pool) : Option AllocId :=
  ((victims s c b pid p).foldl (fun m e => match m with
    | none => some e
    | some x => if x.2 < e.2 then some e else some x) none).map Prod.fst

/-- The room that the pool's anchored head still lacks (R64): none when it lacks none. -/
def headShort (s : State) (c b pid : Nat) (p : Pool) : Bool :=
  let y := s.bay c b
  match p.pseudo with
  | some id => decide (poolFree y pid p < (spillSize y pid id).1)
  | none =>
    match p.waiters with
    | h :: _ => p.anchored && decide (poolFree y pid p < h.need + p.rsv.toNat)
    | [] => false

/-- Spill the next victim of a short head, or let the timer count from zero (R65, R71). -/
def spillNext (s : State) (c b pid : Nat) : State :=
  match s.pool? c b pid with
  | none => s
  | some p =>
    if p.spilling.isSome || !(headShort s c b pid p) then s
    else
      match nextVictim s c b pid p with
      | some id => beginSpill s c b pid id
      | none => s.modPool c b pid fun q => { q with timer := 0 }

/-- Tokens that waited at a bay for a frame come back in their order (R21, R68). -/
def releaseAtBay (s : State) (c b ft : Nat) : State :=
  match s.frame? c b ft with
  | none => s
  | some f => { (s.setFrame c b ft { f with atBay := [] }) with transit := f.atBay ++ s.transit }

/-! ### Releases (R61, R76, R77) -/

/-- What a frame's room last held, left in the bay store when it goes (R176). -/
def leaveBytes (s : State) (c b pid : Nat) (id : AllocId) : State :=
  match id with
  | .frame ft =>
    match s.frame? c b ft.toNat with
    | some f =>
      if f.sp then s
      else { s with mem := Memory.putBytes s.mem (nearPA c b (16 * f.base.toNat)) (allocBytes s c b pid id) }
    | none => s
  | .buf _ => s

/-- A restore pseudo-request ends when its allocation is freed (R70, R79). -/
def dropPseudo (s : State) (c b pid : Nat) (id : AllocId) : State :=
  s.modPool c b pid fun p => if p.pseudo = some id then { p with pseudo := none, timer := 0 } else p

/-- Free a frame without the release that follows: its row is cleared (R76). A frame being moved goes when the copy
ends (R179). -/
def dropFrame (s : State) (c b ft : Nat) : State :=
  match s.frame? c b ft with
  | none => s
  | some f =>
    if f.mv then s.setFrame c b ft { f with freeing := true }
    else
      let pid := f.pool.toNat
      let id := AllocId.frame (BitVec.ofNat 12 ft)
      let s := dropPseudo s c b pid id
      let s := if f.sp then imageDone s f.cx.toNat c f.image.1 else guardOf s c b pid id
      let s := ((leaveBytes s c b pid id).delFrame c b ft).modBay c b fun y =>
        { y with killed := if f.killing then ft :: y.killed.filter (· != ft) else y.killed.filter (· != ft) }
      let gone := fun (k : Kernel) => k.course.toNat == c && k.bay.toNat == b && k.frame == some (BitVec.ofNat 12 ft)
      { s with transit := f.atBay ++ s.transit
               kernels := s.kernels.map fun k => if gone k then { k with frame := none } else k }

/-- Free a buffer without the release that follows (R77, R180). -/
def dropBuf (s : State) (c b pid i : Nat) : State :=
  match (s.pool? c b pid).bind (fun p => lkp p.pmap i) with
  | none => s
  | some e =>
    if !e.v then s
    else if e.mv then s.modPool c b pid fun p => { p with pmap := put p.pmap i { e with freeing := true } }
    else
      let s := dropPseudo s c b pid (.buf i)
      let s := if e.sp then imageDone s e.cx.toNat c e.img else guardOf s c b pid (.buf i)
      let gone := if e.lost && !e.sp then [(e.base.toNat, e.size.toNat + e.guard.toNat)] else []
      (s.modBay c b fun y => { y with retiredRoom := y.retiredRoom ++ gone }).modPool c b pid fun p =>
        { p with pmap := put p.pmap i { e with v := false, sp := false }, retired := p.retired ++ gone }

/-- A frame goes, or waits for the end of its move; one that goes is a release, served with the others of the step. -/
def yieldFrame (s : State) (c b ft : Nat) : State :=
  match s.frame? c b ft with
  | none => s
  | some f => if f.mv then dropFrame s c b ft else noteRelease (dropFrame s c b ft) c b f.pool.toNat

/-- The same for a buffer. -/
def yieldBuf (s : State) (c b pid i : Nat) : State :=
  match (s.pool? c b pid).bind (fun p => lkp p.pmap i) with
  | none => s
  | some e => if !e.v then s else if e.mv then dropBuf s c b pid i else noteRelease (dropBuf s c b pid i) c b pid

def freeFrame (s : State) (c b ft : Nat) : State := serveReleases (yieldFrame s c b ft)

def freeBuf (s : State) (c b pid i : Nat) : State := serveReleases (yieldBuf s c b pid i)

/-- Several frames and buffers of a bay go together before any grant (R61); the buffers first, whose guard notes name the
frame that holds them (R394). -/
def freeAll (s : State) (c b : Nat) (fts : List Nat) (bufs : List (Nat × Nat)) : State :=
  serveReleases (fts.foldl (fun s ft => yieldFrame s c b ft) (bufs.foldl (fun s e => yieldBuf s c b e.1 e.2) s))

/-! ### What was freed during its copy, and spills given up (R63, R179, R388) -/

/-- An allocation that a commit freed while it was being copied. -/
def isFreeing (s : State) (c b pid : Nat) (id : AllocId) : Bool :=
  match id with
  | .frame ft => ((s.frame? c b ft.toNat).map Frame.freeing).getD false
  | .buf i => (((s.pool? c b pid).bind fun p => lkp p.pmap i).map fun e => e.v && e.freeing).getD false

/-- One that was freed meanwhile goes now (R63, R179). -/
def dropFreed (s : State) (c b pid : Nat) (id : AllocId) : State :=
  if isFreeing s c b pid id then
    match id with
    | .frame ft => freeFrame s c b ft.toNat
    | .buf i =>
      freeBuf (s.modPool c b pid fun p => { p with pmap := p.pmap.map fun e =>
        (e.1, if e.1 = i then { e.2 with freeing := false } else e.2) }) c b pid i
  else s

/-- Tokens that waited at the bay for a moved frame come back. -/
def wakeMoved (s : State) (c b : Nat) (id : AllocId) : State :=
  match id with
  | .frame ft => releaseAtBay s c b ft.toNat
  | .buf _ => s

/-- The head, or a restore that heads the pool, is served. -/
def serveHead (s : State) (c b pid : Nat) : State :=
  match s.pool? c b pid with
  | none => s
  | some p => scanPool (if p.pseudo.isSome then restoreStep s c b pid else s) c b pid

/-- A held spill is abandoned: the victim keeps its room with MV cleared, or goes when it was freed meanwhile, and the pool
goes on (R388). -/
def abandonSpill (s : State) (c b pid : Nat) : State :=
  match s.pool? c b pid with
  | none => s
  | some p =>
    match p.spilling with
    | some (id, _, _) =>
      if p.spillHeld then
        let s := if p.spillPlaced then
            match p.spilling with
            | some (_, off, _) => imageDone s p.cx.toNat c off
            | none => s
          else s
        let s := setMv s c b pid id false
        let s := s.modPool c b pid fun q => { q with spilling := none, spillHeld := false, spillPlaced := false }
        scanPool (wakeMoved (dropFreed s c b pid id) c b id) c b pid
      else s
    | none => s

/-- Withdraw every request of a pool's list that a test names, then scan (R61, R72). -/
def withdrawPool (s : State) (c b pid : Nat) (f : Waiter → Bool) : State :=
  match s.pool? c b pid with
  | none => s
  | some p =>
    if p.waiters.any f then
      let headGone := (p.waiters.head?.map f).getD false
      let s := s.modPool c b pid fun q =>
        { q with waiters := q.waiters.filter fun w => !(f w)
                 anchored := if headGone then false else q.anchored
                 spilledForHead := if headGone then false else q.spilledForHead
                 timer := if headGone then 0 else q.timer }
      scanPool s c b pid
    else s

/-- Withdraw from every pool of a bay. -/
def withdrawBay (s : State) (c b : Nat) (f : Waiter → Bool) : State :=
  (List.range 8).foldl (fun s p => withdrawPool s c b p f) s

end Sys2Proof.Machine
end

