-- ==== Sys2Proof/Machine/Ops.lean ====
section
/-! DEFINITION. Sys2Proof/Machine/Ops.lean: taking an exception, which on this machine is a hard fault at a cast (R27,
R379, R391), the return from it, which is the re-firing of the cast (R27, R388), and the shared course of a firing. -/

namespace Sys2Proof.Machine

/-- The context holds a slice on a course: it is over when its sweep begins (R425). -/
def slicedOn (s : State) (cx c : Nat) : Bool := ((s.crs c).holder.map fun h => h.toNat == cx).getD false && (s.crs c).sweeping.isNone

/-! ### The list of ALLOC.RDG (R81, R82) -/

/-- A context holds a Ridge slot by an entry of KIND 4; a revocation takes the entry before the slot itself leaves (R282, R418). -/
def State.ownsSlot (s : State) (cx n : Nat) : Bool :=
  (s.ctx cx).holds.any fun h => h.kind == 4#4 && decide (h.p0.toNat ≤ n) && decide (n < h.p0.toNat + h.p1.toNat)

/-- The slots of a context's run-time holding: held, and not reserved for a kernel (R178, R336). -/
def State.runSlots (s : State) (cx : Nat) : List (Nat × Slot) :=
  s.slots.filter fun e => e.2.cx.toNat == cx && e.2.state != .reserved && !e.2.leaving && s.ownsSlot cx e.1

/-- The lowest idle slot of a context's run-time holding. -/
def State.idleSlot (s : State) (cx : Nat) : Option Nat :=
  ((s.runSlots cx).find? fun e => e.2.state == .idle).map Prod.fst

def setSlotState (s : State) (n : Nat) (st : SlotState) : State :=
  { s with slots := s.slots.map fun e => if e.1 = n then (e.1, { e.2 with state := st }) else e }

/-- A slot is granted to an ALLOC.RDG, whose result is the slot word (R178). -/
def grantSlot (s : State) (p : Pend) (n : Nat) : State :=
  let s := (setSlotState s n .granted).modOwn p.fir fun k => { k with gotRdg := k.gotRdg ++ [n] }
  emitWord s p.r p.fir n false

/-- The parked ALLOC.RDG requests are served strictly in ticket order, each from its own context's holding
(R81, R82; notes/assumptions/11.md). -/
def serveSlots : List (BitVec 21 × Pend) → State → State
  | [], s => s
  | (t, p) :: rest, s =>
    match s.idleSlot p.fir.cx.toNat with
    | none => s
    | some n => serveSlots rest (grantSlot { s with rdgWaits := s.rdgWaits.filter fun w => w.1 != t } p n)

/-- The allocator of Ridge slots serves its list, and what stays parked keeps its wait words. -/
def scanSlots (s : State) : State :=
  let s := serveSlots s.rdgWaits s
  syncTickets s.rdgWaits s

/-! ### Taking an exception -/

/-- The parked requests of a frame's cast are withdrawn from every list (R27, R72, R82). -/
def withdrawCast (s : State) (c b ft : Nat) : State :=
  let mine := fun (p : Pend) => p.fir.inFrame c b ft
  let lists := s.rdgWaits :: (s.crucibles.filter fun e => e.1 / 32 == c).map fun e => e.2.waiters
  let cru := s.crucibles.map fun (e : Nat × Crucible) =>
    if e.1 / 32 = c then (e.1, { e.2 with waiters := e.2.waiters.filter (fun w => !(mine w.2)) }) else e
  let freed := s.rdgWaits.any fun w => mine w.2
  let s := { s with crucibles := cru, rdgWaits := s.rdgWaits.filter (fun w => !(mine w.2)) }
  let s := if freed then scanSlots s else s
  let s := lists.foldl (fun s l => if l.any fun w => mine w.2 then syncTickets (l.filter fun w => !(mine w.2)) s else s) s
  let drop := fun (y : Course) => { y with heap := { y.heap with waits := y.heap.waits.filter fun h => !(mine h.pend) } }
  let s := s.modCrs c fun y =>
    { y with walks := y.walks.map (fun w => { w with users := w.users.filter (fun p => !(mine p)), guests := w.guests.filter (fun g => !(g.inFrame c b ft)) }) }
  let s := { s with courses := s.courses.map fun e => (e.1, drop e.2) }
  withdrawBay s c b (fun w => w.party == .node && mine w.pend)

/-- The first operation in a list that has started and is not done, for a firing, changes. -/
def modFirstOp (g : Firing) (f : CruOp → CruOp) : List CruOp → List CruOp
  | [] => []
  | o :: os => if o.pend.fir == g && o.started && !o.done then f o :: os else o :: modFirstOp g f os

/-- A hard fault raised by a firing (R27): E is set in its frame's linkage, the first fault of the cast is kept with its
owner, and the cast's parked requests are withdrawn. An operation of a crucible is held instead, and its fault routed
(R253). -/
def hardFault (s : State) (g : Firing) (kind code owner : Nat) (upd : FaultRec → FaultRec) : State :=
  let c := g.course.toNat
  if g.isCru then
    let n := g.unit.toNat - 0x1000
    let s := s.modCru c n fun x => { x with ops := modFirstOp g (fun o => { o with held := true }) x.ops }
    fileFault s owner false (upd (recOf s g kind sENGINE code false)) (.crucible g.course (BitVec.ofNat 8 n))
  else
    let rc := upd (recOf s g kind sCAST code false)
    let s := s.modFrame c g.bay g.ft.toNat fun f =>
      match f.cast with
      | some k =>
        { f with link := { f.link with e := true },
                 cast := some { k with fault := match k.fault with | some x => some x | none => some (BitVec.ofNat 12 owner, rc) } }
      | none => f
    withdrawCast s c g.bay g.ft.toNat

/-- A hard fault owned by the firing's own context. -/
def fault (s : State) (g : Firing) (kind code : Nat) : State := hardFault s g kind code g.cx.toNat id

/-- A hard fault of a memory access: its address and wave sequence are named (R247, R384). -/
def memFault (s : State) (r : NodeRec) (g : Firing) (kind code owner addr : Nat) : State :=
  hardFault s g kind code owner fun x =>
    { x with addr := BitVec.ofNat 64 addr, wave := if g.isCru then 0 else BitVec.ofNat 7 (litOwn r) }

/-! ### The course of a firing -/

/-- Sticky flags of a firing, to be ORed into NFLAG at its cast's commit (R145). -/
def addFlags (s : State) (g : Firing) (f : Flags) : State :=
  if f = 0 then s else s.modOwn g fun k => { k with flags := k.flags ||| f }

/-- Sticky flags that take effect at once: those of effects performed at commit or at a home (R145, R225, R233). -/
def setFlags (s : State) (cx : Nat) (f : Flags) : State :=
  if f = 0 then s else s.modCtx cx fun x => { x with nflag := x.nflag ||| f }

/-- What a firing's outgoing values are when it makes no access and no request: zeros, poisoned for a node that a SKIP
verdict names (R388), with E = 1 in an aborting cast (R27). -/
def emitNothing (s : State) (r : NodeRec) (g : Firing) (p e : Bool) : State :=
  emitVals s r g e (some (0#512, p)) (some (0#512, p))

/-- The common course of a node that acts on more than its tokens (R27, R118, R125, R388), where `idle` sends the tokens of a
firing that acts on nothing: one that a SKIP verdict names, before any check, and an excepted one. A bad tag faults, and a
poisoned frame word is a POISON record. R27 says of a node with an E operand that it makes no access and no request; once its
cast's E is set, whose tokens all carry E, a node without one is taken the same way (notes/assumptions/125.md, DESIGN CHOICE). -/
def actWith (s : State) (r : NodeRec) (a : Args) (idle : Bool → Bool → State) (act : State → State) : State :=
  let g := s.firing
  if g.skip then idle true (s.eBit g)
  else
    match tagOf s r g with
    | .bad code => fault s g kTAG code
    | .poisoned => poisonRec s g 4
    | .ok _ _ _ => if a.e || s.eBit g then idle a.p true else act s

/-- The course of a node whose results share the record's plane. -/
def actNode (s : State) (r : NodeRec) (a : Args) (act : State → State) : State :=
  actWith s r a (emitNothing s r s.firing) act

/-- The course of a node that only computes: its two values, the target stack and course, and its flags. A value carries
P = 1 when an operand does, or when the node poisons it (R14). -/
def pureAt (s : State) (r : NodeRec) (a : Args) (stack course : Nat) (pl0 pl1 : Bool) (v0 v1 : Option Val) (fl : Flags) :
    State :=
  let g := s.firing
  match tagTo s r g course with
  | .bad code => if g.skip then s else fault s g kTAG code
  | .poisoned => if g.skip then s else poisonRec s g 4
  | .ok c ft it =>
    let e := a.e || s.eBit g
    let mark := fun (v : Option Val) => v.map fun v => if g.skip then (0#512, true) else (v.1, v.2 || a.p)
    let s := if e || g.skip then s else addFlags s g fl
    emitTagged s r g e stack c ft it pl0 pl1 (mark v0) (mark v1)

/-- The same on the firing's own course. -/
def pureNode (s : State) (r : NodeRec) (a : Args) (pl0 pl1 : Bool) (v0 v1 : Option Val) (fl : Flags) : State :=
  pureAt s r a s.sideband.stackNo.toNat s.firing.course.toNat pl0 pl1 v0 v1 fl

/-- A control value on both destinations. -/
def word64 (x : Nat) : Option Val := some (BitVec.ofNat 512 (x % 2 ^ 64), false)

/-- A node with one control result (emit of R134). -/
def ctlNode (s : State) (r : NodeRec) (f : Args → Nat × Flags) : State :=
  let a := argsCtl s r s.firing
  let x := f a
  pureNode s r a false false (word64 x.1) (word64 x.1) x.2

/-- A node with one data result; the Bool poisons it. -/
def dataNode (s : State) (r : NodeRec) (f : Args → Payload × Flags × Bool) : State :=
  let a := argsData s r s.firing
  let x := f a
  pureNode s r a true true (some (x.1, x.2.2)) (some (x.1, x.2.2)) x.2.1

/-- An effect of step 2 of R26 is held for the commit of the firing's cast. -/
def holdEffect (s : State) (op : Nat) (r : NodeRec) : State :=
  s.modOwn s.firing fun k => { k with effects := k.effects ++ [pendOf op r s.firing] }

/-- An effect is held with the operands as its node resolved them. -/
def holdArgs (s : State) (op : Nat) (r : NodeRec) (a : Args) : State :=
  s.modOwn s.firing fun k => { k with effects := k.effects ++ [pendOf op r { s.firing with a := some a.a, b := some a.b }] }

/-- Rounding of a lane: its mode and, under sr, its draw (R130, R144). -/
def rounderAt (s : State) (g : Firing) (mode : Nat) (sat : Bool) (lane : Nat) : Rounder :=
  let el := g.unit.toNat
  { mode := mode
    draw := if mode = 5 then
        srDraw (s.ctx g.cx.toNat).seed.toNat g.it.toNat g.course.toNat (el / 64) (el % 64) g.node.toNat lane (s.strandOf g).toNat
      else 0
    sat := sat }

/-! ### Quiet casts -/

/-- A cast has no node ready, issuing or parked, no token in flight and nothing outstanding (R26, R27); `next` lets the
NEXT nodes that R171 holds back stand. An injection still owed is to come (R361). The response of an access that its latency still keeps counts as outstanding (R319). -/
def castQuiet (s : State) (c b ft : Nat) (next : Bool) : Bool :=
  match s.frame? c b ft with
  | none => false
  | some f =>
    match f.cast with
    | none => false
    | some k =>
      (readyOf s c b ft).all (fun (el, r) => next && heldNext s c el f r.node.toNat)
        && !k.owed && (parkedOf s c b ft).isEmpty && (walkingOf s c b ft).isEmpty && k.waits.isEmpty
        && !(k.wave.any fun w => w.load && !w.performed) && !(tokensOf s c b ft) && k.out.all fun t => decide (t.due ≤ s.cycles)

/-! ### Beginning and re-firing a cast -/

/-- An empty live cast of a block (R25). -/
def Cast.start (block : Nat) (str : BitVec 11) : Cast where
  block := block
  strand := str
  injected := false
  owed := false
  exited := false
  held := []
  effects := []
  plate := []
  after := []
  out := []
  waits := []
  wave := []
  gotFrames := []
  gotBufs := []
  gotCru := []
  gotRdg := []
  gotHeap := 0
  linked := none
  flags := 0
  fault := none
  aborted := false
  skip := none
  committing := false
  suspended := none
  stall := 0

/-- Ports that an AR code names, as a mask over A, B, C, S (R21). -/
def arPorts (ar : Nat) : List Nat :=
  match ar with
  | 0 | 2 => [0]
  | 1 | 4 => [0, 1]
  | 3 => [0, 1, 2]
  | 6 => [0, 1, 3]
  | _ => []

/-- The slot of a port: its index, when the port has one (R16). -/
def State.portSlot (s : State) (cx c el node port : Nat) : Option Nat :=
  let x := s.portByte cx c el node port
  if x / 128 = 1 then some (x % 64) else none

/-- A slot's PRES bit. -/
def Frame.present (f : Frame) (i : Nat) : Bool := bitAt f.pres i

/-- A node is complete in a frame on its slots alone (R22). -/
def completeOnSlots (s : State) (c el node : Nat) (f : Frame) : Bool :=
  let w := s.record f.cx.toNat c el node
  let ps := arPorts (bitsAt w 77 3)
  !ps.isEmpty && ps.all fun p => match s.portSlot f.cx.toNat c el node p with | some i => f.present i | none => false

/-- The plane of the arrival that completes a node on its slots: of its ports' slots, the one that was filled last (R34). -/
def State.lastPlane (s : State) (c el node : Nat) (f : Frame) : Bool :=
  let slots := (arPorts (bitsAt (s.record f.cx.toNat c el node) 77 3)).filterMap fun p => s.portSlot f.cx.toNat c el node p
  match f.arrivals.find? fun i => slots.contains i with
  | some i => bitAt f.dmask i
  | none => false

/-- A completion takes its place in a ready queue: last, but among the completions of its own cycle a control-plane arrival
before a data-plane one, and then the lower node first (R34). -/
def insertReady (e : Ready) : List Ready → List Ready
  | [] => [e]
  | x :: l =>
    if x.cyc = e.cyc ∧ e.pl.toNat * 64 + e.node.toNat < x.pl.toNat * 64 + x.node.toNat then e :: x :: l
    else x :: insertReady e l

/-- A completion of a node of a frame, now. -/
def State.completion (s : State) (cx ft : BitVec 12) (it : BitVec 16) (node : BitVec 6) (arrived : Option (BitVec 2 × Opnd))
    (pl : Bool) : Ready :=
  { cx := cx, ft := ft, it := it, node := node, arrived := arrived, waited := 0, cyc := s.cycles, pl := pl, born := s.stepCount }

/-- A completion enters the ready queue, the pending store, or neither when both are full (R33): the new element, or
none. -/
def enqueue (x : Element) (e : Ready) (slotted : Bool) : Option Element :=
  if x.ready.length < 64 ∧ x.pending.isEmpty = true then some { x with ready := insertReady e x.ready }
  else if slotted && decide (x.pending.length < 256) then some { x with pending := x.pending ++ [e] }
  else none

/-- A completion of a node of a context: appended to its saved pending entries while it is swept off the element (R427),
else entered by R33; none when it has to wait at the input. -/
def enqueueAt (s : State) (c el : Nat) (e : Ready) (slotted : Bool) : Option State :=
  if (s.savedAt e.cx.toNat c el).isSome then
    some { s with saved := s.saved.map fun x =>
      if x.cx = e.cx ∧ x.course.toNat = c ∧ x.el = el then { x with pending := x.pending ++ [e] } else x }
  else (enqueue (s.elem c el) e slotted).map fun x => s.setElem c el x

/-- A completion that no arriving token carries: an injection, or one on slots already present. It waits until queue or
store has room (R33, R361). -/
def enqueueHeld (s : State) (c el : Nat) (e : Ready) : State :=
  (enqueueAt s c el e true).getD (s.modElem c el fun x => { x with late := x.late ++ [e] })

/-- Completions of a cast that begins on its slots enter their elements (R23). -/
def fireSlots (s : State) (c ft : Nat) (f : Frame) : List (Nat × Nat) → State
  | [] => s
  | (el, n) :: rest =>
    let w := s.record f.cx.toNat c el n
    let mk := fun (arr : Option (BitVec 2 × Opnd)) (pl : Bool) => s.completion f.cx (BitVec.ofNat 12 ft) f.it (BitVec.ofNat 6 n) arr pl
    let s :=
      if recOp w = 0x07 then
        -- MERGE is complete on each arrival (R162)
        (arPorts (bitsAt w 77 3)).foldl (fun s p =>
          match s.portSlot f.cx.toNat c el n p with
          | some i => if f.present i then
              enqueueHeld s c el (mk (some (BitVec.ofNat 2 p, (lkp f.slots i).getD (plain 0))) (bitAt f.dmask i)) else s
          | none => s) s
      else if completeOnSlots s c el n f then enqueueHeld s c el (mk none (s.lastPlane c el n f))
      else s
    fireSlots s c ft f rest

/-- Insert a node in ascending element address and then node. -/
def insertNode (x : Nat × Nat) : List (Nat × Nat) → List (Nat × Nat)
  | [] => [x]
  | y :: l => if x.1 * 64 + x.2 ≤ y.1 * 64 + y.2 then x :: y :: l else y :: insertNode x l

/-- The source nodes among the nodes of a block receive one injection each, in ascending element address and then node
(R360). -/
def injectSources (s : State) (c ft : Nat) (f : Frame) (nodes : List (Nat × Nat)) : State :=
  let src := nodes.filter fun n =>
    let op := recOp (s.record f.cx.toNat c n.1 n.2)
    op == 0x04 || op == 0xD2
  (src.foldl (fun l n => insertNode n l) []).foldl (fun s n =>
    enqueueHeld s c n.1 (s.completion f.cx (BitVec.ofNat 12 ft) f.it (BitVec.ofNat 6 n.2) none false)) s

/-- The injections of a cast: made, or, while its context holds no slice on the course, owed (R361). -/
def injectCast (s : State) (c b ft : Nat) (f : Frame) (nodes : List (Nat × Nat)) : State :=
  if slicedOn s f.cx.toNat c then injectSources s c ft f nodes
  else s.modFrame c b ft fun f => { f with cast := f.cast.map fun k => { k with owed := true } }

/-- The injections that a context's casts on a course are owed (R361). -/
def injectOwed (s : State) (c cx : Nat) : State :=
  (s.bays.filter fun y => y.1 / 256 == c).foldl (fun s y =>
    y.2.frames.foldl (fun s e =>
      match e.2.cast with
      | some k =>
        if e.2.cx.toNat == cx && k.owed then
          let s := s.modFrame c (y.1 % 256) e.1 fun f => { f with cast := f.cast.map fun k => { k with owed := false } }
          injectSources s c e.1 e.2 (s.blockNodes cx c k.block)
        else s
      | none => s) s) s

/-- The block is the entry block of a live kernel of its context, whose sources the launch alone injects (R360). -/
def isEntryBlock (s : State) (cx c block : Nat) : Bool :=
  s.kernels.any fun k => k.cx.toNat == cx && k.course.toNat == c && k.launch.plane.toNat * 2 ^ 17 + k.block == block
    && (k.state == .running || k.state == .starting)

/-- The cast of a block begins in a frame (R23, R25), its source nodes injected when `inject` says so (R360). -/
def startCast (s : State) (c b ft block : Nat) (inject : Bool) : State :=
  match s.frame? c b ft with
  | none => s
  | some f =>
    let f := { f with link := { f.link with lc := true, e := false },
                      cast := some { Cast.start block f.link.str with injected := inject },
                      waiting := f.waiting.filter fun w => w.1 != block }
    let nodes := s.blockNodes f.cx.toNat c block
    let s := s.setFrame c b ft f
    fireSlots (if inject then injectCast s c b ft f nodes else s) c ft f nodes

/-- A cast begins on an arrival: its sources are injected unless the launch injects them. -/
def beginCast (s : State) (c b ft block : Nat) : State :=
  match s.frame? c b ft with
  | none => s
  | some f => startCast s c b ft block (!(isEntryBlock s f.cx.toNat c block))

/-- The block whose cast begins next: the one whose first waiting token came earliest, and of one cycle the first in FRM
(R23). -/
def nextBlock : List (Nat × Nat) → Option Nat
  | [] => none
  | w :: ws => some (((w :: ws).filter fun x => x.2 == w.2).foldl (fun m x => min m x.1) w.1)

/-- When a live cast has ended, the next block with waiting tokens begins (R23). -/
def nextCast (s : State) (c b ft : Nat) : State :=
  match s.frame? c b ft with
  | none => s
  | some f =>
    match nextBlock f.waiting with
    | none => releaseAtBay s c b ft
    | some blk => releaseAtBay (beginCast s c b ft blk) c b ft

/-- The return from an exception: a verdict of RETRY, or SKIP with the node it names, re-fires the aborted cast from its
slotted inputs (R27, R388). -/
def refireCast (s : State) (c b ft : Nat) (skip : Option (BitVec 13 × BitVec 6)) : State :=
  match s.frame? c b ft with
  | none => s
  | some f =>
    match f.cast with
    | none => s
    | some k =>
      let f := { f with pres := f.pres &&& f.inp, arrivals := f.arrivals.filter (fun i => bitAt f.inp i), link := { f.link with e := false, lc := true },
                        cast := some { Cast.start k.block k.strand with skip := skip, injected := k.injected } }
      let nodes := s.blockNodes f.cx.toNat c k.block
      let s := s.setFrame c b ft f
      releaseAtBay (fireSlots (if k.injected then injectCast s c b ft f nodes else s) c ft f nodes) c b ft

end Sys2Proof.Machine
end

