-- ==== Sys2Proof/Machine/TokenInstr.lean ====
section
/-! DEFINITION. Sys2Proof/Machine/TokenInstr.lean: token plumbing, tags and casts (R159 to R173). -/

namespace Sys2Proof.Machine

/-- Operands of a record whose literal stands on the plane of the record's PL (R122). -/
def argsPl (s : State) (r : NodeRec) (g : Firing) : Args := if r.pl then argsData s r g else argsCtl s r g

/-- A node that passes one operand on both destinations, on the record's plane. -/
def passNode (s : State) (r : NodeRec) (a : Args) (v : Payload) : State :=
  pureNode s r a r.pl r.pl (some (v, false)) (some (v, false)) 0

/-- PASS (R161). -/
def execPass (r : NodeRec) (s : State) : Host.Outcome State Fault Refusal :=
  let a := argsPl s r s.firing
  .next (passNode s r a a.a.val)

/-- SINK: nothing (R161). -/
def execSink (_ : NodeRec) (s : State) : Host.Outcome State Fault Refusal := .next s

/-- LIT: the literal value once A has arrived (R161). -/
def execLit (r : NodeRec) (s : State) : Host.Outcome State Fault Refusal :=
  let a := argsCtl s r s.firing
  let x := litCtl s s.firing r
  .next (pureNode s r a false false (word64 x) (word64 x) 0)

/-- SRC: the literal value, once per injection (R161). -/
def execSrc (r : NodeRec) (s : State) : Host.Outcome State Fault Refusal :=
  let x := litCtl s s.firing r
  .next (pureNode s r (argsOf 5 s.firing 0) false false (word64 x) (word64 x) 0)

/-- STEER: A on D0 when B[0] is 1, else on D1 (R161). -/
def execSteer (r : NodeRec) (s : State) : Host.Outcome State Fault Refusal :=
  let a := argsPl s r s.firing
  let v : Option Val := some (a.a.val, false)
  .next (if bitAt a.b.val 0 then pureNode s r a r.pl r.pl v none 0 else pureNode s r a r.pl r.pl none v 0)

/-- SEL: C when A[0] is 1, else B (R161). -/
def execSel (r : NodeRec) (s : State) : Host.Outcome State Fault Refusal :=
  let a := argsPl s r s.firing
  .next (passNode s r a (if bitAt a.a.val 0 then a.c.val else a.b.val))

/-- MERGE: the operand that arrived (R161, R162). -/
def execMerge (r : NodeRec) (s : State) : Host.Outcome State Fault Refusal :=
  let g := s.firing
  let o := match g.a, g.b, g.c with
    | some x, _, _ => x
    | none, some x, _ => x
    | none, none, some x => x
    | none, none, none => plain 0
  let a : Args := { a := o, b := plain 0, c := plain 0, s := plain 0, p := o.p, e := o.e }
  .next (passNode s r a o.val)

/-- JOIN: the operand of the highest port that AR names (R161). -/
def execJoin (r : NodeRec) (s : State) : Host.Outcome State Fault Refusal :=
  let a := argsPl s r s.firing
  .next (passNode s r a (if r.ar = 1#3 ∨ r.ar = 2#3 then a.b.val else a.c.val))

/-- Under FRAME_A the frame word names another course than VERT's or EAVE's target (R163). -/
def offTarget (r : NodeRec) (g : Firing) (dest : Nat) : Bool :=
  let a := g.a.getD (plain 0)
  r.tg == 2#2 && !a.p && (frameRef a.word).course != dest

/-- A token to a course of a stack (R40, R41): the frame word must name that course whatever destinations the record names
(R163). -/
def sendAcross (s : State) (r : NodeRec) (a : Args) (stack course : Nat) (v : Option Val) : State :=
  if offTarget r s.firing course && !s.firing.skip then fault s s.firing kTAG 7 else pureAt s r a stack course r.pl r.pl v v 0

/-- VERT: to the course of LIT[3:0]; A under RETURN, B under FRAME_A (R40, R163). -/
def execVert (r : NodeRec) (s : State) : Host.Outcome State Fault Refusal :=
  let a := argsPl s r s.firing
  let v : Option Val := some (if r.tg = 3#2 then a.a.val else a.b.val, false)
  .next (sendAcross s r a s.sideband.stackNo.toNat (bitsAt r.lit 0 4) v)

/-- A context holds a stack: a KIND 10 holding covers it, or it is the stack on which the context stands
(notes/assumptions/10.md). -/
def State.holdsStack (s : State) (cx n : Nat) : Bool :=
  n == s.sideband.stackNo.toNat || cx == 0 ||
    (s.ctx cx).holds.any fun h =>
      h.kind == 10#4 && decide (bitsAt h.p0 0 10 ≤ n) && decide (n < bitsAt h.p0 0 10 + bitsAt h.p1 0 11)

/-- EAVE: to course LIT[13:10] of stack LIT[9:0] (R41, R163). -/
def execEave (r : NodeRec) (s : State) : Host.Outcome State Fault Refusal :=
  let g := s.firing
  let a := argsPl s r g
  let n := bitsAt r.lit 0 10
  let absent := !(s.reach.contains n) && n != s.sideband.stackNo.toNat
  let v : Option Val := some (if r.tg = 3#2 then a.a.val else a.b.val, false)
  .next (if (absent || !(s.holdsStack g.cx.toNat n)) && !(a.e || s.eBit g) && !g.skip then fault s g kHOLDING 2
    else sendAcross s r a n (bitsAt r.lit 10 4) v)

/-- REPL: the control value in every lane, on the data plane (R164). -/
def execRepl (r : NodeRec) (s : State) : Host.Outcome State Fault Refusal :=
  let a := argsCtl s r s.firing
  let v : Option Val := some (splat (laneBits r.ty.toNat) a.a.val.toNat, false)
  .next (pureNode s r a true true v v 0)

/-- EXTR: one lane, on the control plane; an index at or beyond L poisons a zero (R164). -/
def execExtr (r : NodeRec) (s : State) : Host.Outcome State Fault Refusal :=
  let a := argsCtl s r s.firing
  let w := laneBits r.ty.toNat
  let j := a.b.word
  let v : Option Val :=
    if 512 / w ≤ j then some (0#512, true)
    else word64 (if tySigned r.ty.toNat then natMod (signedVal w (laneAt w a.a.val j)) 64 else laneAt w a.a.val j)
  .next (pureNode s r a false false v v 0)

/-- The frame word of the firing's own frame (R125, R166). -/
def ownFrameWord (s : State) (g : Firing) : Nat :=
  let it := ((s.frame? g.course.toNat g.bay g.ft.toNat).map fun f => f.it.toNat).getD g.it.toNat
  frameWord 0 g.course.toNat g.bay it g.ft.toNat

/-- TAGGET (R166). -/
def execTagget (r : NodeRec) (s : State) : Host.Outcome State Fault Refusal :=
  .next (ctlNode s r fun _ => (ownFrameWord s s.firing, 0))

/-- A frame word names a frame of the firing's bay (R166, R170, R172, R179). -/
def inOwnBay (g : Firing) (w : FrameRef) : Bool := w.kind == 0 && w.course == g.course.toNat && w.unit == g.bay

/-- TAGSET: the row write is held for the commit (R166). -/
def execTagset (r : NodeRec) (s : State) : Host.Outcome State Fault Refusal :=
  let g := s.firing
  let a := argsCtl s r g
  let w := frameRef a.a.word
  let out := a.a.word / 2 ^ 28 * 2 ^ 28 + a.b.word % 65536 * 2 ^ 12 + a.a.word % 4096
  .next (actNode s r a fun s =>
    if a.p then emitWord (holdArgs s 0x11 r a) r g out true
    else if !(inOwnBay g w) then fault s g kTAG 7
    else
      match s.ownFrame? g.cx g.course.toNat g.bay w.ft with
      | none => fault s g kTAG 1
      | some f =>
        if f.link.lc || f.pres != 0 || w.ft == g.ft.toNat then fault s g kTAG 8
        else emitWord (holdArgs s 0x11 r a) r g out false)

/-- CALL: B into the frame that A names; its linkage is written at commit (R167). -/
def execCall (r : NodeRec) (s : State) : Host.Outcome State Fault Refusal :=
  let g := s.firing
  let a := argsCtl s r g
  .next (actNode s r a fun s => emitWord (holdEffect s 0x12 r) r g a.b.word a.p)

/-- RET (R168). -/
def execRet (r : NodeRec) (s : State) : Host.Outcome State Fault Refusal :=
  .next (ctlNode s r fun a => (a.a.word, 0))

/-- EXIT: the live cast's EXIT has fired (R169). -/
def execExit (_ : NodeRec) (s : State) : Host.Outcome State Fault Refusal :=
  .next (s.modOwn s.firing fun k => { k with exited := true })

/-- A record waits and acts again when what it waits for may have come: an outstanding response of its cast. -/
def waitAgain (s : State) (op : Nat) (r : NodeRec) : State :=
  s.modOwn s.firing fun k => { k with waits := k.waits ++ [pendOf op r s.firing] }

/-- ITER: links the next frame of a chain when it issues (R170). -/
def execIter (r : NodeRec) (s : State) : Host.Outcome State Fault Refusal :=
  let g := s.firing
  let a := argsCtl s r g
  let w := frameRef a.a.word
  let c := g.course.toNat
  .next (actNode s r a fun s =>
    if a.a.p then emitWord (poisonRec s g 8) r g a.b.word true
    else if !(inOwnBay g w) then fault s g kTAG 7
    else
      match s.ownFrame? g.cx c g.bay w.ft, s.frame? c g.bay g.ft.toNat with
      | none, _ => fault s g kTAG 1
      | some f, some o =>
        if o.nv || w.ft == g.ft.toNat || f.link.lc || f.pres != 0 then fault s g kTAG 8
        else if f.mv then waitAgain s 0x15 r
        else
          let ftB := BitVec.ofNat 12 w.ft
          let s := s.setFrame c g.bay w.ft { f with it := o.it + 1 }
          let s := s.modFrame c g.bay g.ft.toNat fun x => { x with nft := ftB, nv := true }
          let s := s.modOwn g fun k => { k with linked := some (ftB, f.it) }
          emitWord s r g a.b.word a.p
      | some _, none => s)

/-- STRAND: the linkage write is held for the commit (R172). -/
def execStrand (r : NodeRec) (s : State) : Host.Outcome State Fault Refusal :=
  let g := s.firing
  let a := argsCtl s r g
  let w := frameRef a.a.word
  .next (actNode s r a fun s =>
    if a.p then emitWord (holdArgs s 0x16 r a) r g a.a.word true
    else if !(inOwnBay g w) then fault s g kTAG 7
    else if (s.ownFrame? g.cx g.course.toNat g.bay w.ft).isNone then fault s g kTAG 1
    else emitWord (holdArgs s 0x16 r a) r g a.a.word false)

end Sys2Proof.Machine
end

