-- ==== Sys2Proof/Machine/Memory.lean ====
section
/-! DEFINITION. Sys2Proof/Machine/Memory.lean: loads and stores (R211 to R223), the wave buffer (R215, R216), and the
writes of a commit (R26 step 1, R55, R219). -/

namespace Sys2Proof.Machine

/-! ### The wave buffer -/

/-- Bytes moved by a data-plane record: VAR 0 to 3 (R131, R217). -/
def vecBytes (r : NodeRec) : Nat := 64 / 2 ^ (r.var.toNat % 4)

/-- Size of a control-plane access: the width of TY (R217). -/
def ctlBytes (r : NodeRec) : Nat := tyWidth r.ty.toNat / 8

/-- A record enters the wave buffer when it issues (R215). -/
def waveIn (s : State) (op : Nat) (r : NodeRec) (load performed : Bool) : State :=
  let g := s.firing
  let p := pendOf op r g
  s.modOwn g fun k =>
    if k.wave.any (fun w => w.pend == p) then
      { k with wave := k.wave.map fun w => if w.pend == p then { w with performed := w.performed || performed } else w }
    else
      { k with wave := k.wave ++ [{ own := litOwn r, pred := litPred r, succ := litSucc r, load := load, performed := performed, pend := p }] }

/-- Entries of a bay's wave buffer, of 1,024 (R215). -/
def waveCount (s : State) (c b : Nat) : Nat :=
  (((s.bay c b).frames.filterMap fun e => e.2.cast).map fun k => k.wave.length).sum

/-- The OPs of memory records (R129). -/
def isMemOp (op : Nat) : Bool :=
  (decide (0x90 ≤ op) && decide (op ≤ 0x99)) || (decide (0xA0 ≤ op) && decide (op ≤ 0xA8)) || op == 0xAA || op == 0xAB

/-- Wave sequences of the memory records of a block (R215). -/
def blockOwns (s : State) (cx c block : Nat) : List Nat :=
  ((s.blockNodes cx c block).map fun n => s.record cx c n.1 n.2).filterMap fun w =>
    if isMemOp (recOp w) then some (litOwn (recFields w)) else none

/-- The firing's record stands in the wave buffer already: it issued and passed its checks. -/
def inWave (s : State) (op : Nat) (r : NodeRec) : Bool :=
  let g := s.firing
  ((s.cast? g.course.toNat g.bay g.ft.toNat).map fun k => k.wave.any fun w => w.pend == pendOf op r g).getD false

/-- A record of a bay enters the wave buffer and acts, unless the buffer is full: it then waits to issue (R215). -/
def waveNode (s : State) (op : Nat) (r : NodeRec) (act : State → State) : State :=
  let g := s.firing
  if 1024 ≤ waveCount s g.course.toNat g.bay ∧ inWave s op r = false then waitAgain s op r else act s

/-- A cast is quiet but for loads that wait in the wave buffer (R215): a parked request is a response outstanding. -/
def waveQuiet (s : State) (c b ft : Nat) (f : Frame) (k : Cast) : Bool :=
  (readyOf s c b ft).all (fun (el, r) => heldNext s c el f r.node.toNat) && (walkingOf s c b ft).isEmpty
    && k.waits.isEmpty && (parkedOf s c b ft).isEmpty && !(tokensOf s c b ft)

/-- A record of the cast is settled (R215). -/
def settled (k : Cast) (quiet : Bool) (x : Nat) : Bool :=
  quiet || k.wave.any fun w =>
    w.own == x || (decide (w.own < x) && decide (x < w.succ) && w.succ != 127) || (decide (w.pred < x) && decide (x < w.own))

/-- An acquire whose performance later accesses of its cast wait for: a read with ORD acq (R216). -/
def isAcqRead (w : WaveEntry) : Bool :=
  let op := w.pend.op
  let o := litOrd w.pend.r
  (o == 1 || o == 3) && (w.load || op == 0xA2 || op == 0xA7)

/-- A read of the wave buffer: a load, an ILD or a BAR.wait (R216, R235). -/
def isRead (w : WaveEntry) : Bool :=
  let op := w.pend.op
  w.load || op == 0x90 || op == 0x92 || op == 0x94 || op == 0x96 || op == 0x97 || op == 0xA2 || op == 0xAB
    || (op == 0xA7 && w.pend.r.var == 1#4)

/-- Acq partials of a context whose cells have not released: in open cells, and on their way or waiting at their homes. -/
def acqParts (s : State) (cx : BitVec 12) : List Partial :=
  ((s.cells.filter fun x => x.cx == cx).flatMap Cell.parts ++ (s.cellWaits.filter fun x => x.2.1.fir.cx == cx).map fun x => x.2.2).filter
    Partial.acq

/-- The cast that sent a partial, as a token names it. -/
def Partial.sender (q : Partial) : BitVec 4 × BitVec 13 × BitVec 12 × BitVec 16 := (q.course, q.unit, q.ft, q.it)

/-- An acq CMB waits for its cell and holds a cast's accesses: one of the cast itself, or of a cast that comes before it in
its strand (R31, R216, R234). -/
def strandCells (s : State) (g : Firing) : Bool :=
  let str := s.strandOf g
  let before := ((s.frame? g.course.toNat g.bay g.ft.toNat).map Frame.after).getD []
  (acqParts s g.cx).any fun q => q.str == str
    && ((q.course == g.course && elBay q.unit.toNat == g.bay && q.ft == g.ft && q.it == g.it) || before.contains q.sender)

/-- R215: a load of wave sequence `own` may be performed. A load that an earlier record has issued and not yet performed comes
first, so that two loads of one location read it in wave order (R321). -/
def loadReady (s : State) (g : Firing) (own : Nat) : Bool :=
  match s.frame? g.course.toNat g.bay g.ft.toNat with
  | none => true
  | some f =>
    match f.cast with
    | none => true
    | some k =>
      let quiet := waveQuiet s g.course.toNat g.bay g.ft.toNat f k
      let lower := k.wave.filter fun w => decide (w.own < own)
      ((blockOwns s g.cx.toNat g.course.toNat k.block).filter (· < own)).all (settled k quiet)
        && lower.all (fun w => !(isAcqRead w || w.load) || w.performed)
        && lower.all (fun w =>
          -- a fence with acquire: every read before it has been performed (R235)
          !(w.pend.op == 0xA6 && (litOrd w.pend.r == 1 || litOrd w.pend.r == 3))
            || k.wave.all (fun v => !(isRead v && decide (v.own < w.own)) || v.performed))
        && !(strandCells s g)

/-! ### Addresses -/

/-- What the address operands of a load or store give: an address, or an index at or beyond its bound (R220). -/
inductive MemAddr where
  | addr (x : Nat)
  | oob (err : Nat)
  deriving DecidableEq, Repr

/-- LDX, STX, VLDX and VSTX take an index word in B (R220). -/
def isIndexed (op : Nat) : Bool := op == 0x94 || op == 0x95 || op == 0x97 || op == 0x98

/-- The address of a load or store record at a firing (R211, R220). -/
def memAddr (op : Nat) (r : NodeRec) (g : Firing) (size : Nat) : MemAddr :=
  let a := (g.a.getD (plain 0)).word
  if isIndexed op then
    let b := (g.b.getD (plain 0)).word
    let i : Int := (b % 2 ^ 32 : Nat) + litOff r
    let bound : Nat := b / 2 ^ 32
    if 0 ≤ i ∧ i < (bound : Int) then .addr (addrPlus a (i * size))
    else .oob (natMod i 32 * 2 ^ 32 + g.node.toNat * 2 ^ 26 + if bound = 0 then 2 else 1)
  else .addr (addrPlus a (litOff r * size))

/-- The size, alignment and value operand of a load or store record. -/
def memWidth (op : Nat) (r : NodeRec) : Nat :=
  if op = 0x92 ∨ op = 0x93 ∨ op = 0x97 ∨ op = 0x98 then vecBytes r else ctlBytes r

def memAlign (op : Nat) (r : NodeRec) : Nat :=
  if op = 0x92 ∨ op = 0x93 ∨ op = 0x97 ∨ op = 0x98 then max 1 (laneBits r.ty.toNat / 8) else ctlBytes r

def storeVal (op : Nat) (g : Firing) : Opnd :=
  if op = 0x95 ∨ op = 0x98 then g.c.getD (plain 0) else g.b.getD (plain 0)

/-- An operand of the firing carries P = 1. -/
def firingP (g : Firing) : Bool :=
  let p := fun (o : Option Opnd) => (o.map Opnd.p).getD false
  p g.a || p g.b || p g.c || p g.s

/-- The error sink of an element (R126): ESN, when ESV = 1. -/
def errorSink (s : State) (g : Firing) : Option Nat :=
  let w := (s.bankOf g.cx.toNat g.course.toNat g.unit.toNat).setting
  if bitAt w 53 then some (bitsAt w 47 6) else none

/-- The error token of an out-of-range index: SAME, to port A of node ESN (R220). -/
def sendError (s : State) (g : Firing) (esn err : Nat) : State :=
  let d := BitVec.ofNat 21 (g.unit.toNat * 256 + esn * 4)
  sendTo s g (s.eBit g) s.sideband.stackNo.toNat g.course.toNat g.ft.toNat g.it.toNat d false (some (BitVec.ofNat 512 err, false))

/-! ### Loads -/

/-- A byte of a context's space through its translation, whatever a bay's cache holds; `shadow` selects the other copy. -/
def State.walkByte (s : State) (cx va : Nat) (shadow : Bool) : Option Nat :=
  match s.walk cx va with
  | .error _ => none
  | .ok o =>
    some (o.byte s shadow 0)

/-- Bytes that a held write of a cast would write: physical byte addresses and values (R215). Its translation is held for it,
whatever has left the bay's cache since (R212). -/
def heldBytes (s : State) (p : Pend) : List (Nat × Byte) :=
  let op := p.op
  let g := p.fir
  if (op = 0x91 ∨ op = 0x93 ∨ op = 0x95 ∨ op = 0x98) ∧ firingP g = false then
    match memAddr op p.r g (memWidth op p.r) with
    | .oob _ => []
    | .addr x =>
      match s.access g.course.toNat g.bay g.cx.toNat x (memWidth op p.r) (memAlign op p.r) clsStore true with
      | .ok as _ _ => as.zip (leBytes (memWidth op p.r) (storeVal op g).val.toNat)
      | .miss _ _ =>
        let as := (List.range (memWidth op p.r)).map fun i => s.walkByte g.cx.toNat (x % 2 ^ 56 + i) (addrKind x == .shadowAlias)
        if as.all Option.isSome then (as.map fun a => a.getD 0).zip (leBytes (memWidth op p.r) (storeVal op g).val.toNat) else []
      | _ => []
  else []

/-- The value of a byte for a load: the held write of highest OWN below the load's, else memory (R215). -/
def forwardByte (s : State) (held : List (Nat × List (Nat × Byte))) (a : Nat) : Byte :=
  let hit := held.foldl (fun (m : Option (Nat × Byte)) h =>
    match lkp h.2 a with
    | some v => (match m with
      | some (o, w) => if o < h.1 then some (h.1, v) else some (o, w)
      | none => some (h.1, v))
    | none => m) none
  match hit with
  | some (_, v) => v
  | none => Memory.read s.mem a

/-- The bytes that a load reads, held writes of its cast forwarded (R215); a window takes no write (R211, R335). -/
def loadBytes (s : State) (r : NodeRec) (g : Firing) (as : List Nat) (cls : Nat) : List Byte :=
  let held := match s.cast? g.course.toNat g.bay g.ft.toNat with
    | some k => (k.held.filter fun p => decide (litOwn p.r < litOwn r)).map fun p => (litOwn p.r, heldBytes s p)
    | none => []
  if cls = 4 then s.readAccess g.course.toNat g.cx.toNat as cls else as.map (forwardByte s held)

/-- The value of a load as its token carries it: extended on the control plane, bytes on the data plane (R218). -/
def loadValue (op : Nat) (r : NodeRec) (bs : List Byte) : Payload :=
  let x := leNat bs
  if op = 0x92 ∨ op = 0x97 then BitVec.ofNat 512 x
  else if tyInt r.ty.toNat then BitVec.ofNat 512 (wrap64 r.ty.toNat (intVal r.ty.toNat x))
  else BitVec.ofNat 512 x

/-- The pages of an access have been used (R316). -/
def State.usePages (s : State) (g : Firing) (x n : Nat) : State :=
  if isHandle x then s else tlbUse s g.course.toNat g.bay g.cx.toNat (x % 2 ^ 56) n

/-- A load that has passed its checks: in the wave buffer, and read once its turn has come (R215). -/
def loadAct (op : Nat) (r : NodeRec) (x : Nat) (s : State) (as : List Nat) (lost : Bool) (cls : Nat) : State :=
  let g := s.firing
  let s := waveIn (s.usePages g x (memWidth op r)) op r true false
  if loadReady s g (litOwn r) then
    let v := loadValue op r (loadBytes s r g as cls)
    let s := waveIn s op r true true
    let s := if op = 0x96 then holdEffect s op r else s
    emitAfter s r g v lost (s.accessDelay g.course.toNat g.bay (as.headD 0) cls)
  else s

/-- A load record acts: checked once, ordered by the wave buffer, read, and sent (R212, R215, R218, R220 to R223). A handle
whose buffer went while the load waited in the wave buffer is not checked again. -/
def loadNode (op : Nat) (r : NodeRec) (s : State) : State :=
  let g := s.firing
  let n := memWidth op r
  let c := g.course.toNat
  actNode s r (argsOf r.ar.toNat g 0) fun s => waveNode s op r fun s =>
    if firingP g then emitNothing (waveIn s op r true true) r g true false
    else
      match memAddr op r g n with
      | .oob err =>
        let s := waveIn s op r true true
        match errorSink s g with
        | some esn => sendError s g esn err
        | none => emitNothing s r g true false
      | .addr x =>
        if op = 0x96 ∧ isHandle (g.a.getD (plain 0)).word = false then memFault s r g kPROT 4 g.cx.toNat x
        else
          match s.access c g.bay g.cx.toNat x n (memAlign op r) clsLoad false with
          | .bad k code owner =>
            if isHandle x && inWave s op r then loadAct op r x s (s.roomBytes x n) false 0 else memFault s r g k code owner x
          | .miss va other => joinWalk s c g.cx.toNat va other (pendOf op r g)
          | .held => waitAgain (callHome s g.cx.toNat x n) op r
          | .ok as lost cls => if as.any s.unreachable then memFault s r g kPAGE 8 g.cx.toNat x else loadAct op r x s as lost cls

/-- LD (R218). -/
def execLd (r : NodeRec) (s : State) : Host.Outcome State Fault Refusal := .next (loadNode 0x90 r s)
/-- VLD (R218). -/
def execVld (r : NodeRec) (s : State) : Host.Outcome State Fault Refusal := .next (loadNode 0x92 r s)
/-- LDX (R220). -/
def execLdx (r : NodeRec) (s : State) : Host.Outcome State Fault Refusal := .next (loadNode 0x94 r s)
/-- LDL: LD through a handle, whose commit lowers UC (R221). -/
def execLdl (r : NodeRec) (s : State) : Host.Outcome State Fault Refusal := .next (loadNode 0x96 r s)
/-- VLDX (R220). -/
def execVldx (r : NodeRec) (s : State) : Host.Outcome State Fault Refusal := .next (loadNode 0x97 r s)

/-! ### Stores -/

/-- A write is held for the commit, in the wave (R25, R215). -/
def holdWrite (s : State) (op : Nat) (r : NodeRec) : State :=
  (waveIn s op r false false).modOwn s.firing fun k => { k with held := k.held ++ [pendOf op r s.firing] }

/-- The issue checks of a write (R212): `act` when they pass, which a moving or spilled allocation does not hinder (R55). -/
def writeChecked (s : State) (op : Nat) (r : NodeRec) (x n al cls : Nat) (act : State → State) : State :=
  let g := s.firing
  match s.access g.course.toNat g.bay g.cx.toNat x n al cls true with
  | .bad k code owner => memFault s r g k code owner x
  | .miss va other => joinWalk s g.course.toNat g.cx.toNat va other (pendOf op r g)
  | .held => act s
  | .ok _ _ _ => act (s.usePages g x n)

/-- A store record acts: its token at once, its write at commit (R219, R220). -/
def storeNode (op : Nat) (r : NodeRec) (s : State) : State :=
  let g := s.firing
  let n := memWidth op r
  let v := (storeVal op g).val
  actNode s r (argsOf r.ar.toNat g 0) fun s => waveNode s op r fun s =>
    if firingP g then emitData (holdWrite s op r) r g v true
    else
      match memAddr op r g n with
      | .oob err =>
        let s := waveIn s op r false true
        match errorSink s g with
        | some esn => emitData (sendError s g esn err) r g v false
        | none => emitData s r g v true
      | .addr x => writeChecked s op r x n (memAlign op r) clsStore fun s => emitData (holdWrite s op r) r g v false

/-- ST (R219). -/
def execSt (r : NodeRec) (s : State) : Host.Outcome State Fault Refusal := .next (storeNode 0x91 r s)
/-- VST (R219). -/
def execVst (r : NodeRec) (s : State) : Host.Outcome State Fault Refusal := .next (storeNode 0x93 r s)
/-- STX (R220). -/
def execStx (r : NodeRec) (s : State) : Host.Outcome State Fault Refusal := .next (storeNode 0x95 r s)
/-- VSTX (R220). -/
def execVstx (r : NodeRec) (s : State) : Host.Outcome State Fault Refusal := .next (storeNode 0x98 r s)

/-- The translation of a page brought into a bay's cache, if it has one (R222). -/
def fetchPage (s : State) (c b cx va : Nat) : State :=
  if (s.tlbHit c b cx va).isSome then s
  else
    match s.walk cx va with
    | .error _ => s
    | .ok o => install s c b cx va o

/-- A prefetch of a page of a class is allowed: it passes the class check of R212 (R213, R222). -/
def prefOk (cls : Nat) (shadow : Bool) : Bool := clsLoad / 2 ^ cls % 2 == 1 && (!shadow || cls == 5)

/-- PREF: its translation is walked when the bay's cache lacks it and the address passes R212; it never faults (R222). Its size
is that of n64, whatever TY holds (R217). -/
def execPref (r : NodeRec) (s : State) : Host.Outcome State Fault Refusal :=
  let g := s.firing
  let a := argsOf r.ar.toNat g 0
  .next (actNode s r a fun s => waveNode s 0x99 r fun s =>
    let x := addrPlus a.a.word (litOff r * 8)
    let va := x % 2 ^ 56
    let s := waveIn s 0x99 r false true
    let virt := addrKind x == .virt || addrKind x == .shadowAlias
    let ok := match s.walk g.cx.toNat va with
      | .ok o => prefOk o.cls (addrKind x == .shadowAlias)
      | .error e => e.pull.isSome && prefOk e.cls (addrKind x == .shadowAlias)
    let s := if !a.p && virt && x % 8 == 0 && (s.tlbHit g.course.toNat g.bay g.cx.toNat va).isNone && ok
      then guestWalk s g.course.toNat g.cx.toNat va g else s
    emitWord s r g a.a.word a.p)

/-! ### The writes of a commit (R26 step 1) -/

/-- What performing a held write gives. -/
inductive Written where
  | done (s : State)
  /-- it waits at its home or bay, and holds the commit (R55, R231) -/
  | waits
  /-- a combine partial is on its way to its home, where its arrival ends the write (R232) -/
  | sent (s : State)
  /-- it faults at its home (R226): kind, code, owner, address -/
  | home (kind code owner addr : Nat)

/-- The bytes of a write through a handle whose allocation is spilled: those of its image (R55). -/
def imageBytes (s : State) (cx x n : Nat) (e : PEntry) : List Nat :=
  let h := handleOf x
  match s.resolve cx ((s.ring cx 0 h.course).base.toNat + e.img + 16 + h.off) n with
  | .ok as => as
  | .error _ => []

/-- Where a write of step 1 lands now: byte addresses; `lost` when its buffer is lost (R55, R398). -/
inductive Landing where
  | at_ (as : List Nat) (lost : Bool)
  | waits
  | stale (va : Nat)
  | bad (kind code owner : Nat)

def landing (s : State) (g : Firing) (x n al cls : Nat) : Landing :=
  let c := g.course.toNat
  match s.access c g.bay g.cx.toNat x n al cls true with
  | .bad k code o => .bad k code o
  | .miss va _ => .stale va
  | .ok as lost cl => .at_ as (lost && cl == 0 && isHandle x)
  | .held =>
    if isHandle x then
      match s.handleEntry g.cx.toNat x n with
      | .ok e => if e.sp && !e.mv then .at_ (imageBytes s g.cx.toNat x n e) e.lost else .waits
      | .error code => .bad kPROT code g.cx.toNat
    else .waits

/-- The pages of an access of `n` bytes brought into the bay's cache. -/
def fetchPages (s : State) (g : Firing) (x n : Nat) : State :=
  if isHandle x then s
  else
    let va := x % 2 ^ 56
    fetchPage (fetchPage s g.course.toNat g.bay g.cx.toNat va) g.course.toNat g.bay g.cx.toNat (va + n - 1)

/-- D bits of the pages of a virtual write (R416). -/
def dirtyPages (s : State) (g : Firing) (x n : Nat) : State :=
  if isHandle x then s
  else
    let va := x % 2 ^ 56
    setDirty (setDirty s g.course.toNat g.bay g.cx.toNat va) g.course.toNat g.bay g.cx.toNat (va + n - 1)

/-- A write reaches its home: its byte addresses with the D bits set (R416), or why it is not performed there now. -/
inductive Landed where
  | at_ (s : State) (as : List Nat)
  /-- its buffer is lost: the write is suppressed, with a POISON record (R398) -/
  | lost (s : State)
  | waits
  | home (kind code owner addr : Nat)

def land (s : State) (g : Firing) (x n al cls : Nat) : Landed :=
  let s := fetchPages s g x n
  match landing s g x n al cls with
  | .waits => .waits
  | .stale va =>
    match s.walk g.cx.toNat va with
    | .error e => .home e.kind e.code e.owner x
    | .ok _ => .waits
  | .bad k code o => .home k code o x
  | .at_ as lost =>
    if as.any s.unreachable then .home kPAGE 8 g.cx.toNat x
    else if lost then .lost (poisonRec s g 5)
    else .at_ (dirtyPages s g x n) as

/-- Write bytes at their home. -/
def landBytes (s : State) (g : Firing) (x n al cls : Nat) (bs : List Byte) : Written :=
  match land s g x n al cls with
  | .waits => .waits
  | .home k code o a => .home k code o a
  | .lost s => .done s
  | .at_ s as => .done (writeBytes s (as.zip bs))

/-- A held store is performed (R219); a poisoned one writes nothing and makes a POISON record (R390). -/
def performStore (s : State) (p : Pend) : Written :=
  let op := p.op
  let g := p.fir
  let n := memWidth op p.r
  match memAddr op p.r g n with
  | .oob _ => .done (if firingP g then poisonMem s p.r g (g.a.getD (plain 0)).word else s)
  | .addr x =>
    if firingP g then .done (poisonMem s p.r g x)
    else landBytes s g x n (memAlign op p.r) clsStore (leBytes n (storeVal op g).val.toNat)

/-- What the re-check of a held write gives. -/
inductive Rechecked where
  | ok (s : State)
  /-- its stale translation is being walked again, or its page pulled (R317, R432) -/
  | waits (s : State)
  | bad (kind code owner : Nat)

/-- The entry of a page in a bay's cache is stale (R316). -/
def State.tlbStale (s : State) (c b cx va : Nat) : Bool :=
  (s.tlbHit c b cx va).isNone && (s.bay c b).tlb.any fun t => t.cx.toNat == cx && decide (t.va ≤ va) && decide (va < t.va + t.size)

/-- The re-check of a held write before step 1 (R212): a translation that has gone stale is walked again, one that has only
left the cache is held for the write. -/
def recheck (s : State) (g : Firing) (x n al cls : Nat) : Rechecked :=
  let c := g.course.toNat
  let cx := g.cx.toNat
  let va := x % 2 ^ 56
  let again := if isHandle x then none else [va, va + n - 1].find? fun a => match s.walk cx a with
    | .error e => e.pull.isSome
    | .ok _ => s.tlbStale c g.bay cx a
  match again with
  | some a => .waits (guestWalk s c cx a g)
  | none =>
    let s := fetchPages s g x n
    match s.access c g.bay cx x n al cls true with
    | .bad k code o => .bad k code o
    | .miss a _ =>
      match s.walk cx a with
      | .error e => .bad e.kind e.code e.owner
      | .ok _ => .ok s
    | _ => .ok s

end Sys2Proof.Machine
end

