-- ==== Sys2Proof/Machine/Region.lean ====
section
/-! DEFINITION. Sys2Proof/Machine/Region.lean: accesses of the engines, crucibles and gates, which cover many bytes and
translate for themselves (R212, R252, R268). -/

namespace Sys2Proof.Machine

/-- What the checks of an engine's access give. -/
inductive Region where
  /-- byte addresses, whether some byte is lost, the class -/
  | ok (as : List Nat) (lost : Bool) (cls : Nat)
  /-- the buffer is moving or spilled (R55) -/
  | held
  /-- the page of an address is in the way: its leaf is marked M, so that the access waits for the pull (R432), or its home
  sleeps, so that it waits for the wake (R453) -/
  | pull (va : Nat)
  | bad (kind code owner va : Nat)
  deriving DecidableEq, Repr

/-- The composed pages of a virtual region, each with its first address and its bytes, or why one does not translate (R212
step 3). -/
def regionPages (s : State) (cx : Nat) : Nat → Nat → Nat → Except Region (List (XOk × Nat × Nat))
  | 0, _, _ => .ok []
  | fuel + 1, va, n =>
    if n = 0 then .ok []
    else
      match s.walk cx va with
      | .error e => .error (if e.pull.isSome then .pull va else .bad e.kind e.code e.owner va)
      | .ok o =>
        let k := min n (o.size - va % o.size)
        match regionPages s cx fuel (va + k) (n - k) with
        | .error x => .error x
        | .ok l => .ok ((o, va, k) :: l)

/-- Steps 4 to 6 of R212 over the pages of a region, each step over all of them; `one` asks for one attribute class throughout. -/
def pagesCheck (cx cls : Nat) (write shadow one : Bool) (l : List (XOk × Nat × Nat)) : Option Region :=
  let at_ := fun (k c : Nat) (p : XOk × Nat × Nat) => Region.bad k c cx p.2.1
  match l.find? fun p => cls / 2 ^ p.1.cls % 2 == 0 || (shadow && p.1.cls != 5) with
  | some p => some (at_ kPROT 7 p)
  | none =>
    match if write then l.find? fun p => !p.1.w else none with
    | some p => some (at_ kPROT 6 p)
    | none => (if one then l.find? fun p => some p.1.cls != l.head?.map fun q => q.1.cls else none).map (at_ kATTR 0)

/-- The checks of a virtual region alone: what fails first, or none. -/
def virtPages (s : State) (cx cls : Nat) (write shadow one : Bool) (fuel va n : Nat) : Option Region :=
  match regionPages s cx fuel va n with
  | .error x => some x
  | .ok l => pagesCheck cx cls write shadow one l

/-- The bytes of a virtual region. -/
def virtRegion (s : State) (cx cls : Nat) (write shadow one : Bool) (fuel va n : Nat) : Region :=
  match regionPages s cx fuel va n with
  | .error x => x
  | .ok l =>
    match pagesCheck cx cls write shadow one l with
    | some x => x
    | none =>
      let bytes := fun (p : XOk × Nat × Nat) => (List.range p.2.2).map (p.1.byte s shadow)
      .ok (l.flatMap bytes) (l.any fun p => p.1.cls != 4 && (bytes p).any s.lostByte) ((l.head?.map fun p => p.1.cls).getD 0)

/-- The classes of a region's pages that translate differ: an ATTR_SPLIT before any write (R262). -/
def regionSplit (s : State) (cx va n : Nat) : Option Nat :=
  let l := pieces (s.walk cx) (n / 2 ^ 16 + 2) va n
  (l.find? fun p => some p.2.cls != l.head?.map fun q => q.2.cls).map Prod.fst

/-- An access of `n` bytes by an engine of a context, whether or not the homes of its bytes are awake. -/
def State.regionAny (s : State) (cx x n al cls : Nat) (write one : Bool) : Region :=
  match addrKind (x % 2 ^ 64) with
  | .bad => .bad kPROT 0 cx x
  | .handle =>
    if x % al ≠ 0 then .bad kALIGN 0 cx x
    else
      match s.handleEntry cx x n with
      | .error code => .bad kPROT code cx x
      | .ok e => if e.mv || e.sp then .held else .ok (bufBytes x e n) e.lost 0
  | .virt => if x % al ≠ 0 then .bad kALIGN 0 cx x else virtRegion s cx cls write false one (n / 2 ^ 16 + 2) x n
  | .shadowAlias => if x % al ≠ 0 then .bad kALIGN 0 cx x else virtRegion s cx cls write true one (n / 2 ^ 16 + 2) (x % 2 ^ 56) n

/-- An access of `n` bytes by an engine of a context; one to a stack that no route reaches is PAGE with code 8 (R449). -/
def State.region (s : State) (cx x n al cls : Nat) (write one : Bool) : Region :=
  match s.regionAny cx x n al cls write one with
  | .ok as lost k =>
    match (if k = 4 then none else s.firstAsleep as), (if k = 4 then none else as.findIdx? s.unreachable) with
    | some i, _ => .pull (x + i)
    | none, some i => .bad kPAGE 8 cx (x + i)
    | none, none => .ok as lost k
  | e => e

/-- Bytes as an engine of a course reads them. -/
def State.readRegion (s : State) (c cx : Nat) (as : List Nat) (cls : Nat) : List Byte := s.readAccess c cx as cls

/-- Bytes written by an engine to an address of a context. -/
def State.writeRegion (s : State) (cx x : Nat) (as : List Nat) (bs : List Byte) : State :=
  let s := if isHandle x then s else dirtyRegion s cx (bs.length / 2 ^ 16 + 2) (x % 2 ^ 56) bs.length
  writeBytes s (as.zip bs)

end Sys2Proof.Machine
end

