-- ==== Sys2Proof/Machine/RoomInstr.lean ====
section
/-! DEFINITION. Sys2Proof/Machine/RoomInstr.lean: allocation and release (R174 to R181), and the allocators of crucibles
and Ridge slots (R81, R82, R177, R178, R248, R254). -/

namespace Sys2Proof.Machine

/-- An ALLOC acts: a poisoned trigger makes no request and emits 0 with P = 1 (R174). -/
def allocNode (s : State) (r : NodeRec) (act : State → State) : State :=
  let a := argsCtl s r s.firing
  actNode s r a fun s => if a.p then emitWord s r s.firing 0 true else act s

/-- The element is in checked mode (R126, R392). -/
def isChecked (s : State) (g : Firing) : Bool := bitAt (s.bankOf g.cx.toNat g.course.toNat g.unit.toNat).setting 63

/-- A request of a node for a pool. -/
def nodeWaiter (s : State) (op : Nat) (r : NodeRec) (size nslots : Nat) (dmask : Word) (map uc : Nat) (cs : Bool) : Waiter where
  party := .node
  pend := pendOf op r s.firing
  size := size
  nslots := nslots
  dmask := dmask
  map := BitVec.ofNat 8 map
  cs := cs
  ovt := 0
  uc := BitVec.ofNat 8 uc
  guard := isChecked s s.firing

/-- A frame map of the plane that a context has active on a unit, by its index (R105). -/
def State.mapOf (s : State) (cx c u idx : Nat) : Option PMap :=
  (s.planeOf cx c u).bind fun p => p.maps.find? fun m => m.idx == idx

/-- A pool of the firing's bay that its context owns (R52). -/
def ownPool (s : State) (g : Firing) (pid : Nat) : Option Pool :=
  match s.pool? g.course.toNat g.bay pid with
  | some p => if p.cx == g.cx then some p else none
  | none => none

/-- ALLOC.FRM (R175). -/
def execAllocFrm (r : NodeRec) (s : State) : Host.Outcome State Fault Refusal :=
  .next (allocNode s r fun s =>
    let g := s.firing
    let pid := bitsAt r.lit 0 3
    match ownPool s g pid, s.mapOf g.cx.toNat g.course.toNat g.unit.toNat (bitsAt r.lit 8 8) with
    | none, _ => fault s g kHOLDING 2
    | some _, none => fault s g kHOLDING 2
    | some _, some m =>
      joinPool s g.course.toNat g.bay pid
        (nodeWaiter s 0x20 r m.gran m.slots m.dmask (bitsAt r.lit 8 8) 0 (r.var == 1#4)))

/-- ALLOC.BUF (R176). -/
def execAllocBuf (r : NodeRec) (s : State) : Host.Outcome State Fault Refusal :=
  .next (allocNode s r fun s =>
    let g := s.firing
    let pid := bitsAt r.lit 0 3
    match ownPool s g pid with
    | none => fault s g kHOLDING 2
    | some _ =>
      joinPool s g.course.toNat g.bay pid (nodeWaiter s 0x21 r (bitsAt r.lit 16 16) 0 0 0 (bitsAt r.lit 8 8) false))

/-! ### Ridge slots -/

/-- ALLOC.RDG (R178): it takes a ticket, and parks when it is not the oldest or no slot is idle (R82). -/
def execAllocRdg (r : NodeRec) (s : State) : Host.Outcome State Fault Refusal :=
  .next (allocNode s r fun s =>
    let g := s.firing
    if (s.runSlots g.cx.toNat).isEmpty then fault s g kHOLDING 2
    else if 2 ^ 20 ≤ s.rdgWaits.length then waitAgain s 0x22 r
    else
      let t := s.rdgTicket
      scanSlots { s with rdgTicket := t + 1, rdgWaits := s.rdgWaits ++ [(t, pendOf 0x22 r g)] })

/-- A slot granted at run time to a context (R178). -/
def State.slotGranted (s : State) (cx n : Nat) : Bool :=
  match lkp s.slots n with
  | some x => x.cx.toNat == cx && x.state == .granted
  | none => false

/-- FREE.RDG: the slot goes back at commit (R178). -/
def execFreeRdg (r : NodeRec) (s : State) : Host.Outcome State Fault Refusal :=
  let a := argsCtl s r s.firing
  .next (actNode s r a fun s =>
    let g := s.firing
    if a.p then emitWord (holdEffect s 0x27 r) r g a.a.word true
    else if !(s.slotGranted g.cx.toNat a.a.word) then
      hardFault s g kHOLDING 2 g.cx.toNat fun x => { x with addr := BitVec.ofNat 64 a.a.word }
    else emitWord (holdEffect s 0x27 r) r g a.a.word false)

/-- A slot that a context was granted at run time goes back to its holding, and the parked requests are served. One that has
left the context meanwhile is not its own to give back (R336, R337). -/
def freeSlot (s : State) (cx n : Nat) : State := if s.slotGranted cx n then scanSlots (setSlotState s n .idle) else s

/-! ### Crucible frames (R248, R254) -/

/-- A context holds a crucible: a KIND 3 holding of the course has its mask bit (R282). -/
def State.holdsCru (s : State) (cx c n : Nat) : Bool :=
  cx == 0 || (s.ctx cx).holds.any fun h =>
    h.kind == 3#4 && h.course.toNat == c && bitsAt h.p0 0 24 / 2 ^ n % 2 == 1

/-- A crucible frame as it is granted: every part cleared, its holder, iteration and linkage set (R248). -/
def Crucible.grant (x : Crucible) (cx : BitVec 12) (it : BitVec 16) (link : Link) : Crucible :=
  { Crucible.empty with
    granted := true, cx := cx, it := it, link := { link with e := false, lc := false },
    active := x.active, shadow := x.shadow, waiters := x.waiters, ticket := x.ticket,
    permit := x.permit, ballast := x.ballast, burstCx := x.burstCx }

/-- A crucible's frame goes to a request, whose result is its frame word (R177). -/
def grantCru (s : State) (c n : Nat) (p : Pend) : State :=
  let g := p.fir
  let s := s.modCru c n fun x => x.grant g.cx g.it (s.ownLink g)
  let s := s.modOwn g fun k => { k with gotCru := k.gotCru ++ [n] }
  emitWord s p.r g (frameWord 1 c n g.it.toNat 0) false

/-- The oldest parked ALLOC.CRU is granted when the crucible is free; the others keep their wait words (R81, R82). A request
whose context no longer holds the crucible is granted nothing, and holds no other back (R418 step 1; notes/assumptions/11.md). -/
def scanCru (s : State) (c n : Nat) : State :=
  let x := s.cru c n
  if x.granted then syncTickets x.waiters s
  else
    match x.waiters.find? fun w => s.holdsCru w.2.fir.cx.toNat c n with
    | none => syncTickets x.waiters s
    | some w =>
      let rest := x.waiters.filter fun v => v.1 != w.1
      grantCru (syncTickets rest (s.setCru c n { x with waiters := rest })) c n w.2

/-- A token for the frame that a crucible holds, on its way (R254). -/
def forCru (s : State) (c n : Nat) (t : Transit) : Bool :=
  let x := s.cru c n
  t.stack == s.sideband.stackNo && t.course.toNat == c && unitKind (destUnit t.tok.dest) == .cru n && t.tok.cx == x.cx
    && t.tok.ft == 0#12 && t.tok.it == x.it

/-- No cast of a course gives back a crucible frame that has been freed. -/
def dropGotCru (s : State) (c n : Nat) : State :=
  { s with bays := s.bays.map fun y =>
      if y.1 / 256 = c then
        (y.1, { y.2 with frames := y.2.frames.map fun e =>
          (e.1, { e.2 with cast := e.2.cast.map fun k => { k with gotCru := k.gotCru.filter (· != n) } }) })
      else y }

/-- A crucible frame is freed: tokens present or still arriving and operations of it go, and the next request is granted
(R254). A fault that held one of its operations holds nothing any more. -/
def freeCru (s : State) (c n : Nat) : State :=
  let keep := fun (l : List Transit) => l.filter fun t => !(forCru s c n t)
  let s := if (s.cru c n).granted then
      dropGotCru (({ s with transit := keep s.transit } : State).modCrs c fun y => { y with frozen := keep y.frozen }) c n
    else s
  let here := fun (f : FaultEntry) => !f.settled && f.site == .crucible (BitVec.ofNat 4 c) (BitVec.ofNat 8 n)
  let s := { s with faults := s.faults.map fun f => if here f then { f with site := .nothing } else f }
  scanCru (s.modCru c n fun x =>
    { Crucible.empty with
      active := x.active, shadow := x.shadow, waiters := x.waiters, ticket := x.ticket,
      permit := x.permit, ballast := x.ballast, burstCx := x.burstCx }) c n

/-- ALLOC.CRU (R177). -/
def execAllocCru (r : NodeRec) (s : State) : Host.Outcome State Fault Refusal :=
  .next (allocNode s r fun s =>
    let g := s.firing
    let c := g.course.toNat
    let n := bitsAt r.lit 0 5
    if !(s.holdsCru g.cx.toNat c n) then fault s g kHOLDING 2
    else if 2 ^ 20 ≤ (s.cru c n).waiters.length then waitAgain s 0x23 r
    else
      scanCru (s.modCru c n fun x =>
        { x with ticket := x.ticket + 1, waiters := x.waiters ++ [(x.ticket, pendOf 0x23 r g)] }) c n)

/-! ### Releases -/

/-- FREE.FRM: A at once, the frame at commit (R179). -/
def execFreeFrm (r : NodeRec) (s : State) : Host.Outcome State Fault Refusal :=
  let a := argsCtl s r s.firing
  .next (actNode s r a fun s =>
    let g := s.firing
    let w := frameRef a.a.word
    if a.p then emitWord (holdEffect s 0x24 r) r g a.a.word true
    else if !(inOwnBay g w) then fault s g kTAG 7
    else if (s.ownFrame? g.cx g.course.toNat g.bay w.ft).isNone then fault s g kTAG 1
    else emitWord (holdEffect s 0x24 r) r g a.a.word false)

/-- USE and FREE.BUF: A at once, checked by R55; the entry changes at commit (R180). -/
def bufNode (op : Nat) (r : NodeRec) (s : State) : State :=
  let a := argsCtl s r s.firing
  actNode s r a fun s =>
    let g := s.firing
    let x := a.a.word
    if a.p then emitWord (holdEffect s op r) r g x true
    else if !(isHandle x) then memFaultAt s g kPROT 4 x
    else
      match s.handleEntry g.cx.toNat x 0 with
      | .error code => memFaultAt s g kPROT code x
      | .ok _ => emitWord (holdEffect s op r) r g x false
where
  /-- A fault that names the handle concerned. -/
  memFaultAt (s : State) (g : Firing) (kind code x : Nat) : State :=
    hardFault s g kind code g.cx.toNat fun y => { y with addr := BitVec.ofNat 64 x }

/-- FREE.BUF (R180). -/
def execFreeBuf (r : NodeRec) (s : State) : Host.Outcome State Fault Refusal := .next (bufNode 0x25 r s)

/-- USE (R180). -/
def execUse (r : NodeRec) (s : State) : Host.Outcome State Fault Refusal := .next (bufNode 0x26 r s)

/-- The effect of USE, LDL (`free` false) or FREE.BUF (true) at commit: UC falls or the buffer goes, unless another commit
has freed it (R77, R78). -/
def commitBuf (s : State) (g : Firing) (x : Nat) (free : Bool) : State :=
  let h := handleOf x
  let race := softAt s g kPROT 5 fun y => { y with addr := BitVec.ofNat 64 x }
  match s.pool? h.course h.bay h.pool with
  | none => race
  | some p =>
    match lkp p.pmap h.entry with
    | none => race
    | some e =>
      if p.cx != g.cx || !e.v || e.gen.toNat != h.gen || e.freeing then race
      else if free || e.uc == 1#8 then yieldBuf s h.course h.bay h.pool h.entry
      else if e.uc = 0 then s
      else s.modPool h.course h.bay h.pool fun q => { q with pmap := put q.pmap h.entry { e with uc := e.uc - 1 } }

/-! ### POOLQ (R83, R181) -/

/-- Descriptor words of a pool (R50). -/
def poolWord0 (p : Pool) : Nat :=
  2 ^ 63 + p.kind.toNat * 2 ^ 61 + p.cx.toNat * 2 ^ 49 + p.allow.toNat * 2 ^ 45 + p.sc.toNat * 2 ^ 41
    + p.base.toNat * 2 ^ 16 + p.size.toNat

def poolWord1 (s : State) (c b pid : Nat) (p : Pool) : Nat :=
  let (hft, hsl, hv) := match p.waiters with
    | w :: _ => let l := partyLink s c w; (l.1, l.2, 1)
    | [] => (0, 0, 0)
  p.rsv.toNat * 2 ^ 48 + poolFree (s.bay c b) pid p % 65536 * 2 ^ 32 + hft % 4096 * 2 ^ 20 + hsl % 64 * 2 ^ 14
    + hv * 2 ^ 13 + (p.anchored || p.pseudo.isSome).toNat * 2 ^ 12 + p.pseudo.isSome.toNat * 2 ^ 11

/-- Live allocations of a pool, spilled ones included (R83). -/
def poolInUse (y : Bay) (pid : Nat) (p : Pool) : Nat :=
  (y.frames.filter fun e => e.2.pool.toNat == pid).length + (p.pmap.filter fun e => e.2.v).length

/-- The word that POOLQ emits (R181). -/
def poolqWord (s : State) (c b pid sel : Nat) (p : Pool) : Nat :=
  match sel with
  | 0 => p.grants.toNat
  | 1 => p.releases.toNat
  | 2 => p.overtakes.toNat
  | 3 => p.anchors.toNat
  | 4 => p.compactions.toNat
  | 5 => p.spills.toNat
  | 6 => p.restores.toNat
  | 7 => p.intoSpilled.toNat
  | 8 => poolInUse (s.bay c b) pid p
  | 9 => poolWord0 p
  | _ => poolWord1 s c b pid p

/-- POOLQ (R181). -/
def execPoolq (r : NodeRec) (s : State) : Host.Outcome State Fault Refusal :=
  let a := argsCtl s r s.firing
  .next (actNode s r a fun s =>
    let g := s.firing
    let pid := bitsAt r.lit 0 3
    match s.pool? g.course.toNat g.bay pid with
    | none => emitWord s r g 0 a.p
    | some p =>
      if p.cx != g.cx then fault s g kHOLDING 2
      else emitWord s r g (poolqWord s g.course.toNat g.bay pid (bitsAt r.lit 4 4) p) a.p)

end Sys2Proof.Machine
end

