-- ==== Sys2Proof/Machine/Crucible.lean ====
section
/-! DEFINITION. Sys2Proof/Machine/Crucible.lean: what the handler records of a crucible do (R248 to R264), with the sum
order of R150 to R155. A meaning acts when its operation starts (R252), on the issue latch. -/

namespace Sys2Proof.Machine

/-! ### Operands and completions -/

/-- The crucible of a firing. -/
def cruNo (g : Firing) : Nat := g.unit.toNat - 0x1000

def State.cruOf (s : State) (g : Firing) : Crucible := s.cru g.course.toNat (cruNo g)
def modCruOf (s : State) (g : Firing) (f : Crucible → Crucible) : State := s.modCru g.course.toNat (cruNo g) f

/-- The operation of a firing has made its effect; its completion carries `res` and, when `p`, P = 1. -/
def finishOp (s : State) (g : Firing) (res : Nat) (p : Bool) : State :=
  modCruOf s g fun x =>
    { x with ops := modFirstOp g (fun o => { o with done := true, poisoned := o.poisoned || p, result := BitVec.ofNat 64 res }) x.ops }

/-- A hard fault of an operation, with its address and the first row affected (R253). -/
def cruFault (s : State) (g : Firing) (kind code owner addr row : Nat) : State :=
  hardFault s g kind code owner fun x => { x with addr := BitVec.ofNat 64 addr, pos := BitVec.ofNat 32 row }

/-- An operation waits for a page that is being pulled (R432). -/
def cruPull (s : State) (g : Firing) (va : Nat) : State := needPage s g.course.toNat g.cx.toNat va g

/-- An operation acts unless an operand is poisoned; a poisoned one completes with P = 1 (R253). -/
def cruNode (s : State) (act : State → State) : State :=
  let g := s.firing
  if firingP g then finishOp s g 0 true else act s

def Firing.aw (g : Firing) : Nat := (g.a.getD (plain 0)).word
def Firing.bw (g : Firing) : Nat := (g.b.getD (plain 0)).word
def Firing.cw (g : Firing) : Nat := (g.c.getD (plain 0)).word
def Firing.sw (g : Firing) : Nat := (g.s.getD (plain 0)).word

/-! ### Formats -/

/-- A narrow format has metadata (R141). -/
def tyNarrow (t : Nat) : Bool := t == 11 || t == 12 || t == 13

/-- Bits of an element. -/
def elemBits (t : Nat) : Nat := if t = 13 then 4 else if tyNarrow t then 8 else 16

/-- Bytes of `n` elements. -/
def elemBytes (t n : Nat) : Nat := n * elemBits t / 8

/-- Bytes of a metadata entry (R256). -/
def metaBytes (t : Nat) : Nat := if t = 13 then 2 else 1

/-- Elements kept of a group of 8 at a sparsity code: 8, 4, 2. -/
def keptOf (sp : Nat) : Nat := match sp with | 0 => 8 | 1 => 4 | _ => 2

/-- Bytes of a row of the A operand in memory (R257). -/
def rowBytes (t sp : Nat) : Nat := elemBytes t (16 * keptOf sp) + (if sp = 0 then 0 else 16)

/-- Elements of stored bytes as a row of 16-bit codes. -/
def packCodes (t n : Nat) (bs : List Byte) : BitVec 2048 :=
  let x := leNat bs
  let w := elemBits t
  BitVec.ofNat 2048 (lanesNat 16 ((List.range n).map fun k => x / 2 ^ (w * k) % 2 ^ w))

/-- Element code k of a stored row. -/
def codeAt (row : BitVec 2048) (k : Nat) : Nat := row.toNat / 2 ^ (16 * k) % 2 ^ 16

/-! ### Memory -/

/-- Metadata entries read from memory: `n` entries of a type at an address, or the fault. -/
def readMeta (s : State) (g : Firing) (t x n : Nat) : Region × List Nat :=
  let m := metaBytes t
  match s.region g.cx.toNat x (n * m) m clsLoad false false with
  | .ok as lost cls =>
    let v := leNat (s.readRegion g.course.toNat g.cx.toNat as cls)
    (.ok as lost cls, (List.range n).map fun i => v / 2 ^ (8 * m * i) % 2 ^ (8 * m))
  | x => (x, [])

/-- A scale entry's key: side, index, block (R259). -/
def scaleKey (side index blk : Nat) : Nat := side * 512 + index * 4 + blk

/-- Scale entries set from a row's or column's list. -/
def putScales (l : List (Nat × BitVec 16)) (side index : Nat) : Nat → List Nat → List (Nat × BitVec 16)
  | _, [] => l
  | b, v :: vs => putScales (put l (scaleKey side index b) (BitVec.ofNat 16 v)) side index (b + 1) vs

/-- Scale entries of a side removed. -/
def clearScales (l : List (Nat × BitVec 16)) (side : Nat) : List (Nat × BitVec 16) :=
  l.filter fun e => e.1 / 512 != side

/-- LIT of a load: NOMETA and the metadata offset (R255). -/
def noMeta (r : NodeRec) : Bool := bitAt r.lit 31
def metaOff (r : NodeRec) : Nat := bitsAt r.lit 0 31

/-! ### MX.LDB (R256) -/

def ldbCols (t : Nat) (bs : List Byte) : List (Nat × BitVec 2048) :=
  let n := elemBytes t 128
  (List.range 128).map fun j => (j, packCodes t 128 ((bs.drop (n * j)).take n))

/-- Scale entries of a B bank: four to a column. -/
def ldbScales (side : Nat) (ms : List Nat) : List (Nat × BitVec 16) :=
  (List.range ms.length).map fun i => (side * 512 + i, BitVec.ofNat 16 (ms.getD i 0))

/-- MX.LDB (R256). -/
def execMxLdb (r : NodeRec) (s : State) : Host.Outcome State Fault Refusal :=
  .next (cruNode s fun s =>
    let g := s.firing
    let t := r.ty.toNat
    let a := g.aw
    let side := 1 + r.var.toNat % 2
    match s.region g.cx.toNat a (128 * elemBytes t 128) 64 clsLoad false false with
    | .held => s
    | .pull va => cruPull s g va
    | .bad k c o va => cruFault s g k c o va 0
    | .ok as lost cls =>
      let bs := s.readRegion g.course.toNat g.cx.toNat as cls
      let bank : BBank := { loaded := true, fmt := r.ty, cols := ldbCols t bs }
      let fin := fun (s : State) (lost : Bool) (ms : List (Nat × BitVec 16)) =>
        finishOp (modCruOf s g fun x =>
          let x := if side = 1 then { x with b0 := bank } else { x with b1 := bank }
          { x with scales := ms.foldl (fun l e => put l e.1 e.2) (clearScales x.scales side) }) g 0 lost
      if tyNarrow t && !(noMeta r) then
        match readMeta s g t (addrPlus a (metaOff r)) 512 with
        | (.held, _) => s
        | (.pull va, _) => cruPull s g va
        | (.bad k c o va, _) => cruFault s g k c o va 0
        | (.ok _ l2 _, ms) => fin s (lost || l2) (ldbScales side ms)
      else fin s lost [])

/-! ### MX.LDA and MX.GATHER (R257, R258) -/

/-- A row as read: its codes, masks and metadata, or the fault. -/
inductive RowRead where
  | ok (codes : BitVec 2048) (mask : BitVec 128) (md : List Nat) (lost : Bool)
  | held
  | pull (va : Nat)
  | bad (kind code owner va : Nat)

/-- One row of the A operand at an address, its metadata at another. -/
def readRow (s : State) (g : Firing) (r : NodeRec) (sp x mx : Nat) : RowRead :=
  let t := r.ty.toNat
  let n := 16 * keptOf sp
  let eb := elemBytes t n
  match s.region g.cx.toNat x (rowBytes t sp) 16 clsLoad false false with
  | .held => .held
  | .pull va => .pull va
  | .bad k c o va => .bad k c o va
  | .ok as lost cls =>
    let bs := s.readRegion g.course.toNat g.cx.toNat as cls
    let codes := packCodes t n (bs.take eb)
    let mask := BitVec.ofNat 128 (leNat (bs.drop eb))
    if tyNarrow t && !(noMeta r) then
      match readMeta s g t mx 4 with
      | (.held, _) => .held
      | (.pull va, _) => .pull va
      | (.bad k c o va, _) => .bad k c o va
      | (.ok _ l2 _, ms) => .ok codes mask ms (lost || l2)
    else .ok codes mask [] lost

/-- A row enters the A latch. Under NOMETA, and for bf16 and f16, its presence bits are cleared. -/
def putRow (x : Crucible) (i : Nat) (codes : BitVec 2048) (mask : BitVec 128) (md : List Nat) : Crucible :=
  let sc := x.scales.filter fun e => e.1 / 4 != i
  { x with aRows := put x.aRows i codes, aMasks := put x.aMasks i mask, scales := putScales sc 0 i 0 md }

/-- Rows of an MX.LDA, from row i on, into a crucible; the first row that fails is named. -/
def ldaRows (s : State) (g : Firing) (r : NodeRec) (sp a p : Nat) : Nat → Nat → Crucible × Bool → Except (Nat × RowRead) (Crucible × Bool)
  | 0, _, x => .ok x
  | n + 1, i, (x, lost) =>
    let mx := addrPlus a (metaOff r + i * 4 * metaBytes r.ty.toNat)
    match readRow s g r sp (addrPlus a (i * p)) mx with
    | .ok codes mask md l => ldaRows s g r sp a p n (i + 1) (putRow x i codes mask md, lost || l)
    | e => .error (i, e)

/-- MX.LDA (R257). -/
def execMxLda (r : NodeRec) (s : State) : Host.Outcome State Fault Refusal :=
  .next (cruNode s fun s =>
    let g := s.firing
    let t := r.ty.toNat
    let w := g.bw
    let ra := w % 256
    let sp := w / 256 % 4
    if w / 2 ^ 10 ≠ 0 ∨ ra = 0 ∨ 128 < ra ∨ sp = 3 then cruFault s g kPROT 15 g.cx.toNat g.aw 0
    else if addrKind g.aw = .bad then cruFault s g kPROT 0 g.cx.toNat g.aw 0
    else if g.aw % 16 ≠ 0 then cruFault s g kALIGN 0 g.cx.toNat g.aw 0
    else
      let x := s.cruOf g
      let x := { x with ra := ra, aFmt := r.ty, aSparse := BitVec.ofNat 2 sp, aRows := [], aMasks := [],
                        scales := if tyNarrow t && !(noMeta r) then x.scales.filter (fun e => !(e.1 / 512 == 0 && decide (e.1 / 4 < ra)))
                                  else clearScales x.scales 0 }
      match ldaRows s g r sp g.aw (rowBytes t sp) ra 0 (x, false) with
      | .ok (y, lost) => finishOp (modCruOf s g fun z => { y with ops := z.ops }) g 0 lost
      | .error (i, .bad k c o va) => cruFault s g k c o va i
      | .error (_, .pull va) => cruPull s g va
      | .error _ => s)

/-- What an out-of-range lane leaves in its row (R258): +0, masks of the sparsity, metadata 0x007F. -/
def gatherMask (sp : Nat) : BitVec 128 :=
  match sp with
  | 0 => 0
  | 1 => BitVec.ofNat 128 (lanesNat 8 (List.replicate 16 0x0F))
  | _ => BitVec.ofNat 128 (lanesNat 8 (List.replicate 16 0x03))

/-- The error word of a lane (R220, R258). -/
def gatherErr (g : Firing) (x bound : Nat) : Nat := x % 2 ^ 32 * 2 ^ 32 + g.node.toNat * 2 ^ 26 + if bound = 0 then 2 else 1

/-- Lanes of an MX.GATHER, from lane i on. -/
def gatherRows (s : State) (g : Firing) (r : NodeRec) (sp f bound : Nat) : List Nat → Nat → Crucible × Bool × Bool →
    Except (Nat × RowRead) (Crucible × Bool × Bool)
  | [], _, x => .ok x
  | v :: vs, i, (x, lost, out) =>
    let t := r.ty.toNat
    if v < bound then
      let ra := addrPlus g.aw (v * rowBytes t sp)
      match readRow s g r sp ra (addrPlus ra (metaOff r)) with
      | .ok codes mask md l => gatherRows s g r sp f bound vs (i + 1) (putRow x (f + i) codes mask md, lost || l, out)
      | e => .error (f + i, e)
    else
      let x := putRow x (f + i) 0 (gatherMask sp) (List.replicate 4 0x007F)
      let x := if x.gstat = 0 then { x with gstat := BitVec.ofNat 64 (gatherErr g v bound) } else x
      gatherRows s g r sp f bound vs (i + 1) (x, lost, true)

/-- MX.GATHER (R258). -/
def execMxGather (r : NodeRec) (s : State) : Host.Outcome State Fault Refusal :=
  .next (cruNode s fun s =>
    let g := s.firing
    let w := g.cw
    let f := w / 2 ^ 32 % 128
    let sp := w / 2 ^ 40 % 4
    let x := s.cruOf g
    if w / 2 ^ 42 ≠ 0 ∨ w / 2 ^ 39 % 2 ≠ 0 ∨ 112 < f ∨ sp = 3 then cruFault s g kPROT 15 g.cx.toNat g.aw f
    else if x.ra ≠ 0 ∧ (x.aFmt ≠ r.ty ∨ x.aSparse.toNat ≠ sp) then cruFault s g kPROT 13 g.cx.toNat g.aw f
    else if addrKind g.aw = .bad then cruFault s g kPROT 0 g.cx.toNat g.aw f
    else if g.aw % 16 ≠ 0 then cruFault s g kALIGN 0 g.cx.toNat g.aw f
    else
      let lanes := (lanesOf 32 (g.b.getD (plain 0)).val).take 16
      let x := { x with ra := max x.ra (f + 16), aFmt := r.ty, aSparse := BitVec.ofNat 2 sp }
      match gatherRows s g r sp f (w % 2 ^ 32) lanes 0 (x, false, false) with
      | .ok (y, lost, out) => finishOp (modCruOf s g fun z => { y with ops := z.ops }) g 0 (lost || out)
      | .error (i, .bad k c o va) => cruFault s g k c o va i
      | .error (_, .pull va) => cruPull s g va
      | .error _ => s)

/-! ### MX.SCALE (R259) -/

/-- A scale word: side, index, block, entry; none when it is invalid. -/
def scaleWord (w : Nat) : Option (Nat × BitVec 16) :=
  let side := w / 2 ^ 30 % 4
  if w / 2 ^ 32 ≠ 0 ∨ side = 3 ∨ w / 2 ^ 18 % 32 ≠ 0 then none
  else some (scaleKey side (w / 2 ^ 23 % 128) (w / 2 ^ 16 % 4), BitVec.ofNat 16 w)

/-- MX.SCALE (R259). -/
def execMxScale (r : NodeRec) (s : State) : Host.Outcome State Fault Refusal :=
  let _ := r
  .next (cruNode s fun s =>
    let g := s.firing
    match scaleWord g.aw with
    | none => cruFault s g kPROT 15 g.cx.toNat 0 (g.aw / 2 ^ 23 % 128)
    | some (k, v) => finishOp (modCruOf s g fun x => { x with scales := put x.scales k v }) g 0 false)

/-! ### MX.MMA (R150 to R155, R260, R261) -/

/-- Set bits of a byte. -/
def popByte (m : Nat) : Nat := ((List.range 8).map fun i => m / 2 ^ i % 2).sum

/-- Mask byte of group q of a row. -/
def maskByte (x : Crucible) (row q : Nat) : Nat := ((lkp x.aMasks row).getD 0).toNat / 2 ^ (8 * q) % 256

/-- Scale entry of a side, for formats with metadata; bf16 and f16 have scale 2^0 (R141, R152). -/
def scaleOf (x : Crucible) (t side index blk : Nat) : Nat :=
  if tyNarrow t then ((lkp x.scales (scaleKey side index blk)).getD 0).toNat else 127

/-- Element k of latch row r: its value, and whether it is kept (R142). -/
def aValue (x : Crucible) (row k : Nat) : FV × Bool :=
  let t := x.aFmt.toNat
  let spare := scaleOf x t 0 row (k / 32) / 256
  let codes := (lkp x.aRows row).getD 0
  if x.aSparse = 0 then (elemVal (tyFmt t) spare (codeAt codes k), true)
  else
    let m := maskByte x row (k / 8)
    if m / 2 ^ (k % 8) % 2 = 0 then (elemVal (tyFmt t) spare 0, false)
    else (elemVal (tyFmt t) spare (codeAt codes (keptOf x.aSparse.toNat * (k / 8) + popByte (m % 2 ^ (k % 8)))), true)

/-- Element k of column j of a bank. -/
def bValue (x : Crucible) (b : BBank) (side j k : Nat) : FV :=
  let t := b.fmt.toNat
  elemVal (tyFmt t) (scaleOf x t side j (k / 32) / 256) (codeAt ((lkp b.cols j).getD 0) k)

/-- Rounding into x37 to odd, as a value (R140, R151). -/
def roundX37 (v : FV) : FV := x37.decode (roundFV x37 { mode := 4 } v).code

/-- One level of the tree: neighbours are added pairwise. -/
def treeLevel : List FV → List FV
  | a :: b :: l => roundX37 (FV.add 4 a b).1 :: treeLevel l
  | l => l

/-- The fixed tree over 32 leaves (R151). -/
def treeSum (l : List FV) : FV := (treeLevel (treeLevel (treeLevel (treeLevel (treeLevel l))))).headD (.fin false 0 0)

/-- The scaled group sum of block q for a row and a column (R151, R152, R155). -/
def groupSum (x : Crucible) (b : BBank) (side row j q : Nat) : FV :=
  let leaf := fun i => (FV.mul (aValue x row (32 * q + i)).1 (bValue x b side j (32 * q + i))).1
  let g := treeSum ((List.range 32).map leaf)
  let sa := scaleOf x x.aFmt.toNat 0 row q % 256
  let sb := scaleOf x b.fmt.toNat side j q % 256
  match scaleExp sa, scaleExp sb with
  | some ea, some eb => g.scale (ea + eb)
  | _, _ => .nan

/-- A cell after an MX.MMA (R153). -/
def mmaCell (x : Crucible) (b : BBank) (side row j : Nat) (set : Bool) (old : BitVec 37) : BitVec 37 :=
  let z : FV := if set then .fin true 0 0 else x37.decode old.toNat
  let v := (List.range 4).foldl (fun acc q => roundX37 (FV.add 4 acc (groupSum x b side row j q)).1) z
  BitVec.ofNat 37 (roundFV x37 { mode := 4 } v).code

/-- A cell of an accumulator. -/
def accCell (x : Crucible) (n row j : Nat) : BitVec 37 := (lkp x.acc (n * 16384 + row * 128 + j)).getD 0

/-- Accumulator cells written; a +0 cell is not listed. -/
def putAcc (acc : List (Nat × BitVec 37)) (n row j : Nat) (v : BitVec 37) : List (Nat × BitVec 37) :=
  if v = 0 then del acc (n * 16384 + row * 128 + j) else put acc (n * 16384 + row * 128 + j) v

/-- Cells of an accumulator from a row on removed: they are +0. -/
def clearAcc (acc : List (Nat × BitVec 37)) (n row : Nat) : List (Nat × BitVec 37) :=
  acc.filter fun e => !(e.1 / 16384 == n && decide (row ≤ e.1 % 16384 / 128))

/-- Accumulator, bank, side and the set variant that VAR names (R131). -/
def mmaAcc (r : NodeRec) : Nat := r.var.toNat % 4
def mmaSet (r : NodeRec) : Bool := r.var.toNat / 4 % 2 == 1
def mmaSide (r : NodeRec) : Nat := 1 + r.var.toNat / 8
def mmaBank (x : Crucible) (r : NodeRec) : BBank := if mmaSide r = 1 then x.b0 else x.b1

/-- The burst's effect on its accumulator (R260). -/
def mmaApply (x : Crucible) (r : NodeRec) : Crucible :=
  let n := mmaAcc r
  let b := mmaBank x r
  let acc := (List.range x.ra).foldl (fun acc row =>
    (List.range 128).foldl (fun acc j => putAcc acc n row j (mmaCell x b (mmaSide r) row j (mmaSet r) (accCell x n row j))) acc) x.acc
  if mmaSet r then { x with acc := clearAcc acc n x.ra, rows := put x.rows n x.ra }
  else { x with acc := acc, rows := put x.rows n (max ((lkp x.rows n).getD 0) x.ra) }

/-- The first row with a mask whose set bits differ from the sparsity (R142, R260). -/
def badMask (x : Crucible) : Option Nat :=
  if x.aSparse = 0 then none
  else (List.range x.ra).find? fun row => (List.range 16).any fun q => popByte (maskByte x row q) != keptOf x.aSparse.toNat

/-- Every scale entry that a burst needs is present (R260). -/
def scalesReady (x : Crucible) (b : BBank) (side : Nat) : Bool :=
  (!(tyNarrow x.aFmt.toNat) || (List.range (4 * x.ra)).all fun i => (lkp x.scales i).isSome)
    && (!(tyNarrow b.fmt.toNat) || (List.range 512).all fun i => (lkp x.scales (side * 512 + i)).isSome)

/-- The stall bound of a context in cycles (R29). -/
def State.stallBound (s : State) (cx : Nat) : Nat := 2 ^ (12 + (s.ctx cx).sbc.toNat)

/-- Cycles that an operation has waited for scales. -/
def opWaited (x : Crucible) (g : Firing) : Nat :=
  ((x.ops.find? fun o => o.pend.fir == g && o.started && !o.done).map CruOp.waited).getD 0

/-- The crucible as an MX.MMA finds it: its S word is written once, at the firing, or here when its entry was present then
(R259). None is an invalid scale word. -/
def mmaScaled (x : Crucible) (r : NodeRec) (g : Firing) : Option Crucible :=
  if r.ar = 6#3 then
    (scaleWord g.sw).map fun e =>
      let done := ((x.ops.find? fun o => o.pend.fir == g && o.started && !o.done).map CruOp.scaled).getD false
      if done then x
      else { x with scales := put x.scales e.1 e.2, ops := modFirstOp g (fun o => { o with scaled := true }) x.ops }
  else some x

/-- MX.MMA up to its wait for a permit (R260); the burst is made by mmaApply when it ends (R261). -/
def execMxMma (r : NodeRec) (s : State) : Host.Outcome State Fault Refusal :=
  .next (cruNode s fun s =>
    let g := s.firing
    match mmaScaled (s.cruOf g) r g with
    | none => cruFault s g kPROT 15 g.cx.toNat 0 (g.sw / 2 ^ 23 % 128)
    | some x =>
      -- a fault leaves the entry as it was (R253), one after a wait too: until the burst is due nothing is written, and
      -- no later operation reads or writes the entry (R251)
      let s' := modCruOf s g fun _ => x
      let n := mmaAcc r
      let b := mmaBank x r
      if x.ra = 0 then
        finishOp (if mmaSet r then modCruOf s' g fun x => { x with acc := clearAcc x.acc n 0, rows := put x.rows n 0 } else s') g 0 false
      else if !b.loaded || r.ty != x.aFmt then cruFault s g kPROT 13 g.cx.toNat 0 0
      else if bitsAt r.lit 0 2 ≠ x.aSparse.toNat then cruFault s g kSPARSE 1 g.cx.toNat 0 0
      else
        match badMask x with
        | some row => cruFault s g kSPARSE 0 g.cx.toNat 0 row
        | none =>
          if scalesReady x b (mmaSide r) then
            modCruOf s' g fun x => { x with ops := modFirstOp g (fun o => { o with wantPermit := true }) x.ops }
          else if s.stallBound g.cx.toNat ≤ opWaited x g then cruFault s g kSTALL 0 g.cx.toNat 0 0
          else s)

/-! ### The other records -/

/-- Bytes of a drained cell, and its flags (R154, R262). -/
def drainCell (t : Nat) (v : BitVec 37) : Nat × Flags :=
  let x := roundFV (tyFmt t) { mode := 0 } (x37.decode v.toNat)
  (x.code, x.flags &&& (fNX ||| fUF ||| fOF ||| fSAT))

/-- The bytes of a drained row and their flags. -/
def drainRow (x : Crucible) (n t row : Nat) : List Byte × Flags :=
  let cells := (List.range 128).map fun j => drainCell t (accCell x n row j)
  (cells.flatMap fun c => leBytes (tyWidth t / 8) c.1, cells.foldl (fun f c => f ||| c.2) 0)

/-- The rows of a drain as its start resolves them, each once (R252), up to the first that fails or waits. -/
def drainPlan (s : State) (g : Firing) (t pitch : Nat) : Nat → Nat → List Region
  | 0, _ => []
  | k + 1, row =>
    let a := addrPlus g.bw (row * pitch)
    match s.region g.cx.toNat a (128 * (tyWidth t / 8)) 64 clsStore true true with
    | .ok as lost cls => .ok as lost cls :: drainPlan s g t pitch k (row + 1)
    | e => [e]

/-- What keeps a drain from starting: a row whose page is pulled or whose buffer moves. -/
def drainWaits (plan : List Region) : Option Region :=
  plan.find? fun e => match e with | .held => true | .pull _ => true | _ => false

/-- Rows drained from row i on (R262). A fault stops at its row; rows before it stay written. -/
def drainRows (g : Firing) (x : Crucible) (n t pitch : Nat) : List Region → Nat → State × Flags → State × Flags × Option (Nat × Region)
  | [], _, (s, f) => (s, f, none)
  | .ok as lost _ :: plan, row, (s, f) =>
    let a := addrPlus g.bw (row * pitch)
    let (bs, f') := drainRow x n t row
    let s := if lost && isHandle a then poisonRec s g 5 else s.writeRegion g.cx.toNat a as bs
    drainRows g x n t pitch plan (row + 1) (s, f ||| f')
  | e :: _, row, (s, f) => (s, f, some (row, e))

/-- The first page of a drain's region that has to be pulled before it is known to lie in one class (R262, R432). -/
def drainPull (s : State) (g : Firing) (span : Nat) : Option Nat :=
  if isHandle g.bw then none
  else
    match regionPages s g.cx.toNat (span / 2 ^ 16 + 2) (g.bw % 2 ^ 56) span with
    | .error (.pull va) => some va
    | _ => none

/-- MX.DRAIN (R262). Its flags are set when it completes. -/
def execMxDrain (r : NodeRec) (s : State) : Host.Outcome State Fault Refusal :=
  let g := s.firing
  .next (if firingP g then finishOp (softAt s g kPOISON 2 id) g 0 true
    else
      let x := s.cruOf g
      let n := mmaAcc r
      let t := r.ty.toNat
      let rows := (lkp x.rows n).getD 0
      let pitch := r.lit.toNat
      if rows = 0 then finishOp s g 0 false
      else if addrKind g.bw = .bad then cruFault s g kPROT 0 g.cx.toNat g.bw 0
      else if g.bw % 64 ≠ 0 then cruFault s g kALIGN 0 g.cx.toNat g.bw 0
      else
        let span := (rows - 1) * pitch + 128 * (tyWidth t / 8)
        match drainPull s g span with
        | some va => cruPull s g va
        | none =>
          -- a region of two classes fails before any write; any other fault stops at its row
          match if isHandle g.bw then none else regionSplit s g.cx.toNat (g.bw % 2 ^ 56) span with
          | some va => cruFault s g kATTR 0 g.cx.toNat va 0
          | none =>
            let plan := drainPlan s g t pitch rows 0
            match drainWaits plan with
            | some (.pull va) => cruPull s g va
            | some _ => s
            | none =>
              match drainRows g x n t pitch plan 0 (s, 0) with
              | (s, f, none) =>
                finishOp (modCruOf s g fun x => { x with ops := modFirstOp g (fun o => { o with flags := f }) x.ops }) g 0 false
              | (s, _, some (row, .bad k c o va)) => cruFault s g k c o va row
              | (s, _, some _) => s)

/-- MX.ZERO (R263). -/
def execMxZero (r : NodeRec) (s : State) : Host.Outcome State Fault Refusal :=
  .next (cruNode s fun s =>
    let g := s.firing
    finishOp (modCruOf s g fun x => { x with acc := clearAcc x.acc (mmaAcc r) 0, rows := put x.rows (mmaAcc r) 0 }) g 0 false)

/-- The values of MX.ADDC added to every live row (R263). -/
def addcApply (x : Crucible) (n t : Nat) (vs : List Nat) : Crucible :=
  { x with acc := (List.range ((lkp x.rows n).getD 0)).foldl (fun acc row =>
      (List.range 128).foldl (fun acc j =>
        putAcc acc n row j (BitVec.ofNat 37 (roundFV x37 { mode := 4 }
          (FV.add 4 (x37.decode (accCell x n row j).toNat) ((tyFmt t).decode (vs.getD j 0))).1).code)) acc) x.acc }

/-- MX.ADDC (R263). -/
def execMxAddc (r : NodeRec) (s : State) : Host.Outcome State Fault Refusal :=
  .next (cruNode s fun s =>
    let g := s.firing
    let t := r.ty.toNat
    let w := tyWidth t
    match s.region g.cx.toNat g.aw (128 * (w / 8)) 64 clsLoad false false with
    | .held => s
    | .pull va => cruPull s g va
    | .bad k c o va => cruFault s g k c o va 0
    | .ok as lost cls =>
      let v := leNat (s.readRegion g.course.toNat g.cx.toNat as cls)
      let vs := (List.range 128).map fun j => v / 2 ^ (w * j) % 2 ^ w
      finishOp (modCruOf s g fun x => addcApply x (mmaAcc r) t vs) g 0 lost)

/-- The word that MX.QRY emits (R264). -/
def mxqWord (x : Crucible) (sel : Nat) : Nat :=
  match sel with
  | 0 => x.ra + x.aFmt.toNat * 2 ^ 8 + x.aSparse.toNat * 2 ^ 12
  | 1 => x.b0.fmt.toNat + x.b0.loaded.toNat * 2 ^ 4 + x.b1.fmt.toNat * 2 ^ 8 + x.b1.loaded.toNat * 2 ^ 12
  | 2 => ((List.range 4).map fun n => (lkp x.rows n).getD 0 * 2 ^ (8 * n)).sum
  | 3 => x.gstat.toNat
  | _ => x.accepted.toNat

/-- MX.QRY: it reads at acceptance (R251, R264). -/
def execMxQry (r : NodeRec) (s : State) : Host.Outcome State Fault Refusal :=
  .next (cruNode s fun s =>
    let g := s.firing
    let sel := bitsAt r.lit 0 4
    let w := mxqWord (s.cruOf g) sel
    finishOp (if sel = 3 then modCruOf s g fun x => { x with gstat := 0 } else s) g w false)

/-! ### Which operations exclude each other (R251, R259) -/

/-- Parts that an operation reads: 0 the A latch, 1 and 2 the banks, 3 to 5 the scales of the sides, 6 to 9 the
accumulators, 10 memory: a drain is kept apart from every other access to memory, whose rows it might overlap. -/
def opReads (p : Pend) : List Nat :=
  let r := p.r
  match p.op with
  | 0xC0 | 0xC2 => [10]
  | 0xC1 => [0, 10]
  | 0xC3 => [0, mmaSide r, 3, 3 + mmaSide r, 6 + mmaAcc r]
  | 0xC5 => [6 + mmaAcc r]
  | 0xC7 => [6 + mmaAcc r, 10]
  | _ => []

def opWrites (p : Pend) : List Nat :=
  let r := p.r
  match p.op with
  | 0xC0 => [1 + r.var.toNat % 2, 4 + r.var.toNat % 2]
  | 0xC1 => [0, 3]
  | 0xC2 => [0, 3]
  | 0xC3 => [6 + mmaAcc r]
  | 0xC5 => [10]
  | 0xC6 => [6 + mmaAcc r]
  | 0xC7 => [6 + mmaAcc r]
  | _ => []

/-- Scale entry that an operation's scale word names. -/
def opEntry (p : Pend) : Option Nat :=
  if p.op = 0xC4 then (scaleWord p.fir.aw).map Prod.fst
  else if p.op = 0xC3 ∧ p.r.ar = 6#3 then (scaleWord p.fir.sw).map Prod.fst
  else none

/-- An MX.MMA reads a scale entry (R259, R260). -/
def readsEntry (x : Crucible) (p : Pend) (k : Nat) : Bool :=
  p.op == 0xC3 && ((decide (k < 4 * x.ra) && tyNarrow x.aFmt.toNat) || (k / 512 == mmaSide p.r && tyNarrow (mmaBank x p.r).fmt.toNat))

/-- The later operation may not start before the earlier one is done: one writes a part that the other reads or writes, or the
scale entry of one's word is such a part. One that frees the frame, by TG = RETURN (R254), is kept apart from every other, and
two of one record are kept apart, so that a fault names the one that it holds: the results are those of one at a time (R251,
R253; notes/assumptions/121.md). -/
def opsConflict (x : Crucible) (a b : Pend) : Bool :=
  let rw := (opWrites a).any (fun w => (opReads b).contains w || (opWrites b).contains w)
    || (opReads a).any (fun w => (opWrites b).contains w)
  let later := (opEntry b).any fun k => readsEntry x a k || (opWrites a).contains (3 + k / 512) || opEntry a == some k
  let earlier := (opEntry a).any fun k => (opReads b).contains (3 + k / 512) || (opWrites b).contains (3 + k / 512)
  rw || later || earlier || a.fir.node == b.fir.node || a.r.tg == 3#2 || b.r.tg == 3#2

/-- The operations that may start now, by their index: no earlier one excludes them, and the cycle that accepted them is
over, since the firings of one cycle are accepted in ascending record number (R251, R253). -/
def startable (x : Crucible) (now : Nat) : List CruOp → List Pend → Nat → List Nat
  | [], _, _ => []
  | o :: os, before, i =>
    if o.held then []
    else if o.done then (if o.pend.r.tg = 3#2 then [] else startable x now os before (i + 1))
    else
      let rest := startable x now os (before ++ [o.pend]) (i + 1)
      if !o.started && decide (o.cyc < now) && before.all (fun q => !(opsConflict x q o.pend)) then i :: rest else rest

/-- An operation enters behind the accepted ones, but before those of higher records that fired in the same cycle and
have not started (R251). -/
def acceptOp (o : CruOp) : List CruOp → List CruOp
  | [] => [o]
  | q :: qs => if q.cyc = o.cyc ∧ !q.started ∧ o.pend.fir.node < q.pend.fir.node then o :: q :: qs else q :: acceptOp o qs

end Sys2Proof.Machine
end

