-- ==== Sys2Proof/Machine/Sync.lean ====
section
/-! DEFINITION. Sys2Proof/Machine/Sync.lean: atomics (R224 to R226), structure words (R227 to R231), combining (R232 to
R234), fences and barriers (R235 to R238), shadow pages and publish (R239 to R241). -/

namespace Sys2Proof.Machine

/-! ### Tokens of an effect that comes later -/

/-- The tokens that a record's tags and destinations give, with zero payloads, for an effect that is performed after its
commit (R244, R267). `d0` and `d1` say which destinations take part. -/
def laterToks (s : State) (r : NodeRec) (g : Firing) (d0 d1 : Bool) : List Transit :=
  match tagOf s r g with
  | .ok course ft it =>
    let stack := s.sideband.stackNo.toNat
    let z : Val := (0#512, false)
    let mk := fun d => if d = 0x1FFFFF#21 then [] else [mkTok s g false stack course ft it d false z]
    if r.tg = 3#2 then (if d0 || d1 then mk (s.tagLink g).rdest else [])
    else (if d0 then mk r.d0 else []) ++ (if d1 then mk r.d1 else [])
  | _ => []

/-- Tokens sent with a payload once their effect is performed. -/
def sendLater (s : State) (ts : List Transit) (x : Nat) (p : Bool) : State :=
  { s with transit := s.transit ++ ts.map fun t =>
      { t with tok := { t.tok with val := BitVec.ofNat 512 (x % 2 ^ 64), p := p } } }

/-- Tokens of a record of a committing cast join the cast's outgoing ones with their payload, to be released with them (R26 step
3, R322); those of a cast that is gone went with it. -/
def outLater (s : State) (g : Firing) (ts : List Transit) (x : Nat) : State :=
  match s.frame? g.course.toNat g.bay g.ft.toNat with
  | some f =>
    if f.cx == g.cx && f.it == g.it && (f.cast.map Cast.committing).getD false then
      s.modOwn g fun k =>
        { k with out := k.out ++ ts.map fun t => { t with tok := { t.tok with val := BitVec.ofNat 512 (x % 2 ^ 64), p := false } } }
    else s
  | none => s

/-! ### The operations of a home -/

/-- A number of a type from its bits: an integer, or its code. -/
def updInt (t var : Nat) (x y : Nat) : Nat :=
  let w := tyWidth t
  let a := intVal t x
  let b := intVal t y
  match var with
  | 0 => wrapLane t (a + b)
  | 1 => (x &&& y) % 2 ^ w
  | 2 => (x ||| y) % 2 ^ w
  | 3 => (x ^^^ y) % 2 ^ w
  | 4 => wrapLane t (min a b)
  | 5 => wrapLane t (max a b)
  | _ => y % 2 ^ w

/-- f of ATOM on the old value and B (R225). -/
def atomUpd (t var old b : Nat) : Nat × Flags :=
  if var = 7 then
    let x := fAdd f32 { mode := 0, draw := 0, sat := false } (old % 2 ^ 32) (b % 2 ^ 32)
    (x.code, x.flags)
  else (updInt t var old b, 0)

/-- One lane of a combine operation: integer operations of R232 in their order add, min, max, and, or, xor, or fadd. -/
def cmbLane (t var x y : Nat) : Nat × Flags :=
  if var = 6 then
    let z := fAdd f32 { mode := 0, draw := 0, sat := false } (x % 2 ^ 32) (y % 2 ^ 32)
    (z.code, z.flags)
  else
    (updInt t (match var with | 0 => 0 | 1 => 4 | 2 => 5 | 3 => 1 | 4 => 2 | _ => 3) x y, 0)

/-- A value of a type extended for the control plane (R135). -/
def extendTy (t x : Nat) : Nat := if tyInt t then wrap64 t (intVal t x) else x % 2 ^ tyWidth t

/-! ### ATOM and CAS -/

/-- ATOM and CAS act: checked at issue, performed at commit, with no token before (R224, R225). -/
def atomNode (op : Nat) (r : NodeRec) (s : State) : State :=
  let g := s.firing
  let n := ctlBytes r
  actNode s r (argsOf r.ar.toNat g 0) fun s => waveNode s op r fun s =>
    if firingP g then holdWrite s op r
    else
      match memAddr op r g n with
      | .oob _ => s
      | .addr x =>
        writeChecked s op r x n n clsStore fun s => holdWrite s op r

/-- ATOM (R225). -/
def execAtom (r : NodeRec) (s : State) : Host.Outcome State Fault Refusal := .next (atomNode 0xA0 r s)
/-- CAS (R225). -/
def execCas (r : NodeRec) (s : State) : Host.Outcome State Fault Refusal := .next (atomNode 0xA1 r s)

/-- The results of a dropped or suppressed update: 0 with P = 1 (R225, R226). -/
def atomPoisoned (s : State) (r : NodeRec) (g : Firing) : State :=
  emitVals s r g false (some (0#512, true)) (some (0#512, true))

/-- ATOM or CAS at its home (R225). -/
def performAtomic (s : State) (p : Pend) : Written :=
  let g := p.fir
  let r := p.r
  let t := r.ty.toNat
  let n := ctlBytes r
  match memAddr p.op r g n with
  | .oob _ => .done s
  | .addr x =>
    if firingP g then .done (atomPoisoned (poisonMem s r g x) r g)
    else
      match land s g x n n clsStore with
      | .waits => .waits
      | .home k code o a => .home k code o a
      | .lost s => .done (atomPoisoned s r g)
      | .at_ s as =>
        let old := leNat (readBytes s as)
        let b := (g.b.getD (plain 0)).word
        let due := s.cycles + s.atomDelay g.course.toNat g.bay (as.headD 0)
        if p.op = 0xA0 then
          let u := atomUpd t r.var.toNat old b
          let s := setFlags (writeBytes s (as.zip (leBytes n u.1))) g.cx.toNat u.2
          .done (delaySince s (emitVals s r g false (word64 (extendTy t old)) (word64 (extendTy t old))) g due)
        else
          let hit := old == b % 2 ^ (8 * n)
          let s := if hit then writeBytes s (as.zip (leBytes n (g.c.getD (plain 0)).word)) else s
          .done (delaySince s (emitVals s r g false (word64 (extendTy t old)) (word64 hit.toNat)) g due)

/-! ### Structure words (R227 to R231) -/

/-- The address of a structure record: OFF counts words (R227). -/
def structAddr (r : NodeRec) (g : Firing) : Nat := addrPlus (g.a.getD (plain 0)).word (litOff r * 8)

/-- The tag of a structure word. -/
def State.stag (s : State) (a : Nat) : STag :=
  (lkp s.stags a).getD { full := false, res := false, wait := false, pool := 0, head := none, tail := none }

/-- A tag is kept when it differs from an empty word's. -/
def State.setStag (s : State) (a : Nat) (t : STag) : State :=
  if !t.full && !t.res && !t.wait then { s with stags := del s.stags a } else { s with stags := put s.stags a t }

/-- The home bay of a structure word: course and bay (R228). -/
def homeOf (a : Nat) : Nat × Nat := (a / 2 ^ 28 % 16, a / 2 ^ 20 % 256)

/-- The wave entry of a record: whether it is a load still to be performed, and whether it is performed. -/
def waveMark (s : State) (op : Nat) (r : NodeRec) (load performed : Bool) : State :=
  let p := pendOf op r s.firing
  (waveIn s op r load performed).modOwn s.firing fun k =>
    { k with wave := k.wave.map fun w => if w.pend == p then { w with load := load, performed := performed } else w }

/-- ILD acts (R229): a full word's value at once, else a DEF record is asked for. It is a read, ordered by R215 and R216. -/
def ildNode (r : NodeRec) (s : State) : State :=
  let g := s.firing
  let c := g.course.toNat
  actNode s r (argsOf 0 g 0) fun s => waveNode s 0xA2 r fun s =>
    if firingP g then emitNothing (waveIn s 0xA2 r false true) r g true false
    else
        let x := structAddr r g
        match s.access c g.bay g.cx.toNat x 8 8 clsStruct false with
        | .bad k code owner => memFault s r g k code owner x
        | .miss va other => joinWalk s c g.cx.toNat va other (pendOf 0xA2 r g)
        | .held =>
          -- the word's course sleeps, which is not the issuing one (R228)
          if (ildWord s (pendOf 0xA2 r g)).map homeOf == some (c, g.bay) then waitAgain s 0xA2 r else memFault s r g kPROT 8 g.cx.toNat x
        | .ok as lost _ =>
          let s := s.usePages g x 8
          let a := as.headD 0
          if homeOf a ≠ (c, g.bay) then memFault s r g kPROT 8 g.cx.toNat x
          else if !(loadReady (waveMark s 0xA2 r true false) g (litOwn r)) then waveMark s 0xA2 r true false
          else
            let t := s.stag a
            if t.full then
              let s := waveMark s 0xA2 r true true
              delaySince s (emitVals s r g (s.eBit g) (some (BitVec.ofNat 512 (Memory.get s.mem a 8), lost)) none) g
                (s.cycles + s.accessDelay c g.bay a 3)
            else
              let dfp := bitsAt (s.bankOf g.cx.toNat c g.unit.toNat).setting 32 3
              let pid := if t.wait then t.pool.toNat else dfp
              -- only the pool's owner allocates from it (R52)
              if !(((s.pool? c g.bay pid).map fun p => p.kind == 2#2 && p.cx == g.cx).getD false) then fault s g kHOLDING 2
              else joinPool (waveMark s 0xA2 r false false) c g.bay pid
                { party := .node, pend := pendOf 0xA2 r g, size := 1, nslots := 0, dmask := 0, map := 0, cs := false,
                  ovt := 0, uc := 0, guard := false }

/-- ILD (R229). -/
def execIld (r : NodeRec) (s : State) : Host.Outcome State Fault Refusal := .next (ildNode r s)

/-- IST and ICLR act: checked at issue, performed at commit; IST emits B, ICLR A (R230, R231). -/
def structNode (op : Nat) (r : NodeRec) (v : Opnd) (s : State) : State :=
  let g := s.firing
  actNode s r (argsOf r.ar.toNat g 0) fun s => waveNode s op r fun s =>
    if firingP g then emitWord (holdWrite s op r) r g v.word true
    else writeChecked s op r (structAddr r g) 8 8 clsStruct fun s => emitWord (holdWrite s op r) r g v.word false

/-- IST (R230). -/
def execIst (r : NodeRec) (s : State) : Host.Outcome State Fault Refusal :=
  .next (structNode 0xA3 r (s.firing.b.getD (plain 0)) s)
/-- ICLR (R231). -/
def execIclr (r : NodeRec) (s : State) : Host.Outcome State Fault Refusal :=
  .next (structNode 0xA4 r (s.firing.a.getD (plain 0)) s)

/-- A record of a word's list: frame tag, iteration, destination, and the next granule (R80). -/
structure DefRec where
  ft : Nat
  it : Nat
  dest : Nat
  next : Option Nat
  deriving DecidableEq, Repr, Inhabited

def defGet (s : State) (c b gran : Nat) : DefRec :=
  let w0 := Memory.get s.mem (nearPA c b (16 * gran)) 8
  let w1 := Memory.get s.mem (nearPA c b (16 * gran) + 8) 8
  { ft := w0 / 2 ^ 52, it := w0 / 2 ^ 36 % 2 ^ 16, dest := w0 / 2 ^ 15 % 2 ^ 21,
    next := if w1 / 2 ^ 63 = 1 then some ((w1 / 2 ^ 47 + s.defBase c b gran) % 2 ^ 16) else none }

/-- The granules of a word's list, from HEAD. -/
def defList (s : State) (c b : Nat) : Nat → Option Nat → List Nat
  | 0, _ => []
  | _, none => []
  | fuel + 1, some gr => gr :: defList s c b fuel (defGet s c b gr).next

/-- Free the DEF record at a granule, in the pool that granted it; the releases of one fill are served together (R61). -/
def freeDef (s : State) (c b gran : Nat) : State :=
  let at_ := fun (p : Pool) => p.pmap.find? fun e => e.2.v && e.2.base.toNat == gran
  match (s.bay c b).pools.find? fun e => e.2.kind == 2#2 && (at_ e.2).isSome with
  | some (pid, p) => yieldBuf s c b pid (((at_ p).map Prod.fst).getD 0)
  | none => s

/-- One reader of a filled word is answered: its token is internal to the waiting cast, whose outstanding load ends
(R230). The record of an ILD with no D0 names no destination, as a void one does: its value goes by the ILD's own TG, to RDEST
under RETURN (notes/assumptions/126.md, DEDUCED). -/
def answerReader (s : State) (c b a : Nat) (d : DefRec) (v : Nat) : State :=
  let dst := BitVec.ofNat 21 d.dest
  let plain_ := d.dest != 0x1FFFFF
  match s.frame? c b d.ft with
  | none => s
  | some f =>
    match f.cast.bind fun k => (listedIlds k).find? fun p =>
        p.r.d0 == dst && p.fir.it.toNat == d.it && (plain_ || ildWord s p == some a) with
    | none => s
    | some p =>
      let s := s.modCast c b d.ft fun k =>
        { k with waits := k.waits.erase p
                 wave := k.wave.map fun w => if w.pend == p then { w with performed := true } else w }
      if !plain_ then emitVals s p.r p.fir (s.eBit p.fir) (some (BitVec.ofNat 512 v, false)) none
      else
        let t := mkTok s p.fir (s.eBit p.fir) s.sideband.stackNo.toNat c d.ft d.it dst false (BitVec.ofNat 512 v, false)
        { s with transit := s.transit ++ [{ t with internal := true }] }

/-- The fill of a structure word (R230): the value and FULL, then each reader of the list, which is freed. -/
def fillWord (s : State) (a v : Nat) : State :=
  let t := s.stag a
  let (c, b) := homeOf a
  let s := writeBytes s ((List.range 8).map (a + ·) |>.zip (leBytes 8 v))
  let s := s.setStag a { t with full := true, res := false, wait := false, head := none, tail := none }
  let grs := if t.wait then defList s c b 61441 (t.head.map BitVec.toNat) else []
  grs.foldl (fun s gr => freeDef (answerReader s c b a (defGet s c b gr) v) c b gr) s

/-- The records of a cast's listed ILDs are made void when it aborts (R229). -/
def voidReaders (s : State) (c b ft : Nat) : State :=
  match s.cast? c b ft with
  | none => s
  | some k =>
    (listedIlds k).foldl (fun s p =>
      match ildWord s p with
      | none => s
      | some a =>
        let t := s.stag a
        (defList s c b 61441 (t.head.map BitVec.toNat)).foldl (fun s gr =>
          let d := defGet s c b gr
          if d.ft = ft ∧ d.dest = p.r.d0.toNat ∧ d.it = p.fir.it.toNat then
            defPut s c b gr d.ft d.it 0x1FFFFF#21 d.next
          else s) s) s

/-- The words that a cast's ISTs reserve, before step 1 (R230); none when one is full or reserved. -/
def reserveWords (s : State) : List Pend → Option State
  | [] => some s
  | p :: rest =>
    if p.op = 0xA3 ∧ firingP p.fir = false then
      match ildWord s p with
      | some a =>
        let t := s.stag a
        if t.full || t.res then none else reserveWords (s.setStag a { t with res := true }) rest
      | none => reserveWords s rest
    else reserveWords s rest

/-- The words that held ISTs name, by address. -/
def istWords (s : State) (held : List Pend) : List Nat :=
  held.filterMap fun p => if p.op = 0xA3 ∧ firingP p.fir = false then ildWord s p else none

/-- The reservations of ISTs that will not be performed are given up. -/
def unreserveWords (s : State) (held : List Pend) : State :=
  (istWords s held).foldl (fun s a => s.setStag a { (s.stag a) with res := false }) s

/-- IST or ICLR at its home (R230, R231). An ICLR waits for a reservation of another cast. -/
def performStruct (s : State) (p : Pend) : Written :=
  let g := p.fir
  let x := structAddr p.r g
  if firingP g then .done (poisonMem s p.r g x)
  else
    match land s g x 8 8 clsStruct with
    | .waits => .waits
    | .home k code o a => .home k code o a
    | .lost s => .done s
    | .at_ s as =>
      let a := as.headD 0
      if p.op = 0xA3 then .done (fillWord s a (g.b.getD (plain 0)).word)
      else
        let t := s.stag a
        let mine := match s.cast? g.course.toNat g.bay g.ft.toNat with
          | some k => (istWords s k.held).contains a
          | none => false
        if t.res && !mine then .waits
        else if t.full then
          .done ((writeBytes s (as.zip (leBytes 8 0))).setStag a { t with full := false })
        else .done s

/-! ### Combining (R232 to R234) -/

/-- Bytes of a combine access, and its alignment. -/
def cmbBytes (r : NodeRec) : Nat := if r.pl then 64 else ctlBytes r

/-- CMB acts: B at once, its partial at commit (R232). The count is checked before R212's checks of the address, an order that the
spec leaves open (notes/assumptions/127.md, DESIGN CHOICE). -/
def execCmb (r : NodeRec) (s : State) : Host.Outcome State Fault Refusal :=
  let g := s.firing
  let b := g.b.getD (plain 0)
  let n := cmbBytes r
  let x := addrPlus (g.a.getD (plain 0)).word (litOff r * n)
  let ac := (g.a.getD (plain 0)).p || (g.c.getD (plain 0)).p
  .next (actNode s r (argsOf 3 g 0) fun s => waveNode s 0xA5 r fun s =>
    if ac then emitData (holdWrite s 0xA5 r) r g b.val true
    else
      let cw := (g.c.getD (plain 0)).word
      if cw / 2 ^ 5 ≠ 0 ∨ cw = 0 ∨ 16 < cw then memFault s r g kPROT 10 g.cx.toNat x
      else writeChecked s 0xA5 r x n n clsStore fun s => emitData (holdWrite s 0xA5 r) r g b.val b.p)

/-- The home unit of a cell's address, for the limit of 64 cells: a bay store, or one of the 24 controllers, over which
blocks of 256 bytes of far memory rotate (R313); of another stack for a pod address that names one. -/
def cellHome (a : Nat) : Nat :=
  if isHandle a then (handleOf a).course * 256 + (handleOf a).bay
  else
    let o := stackAddr a
    (if isPodPA a then (a / 2 ^ 45 % 1024 + 1) * 2 ^ 21 else 0) + (if isNearPA o then o / 2 ^ 20 else 2 ^ 20 + (o - farBase) / 256 % 24)

/-- The order of R156: ascending IT, then sender element address, then node; the rule names no course, which breaks what ties
are left (notes/assumptions/104.md). -/
def partialBefore (x y : Partial) : Bool :=
  if x.it != y.it then itOlder x.it.toNat y.it.toNat
  else
    let k := fun (z : Partial) => z.unit.toNat * 2 ^ 10 + z.node.toNat * 2 ^ 4 + z.course.toNat
    decide (k x < k y)

/-- A partial takes its place among the others; before one of its own rank (notes/assumptions/104.md, DESIGN CHOICE). -/
def insertPartial (x : Partial) : List Partial → List Partial
  | [] => [x]
  | y :: l => if partialBefore y x then y :: insertPartial x l else x :: y :: l

/-- Fold lane values pairwise with an operation, flags gathered. -/
def zipLanes (f : Nat → Nat → Nat × Flags) : List Nat → List Nat → List Nat × Flags
  | a :: as, b :: bs =>
    let x := f a b
    let y := zipLanes f as bs
    (x.1 :: y.1, x.2 ||| y.2)
  | _, _ => ([], 0)

/-- The lanes of a payload for a cell: all on the data plane, one on the control plane. -/
def cellLanes (x : Cell) (v : Nat) : List Nat :=
  let w := tyWidth x.ty.toNat
  if x.pl then lanesOf w (BitVec.ofNat 512 v) else [v % 2 ^ w]

/-- The bytes of a cell's word where they are when it releases: in a buffer's room, or in its image while it is spilled (R55);
none once the buffer is freed. -/
def cellBytes (s : State) (x : Cell) (n : Nat) : List Nat :=
  if isHandle x.pa then
    match s.handleEntry x.cx.toNat x.pa n with
    | .error _ => []
    | .ok e => if e.sp then imageBytes s x.cx.toNat x.pa n e else bufBytes x.pa e n
  else (List.range n).map (x.pa + ·)

/-- A cell releases (R233, R234): one update of the folded partials, or a POISON record when one is poisoned. -/
def releaseCell (s : State) (x : Cell) : State :=
  match x.parts.find? Partial.p with
  | some q =>
    softRec s { FaultRec.zero with
      kind := BitVec.ofNat 5 kPOISON, site := BitVec.ofNat 3 sRECORD, soft := true, ocx := x.cx, course := q.course,
      bay := BitVec.ofNat 8 (elBay q.unit.toNat), unit := q.unit, node := q.node, stack := s.sideband.stackNo, ft := q.ft,
      it := q.it, wave := BitVec.ofNat 7 q.own, str := q.str, strv := true, addr := x.addr } q.inFault none
  | none =>
    let t := x.ty.toNat
    let w := tyWidth t
    let n := if x.pl then 64 else w / 8
    let as := cellBytes s x n
    match x.parts.foldl (fun l q => insertPartial q l) [] with
    | [] => s
    | q :: qs =>
      let comb := qs.foldl (fun acc y =>
        let z := zipLanes (cmbLane t x.var.toNat) acc.1 (cellLanes x y.val.toNat)
        (z.1, acc.2 ||| z.2)) (cellLanes x q.val.toNat, (0 : Flags))
      let mem := cellLanes x (leNat (readBytes s as))
      let out := zipLanes (cmbLane t x.var.toNat) mem comb.1
      setFlags (writeBytes s (as.zip (leBytes n (lanesNat w out.1)))) x.cx.toNat (comb.2 ||| out.2)

/-- A partial in flight or waiting has the key of a cell (R233). -/
def cellKey (x : Cell) (p : Pend) (pa : Nat) : Bool :=
  x.cx == p.fir.cx && x.pa == pa && x.var == p.r.var && x.ty == p.r.ty && x.pl == p.r.pl

/-- The operand address of a combine. -/
def cmbAddr (p : Pend) : Nat := addrPlus (p.fir.a.getD (plain 0)).word (litOff p.r * cmbBytes p.r)

/-- The address by which a partial joins its cell: the handle of a buffer that is not moving, or the physical address when
the translation stands. -/
def partialPA (s : State) (p : Pend) : Option Nat :=
  let g := p.fir
  let n := cmbBytes p.r
  let x := cmbAddr p
  if isHandle x then
    match s.handleEntry g.cx.toNat x n with
    | .ok e => if e.mv || e.lost then none else some x
    | .error _ => none
  else
    match s.access g.course.toNat g.bay g.cx.toNat x n n clsStore true with
    | .ok (a :: _) _ _ => some a
    | _ => none

/-- The number of partials that a CMB asks for. -/
def partialN (p : Pend) : Nat := (p.fir.c.getD (plain 0)).word % 32

/-- A partial at its home joins the open cell of its key, opens one, or waits (R233). -/
def joinCell (s : State) (p : Pend) (q : Partial) (pa : Nat) : Option State :=
  let n := partialN p
  match s.cells.find? fun x => cellKey x p pa with
  | some x =>
    if x.n ≠ n then none
    else
      let x' : Cell := { x with parts := x.parts ++ [q], idle := 0 }
      if x'.parts.length < n then some { s with cells := s.cells.map fun y => if cellKey y p pa then x' else y }
      else some (releaseCell { s with cells := s.cells.filter fun y => !(cellKey y p pa) } x')
  | none =>
    let h := cellHome pa
    let g := p.fir
    let x : Cell := { cx := g.cx, pa := pa, addr := BitVec.ofNat 64 (cmbAddr p), home := h, var := p.r.var, ty := p.r.ty, pl := p.r.pl, n := n, parts := [q], idle := 0 }
    if 64 ≤ (s.cells.filter fun y => y.home == h).length then none
    else if n = 1 then some (releaseCell s x)
    else some { s with cells := s.cells ++ [x] }

/-- The buffer of a cell's address is moving, which a release through it waits for (R55). -/
def cellMoving (s : State) (cx pa n : Nat) : Bool :=
  isHandle pa && (match s.handleEntry cx pa n with | .ok e => e.mv | .error _ => false)

/-- Partials that wait at homes, each listed with one more than its address there, join as places free, in their order
(R233, R234). -/
def rejoinCells : List (Nat × Pend × Partial) → State → State
  | [], s => s
  | e :: rest, s =>
    if e.1 = 0 ∨ cellMoving s e.2.1.fir.cx.toNat (e.1 - 1) (cmbBytes e.2.1.r) = true then rejoinCells rest s
    else
      match joinCell { s with cellWaits := s.cellWaits.erase e } e.2.1 e.2.2 (e.1 - 1) with
      | some s' => rejoinCells rest s'
      | none => rejoinCells rest s

def scanCells (s : State) : State := rejoinCells s.cellWaits s

/-- A held CMB in its wave place (R232): its partial sets out for its home, and the commit goes on once it is there. -/
def performCmb (s : State) (p : Pend) : Written :=
  let g := p.fir
  let n := cmbBytes p.r
  let x := cmbAddr p
  if (g.a.getD (plain 0)).p || (g.c.getD (plain 0)).p then .done (poisonMem s p.r g x)
  else if s.cellWaits.any (fun e => e.1 == 0 && e.2.1 == p) then .waits
  else
    match land s g x n n clsStore with
    | .waits => .waits
    | .home k code o a => .home k code o a
    | .lost s => .done s
    | .at_ s _ =>
      let b := g.b.getD (plain 0)
      let q : Partial := { it := g.it, course := g.course, unit := g.unit, node := g.node, val := b.val, p := b.p, ft := g.ft, own := litOwn p.r,
                           acq := litOrd p.r == 1 || litOrd p.r == 3, str := s.strandOf g, inFault := s.inFaultFrame g }
      .sent { s with cellWaits := s.cellWaits ++ [(0, p, q)] }

/-! ### Fences and barriers -/

/-- FENCE: A at once, a place in the wave chain (R235). One with release also stands among the held writes, which it
orders. -/
def execFence (r : NodeRec) (s : State) : Host.Outcome State Fault Refusal :=
  let g := s.firing
  let a := argsOf 0 g 0
  .next (actNode s r a fun s => waveNode s 0xA6 r fun s =>
    let rel := litOrd r == 2 || litOrd r == 3
    let s := if rel then holdWrite s 0xA6 r else waveIn s 0xA6 r false true
    emitWord s r g a.a.word a.p)

/-- A Ridge write of a strand that has not gone out from its course (R339). -/
def strandQueued (s : State) (c : Nat) (cx : BitVec 12) (str : BitVec 11) : Bool :=
  (s.crs c).port.any fun w => w.cx == cx && w.str == str

/-- A control word of a strand is not performed: an arrival that its course has not sent (R341), or a PUBLISH that the mirrors
have not applied (R342). -/
def strandWords (s : State) (c : Nat) (cx : BitVec 12) (str : BitVec 11) : Bool :=
  let mine := fun (kind : Nat) (w : CtlWord) => w.word.toNat / 2 ^ 61 == kind && w.cx == cx && w.str == str
  (s.crs c).ctl.any (fun w => mine 1 w || mine 2 w)
    || s.changes.any fun x => x.src.toNat == c && (x.ctl.map (mine 2)).getD false

/-- A release on the Ridge itself waits: an earlier RDG.ST of its strand has not gone out, or another earlier access of the
strand, a BAR.arrive or a PUBLISH, is not performed (R244, R339). What comes before it in its strand on other courses is
performed, since the token that entered its cast is a release of it (R31, R322): what else stands at other ports is unordered. -/
def ridgeHeld (s : State) (c : Nat) (cx : BitVec 12) (str : BitVec 11) : Bool := strandQueued s c cx str || strandWords s c cx str

/-- A Ridge access of a strand that is not performed: by the mirrors for a write or a PUBLISH, by the course for an arrival. -/
def strandUnapplied (s : State) (c : Nat) (cx : BitVec 12) (str : BitVec 11) : Bool :=
  ridgeHeld s c cx str || s.changes.any fun x => x.src.toNat == c && x.by_.any fun k => k.1 == cx && k.2 == str

/-- A held write is suppressed by a poisoned operand. A CMB whose partial alone is poisoned is sent all the same (R232), and
a FENCE orders whatever its trigger carries (R235). -/
def suppressed (p : Pend) : Bool :=
  if p.op = 0xA5 then (p.fir.a.getD (plain 0)).p || (p.fir.c.getD (plain 0)).p
  else if p.op = 0xA6 then false
  else firingP p.fir

/-- A held record with release, at whatever scope, waits until every Ridge write of its strand is performed, which is when
the mirrors apply it (R216, R322, R338; notes/assumptions/33.md). What goes out on the Ridge itself waits by R339. -/
def relHeld (s : State) (p : Pend) : Bool :=
  let onRidge := p.op == 0xA9 || p.op == 0xAA || ((p.op == 0xA7 || p.op == 0xA8) && litScope p.r == 4)
  !onRidge && !(suppressed p) && (litOrd p.r == 2 || litOrd p.r == 3) && strandUnapplied s p.fir.course.toNat p.fir.cx (s.strandOf p.fir)

/-- A release fence among the writes, in its place (R235). -/
def performFence (s : State) (_ : Pend) : Written := .done s

/-- The unit of a barrier's scope that holds a firing's element (R236). -/
def barUnit (g : Firing) (scope : Nat) : Nat :=
  match scope with
  | 1 => g.course.toNat * 256 + g.bay
  | 2 => g.course.toNat
  | _ => 0

/-- The instance of a barrier; one that no arrival has met stands at phase 0. -/
def State.barrier (s : State) (cx : BitVec 12) (scope num unit : Nat) : Barrier :=
  (s.barriers.find? fun x => x.cx == cx && x.scope.toNat == scope && x.num.toNat == num && x.unit == unit).getD
    { cx := cx, scope := BitVec.ofNat 3 scope, num := BitVec.ofNat 6 num, unit := unit, phase := 0, count := 0, arrivals := 0, due := [] }

def State.setBarrier (s : State) (x : Barrier) : State :=
  let same := fun (y : Barrier) => y.cx == x.cx && y.scope == x.scope && y.num == x.num && y.unit == x.unit
  if s.barriers.any same then { s with barriers := s.barriers.map fun y => if same y then x else y }
  else { s with barriers := s.barriers ++ [x] }

/-- A phase of a barrier has completed (R236, R238). -/
def Barrier.completed (x : Barrier) (ph : BitVec 16) : Bool := itOlder ph.toNat x.phase.toNat && !(x.due.any fun d => d.1 == ph)

/-- Cycles from the last arrival of a phase to its completion, by scope (R44): 900 ns in the pod. On the Ridge the applied
control word completes it. -/
def barrierDelay (scope : Nat) : Nat :=
  match scope with
  | 1 => 4
  | 2 => 24
  | 3 => 48
  | 5 => 1260
  | _ => 0

/-- One arrival with a count in a cycle: the phase joined, whether the count differs, and the instance after (R237). -/
def Barrier.arrive (x : Barrier) (count now : Nat) : BitVec 16 × Bool × Barrier :=
  let first := x.arrivals == 0
  let cnt := if first then count else x.count
  let n := x.arrivals + 1
  (x.phase, !first && cnt != count,
    if cnt ≤ n then { x with phase := x.phase + 1, count := 0, arrivals := 0, due := x.due ++ [(x.phase, now + barrierDelay x.scope.toNat)] }
    else { x with count := cnt, arrivals := n })

/-- BAR.arrive: held to commit, its phase word sent outside the cast (R237). -/
def execBarArrive (r : NodeRec) (s : State) : Host.Outcome State Fault Refusal :=
  let g := s.firing
  .next (actNode s r (argsOf 1 g 0) fun s => waveNode s 0xA7 r fun s =>
    if !(firingP g) && (g.b.getD (plain 0)).word % 2 ^ 16 == 0 then memFault s r g kPROT 11 g.cx.toNat 0
    else holdWrite s 0xA7 r)

/-- The barrier number of a record: OFF's six bits (R123). -/
def barNum (r : NodeRec) : Nat := bitsAt r.lit 0 6

/-- BAR.wait: A when its phase has completed (R238). -/
def execBarWait (r : NodeRec) (s : State) : Host.Outcome State Fault Refusal :=
  let g := s.firing
  let a := g.a.getD (plain 0)
  .next (actNode s r (argsOf 0 g 0) fun s => waveNode s 0xA7 r fun s =>
    if a.p then emitNothing (waveMark s 0xA7 r false true) r g true false
    else
      let x := s.barrier g.cx (litScope r) (barNum r) (barUnit g (litScope r))
      if x.completed (BitVec.ofNat 16 a.word) then emitWord (waveMark s 0xA7 r false true) r g a.word false
      else waitAgain (waveMark s 0xA7 r false false) 0xA7 r)

/-- The soft record of an arrival whose count differs (R237). -/
def countRec (s : State) (r : NodeRec) (g : Firing) : FaultRec :=
  { recOf s g kPROT sRECORD 12 true with wave := BitVec.ofNat 7 (litOwn r) }

/-- A course queues a control word, of at most 64 (R340). -/
def queueCtl (s : State) (c : Nat) (w : CtlWord) : Option State :=
  if 64 ≤ (s.crs c).ctl.length then none else some (s.modCrs c fun y => { y with ctl := y.ctl ++ [w] })

/-- Guard notes are reported (R394): those of a strand at its next BAR.arrive, those of a context when its kernel ends. -/
def reportGuards (s : State) (f : GuardNote → Bool) : State :=
  let hits := s.guardNotes.filter f
  hits.foldl (fun s g => softRec s g.info false none) { s with guardNotes := s.guardNotes.filter fun g => !(f g) }

/-- The notes of a strand. -/
def strandGuards (s : State) (cx : BitVec 12) (str : BitVec 11) : State :=
  if s.guardNotes.isEmpty then s else reportGuards s fun n => n.cx == cx && n.info.str == str

/-- A held BAR.arrive in its wave place (R237, R339, R341). -/
def performArrive (s : State) (p : Pend) : Written :=
  let g := p.fir
  let r := p.r
  if firingP g then .done (emitVals (poisonRec s g 8) r g false (some (0#512, true)) (some (0#512, true)))
  else
    let count := (g.b.getD (plain 0)).word % 2 ^ 16
    let scope := litScope r
    let str := s.strandOf g
    if scope = 4 then
      if litOrd r = 2 ∧ ridgeHeld s g.course.toNat g.cx str = true then .waits
      else
        let w := 2 ^ 61 + g.cx.toNat * 2 ^ 49 + barNum r * 2 ^ 43 + count * 2 ^ 11 + g.course.toNat * 2 ^ 6
        match queueCtl s g.course.toNat
            { word := BitVec.ofNat 64 w, beat := s.beat, page := 0, cx := g.cx, str := str,
              toks := laterToks s r g true true, note := some (countRec s r g), sender := some g } with
        | some s' => .done s'
        | none => .waits
    else
      let (ph, differs, x) := (s.barrier g.cx scope (barNum r) (barUnit g scope)).arrive count s.cycles
      let s := strandGuards (s.setBarrier x) g.cx str
      let s := if differs then softRec s (countRec s r g) (s.inFaultFrame g) (some (g.course, BitVec.ofNat 8 g.bay, g.ft)) else s
      .done (emitVals s r g false (word64 ph.toNat) (word64 ph.toNat))

/-! ### Shadow pages (R239 to R241) -/

/-- The code of a shadow record's failure: a page that is not shadow-capable is PROT 9 (R247). -/
def shadowCode (kind code : Nat) : Nat := if kind = kPROT ∧ code = 7 then 9 else code

/-- A is a virtual address of a shadow-capable page: anything else is PROT 9 for SHADOW, and for PUBLISH what R212 finds, an
alias or a page of another class being PROT 9 (R239, R241). A miss of the cache is walked. -/
def shadowChecked (s : State) (op : Nat) (r : NodeRec) (write : Bool) (act : State → State) : State :=
  let g := s.firing
  let x := (g.a.getD (plain 0)).word
  let x := if op = 0xA8 then addrPlus x (litOff r) else x
  if addrKind x = .shadowAlias ∨ (op = 0xA9 ∧ addrKind x ≠ .virt) then memFault s r g kPROT 9 g.cx.toNat x
  else
    match s.access g.course.toNat g.bay g.cx.toNat x 1 1 clsShadow write with
    | .bad k code owner => memFault s r g k (shadowCode k code) owner x
    | .miss va other => joinWalk s g.course.toNat g.cx.toNat va other (pendOf op r g)
    | _ => act (s.usePages g x 1)

/-- SHADOW: the alias at once; with CP = 1 the copy is held with the cast's writes (R239). -/
def execShadow (r : NodeRec) (s : State) : Host.Outcome State Fault Refusal :=
  let g := s.firing
  let a := g.a.getD (plain 0)
  let cp := bitAt r.lit 0
  let hold := fun (s : State) =>
    if cp then s.modOwn g fun k => { k with held := k.held ++ [pendOf 0xA9 r g] } else s
  .next (actNode s r (argsOf 0 g 0) fun s =>
    let alias_ := 0xE0 * 2 ^ 56 + a.word % 2 ^ 56
    if a.p then emitWord (hold s) r g alias_ true
    else shadowChecked s 0xA9 r cp fun s => emitWord (hold s) r g alias_ false)

/-- The bytes of one copy of the page of an address: the live one, or the shadow. -/
def copyBytes (s : State) (o : XOk) (va : Nat) (shadow : Bool) : List Nat :=
  let q := o.copy s shadow
  (List.range o.size).map fun i => s.localPA (pageByte q.1 q.2.1 (q.2.2 - va % o.size + i))

/-- A held SHADOW copies the live copy into the other (R239). -/
def performShadow (s : State) (p : Pend) : Written :=
  let g := p.fir
  let x := (g.a.getD (plain 0)).word
  if firingP g then .done (poisonRec s g 8)
  else
    match s.walk g.cx.toNat (x % 2 ^ 56) with
    | .error e => .home e.kind e.code e.owner x
    | .ok o =>
      let src := copyBytes s o (x % 2 ^ 56) false
      let dst := copyBytes s o (x % 2 ^ 56) true
      if (src ++ dst).any s.unreachable then .home kPAGE 8 g.cx.toNat x
      else .done (writeBytes (setDirty (fetchPage s g.course.toNat g.bay g.cx.toNat (x % 2 ^ 56)) g.course.toNat g.bay g.cx.toNat (x % 2 ^ 56))
        (dst.zip (readBytes s src)))

/-- PUBLISH: A at once, the flip at commit (R241). -/
def execPublish (r : NodeRec) (s : State) : Host.Outcome State Fault Refusal :=
  let g := s.firing
  let a := g.a.getD (plain 0)
  .next (actNode s r (argsOf 0 g 0) fun s => waveNode s 0xA8 r fun s =>
    if a.p then emitWord (holdWrite s 0xA8 r) r g a.word true
    else shadowChecked s 0xA8 r true fun s => emitWord (holdWrite s 0xA8 r) r g a.word false)

/-- A page's selector flips; `base` is the first byte of its first copy (R240). -/
def flipSelector (s : State) (base : Nat) : State :=
  if (lkp s.selectors base).getD false then { s with selectors := del s.selectors base }
  else { s with selectors := put s.selectors base true }

/-- A held PUBLISH in its wave place (R241, R339, R342). -/
def performPublish (s : State) (p : Pend) : Written :=
  let g := p.fir
  let x := addrPlus (g.a.getD (plain 0)).word (litOff p.r)
  let str := s.strandOf g
  if firingP g then .done (poisonRec s g 8)
  else
    match s.walk g.cx.toNat (x % 2 ^ 56) with
    | .error e => .home e.kind e.code e.owner x
    | .ok o =>
      let base := o.sel
      let page := x % 2 ^ 56 / o.size * o.size
      if s.unreachable base then .home kPAGE 8 g.cx.toNat x
      else if litScope p.r = 4 then
        if ridgeHeld s g.course.toNat g.cx str then .waits
        else
          let w := 2 * 2 ^ 61 + g.cx.toNat * 2 ^ 49 + page / 2 ^ 18 % 2 ^ 38 * 2 ^ 11 + g.course.toNat * 2 ^ 6 + page / 2 ^ 16 % 4
          match queueCtl s g.course.toNat { word := BitVec.ofNat 64 w, beat := s.beat, page := base, cx := g.cx, str := str, toks := [], note := none } with
          | some s' => .done s'
          | none => .waits
      else .done (flipSelector s base)

end Sys2Proof.Machine
end

