-- ==== Sys2Proof/Machine/Gates.lean ====
section
/-! DEFINITION. Sys2Proof/Machine/Gates.lean: the gate records (R265 to R275) and the streams of a gate. -/

namespace Sys2Proof.Machine

/-! ### Patterns (R265) -/

/-- Elements of a pattern. -/
def Pattern.size (p : Pattern) : Nat := (p.dims.map Prod.snd).foldl (· * ·) 1

/-- lo: the most negative offset. -/
def Pattern.lo (p : Pattern) : Int := (p.dims.map fun d => min 0 (d.1 * ((d.2 : Int) - 1))).sum

/-- The span: hi − lo. -/
def Pattern.span (p : Pattern) : Int := (p.dims.map fun d => max 0 (d.1 * ((d.2 : Int) - 1))).sum + p.es - p.lo

/-- Σ stride × index for the element of packed index n. -/
def patOff : List (Int × Nat) → Nat → Int
  | [], _ => 0
  | (st, ct) :: ds, n => st * ((n % ct : Nat) : Int) + patOff ds (n / ct)

/-- The byte offset of element n in the region. -/
def Pattern.off (p : Pattern) (n : Nat) : Nat := (patOff p.dims n - p.lo).toNat

/-- Beats of the packed stream. -/
def Pattern.beats (p : Pattern) : Nat := (p.size * p.es + 63) / 64

/-! ### Records -/

/-- Fields of a stream record's LIT (R266). -/
def gatePat (r : NodeRec) : Nat := bitsAt r.lit 24 8
def gateSc (op : Nat) (r : NodeRec) : Nat := if op < 0xB4 then bitsAt r.lit 22 2 else bitsAt r.lit 0 2
def gateLen (r : NodeRec) : Nat := 64 * bitsAt r.lit 0 22

/-- The linkage that a gate's request holds: of a FEED its frame's as it stands at issue, which the frames of its beats get
(R270, R458), of another its frame's with the strand of its cast. -/
def gateLink (s : State) (op : Nat) (g : Firing) : Link := if op = 0xB2 then s.linkOf g else s.ownLink g

/-- A gate record acts: its request is sent at commit, with the tags of its completion taken now (R266, R267). D0 of a FEED has
the data plane, also when it acts on nothing (R119, R270). -/
def gateNode (op : Nat) (r : NodeRec) (s : State) : State :=
  let g := s.firing
  let z := fun (p : Bool) => some ((0#512 : Payload), p)
  actWith s r (argsOf r.ar.toNat g 0) (fun p e => emitOn s r g e (op == 0xB2 || r.pl) r.pl (z p) (z p)) fun s =>
    s.modOwn g fun k => { k with after := k.after ++ [{ pend := pendOf op r g, link := gateLink s op g, toks := laterToks s r g (op != 0xB2) true }] }

/-- GATE.LOAD (R269). -/
def execGateLoad (r : NodeRec) (s : State) : Host.Outcome State Fault Refusal := .next (gateNode 0xB0 r s)
/-- GATE.STORE (R269). -/
def execGateStore (r : NodeRec) (s : State) : Host.Outcome State Fault Refusal := .next (gateNode 0xB1 r s)
/-- GATE.FEED (R270). -/
def execGateFeed (r : NodeRec) (s : State) : Host.Outcome State Fault Refusal := .next (gateNode 0xB2 r s)
/-- GATE.DRAIN (R271). -/
def execGateDrain (r : NodeRec) (s : State) : Host.Outcome State Fault Refusal := .next (gateNode 0xB3 r s)
/-- GATE.FENCE (R272). -/
def execGateFence (r : NodeRec) (s : State) : Host.Outcome State Fault Refusal := .next (gateNode 0xB4 r s)
/-- GATE.CANCEL (R275). -/
def execGateCancel (r : NodeRec) (s : State) : Host.Outcome State Fault Refusal := .next (gateNode 0xB6 r s)

/-- Elements that a stream has moved: those that SKIP left out do not count (R269, R274). -/
def Stream.moved (x : Stream) : Nat :=
  if x.pend.op = 0xB3 then (x.doneEls.filter fun n => !(x.skipped.contains n)).length
  else x.pos - (x.skipped.filter fun n => decide (n < x.pos)).length

/-- The word of GATE.QRY for a stream context (R275). -/
def qryWord (cx : BitVec 12) (st : Option Stream) : Nat :=
  match st with
  | none => 0
  | some x =>
    if x.pend.fir.cx != cx then 0
    else x.state * 2 ^ 62 + (x.pend.op - 0xB0) * 2 ^ 59 + x.moved % 2 ^ 32

/-- GATE.QRY: at issue (R275). -/
def execGateQry (r : NodeRec) (s : State) : Host.Outcome State Fault Refusal :=
  let g := s.firing
  let a := argsOf 0 g 0
  .next (actNode s r a fun s =>
    emitWord s r g (qryWord g.cx (lkp (s.bay g.course.toNat g.bay).streams (bitsAt r.lit 0 2))) a.p)

/-! ### Fences -/

/-- Fences that no earlier stream holds complete: each emits its A (R272). -/
def scanFences (s : State) (c b : Nat) : State :=
  let y := s.bay c b
  let free := fun (f : Nat × List Transit × Word) => y.streams.all fun x => decide (f.1 < x.2.order)
  let done := y.fences.filter free
  let s := s.setBay c b { y with fences := y.fences.filter fun f => !(free f) }
  done.foldl (fun s f => sendLater s f.2.1 f.2.2.toNat false) s

/-- A stream context is freed. -/
def freeStream (s : State) (c b sc : Nat) : State :=
  scanFences (s.modBay c b fun y => { y with streams := del y.streams sc }) c b

/-! ### Streams -/

def modStream (s : State) (c b sc : Nat) (f : Stream → Stream) : State :=
  s.modBay c b fun y => match lkp y.streams sc with
    | some x => { y with streams := put y.streams sc (f x) }
    | none => y

/-- A fault of a stream: its record names the gate, the stream context and the position (R253 form, R268, R274). -/
def gateFault (s : State) (c b sc : Nat) (x : Stream) (kind code owner addr pos : Nat) : State :=
  let g := x.pend.fir
  let rc : FaultRec := { FaultRec.zero with
    kind := BitVec.ofNat 5 kind, site := BitVec.ofNat 3 sENGINE, ocx := g.cx, aux := BitVec.ofNat 16 code, course := BitVec.ofNat 4 c,
    bay := BitVec.ofNat 8 b, unit := BitVec.ofNat 13 (0x1100 + b), node := BitVec.ofNat 6 sc, stack := s.sideband.stackNo,
    ft := g.ft, it := g.it, str := x.link.str, strv := true, addr := BitVec.ofNat 64 addr, pos := BitVec.ofNat 32 pos }
  let s := modStream s c b sc fun x => { x with state := 3 }
  fileFault s owner false rc (.gate (BitVec.ofNat 4 c) (BitVec.ofNat 8 b) (BitVec.ofNat 2 sc))

/-- The memory origin of a stream: GATE.STORE has it in B. -/
def gateOrigin (x : Stream) : Nat := ((if x.pend.op = 0xB1 then x.pend.fir.b else x.pend.fir.a).getD (plain 0)).word

/-- The buffer handle of a LOAD (B) or STORE (A). -/
def gateBuffer (x : Stream) : Nat := ((if x.pend.op = 0xB0 then x.pend.fir.b else x.pend.fir.a).getD (plain 0)).word

/-- A stream writes to memory: STORE and DRAIN. -/
def gateWrites (x : Stream) : Bool := x.pend.op == 0xB1 || x.pend.op == 0xB3

def gateCls (x : Stream) : Nat := if gateWrites x then clsStore else clsLoad

/-- What binding finds (R268, R270). -/
inductive Bound where
  | ok
  | held
  | pull (va : Nat)
  | bad (kind code owner addr : Nat)

/-- The region of a stream passes R212 as one access. -/
def bindRegion (s : State) (x : Stream) : Bound :=
  let a := gateOrigin x
  let n := gateLen x.pend.r
  let cx := x.pend.fir.cx.toNat
  match addrKind a with
  | .bad => .bad kPROT 0 cx a
  | .handle =>
    match s.handleEntry cx a n with
    | .error code => .bad kPROT code cx a
    | .ok e => if e.mv || e.sp then .held else .ok
  | k =>
    match virtPages s cx (gateCls x) (gateWrites x) (k == .shadowAlias) true (n / 2 ^ 16 + 2) (a % 2 ^ 56) n with
    | some (.bad k c o va) => .bad k c o va
    | some (.pull va) => .pull va
    | _ => .ok

/-- The buffer of a LOAD or STORE (R268), or the feed word of a FEED (R270). -/
def bindRest (s : State) (c b : Nat) (x : Stream) (pat : Pattern) : Bound :=
  let cx := x.pend.fir.cx.toNat
  if x.pend.op = 0xB0 ∨ x.pend.op = 0xB1 then
    let w := gateBuffer x
    let h := handleOf w
    let isBuf := isHandle w && h.course == c && h.bay == b && ((s.pool? c b h.pool).map fun p => p.kind == 1#2).getD false
    if !isBuf then .bad kPROT 14 cx w
    else
      match s.handleEntry cx w (pat.size * pat.es) with
      | .error code => .bad kPROT code cx w
      | .ok e => if e.mv || e.sp then .held else .ok
  else if x.pend.op = 0xB2 then
    let w := (x.pend.fir.b.getD (plain 0)).word
    let poolOk := match s.pool? c b (w % 8) with
      | some p => p.kind == 0#2 && p.cx == x.pend.fir.cx
      | none => false
    let mapOk := match s.planeOf cx c x.pend.fir.unit.toNat with
      | some p => p.blocks.any fun k => k.course == c && k.bay == b && k.maps.contains (w / 2 ^ 8 % 256)
      | none => false
    if w / 2 ^ 16 ≠ 0 ∨ w / 2 ^ 4 % 16 ≠ 0 ∨ poolOk = false ∨ mapOk = false then .bad kPROT 15 cx 0 else .ok
  else .ok

/-- A stream that a fence taken before it still holds (R272). -/
def fenced (y : Bay) (x : Stream) : Bool := y.fences.any fun f => decide (f.1 < x.order)

/-- A FEED asks for the frame of its next beat (R270). -/
def askFrame (s : State) (c b sc : Nat) (x : Stream) : State :=
  let w := (x.pend.fir.b.getD (plain 0)).word
  match s.mapOf x.pend.fir.cx.toNat c x.pend.fir.unit.toNat (w / 2 ^ 8 % 256) with
  | none => s
  | some m =>
    let s := modStream s c b sc fun x => { x with parked := true, state := 1 }
    joinPool s c b (w % 8)
      { party := .stream sc, pend := x.pend, size := m.gran, nslots := m.slots, dmask := m.dmask, map := BitVec.ofNat 8 (w / 2 ^ 8 % 256),
        cs := w / 8 % 2 == 1, ovt := 0, uc := 0, guard := false }

/-- Binding of a stream context's request (R268). -/
def bindStream (s : State) (c b sc : Nat) : State :=
  match lkp (s.bay c b).streams sc with
  | none => s
  | some x =>
    if x.state ≠ 1 ∨ x.count ≠ 0 then s
    else
      match (s.planeOf x.pend.fir.cx.toNat c x.pend.fir.unit.toNat).bind fun p => p.pats[gatePat x.pend.r]? with
      | none => s
      | some pat =>
        match bindRegion s x with
        | .held => s
        | .pull va => guestWalk s c x.pend.fir.cx.toNat va x.pend.fir
        | .bad k code o a => gateFault s c b sc x k code o a 0
        | .ok =>
          match bindRest s c b x pat with
          | .held | .pull _ => s
          | .bad k code o a => gateFault s c b sc x k code o a 0
          | .ok =>
            let x := { x with state := 2, count := pat.size, pat := pat, sels := s.selectors }
            let s := modStream s c b sc fun _ => x
            -- a pattern of no elements has nothing to move
            if x.count = 0 then freeStream (sendLater s x.toks 0 false) c b sc
            else if x.pend.op = 0xB2 then askFrame s c b sc x else s

/-- The state as a stream sees its selectors (R240). -/
def withSels (s : State) (x : Stream) : State := { s with selectors := x.sels }

/-- The addresses of element n in memory. -/
def elemRegion (s : State) (x : Stream) (n : Nat) : Region :=
  (withSels s x).region x.pend.fir.cx.toNat (addrPlus (gateOrigin x) (x.pat.off n)) x.pat.es 1 (gateCls x) (gateWrites x) false

/-- The addresses of packed bytes of a stream's buffer. -/
def packRegion (s : State) (x : Stream) (lo n : Nat) : Region :=
  s.region x.pend.fir.cx.toNat (addrPlus (gateBuffer x) lo) n 1 clsStore false false

/-- What moving one element gives. -/
inductive Moved where
  | ok (s : State) (lost : Bool)
  | held
  | pull (va : Nat)
  | bad (kind code owner addr : Nat)

/-- Element n of a LOAD or STORE moves (R269). -/
def moveElem (s : State) (c : Nat) (x : Stream) (n : Nat) : Moved :=
  match elemRegion s x n with
  | .held => .held
  | .pull va => .pull va
  | .bad k code o a => .bad k code o a
  | .ok as l1 cls =>
    match packRegion s x (n * x.pat.es) x.pat.es with
    | .held => .held
    | .pull va => .pull va
    | .bad k code o a => .bad k code o a
    | .ok bs l2 _ =>
      if x.pend.op = 0xB0 then
        if l2 then .ok (poisonRec s x.pend.fir 5) l1 else .ok (writeBytes s (bs.zip (s.readRegion c x.pend.fir.cx.toNat as cls))) l1
      else .ok (s.writeRegion x.pend.fir.cx.toNat (addrPlus (gateOrigin x) (x.pat.off n)) as (readBytes s bs)) l2

/-- A stream whose element's page is being pulled, or is homed on a sleeping course, waits for it (R432, R453). -/
def gatePull (s : State) (c : Nat) (x : Stream) (m : Moved) : State :=
  match m with
  | .pull va => needPage s c x.pend.fir.cx.toNat va x.pend.fir
  | _ => s

/-- Up to `fuel` elements of a LOAD or STORE move, in packed order, until one faults or waits. -/
def moveElems (c b sc : Nat) : Nat → State → State
  | 0, s => s
  | fuel + 1, s =>
    match lkp (s.bay c b).streams sc with
    | none => s
    | some x =>
      if x.count ≤ x.pos then s
      else
        match moveElem s c x x.pos with
        | .ok s' lost => moveElems c b sc fuel (modStream s' c b sc fun y => { y with pos := y.pos + 1, poisoned := y.poisoned || lost })
        | m => gatePull s c x m

/-- The elements of a drain that may be written now: those not written yet, in order, up to the first whose beats have not all
arrived, so that when element n faults those below it have been moved and none above it (R274). -/
def drainReady (x : Stream) : List Nat :=
  ((List.range x.count).filter fun n => !(x.doneEls.contains n)).takeWhile fun n =>
    (lkp x.beats (n * x.pat.es / 64)).isSome && (lkp x.beats ((n * x.pat.es + x.pat.es - 1) / 64)).isSome

/-- Byte i of a drain's packed stream. -/
def drainByte (x : Stream) (i : Nat) : Byte := ((lkp x.beats (i / 64)).getD 0).extractLsb' (8 * (i % 64)) 8

/-- One element of a drain is written (R271). -/
def drainElem (s : State) (x : Stream) (n : Nat) : Moved :=
  match elemRegion s x n with
  | .held => .held
  | .pull va => .pull va
  | .bad k code o a => .bad k code o a
  | .ok as lost _ =>
    let a := addrPlus (gateOrigin x) (x.pat.off n)
    if lost && isHandle a then .ok (poisonRec s x.pend.fir 5) false
    else .ok (s.writeRegion x.pend.fir.cx.toNat a as ((List.range x.pat.es).map fun i => drainByte x (n * x.pat.es + i))) false

def drainElems (c b sc : Nat) : List Nat → State → State
  | [], s => s
  | n :: ns, s =>
    match lkp (s.bay c b).streams sc with
    | none => s
    | some x =>
      match drainElem s x n with
      | .ok s' _ => drainElems c b sc ns (modStream s' c b sc fun y => { y with doneEls := y.doneEls ++ [n] })
      | m => gatePull s c x m

/-- The byte of a packed stream read from memory, or the fault or wait of its element. -/
def packedByte (s : State) (c : Nat) (x : Stream) (i : Nat) : Except Moved Byte :=
  let n := i / x.pat.es
  if x.count ≤ n then .ok 0
  else if x.skipped.contains n then .ok (Config.freeByte (x.pend.fir.key * 2 ^ 40 + i))
  else
    match elemRegion s x n with
    | .held => .error .held
    | .pull va => .error (.pull va)
    | .bad k code o a => .error (.bad k code o a)
    | .ok as lost cls =>
      if lost then .error (.ok s true)
      else .ok ((s.readRegion c x.pend.fir.cx.toNat as cls).getD (i % x.pat.es) 0)

/-- The bytes of beat k of a FEED, whether lost data was met, or its first fault with its element. -/
def beatBytes (s : State) (c : Nat) (x : Stream) (k : Nat) : Nat → List Byte × Bool × Option (Nat × Moved)
  | 0 => ([], false, none)
  | m + 1 =>
    let i := 64 * k + 63 - m
    match packedByte s c x i with
    | .ok v => let (vs, l, e) := beatBytes s c x k m; (v :: vs, l, e)
    | .error (.ok _ _) => let (vs, _, e) := beatBytes s c x k m; (0 :: vs, true, e)
    | .error e => ([], false, some (i / x.pat.es, e))

/-- The token of a feed's beat goes to D0 in its frame (R270). -/
def beatToken (s : State) (c : Nat) (x : Stream) (ft : BitVec 12) (bs : List Byte) (p : Bool) : State :=
  let it := (x.pend.fir.it.toNat + x.beat) % 65536
  let t := mkTok s x.pend.fir false s.sideband.stackNo.toNat c ft.toNat it x.pend.r.d0 true (BitVec.ofNat 512 (leNat bs), p)
  { s with transit := s.transit ++ [t] }

/-- The beat of a granted frame is sent (R270), and the next frame is asked for. -/
def sendBeat (s : State) (c b sc : Nat) : State :=
  match lkp (s.bay c b).streams sc with
  | none => s
  | some x =>
    match x.frame with
    | none => s
    | some ft =>
      match beatBytes s c x x.beat 64 with
      | (bs, lost, none) =>
        let s := beatToken s c x ft bs lost
        let n := x.beat + 1
        let x := { x with beat := n, frame := none, pos := min x.count (64 * n / x.pat.es), state := 2,
                          poisoned := x.poisoned || lost }
        let s := modStream s c b sc fun _ => x
        if n < x.pat.beats then askFrame s c b sc x else s
      | (_, _, some (_, m)) => gatePull s c x m

/-- The beat of a granted frame whose stream is cancelled: its bytes, or, when they cannot be read, free ones with P = 1
(notes/assumptions/105.md, DESIGN CHOICE). -/
def cancelBytes (s : State) (c : Nat) (x : Stream) : List Byte × Bool :=
  match beatBytes s c x x.beat 64 with
  | (bs, lost, none) => (bs, lost)
  | _ => ((List.range 64).map fun i => Config.freeByte (x.pend.fir.key * 2 ^ 40 + 64 * x.beat + i), true)

/-- A stream stops and its completion carries P = 1; a frame that a feed has been granted keeps its beat, and a parked feed
request is withdrawn (R275). -/
def cancelStream (s : State) (c b sc : Nat) (x : Stream) : State :=
  let s := withdrawBay s c b (fun w => w.party == .stream sc)
  let s := match x.frame with
    | some ft => let (bs, p) := cancelBytes s c x; beatToken s c x ft bs p
    | none => s
  let s := { s with faults := s.faults.filter fun f =>
    !(f.site == .gate (BitVec.ofNat 4 c) (BitVec.ofNat 8 b) (BitVec.ofNat 2 sc) && !f.settled) }
  freeStream (sendLater s x.toks x.moved true) c b sc

/-- A request is taken by the gate, or waits for its stream context (R267). A poisoned one is a POISON record, and its
completion carries P = 1. -/
def takeRequest (s : State) (q : AfterReq) : Option State :=
  let p := q.pend
  let g := p.fir
  let c := g.course.toNat
  let b := g.bay
  let sc := gateSc p.op p.r
  if firingP g then some (sendLater (poisonRec s g 2) q.toks 0 true)
  else
    let y := s.bay c b
    if p.op = 0xB4 then
      some (scanFences (s.setBay c b { y with fences := y.fences ++ [(y.taken, q.toks, (g.a.getD (plain 0)).val.extractLsb' 0 64)], taken := y.taken + 1 }) c b)
    else if p.op = 0xB6 then
      match lkp y.streams sc with
      | some x => if x.pend.fir.cx == g.cx then some (sendLater (cancelStream s c b sc x) q.toks 1 false) else some (sendLater s q.toks 0 false)
      | none => some (sendLater s q.toks 0 false)
    else if (lkp y.streams sc).isSome then none
    else
      let st : Stream :=
        { state := 1, pend := p, link := q.link, toks := q.toks, pos := 0, count := 0, pat := { es := 1, dims := [] }, beat := 0,
          parked := false, frame := none, skipped := [], beats := [], doneEls := [], poisoned := false, order := y.taken, sels := [] }
      some (s.setBay c b { y with streams := put y.streams sc st, taken := y.taken + 1 })

/-- What stops a stream now: the element and the fault it meets. -/
def streamStop (s : State) (c b sc : Nat) : Option (Stream × Nat × Moved) :=
  match lkp (s.bay c b).streams sc with
  | none => none
  | some x =>
    if x.state = 3 ∨ x.count = 0 ∨ fenced (s.bay c b) x = true then none
    else if x.pend.op = 0xB2 then
      if x.frame.isSome then
        match beatBytes s c x x.beat 64 with
        | (_, _, some (n, e)) => some (x, n, e)
        | _ => none
      else none
    else if x.pend.op = 0xB3 then
      match drainReady x with
      | n :: _ => some (x, n, drainElem s x n)
      | [] => none
    else if x.pos < x.count then some (x, x.pos, moveElem s c x x.pos)
    else none

/-- The stream's completion goes out and its context is freed, when it has moved every element (R269 to R273). -/
def endStream (s : State) (c b sc : Nat) : State :=
  match lkp (s.bay c b).streams sc with
  | none => s
  | some x =>
    let fin := x.count != 0 && (match x.pend.op with
      | 0xB2 => decide (x.pat.beats ≤ x.beat)
      | 0xB3 => decide (x.count ≤ x.doneEls.length) && decide (x.pat.beats ≤ x.beats.length)
      | _ => decide (x.count ≤ x.pos))
    if fin then freeStream (sendLater s x.toks (if x.pend.op = 0xB3 then x.count else x.moved) x.poisoned) c b sc else s

/-! ### Events -/

/-- Bay and stream context of a gate event: `unit` is the bay, `k` the stream context. -/
def gateArgs (e : EvArgs) : Nat × Nat × Nat := (e.course.toNat, e.unit.toNat, e.k.toNat % 4)

/-- GATE_STREAM_BIND (R268). -/
def execGateStreamBind (e : EvArgs) (s : State) : Host.Outcome State Fault Refusal :=
  let (c, b, sc) := gateArgs e
  .next (bindStream s c b sc)

/-- GATE_FEED_BEAT (R270). -/
def execGateFeedBeat (e : EvArgs) (s : State) : Host.Outcome State Fault Refusal :=
  let (c, b, sc) := gateArgs e
  .next (match lkp (s.bay c b).streams sc with
    | some x => if x.state = 3 ∨ fenced (s.bay c b) x = true then s else sendBeat s c b sc
    | none => s)

/-- GATE_STREAM_COMPLETE (R269, R271, R273): up to `aux` elements move, and a stream that has moved all of them sends its
completion. -/
def execGateStreamComplete (e : EvArgs) (s : State) : Host.Outcome State Fault Refusal :=
  let (c, b, sc) := gateArgs e
  .next (match lkp (s.bay c b).streams sc with
    | none => s
    | some x =>
      if x.state ≠ 2 ∨ fenced (s.bay c b) x = true then s
      else
        let s := match x.pend.op with
          | 0xB2 => s
          | 0xB3 => drainElems c b sc ((drainReady x).take e.aux.toNat) s
          | _ => moveElems c b sc e.aux.toNat s
        endStream s c b sc)

/-- GATE_STREAM_FAULT (R274): the element that comes next cannot move. -/
def execGateStreamFault (e : EvArgs) (s : State) : Host.Outcome State Fault Refusal :=
  let (c, b, sc) := gateArgs e
  .next (match streamStop s c b sc with
    | some (x, n, .bad k code o a) => gateFault s c b sc x k code o a n
    | _ => s)

end Sys2Proof.Machine
end

