-- ==== Sys2Proof/Machine/Heap.lean ====
section
/-! DEFINITION. Sys2Proof/Machine/Heap.lean: the gain heap (R299 to R306, R365 to R373). -/

namespace Sys2Proof.Machine

/-! ### Shares (R283) -/

/-- A context's share of a kind on a course: permits (5) or heap entries (6). -/
def State.shareOf (s : State) (cx c kind : Nat) : Nat :=
  if cx = 0 then (if kind = 5 then 24 else 4096)
  else (((s.ctx cx).holds.filter fun h => h.kind.toNat == kind && h.course.toNat == c).map fun h => bitsAt h.p0 0 13).sum

/-- What a context has given to its children. -/
def State.givenOf (s : State) (cx c kind : Nat) : Nat :=
  ((s.ctxs.filter fun e => e.1 != 0 && e.2.parent.toNat == cx).map fun e => s.shareOf e.1 c kind).sum

/-- The free share of a context. -/
def State.freeShare (s : State) (cx c kind : Nat) : Nat := s.shareOf cx c kind - s.givenOf cx c kind

/-! ### Task cells (R300) -/

structure TaskCell where
  taken : Nat
  gain : Nat
  arg : Nat
  hr : Bool
  crs : Nat
  st : Nat
  deriving DecidableEq, Repr, Inhabited

/-- Address of a task's cell in its context. -/
def State.cellAddr (s : State) (cx t : Nat) : Nat := ((s.ctx cx).taskBase.toNat + 16 * t) % 2 ^ 64

/-- A cell's bytes, in near or far pages of the context (R299): a handle names no page, and fails the class check of R212. -/
def State.cellRegion (s : State) (cx t : Nat) : Region :=
  let x := s.cellAddr cx t
  if isHandle x then .bad kPROT 7 cx x else s.regionAny cx x 16 16 0b000011 true false

/-- A task's cell. -/
def State.taskCell (s : State) (cx t : Nat) : Option TaskCell :=
  match s.cellRegion cx t with
  | .ok as _ _ =>
    let x := leNat (readBytes s as)
    some { gain := x % 2 ^ 32, taken := x / 2 ^ 32 % 2 ^ 32, arg := x / 2 ^ 96, hr := x / 2 ^ 70 % 2 == 1,
           crs := x / 2 ^ 66 % 16, st := x / 2 ^ 64 % 4 }
  | _ => none

/-- Write a task's cell; its reserved bits are 0. -/
def State.putTask (s : State) (cx t : Nat) (k : TaskCell) : State :=
  match s.cellRegion cx t with
  | .ok as _ _ =>
    let x := k.gain % 2 ^ 32 + k.taken % 2 ^ 32 * 2 ^ 32 + (k.st % 4 + k.crs % 16 * 4 + k.hr.toNat * 64) * 2 ^ 64 + k.arg * 2 ^ 96
    s.writeRegion cx (s.cellAddr cx t) as (leBytes 16 x)
  | _ => s

/-- An f32 gain is NaN. -/
def gainNan (x : Nat) : Bool := f32.isNan x

/-- A gain is active (R300, R366): at least THRESH, as f32 values. A negative THRESH makes every gain but NaN active, as R366
says in so many words (notes/assumptions/117.md, DEDUCED). -/
def State.active (s : State) (cx x : Nat) : Bool :=
  let t := (s.ctx cx).thresh.toNat
  match FV.cmp (f32.decode x) (f32.decode t) with
  | some .lt => FV.cmp (f32.decode t) (f32.decode 0) == some .lt
  | some _ => true
  | none => false

/-- One key above another (R368). -/
def keyLt (x y : Nat) : Bool := FV.cmp (f32.decode x) (f32.decode y) == some .lt

/-! ### Residual (R157, R300) -/

/-- The accumulator as a signed number. -/
def residInt (x : Ctx) : Int := signedVal 96 x.resid.toNat

/-- RESID := RESID + q(new) − q(old), with the flags of both conversions (R157, R300). -/
def addResid (s : State) (cx new old : Nat) : State :=
  let (a, f1) := gridQ (f32.decode new)
  let (b, f2) := gridQ (f32.decode old)
  let s := s.modCtx cx fun x => { x with resid := BitVec.ofNat 96 (natMod (residInt x + a - b) 96) }
  setFlags s cx (f1 ||| f2)

/-! ### The heap of a course -/

def modHeap (s : State) (c : Nat) (f : Heap → Heap) : State := s.modCrs c fun y => { y with heap := f y.heap }

/-- Entries that a context holds, resident and reserved (R365). -/
def heapUsed (h : Heap) (cx : Nat) : Nat := (h.entries.filter fun e => e.cx.toNat == cx).length

/-- Resident entries of a context. -/
def resident (h : Heap) (cx : Nat) : List HeapEntry := h.entries.filter fun e => e.cx.toNat == cx && !e.rv

def isResident (h : Heap) (cx t : Nat) : Bool := (resident h cx).any fun e => e.task.toNat == t

/-- The entry of greatest key, ties to the lower task (R304). -/
def topEntry (h : Heap) (cx : Nat) : Option HeapEntry :=
  (resident h cx).foldl (fun m e => match m with
    | none => some e
    | some x => if keyLt x.key.toNat e.key.toNat then some e
        else if keyLt e.key.toNat x.key.toNat then some x
        else if e.task.toNat < x.task.toNat then some e else some x) none

/-- The entry of lowest key, ties to the higher task (R369). -/
def lowEntry (h : Heap) (cx : Nat) : Option HeapEntry :=
  (resident h cx).foldl (fun m e => match m with
    | none => some e
    | some x => if keyLt e.key.toNat x.key.toNat then some e
        else if keyLt x.key.toNat e.key.toNat then some x
        else if x.task.toNat < e.task.toNat then some e else some x) none

/-- Remove the first entry equal to one. -/
def dropEntry (h : Heap) (e : HeapEntry) : Heap := { h with entries := h.entries.erase e }

/-! ### The heap ring (R369) -/

/-- Offsets of the ring's records from HEAD to TAIL. -/
def ringRecords (r : Ring) : List Nat :=
  let sz := 2 ^ 16 * 2 ^ r.sz.toNat
  let n := (r.tail.toNat + sz - r.head.toNat) % sz / 16
  (List.range n).map fun i => (r.head.toNat + 16 * i) % sz

/-- The records of a heap ring that are not done: offset and task, in SEQ order. -/
def State.heapRecords (s : State) (cx c : Nat) : List (Nat × Nat) :=
  (ringRecords (s.ring cx 1 c)).filterMap fun off =>
    let w := leNat (ringGet s cx 1 c off 8)
    if w / 2 ^ 60 = 2 then some (off, w % 2 ^ 32) else none

/-- HEAD of the heap ring passes done records. -/
def heapRingAdvance (cx c : Nat) : List Nat → State → State
  | [], s => s
  | off :: rest, s =>
    let w := leNat (ringGet s cx 1 c off 8)
    if w / 2 ^ 63 = 1 then
      let r := s.ring cx 1 c
      heapRingAdvance cx c rest (setRing s cx 1 c { r with head := BitVec.ofNat 32 ((off + 16) % (2 ^ 16 * 2 ^ r.sz.toNat)) })
    else s

/-- A record is done (R369). -/
def heapRecordDone (s : State) (cx c off : Nat) : State :=
  let w := leNat (ringGet s cx 1 c off 8)
  match ringPut s cx 1 c off (leBytes 8 (w % 2 ^ 63 + 2 ^ 63)) with
  | .ok s' => heapRingAdvance cx c (ringRecords (s'.ring cx 1 c)) s'
  | .error _ => s

/-- The record of a held eviction (R370, R386, R458). -/
def evictRec (s : State) (cx c kind aux addr d0 : Nat) : FaultRec :=
  let base : FaultRec := { FaultRec.zero with
    kind := BitVec.ofNat 5 kind, site := BitVec.ofNat 3 sLATCH, ocx := BitVec.ofNat 12 cx, aux := BitVec.ofNat 16 aux,
    course := BitVec.ofNat 4 c, stack := s.sideband.stackNo, addr := BitVec.ofNat 64 addr, data0 := BitVec.ofNat 64 d0 }
  match (s.crs c).heap.waits.find? fun w => w.cx.toNat == cx with
  | some w =>
    if w.change then base
    else { base with ft := w.pend.fir.ft, it := w.pend.fir.it, str := (s.linkOf w.pend.fir).str, strv := true }
  | none => base

/-- Evict the entry of lowest key of a context into its heap ring, or hold the eviction (R369, R370). The fault of a ring page
is the one that its translation makes, filed for the context that owns it (R381). -/
def evict (s : State) (cx c : Nat) (e : HeapEntry) : State :=
  let hold := fun (s : State) (x : XErr) (addr d0 : Nat) =>
    fileFault (modHeap s c fun h => { h with held := true }) x.owner false (evictRec s cx c x.kind x.code addr d0) (.heapLatch (BitVec.ofNat 4 c))
  let r := s.ring cx 1 c
  match ringRoom r 1 with
  | none => hold s { kind := kROOM, code := 1, owner := cx } 0 1
  | some (off, _, tail) =>
    let h := (s.crs c).heap
    let seq := ((lkp h.evictSeq cx).getD 0)
    let bs := leBytes 8 (2 * 2 ^ 60 + e.task.toNat) ++ leBytes 8 (seq.toNat * 2 ^ 32)
    match ringPut s cx 1 c off bs with
    | .error x => hold s x (r.base.toNat + off) 0
    | .ok s =>
      let s := setRing s cx 1 c { r with tail := BitVec.ofNat 32 tail, written := r.written + 1 }
      modHeap s c fun h => { (dropEntry h e) with evictSeq := put h.evictSeq cx (seq + 1) }

/-! ### Changes of a cell (R301 to R305) -/

/-- The live heap kernel of a context. -/
def State.heapKernel (s : State) (cx : Nat) : Option Kernel :=
  s.kernels.find? fun k => k.cx.toNat == cx && k.heap && (k.state == .running || k.state == .starting)

/-- Its kernel-end token has been emitted: changes queue no task (R372). -/
def heapEnded (s : State) (cx : Nat) : Bool := ((s.heapKernel cx).map Kernel.endToken).getD false

/-- A record comes back from the ring (R369): resident, or discarded and the next tried. -/
def returnRecords (cx c : Nat) : List (Nat × Nat) → State → State
  | [], s => s
  | (off, t) :: rest, s =>
    if s.freeShare cx c 6 ≤ heapUsed (s.crs c).heap cx then s
    else
      let s := heapRecordDone s cx c off
      match s.taskCell cx t with
      | some k =>
        if k.st = 1 ∧ k.crs = c ∧ isResident (s.crs c).heap cx t = false then
          modHeap s c fun h => { h with entries := h.entries ++ [{ rv := false, cx := BitVec.ofNat 12 cx, key := BitVec.ofNat 32 k.gain, task := BitVec.ofNat 32 t }] }
        else returnRecords cx c rest s
      | none => returnRecords cx c rest s

/-- A queued task's resident entry takes a new key (R365). -/
def rekey (s : State) (cx c t key : Nat) : State :=
  modHeap s c fun h => { h with entries := h.entries.map fun e =>
    if e.cx.toNat == cx && e.task.toNat == t && !e.rv then { e with key := BitVec.ofNat 32 key } else e }

/-- A queued task with a NaN gain becomes idle, and its entry is freed, which first returns the ring's oldest record (R367,
R369). -/
def dequeue (s : State) (cx t : Nat) (k : TaskCell) : State :=
  let s := s.putTask cx t { k with st := 0, hr := false }
  match (resident (s.crs k.crs).heap cx).find? fun e => e.task.toNat == t with
  | some e => let s := modHeap s k.crs fun h => dropEntry h e; returnRecords cx k.crs (s.heapRecords cx k.crs) s
  | none => s

/-- An idle or done task with an active gain is queued in the entry that its change has reserved; where none can be reserved
it is left idle (R303, R372). -/
def queueTask (s : State) (cx t : Nat) (k : TaskCell) : State :=
  if heapEnded s cx || s.freeShare cx k.crs 6 == 0 then s.putTask cx t { k with st := 0, hr := false }
  else
    modHeap (s.putTask cx t { k with st := 1, hr := true }) k.crs fun h =>
      { h with entries := h.entries ++ [{ rv := false, cx := BitVec.ofNat 12 cx, key := BitVec.ofNat 32 k.gain, task := BitVec.ofNat 32 t }] }

/-- GAIN takes a value, with RESID and the queue (R303). -/
def setGain (s : State) (cx t new : Nat) (k : TaskCell) : State :=
  let s := addResid s cx new k.gain
  let k := { k with gain := new }
  match k.st with
  | 1 =>
    if gainNan new then dequeue s cx t k
    else rekey (s.putTask cx t k) cx k.crs t new
  | 2 => s.putTask cx t k
  | _ => if s.active cx new then queueTask s cx t k else s.putTask cx t k

/-- The context and the task that a change names. -/
def changeTask (p : Pend) : Nat × Nat := (p.fir.cx.toNat, (p.fir.a.getD (plain 0)).word % 2 ^ 32)

/-- The gain that GAIN.ADD, GAIN.SET, GAIN.DONE or SPAWN leaves in a cell, with the flags (R302, R303, R305). -/
def changeGain (p : Pend) (k : TaskCell) : Nat × Flags :=
  let b := (p.fir.b.getD (plain 0)).word % 2 ^ 32
  if p.op = 0xD1 then let r := fAdd f32 { mode := 0 } k.gain b; (r.code, r.flags)
  else if p.op = 0xD7 ∨ p.op = 0xD0 then (b, 0)
  else (k.gain, 0)

/-- The heap in which a change has to reserve an entry, if it has to: its task, which is neither queued nor running, or
finishes its run, gets an active gain, or is spawned, and an entry can be reserved there (R302, R303, R305, R372). -/
def changeNeeds (s : State) (p : Pend) : Option Nat :=
  let (cx, t) := changeTask p
  match s.taskCell cx t with
  | none => none
  | some k =>
    let free := if p.op = 0xD3 then k.st == 2 else k.st != 1 && k.st != 2
    let x := (changeGain p k).1
    let (fills, c) := if p.op = 0xD0 then (!(gainNan x), p.fir.course.toNat) else (s.active cx x, k.crs)
    if free && fills && !(heapEnded s cx) && s.freeShare cx c 6 != 0 then some c else none

/-- A change takes place: the cell, RESID and the heap together (R301, R303, R305). -/
def applyTask (s : State) (p : Pend) : State :=
  let (cx, t) := changeTask p
  match s.taskCell cx t with
  | none => s
  | some k =>
    let (x, f) := changeGain p k
    if p.op = 0xD3 then
      if k.st ≠ 2 then softAt s p.fir kPROT 16 id
      else
        let s := addResid s cx 0 k.taken
        let s := modHeap s k.crs fun h => { h with running := h.running.filter fun r => !(r.1.toNat == cx && r.2.toNat == t) }
        let k := { k with taken := 0 }
        if s.active cx x then queueTask s cx t k else s.putTask cx t { k with st := 3 }
    else if p.op = 0xD0 ∧ k.st ≠ 1 ∧ k.st ≠ 2 ∧ gainNan x = false then
      queueTask (addResid s cx x k.gain) cx t { k with gain := x, crs := p.fir.course.toNat }
    else setGain (setFlags s cx f) cx t x k

/-! ### Reservations (R302, R303, R369) -/

/-- A reservation is granted: a parked SPAWN's entry is reserved and its A goes out; a change takes place, which fills its
entry at once. -/
def grantEntry (s : State) (c : Nat) (w : HeapWait) : State :=
  if w.change then applyTask s w.pend
  else
    let s := modHeap s c fun h => { h with entries := h.entries ++ [{ rv := true, cx := w.cx, key := 0, task := w.task }] }
    let s := s.modOwn w.pend.fir fun k => { k with gotHeap := k.gotHeap + 1 }
    emitWord s w.pend.r w.pend.fir (w.pend.fir.a.getD (plain 0)).word false

/-- Waiting reservations of a context, in order: granted when the share has room, else after an eviction. A change is looked
at again at its turn: one that now needs no entry takes place, and one whose task has moved to another course's heap goes
there. -/
def serveHeap (cx c : Nat) : Nat → State → State
  | 0, s => s
  | fuel + 1, s =>
    let h := (s.crs c).heap
    match h.waits.find? fun w => w.cx.toNat == cx with
    | none => s
    | some w =>
      let gone := modHeap s c fun h => { h with waits := h.waits.erase w }
      let need := if w.change then changeNeeds s w.pend else some c
      match need with
      | none => serveHeap cx c fuel (grantEntry gone c w)
      | some d =>
        if d ≠ c then serveHeap cx c fuel (serveHeap cx d fuel (modHeap gone d fun h => { h with waits := h.waits ++ [w] }))
        else
          let give := fun (s : State) => grantEntry (modHeap s c fun h => { h with waits := h.waits.erase w }) c w
          if heapUsed h cx < s.freeShare cx c 6 then serveHeap cx c fuel (give s)
          else if h.held then s
          else
            match lowEntry h cx with
            | none => s
            | some e =>
              let s := evict s cx c e
              if heapUsed (s.crs c).heap cx < s.freeShare cx c 6 then serveHeap cx c fuel (give s) else s

/-- The waiting reservations of a context are served in every heap that has some. -/
def serveWaiting (s : State) (cx : Nat) : State :=
  (s.courses.filter fun e => e.2.heap.waits.any fun w => w.cx.toNat == cx).foldl (fun s e =>
    serveHeap cx e.1 (e.2.heap.waits.length + 1) s) s

/-- The course at whose heap a change of a task waits, if one does: a later change of the task waits behind it (R301). -/
def waitingAt (s : State) (cx t : Nat) : Option Nat :=
  (s.courses.find? fun e => e.2.heap.waits.any fun w => w.change && w.cx.toNat == cx && w.task.toNat == t).map Prod.fst

/-- The effect of GAIN.ADD, GAIN.SET or GAIN.DONE at commit: it takes place, or waits at the home for an entry or behind an
earlier change of its task (R301, R303, R305). -/
def commitChange (s : State) (p : Pend) : State :=
  let (cx, t) := changeTask p
  if firingP p.fir then poisonRec s p.fir 6
  else
    match (waitingAt s cx t).or (changeNeeds s p) with
    | none => serveWaiting (applyTask s p) cx
    | some c =>
      let s := modHeap s c fun h => { h with waits := h.waits ++ [{ cx := p.fir.cx, task := BitVec.ofNat 32 t, pend := p, change := true }] }
      serveHeap cx c ((s.crs c).heap.waits.length + 1) s

/-- A change of a frame's commit still waits at its home. -/
def changesWait (s : State) (c b ft : Nat) : Bool :=
  s.courses.any fun e => e.2.heap.waits.any fun w => w.change && w.pend.fir.inFrame c b ft

/-! ### Termination (R371) -/

/-- No task of a context is running or queued, in any course's heap or ring. -/
def noTasks (s : State) (cx : Nat) : Bool :=
  (List.range 16).all fun c =>
    let h := (s.crs c).heap
    (resident h cx).isEmpty && (h.running.all fun r => r.1.toNat != cx)
      && (s.heapRecords cx c).all fun r =>
        match s.taskCell cx r.2 with
        | some k => !(k.st == 1 && k.crs == c)
        | none => true

/-- The elements with an armed GAIN.TAKE of a context: course, element, key, latch. -/
def armedTakes (s : State) (cx : Nat) : List (Nat × Nat × Nat × TakeLatch) :=
  s.elements.flatMap fun e => (e.2.takes.filter fun t => t.2.cx.toNat == cx).map fun t => (e.1 / 8192, e.1 % 8192, t.1, t.2)

/-- A GAIN.TAKE is disarmed: its parked request goes, and a frame it holds without a task is freed (R304, R371). -/
def disarm (s : State) (x : Nat × Nat × Nat × TakeLatch) : State :=
  let (c, el, key, t) := x
  let s := s.modElem c el fun y => { y with takes := del y.takes key }
  let s := withdrawBay s c (elBay el) fun w => w.party == .take && w.pend.fir.unit.toNat == el && w.pend.fir.takeKey == key
  match t.frame with
  | some (ft, _) => freeFrame s c (elBay el) ft.toNat
  | none => s

/-- The kernel-end token, once, when RESID < TOL and no task is running or queued (R157, R371). -/
def endTest (s : State) (cx : Nat) : State :=
  let x := s.ctx cx
  match s.heapKernel cx with
  | none => s
  | some k =>
    if !k.endToken && k.state == .running && decide (residInt x < signedVal 64 x.tol.toNat) && noTasks s cx then
      let s := { s with kernels := s.kernels.map fun y => if y.cx == k.cx && y.serial == k.serial then { y with endToken := true } else y }
      (armedTakes s cx).foldl disarm s
    else s

/-- What a freed unit of a share starts: the ring's oldest record returns, then reservations are served (R369). -/
def freedUnit (s : State) (cx c : Nat) : State :=
  let s := returnRecords cx c (s.heapRecords cx c) s
  serveHeap cx c ((s.crs c).heap.waits.length + 1) s

/-- A reserved entry of a context is returned unfilled. -/
def unreserve (s : State) (cx c : Nat) : State :=
  match (s.crs c).heap.entries.find? fun e => e.rv && e.cx.toNat == cx with
  | some e => freedUnit (modHeap s c fun h => dropEntry h e) cx c
  | none => s

/-! ### Changes (R301 to R305) -/

/-- The effect of SPAWN at commit (R302): the reserved entry is filled, or returned. A head that found every unit of the
share reserved goes on once one is filled (R369). Behind an earlier change of its task that waits at the home it returns its entry,
which that change may need, and waits as a change (R301; notes/assumptions/36.md, DESIGN CHOICE). -/
def commitSpawn (s : State) (p : Pend) : State :=
  let g := p.fir
  let cx := g.cx.toNat
  let c := g.course.toNat
  let t := (g.a.getD (plain 0)).word % 2 ^ 32
  let b := (g.b.getD (plain 0)).word % 2 ^ 32
  if firingP g then poisonRec s g 6
  else
    match waitingAt s cx t, s.taskCell cx t with
    | some d, _ =>
      let s := unreserve (modHeap s d fun h => { h with waits := h.waits ++ [{ cx := g.cx, task := BitVec.ofNat 32 t, pend := p, change := true }] }) cx c
      serveHeap cx d ((s.crs d).heap.waits.length + 1) s
    | none, none => unreserve s cx c
    | none, some k =>
      let queued := k.st == 1
      let running := k.st == 2
      if gainNan b || queued || running then
        let s := if gainNan b && !queued && !running then (addResid s cx b k.gain).putTask cx t { k with gain := b } else serveWaiting (setGain s cx t b k) cx
        unreserve s cx c
      else
        let s := addResid s cx b k.gain
        let k := { k with gain := b, crs := c }
        if heapEnded s cx then unreserve (s.putTask cx t { k with st := 0, hr := false }) cx c
        else
          let s := s.putTask cx t { k with st := 1, hr := true }
          match (s.crs c).heap.entries.find? fun e => e.rv && e.cx.toNat == cx with
          | some e =>
            let s := modHeap s c fun h =>
              { h with entries := (h.entries.erase e) ++ [{ rv := false, cx := g.cx, key := BitVec.ofNat 32 b, task := BitVec.ofNat 32 t }] }
            serveHeap cx c ((s.crs c).heap.waits.length + 1) s
          | none => s

/-- The effect of TOL.WR at commit (R306). -/
def commitTol (s : State) (g : Firing) : State :=
  if firingP g then poisonRec s g 6
  else s.modCtx g.cx.toNat fun x => { x with tol := BitVec.ofNat 64 (g.b.getD (plain 0)).word }

/-! ### Instructions -/

/-- A heap instruction on a task: its index and cell are checked at issue (R299); one whose page is
being pulled, or whose home sleeps, waits for it (R432, R453). -/
def taskNode (op : Nat) (r : NodeRec) (s : State) (poisoned act : State → Args → State) : State :=
  let g := s.firing
  let a := argsCtl s r g
  actNode s r a fun s =>
    if a.p then poisoned s a
    else
      let t := a.a.word % 2 ^ 32
      if (s.ctx g.cx.toNat).taskN.toNat ≤ t then fault s g kPROT 16
      else
        match s.cellRegion g.cx.toNat t with
        | .bad k code owner va => hardFault s g k code owner fun x => { x with addr := BitVec.ofNat 64 va }
        | .pull va => waitAgain (guestWalk s g.course.toNat g.cx.toNat va g) op r
        | .ok as _ _ =>
          if (s.firstAsleep as).isSome then waitAgain (callHome s g.cx.toNat (s.cellAddr g.cx.toNat t) 16) op r else act s a
        | .held => act s a

/-- SPAWN (R302). -/
def execSpawn (r : NodeRec) (s : State) : Host.Outcome State Fault Refusal :=
  let g := s.firing
  .next (taskNode 0xD0 r s (fun s a => emitWord (holdArgs s 0xD0 r a) r g a.a.word true) fun s a =>
    let c := g.course.toNat
    if s.freeShare g.cx.toNat c 6 = 0 then fault s g kHOLDING 2
    else
      let s := modHeap (holdArgs s 0xD0 r a) c fun h =>
        { h with waits := h.waits ++ [{ cx := g.cx, task := BitVec.ofNat 32 a.a.word, pend := pendOf 0xD0 r g, change := false }] }
      serveHeap g.cx.toNat c ((s.crs c).heap.waits.length + 1) s)

/-- GAIN.ADD, GAIN.SET and GAIN.DONE: A at once, the change at commit (R301). -/
def changeNode (op : Nat) (r : NodeRec) (s : State) : State :=
  let g := s.firing
  taskNode op r s (fun s a => emitWord (holdArgs s op r a) r g a.a.word true)
    (fun s a => emitWord (holdArgs s op r a) r g a.a.word false)

/-- GAIN.ADD (R303). -/
def execGainAdd (r : NodeRec) (s : State) : Host.Outcome State Fault Refusal := .next (changeNode 0xD1 r s)
/-- GAIN.DONE (R305). -/
def execGainDone (r : NodeRec) (s : State) : Host.Outcome State Fault Refusal := .next (changeNode 0xD3 r s)
/-- GAIN.SET (R303). -/
def execGainSet (r : NodeRec) (s : State) : Host.Outcome State Fault Refusal := .next (changeNode 0xD7 r s)

/-- A latch asks for its next frame (R304 step 1). -/
def askTake (s : State) (p : Pend) : State :=
  let g := p.fir
  let c := g.course.toNat
  let set := (s.bankOf g.cx.toNat c g.unit.toNat).setting
  match s.mapOf g.cx.toNat c g.unit.toNat (bitsAt p.r.lit 8 8) with
  | none => s
  | some m =>
    let s := s.modElem c g.unit.toNat fun x =>
      match lkp x.takes g.takeKey with
      | some t => { x with takes := put x.takes g.takeKey { t with parked := true, frame := none } }
      | none => x
    joinPool s c g.bay (bitsAt set 36 3)
      { party := .take, pend := p, size := m.gran, nslots := m.slots, dmask := m.dmask, map := BitVec.ofNat 8 (bitsAt p.r.lit 8 8),
        cs := bitAt p.r.lit 0, ovt := 0, uc := 0, guard := false }

/-- GAIN.TAKE: its first injection arms it (R304). -/
def execGainTake (r : NodeRec) (s : State) : Host.Outcome State Fault Refusal :=
  let g := s.firing
  let c := g.course.toNat
  .next (actNode s r (argsOf 5 g 0) fun s =>
    if (lkp (s.elem c g.unit.toNat).takes g.takeKey).isSome then s
    else
      let t : TakeLatch := { cx := g.cx, serial := ((s.heapKernel g.cx.toNat).map Kernel.serial).getD 0, link := s.ownLink g,
                             parked := false, frame := none }
      askTake (s.modElem c g.unit.toNat fun x => { x with takes := put x.takes g.takeKey t }) (pendOf 0xD2 r g))

/-- RESID.RD (R157, R306). -/
def execResidRd (r : NodeRec) (s : State) : Host.Outcome State Fault Refusal :=
  .next (ctlNode s r fun _ =>
    let (x, f) := satInt 3 (residInt (s.ctx s.firing.cx.toNat))
    (natMod x 64, f))

/-- TOL.WR: the tolerance at commit (R306). -/
def execTolWr (r : NodeRec) (s : State) : Host.Outcome State Fault Refusal :=
  let g := s.firing
  let a := argsCtl s r g
  .next (actNode s r a fun s => emitWord (holdArgs s 0xD5 r a) r g a.a.word a.p)

/-- The word of HEAP.Q (R306). -/
def heapqWord (s : State) (cx c sel : Nat) : Nat :=
  let h := (s.crs c).heap
  match sel with
  | 0 => (resident h cx).length
  | 1 => ((topEntry h cx).map fun e => e.key.toNat).getD 0x7FC00000
  | 2 => (s.heapRecords cx c).length
  | 3 => (((lkp h.pops cx).getD 0) - ((lkp h.oldPops cx).getD 0)).toNat
  | _ => (h.running.filter fun r => r.1.toNat == cx).length

/-- HEAP.Q (R306). -/
def execHeapQ (r : NodeRec) (s : State) : Host.Outcome State Fault Refusal :=
  .next (ctlNode s r fun _ => (heapqWord s s.firing.cx.toNat s.firing.course.toNat (bitsAt r.lit 0 4), 0))

/-! ### Pops (R304) -/

/-- The armed GAIN.TAKE of a course whose frame was granted earliest, of the context that runs there when its heap holds an
entry. -/
def nextTake (s : State) (c : Nat) : Option (Nat × Nat × TakeLatch × BitVec 12 × HeapEntry) :=
  let all := (s.elements.filter fun e => e.1 / 8192 == c).flatMap fun e => e.2.takes.filterMap fun t =>
    match t.2.frame, topEntry (s.crs c).heap t.2.cx.toNat with
    | some (ft, o), some x => if (s.crs c).holder == some t.2.cx then some (o, e.1 % 8192, t.1 % 64, t.2, ft, x) else none
    | _, _ => none
  (all.foldl (fun (m : Option (Nat × Nat × Nat × TakeLatch × BitVec 12 × HeapEntry)) e => match m with
    | none => some e
    | some x => if e.1 < x.1 then some e else some x) none).map Prod.snd

/-- HEAP_POP (R304): the entry of greatest key goes to the GAIN.TAKE that was granted its frame first. -/
def execHeapPop (e : EvArgs) (s : State) : Host.Outcome State Fault Refusal :=
  let c := e.course.toNat
  .next (match nextTake s c with
    | none => s
    | some (el, node, t, ft, x) =>
      let cx := t.cx.toNat
      let task := x.task.toNat
      let pops := (lkp (s.crs c).heap.pops cx).getD 0
      let it := BitVec.ofNat 16 pops.toNat
      let w := s.record t.cx.toNat c el node
      let g : Firing := { Firing.none with course := BitVec.ofNat 4 c, unit := BitVec.ofNat 13 el, node := BitVec.ofNat 6 node, cx := t.cx, ft := ft, it := it }
      let r := recFields w
      let s := modHeap s c fun h => { (dropEntry h x) with
        pops := put h.pops cx (pops + 1), running := h.running ++ [(t.cx, x.task)], popped := s.cycles + 1 }
      let s := s.modFrame c g.bay ft.toNat fun f => { f with it := it }
      let arg := ((s.taskCell cx task).map TaskCell.arg).getD 0
      let s := match s.taskCell cx task with
        | some k => s.putTask cx task { k with taken := k.gain, gain := 0, st := 2, hr := false }
        | none => s
      let tok := fun (d : BitVec 21) (v : Nat) => if d = 0x1FFFFF#21 then [] else
        [mkTok s g false s.sideband.stackNo.toNat c ft.toNat it.toNat d false (BitVec.ofNat 512 v, false)]
      let s := { s with transit := s.transit ++ tok r.d0 task ++ tok r.d1 arg }
      let s := s.modElem c el fun y => { y with takes := put y.takes g.takeKey { t with frame := none } }
      let s := endTest (freedUnit s cx c) cx
      if (lkp (s.elem c el).takes g.takeKey).isSome then askTake s (pendOf 0xD2 r { g with ft := 0, it := 0 }) else s)

end Sys2Proof.Machine
end

