-- ==== Sys2Proof/Machine/Ridge.lean ====
section
/-! DEFINITION. Sys2Proof/Machine/Ridge.lean: Ridge access (R242 to R245), time (R246), and the beats of the Ridge: its
occurrences, its control lane and its mirrors (R331 to R348). -/

namespace Sys2Proof.Machine

/-! ### Instructions -/

/-- OFF lies within the entry: 16 words on the control plane, 2 halves on the data plane (R243). -/
def rdgOffOk (r : NodeRec) : Bool := decide (0 ≤ litOff r) && decide (litOff r < if r.pl then 2 else 16)

/-- First byte and number of bytes of a Ridge access within its entry (R243). -/
def rdgSpan (r : NodeRec) : Nat × Nat := if r.pl then (64 * (litOff r).toNat, 64) else (8 * (litOff r).toNat, max 1 (ctlBytes r))

/-- A slot that a context may name: reserved for it, or granted to it (R243). -/
def State.slotUsable (s : State) (cx n : Nat) : Bool :=
  match lkp s.slots n with
  | some x => x.cx.toNat == cx && (x.state == .reserved || x.state == .granted) && !x.leaving
  | none => false

/-- RDG.ST: B on D0 at once, the write queued at commit, its position on D1 (R244). -/
def execRdgSt (r : NodeRec) (s : State) : Host.Outcome State Fault Refusal :=
  let g := s.firing
  let b := g.b.getD (plain 0)
  let x := (g.a.getD (plain 0)).word
  .next (actWith s r (argsOf 1 g 0) (fun p e => emitPos s r g e (some (0#512, p)) (some (0#512, p))) fun s => waveNode s 0xAA r fun s =>
    if firingP g then emitVals (holdWrite s 0xAA r) r g (s.eBit g) (some (b.val, true)) none
    else if !(rdgOffOk r) then memFault s r g kPROT 3 g.cx.toNat x
    else if !(s.slotUsable g.cx.toNat x) then memFault s r g kHOLDING 2 g.cx.toNat x
    else emitVals (holdWrite s 0xAA r) r g (s.eBit g) (some (b.val, false)) none)

/-- `n` ones from bit `lo`. -/
def maskBits (lo n : Nat) : BitVec 128 := BitVec.ofNat 128 ((2 ^ n - 1) * 2 ^ lo)

/-- A held RDG.ST in its wave place joins its course's port, of 256 writes (R244, R338, R339). A slot that has left its context
since the record issued is checked again, since nothing of one context may stand in another's entry (R243, R337;
notes/assumptions/124.md, DEDUCED). Under RETURN the position word goes to RDEST, as B did when the record issued
(notes/assumptions/18.md). -/
def performRdgSt (s : State) (p : Pend) : Written :=
  let g := p.fir
  let r := p.r
  let c := g.course.toNat
  let str := s.strandOf g
  if firingP g then .done (emitPos (poisonMem s r g (g.a.getD (plain 0)).word) r g false none (some (0#512, true)))
  else if !(s.slotUsable g.cx.toNat (g.a.getD (plain 0)).word) then .home kHOLDING 2 g.cx.toNat (g.a.getD (plain 0)).word
  else if litOrd r = 2 ∧ ridgeHeld s c g.cx str = true then .waits
  else if 256 ≤ (s.crs c).port.length then .waits
  else
    let (lo, n) := rdgSpan r
    let w : RidgeWrite :=
      { slot := (g.a.getD (plain 0)).word, mask := maskBits lo n,
        data := BitVec.ofNat 1024 ((g.b.getD (plain 0)).val.toNat % 2 ^ (8 * n) * 2 ^ (8 * lo)),
        cx := g.cx, str := str, toks := laterToks s r g false true, beat := s.beat, sender := some g }
    .done (s.modCrs c fun y => { y with port := y.port ++ [w] })

/-- RDG.LD: the entry's bytes in the course's mirror (R245). -/
def rdgLdNode (r : NodeRec) (s : State) : State :=
  let g := s.firing
  let x := (g.a.getD (plain 0)).word
  let c := g.course.toNat
  actNode s r (argsOf 0 g 0) fun s => waveNode s 0xAB r fun s =>
    if firingP g then emitNothing (waveIn s 0xAB r true true) r g true false
    else if !(rdgOffOk r) then memFault s r g kPROT 3 g.cx.toNat x
    else if !(s.slotUsable g.cx.toNat x) then memFault s r g kHOLDING 2 g.cx.toNat x
    else
      let s := waveIn s 0xAB r true false
      if loadReady s g (litOwn r) then
        let (lo, n) := rdgSpan r
        let v := Memory.get (s.mirrorOf c) (128 * x + lo) n
        emitAfter (waveIn s 0xAB r true true) r g (BitVec.ofNat 512 (if r.pl then v else extendTy r.ty.toNat v)) false
          (s.accessDelay c g.bay (128 * x) 4)
      else s

/-- RDG.LD (R245). -/
def execRdgLd (r : NodeRec) (s : State) : Host.Outcome State Fault Refusal := .next (rdgLdNode r s)

/-- Every mirror holds every write up to a position: its beat's changes are applied 4 beats after it (R333, R343). -/
def mirrorHolds (s : State) (pos : Nat) : Bool :=
  decide (pos / 8 + 4 ≤ s.beat) && s.changes.all fun x => decide (pos / 8 < x.beat)

/-- RDG.WAIT (R245, R343). -/
def execRdgWait (r : NodeRec) (s : State) : Host.Outcome State Fault Refusal :=
  let g := s.firing
  let a := g.a.getD (plain 0)
  .next (actNode s r (argsOf 0 g 0) fun s =>
    if a.p then emitNothing s r g true false
    else if s.beat + 1024 < a.word / 8 then
      hardFault s g kPROT 20 g.cx.toNat fun y => { y with addr := BitVec.ofNat 64 a.word }
    else if mirrorHolds s a.word then emitWord s r g a.word false
    else waitAgain s 0xAC r)

/-- TICK.rd: the pod time base (R246). -/
def execTickRd (r : NodeRec) (s : State) : Host.Outcome State Fault Refusal :=
  .next (ctlNode s r fun _ => (s.tick.toNat, 0))

/-- The pod time has reached a tick (R246). -/
def tickReached (s : State) (a : Nat) : Bool := decide ((s.tick.toNat + 2 ^ 64 - a % 2 ^ 64) % 2 ^ 64 < 2 ^ 63)

/-- TICK.until (R246). -/
def execTickUntil (r : NodeRec) (s : State) : Host.Outcome State Fault Refusal :=
  let g := s.firing
  let a := g.a.getD (plain 0)
  .next (actNode s r (argsOf 0 g 0) fun s =>
    if a.p then emitWord s r g a.word true
    else if tickReached s a.word then emitWord s r g a.word false
    else waitAgain s 0xAD r)

/-! ### Waits that end -/

/-- The waits of every cast that a test names act again: they leave their casts' lists, and the agenda runs them. -/
def refireWaits (s : State) (f : Pend → Bool) : State :=
  let hits := s.bays.flatMap fun y => y.2.frames.flatMap fun e => ((e.2.cast.map Cast.waits).getD []).filter f
  let bays := s.bays.map fun y => (y.1, { y.2 with frames := y.2.frames.map fun e =>
    (e.1, { e.2 with cast := e.2.cast.map fun k => { k with waits := k.waits.filter fun p => !(f p) } }) })
  { s with bays := bays, agenda := s.agenda ++ hits.map Pick.fire }

/-! ### Beats -/

/-- The first beat of a slot at or after a beat. -/
def slotBeat (slot from_ : Nat) : Nat := from_ + (slot / 8 + 1024 - from_ % 1024) % 1024

/-- The courses with writes for a slot that meet the cut-off of beat n (queued before beat n − 2 begins), with the beat of
the oldest pending one (R338). -/
def slotClaims (s : State) (slot n : Nat) : List (Nat × Nat) :=
  s.courses.filterMap fun e =>
    let ws := e.2.port.filter fun w => w.slot == slot && decide (w.beat + 3 ≤ n)
    match ws with
    | [] => none
    | w :: _ => some (e.1, w.beat)

/-- The course whose writes a slot's occurrence at beat n carries: the oldest pending, ties to the lower course (R338). -/
def slotWinner (s : State) (slot n : Nat) : Option Nat :=
  ((slotClaims s slot n).foldl (fun m e => match m with
    | none => some e
    | some x => if e.2 < x.2 then some e else some x) none).map Prod.fst

/-- The first beat at which a slot may carry a write queued in a beat: one that meets the cut-off, that has not passed, and
whose occurrence no other course has used (R331, R338). -/
def freeBeat (s : State) (slot queued : Nat) : Nat :=
  let used := (s.changes.filter fun x => x.ctl.isNone && x.slot == slot).map fun x => x.beat + 1
  slotBeat slot ((s.beat :: used).foldl max (queued + 3))

/-- The next occurrence that carries a write, over all pending ones: beat and slot (R331, R338). -/
def nextOccurrence (s : State) : Option (Nat × Nat) :=
  let due := s.courses.flatMap fun e => e.2.port.map fun w => (freeBeat s w.slot w.beat, w.slot)
  due.foldl (fun m e => match m with
    | none => some e
    | some x => if e.1 * 8 + e.2 % 8 < x.1 * 8 + x.2 % 8 then some e else some x) none

/-- The writes of one course to a slot merged byte by byte, the later winning (R338). -/
def mergeWrites : List RidgeWrite → BitVec 128 × BitVec 1024 → BitVec 128 × BitVec 1024
  | [], x => x
  | w :: ws, (m, d) =>
    let full : BitVec 1024 := BitVec.ofNat 1024
      (((List.range 128).map fun i => if w.mask.getLsbD i then 255 * 2 ^ (8 * i) else 0).sum)
    mergeWrites ws (m ||| w.mask, (d &&& ~~~full) ||| (w.data &&& full))

/-- Some course is off, so that the Plate keeps its journal (R346). -/
def journalling (s : State) : Bool := s.courses.any fun e => e.2.power == .off

/-- A change is recorded: for the mirrors, and in the journal of 8,192 records while a course is off (R333, R346). -/
def recordChange (s : State) (x : RidgeChange) : State :=
  let j := s.journal ++ [x]
  if !(journalling s) then { s with changes := s.changes ++ [x] }
  else if 8192 < j.length then
    { s with changes := s.changes ++ [x], journal := j.drop 1, journalCut := (j.head?.map fun y => y.beat + 1).getD s.journalCut }
  else { s with changes := s.changes ++ [x], journal := j }

/-- RIDGE_OCCURRENCE (R338): the next occurrence that carries a write goes out, when its beat has come. The position words go with
their casts' outgoing tokens (R244, R322). -/
def execRidgeOccurrence (_ : EvArgs) (s : State) : Host.Outcome State Fault Refusal :=
  .next (match nextOccurrence s with
    | none => s
    | some (n, slot) =>
      if s.beat < n then s
      else
        match slotWinner s slot n with
        | none => s
        | some c =>
          let take := fun (w : RidgeWrite) => w.slot == slot && decide (w.beat + 3 ≤ n)
          let ws := (s.crs c).port.filter take
          let (m, d) := mergeWrites ws (0, 0)
          let s := s.modCrs c fun y => { y with port := y.port.filter fun w => !(take w) }
          let s := recordChange s { beat := n, ch := slot % 8, slot := slot, mask := m, data := d, src := BitVec.ofNat 5 c,
                                    by_ := ws.map fun w => (w.cx, w.str), ctl := none }
          ws.foldl (fun s w => w.sender.elim s fun g => outLater s g w.toks (n * 8 + slot % 8)) s)

/-- A zero entry waits until every write queued for its slot has gone out (R337). -/
def zeroWaits (s : State) (w : CtlWord) : Bool :=
  w.word.toNat / 2 ^ 61 == 3 && s.courses.any fun e => e.2.port.any fun x => x.slot == w.word.toNat / 2 ^ 36 % 2 ^ 13

/-- The course whose control word goes next: the earliest queued, the Plate (16) before the courses of its beat (R340). -/
def nextCtl (s : State) : Option (Nat × CtlWord) :=
  let all := s.courses.filterMap fun e => match e.2.ctl with
    | w :: _ => if zeroWaits s w then none else some (e.1, w)
    | [] => none
  let key := fun (e : Nat × CtlWord) => e.2.beat * 17 + (if e.1 = 16 then 0 else e.1 + 1)
  all.foldl (fun m e => match m with
    | none => some e
    | some x => if key e < key x then some e else some x) none

/-- The last beat at which a control word was sent. -/
def lastCtlBeat (s : State) : Nat := ((s.changes.filter fun x => x.ctl.isSome).map RidgeChange.beat).foldl max 0

/-- The beat of the next control word: at least 2 after its queueing, and one word to a beat (R340, R344). -/
def ctlBeat (s : State) (w : CtlWord) : Nat :=
  let n := max (w.beat + 2) s.beat
  if (s.changes.any fun x => x.ctl.isSome && decide (n ≤ x.beat)) then lastCtlBeat s + 1 else n

/-- RIDGE_CONTROL_WORD (R340): the earliest queued word goes out. An arrival is counted at the Plate, and its phase word
goes with its cast's outgoing tokens (R322, R341). -/
def execRidgeControlWord (_ : EvArgs) (s : State) : Host.Outcome State Fault Refusal :=
  .next (match nextCtl s with
    | none => s
    | some (c, w) =>
      let n := ctlBeat s w
      if s.beat < n then s
      else
        let s := s.modCrs c fun y => { y with ctl := y.ctl.drop 1 }
        let rec_ := fun (s : State) (w : CtlWord) =>
          recordChange s { beat := n, ch := 8, slot := 0, mask := 0, data := 0, src := BitVec.ofNat 5 c, by_ := [], ctl := some w }
        let kind := w.word.toNat / 2 ^ 61
        if kind = 1 then
          let num := w.word.toNat / 2 ^ 43 % 64
          let (ph, differs, x) := (s.barrier w.cx 4 num 0).arrive (w.word.toNat / 2 ^ 11 % 2 ^ 16) s.cycles
          let s := strandGuards (s.setBarrier x) w.cx w.str
          let s := match differs, w.note, w.sender with
            | true, some rc, some g => softRec s rc (s.inFaultFrame g) (some (g.course, BitVec.ofNat 8 g.bay, g.ft))
            | _, _, _ => s
          let s := rec_ s { w with word := w.word ||| BitVec.ofNat 64 (ph.toNat * 2 ^ 27), toks := [] }
          w.sender.elim s fun g => outLater s g w.toks ph.toNat
        else rec_ s w)

/-- Bytes of a change written into an entry. -/
def applyBytes (m : List Host.Cell) (x : RidgeChange) : List Host.Cell :=
  (List.range 128).foldl (fun m i =>
    if x.mask.getLsbD i then Memory.write m (128 * x.slot + i) (x.data.extractLsb' (8 * i) 8) else m) m

/-- What a change does to the entries of a mirror (R333, R337). -/
def changeBytes (m : List Host.Cell) (x : RidgeChange) : List Host.Cell :=
  match x.ctl with
  | none => applyBytes m x
  | some w => if w.word.toNat / 2 ^ 61 = 3 then Memory.clear m (128 * (w.word.toNat / 2 ^ 36 % 2 ^ 13)) 128 else m

/-- The mirror of a course that leaves the off state (R347): the journal is replayed from its last applied beat, or, with a
record of those overwritten, the Plate's own entries are copied; it then joins the live beats. -/
def caughtUp (s : State) (y : Course) : List Host.Cell :=
  if s.journalCut ≤ y.lastBeat + 1 then
    (s.journal.filter fun x => decide (y.lastBeat < x.beat) && !(s.changes.contains x)).foldl changeBytes (y.mirror.getD s.ridge)
  else s.ridge

/-- A slot that left its context is free, or idle in the context that granted it, once its zero entry is applied (R337). -/
def dropSlot (s : State) (slot : Nat) : State :=
  match lkp s.slots slot with
  | some x =>
    if x.cx = 0#12 then { s with slots := del s.slots slot }
    else scanSlots { s with slots := put s.slots slot { cx := x.cx, state := .idle, users := 0, leaving := false } }
  | none => s

/-- One change is applied by every mirror and by the Plate's copy (R333, R337, R341, R342). -/
def applyChange (s : State) (x : RidgeChange) : State :=
  match x.ctl with
  | none => { s with ridge := applyBytes s.ridge x }
  | some w =>
    match w.word.toNat / 2 ^ 61 with
    | 1 =>
      let ph := BitVec.ofNat 16 (w.word.toNat / 2 ^ 27)
      let b := s.barrier w.cx 4 (w.word.toNat / 2 ^ 43 % 64) 0
      -- the completing word of a phase is the last of its words
      if s.changes.any (fun y => match y.ctl with
          | some v => v.word.toNat / 2 ^ 61 == 1 && v.cx == w.cx && v.word.toNat / 2 ^ 43 % 64 == w.word.toNat / 2 ^ 43 % 64
              && BitVec.ofNat 16 (v.word.toNat / 2 ^ 27) == ph
          | none => false) then s
      else s.setBarrier { b with due := b.due.filter fun d => d.1 != ph }
    | 2 => flipSelector s w.page
    | 3 =>
      let slot := w.word.toNat / 2 ^ 36 % 2 ^ 13
      dropSlot { s with ridge := Memory.clear s.ridge (128 * slot) 128 } slot
    | _ => s

/-- A mirror that stands apart from the common one, on a course that is not off, applies a change too (R333). -/
def keepMirrors (s : State) (x : RidgeChange) : State :=
  if s.courses.all fun e => e.2.mirror.isNone || e.2.power == .off then s
  else { s with courses := s.courses.map fun e =>
    (e.1, if e.2.power = .off then e.2 else { e.2 with mirror := e.2.mirror.map fun m => changeBytes m x }) }

/-- Changes of one beat, in their order. -/
def applyBeat : List RidgeChange → State → State
  | [], s => s
  | x :: xs, s => applyBeat xs (applyChange (keepMirrors { s with changes := s.changes.drop 1 } x) x)

/-- Insert by beat and channel. -/
def insertChange (x : RidgeChange) : List RidgeChange → List RidgeChange
  | [] => [x]
  | y :: l => if x.beat * 16 + x.ch < y.beat * 16 + y.ch then x :: y :: l else y :: insertChange x l

/-- The waits that an applied beat may end (R238, R245). -/
def ridgeWaits (p : Pend) : Bool := p.op == 0xAC || (p.op == 0xA7 && litScope p.r == 4)

/-- RIDGE_MIRROR_APPLY (R333): the changes of the beats 4 or more before the current one are applied, in the total order;
waits on positions and on RDG barriers then act again. -/
def execRidgeMirrorApply (_ : EvArgs) (s : State) : Host.Outcome State Fault Refusal :=
  let sorted := s.changes.foldl (fun l x => insertChange x l) []
  let due := sorted.filter fun x => decide (x.beat + 4 ≤ s.beat)
  let s := applyBeat due { s with changes := sorted }
  .next (refireWaits s fun p =>
    ridgeWaits p && (if p.op = 0xAC then mirrorHolds s (p.fir.a.getD (plain 0)).word
      else (s.barrier p.fir.cx 4 (barNum p.r) 0).completed (BitVec.ofNat 16 (p.fir.a.getD (plain 0)).word)))

/-- The beats at which something of the Ridge is due: an occurrence, a control word, the application of a change. -/
def ridgeBeats (s : State) : List Nat :=
  ((nextOccurrence s).map Prod.fst).toList ++ ((nextCtl s).map fun x => ctlBeat s x.2).toList ++ s.changes.map fun x => x.beat + 4

/-- BARRIER_PHASE_COMPLETE (R44, R236, R238): a phase whose count is reached completes in its cycle, and its waits emit. `k`
picks among the instances of the scopes BAY, CRS, STK and POD whose next phase is due. -/
def execBarrierPhaseComplete (e : EvArgs) (s : State) : Host.Outcome State Fault Refusal :=
  .next (match (s.barriers.filter fun x => x.scope != 4#3 && (x.due.head?.map fun d => decide (d.2 ≤ s.cycles)).getD false)[e.k.toNat]? with
    | none => s
    | some x =>
      let s := s.setBarrier { x with due := x.due.drop 1 }
      refireWaits s fun p =>
        p.op == 0xA7 && p.fir.cx == x.cx && litScope p.r == x.scope.toNat && barNum p.r == x.num.toNat
          && barUnit p.fir (litScope p.r) == x.unit
          && (s.barrier x.cx x.scope.toNat x.num.toNat x.unit).completed (BitVec.ofNat 16 (p.fir.a.getD (plain 0)).word))

/-- A TICK.until whose tick has come and whose context runs on its course (R246). -/
def tickEnds (s : State) (p : Pend) : Bool :=
  p.op == 0xAD && tickReached s (p.fir.a.getD (plain 0)).word
    && ((s.crs p.fir.course.toNat).holder.map fun h => h == p.fir.cx).getD false

/-- TICK_UNTIL_EXPIRY (R246): the waits whose tick has come emit, those of a context that is swept out at its resumption. -/
def execTickUntilExpiry (_ : EvArgs) (s : State) : Host.Outcome State Fault Refusal := .next (refireWaits s (tickEnds s))

end Sys2Proof.Machine
end

