-- ==== Sys2Proof/Machine/Kernel.lean ====
section
/-! DEFINITION. Sys2Proof/Machine/Kernel.lean: kernels: their words and units (R353, R358), the end of a kernel in any
status (R356, R371 to R373), and how the work of a strand or a context is discarded (R287, R388, R389). -/

namespace Sys2Proof.Machine

/-- A kernel word (R353). -/
def kernelWord (cx serial : Nat) : Nat := cx % 4096 * 2 ^ 32 + serial % 2 ^ 32

/-- A kernel's plane: as it was dropped, else the Thatch's. -/
def State.kernelPlane (s : State) (k : Kernel) : Option Plane :=
  match k.info with
  | some p => some p
  | none => lkp s.planes k.launch.plane.toNat

/-- A kernel is on the fabric. -/
def Kernel.live (k : Kernel) : Bool := k.state == .starting || k.state == .running

def PPool.kind (q : PPool) : Nat := q.w0.toNat / 2 ^ 61 % 4
def PPool.base (q : PPool) : Nat := q.w0.toNat / 2 ^ 16 % 2 ^ 16
def PPool.size (q : PPool) : Nat := q.w0.toNat % 2 ^ 16
def PPool.rsv (q : PPool) : Nat := q.w1.toNat / 2 ^ 48

/-- Bays that a plane uses on a course: elements, pools and blocks. -/
def Plane.baysOn (p : Plane) (c : Nat) : List Nat :=
  ((p.units.filter fun u => u.course == c && !u.crucible).map (fun u => elBay (u.y * 64 + u.x))
    ++ (p.pools.filter fun q => q.course == c).map PPool.bay
    ++ (p.blocks.filter fun b => b.course == c).map PBlock.bay).eraseDups

/-- A plane places a node, pool, gate or crucible on a course (R421). -/
def Plane.onCourse (p : Plane) (c : Nat) : Bool :=
  p.units.any (fun u => u.course == c) || p.pools.any (fun q => q.course == c)

/-- The units that a plane occupies, as (course, code): elements and crucibles by their address, pools by 0x2000 + bay × 8 +
id, gates by 0x1100 + bay. A plane uses a bay's gate when a record of its elements there is a gate instruction (R358). -/
def Plane.occupies (p : Plane) : List (Nat × Nat) :=
  p.units.map (fun u => (u.course, if u.crucible then 0x1000 + u.x else u.y * 64 + u.x))
    ++ p.pools.map (fun q => (q.course, 0x2000 + q.bay * 8 + q.id))
    ++ ((p.units.filter fun u => !u.crucible && u.recs.any fun w => decide (0xB0 ≤ recOp w) && decide (recOp w ≤ 0xB7)).map
      fun u => (u.course, 0x1100 + elBay (u.y * 64 + u.x)))

/-- A plane holds a GAIN.TAKE (R358). -/
def Plane.isHeap (p : Plane) : Bool := p.units.any fun u => !u.crucible && u.recs.any fun w => recOp w == 0xD2

/-- The live kernel of a context that placed the node on a unit: KERN_ID of its casts (R290). -/
def State.kernelAt (s : State) (cx c u : Nat) : Option Kernel :=
  match s.loadedAt cx c u with
  | some l => s.kernels.find? fun k => k.cx.toNat == cx && k.serial == l.serial
  | none => none

/-- A message of the device to the host (R442). -/
def hostSend (s : State) (opc cx p0 p1 : Nat) : State :=
  { s with hostOut := s.hostOut ++
      [{ opc := BitVec.ofNat 8 opc, flags := 0, tag := 0, cx := BitVec.ofNat 16 cx, status := 0, p0 := BitVec.ofNat 64 p0,
         p1 := BitVec.ofNat 64 p1, payload := [] }] }

/-- Code of an end status (R442). -/
def KStatus.code : KStatus → Nat
  | .normal => 0
  | .cancelled => 1
  | .refused => 2
  | .killed => 3

/-- Cells of the tasks of a heap kernel at its end (R373): a queued task becomes idle; a running one too, keeping TAKEN,
when the end is not NORMAL. Its entries and ring records go. -/
def heapCellsEnd (s : State) (cx c : Nat) (ok : Bool) : State :=
  let h := (s.crs c).heap
  let recs := s.heapRecords cx c
  let queued := ((resident h cx).map fun e => e.task.toNat)
    ++ recs.map Prod.snd
  let s := queued.foldl (fun s t => match s.taskCell cx t with
    | some k => if k.st = 1 ∧ k.crs = c then s.putTask cx t { k with st := 0, hr := false } else s
    | none => s) s
  let s := if ok then s else
    (h.running.filter fun r => r.1.toNat == cx).foldl (fun s r => match s.taskCell cx r.2.toNat with
      | some k => if k.st = 2 then s.putTask cx r.2.toNat { k with st := 0 } else s
      | none => s) s
  let s := recs.foldl (fun s r => heapRecordDone s cx c r.1) s
  modHeap s c fun h => { h with entries := h.entries.filter fun e => !(e.cx.toNat == cx && !e.rv)
                                running := h.running.filter fun r => r.1.toNat != cx }

/-- Ridge slots that a kernel of a context reserved go back to idle when no other live kernel reserves them (R336). -/
def unreserveSlots (s : State) (cx : BitVec 12) (ns : List Nat) : State :=
  scanSlots { s with slots := s.slots.map fun e =>
    if (ns.contains e.1 && e.2.cx == cx && !e.2.leaving && e.2.state == .reserved) = true then
      (e.1, { e.2 with users := e.2.users - 1, state := if e.2.users ≤ 1 then .idle else e.2.state })
    else e }

/-- A guard note is of a kernel's allocation: it lies in a pool that the kernel's plane declares, and no two live kernels of a
context declare one pool (R358, R394). -/
def noteOf (s : State) (k : Kernel) (n : GuardNote) : Bool :=
  n.cx == k.cx && ((s.kernelPlane k).map fun p => p.pools.any fun q =>
    q.course == n.info.course.toNat && q.bay == n.info.bay.toNat && decide (q.base ≤ n.info.data0.toNat)
      && decide (n.info.data0.toNat < q.base + q.size)).getD false

/-- What a heap kernel leaves when it ends, in any status (R373). One that ends while another heap kernel of its context is live
never ran, and the tasks are the other's. -/
def heapKernelEnd (s : State) (k : Kernel) (st : KStatus) : State :=
  let cx := k.cx.toNat
  if !(k.heap || ((s.kernelPlane k).map Plane.isHeap).getD false) || (s.heapKernel cx).isSome then s
  else
    let s := if k.heap then (armedTakes s cx).foldl disarm s else s
    (List.range 16).foldl (fun s c => heapCellsEnd s cx c (st == .normal)) s

/-- A kernel ends (R356): its status is kept, KEND goes to the host for one that a LAUNCH message queued (R442), and what
it reserved or armed is given back. The ready words of a gang that ends before its start tick go with it (R362). -/
def endKernel (s : State) (k : Kernel) (st : KStatus) (kind code : Nat) : State :=
  if k.state == .ended then s
  else
    let mine := fun (x : Kernel) => x.cx == k.cx && x.serial == k.serial
    let cx := k.cx.toNat
    let ended := fun (x : Kernel) =>
      if mine x then { x with state := .ended, status := st, fault := BitVec.ofNat 5 kind, code := BitVec.ofNat 16 code,
                              pending := false, slots := [] } else x
    let s := { s with kernels := s.kernels.map ended }
    let s := (List.range 8).foldl (fun s pid => withdrawPool s k.course.toNat k.bay.toNat pid fun w => w.party == .launch k.cx k.serial) s
    let s := heapKernelEnd s k st
    let s := if k.slots.isEmpty then s else unreserveSlots s k.cx k.slots
    let s := if k.launch.gn != 0 && k.tick == 0 then
        { s with readyWords := s.readyWords.filter fun w => w.1 != k.launch.gid.toNat } else s
    let s := reportGuards s fun n => noteOf s k n
      || (n.cx == k.cx && !(s.kernels.any fun x => !(mine x) && x.live && noteOf s x n))
    if k.fromHost then
      hostSend s 0x82 cx (kernelWord cx k.serial.toNat) (st.code + kind % 32 * 2 ^ 8 + code % 2 ^ 16 * 2 ^ 16)
    else s

/-! ### Settling by a kill (R389) -/

/-- Unsettled faults that a test names are settled with VERDICT 6. -/
def settleKilled (s : State) (f : FaultEntry → Bool) : State :=
  let s := (s.faults.filter fun e => !e.settled && f e).foldl (fun s e => noteVerdict s e 6) s
  { s with faults := s.faults.map fun e =>
      if (!e.settled && f e) = true then { e with settled := true, info := { e.info with verdict := 6 } } else e }

/-- A fault's site lies in a frame. -/
def Site.inFrame : Site → Nat → Nat → Nat → Bool
  | .cast c b ft, c', b', ft' => c.toNat == c' && b.toNat == b' && ft.toNat == ft'
  | .home c b ft, c', b', ft' => c.toNat == c' && b.toNat == b' && ft.toNat == ft'
  | _, _, _, _ => false

/-! ### Discarding frames and strands -/

/-- Ready and pending nodes, and completions at the input, of a frame leave its bay's elements. -/
def clearReady (s : State) (c b ft : Nat) : State :=
  let s := { s with saved := s.saved.map fun x =>
    if x.course.toNat = c ∧ elBay x.el = b then
      { x with ready := x.ready.filter (fun r => r.ft.toNat != ft), pending := x.pending.filter (fun r => r.ft.toNat != ft)
               late := x.late.filter (fun r => r.ft.toNat != ft) }
    else x }
  (bayElems b).foldl (fun s el =>
    s.modElem c el fun x =>
      { x with ready := x.ready.filter (fun r => r.ft.toNat != ft), pending := x.pending.filter (fun r => r.ft.toNat != ft)
               late := x.late.filter (fun r => r.ft.toNat != ft)
               input := x.input.filter (fun t => !(t.internal && t.tok.ft.toNat == ft)) }) s

/-- A live cast ends without effect: its parked requests and outstanding work go, and what it was granted is given back
(R27, R388). -/
def dropCast (s : State) (c b ft : Nat) : State :=
  match s.cast? c b ft with
  | none => s
  | some k =>
    let s := if k.committing then unreserveWords s k.held else s
    let s := withdrawCast s c b ft
    let s := clearReady s c b ft
    let s := { s with transit := s.transit.filter fun t =>
      !(t.internal && t.course.toNat == c && t.tok.ft.toNat == ft && elBay (destUnit t.tok.dest) == b) }
    let s := { s with replay := s.replay.filter (fun e => !(e.2.fir.inFrame c b ft))
                      cellWaits := s.cellWaits.filter (fun e => !(e.2.1.fir.inFrame c b ft && e.1 == 0))
                      agenda := s.agenda.filter (fun p => match p with | .fire q => !(q.fir.inFrame c b ft) | _ => true) }
    let s := voidReaders s c b ft
    let s := k.gotCru.foldl (fun s n => freeCru s c n) s
    let s := match s.frame? c b ft with
      | some f => k.gotRdg.foldl (fun s n => freeSlot s f.cx.toNat n) s
      | none => s
    let s := if k.gotHeap = 0 then s else
      match s.frame? c b ft with
      | some f => endTest ((List.range k.gotHeap).foldl (fun s _ => unreserve s f.cx.toNat c) s) f.cx.toNat
      | none => s
    let s := s.modFrame c b ft fun f => { f with cast := none, link := { f.link with lc := false, e := false } }
    freeAll s c b (k.gotFrames.map BitVec.toNat) k.gotBufs

/-- The buffers that a frame holds (HFT), as (pool, entry). -/
def heldBufs (y : Bay) (ft : Nat) : List (Nat × Nat) :=
  y.pools.flatMap fun p => (p.2.pmap.filter fun e => e.2.v && !e.2.ch && e.2.hft.toNat == ft).map fun e => (p.1, e.1)

/-- The held spills of a bay whose victim has been freed are given up, and their faults settled (R388, R389). -/
def abandonFreed (s : State) (c b : Nat) : State :=
  (List.range 8).foldl (fun s pid =>
    match (s.pool? c b pid).bind fun p => if p.spillHeld then p.spilling else none with
    | some (id, _, _) =>
      if isFreeing s c b pid id then
        abandonSpill (settleKilled s fun e => e.site == .spillLatch (BitVec.ofNat 4 c) (BitVec.ofNat 8 b) (BitVec.ofNat 3 pid)) c b pid
      else s
    | none => s) s

/-- Frames end with their strand (R388): casts aborted, buffers they hold and frames freed. One that is being copied, or whose
image is being written, goes when that ends, and holds its tag and room until then (R63, R66). -/
def dropFrames (s : State) (c b : Nat) (fts : List Nat) : State :=
  let s := fts.foldl (fun s ft => dropCast s c b ft) s
  let s := fts.foldl (fun s ft =>
    (settleKilled s fun e => e.site.inFrame c b ft).modFrame c b ft fun f =>
      { f with killing := true, atBay := [], waiting := [], pres := 0, inp := 0, arrivals := [] }) s
  abandonFreed (freeAll s c b fts (fts.flatMap fun ft => heldBufs (s.bay c b) ft)) c b

/-- Take latches of a strand are disarmed with it. -/
def dropLatches (s : State) (cx str : Nat) : State :=
  ((armedTakes s cx).filter fun x => x.2.2.2.link.str.toNat == str).foldl disarm s

/-- Parked heap reservations and streams of a strand. -/
def dropStreams (s : State) (f : Stream → Bool) : State :=
  s.bays.foldl (fun s y =>
    (y.2.streams.filter fun e => e.2.state != 0 && f e.2).foldl (fun s e =>
      freeStream (withdrawBay s (y.1 / 256) (y.1 % 256) fun w => w.party == .stream e.1) (y.1 / 256) (y.1 % 256) e.1) s) s

/-- The crucible frames whose linkage holds a strand are freed (R253, R254, R388). -/
def dropCrucibles (s : State) (cx str : Nat) : State :=
  s.crucibles.foldl (fun s e =>
    if e.2.granted && e.2.cx.toNat == cx && e.2.link.str.toNat == str then freeCru s (e.1 / 32) (e.1 % 32) else s) s

/-- The held fills of a strand go (R294). -/
def dropFills (s : State) (cx str : Nat) : State :=
  { s with courses := s.courses.map fun e =>
      (e.1, { e.2 with refill := e.2.refill.filter fun f => !(f.held && f.cx.toNat == cx && f.str.toNat == str) }) }

/-- A site that outlives the strand that its record names: a held spill or eviction is the pool's or the heap's work, until a
verdict for its own site (R388); an aborted cast, a suspended write and a rejected token go with their frames alone, which a
STRAND may have moved to another strand (R172, R389). -/
def Site.outlives (s : State) : Site → Bool
  | .spillLatch _ _ _ => true
  | .heapLatch _ => true
  | .cast _ _ _ => true
  | .home _ _ _ => true
  | .token t =>
    ((s.frame? t.course.toNat (elBay (destUnit t.tok.dest)) t.tok.ft.toNat).map fun f =>
      f.cx == t.tok.cx && f.it == t.tok.it && !f.killing).getD false
  | _ => false

/-- KILL_STRAND (R388): every frame of the context whose linkage holds the strand ends. -/
def killStrand (s : State) (cx str : Nat) : State :=
  let s := s.bays.foldl (fun s y =>
    let fts := (y.2.frames.filter fun e => e.2.cx.toNat == cx && e.2.link.str.toNat == str).map Prod.fst
    if fts.isEmpty then s else dropFrames s (y.1 / 256) (y.1 % 256) fts) s
  let s := dropStreams s fun x => x.pend.fir.cx.toNat == cx && x.link.str.toNat == str
  let s := dropFills (dropCrucibles (dropLatches s cx str) cx str) cx str
  settleKilled s fun e => e.info.ocx.toNat == cx && e.info.strv && e.info.str.toNat == str && !e.info.soft && !(e.site.outlives s)

/-- Every frame of a context in a bay. -/
def framesOf (y : Bay) (cx : Nat) : List Nat := (y.frames.filter fun e => e.2.cx.toNat == cx).map Prod.fst

end Sys2Proof.Machine
end

