-- ==== Sys2Proof/Machine/Context.lean ====
section
/-! DEFINITION. Sys2Proof/Machine/Context.lean: contexts and what they hold (R43, R280 to R287, R409, R417 to R420, R431,
R434): holding entries, granting, revoking, creating, stopping, resetting and deleting. -/

namespace Sys2Proof.Machine

/-- The context word of a context (R280). -/
def ctxWord (s : State) (cx : Nat) : Nat := (s.ctx cx).depth.toNat * 2 ^ 12 + cx % 4096

/-! ### Holding entries (R282) -/

def holdingOf (w0 w1 : Nat) : Holding where
  kind := BitVec.ofNat 4 (w0 / 2 ^ 60)
  course := BitVec.ofNat 4 (w0 / 2 ^ 56)
  p0 := BitVec.ofNat 56 w0
  p1 := BitVec.ofNat 64 w1

/-- An entry is malformed (R282, R431): PROT 19. -/
def Holding.bad (h : Holding) : Bool :=
  let p0 := h.p0.toNat
  let p1 := h.p1.toNat
  let none_ := h.course != 0#4
  match h.kind.toNat with
  | 0 => p0 / 2 ^ 24 % 2 ^ 24 != 0 || p1 != 0
  | 1 => p0 / 2 ^ 32 % 2 ^ 16 != 0 || p0 % 2 ^ 16 == 0 || decide (61440 < p0 % 2 ^ 16) || p1 != 0
  | 2 => none_ || p0 % 2 ^ 16 != 0 || p1 % 2 ^ 32 == 0 || p1 / 2 ^ 33 != 0
  | 3 => p0 / 2 ^ 24 != 0 || p1 != 0
  | 4 => none_ || p0 / 2 ^ 13 != 0 || p1 == 0 || decide (8192 < p1)
  | 5 => decide (24 < p0) || p1 != 0
  | 6 => decide (4096 < p0) || p1 != 0
  | 7 => p0 / 2 != 0 || p1 / 2 ^ 56 != 0 || p1 / 2 ^ 4 % 2 ^ 12 != 0 || p1 % 16 == 15
  | 8 => none_ || p0 != 0
  | 9 => none_ || p0 / 2 ^ 24 != 0 || p1 != 0
  | 10 =>
    let mig := p1 / 2 ^ 63 == 1
    none_ || p0 / 2 ^ 10 != 0 || p1 % 2 ^ 11 == 0 || decide (1024 < p1 % 2 ^ 11) || p1 / 2 ^ 11 % 2 ^ 52 != 0
      || (mig && p1 % 2 ^ 11 != 1)
  | 11 => none_ || p0 / 2 ^ 16 != 0 || p1 / 2 ^ 32 != 0
  | _ => true

/-- What a ranged entry covers: key, first, count. Kinds 0, 1, 2, 4 and 10. -/
def Holding.range (h : Holding) : Nat × Nat × Nat :=
  let p0 := h.p0.toNat
  let p1 := h.p1.toNat
  let bay := h.course.toNat * 256 + p0 / 2 ^ 48 % 256
  match h.kind.toNat with
  | 0 => (bay, p0 % 2 ^ 12, p0 / 2 ^ 12 % 2 ^ 12 + 1 - p0 % 2 ^ 12)
  | 1 => (bay, p0 / 2 ^ 16 % 2 ^ 16, p0 % 2 ^ 16)
  | 2 => (0, p0, p1 % 2 ^ 32 * 2 ^ 16)
  | 4 => (0, p0, p1)
  | _ => (0, p0, p1 % 2 ^ 11)

/-- The entry of the same kind and key over another range. -/
def Holding.span (h : Holding) (lo n : Nat) : Holding :=
  let p0 := h.p0.toNat
  let p1 := h.p1.toNat
  let bay := p0 / 2 ^ 48 % 256 * 2 ^ 48
  match h.kind.toNat with
  | 0 => { h with p0 := BitVec.ofNat 56 (bay + (lo + n - 1) * 2 ^ 12 + lo) }
  | 1 => { h with p0 := BitVec.ofNat 56 (bay + lo * 2 ^ 16 + n) }
  | 2 => { h with p0 := BitVec.ofNat 56 lo, p1 := BitVec.ofNat 64 (p1 / 2 ^ 32 * 2 ^ 32 + n / 2 ^ 16) }
  | 4 => { h with p0 := BitVec.ofNat 56 lo, p1 := BitVec.ofNat 64 n }
  | _ => { h with p0 := BitVec.ofNat 56 lo, p1 := BitVec.ofNat 64 n }

/-- The mask of a masked entry (kinds 3 and 8), with its key. -/
def Holding.mask (h : Holding) : Nat × Nat :=
  if h.kind = 3#4 then (h.course.toNat, h.p0.toNat) else (0, h.p1.toNat)

def Holding.withMask (h : Holding) (m : Nat) : Holding :=
  if h.kind = 3#4 then { h with p0 := BitVec.ofNat 56 m } else { h with p1 := BitVec.ofNat 64 m }

def isRanged (k : Nat) : Bool := k == 0 || k == 1 || k == 2 || k == 4 || k == 10
def isMasked (k : Nat) : Bool := k == 3 || k == 8
def isShare (k : Nat) : Bool := k == 5 || k == 6 || k == 9

/-- A list of holdings without a range of a kind and key. -/
def cutRange (kind key lo n : Nat) (hs : List Holding) : List Holding :=
  hs.flatMap fun h =>
    if h.kind.toNat = kind ∧ h.range.1 = key then
      let (_, a, k) := h.range
      if a + k ≤ lo ∨ lo + n ≤ a then [h]
      else (if a < lo then [h.span a (lo - a)] else []) ++ (if lo + n < a + k then [h.span (lo + n) (a + k - lo - n)] else [])
    else [h]

/-- A list of holdings without the bits of a mask. -/
def cutMask (kind key m : Nat) (hs : List Holding) : List Holding :=
  hs.filterMap fun h =>
    if h.kind.toNat = kind ∧ h.mask.1 = key then
      let m' := h.mask.2 - (h.mask.2 &&& m)
      if m' = 0 then none else some (h.withMask m')
    else some h

/-- Holdings of a list cover a range. -/
def coverRange (kind key : Nat) (hs : List Holding) (stop : Nat) : Nat → Nat → Bool
  | 0, a => decide (stop ≤ a)
  | fuel + 1, a =>
    if stop ≤ a then true
    else
      match hs.find? fun h => h.kind.toNat == kind && h.range.1 == key && decide (h.range.2.1 ≤ a) && decide (a < h.range.2.1 + h.range.2.2) with
      | some h => coverRange kind key hs stop fuel (h.range.2.1 + h.range.2.2)
      | none => false

/-- Bits of a kind and key that a list of holdings has. -/
def maskOf (kind key : Nat) (hs : List Holding) : Nat :=
  (hs.filter fun h => h.kind.toNat == kind && h.mask.1 == key).foldl (fun m h => m ||| h.mask.2) 0

/-- A range overlaps some holding of a list. -/
def overlaps (kind key lo n : Nat) (hs : List Holding) : Bool :=
  hs.any fun h => h.kind.toNat == kind && h.range.1 == key && decide (h.range.2.1 < lo + n) && decide (lo < h.range.2.1 + h.range.2.2)

/-- Add a moved item to a list, joined to the pieces that it touches. -/
def joinRange (h : Holding) : Nat → List Holding → List Holding
  | 0, hs => hs ++ [h]
  | fuel + 1, hs =>
    let (key, lo, n) := h.range
    match hs.find? fun g => g.kind == h.kind && g.range.1 == key
        && (decide (g.range.2.1 + g.range.2.2 = lo) || decide (lo + n = g.range.2.1)) with
    | some g =>
      joinRange (h.span (min lo g.range.2.1) (n + g.range.2.2)) fuel (hs.erase g)
    | none => hs ++ [h]

def addItem (h : Holding) (hs : List Holding) : List Holding :=
  if h.kind = 0#4 ∨ h.kind = 1#4 ∨ h.kind = 4#4 then joinRange h hs.length hs
  else if isMasked h.kind.toNat then
    match hs.find? fun g => g.kind == h.kind && g.mask.1 == h.mask.1 with
    | some g => hs.erase g ++ [g.withMask (g.mask.2 ||| h.mask.2)]
    | none => hs ++ [h]
  else hs ++ [h]

/-- Take an item out of a list. -/
def cutItem (h : Holding) (hs : List Holding) : List Holding :=
  let k := h.kind.toNat
  if isRanged k then cutRange k h.range.1 h.range.2.1 h.range.2.2 hs
  else if isMasked k then cutMask k h.mask.1 h.mask.2 hs
  else hs

/-- A list covers an item. -/
def coversItem (h : Holding) (hs : List Holding) : Bool :=
  let k := h.kind.toNat
  if isRanged k then coverRange k h.range.1 hs (h.range.2.1 + h.range.2.2) (hs.length + 1) h.range.2.1
  else if isMasked k then (maskOf k h.mask.1 hs &&& h.mask.2) == h.mask.2
  else true

/-- Holdings of every context but context 0. -/
def State.allHolds (s : State) : List Holding := s.ctxs.flatMap fun e => if e.1 = 0 then [] else e.2.holds

/-- A bank that the firmware withholds as a spare, or has retired (R396, R399, R448): by × 16 + bx, times 16, plus bank. -/
def State.withheld (s : State) (c bank : Nat) : Bool :=
  (List.range s.policy.spare).any (fun i => Config.spareBank c i % 4096 == bank) || s.telem.retiredBanks.contains (c * 4096 + bank)

/-- Context 0 holds an item: no other context does, and the firmware does not withhold it (R283). -/
def State.rootHolds (s : State) (h : Holding) : Bool :=
  let k := h.kind.toNat
  let (key, lo, n) := h.range
  match k with
  | 0 => !(overlaps 0 key lo n s.allHolds)
  | 1 => decide (lo + n ≤ 61440) && !(overlaps 1 key lo n s.allHolds)
      && (List.range ((lo + n - 1) / 4096 + 1 - lo / 4096)).all fun i => !(s.withheld (key / 256) (key % 256 * 16 + lo / 4096 + i))
  | 4 => decide (lo + n ≤ 8192) && !(overlaps 4 0 lo n s.allHolds) && s.slots.all fun e => decide (e.1 < lo) || decide (lo + n ≤ e.1)
  | 3 => (maskOf 3 h.mask.1 s.allHolds &&& h.mask.2) == 0
  | 8 => (maskOf 8 0 s.allHolds &&& h.mask.2) == 0
  | _ => true

/-- A range of physical memory exists and is not withheld (R283, R412). -/
def State.physExists (s : State) (lo n : Nat) : Bool :=
  let a := s.localPA lo
  let b := s.localPA (lo + n - 1)
  let l := stackAddr a
  let m := stackAddr b
  (isPodPA a == isPodPA b) && a / 2 ^ 45 == b / 2 ^ 45
    && (!(isPodPA a) || s.reach.contains (a / 2 ^ 45 % 1024))
    && ((isFarPA l && isFarPA m)
      || (isNearPA l && isNearPA m
        && (isPodPA a || (List.range s.policy.spare).all fun i => (List.range 16).all fun c =>
            let w := nearPA c (Config.spareBank c i % 4096 / 16) (Config.spareBank c i % 16 * 2 ^ 16)
            decide (w + 2 ^ 16 ≤ l) || decide (m < w))))

/-- Eave bandwidth of a context on a link, in 1/256 (R282, KIND 9). -/
def State.eaveShare (s : State) (cx link : Nat) : Nat :=
  if cx = 0 then 256
  else (((s.ctx cx).holds.filter fun h => h.kind == 9#4 && h.p0.toNat / 2 ^ link % 2 == 1).map fun h => h.p0.toNat / 2 ^ 16 % 256).sum

def State.eaveGiven (s : State) (cx link : Nat) : Nat :=
  ((s.ctxs.filter fun e => e.1 != 0 && e.2.parent.toNat == cx).map fun e => s.eaveShare e.1 link).sum

/-- Set bits of a mask of n bits. -/
def bitsOf (n m : Nat) : List Nat := (List.range n).filter fun i => m / 2 ^ i % 2 == 1

/-! ### Partition tables and slots follow the holdings -/

/-- The valid partition entries of a bay, from every context's frame-tag holdings (R42, R43). -/
def State.partsOf (s : State) (key : Nat) : List Part :=
  s.ctxs.flatMap fun e => (e.2.holds.filter fun h => h.kind == 0#4 && h.range.1 == key).map fun h =>
    { cx := BitVec.ofNat 12 e.1, fth := BitVec.ofNat 12 (h.p0.toNat / 2 ^ 12), ftl := BitVec.ofNat 12 h.p0.toNat }

def syncParts (s : State) (key : Nat) : State :=
  let ps := s.partsOf key
  s.modBay (key / 256) (key % 256) fun y => { y with parts := (List.range ps.length).zip ps }

/-- Slots that come to a context: idle (R336). -/
def takeSlots (s : State) (cx lo n : Nat) : State :=
  scanSlots { s with slots := (List.range n).foldl (fun l i =>
    put l (lo + i) { cx := BitVec.ofNat 12 cx, state := .idle, users := 0, leaving := false }) s.slots }

/-- No kernel and no cast of a context gives back a slot that has left it (R336). -/
def forgetSlot (s : State) (cx n : Nat) : State :=
  { s with
    kernels := s.kernels.map fun k => if k.cx.toNat = cx then { k with slots := k.slots.filter (· != n) } else k
    bays := s.bays.map fun y => (y.1, { y.2 with frames := y.2.frames.map fun e =>
      if e.2.cx.toNat = cx then (e.1, { e.2 with cast := e.2.cast.map fun k => { k with gotRdg := k.gotRdg.filter (· != n) } }) else e }) }

/-- One slot leaves a context. One zero entry clears it, whatever further contexts it then passes through (R337). -/
def leaveSlot (s : State) (from_ to_ n : Nat) : State :=
  match lkp s.slots n with
  | none => s
  | some x =>
    if x.cx.toNat ≠ from_ then s
    else
      let s := { forgetSlot s from_ n with slots := put s.slots n { cx := BitVec.ofNat 12 to_, state := .idle, users := 0, leaving := true } }
      if x.leaving then s
      else
        let w : Word := BitVec.ofNat 64 (3 * 2 ^ 61 + n % 2 ^ 13 * 2 ^ 36 + 16 * 2 ^ 6)
        s.modCrs 16 fun y => { y with ctl := y.ctl ++ [{ word := w, beat := s.beat, page := 0, cx := 0, str := 0, toks := [], note := none }] }

/-- Slots that leave their context: each waits for its zero entry, then is free or idle in `to_` (R337). -/
def leaveSlots (s : State) (from_ to_ lo n : Nat) : State :=
  (List.range n).foldl (fun s i => leaveSlot s from_ to_ (lo + i)) s

def modHolds (s : State) (cx : Nat) (f : List Holding → List Holding) : State :=
  if cx = 0 then s else s.modCtx cx fun x => { x with holds := f x.holds }

/-- A range of granules without those of another. -/
def cutGranules (lo n : Nat) (r : Nat × Nat) : List (Nat × Nat) :=
  if r.1 + r.2 ≤ lo ∨ lo + n ≤ r.1 then [r]
  else (if r.1 < lo then [(r.1, lo - r.1)] else []) ++ (if lo + n < r.1 + r.2 then [(lo + n, r.1 + r.2 - lo - n)] else [])

/-- A range of granules is open to a context's pools again. -/
def roomBack (s : State) (cx key lo n : Nat) : State :=
  s.modBay (key / 256) (key % 256) fun y => { y with pools := y.pools.map fun e =>
    (e.1, if e.2.cx.toNat = cx then { e.2 with away := e.2.away.flatMap (cutGranules lo n) } else e.2) }

/-- A range of granules is closed to a context's pools: they grant nothing from it (R283, R418). -/
def roomAway (s : State) (cx key lo n : Nat) : State :=
  s.modBay (key / 256) (key % 256) fun y => { y with pools := y.pools.map fun e =>
    let a := max lo e.2.base.toNat
    let z := min (lo + n) (e.2.base.toNat + e.2.size.toNat)
    (e.1, if e.2.cx.toNat = cx ∧ a < z then { e.2 with away := e.2.away ++ [(a, z - a)] } else e.2) }

/-- Room that changes hands is zeroed (R176): a write, before which tagged lines bump their contexts (R415). -/
def zeroRoom (s : State) (key lo n : Nat) : State :=
  let a := nearPA (key / 256) (key % 256) (16 * lo)
  let s := touchRange s a (16 * n)
  { s with mem := Memory.clear s.mem a (16 * n) }

/-- What a grant of tags or of room starts in a bay: spilled allocations of the context come back, and its requests are served
(R70, R418). -/
def wakePools (s : State) (key cx : Nat) : State :=
  let (c, b) := (key / 256, key % 256)
  ((s.bay c b).pools.filter fun p => p.2.cx.toNat == cx).foldl (fun s p =>
    let n := (spilledOf (s.bay c b) p.1).length
    scanPool ((List.range n).foldl (fun s _ => restoreStep s c b p.1) s) c b p.1) s

/-! ### Crucibles that change hands (R254, R283, R418) -/

/-- The crucible frames of a context in the crucibles of an entry are freed (R254). -/
def freeCrus (s : State) (cx : Nat) (h : Holding) : State :=
  (bitsOf 24 h.p0.toNat).foldl (fun s n =>
    let x := s.cru h.course.toNat n
    if x.granted && x.cx.toNat == cx then freeCru s h.course.toNat n else s) s

/-- The crucibles of an entry serve their lists, for the one that holds them now. -/
def serveCrus (s : State) (h : Holding) : State := (bitsOf 24 h.p0.toNat).foldl (fun s n => scanCru s h.course.toNat n) s

/-! ### Granting (R283) -/

/-- One entry is given by an issuer to a child: refused with HOLDING 2, or the state after it. `root` says that the list is
that of a CTX_CREATE, whose issuer is context 0. -/
def giveItem (s : State) (iss ch : Nat) (h : Holding) : Option State :=
  let k := h.kind.toNat
  let c := h.course.toNat
  let (key, lo, n) := h.range
  let moved := fun (s : State) => modHolds (modHolds s iss (cutItem h)) ch (addItem h)
  let added := fun (s : State) => modHolds s ch (· ++ [h])
  let has := if iss = 0 then s.rootHolds h else coversItem h (s.ctx iss).holds
  match k with
  | 0 =>
    if n = 0 ∨ has = false then none
    else
      let s' := moved s
      if 16 < (s'.partsOf key).length then none else some (wakePools (syncParts s' key) key ch)
  | 1 =>
    if has then some (wakePools (zeroRoom (roomBack (roomAway (moved s) iss key lo n) ch key lo n) key lo n) key ch) else none
  | 2 => if iss = 0 && !(s.physExists lo n) then none else some (added s)
  | 3 => if has then some (serveCrus (freeCrus (moved s) iss h) h) else none
  | 4 =>
    let free := (List.range n).all fun i => match lkp s.slots (lo + i) with
      | some x => x.cx.toNat == iss && !x.leaving
      | none => iss == 0
    if has && free then some (takeSlots (moved s) ch lo n) else none
  | 5 => if h.p0.toNat ≤ s.freeShare iss c 5 then some (added s) else none
  | 6 => if h.p0.toNat ≤ s.freeShare iss c 6 then some (freedUnit (added s) ch c) else none
  | 7 =>
    let sel := h.p0.toNat % 2
    let r : Ring := { base := BitVec.ofNat 64 (h.p1.toNat / 2 ^ 16 * 2 ^ 16), sz := BitVec.ofNat 4 h.p1.toNat, head := 0, tail := 0, written := 0 }
    some ((modHolds s ch fun hs => hs.filter (fun g => !(g.kind == 7#4 && g.course == h.course && g.p0 == h.p0)) ++ [h]).modCtx ch
      fun x => { x with rings := put x.rings (sel * 16 + c) r })
  | 8 => if has then some (moved s) else none
  | 9 =>
    let share := h.p0.toNat / 2 ^ 16 % 256
    if (bitsOf 16 h.p0.toNat).all fun l => decide (share + s.eaveGiven iss l ≤ s.eaveShare iss l) then some (added s) else none
  | 10 => if (List.range n).all fun i => s.holdsStack iss (lo + i) then some (added s) else none
  | _ =>
    some ((modHolds s ch fun hs => hs.filter (fun g => g.kind != 11#4) ++ [h]).modCtx ch
      fun x => { x with weight := BitVec.ofNat 16 h.p0.toNat, quantum := BitVec.ofNat 32 h.p1.toNat })

/-- A list is given whole or not at all: the fault that refuses it, or the state after it. -/
def giveList (s : State) (iss ch : Nat) : List Holding → Except (Nat × Nat) State
  | [] => .ok s
  | h :: hs =>
    if h.bad then .error (kPROT, 19)
    else
      match giveItem s iss ch h with
      | some s' => giveList s' iss ch hs
      | none => .error (kHOLDING, 2)

/-! ### Creating (R281, R284) -/

/-- The lowest free context number. -/
def State.freeCx (s : State) : Option Nat :=
  (List.range 4095).map (· + 1) |>.find? fun n => (s.ctx? n).isNone && !(s.migrated.any fun m => m.1.toNat == n)

/-- FAULT_POL admits a value (R387). -/
def faultPolOk (x : Nat) : Bool := x / 2 ^ 5 == 0

/-- The fields of a creation record: TROOT, SEED, NHOLD, SBC, FPOL; none when it is malformed (R281). -/
def creationOf (ws : List Nat) : Option (Nat × Nat × Nat × Nat × Nat) :=
  match ws with
  | [w0, w1, w2, w3, w4, w5, w6, w7] =>
    let sbc := w2 / 2 ^ 43 % 32
    if w0 / 2 ^ 56 = 0 ∧ w2 % 2 ^ 43 = 0 ∧ sbc ≤ 16 ∧ w2 / 2 ^ 48 ≤ 1024 ∧ faultPolOk w3 = true ∧ w4 = 0 ∧ w5 = 0 ∧ w6 = 0 ∧ w7 = 0 then
      some (w0, w1, w2 / 2 ^ 48, sbc, w3)
    else none
  | _ => none

/-- A child of a context with the fields of its creation record, with no holding yet. -/
def newCtx (s : State) (iss : Nat) (f : Nat × Nat × Nat × Nat × Nat) : Ctx :=
  { Ctx.fresh with
    depth := (s.ctx iss).depth + 1
    parent := BitVec.ofNat 12 iss
    troot := BitVec.ofNat 64 f.1
    seed := BitVec.ofNat 64 f.2.1
    sbc := BitVec.ofNat 5 f.2.2.2.1
    sbc0 := BitVec.ofNat 5 f.2.2.2.1
    fpol0 := BitVec.ofNat 64 f.2.2.2.2
    faultPol := BitVec.ofNat 64 f.2.2.2.2 }

/-- Create a child from a creation record's words and its entries (R284): the fault that refuses it, or its number. -/
def createChild (s : State) (iss : Nat) (ws : List Nat) (es : List Holding) : Except (Nat × Nat) (Nat × State) :=
  match creationOf ws with
  | none => .error (kPROT, 19)
  | some f =>
    match s.freeCx with
    | none => .error (kHOLDING, 4)
    | some cx =>
      let s := { s with ctxs := put s.ctxs cx (newCtx s iss f) }
      match giveList s iss cx es with
      | .error e => .error e
      | .ok s => .ok (cx, s.modCtx cx fun x => { x with born := es.filter fun h => h.kind == 7#4 || h.kind == 11#4 })

/-! ### Subtrees -/

/-- A context and its descendants, deepest first, and among one depth the highest number first (R287, R417). -/
def State.subtree (s : State) (cx : Nat) : List Nat :=
  let all := (s.ctxs.filter fun e => e.1 != 0 && s.inSubtree cx e.1).map fun e => (e.2.depth.toNat, e.1)
  ((List.range 8).reverse.flatMap fun d => ((all.filter fun e => e.1 == d).map Prod.snd).reverse)

/-- A context of a subtree holds a live slice, or is being swept. -/
def State.onFabric (s : State) (cx : Nat) : Bool :=
  s.courses.any fun e =>
    (match e.2.holder with | some h => s.inSubtree cx h.toNat | none => false)
      || (match e.2.sweeping with | some (x, _, _) => s.inSubtree cx x.toNat | none => false)

/-! ### Discarding a context's work (R79, R287, R389) -/

/-- Images of a context's spilled allocations in a bay are marked done, one that is still being written included. -/
def imagesDone (s : State) (c b cx : Nat) : State :=
  let y := s.bay c b
  let s := (y.pools.filter fun p => p.2.cx.toNat == cx && p.2.spillPlaced).foldl (fun s p =>
    match p.2.spilling with
    | some (_, off, _) => imageDone s cx c off
    | none => s) s
  let s := (y.frames.filter fun e => e.2.cx.toNat == cx && e.2.sp).foldl (fun s e => imageDone s cx c e.2.image.1) s
  (y.pools.filter fun p => p.2.cx.toNat == cx).foldl (fun s p =>
    (p.2.pmap.filter fun e => e.2.v && e.2.sp).foldl (fun s e => imageDone s cx c e.2.img) s) s

/-- A pool with nothing in it. -/
def Pool.emptied (p : Pool) : Pool :=
  { p with anchored := false, waiters := [], pmap := p.pmap.map (fun e => (e.1, { e.2 with v := false, sp := false, mv := false, freeing := false }))
           timer := 0, spilledForHead := false, moving := [], moveDue := 0, spilling := none, spillHeld := false, spillPlaced := false, restoring := [], pseudo := none }

/-- What a context has in a bay goes; its pools leave the bay when it is deleted. Fences of others that waited for its streams
complete (R272). -/
def clearBay (s : State) (c b cx : Nat) (del_ : Bool) : State :=
  let s := (framesOf (s.bay c b) cx).foldl (fun s ft =>
    match s.frame? c b ft with
    | some f =>
      let s := match f.cast with | some k => (if k.committing then unreserveWords s k.held else s) | none => s
      clearReady (leaveBytes s c b f.pool.toNat (.frame (BitVec.ofNat 12 ft))) c b ft
    | none => s) s
  let s := s.modBay c b fun y =>
    { y with frames := y.frames.filter (fun e => e.2.cx.toNat != cx)
             pools := if del_ then y.pools.filter (fun p => p.2.cx.toNat != cx)
                      else y.pools.map fun p => (p.1, if p.2.cx.toNat = cx then p.2.emptied else p.2)
             streams := y.streams.filter (fun e => e.2.pend.fir.cx.toNat != cx)
             fences := y.fences.filter (fun f => !(f.2.1.any fun t => t.tok.cx.toNat == cx))
             tlb := y.tlb.filter (fun t => t.cx.toNat != cx) }
  scanFences s c b

/-- What a context has on a course goes. -/
def clearCourse (s : State) (c cx : Nat) (del_ : Bool) : State :=
  let s := (List.range 24).foldl (fun s n =>
    let x := s.cru c n
    let s := if x.waiters.any (fun w => w.2.fir.cx.toNat == cx) then
        scanCru (s.setCru c n { x with waiters := x.waiters.filter fun w => w.2.fir.cx.toNat != cx }) c n else s
    if x.granted && x.cx.toNat == cx then freeCru s c n else s) s
  s.modCrs c fun y =>
    { y with
      holder := match y.holder with | some h => if h.toNat = cx then none else some h | none => none
      frozen := y.frozen.filter fun t => t.tok.cx.toNat != cx
      port := y.port.map fun w => { w with toks := w.toks.filter fun t => t.tok.cx.toNat != cx }
      ctl := y.ctl.map fun w => { w with toks := w.toks.filter fun t => t.tok.cx.toNat != cx }
      sweeping := match y.sweeping with | some (x, t, n) => if x.toNat = cx then none else some (x, t, n) | none => none
      loaded := if del_ then y.loaded.filter (fun l => l.cx.toNat != cx) else y.loaded
      shadow := match y.shadow with | .complete x p i => if x.toNat = cx then .none else .complete x p i | .none => .none
      next := match y.next with | some x => if x.toNat = cx then none else some x | none => none
      kept := y.kept.filter fun k => k.1.toNat != cx
      fill := match y.fill with | some f => if f.cx.toNat = cx then none else some f | none => none
      fillNext := y.fillNext.filter fun f => f.cx.toNat != cx
      refill := y.refill.filter fun f => f.cx.toNat != cx
      walks := (y.walks.map fun w => { w with users := w.users.filter fun p => p.fir.cx.toNat != cx, guests := w.guests.filter fun g => g.cx.toNat != cx }).filter fun w => w.cx.toNat != cx
      heap := { y.heap with
        entries := y.heap.entries.filter fun e => e.cx.toNat != cx
        waits := y.heap.waits.filter fun w => w.cx.toNat != cx
        running := y.heap.running.filter fun r => r.1.toNat != cx
        evictSeq := del y.heap.evictSeq cx
        pops := del y.heap.pops cx
        oldPops := del y.heap.oldPops cx } }

/-- A token, wait or request of a context in some element goes. -/
def clearElement (x : Element) (cx : Nat) : Element :=
  { x with ready := x.ready.filter fun r => r.cx.toNat != cx
           pending := x.pending.filter fun r => r.cx.toNat != cx
           input := x.input.filter fun t => t.tok.cx.toNat != cx
           late := x.late.filter fun t => t.cx.toNat != cx
           takes := x.takes.filter fun t => t.2.cx.toNat != cx }

/-- The readers parked on structure words in a context's DEF pools go with their records. -/
def clearTags (s : State) (cx : Nat) : State :=
  { s with stags := s.stags.map fun e =>
      let (c, b) := homeOf e.1
      let own := match s.pool? c b e.2.pool.toNat with | some p => p.cx.toNat == cx | none => false
      (e.1, if e.2.wait && own then { e.2 with wait := false, head := none, tail := none } else e.2) }

/-- The work of one context leaves the stack: frames, allocations, heap entries, parked requests, tokens in flight, queued host
messages. -/
def clearWork (s : State) (cx : Nat) (del_ : Bool) : State :=
  let s := clearTags s cx
  let s := s.bays.foldl (fun s y => clearBay s (y.1 / 256) (y.1 % 256) cx del_) s
  let s := (List.range 16).foldl (fun s c => clearCourse s c cx del_) s
  scanSlots
    { s with
      elements := s.elements.map fun e => (e.1, clearElement e.2 cx)
      transit := s.transit.filter fun t => t.tok.cx.toNat != cx
      eaveOut := s.eaveOut.filter fun t => t.tok.cx.toNat != cx
      rdgWaits := s.rdgWaits.filter fun w => w.2.fir.cx.toNat != cx
      barriers := s.barriers.filter fun b => b.cx.toNat != cx
      cells := s.cells.filter fun x => x.cx.toNat != cx
      cellWaits := s.cellWaits.filter fun e => e.2.1.fir.cx.toNat != cx
      replay := s.replay.filter fun e => e.2.fir.cx.toNat != cx
      plateWork := s.plateWork.filter fun w => w.pend.fir.cx.toNat != cx
      saved := s.saved.filter fun x => x.cx.toNat != cx
      sigs := s.sigs.filter fun m => m.cx.toNat != cx
      guardNotes := s.guardNotes.filter fun g => g.cx.toNat != cx
      dooms := s.dooms.filter fun d => d.cx.toNat != cx
      slots := s.slots.map fun e => if e.2.cx.toNat = cx ∧ e.2.state = .granted then (e.1, { e.2 with state := .idle }) else e
      agenda := s.agenda.filter fun p => match p with
        | .fire q => q.fir.cx.toNat != cx
        | .plate q => q.fir.cx.toNat != cx
        | _ => true }

/-- Courses whose heap latch holds an eviction of a context (R370). -/
def heldHeaps (s : State) (cx : Nat) : List Nat :=
  s.faults.filterMap fun e => match e.site with
    | .heapLatch c => if !e.settled && e.info.ocx.toNat == cx then some c.toNat else none
    | _ => none

/-- The reservations that wait for a course's heap go on, those of a context first (R370). -/
def openWaits (s : State) (cx c : Nat) : State :=
  ((cx :: (s.crs c).heap.waits.map fun w => w.cx.toNat).eraseDups).foldl
    (fun s x => serveHeap x c ((s.crs c).heap.waits.length + 1) s) s

/-- A heap latch is free again. -/
def openHeap (s : State) (cx c : Nat) : State := openWaits (modHeap s c fun h => { h with held := false }) cx c

/-- A fault is settled when its origin's work is discarded: one that holds some of it, and one of the context's own table. A
record that holds nothing goes on to its handler (R387, R389). -/
def goesWith (cx : Nat) (e : FaultEntry) : Bool :=
  (e.info.ocx.toNat == cx && e.site != .nothing) || e.holder.toNat == cx

/-- All work of one context is discarded: its kernels end, its ring images are marked done and the faults that hold its work are
settled (R79, R287, R389). -/
def discardCtx (s : State) (cx : Nat) (del_ : Bool) : State :=
  let s := s.kernels.foldl (fun s k => if k.cx.toNat = cx then endKernel s k .killed 0 0 else s) s
  let held := heldHeaps s cx
  let s := settleKilled s (goesWith cx)
  let s := s.bays.foldl (fun s y => imagesDone s (y.1 / 256) (y.1 % 256) cx) s
  held.foldl (fun s c => openHeap s cx c) (clearWork s cx del_)

/-- Holdings of a context go back to the one that granted them (R287, R337). -/
def returnHolds (s : State) (cx : Nat) : State :=
  let x := s.ctx cx
  let up := x.parent.toNat
  x.holds.foldl (fun s h =>
    let s := modHolds s cx fun hs => hs.erase h
    match h.kind.toNat with
    | 0 => wakePools (syncParts (modHolds s up (addItem h)) h.range.1) h.range.1 up
    | 4 => leaveSlots (modHolds s up (addItem h)) cx up h.range.2.1 h.range.2.2
    | 1 =>
      let (key, lo, n) := h.range
      wakePools (zeroRoom (roomBack (modHolds s up (addItem h)) up key lo n) key lo n) key up
    | 3 => serveCrus (modHolds s up (addItem h)) h
    | 8 => modHolds s up (addItem h)
    | _ => s) s

/-- CTX.DEL (R287): the subtree is deleted, youngest first. -/
def deleteCtx (s : State) (cx : Nat) : State :=
  let s := bumpGen s cx
  (s.subtree cx).foldl (fun s x =>
    let up := (s.ctx x).parent.toNat
    let s := returnHolds (discardCtx s x true) x
    let s := dropStruct { s with ctxs := del s.ctxs x, kernels := s.kernels.filter (fun k => k.cx.toNat != x)
                                 migrated := s.migrated.filter fun m => m.1.toNat != x }
    -- the parent's free heap shares have risen (R283, R369)
    (List.range 16).foldl (fun s c => if (s.crs c).heap.waits.isEmpty then s else freedUnit s up c) s) s

/-- CTX.RST (R287, R434): the subtree's work goes, its registers return to their reset values except HANDLER, SEED and
FAULT_POL, and each context is left stopped. -/
def resetCtx (s : State) (cx : Nat) : State :=
  let s := bumpGen s cx
  (s.subtree cx).foldl (fun s x =>
    (discardCtx s x false).modCtx x fun y =>
      { y with runnable := false, sbc := y.sbc0, nflag := 0, timeG := 0, timeS := 0, energy := 0, revoking := false,
               pceil := [], resid := 0, tol := 0, thresh := 1, taskBase := 0, taskN := 0, frec := FaultRec.zero, lost := 0 }) s

/-! ### Taking back (R285, R417, R418) -/

/-- A ranged entry's share of a context's holds: what a subtree holds together. -/
def subtreeHolds (s : State) (cx : Nat) : List Holding := (s.subtree cx).flatMap fun x => (s.ctx x).holds

/-- The entry may be taken back from a child (R285). -/
def canRevoke (s : State) (ch : Nat) (h : Holding) : Bool :=
  let k := h.kind.toNat
  if k = 2 ∨ k = 10 then coversItem h (s.ctx ch).holds
  else if isRanged k || isMasked k then coversItem h (subtreeHolds s ch)
  else if k = 5 ∨ k = 6 then decide (h.p0.toNat ≤ s.shareOf ch h.course.toNat k)
  else if k = 9 then (bitsOf 16 h.p0.toNat).all fun l => decide (h.p0.toNat / 2 ^ 16 % 256 ≤ s.eaveShare ch l)
  else true

/-- Shares of a kind on a course fall by an amount, entry by entry. -/
def cutShare (kind c : Nat) : Nat → List Holding → List Holding
  | _, [] => []
  | n, h :: hs =>
    if h.kind.toNat = kind ∧ h.course.toNat = c then
      let v := h.p0.toNat
      if v ≤ n then cutShare kind c (n - v) hs else { h with p0 := BitVec.ofNat 56 (v - n) } :: hs
    else h :: cutShare kind c n hs

/-- A context's share falls to what it may keep, and its children's follow until what it gave fits (R417). -/
def lowerShare (kind c : Nat) : Nat → State → Nat → Nat → State
  | 0, s, _, _ => s
  | fuel + 1, s, cx, n =>
    let s := modHolds s cx (cutShare kind c n)
    (s.ctxs.filter fun e => e.1 != 0 && e.2.parent.toNat == cx).foldl (fun s e =>
      let excess := s.givenOf cx c kind - s.shareOf cx c kind
      let take := min excess (s.shareOf e.1 c kind)
      if take = 0 then s else lowerShare kind c fuel s e.1 take) s

/-- Eave shares of some links fall. -/
def cutEave (links : Nat) : Nat → List Holding → List Holding
  | _, [] => []
  | n, h :: hs =>
    if h.kind = 9#4 ∧ (h.p0.toNat % 2 ^ 16 &&& links) ≠ 0 then
      let m := h.p0.toNat % 2 ^ 16
      let v := h.p0.toNat / 2 ^ 16
      let rest := m - (m &&& links)
      let left := if rest = 0 then [] else [{ h with p0 := BitVec.ofNat 56 (v * 2 ^ 16 + rest) }]
      if v ≤ n then left ++ cutEave links (n - v) hs
      else left ++ { h with p0 := BitVec.ofNat 56 ((v - n) * 2 ^ 16 + (m &&& links)) } :: hs
    else h :: cutEave links n hs

/-- A context's Eave share of a link falls, and its children's follow until what it gave fits (R417). -/
def lowerEave (link : Nat) : Nat → State → Nat → Nat → State
  | 0, s, _, _ => s
  | fuel + 1, s, cx, n =>
    let s := modHolds s cx (cutEave (2 ^ link) n)
    (s.ctxs.filter fun e => e.1 != 0 && e.2.parent.toNat == cx).foldl (fun s e =>
      let take := min (s.eaveGiven cx link - s.eaveShare cx link) (s.eaveShare e.1 link)
      if take = 0 then s else lowerEave link fuel s e.1 take) s

/-- A replacing kind returns to the value of its context's creation (R285), which the last entry of the kind in the creation
list gave. -/
def restoreBorn (s : State) (cx : Nat) (h : Holding) : State :=
  let x := s.ctx cx
  if h.kind = 11#4 then
    match x.born.reverse.find? fun b => b.kind == 11#4 with
    | some b => (giveItem s x.parent.toNat cx b).getD s
    | none => (modHolds s cx fun hs => hs.filter fun g => g.kind != 11#4).modCtx cx fun y =>
        { y with weight := 1, quantum := if y.depth = 1 ∧ y.parent = 0 then 1000000 else 0 }
  else
    match x.born.reverse.find? fun b => b.kind == 7#4 && b.course == h.course && b.p0 == h.p0 with
    | some b => (giveItem s x.parent.toNat cx b).getD s
    | none => (modHolds s cx fun hs => hs.filter fun g => !(g.kind == 7#4 && g.course == h.course && g.p0 == h.p0)).modCtx cx fun y =>
        { y with rings := del y.rings (h.p0.toNat % 2 * 16 + h.course.toNat) }

/-- The item leaves every context of a child's subtree and comes to the issuer: the part of a revocation that acceptance
makes at once (R285, R417, R418 steps 1 and 2). A window is a range of the issuer's own space, so it is cut from the child's
entries alone; the descendants' windows are ranges of their own parents' spaces, and their walks meet the child's. -/
def takeItem (s : State) (iss ch : Nat) (h : Holding) : State :=
  let k := h.kind.toNat
  let strip := fun (s : State) => (s.subtree ch).foldl (fun s x => modHolds s x (cutItem h)) s
  match k with
  | 0 => syncParts (modHolds (strip s) iss (addItem h)) h.range.1
  | 1 | 3 | 4 | 8 => modHolds (strip s) iss (addItem h)
  | 2 => modHolds s ch (cutItem h)
  | 10 => strip s
  | 5 | 6 => lowerShare k h.course.toNat 8 s ch h.p0.toNat
  | 9 => (bitsOf 16 h.p0.toNat).foldl (fun s l => lowerEave l 8 s ch (h.p0.toNat / 2 ^ 16 % 256)) s
  | _ => restoreBorn s ch h

/-- Bays whose store or frame-tag range some entries name, as (course, bay). -/
def revokedBays (es : List Holding) : List (Nat × Nat) :=
  ((es.filter fun h => h.kind == 0#4 || h.kind == 1#4).map fun h => (h.range.1 / 256, h.range.1 % 256)).eraseDups

/-- A commit of a context of a subtree is in progress in some bays (R418 step 4). -/
def commitIn (s : State) (ch : Nat) (bays : List (Nat × Nat)) : Bool :=
  bays.any fun (c, b) => (s.bay c b).frames.any fun e =>
    s.inSubtree ch e.2.cx.toNat && ((e.2.cast.map Cast.committing).getD false)

/-- Spill one allocation at once, its image written and its room returned (R66, R418 step 5): none when the ring is full
or its page unmapped. -/
def spillNow (s : State) (c b pid : Nat) (id : AllocId) : Option State :=
  match s.pool? c b pid, allocInfo (s.bay c b) pid id with
  | some p, some (_, size, guard, _) =>
    let cx := p.cx.toNat
    let len := size + guard.toNat + 1
    let r := s.ring cx 0 c
    match ringRoom r len with
    | none => none
    | some (off, pad, tail) =>
      let seq := (s.bay c b).spillSeq.toNat
      let (kind, idn) := match id with | .frame ft => (0, ft.toNat) | .buf i => (1, i)
      let s := guardOf s c b pid id
      let bs := imageHead false kind b pid idn size seq len ++ allocBytes s c b pid id
      let padded := if pad = 0 then Except.ok s else ringPut s cx 0 c r.tail.toNat (imageHead false 7 0 0 0 0 0 pad)
      match padded with
      | .error _ => none
      | .ok s =>
        match ringPut s cx 0 c off bs with
        | .error _ => none
        | .ok s =>
          let s := setRing s cx 0 c { r with tail := BitVec.ofNat 32 tail, written := r.written + (if pad = 0 then 1 else 2) }
          let s := s.modBay c b fun y => { y with spillSeq := y.spillSeq + 1 }
          let s := s.modPool c b pid fun q => { q with spills := q.spills + 1 }
          some (match id with
            | .frame ft => s.modFrame c b ft.toNat fun f => { f with sp := true, mv := false, base := BitVec.ofNat 16 (off / 16), image := (off, seq) }
            | .buf i => s.modPool c b pid fun q => { q with pmap := q.pmap.map fun e =>
                (e.1, if e.1 = i then { e.2 with sp := true, mv := false, base := BitVec.ofNat 16 (off / 16), img := off, seq := seq } else e.2) })
  | _, _ => some s

/-- Allocations of a context in a bay that lie in revoked room or a revoked range: pool and allocation. -/
def revokedAllocs (s : State) (c b cx : Nat) (es : List Holding) : List (Nat × AllocId) :=
  let y := s.bay c b
  let key := c * 256 + b
  let inRoom := fun (base n : Nat) => es.any fun h => h.kind == 1#4 && h.range.1 == key
    && decide (h.range.2.1 < base + n) && decide (base < h.range.2.1 + h.range.2.2)
  let inTags := fun (ft : Nat) => es.any fun h => h.kind == 0#4 && h.range.1 == key
    && decide (h.range.2.1 ≤ ft) && decide (ft < h.range.2.1 + h.range.2.2)
  (y.frames.filter fun e => e.2.cx.toNat == cx && !e.2.sp && (inTags e.1 || inRoom e.2.base.toNat (e.2.size + e.2.guard.toNat))).map
      (fun e => (e.2.pool.toNat, .frame (BitVec.ofNat 12 e.1)))
    ++ (y.pools.filter fun p => p.2.cx.toNat == cx && p.2.kind == 1#2).flatMap fun p =>
        (p.2.pmap.filter fun e => e.2.v && !e.2.sp && inRoom e.2.base.toNat (e.2.size.toNat + e.2.guard.toNat)).map
          fun e => (p.1, AllocId.buf e.1)

/-- The frames of a revoked range that are spilled stay so: no copy brings one back, nor anything into revoked room (R418). -/
def keepSpilled (s : State) (c b cx : Nat) (es : List Holding) : State :=
  let key := c * 256 + b
  let into := fun (r : AllocId × Nat) (n : Nat) => es.any fun h => h.kind == 1#4 && h.range.1 == key
    && decide (h.range.2.1 < r.2 + n) && decide (r.2 < h.range.2.1 + h.range.2.2)
  let gone := fun (id : AllocId) => match id with
    | .frame ft => es.any fun h => h.kind == 0#4 && h.range.1 == key && decide (h.range.2.1 ≤ ft.toNat)
        && decide (ft.toNat < h.range.2.1 + h.range.2.2)
    | .buf _ => false
  ((s.bay c b).pools.filter fun p => p.2.cx.toNat == cx).foldl (fun s p =>
    let stays := fun (r : AllocId × Nat) => gone r.1 || into r (spillSize (s.bay c b) p.1 r.1).1
    let s := (p.2.restoring.filter stays).foldl (fun s r => setMv s c b p.1 r.1 false) s
    s.modPool c b p.1 fun q =>
      { q with restoring := q.restoring.filter fun r => !(stays r)
               pseudo := if (q.pseudo.map gone).getD false then none else q.pseudo }) s

/-- Step 5 of R418 in one bay for one context: what is revoked is spilled; frames that cannot be are discarded as by
KILL_STRAND and the context stops. The revoked room counts as allocated in the pools over it until it is granted again, and the
spills, as the end of a pseudo-request's anchoring, serve the heads of its pools (R61, R71). -/
def spillRevoked (s : State) (c b cx : Nat) (es : List Holding) : State :=
  let key := c * 256 + b
  let s := es.foldl (fun s h => if h.kind = 1#4 ∧ h.range.1 = key then roomAway s cx key h.range.2.1 h.range.2.2 else s) s
  let s := keepSpilled s c b cx es
  let s := (revokedAllocs s c b cx es).foldl (fun s a =>
    match spillNow s c b a.1 a.2 with
    | some s' => s'
    | none =>
      let ft := match a.2 with
        | .frame ft => ft.toNat
        | .buf i => (((s.pool? c b a.1).bind fun p => lkp p.pmap i).map fun e => e.hft.toNat).getD 0
      let s := match s.frame? c b ft with
        | some f => killStrand s cx f.link.str.toNat
        | none => match a.2 with | .buf i => freeBuf s c b a.1 i | .frame _ => s
      s.modCtx cx fun x => { x with runnable := false }) s
  ((s.bay c b).pools.filter fun p => p.2.cx.toNat == cx).foldl (fun s p => serveHead s c b p.1) s

/-- Heap entries above a lowered share go to the ring (R369, R418 step 7). -/
def evictOver (cx c : Nat) : Nat → State → State
  | 0, s => s
  | fuel + 1, s =>
    let h := (s.crs c).heap
    if heapUsed h cx ≤ s.freeShare cx c 6 ∨ h.held = true then s
    else
      match lowEntry h cx with
      | some e => evictOver cx c fuel (evict s cx c e)
      | none => s

/-- Steps 3 to 9 of R418 for one context of the subtree; its slots go to the issuer (step 6, R337). -/
def revokeFrom (s : State) (iss cx : Nat) (es : List Holding) : State :=
  let s := (revokedBays es).foldl (fun s e => spillRevoked s e.1 e.2 cx es) s
  let s := es.foldl (fun s h =>
    match h.kind.toNat with
    | 3 => freeCrus s cx h
    | 4 => scanSlots (leaveSlots s cx iss h.range.2.1 h.range.2.2)
    | 6 => evictOver cx h.course.toNat 4097 s
    | 8 => { s with sigs := s.sigs.filter fun m => !(m.cx.toNat == cx && h.p1.toNat / 2 ^ m.ep % 2 == 1) }
    | 10 =>
      let me := s.sideband.stackNo.toNat
      if decide (h.range.2.1 ≤ me) && decide (me < h.range.2.1 + h.range.2.2) then
        s.kernels.foldl (fun s k => if k.cx.toNat = cx ∧ k.live = true then endKernel s k .killed 0 0 else s) s
      else s
    | _ => s) s
  s

/-- The mask of the kinds revoked (R420). -/
def kindMask (es : List Holding) : Nat := es.foldl (fun m h => m ||| 2 ^ h.kind.toNat) 0

/-- Acceptance of a revocation (R285, R418 steps 1 and 2). -/
def acceptRevoke (s : State) (iss ch : Nat) (es : List Holding) : Except (Nat × Nat) State :=
  if es.any Holding.bad then .error (kPROT, 19)
  else
    let r := es.foldl (fun (o : Option State) h => o.bind fun s => if canRevoke s ch h then some (takeItem s iss ch h) else none) (some s)
    match r with
    | none => .error (kHOLDING, 2)
    | some s =>
      let s := (s.subtree ch).foldl (fun s x => s.modCtx x fun y => { y with revoking := true }) s
      .ok (bumpGen s ch)

/-- Steps 3 to 9, deepest first (R417, R418). Revoked room is then zeroed and open to the issuer's pools again (R176), and what
the issuer has parked for it, for revoked tags or crucibles is served. -/
def finishRevoke (s : State) (iss ch : Nat) (es : List Holding) : State :=
  let s := (s.subtree ch).foldl (fun s x => (revokeFrom s iss x es).modCtx x fun y => { y with revoking := false }) s
  -- pages of class 3 that a revoked window took away leave their bays (R315)
  let s := if es.any fun h => h.kind == 2#4 then dropStruct s else s
  es.foldl (fun s h =>
    let (key, lo, n) := h.range
    if h.kind = 1#4 then wakePools (zeroRoom (roomBack s iss key lo n) key lo n) key iss
    else if h.kind = 0#4 then wakePools s key iss
    else if h.kind = 3#4 then serveCrus s h
    else s) s

end Sys2Proof.Machine
end

