-- ==== Sys2Proof/Machine/Validate.lean ====
section
/-! DEFINITION. Sys2Proof/Machine/Validate.lean: plane validation: the checks that need the whole plane (R18, R24, R25, R51,
R121, R127, R132, R133, R169, R266, R279, R382), in the order of R133. -/

namespace Sys2Proof.Machine

/-- What a failed validation names: the code of R132, course, unit and node, or bay and pool. -/
structure Illegal where
  code : Nat
  course : Nat
  unit : Nat
  node : Nat
  bay : Nat
  pool : Nat
  /-- it names the bay and pool -/
  isPool : Bool := false
  deriving DecidableEq, Repr, Inhabited

/-- Code 13 at a pool (R51). -/
def Illegal.ofPool (q : PPool) : Illegal :=
  { code := 13, course := q.course, unit := 0, node := 0, bay := q.bay, pool := q.id, isPool := true }

/-- The plane that an instruction defines for a port: true for data (R129, R161 and the instruction chapters). -/
def portPlane (op : Nat) (r : NodeRec) (port : Nat) : Bool :=
  match op with
  | 0x01 | 0x02 | 0x07 => r.pl
  | 0x05 => port == 0 && r.pl
  | 0x06 => port != 0 && r.pl
  | 0x08 => if port = 0 ∧ r.tg = 2#2 then false else r.pl
  | 0x09 | 0x0A => if port = 0 ∧ r.tg = 2#2 then false else r.pl
  | 0x0C => port == 0
  | 0x66 => port == 0
  | 0x68 => false
  | 0x81 => port != 2
  | 0x82 => port == 0
  | 0x83 | 0x84 => false
  | 0x93 => port == 1
  | 0x98 => port == 2
  | 0xA5 | 0xAA => port == 1 && r.pl
  | 0xC1 => port == 1
  | _ => (decide (0x50 ≤ op) && decide (op ≤ 0x82)) || op == 0x85

/-- The plane of the tokens that a record sends on D0 or D1 (R119). -/
def outPlane (op : Nat) (r : NodeRec) (d1 : Bool) : Bool :=
  match op with
  | 0x0B => true
  | 0x0C => false
  | 0x81 => !d1
  | 0xAA => !d1 && r.pl
  | 0xB2 => !d1
  | _ => r.pl

/-- Instructions of elements and of crucibles (R249, R255, R266). -/
def isCruOp (op : Nat) : Bool := decide (0xC0 ≤ op) && decide (op ≤ 0xC8)

/-- Plate requests (R279). -/
def isPlateOp (op : Nat) : Bool :=
  (decide (0xE0 ≤ op) && decide (op ≤ 0xE6)) || (decide (0xEC ≤ op) && decide (op ≤ 0xEF))

/-- A node's result on D0 or D1 waits for its commit (R25, R225, R237, R244, R267, R278). -/
def lateResult (op : Nat) (r : NodeRec) (d1 : Bool) : Bool :=
  match op with
  | 0xA0 | 0xA1 | 0xEB | 0xEC | 0xEE => true
  | 0xA7 => r.var == 0#4
  | 0xAA | 0xB2 => d1
  | 0xB0 | 0xB1 | 0xB3 | 0xB4 | 0xB6 => true
  | _ => decide (0xE0 ≤ op) && decide (op ≤ 0xE6)

/-- A unit's address in its course. -/
def PUnit.addr (u : PUnit) : Nat := if u.crucible then 0x1000 + u.x else u.y * 64 + u.x

/-- The unit of a plane at an address of a course. -/
def Plane.unitAt (p : Plane) (c u : Nat) : Option PUnit := p.units.find? fun x => x.course == c && x.addr == u

/-- The record of a plane at a node. -/
def Plane.recAt (p : Plane) (c u node : Nat) : Option (BitVec 96) := (p.unitAt c u).bind fun x => x.recs[node]?

/-- The course on which a record's destinations stand, when they are of this stack, `me`: VERT names a course, and EAVE a stack
and a course (R120, R163). -/
def destCourse (me op : Nat) (r : NodeRec) (c : Nat) : Option Nat :=
  if op = 0x09 then some (bitsAt r.lit 0 4)
  else if op = 0x0A then (if bitsAt r.lit 0 10 = me then some (bitsAt r.lit 10 4) else none)
  else some c

/-- D0 and D1 obey the tag rules of R121 (code 7). -/
def destLocal (op : Nat) (r : NodeRec) (u : Nat) (d : BitVec 21) : Bool :=
  if d = noDest ∨ r.tg = 2#2 ∨ r.tg = 3#2 then true
  else
    match unitKind (destUnit d) with
    | .elem el => decide (u < 0x1000) && elBay el == elBay u
    | .gate b => decide (u < 0x1000) && b == elBay u
    | .cru n => u == 0x1000 + n
    | .none => op == 0xFF

/-- A token's plane fits its target port, where the plane has a record there (code 8). -/
def planeFits (p : Plane) (me op : Nat) (r : NodeRec) (c : Nat) (d1 : Bool) : Bool :=
  let d := if d1 then r.d1 else r.d0
  if d = noDest then true
  else
    match unitKind (destUnit d) with
    | .gate _ => destPort d != 0 || outPlane op r d1
    | _ =>
      match (destCourse me op r c).bind fun c => p.recAt c (destUnit d) (destNode d) with
      | none => true
      | some w =>
        recOp w == 0 || !((arPorts (bitsAt w 77 3)).contains (destPort d))
          || portPlane (recOp w) (recFields w) (destPort d) == outPlane op r d1

/-- A bay's pool in a plane. -/
def Plane.poolAt (p : Plane) (c b id : Nat) : Option PPool := p.pools.find? fun q => q.course == c && q.bay == b && q.id == id

/-- An ALLOC's pool and request fit (R51, R392: code 13). -/
def allocFits (p : Plane) (c b id kind n : Nat) (checked : Bool) : Bool :=
  match p.poolAt c b id with
  | none => false
  | some q => q.kind == kind && n != 0 && decide (n + checked.toNat + q.rsv ≤ q.size)

/-- A frame map of a plane. -/
def Plane.mapAt (p : Plane) (idx : Nat) : Option PMap := p.maps.find? fun m => m.idx == idx

/-- A frame map lies within R17: 1 to 64 slots, slot 0 a control slot, its granules the sum of its slots (code 15). -/
def PMap.ok (m : PMap) : Bool :=
  decide (1 ≤ m.slots) && decide (m.slots ≤ 64) && !(bitAt m.dmask 0) && m.dmask.toNat / 2 ^ m.slots == 0
    && m.gran == frameGranules m.dmask m.slots

/-- The codes under which a node's record fails in its plane, besides those of the record alone. An ALLOC.FRM names a map for a
block of another bay when blocks of other bays alone list it; a map that no block lists is for none (R24). R132 gives code 15
to an ALLOC.FRM of an undeclared map; a GAIN.TAKE of one takes the same code (notes/assumptions/135.md, DESIGN CHOICE). -/
def contextCodes (p : Plane) (me : Nat) (u : PUnit) (node : Nat) (w : BitVec 96) : List Nat :=
  let op := recOp w
  let r := recFields w
  let c := u.course
  let a := u.addr
  let b := elBay a
  let chk := bitAt u.setting 63
  let own := p.blockOf c a node
  let inOwn := fun (d : BitVec 21) => d != noDest && decide (destUnit d < 0x1000) && own.isSome
    && p.blockOf c (destUnit d) (destNode d) == own
  let pat := p.pats[gatePat r]?
  let stream := decide (0xB0 ≤ op) && decide (op ≤ 0xB3)
  let fails : List (Nat × Bool) := [
    (1, isCruOp op != u.crucible),
    (7, !(destLocal op r a r.d0) || !(destLocal op r a r.d1)),
    (8, !(planeFits p me op r c false) || !(planeFits p me op r c true)),
    (8, op == 0xB2 && (match unitKind (destUnit r.d0) with | .elem el => elBay el != b | _ => true)),
    (9, stream && (match pat with | some q => decide ((gateLen r : Int) < q.span) | none => false)),
    (10, op == 0x09 && bitsAt r.lit 0 4 == c),
    (10, stream && pat.isNone),
    (10, op == 0xB3 && (match pat with | some q => decide (65536 < q.beats) | none => false)),
    (12, (lateResult op r false && inOwn r.d0) || (lateResult op r true && inOwn r.d1)),
    (12, op == 0x20 && (let m := bitsAt r.lit 8 8
        let lists := fun (here : Bool) => p.blocks.any fun k => (k.course == c && k.bay == b) == here && k.maps.contains m
        (p.mapAt m).isSome && lists false && !(lists true))),
    (13, op == 0x20 && !(allocFits p c b (bitsAt r.lit 0 3) 0 (((p.mapAt (bitsAt r.lit 8 8)).map PMap.gran).getD 1) chk)),
    (13, op == 0x21 && !(allocFits p c b (bitsAt r.lit 0 3) 1 (bitsAt r.lit 16 16) chk)),
    (15, (op == 0x20 || op == 0xD2) && (p.mapAt (bitsAt r.lit 8 8)).isNone)]
  (fails.filter fun x => x.2).map Prod.fst

/-- The least of two codes. -/
def leastCode (a b : Option Nat) : Option Nat :=
  match a, b with
  | some x, some y => some (min x y)
  | some x, none => some x
  | none, y => y

/-- The code under which a node's record is rejected; an empty slot passes (R133). -/
def recordCode (p : Plane) (me : Nat) (u : PUnit) (node : Nat) (w : BitVec 96) : Option Nat :=
  if recOp w = 0 then none
  else leastCode (recordFault (recOp w) (recFields w)) ((contextCodes p me u node w).foldl (fun m x => leastCode m (some x)) none)

/-- The setting word of an element is accepted (R127). -/
def settingOk (p : Plane) (u : PUnit) : Bool :=
  let w := u.setting
  let b := elBay u.addr
  let nact := bitsAt w 54 7
  let esn := bitsAt w 47 6
  let has := fun op => u.recs.any fun x => recOp x == op
  let kindOf := fun id => (p.poolAt u.course b id).map PPool.kind
  bitsAt w 0 31 == 0 && decide (nact ≤ 64)
    && (!(bitAt w 53) || (decide (esn < nact) && (match u.recs[esn]? with
        | some x => recOp x != 0 && (arPorts (bitsAt x 77 3)).contains 0 && !(portPlane (recOp x) (recFields x) 0)
        | none => false)))
    && u.recs.all (fun x => !(recOp x == 0x20 || recOp x == 0x21) || bitAt w (39 + bitsAt x 0 3))
    && (if bitAt w 35 then kindOf (bitsAt w 36 3) == some 0 else !(has 0xD2))
    && (if bitAt w 31 then kindOf (bitsAt w 32 3) == some 2 else !(has 0xA2))
    && (List.range 8).all fun i => !(bitAt w (39 + i)) || (p.poolAt u.course b i).isSome

/-- Instructions that can park in their port-A slot (R18). -/
def canPark (op : Nat) : Bool := op == 0x20 || op == 0x21 || op == 0x22 || op == 0x23 || op == 0xA2 || op == 0xD0

/-- A node's slot table entry is accepted (R18): the ports that the record names, and every slot that the entry gives. -/
def slotsOk (p : Plane) (u : PUnit) (node : Nat) (w : BitVec 96) (e : BitVec 32) : Bool :=
  let op := recOp w
  let ps := arPorts (bitsAt w 77 3)
  let byte := fun q => bitsAt e (8 * q) 8
  let maps := ((p.blockOf u.course u.addr node).bind fun i => p.blocks[i]?).map fun k => k.maps.filterMap p.mapAt
  let v := fun q => byte q / 128 == 1
  let pp := fun q => byte q / 64 % 2 == 1
  op == 0 || (ps.all (fun q =>
      (v q || (decide (ps.length ≤ 1) || op == 0x07)) && (v q || !(q == 0 && canPark op)) && pp q == portPlane op (recFields w) q)
    && (List.range 4).all fun q =>
      !(v q) || (maps.getD []).all fun m => decide (byte q % 64 < m.slots) && bitAt m.dmask (byte q % 64) == pp q)

/-- The first failure of a unit: setting word, records, slot table (R133). -/
def unitFault (p : Plane) (me : Nat) (u : PUnit) : Option Illegal :=
  let at_ := fun code node : Nat => ({ code := code, course := u.course, unit := u.addr, node := node, bay := if u.crucible then 0 else elBay u.addr, pool := 0 } : Illegal)
  let nodes := (List.range u.recs.length).zip u.recs
  if !u.crucible && !(settingOk p u) then some (at_ 14 0)
  else
    match nodes.findSome? fun x => (recordCode p me u x.1 x.2).map fun k => at_ k x.1 with
    | some f => some f
    | none =>
      if u.crucible then none
      else nodes.findSome? fun x => if slotsOk p u x.1 x.2 ((u.nst[x.1]?).getD 0) then none else some (at_ 11 x.1)

/-- A block is accepted: at most 128 nodes, all of its bay, one EXIT, at most one Plate request; in a Gutter bay no source node, and no
token from outside the Gutter (R24, R169, R279, R382). -/
def blockOk (p : Plane) (me : Nat) (k : PBlock) : Bool :=
  let ws := k.nodes.filterMap fun n => p.recAt k.course n.1 n.2
  let names := fun (w : BitVec 96) => (recFields w).d0 :: [(recFields w).d1]
  !k.nodes.isEmpty && decide (k.nodes.length ≤ 128) && k.nodes.all (fun n => elBay n.1 == k.bay)
    && (ws.filter fun w => recOp w == 0x14).length == 1
    && decide ((ws.filter fun w => isPlateOp (recOp w)).length ≤ 1)
    && (!(isGutter k.bay) ||
      ((ws.all fun w => recOp w != 0x04 && recOp w != 0xD2)
        && p.units.all fun u => u.crucible || isGutter (elBay u.addr)
            || u.recs.all fun w => recOp w == 0 || destCourse me (recOp w) (recFields w) u.course != some k.course
              || (names w).all fun d => !(k.nodes.contains (destUnit d, destNode d))))

/-- A pool is accepted (R50, R51). -/
def poolOk (p : Plane) (q : PPool) : Bool :=
  let sc := q.w0.toNat / 2 ^ 41 % 16
  q.kind != 3 && decide (sc ≤ 10) && decide (1 ≤ q.size) && decide (q.base + q.size ≤ 61440) && decide (q.rsv < q.size)
    && p.pools.all fun o => !(o.course == q.course && o.bay == q.bay && o.id != q.id)
      || decide (o.base + o.size ≤ q.base) || decide (q.base + q.size ≤ o.base)

/-- A pattern's sizes lie within R107. One that does not is rejected last, with code 10, and names no unit
(notes/assumptions/109.md, DESIGN CHOICE). -/
def patOk (q : Pattern) : Bool := decide (1 ≤ q.es) && decide (q.es ≤ 64) && decide (1 ≤ q.dims.length) && decide (q.dims.length ≤ 4)

/-- Validation of what a plane places on some courses of stack `me`, in the order of R133: the first failure. `clash` names the
pools that lie over what stays in force beside the plane. A frame map outside R17 stands in no element: its fault names course 0,
unit 0 and the map index as NODE (notes/assumptions/45.md). -/
def Plane.validateOn (p : Plane) (me : Nat) (on : Nat → Bool) (clash : PPool → Bool) : Option Illegal :=
  match (p.units.filter fun u => on u.course).findSome? (unitFault p me) with
  | some f => some f
  | none =>
    let z : Illegal := default
    match p.maps.find? (fun m => !m.ok) with
    | some m => some { z with code := 15, node := m.idx }
    | none =>
      match p.blocks.find? (fun k => on k.course && !(blockOk p me k)) with
      | some k => some { z with code := 12, course := k.course, bay := k.bay, unit := ((k.nodes.head?).map Prod.fst).getD 0, node := ((k.nodes.head?).map Prod.snd).getD 0 }
      | none =>
        match p.pools.find? (fun q => on q.course && (!(poolOk p q) || clash q)) with
        | some q => some (Illegal.ofPool q)
        | none => if p.pats.any (fun q => !(patOk q)) then some { z with code := 10 } else none

end Sys2Proof.Machine
end

