-- ==== Sys2Proof/Machine/Object.lean ====
section
/-! DEFINITION. Sys2Proof/Machine/Object.lean: reading an ECXO file into a plane (R101 to R114): its checks, its signature,
its relocations. -/

namespace Sys2Proof.Machine

/-- `n` bytes of a file from an offset. -/
def slice (bs : List Byte) (off n : Nat) : List Byte := (bs.drop off).take n

/-- A little-endian field of a file (R101). -/
def fld (bs : List Byte) (off n : Nat) : Nat := leNat (slice bs off n)

def asciiOf (s : List Nat) : List Byte := s.map (BitVec.ofNat 8)

/-- Section types in the order of R103, by number: PLN, FRM, POL, PAT, DAT, REL, SYM, LCH, RDG, SIG. -/
def sectionTypes : List Nat :=
  [0x204E4C50, 0x204D5246, 0x204C4F50, 0x20544150, 0x20544144, 0x204C4552, 0x204D5953, 0x2048434C, 0x20474452, 0x20474953]

/-- A section: number of its type, offset, size, count. -/
structure Sect where
  ty : Nat
  off : Nat
  size : Nat
  count : Nat
  deriving DecidableEq, Repr, Inhabited

/-- The section table (R103). -/
def sectTable (bs : List Byte) : Nat → Nat → Option (List Sect)
  | 0, _ => some []
  | n + 1, at_ =>
    match sectionTypes.findIdx? (· == fld bs at_ 4), sectTable bs n (at_ + 16) with
    | some t, some l => some ({ ty := t, off := fld bs (at_ + 4) 4, size := fld bs (at_ + 8) 4, count := fld bs (at_ + 12) 4 } :: l)
    | _, _ => none

/-- Sections stand in rising type, each once, on 64-byte boundaries and inside the file, with zeros between. R103 orders the
entries of the table; that the sections themselves stand in the file in that order, and apart, is the model's reading
(notes/assumptions/118.md, DESIGN CHOICE). -/
def sectsOk (bs : List Byte) : Nat → Option Nat → List Sect → Bool
  | pos, _, [] => (bs.drop pos).all (· == 0#8)
  | pos, last, x :: xs =>
    (match last with | some t => decide (t < x.ty) | none => true) && x.off % 64 == 0 && decide (pos ≤ x.off)
      && decide (x.off + x.size ≤ bs.length) && (slice bs pos (x.off - pos)).all (· == 0#8) && sectsOk bs (x.off + x.size) (some x.ty) xs

/-- Bytes of an entry of a section whose entries have one size: POL, PAT, REL, SYM, LCH, RDG (R103, R106 to R112). -/
def sectEntry (t : Nat) : Nat :=
  match t with
  | 2 => 24
  | 3 => 40
  | 5 => 16
  | 6 => 16
  | 7 => 48
  | 8 => 4
  | _ => 0

/-- The entries that COUNT gives lie within SIZE. No rule says what becomes of more (notes/assumptions/118.md, DESIGN CHOICE). -/
def Sect.countOk (x : Sect) : Bool := decide (sectEntry x.ty * x.count ≤ x.size)

/-- Step 1 of R114: the header and the section table hold by R101 to R103. -/
def objectSects (bs : List Byte) (magic : Nat) : Option (List Sect) :=
  let nsec := fld bs 8 2
  let flags := fld bs 6 2
  if fld bs 0 4 ≠ magic ∨ fld bs 4 1 ≠ 2 ∨ flags / 8 ≠ 0 ∨ nsec < 3 ∨ 10 < nsec ∨ fld bs 10 2 ≠ 0 ∨ fld bs 12 4 ≠ bs.length
      ∨ fld bs 0x30 4 ≠ 0x40 ∨ fld bs 0x36 10 ≠ 0 then none
  else
    match sectTable bs nsec 0x40 with
    | none => none
    | some l =>
      let has := fun t => l.any fun x => x.ty == t
      let sigEnds := match l.getLast? with | some x => x.ty != 9 || (x.off + x.size == bs.length && x.size == 584) | none => true
      if sectsOk bs (0x40 + 16 * nsec) none l && l.all Sect.countOk && has 0 && has 1 && has 6 && (has 9 == (flags % 2 == 1))
          && (has 7 == (flags / 4 % 2 == 1)) && sigEnds then some l
      else none

def sectOf (l : List Sect) (t : Nat) : Option Sect := l.find? fun x => x.ty == t

/-- Step 2 of R114: the signature verifies against a key that the device holds, and is there when it is required (R113). -/
def signatureOk (s : State) (bs : List Byte) (l : List Sect) : Bool :=
  match sectOf l 9 with
  | none => !s.policy.signed
  | some x =>
    let kh := slice bs (x.off + 8) 64
    fld bs x.off 2 == 1 && fld bs (x.off + 2) 2 == 0 && fld bs (x.off + 4) 4 == 512
      && s.policy.keys.any fun k => leBytes 64 (Config.sha512 k).toNat == kh && Config.sigVerify k (bs.take x.off) (slice bs (x.off + 0x48) 512)

/-- Bytes of a file replaced at an offset. -/
def patch (bs : List Byte) (off : Nat) (new : List Byte) : List Byte := bs.take off ++ new ++ bs.drop (off + new.length)

/-- A name of the string table. -/
def nameAt (bs : List Byte) (l : List Sect) (off : Nat) : List Byte :=
  match sectOf l 6 with
  | some x => ((bs.drop (x.off + 16 * x.count + off)).take (x.size - 16 * x.count - off)).takeWhile (· != 0#8)
  | none => []

/-- A symbol: kind and value (R110). -/
def symAt (bs : List Byte) (x : Sect) (i : Nat) : Option (Nat × Nat × Nat) :=
  if i < x.count then some (fld bs (x.off + 16 * i) 4, fld bs (x.off + 16 * i + 4) 1, fld bs (x.off + 16 * i + 8) 8) else none

/-- The number of the plane with a name: the first that the Thatch lists (notes/assumptions/107.md, DESIGN CHOICE). -/
def planeNamed (s : State) (self : Nat) (me name : List Byte) : Option Nat :=
  if name == me then some self else (s.planes.find? fun e => e.2.name == name).map Prod.fst

/-- Where the entries of PLN begin in the section, each with its KIND and N (R104). -/
def plnStarts (bs : List Byte) (pln : Sect) : Nat → Nat → List (Nat × Bool × Nat)
  | 0, _ => []
  | n + 1, at_ =>
    if pln.size < at_ + 0x98 then []
    else (at_, fld bs (pln.off + at_ + 3) 1 == 1, fld bs (pln.off + at_ + 4) 2)
      :: plnStarts bs pln n (at_ + max 8 (fld bs (pln.off + at_ + 8) 4))

/-- Where the bytes of the entries of DAT stand in the section: offset and length (R108). -/
def datSpans (bs : List Byte) (dat : Sect) : Nat → Nat → List (Nat × Nat)
  | 0, _ => []
  | n + 1, at_ =>
    let len := fld bs (dat.off + at_ + 0x10) 4
    if dat.size < at_ + 32 + len then []
    else (at_ + 32, len) :: datSpans bs dat n (at_ + 32 + (len + 15) / 16 * 16)

/-- What a relocation patches is there (R109): the LIT of a record, 8 bytes of a data section, a K word of an element. One that
names none of these does not resolve. R109 names no place for a PLANE: it may stand anywhere in a section, and takes 8 bytes
(notes/assumptions/133.md, DESIGN CHOICE). -/
def patchPlace (bs : List Byte) (x : Sect) (kind off : Nat) : Bool :=
  match kind with
  | 1 => x.ty == 0 && (plnStarts bs x x.count 0).any fun u =>
      decide (u.1 + 0x98 ≤ off) && decide (off < u.1 + 0x98 + 12 * u.2.2) && (off - u.1 - 0x98) % 12 == 0
  | 2 => x.ty == 4 && (datSpans bs x x.count 0).any fun d => decide (d.1 ≤ off) && decide (off + 8 ≤ d.1 + d.2)
  | 3 => x.ty == 0 && (plnStarts bs x x.count 0).any fun u =>
      !u.2.1 && decide (u.1 + 0x18 ≤ off) && decide (off < u.1 + 0x98) && (off - u.1) % 8 == 0
  | _ => true

/-- Step 3 of R114: one relocation of kinds 1 to 4 is applied to the file, or does not resolve (R109). A symbol's value is a
64-bit two's complement number (R90). No rule says from what an external symbol of kinds 1 to 3 is resolved, so it is not; a
plane's number takes the addend like any other value (notes/assumptions/107.md, DESIGN CHOICE). -/
def relocate (s : State) (self : Nat) (me : List Byte) (l : List Sect) (bs : List Byte) (at_ : Nat) : Option (List Byte) :=
  let kind := fld bs (at_ + 2) 2
  let off := fld bs (at_ + 4) 4
  let add := signedVal 32 (fld bs (at_ + 12) 4)
  match l[fld bs at_ 2]?, (sectOf l 6).bind fun y => symAt bs y (fld bs (at_ + 8) 4) with
  | some x, some (nm, sk, val) =>
    let v : Int := signedVal 64 val + add
    let fits := fun n => decide (off + n ≤ x.size) && patchPlace bs x kind off
    match kind with
    | 1 => if sk = 6 ∨ fits 4 = false ∨ v < -(2 ^ 31) ∨ (2 ^ 32 : Int) ≤ v then none else some (patch bs (x.off + off) (leBytes 4 (natMod v 32)))
    | 2 | 3 => if sk = 6 ∨ fits 8 = false then none else some (patch bs (x.off + off) (leBytes 8 (natMod v 64)))
    | 4 =>
      match planeNamed s self me (nameAt bs l nm) with
      | some n => if fits 8 then some (patch bs (x.off + off) (leBytes 8 (natMod ((n : Int) + add) 64))) else none
      | none => none
    | 5 => if sk = 4 ∧ x.ty = 0 ∧ fits 8 = true then some bs else none
    | _ => none
  | _, _ => none

/-- Every relocation, in order. -/
def relocateAll (s : State) (self : Nat) (me : List Byte) (l : List Sect) (at_ : Nat) : Nat → Nat → List Byte → Option (List Byte)
  | 0, _, bs => some bs
  | n + 1, i, bs =>
    match relocate s self me l bs (at_ + 16 * i) with
    | some bs => relocateAll s self me l at_ n (i + 1) bs
    | none => none

/-! ### Sections (R104 to R112) -/

/-- The entries of PLN, with the offset of each in the section. A KIND other than 1 is an element's
(notes/assumptions/128.md, DESIGN CHOICE). -/
def plnUnits (bs : List Byte) (stop : Nat) : Nat → Nat → Option (List (Nat × PUnit))
  | 0, _ => some []
  | n + 1, at_ =>
    let cnt := fld bs (at_ + 4) 2
    let len := fld bs (at_ + 8) 4
    let cru := fld bs (at_ + 3) 1 == 1
    let need := 0x98 + 12 * cnt + (if cru then 0 else 4 * cnt)
    if stop < at_ + len ∨ len < need ∨ len % 8 ≠ 0 ∨ cnt = 0 ∨ (if cru then 16 else 64) < cnt ∨ 15 < fld bs at_ 1
        ∨ (if cru then 23 else 63) < fld bs (at_ + 1) 1 ∨ (cru = false ∧ 63 < fld bs (at_ + 2) 1) then none
    else
      match plnUnits bs stop n (at_ + len) with
      | none => none
      | some l =>
        some ((at_, { course := fld bs at_ 1, crucible := cru, x := fld bs (at_ + 1) 1, y := if cru then 0 else fld bs (at_ + 2) 1,
                      setting := BitVec.ofNat 64 (fld bs (at_ + 0x10) 8)
                      k := (List.range 16).map fun i => BitVec.ofNat 64 (fld bs (at_ + 0x18 + 8 * i) 8)
                      recs := (List.range cnt).map fun i => BitVec.ofNat 96 (fld bs (at_ + 0x98 + 12 * i) 12)
                      nst := if cru then [] else (List.range cnt).map fun i => BitVec.ofNat 32 (fld bs (at_ + 0x98 + 12 * cnt + 4 * i) 4) }) :: l)

def frmMap (bs : List Byte) (at_ : Nat) : PMap where
  idx := fld bs at_ 1
  slots := fld bs (at_ + 1) 1
  gran := fld bs (at_ + 2) 2
  dmask := BitVec.ofNat 64 (fld bs (at_ + 8) 8)

/-- The nodes that a bay has still to give to its blocks, by (course × 256 + bay) (notes/assumptions/8.md). -/
def bayNodes (us : List PUnit) (key : Nat) : List (Nat × Nat) :=
  us.flatMap fun u =>
    if u.crucible = false ∧ u.course * 256 + elBay u.addr = key then (List.range u.recs.length).map fun n => (u.addr, n) else []

/-- Block entries in order, each taking the next NN nodes of its bay; one whose bay has too few runs on into other bays, which
validation rejects (R24). -/
def frmBlocks (bs : List Byte) (l : List Sect) (us : List PUnit) : Nat → Nat → List (Nat × Nat) → Option (List PBlock)
  | 0, _, _ => some []
  | n + 1, at_, used =>
    let c := fld bs at_ 1
    let b := fld bs (at_ + 1) 1
    let nn := fld bs (at_ + 2) 2
    let key := c * 256 + b
    let from_ := (lkp used key).getD 0
    let own := (bayNodes us key).drop from_
    let other := us.flatMap fun u => if u.crucible = false ∧ u.course * 256 + elBay u.addr ≠ key then (List.range u.recs.length).map fun n => (u.addr, n) else []
    let nodes := (own ++ other).take nn
    if nodes.length ≠ nn ∨ 15 < c then none
    else
      match frmBlocks bs l us n (at_ + 32) (put used key (from_ + nn)) with
      | none => none
      | some ks =>
        some ({ course := c, bay := b, name := nameAt bs l (fld bs (at_ + 4) 4), hash := BitVec.ofNat 64 (fld bs (at_ + 8) 8)
                maps := ((List.range 8).map fun i => fld bs (at_ + 0x10 + i) 1).filter (· != 0xFF), nodes := nodes } :: ks)

def polPool (bs : List Byte) (at_ : Nat) : PPool where
  course := fld bs at_ 1 % 16
  bay := fld bs (at_ + 1) 1
  id := fld bs (at_ + 2) 1 % 8
  w0 := BitVec.ofNat 64 (fld bs (at_ + 8) 8)
  w1 := BitVec.ofNat 64 (fld bs (at_ + 0x10) 8)

/-- A pattern (R107); an ND above 4 is kept as 5, which validation rejects. -/
def patPattern (bs : List Byte) (at_ : Nat) : Pattern where
  es := fld bs (at_ + 4) 1
  dims := (List.range (min 5 (fld bs (at_ + 5) 1))).map fun i => (signedVal 32 (fld bs (at_ + 8 + 8 * i) 4), fld bs (at_ + 12 + 8 * i) 4)

/-- DAT entries (R108). A TK other than 1 is a virtual address (notes/assumptions/128.md, DESIGN CHOICE). -/
def datEntries (bs : List Byte) (stop : Nat) : Nat → Nat → Option (List PDat)
  | 0, _ => some []
  | n + 1, at_ =>
    let len := fld bs (at_ + 0x10) 4
    let next := at_ + 32 + (len + 15) / 16 * 16
    if stop < next then none
    else
      match datEntries bs stop n next with
      | none => none
      | some l =>
        some ({ buf := fld bs at_ 1 == 1, course := fld bs (at_ + 1) 1 % 16, bay := fld bs (at_ + 2) 1, pool := fld bs (at_ + 3) 1 % 8
                uc := fld bs (at_ + 4) 1, va := BitVec.ofNat 64 (fld bs (at_ + 8) 8), gran := fld bs (at_ + 0x18) 2
                bytes := slice bs (at_ + 32) len } :: l)

/-- The index of a named entry block, for LCH (R111). -/
def blockNamed (ks : List PBlock) (c b : Nat) (name : List Byte) : Option Nat :=
  ks.findIdx? fun k => k.course == c && k.bay == b && k.name == name

/-- HANDLE relocations, with the unit and K word that each patches (R109). -/
def handleRels (bs : List Byte) (l : List Sect) (us : List (Nat × PUnit)) (pln : Sect) (at_ : Nat) : Nat → List PHandle
  | 0 => []
  | n + 1 =>
    let a := at_ + 16 * n
    let rest := handleRels bs l us pln at_ n
    if fld bs (a + 2) 2 = 5 then
      let off := pln.off + fld bs (a + 4) 4
      match us.findIdx? (fun u => !u.2.crucible && decide (u.1 + 0x18 ≤ off) && decide (off < u.1 + 0x98) && (off - u.1) % 8 == 0), (sectOf l 6).bind fun y => symAt bs y (fld bs (a + 8) 4) with
      | some i, some (_, _, val) =>
        let base := ((us[i]?).map Prod.fst).getD 0
        rest ++ [{ dat := val, unit := i, k := (off - base - 0x18) / 8, add := signedVal 32 (fld bs (a + 12) 4) }]
      | _, _ => rest
    else rest

/-- Every HANDLE relocation names a K word of an element and a section with a buffer, and its addend fits OFFSET, which the grant
leaves 0 (R53, R109, R114 step 3). -/
def handlesOk (bs : List Byte) (l : List Sect) (p : Plane) : Bool :=
  let n := match sectOf l 5 with
    | some x => ((List.range x.count).filter fun i => fld bs (x.off + 16 * i + 2) 2 == 5).length
    | none => 0
  p.handles.length == n && p.handles.all fun h => ((p.dats[h.dat]?).map PDat.buf).getD false
    && decide (0 ≤ h.add) && decide (h.add < 2 ^ 20)

/-- LCH (R111). One whose ENTRY names no block of its COURSE and BAY counts as absent (notes/assumptions/110.md, DESIGN
CHOICE). -/
def lchEntry (bs : List Byte) (l : List Sect) (ks : List PBlock) (at_ : Nat) : Option PLaunch :=
  let c := fld bs at_ 1
  let b := fld bs (at_ + 1) 1
  (blockNamed ks c b (nameAt bs l (fld bs (at_ + 4) 4))).map fun i =>
    { course := c, bay := b, pool := fld bs (at_ + 2) 1 % 8, argc := fld bs (at_ + 3) 1, block := i
      ak := (List.range 16).map fun n => fld bs (at_ + 8 + n) 1
      ft := fld bs (at_ + 0x18) 2, perm := fld bs (at_ + 0x1A) 1, depth := fld bs (at_ + 0x1B) 1, heap := fld bs (at_ + 0x1C) 4
      rdgn := fld bs (at_ + 0x20) 4, cru := fld bs (at_ + 0x24) 3 }

/-- Fields of POL, DAT and RDG that name a course, a pool, a channel or a beat lie in their ranges (R106, R108, R112). -/
def namesOk (bs : List Byte) (pols rdgs : List Nat) (dats : List (Nat × Nat)) : Bool :=
  pols.all (fun a => decide (fld bs a 1 ≤ 15) && decide (fld bs (a + 2) 1 ≤ 7))
    && rdgs.all (fun a => decide (fld bs a 1 ≤ 7) && decide (fld bs (a + 2) 2 ≤ 1023))
    && dats.all fun d => fld bs (d.1 - 32) 1 != 1 || (decide (fld bs (d.1 - 31) 1 ≤ 15) && decide (fld bs (d.1 - 29) 1 ≤ 7))

/-- A file that has passed steps 1 to 3 of R114, as a plane. -/
def planeOfObject (bs : List Byte) (l : List Sect) : Option Plane :=
  match sectOf l 0, sectOf l 1 with
  | some pln, some frm =>
    match plnUnits bs (pln.off + pln.size) pln.count pln.off with
    | none => none
    | some us =>
      let units := us.map Prod.snd
      let nm := fld bs frm.off 4
      let nb := fld bs (frm.off + 4) 4
      if frm.size < 16 + 24 * nm + 32 * nb then none
      else
        match frmBlocks bs l units nb (frm.off + 16 + 24 * nm) [] with
        | none => none
        | some ks =>
          let each := fun t n => match sectOf l t with
            | some x => (List.range x.count).map fun i => x.off + n * i
            | none => []
          let dats := match sectOf l 4 with | some x => datEntries bs (x.off + x.size) x.count x.off | none => some []
          let spans := match sectOf l 4 with
            | some x => (datSpans bs x x.count 0).map fun d => (x.off + d.1, d.2)
            | none => []
          match dats with
          | none => none
          | some ds =>
            if !(namesOk bs (each 2 24) (each 8 4) spans) then none
            else
              some { name := (slice bs 0x10 32).takeWhile (· != 0#8), bytes := bs.length, units := units,
                     maps := (List.range nm).map fun i => frmMap bs (frm.off + 16 + 24 * i),
                     blocks := ks, pools := (each 2 24).map (polPool bs), pats := (each 3 40).map (patPattern bs), dats := ds,
                     handles := match sectOf l 5 with | some x => handleRels bs l us pln x.off x.count | none => [],
                     launch := (sectOf l 7).bind fun x => lchEntry bs l ks x.off,
                     rdg := (each 8 4).map fun a => fld bs (a + 2) 2 % 1024 * 8 + fld bs a 1 % 8,
                     damaged := false }
  | _, _ => none

/-- What steps 1 to 3 of R114 give: a plane, or the status that refuses the message (R440). Section contents that do not parse
are BAD_OBJECT, after the signature and the relocations (notes/assumptions/106.md, DESIGN CHOICE). -/
def readObject (s : State) (num : Nat) (bs : List Byte) : Except Nat Plane :=
  match objectSects bs 0x4F584345 with
  | none => .error 4
  | some l =>
    if !(signatureOk s bs l) then .error 5
    else
      let me := (slice bs 0x10 32).takeWhile (· != 0#8)
      let rel := match sectOf l 5 with
        | some x => relocateAll s num me l x.off x.count 0 bs
        | none => some bs
      match rel with
      | none => .error 6
      | some bs' =>
        match planeOfObject bs' l with
        | some p => if handlesOk bs' l p then .ok { p with bytes := bs.length } else .error 6
        | none => .error 4

end Sys2Proof.Machine
end

