-- ==== Sys2Proof/Machine/Launch.lean ====
section
/-! DEFINITION. Sys2Proof/Machine/Launch.lean: launch records and queues, from queue to start, the start of a kernel, its
injections and its end (R32, R108, R109, R112, R114, R295 step 4, R353 to R362). -/

namespace Sys2Proof.Machine

/-! ### Launch records (R354) -/

/-- A launch record from its eight words and its arguments. -/
def launchOf (ws args : List Nat) : LaunchRec :=
  let w := fun i => ws.getD i 0
  { cx := BitVec.ofNat 12 (w 0 / 2 ^ 48), plane := BitVec.ofNat 16 (w 0 / 2 ^ 32), queue := BitVec.ofNat 2 (w 0 / 2 ^ 30),
    prio := BitVec.ofNat 3 (w 0 / 2 ^ 27), ev := w 0 / 2 ^ 21 % 2 == 1, strict := w 0 / 2 ^ 20 % 2 == 1,
    course := BitVec.ofNat 4 (w 1 / 2 ^ 60), bay := BitVec.ofNat 8 (w 1 / 2 ^ 52), pool := BitVec.ofNat 3 (w 1 / 2 ^ 49),
    blk := BitVec.ofNat 17 (w 1 / 2 ^ 32), pre := [w 2, w 3, w 4, w 5].map (BitVec.ofNat 64), start := BitVec.ofNat 64 (w 6),
    gid := BitVec.ofNat 32 (w 7 / 2 ^ 32), gn := BitVec.ofNat 11 (w 7 / 2 ^ 21), args := args.map (BitVec.ofNat 64) }

/-- ARGC of a record. -/
def launchArgc (ws : List Nat) : Nat := ws.getD 0 0 / 2 ^ 22 % 32

/-- A record's words are malformed by themselves: a reserved bit is set, or ARGC lies outside 0 to 16. -/
def launchReserved (ws : List Nat) : Bool :=
  ws.length != 8 || ws.getD 0 0 / 2 ^ 60 != 0 || ws.getD 0 0 % 2 ^ 20 != 0 || ws.getD 1 0 % 2 ^ 32 != 0
    || ws.getD 7 0 % 2 ^ 21 != 0 || decide (16 < launchArgc ws)

/-- The entry block of a launch: course, bay, pool and block index; with EV = 0 those of LCH (R111). -/
def launchEntry (p : Plane) (l : LaunchRec) : Option (Nat × Nat × Nat × Nat) :=
  if l.ev then some (l.course.toNat, l.bay.toNat, l.pool.toNat, l.blk.toNat)
  else p.launch.map fun x => (x.course, x.bay, x.pool, x.block)

/-- K indexes of the arguments. -/
def launchAks (p : Plane) (l : LaunchRec) : List Nat :=
  if l.ev then List.range 16 else (p.launch.map PLaunch.ak).getD []

/-- Stacks that a context holds. -/
def State.stackCount (s : State) (cx : Nat) : Nat := ((List.range 1024).filter fun n => s.holdsStack cx n).length

/-- A prerequisite names no launched kernel of the context (R353, R354). -/
def preBad (s : State) (cx w : Nat) : Bool :=
  w != 0 && (w / 2 ^ 32 != cx || !(s.kernels.any fun k => k.cx.toNat == cx && k.serial.toNat == w % 2 ^ 32))

/-- A record is malformed for its plane (R354). -/
def launchBad (s : State) (p : Plane) (l : LaunchRec) : Bool :=
  (!l.ev && (match p.launch with | none => true | some x => decide (x.argc < l.args.length)))
    || (decide (0 < l.gn.toNat) && l.start == 0)
    || decide (1024 < l.gn.toNat) || (decide (0 < l.gn.toNat) && decide (s.stackCount l.cx.toNat < l.gn.toNat))
    || (l.ev && (match p.blocks[l.blk.toNat]? with
        | none => true
        | some b => b.course != l.course.toNat || b.bay != l.bay.toNat))
    || l.pre.any fun w => preBad s l.cx.toNat w.toNat

/-! ### Holdings of a launch (R114 step 5, R296, R359 step 1) -/

/-- A context holds the elements of a bay: it has a valid partition entry there (R43). -/
def State.holdsBay (s : State) (cx c b : Nat) : Bool := cx == 0 || (s.bay c b).parts.any fun e => e.2.cx.toNat == cx

/-- Frame tags of a context in a bay. -/
def State.tagCount (s : State) (cx c b : Nat) : Nat :=
  if cx = 0 then 4096
  else (((s.bay c b).parts.filter fun e => e.2.cx.toNat == cx).map fun e => e.2.fth.toNat + 1 - e.2.ftl.toNat).sum

/-- A context holds what LCH and RDG of a plane name. The slots that RDGN counts are those of its run-time holding, granted ones
too (R178), beside the ones that RDG names. -/
def holdsLaunch (s : State) (cx : Nat) (p : Plane) : Bool :=
  let cs := (List.range 16).filter p.onCourse
  (match p.launch with
    | none => true
    | some x =>
      decide (x.depth ≤ (s.ctx cx).depth.toNat)
        && cs.all (fun c => (p.baysOn c).all (fun b => decide (x.ft ≤ s.tagCount cx c b))
          && decide (x.perm ≤ s.freeShare cx c 5) && decide (x.heap ≤ s.freeShare cx c 6)
          && (bitsOf 24 x.cru).all fun n => s.holdsCru cx c n)
        && decide (x.rdgn ≤ ((s.runSlots cx).filter fun e => !(p.rdg.contains e.1)).length))
    && p.rdg.all fun n => match lkp s.slots n with
        | some x => x.cx.toNat == cx && x.state != .granted && !x.leaving && s.ownsSlot cx n
        | none => false

/-- It holds the units of a plane on a course: elements by R43, crucibles by KIND 3 (R294). -/
def holdsUnits (s : State) (cx c : Nat) (p : Plane) : Bool :=
  (p.units.filter fun u => u.course == c).all fun u =>
    if u.crucible then s.holdsCru cx c u.x else s.holdsBay cx c (elBay (u.y * 64 + u.x))

/-- A pool's range lies in the context's KIND 1 holdings of its bay, and its id is not another context's (R51, R282). -/
def holdsPool (s : State) (cx : Nat) (q : PPool) : Bool :=
  let key := q.course * 256 + q.bay
  let other := match s.pool? q.course q.bay q.id with | some x => x.cx.toNat != cx | none => false
  !other && (cx == 0 || coverRange 1 key (s.ctx cx).holds (q.base + q.size) ((s.ctx cx).holds.length + 1) q.base)

/-! ### Queues (R355, R356) -/

/-- A kernel stands in a launch queue of its context. -/
def Kernel.queued (k : Kernel) : Bool := k.state == .queued || k.state == .waiting || k.state == .selected

/-- The kernels of a queue, oldest first. -/
def State.queueOf (s : State) (cx q : Nat) : List Kernel :=
  s.kernels.filter fun k => k.cx.toNat == cx && k.launch.queue.toNat == q && k.queued

/-- The heads of a context's four queues. -/
def State.heads (s : State) (cx : Nat) : List Kernel := (List.range 4).filterMap fun q => (s.queueOf cx q).head?

def sameKernel (a b : Kernel) : Bool := a.cx == b.cx && a.serial == b.serial

/-- Change a kernel. -/
def modKernel (s : State) (k : Kernel) (f : Kernel → Kernel) : State :=
  { s with kernels := s.kernels.map fun x => if sameKernel x k then f x else x }

/-- A queued kernel that heads its queue waits (R356). -/
def headsWait (s : State) (cx : Nat) : State :=
  (s.heads cx).foldl (fun s k => if k.state == .queued then modKernel s k fun x => { x with state := .waiting } else s) s

/-- The next serial: 0 is skipped (R353). -/
def nextSerial (x : BitVec 32) : BitVec 32 := if x + 1 = 0 then 1 else x + 1

/-- Queue a launch (R296, R354, R355): the fault that refuses it, or the kernel word. -/
def queueLaunch (s : State) (ws args : List Nat) (fromHost : Bool) : Except (Nat × Nat) (Nat × State) :=
  if launchReserved ws || args.length != launchArgc ws then .error (kPROT, 19)
  else
    let l := launchOf ws args
    let cx := l.cx.toNat
    match lkp s.planes l.plane.toNat with
    | none => .error (kCFGFETCH, 0)
    | some p =>
      if launchBad s p l then .error (kPROT, 19)
      else if !(holdsLaunch s cx p) then .error (kHOLDING, 2)
      else if 64 ≤ (s.queueOf cx l.queue.toNat).length then .error (kHOLDING, 6)
      else
        match launchEntry p l with
        | none => .error (kPROT, 19)
        | some (c, b, pid, blk) =>
          let serial := (s.ctx cx).serial
          let k : Kernel :=
            { cx := l.cx, serial := serial, launch := l, fromHost := fromHost, state := .queued, status := .normal, fault := 0,
              code := 0, course := BitVec.ofNat 4 c, bay := BitVec.ofNat 8 b, pool := BitVec.ofNat 3 pid, block := blk,
              frame := none, pending := false, info := none, tick := 0, heap := p.isHeap, endToken := false, slots := [] }
          let s := (s.modCtx cx fun x => { x with serial := nextSerial x.serial })
          .ok (kernelWord cx serial.toNat, headsWait { s with kernels := s.kernels ++ [k] } cx)

/-! ### Selecting (R356 to R358) -/

/-- The kernel that a prerequisite word names. -/
def State.kernelOf (s : State) (w : Word) : Option Kernel :=
  s.kernels.find? fun k => k.cx.toNat == w.toNat / 2 ^ 32 && k.serial.toNat == w.toNat % 2 ^ 32

/-- Every prerequisite has ended, in any status. -/
def presEnded (s : State) (k : Kernel) : Bool :=
  k.launch.pre.all fun w => w == 0 || match s.kernelOf w with | some x => x.state == .ended | none => true

/-- A prerequisite has ended other than normally. -/
def preFailed (s : State) (k : Kernel) : Bool :=
  k.launch.pre.any fun w => w != 0 && match s.kernelOf w with | some x => x.state == .ended && x.status != .normal | none => false

/-- The context holds a slice on every course of a plane. -/
def holdsSlices (s : State) (cx : Nat) (p : Plane) : Bool :=
  (List.range 16).all fun c => !(p.onCourse c) || slicedOn s cx c

/-- A head meets the conditions of R356 on prerequisites and START. -/
def headDue (s : State) (k : Kernel) : Bool :=
  presEnded s k && !(k.launch.strict && preFailed s k) && (k.launch.start == 0 || decide (k.launch.start.toNat ≤ s.tick.toNat))

/-- A head meets every condition of R356 but the free units. -/
def headReady (s : State) (k : Kernel) : Bool :=
  headDue s k && (match s.kernelPlane k with | some p => holdsSlices s k.cx.toNat p | none => true)

/-- The kernel of highest priority, ties to the first in order of queue. -/
def firstByPrio (l : List Kernel) : Option Kernel :=
  l.foldl (fun m k => match m with
    | none => some k
    | some x => if x.launch.prio.toNat < k.launch.prio.toNat then some k else some x) none

/-- The head that R357 selects. -/
def bestHead (s : State) (cx : Nat) : Option Kernel := firstByPrio ((s.heads cx).filter (headReady s))

/-- KERNEL_SELECT (R357). `cx` is the context. -/
def execKernelSelect (e : EvArgs) (s : State) : Host.Outcome State Fault Refusal :=
  let cx := e.cx.toNat
  .next (if s.kernels.any fun k => k.cx.toNat == cx && k.state == .selected then s
    else
      match bestHead s cx with
      | some k => modKernel s k fun x => { x with state := .selected }
      | none => s)

/-- KERNEL_CANCEL (R356): a waiting STRICT head whose prerequisite ended other than normally. -/
def execKernelCancel (e : EvArgs) (s : State) : Host.Outcome State Fault Refusal :=
  let cx := e.cx.toNat
  .next (match (s.heads cx).find? fun k => k.launch.strict && preFailed s k with
    | some k => headsWait (endKernel s k .cancelled 0 0) cx
    | none => s)

/-- The plane's units are free of other live kernels of the context, and a second heap kernel waits (R358): what the plane that
would be dropped now holds counts, not what the Thatch held when the launch was queued. -/
def unitsFree (s : State) (k : Kernel) (p : Plane) : Bool :=
  let mine := p.occupies
  s.kernels.all fun x => sameKernel x k || x.cx != k.cx || !x.live
    || (!(p.isHeap && x.heap) && !(((s.kernelPlane x).map Plane.occupies).getD [] |>.any fun u => mine.contains u))

/-! ### Dropping a plane (R295 step 4, R359 step 2) -/

/-- A pool as its declaration makes it (R50, R106): CX the context, FREE its size, its map empty with every GEN 0. Its V and CX
in the file are not looked at (both are notes/assumptions/129.md, DESIGN CHOICE). -/
def newPool (cx : Nat) (q : PPool) : Pool where
  kind := BitVec.ofNat 2 q.kind
  cx := BitVec.ofNat 12 cx
  allow := BitVec.ofNat 4 (q.w0.toNat / 2 ^ 45)
  sc := BitVec.ofNat 4 (q.w0.toNat / 2 ^ 41)
  base := BitVec.ofNat 16 q.base
  size := BitVec.ofNat 16 q.size
  rsv := BitVec.ofNat 16 q.rsv
  anchored := false
  waiters := []
  pmap := []
  grants := 0
  releases := 0
  overtakes := 0
  anchors := 0
  compactions := 0
  spills := 0
  restores := 0
  intoSpilled := 0
  timer := 0
  spilledForHead := false
  moving := []
  moveBase := 0
  moveDue := 0
  spilling := none
  spillHeld := false
  spillPlaced := false
  restoring := []
  pseudo := none
  retired := []
  away := []

/-- A pool's declaration equals the one in force. -/
def samePool (cx : Nat) (q : PPool) (p : Pool) : Bool :=
  let n := newPool cx q
  n.kind == p.kind && n.cx == p.cx && n.allow == p.allow && n.sc == p.sc && n.base == p.base && n.size == p.size && n.rsv == p.rsv

/-- A pool holds no allocation. -/
def poolIdle (y : Bay) (pid : Nat) (p : Pool) : Bool := poolInUse y pid p == 0

/-- The pools of a context in a bay after a new declaration list: an identical one keeps its state, another must be idle
and is replaced, its waiting requests kept, or, when `gone` says so, removed; none when one is occupied. -/
def declarePools (y : Bay) (cx : Nat) (qs : List PPool) (gone : Nat → Bool) : Option Bay :=
  let clash := y.pools.any fun e => e.2.cx.toNat == cx &&
    (match qs.find? fun q => q.id == e.1 with
      | some q => !(samePool cx q e.2) && !(poolIdle y e.1 e.2)
      | none => gone e.1 && !(poolIdle y e.1 e.2))
  if clash then none
  else
    let kept := y.pools.filter fun e => e.2.cx.toNat != cx ||
      (match qs.find? fun q => q.id == e.1 with
        | some q => samePool cx q e.2
        | none => !(gone e.1))
    some { y with pools := qs.foldl (fun l q =>
      if (lkp l q.id).isSome then l
      else put l q.id { newPool cx q with
        -- the requests that wait stay on its list
        waiters := (((lkp y.pools q.id).filter fun p => p.cx.toNat == cx).map Pool.waiters).getD [] }) kept }

/-- The pools of a plane are declared, bay by bay: none when one is occupied. `used` names pools that another live kernel
of the context declares. -/
def dropPools (s : State) (cx : Nat) (p : Plane) (used : Nat → Nat → Nat → Bool) : List (Nat × Nat) → Option State
  | [] => some s
  | (c, b) :: rest =>
    match declarePools (s.bay c b) cx (p.pools.filter fun q => q.course == c && q.bay == b) (fun pid => !(used c b pid)) with
    | some y =>
      let s := s.setBay c b { y with pools := y.pools.map fun e => (e.1, e.2.retire (s.deadRanges c b)) }
      dropPools ((y.pools.filter fun e => !e.2.waiters.isEmpty).foldl (fun s e => scanPool s c b e.1) s) cx p used rest
    | none => none

/-- A bank that a plane's unit writes: an element's slots at and above NACT hold OP 0x00 (R126). -/
def PUnit.bank (u : PUnit) : Bank where
  recs := ((List.range u.recs.length).zip u.recs).filter fun e => e.2 != 0#96 && (u.crucible || decide (e.1 < bitsAt u.setting 54 7))
  nst := ((List.range u.nst.length).zip u.nst).filter fun e => e.2 != 0#32
  setting := u.setting

/-- A unit's active bank is written, with K0 to K15 of an element (R104, R359 step 2). -/
def dropUnit (s : State) (u : PUnit) : State :=
  if u.crucible then
    s.modCru u.course u.x fun x => { x with active := u.bank.recs }
  else
    s.modElem u.course (u.y * 64 + u.x) fun x =>
      { x with active := u.bank, k := ((List.range u.k.length).zip u.k).filter (fun e => e.2 != 0#64), lastIt := 0 }

/-- A plane becomes the newest that a context has active on a course. -/
def addLoaded (s : State) (cx : BitVec 12) (plane : BitVec 16) (serial : BitVec 32) (p : Plane) (c : Nat) : State :=
  s.modCrs c fun y =>
    { y with loaded := { cx := cx, plane := plane, serial := serial, info := p } :: y.loaded.filter fun l => !(l.cx == cx && l.plane == plane) }

/-! ### Data (R108, R109, R359 step 3) -/

/-- A buffer for a data section: the pool entry granted, or none when R108 refuses it. The pool's kind is not looked at
(notes/assumptions/108.md, DESIGN CHOICE). -/
def datBuffer (s : State) (cx : Nat) (d : PDat) : Option (State × Nat × Nat) :=
  match s.pool? d.course d.bay d.pool with
  | none => none
  | some p =>
    let y := s.bay d.course d.bay
    let n := (d.bytes.length + 15) / 16
    let base := if d.gran = 0xFFFF then lowestHole y d.pool p n 1
      else
        let a := p.base.toNat + d.gran
        if a + n ≤ p.base.toNat + p.size.toNat ∧ disjointFrom a n (poolRanges y d.pool p ++ moveRange y d.pool p) = true then some a else none
    if p.cx.toNat ≠ cx ∨ poolFree y d.pool p < n + p.rsv.toNat then none
    else
      match base, freeEntry p with
      | some a, some i =>
        let gen : BitVec 8 := ((lkp p.pmap i).map PEntry.gen).getD 0 + 1
        let ent : PEntry := { v := true, sp := false, mv := false, ch := true, gen := gen, base := BitVec.ofNat 16 a,
                              size := BitVec.ofNat 16 n, uc := BitVec.ofNat 8 d.uc, hft := 0, cx := BitVec.ofNat 12 cx,
                              age := y.grantAge, guard := false, img := 0, seq := 0, freeing := false, lost := false }
        let s := (s.modBay d.course d.bay fun y => { y with grantAge := y.grantAge + 1 }).modPool d.course d.bay d.pool fun q => { q with pmap := put q.pmap i ent }
        some ({ s with mem := Memory.putBytes s.mem (nearPA d.course d.bay (16 * a)) d.bytes }, i, gen.toNat)
      | _, _ => none

/-- HANDLE relocations of a data section's buffer (R109). -/
def putHandles (s : State) (p : Plane) (i h : Nat) : State :=
  (p.handles.filter fun x => x.dat == i).foldl (fun s x =>
    match p.units[x.unit]? with
    | some u =>
      if u.crucible then s
      else
        let v := h / 2 ^ 20 * 2 ^ 20 + natMod x.add 20
        s.modElem u.course (u.y * 64 + u.x) fun e => { e with k := put e.k x.k (BitVec.ofNat 64 v) }
    | none => s) s

/-- The data sections are written and granted, in file order (R108). A buffer that cannot be granted is LAYOUT, whatever the
reason (notes/assumptions/108.md, DESIGN CHOICE). -/
def dropData (cx : Nat) (p : Plane) : Nat → List PDat → State → Except (Nat × Nat) State
  | _, [], s => .ok s
  | i, d :: ds, s =>
    if d.buf then
      match datBuffer s cx d with
      | some (s, e, gen) => dropData cx p (i + 1) ds (putHandles s p i (handleWord d.course d.bay d.pool e gen))
      | none => .error (kLAYOUT, 0)
    else if d.bytes.isEmpty then dropData cx p (i + 1) ds s
    else
      match s.region cx d.va.toNat d.bytes.length 1 clsStore true false with
      | .ok as _ _ => dropData cx p (i + 1) ds (s.writeRegion cx d.va.toNat as d.bytes)
      | .bad k c _ _ => .error (k, c)
      | .held | .pull _ => .error (kPROT, 0)

/-- A page of a plane's data that must be pulled, or whose home must wake, first (R432, R453). -/
def dataPull (s : State) (cx : Nat) (p : Plane) : Option Nat :=
  p.dats.findSome? fun d =>
    if d.buf then none
    else match s.region cx d.va.toNat d.bytes.length 1 clsStore true false with
      | .pull va => some va
      | _ => none

/-- Each argument goes to its K index on every element of the plane that holds a node (R359 step 4). -/
def dropArgs (s : State) (p : Plane) (l : LaunchRec) : State :=
  let aks := launchAks p l
  (p.units.filter fun u => !u.crucible && u.recs.any fun w => w != 0#96).foldl (fun s u =>
    s.modElem u.course (u.y * 64 + u.x) fun e =>
      { e with k := ((List.range l.args.length).zip l.args).foldl (fun k a =>
          let i := aks.getD a.1 0xFF
          if i < 16 then put k i a.2 else k) e.k }) s

/-- Slots that a plane's RDG names are reserved (R336). -/
def reserveSlots (s : State) (ns : List Nat) : State :=
  { s with slots := s.slots.map fun e =>
    if (ns.contains e.1) = true then (e.1, { e.2 with state := .reserved, users := e.2.users + 1 }) else e }

/-! ### Starting (R359) -/

/-- Another live kernel of the context declares a pool. -/
def poolUsed (s : State) (k : Kernel) (c b pid : Nat) : Bool :=
  s.kernels.any fun x => x.cx == k.cx && !(sameKernel x k) && x.live
    && (((s.kernelPlane x).map fun p => (p.poolAt c b pid).isSome).getD false)

/-- Bays in which a plane declares pools, with their courses. -/
def Plane.poolBays (p : Plane) : List (Nat × Nat) := (p.pools.map fun q => (q.course, q.bay)).eraseDups

/-- The block of a plane on a course with a name, bay and HASH. -/
def Plane.sameBlock (p : Plane) (b : PBlock) : Option Nat :=
  p.blocks.findIdx? fun k => k.course == b.course && k.bay == b.bay && k.name == b.name && k.hash == b.hash

/-- A live frame of a block of some planes active on a course is laid out differently by a new plane: no block of it has the
name, bay and HASH (R114 step 6, R295 step 3). -/
def layoutBreaks (s : State) (c : Nat) (new : Plane) (of : Loaded → Bool) : Bool :=
  (s.crs c).loaded.any fun l => of l && s.bays.any fun y => y.1 / 256 == c && y.2.frames.any fun f => f.2.cx == l.cx &&
    l.info.blocks.any fun b => b.course == c && b.bay == y.1 % 256 && b.maps.contains f.2.map.toNat && (new.sameBlock b).isNone

/-- A pool of a plane lies over what stays in force beside it: granules that back a mapped page (R314), or another pool of its
context in the bay (R51). -/
def poolClash (s : State) (cx : Nat) (p : Plane) (used : Nat → Nat → Nat → Bool) (q : PPool) : Bool :=
  s.mappedOver q.course q.bay q.base q.size || (s.bay q.course q.bay).pools.any fun e =>
    e.2.cx.toNat == cx && (p.poolAt q.course q.bay e.1).isNone && used q.course q.bay e.1
      && decide (e.2.base.toNat < q.base + q.size) && decide (q.base < e.2.base.toNat + e.2.size.toNat)

/-- The heap kernel of a context begins: its pops are counted from here (R306). -/
def markPops (s : State) (cx : Nat) : State :=
  (List.range 16).foldl (fun s c => if (s.crs c).heap.pops.isEmpty then s else
    modHeap s c fun h => { h with oldPops := put h.oldPops cx ((lkp h.pops cx).getD 0) }) s

/-- Steps 1 to 5 of R359 for a selected kernel: the fault of the first step that fails, or the state after them. The holdings
are tested before the plane, as R359 has it (notes/assumptions/106.md, DESIGN CHOICE). -/
def startKernel (s : State) (k : Kernel) : Except (Nat × Nat) State :=
  let cx := k.cx.toNat
  match lkp s.planes k.launch.plane.toNat with
  | none => .error (kCFGFETCH, 0)
  | some p =>
    if !(holdsLaunch s cx p && (List.range 16).all (fun c => holdsUnits s cx c p) && p.pools.all (holdsPool s cx)) then
      .error (kHOLDING, 2)
    else if p.damaged then .error (kCFGFETCH, 1)
    else
      match p.validateOn s.sideband.stackNo.toNat (fun _ => true) (poolClash s cx p (poolUsed s k)) with
      | some f => .error (kCFGILL, f.code)
      | none =>
        if (List.range 16).any fun c => layoutBreaks s c p fun l => l.cx == k.cx && l.plane == k.launch.plane then .error (kLAYOUT, 0)
        else match dropPools s cx p (poolUsed s k) p.poolBays with
        | none => .error (kLAYOUT, 0)
        | some s =>
          let s := p.units.foldl dropUnit s
          let s := ((List.range 16).filter p.onCourse).foldl (addLoaded · k.cx k.launch.plane k.serial p) s
          let s := reserveSlots (if p.isHeap then markPops s cx else s) p.rdg
          match dropData cx p 0 p.dats s with
          | .error e => .error e
          | .ok s =>
            let s := dropArgs s p k.launch
            let c := k.course.toNat
            let b := k.bay.toNat
            let pid := k.pool.toNat
            match p.mapAt 0, s.pool? c b pid with
            | some m, some q =>
              if q.cx != k.cx || q.kind != 0#2 then .error (kHOLDING, 2)
              else
                let s := modKernel s k fun x => { x with state := .starting, info := some p, pending := true, slots := p.rdg, heap := p.isHeap }
                let s := if k.launch.gn = 0 then s
                  else
                    let me := s.sideband.stackNo.toNat
                    let word := (k.launch.gid.toNat, me, s.tick.toNat)
                    { s with readyWords := (s.readyWords.filter fun w => !(w.1 == word.1 && w.2.1 == me)) ++ [word]
                             readyOut := s.readyOut ++ [word] }
                let g : Firing := { Firing.none with course := k.course, unit := BitVec.ofNat 13 (elAt b 0), cx := k.cx }
                .ok (joinPool s c b pid
                  { party := .launch k.cx k.serial, pend := { word := 0, fir := g }, size := m.gran, nslots := m.slots, dmask := m.dmask,
                    map := 0, cs := false, ovt := 0, uc := 0, guard := false })
            | some _, none => .error (kHOLDING, 2)
            | none, _ => .error (kCFGILL, 15)

/-! ### Gangs (R362) -/

/-- The n-th candidate tick is good: GN distinct stacks' ready words carry ticks no later than T − 2,000. -/
def gangGood (s : State) (k : Kernel) (t : Nat) : Bool :=
  let ok := s.readyWords.filter fun w => w.1 == k.launch.gid.toNat && decide (w.2.2 + 2000 ≤ t)
  decide (k.launch.gn.toNat ≤ ((ok.map fun w => w.2.1).eraseDups).length)

/-- The gang's start tick: the first of START, START + 16,384, and so on that is good, when all words have come. -/
def gangTick (s : State) (k : Kernel) : Option Nat :=
  let start := k.launch.start.toNat
  let ts := (s.readyWords.filter fun w => w.1 == k.launch.gid.toNat).map fun w =>
    if w.2.2 + 2000 ≤ start then start else start + (w.2.2 + 2000 - start + 16383) / 16384 * 16384
  let good := ts.filter (gangGood s k)
  good.foldl (fun m t => match m with | none => some t | some x => some (min x t)) none

/-- The starting gang kernels of a context that wait for their start tick. -/
def gangWaits (s : State) (cx : Nat) : List Kernel :=
  s.kernels.filter fun k => k.cx.toNat == cx && k.state == .starting && k.launch.gn != 0 && k.tick == 0

/-- A kernel of a gang learns its start tick, once it is fixed. The words have then done their work: a later gang with this GID
needs its own. -/
def fixTick (s : State) (k : Kernel) : State :=
  match gangTick s k with
  | some t =>
    modKernel { s with readyWords := s.readyWords.filter fun w => !(w.1 == k.launch.gid.toNat && decide (w.2.2 + 2000 ≤ t)) } k
      fun x => { x with tick := t }
  | none => s

/-- Every gang kernel of a context whose last ready word has come learns its start tick in that step. -/
def fixTicks (s : State) (cx : Nat) : State := (gangWaits s cx).foldl fixTick s

/-- KERNEL_START (R359): the selected kernel of a context starts when its units are free. -/
def execKernelStart (e : EvArgs) (s : State) : Host.Outcome State Fault Refusal :=
  let cx := e.cx.toNat
  .next (match s.kernels.find? fun k => k.cx.toNat == cx && k.state == .selected with
    | none => s
    | some k =>
      let free := match s.kernelPlane k with
        | some p => holdsSlices s cx p && unitsFree s k p
        | none => true
      if !free then s
      else if let some va := (s.kernelPlane k).bind (dataPull s cx) then needPage s k.course.toNat cx va { Firing.none with course := k.course, cx := k.cx }
      else
        match startKernel s k with
        | .ok s => headsWait (fixTicks s cx) cx
        | .error (kind, code) => headsWait (endKernel s k .refused kind code) cx)

/-- GANG_START_TICK (R362): the starting gang kernels of a context learn their start ticks. A ready word of another stack comes
with `aux` = the low bits of its tick in the input; `k` is the sending stack, `ft` says which of the gangs waiting it is for, and
`unit` 1 that a word comes. No word comes later than 900 ns after it was sent (R44). -/
def execGangStartTick (e : EvArgs) (s : State) : Host.Outcome State Fault Refusal :=
  .next (
    let s := match (gangWaits s e.cx.toNat)[e.ft.toNat]? with
      | none => s
      | some k =>
        let word := (k.launch.gid.toNat, e.k.toNat % 1024, (s.tick.toNat / 2 ^ 36 * 2 ^ 36 + e.aux.toNat))
        if e.unit = 1 ∧ word.2.1 ≠ s.sideband.stackNo.toNat ∧ s.reach.contains word.2.1 = true ∧ s.tick.toNat ≤ word.2.2 + 900
            ∧ (s.readyWords.any fun w => w.1 == word.1 && w.2.1 == word.2.1) = false then
          { s with readyWords := s.readyWords ++ [word] }
        else s
    fixTicks s e.cx.toNat)

/-! ### Injection (R360, R361) -/

/-- SOURCE_INJECTION (R360, R361): the granted launch frame's entry block begins, and its sources are injected, once its
context holds a slice on the entry course and, for a gang, the start tick has come. A sweep there stops it. -/
def execSourceInjection (e : EvArgs) (s : State) : Host.Outcome State Fault Refusal :=
  let cx := e.cx.toNat
  .next (match s.kernels.find? fun k => k.cx.toNat == cx && k.state == .starting && k.frame.isSome
      && slicedOn s cx k.course.toNat
      && (k.launch.gn == 0 || (k.tick != 0 && decide (k.tick ≤ s.tick.toNat))) with
    | none => s
    | some k =>
      let ft := (k.frame.getD 0).toNat
      let s := modKernel s k fun x => { x with state := .running, pending := false }
      -- the energy of the current kernel begins at 0 (R290, R425)
      let s := s.modCtx cx fun x => { x with energy := 0 }
      startCast s k.course.toNat k.bay.toNat ft (k.launch.plane.toNat * 2 ^ 17 + k.block) true)

/-! ### End (R32, R356, R360) -/

/-- A kernel placed the node of a unit. -/
def ofKernel (s : State) (k : Kernel) (c u : Nat) : Bool :=
  match s.loadedAt k.cx.toNat c u with
  | some l => l.serial == k.serial
  | none => false

/-- The kernel placed a firing's node. -/
def firOf (s : State) (k : Kernel) (g : Firing) : Bool := g.cx == k.cx && ofKernel s k g.course.toNat g.unit.toNat

/-- A token of a kernel's nodes. -/
def tokOf (s : State) (k : Kernel) (t : Transit) : Bool :=
  t.tok.cx == k.cx && ((t.stack == s.sideband.stackNo && ofKernel s k t.course.toNat (destUnit t.tok.dest))
    || (unitKind (destUnit t.tok.dest) matches .gate _) || ofKernel s k t.sCourse.toNat t.sUnit.toNat)

/-- A block of a frame's context is the kernel's. -/
def blockOfKernel (s : State) (k : Kernel) (c block : Nat) : Bool :=
  match (s.crs c).loaded.find? fun l => l.cx == k.cx && l.plane.toNat == block / 2 ^ 17 with
  | some l => l.serial == k.serial
  | none => false

/-- A live cast, or a token that waits for one, of a kernel stands in a frame. -/
def frameBusy (s : State) (k : Kernel) (c : Nat) (f : Frame) : Bool :=
  f.cx == k.cx && ((f.cast.map fun x => blockOfKernel s k c x.block).getD false || f.waiting.any fun w => blockOfKernel s k c w.1
    || f.atBay.any (tokOf s k))

/-- A fault on its way to a handler of a kernel: its token, or the request for its frame, is still to come, or the verdict that
the handler sent has not reached a site of the context (R32, R377, R388). -/
def faultBusy (s : State) (k : Kernel) : Bool :=
  match s.handlerOf k.cx.toNat with
  | some (c, b, _, d, _) =>
    ofKernel s k c (destUnit d)
      && ((s.faults.any fun f => f.holder == k.cx && !f.settled && (!f.delivered || (f.answer.isSome && f.info.ocx == k.cx)))
        || (s.bay c b).pools.any fun p => p.2.waiters.any fun w => match w.party with | .fault x _ => x == k.cx | _ => false)
  | none => false

/-- No live cast, no parked node, no token in flight and no pending injection of a kernel (R32): tokens that streams,
crucibles, Ridge writes, Plate work and fills are still to send count, those that a freeze scanned out of the links, and the
fault tokens for its handler. -/
def kernelQuiet (s : State) (k : Kernel) : Bool :=
  !k.pending && !(faultBusy s k)
    && s.bays.all (fun y => y.2.frames.all (fun f => !(frameBusy s k (y.1 / 256) f.2))
      && y.2.streams.all (fun x => !(firOf s k x.2.pend.fir)) && y.2.fences.all fun f => !(f.2.1.any (tokOf s k)))
    && s.elements.all (fun e => e.2.input.all fun t => !(tokOf s k t))
    && s.saved.all (fun x => x.cx != k.cx || !(ofKernel s k x.course.toNat x.el) || (x.ready.isEmpty && x.pending.isEmpty && x.late.isEmpty))
    && s.elements.all (fun e => (e.2.ready ++ e.2.pending ++ e.2.late).all fun r => r.cx != k.cx || !(ofKernel s k (e.1 / 8192) (e.1 % 8192)))
    && s.crucibles.all (fun e => e.2.ops.all fun o => !(firOf s k o.pend.fir))
    && s.transit.all (fun t => !(tokOf s k t)) && s.eaveOut.all (fun t => !(tokOf s k t))
    && s.courses.all (fun c => c.2.port.all (fun w => !(w.toks.any (tokOf s k))) && c.2.ctl.all (fun w => !(w.toks.any (tokOf s k)))
      && c.2.frozen.all (fun t => !(tokOf s k t))
      && (match c.2.fill with | some f => !(firOf s k f.pend.fir) | none => true)
      && c.2.fillNext.all (fun f => !(firOf s k f.pend.fir)) && c.2.refill.all fun f => !(firOf s k f.pend.fir))
    && s.plateWork.all fun w => !(firOf s k w.pend.fir)

/-- The launch frame of a kernel is freed, where it is still allocated. One that is being copied is marked, and goes when the copy
ends (R63, R360). -/
def freeLaunch (s : State) (k : Kernel) : State :=
  match k.frame with
  | some ft => freeFrame s k.course.toNat k.bay.toNat ft.toNat
  | none => s

/-- The launch frame of a kernel is still allocated. -/
def holdsFrame (s : State) (k : Kernel) : Bool := s.kernels.any fun x => sameKernel x k && x.frame.isSome

/-- KERNEL_END (R356, R360): a running kernel whose conditions hold has its launch frame freed, and ends NORMAL after that release. -/
def execKernelEnd (e : EvArgs) (s : State) : Host.Outcome State Fault Refusal :=
  let cx := e.cx.toNat
  .next (match s.kernels.find? fun k => k.cx.toNat == cx && k.state == .running && kernelQuiet s k && (!k.heap || k.endToken) with
    | none => s
    | some k =>
      let s := freeLaunch s k
      if holdsFrame s k then s else headsWait (endKernel s k .normal 0 0) cx)

end Sys2Proof.Machine
end

