-- ==== Sys2Proof/Machine/System.lean ====
section
/-! DEFINITION. Sys2Proof/Machine/System.lean: the system instructions (R278 to R298): Plate requests, special registers,
traps, repair, host signals and configuration. -/

namespace Sys2Proof.Machine

/-! ### Plate requests at issue (R279) -/

/-- A Plate request acts: its issue check, then it is held for the commit; `now` also emits A at issue. The operands are
kept as the node resolved them. -/
def plateNode (op : Nat) (r : NodeRec) (s : State) (now : Bool) (check : Args → Option (Nat × Nat)) : State :=
  let g := s.firing
  let a := argsCtl s r g
  actNode s r a fun s =>
    match (if a.p then none else check a) with
    | some (kind, code) => fault s g kind code
    | none =>
      let p := pendOf op r { g with a := some a.a, b := some a.b, c := some a.c }
      let s := s.modOwn g fun k => { k with plate := k.plate ++ [p] }
      if now then emitWord s r g a.a.word a.p else s

/-- A context word with a reserved bit set is malformed (R280). -/
def ctxCheck (a : Args) : Option (Nat × Nat) := if a.a.word / 2 ^ 16 = 0 then none else some (kPROT, 19)

/-- A context word and an entry count of 1 to 1,024 (R278, R298). -/
def listCheck (a : Args) : Option (Nat × Nat) :=
  if a.c.word = 0 ∨ 1024 < a.c.word then some (kPROT, 19) else ctxCheck a

/-- CTX.NEW (R284). -/
def execCtxNew (r : NodeRec) (s : State) : Host.Outcome State Fault Refusal := .next (plateNode 0xE0 r s false fun _ => none)
/-- CTX.GRANT (R285). -/
def execCtxGrant (r : NodeRec) (s : State) : Host.Outcome State Fault Refusal := .next (plateNode 0xE1 r s false listCheck)
/-- CTX.REVOKE (R285). -/
def execCtxRevoke (r : NodeRec) (s : State) : Host.Outcome State Fault Refusal := .next (plateNode 0xE2 r s false listCheck)
/-- CTX.RUN (R286). -/
def execCtxRun (r : NodeRec) (s : State) : Host.Outcome State Fault Refusal := .next (plateNode 0xE3 r s false ctxCheck)
/-- CTX.STOP (R286). -/
def execCtxStop (r : NodeRec) (s : State) : Host.Outcome State Fault Refusal := .next (plateNode 0xE4 r s false ctxCheck)
/-- CTX.DEL (R287). -/
def execCtxDel (r : NodeRec) (s : State) : Host.Outcome State Fault Refusal := .next (plateNode 0xE5 r s false ctxCheck)
/-- CTX.RST (R287). -/
def execCtxRst (r : NodeRec) (s : State) : Host.Outcome State Fault Refusal := .next (plateNode 0xE6 r s false ctxCheck)
/-- CFG.LOAD: a plane word with a reserved bit set is malformed (R294). -/
def execCfgLoad (r : NodeRec) (s : State) : Host.Outcome State Fault Refusal :=
  .next (plateNode 0xEC r s false fun a => if a.b.word / 2 ^ 20 = 0 then none else some (kPROT, 19))
/-- CFG.FLIP: A at issue (R295). -/
def execCfgFlip (r : NodeRec) (s : State) : Host.Outcome State Fault Refusal := .next (plateNode 0xED r s true fun _ => none)
/-- LAUNCH (R296). -/
def execLaunch (r : NodeRec) (s : State) : Host.Outcome State Fault Refusal := .next (plateNode 0xEE r s false fun _ => none)
/-- PERMIT: A at issue; B[63:5] must be 0, and the ceiling lies in 0 to 24 (R278, R297). -/
def execPermit (r : NodeRec) (s : State) : Host.Outcome State Fault Refusal :=
  .next (plateNode 0xEF r s true fun a => if a.b.word / 2 ^ 5 = 0 ∧ a.b.word ≤ 24 then none else some (kPROT, 19))

/-! ### Descriptors in memory -/

/-- Bytes of an issuer's virtual space as a Plate request reads them: the fault, or the bytes. -/
def plateBytes (s : State) (cx x n al : Nat) : Except (Nat × Nat × Nat) (List Byte) :=
  if addrKind x != .virt then .error (kPROT, 0, cx)
  else if x % al ≠ 0 then .error (kPROT, 19, cx)
  else
    match s.region cx x n 1 clsLoad false false with
    | .ok as _ cls => if as.any s.unreachable then .error (kPAGE, 8, cx) else .ok (s.readRegion 0 cx as cls)
    | .bad k c o _ => .error (k, c, o)
    | .held | .pull _ => .error (kPROT, 0, cx)

/-- Bytes as 64-bit words; `n` words. -/
def wordsOf : Nat → List Byte → List Nat
  | 0, _ => []
  | n + 1, bs => leNat (bs.take 8) :: wordsOf n (bs.drop 8)

/-- `n` holding entries at an address. -/
def plateEntries (s : State) (cx x n : Nat) : Except (Nat × Nat × Nat) (List Holding) :=
  if n = 0 then .ok []
  else
    match plateBytes s cx x (16 * n) 16 with
    | .error e => .error e
    | .ok bs => .ok ((List.range n).map fun i =>
        holdingOf (leNat ((bs.drop (16 * i)).take 8)) (leNat ((bs.drop (16 * i + 8)).take 8)))

/-! ### Answers of the Plate -/

/-- What the Plate answers before step 1 of a commit (R279). -/
inductive PlateAns where
  | refuse (kind code owner : Nat)
  /-- accepted: the state after it, and the word of a result that is released with the commit -/
  | done (s : State) (out : Option Nat)
  /-- the whole commit waits: for a fill of the course (R295 step 1), for a page of the request's data that is pulled (R432),
  for the strand's Ridge writes -/
  | waits (s : State)

/-- The child that a context word names (R280). -/
def childOf (s : State) (cx w : Nat) : Option Nat :=
  let ch := w % 4096
  match s.ctx? ch with
  | some x => if ch ≠ 0 ∧ x.parent.toNat = cx ∧ x.depth.toNat = w / 2 ^ 12 % 8 then some ch else none
  | none => none

/-- Plate work whose result, or whose flip, follows later; `due` is the tick by which a revocation's steps are done. -/
def addWork (s : State) (p : Pend) (ch : Nat) (es : List Holding) (due : Nat) : State :=
  { s with plateWork := s.plateWork ++
      [{ pend := p, toks := laterToks s p.r p.fir true true, child := BitVec.ofNat 12 ch, entries := es, ready := false,
         noticeDue := false, due := due }] }

/-- Bytes of the images that a revocation writes on a course (R419). -/
def revokedBytes (s : State) (ch c : Nat) (es : List Holding) : Nat :=
  (((revokedBays es).filter fun e => e.1 == c).map fun e => ((s.subtree ch).map fun x =>
    ((revokedAllocs s c e.2 x es).map fun a => 16 * ((spillSize (s.bay c e.2) a.1 a.2).1 + 1)).sum).sum).sum

/-- The tick by which steps 2 to 9 of a revocation are done: 10 µs, and 125 ns for each KiB of images that the busiest course
writes (R419). -/
def revokeDue (s : State) (ch : Nat) (es : List Holding) : Nat :=
  s.tick.toNat + 10000 + ((List.range 16).foldl (fun m c => max m (revokedBytes s ch c es)) 0 * 125 + 1023) / 1024

/-- CTX.NEW at the context engine (R284). -/
def answerNew (s : State) (p : Pend) : PlateAns :=
  let cx := p.fir.cx.toNat
  let x := (p.fir.a.getD (plain 0)).word
  if (s.ctx cx).depth = 7 then .refuse kHOLDING 3 cx
  else
    match plateBytes s cx x 64 64 with
    | .error (k, c, o) => .refuse k c o
    | .ok bs =>
      let ws := wordsOf 8 bs
      match creationOf ws with
      | none => .refuse kPROT 19 cx
      | some f =>
        match plateEntries s cx (x + 64) f.2.2.1 with
        | .error (k, c, o) => .refuse k c o
        | .ok es =>
          match createChild s cx ws es with
          | .error (k, c) => .refuse k c cx
          | .ok (ch, s) => .done s (some (ctxWord s ch))

/-- The target stack of a migration entry (R431). -/
def migTarget (es : List Holding) : Option Nat :=
  (es.find? fun h => h.kind == 10#4 && h.p1.toNat / 2 ^ 63 == 1).map fun h => h.p0.toNat

/-- A holding of a stack. -/
def stackHolding (t : Nat) : Holding := { kind := 10#4, course := 0, p0 := BitVec.ofNat 56 t, p1 := 1#64 }

/-- A migration is accepted: the subtree holds the target stack, and runs no further on this one unless it is the target. Its
freeze and its capture follow. -/
def leaveFor (s : State) (ch t : Nat) : State :=
  let xs := s.subtree ch
  let s := xs.foldl (fun s x => modHolds s x fun hs => hs.filter (fun g => g.kind != 10#4) ++ [stackHolding t]) s
  if t = s.sideband.stackNo.toNat then s
  else { s with migrated := s.migrated.filter (fun m => !(xs.contains m.1.toNat)) ++ xs.map fun x => (BitVec.ofNat 12 x, t) }

/-- CTX.GRANT (R285, R431): a migration's result follows its capture. -/
def answerGrant (s : State) (p : Pend) (ch : Nat) : PlateAns :=
  let g := p.fir
  let cx := g.cx.toNat
  match plateEntries s cx (g.b.getD (plain 0)).word (g.c.getD (plain 0)).word with
  | .error (k, c, o) => .refuse k c o
  | .ok es =>
    if es.any Holding.bad then .refuse kPROT 19 cx
    else
      match migTarget es with
      | some t =>
        if (s.ctx ch).runnable || !(s.holdsStack cx t) then .refuse kHOLDING 7 cx
        else
          match giveList s cx ch (es.filter fun h => !(h.kind == 10#4 && h.p1.toNat / 2 ^ 63 == 1)) with
          | .error (k, c) => .refuse k c cx
          | .ok s => .done (addWork (leaveFor s ch t) p ch [stackHolding t] 0) none
      | none =>
        match giveList s cx ch es with
        | .error (k, c) => .refuse k c cx
        | .ok s => .done s (some (g.a.getD (plain 0)).word)

/-- CTX.REVOKE: accepted; its steps and its result follow (R285, R418). -/
def answerRevoke (s : State) (p : Pend) (ch : Nat) : PlateAns :=
  let g := p.fir
  let cx := g.cx.toNat
  match plateEntries s cx (g.b.getD (plain 0)).word (g.c.getD (plain 0)).word with
  | .error (k, c, o) => .refuse k c o
  | .ok es =>
    match acceptRevoke s cx ch es with
    | .error (k, c) => .refuse k c cx
    | .ok s => .done (addWork s p ch es (revokeDue s ch es)) none

/-- LAUNCH (R296): in the issuing context or a descendant. -/
def answerLaunch (s : State) (p : Pend) : PlateAns :=
  let cx := p.fir.cx.toNat
  let x := (p.fir.a.getD (plain 0)).word
  match plateBytes s cx x 64 64 with
  | .error (k, c, o) => .refuse k c o
  | .ok bs =>
    let ws := wordsOf 8 bs
    if launchReserved ws then .refuse kPROT 19 cx
    else
      let n := launchArgc ws
      match (if n = 0 then .ok [] else plateBytes s cx (x + 64) (8 * n) 8) with
      | .error (k, c, o) => .refuse k c o
      | .ok as =>
        let t := ws.getD 0 0 / 2 ^ 48 % 4096
        if (s.ctx? t).isNone || !(s.inSubtree cx t) then .refuse kHOLDING 2 cx
        else
          match queueLaunch s ws (wordsOf n as) false with
          | .error (k, c) => .refuse k c cx
          | .ok (w, s) => .done s (some w)

/-- A fill begins on a course: its shadow banks hold no complete configuration until it ends (R294). One of a context that
holds no slice there begins at its next slice. -/
def beginFill (s : State) (c : Nat) (f : Fill) : State :=
  let here := ((s.crs c).holder.map fun h => h == f.cx).getD false
  s.modCrs c fun y =>
    if !here then { y with refill := y.refill ++ [f] }
    else if y.fill.isSome then { y with fillNext := y.fillNext ++ [f] }
    else { y with fill := some f, shadow := .none, former := false }

/-- A CFG.FLIP of a context on a course has been accepted and is still to exchange the banks: a fill that begins before it has would
take its configuration away (notes/assumptions/68.md, DEDUCED). -/
def flipping (s : State) (cx c : Nat) : Bool :=
  s.plateWork.any fun w => w.pend.op == 0xED && w.pend.fir.cx.toNat == cx && w.pend.fir.course.toNat == c

/-- CFG.LOAD at the configuration port (R294). -/
def answerLoad (s : State) (p : Pend) : PlateAns :=
  let g := p.fir
  let cx := g.cx.toNat
  let w := (g.b.getD (plain 0)).word
  let c := w / 2 ^ 16 % 16
  let held := match lkp s.planes (w % 2 ^ 16) with | some pl => holdsUnits s cx c pl | none => true
  if !held then .refuse kHOLDING 2 cx
  else if flipping s cx c then .waits s
  else
    .done (beginFill s c { cx := g.cx, plane := BitVec.ofNat 16 w, pend := p, toks := laterToks s p.r g true true,
                           str := s.strandOf g, ready := false, held := false }) none

/-- The shadow banks of a course hold a complete configuration of a context. -/
def shadowOf (s : State) (cx c : Nat) : Option (BitVec 16 × Plane) :=
  match (s.crs c).shadow with
  | .complete x p i => if x.toNat = cx then some (p, i) else none
  | .none => none

/-- A fill of a context is in progress, or waits, on a course. -/
def filling (s : State) (cx c : Nat) : Bool :=
  let y := s.crs c
  (match y.fill with | some f => f.cx.toNat == cx && !f.held | none => false) || y.fillNext.any (fun f => f.cx.toNat == cx)
    || y.refill.any fun f => f.cx.toNat == cx && !f.held

/-- A context has a complete configuration on a course: in the shadow banks, or, swept off, with what it will find there again. -/
def configured (s : State) (cx c : Nat) : Bool := (shadowOf s cx c).isSome || (s.crs c).kept.any fun k => k.1.toNat == cx

/-- CFG.FLIP (R295 step 1). -/
def answerFlip (s : State) (p : Pend) : PlateAns :=
  let g := p.fir
  if filling s g.cx.toNat g.course.toNat then .waits s
  else if !(configured s g.cx.toNat g.course.toNat) then .refuse kCFGFETCH 3 g.cx.toNat
  else .done (addWork s p 0 [] 0) none

/-- The free share bounds a ceiling (R283, R297). -/
def answerPermit (s : State) (p : Pend) : PlateAns :=
  let g := p.fir
  let c := g.course.toNat
  let n := min ((g.b.getD (plain 0)).word % 32) (s.freeShare g.cx.toNat c 5)
  .done (s.modCtx g.cx.toNat fun x => { x with pceil := put x.pceil c (BitVec.ofNat 5 n) }) none

/-- The first page of a request's data that must be pulled, or whose home must wake, before the Plate can read it (R432,
R453). -/
def platePull (s : State) (p : Pend) : Option Nat :=
  let cx := p.fir.cx.toNat
  let a := (p.fir.a.getD (plain 0)).word
  let page := fun (x n : Nat) => match s.region cx x n 1 clsLoad false false with | .pull va => some va | _ => none
  let words := match plateBytes s cx a 64 64 with | .ok bs => wordsOf 8 bs | .error _ => []
  match p.op with
  | 0xE0 => (page a 64).or ((creationOf words).bind fun f => page (a + 64) (16 * f.2.2.1))
  | 0xE1 | 0xE2 => page (p.fir.b.getD (plain 0)).word (16 * (p.fir.c.getD (plain 0)).word)
  | 0xEE => (page a 64).or (page (a + 64) (8 * launchArgc words))
  | _ => none

/-- The answer to the Plate request of a commit (R279); one with a poisoned operand is not sent. -/
def answerPlate (s : State) (p : Pend) : PlateAns :=
  let g := p.fir
  if let some va := platePull s p then .waits (needPage s g.course.toNat g.cx.toNat va g) else
  let cx := g.cx.toNat
  let child := fun (act : Nat → PlateAns) =>
    match childOf s cx (g.a.getD (plain 0)).word with
    | some ch => act ch
    | none => .refuse kHOLDING 5 cx
  let word := (g.a.getD (plain 0)).word
  match p.op with
  | 0xE0 => answerNew s p
  | 0xE1 => child (answerGrant s p)
  | 0xE2 => child (answerRevoke s p)
  | 0xE3 => child fun ch => .done (s.modCtx ch fun x => { x with runnable := true }) (some word)
  | 0xE4 => child fun ch =>
    if (s.ctx ch).runnable then .done (addWork (s.modCtx ch fun x => { x with runnable := false }) p ch [] 0) none
    else .done s (some word)
  | 0xE5 => child fun ch => .done (deleteCtx s ch) (some word)
  | 0xE6 => child fun ch => .done (resetCtx s ch) (some word)
  | 0xEC => answerLoad s p
  | 0xED => answerFlip s p
  | 0xEE => answerLaunch s p
  | _ => answerPermit s p

/-- The result of a poisoned Plate request (R279): the operand that its result would be, else a value left open. -/
def plateOpen (p : Pend) : Nat :=
  match p.op with
  | 0xE0 | 0xEE => (Config.poisonWord p.fir.key).toNat
  | 0xEC => (p.fir.b.getD (plain 0)).word
  | _ => (p.fir.a.getD (plain 0)).word

/-- The request of a commit, with the tokens of a result to be released with it: their word and mark. -/
def sendPlate (s : State) (p : Pend) : PlateAns × List Transit × Bool :=
  let late := p.op != 0xED && p.op != 0xEF
  let toks := if late then laterToks s p.r p.fir true true else []
  if firingP p.fir then
    (.done (poisonRec s p.fir 1) (some (plateOpen p)), toks, true)
  else (answerPlate s p, toks, false)

/-! ### Special registers (R288 to R290) -/

/-- Word i of a fault record (R384). -/
def frecWord (x : FaultRec) (i : Nat) : Nat :=
  match i with
  | 0 => x.kind.toNat * 2 ^ 59 + x.site.toNat * 2 ^ 56 + x.soft.toNat * 2 ^ 55 + x.hops.toNat * 2 ^ 52 + x.ocx.toNat * 2 ^ 40 + x.aux.toNat
  | 1 => x.course.toNat * 2 ^ 60 + x.bay.toNat % 16 * 2 ^ 56 + x.bay.toNat / 16 * 2 ^ 52 + x.unit.toNat * 2 ^ 39 + x.node.toNat * 2 ^ 33
      + x.port.toNat * 2 ^ 31 + x.stack.toNat * 2 ^ 21
  | 2 => x.ft.toNat * 2 ^ 52 + x.it.toNat * 2 ^ 36 + x.wave.toNat * 2 ^ 29 + x.str.toNat * 2 ^ 18 + x.strv.toNat * 2 ^ 17
  | 3 => x.addr.toNat
  | 4 => x.pos.toNat * 2 ^ 32 + x.snode.toNat * 2 ^ 26
  | 5 => x.data0.toNat
  | 6 => x.data1.toNat
  | _ => x.seq.toNat * 2 ^ 32 + x.verdict.toNat * 2 ^ 29 + x.lost.toNat

/-- The fault word of a record (R385). -/
def faultWord (x : FaultRec) : Nat :=
  x.kind.toNat * 2 ^ 59 + x.site.toNat * 2 ^ 56 + x.soft.toNat * 2 ^ 55 + x.ocx.toNat * 2 ^ 43 + x.seq.toNat

/-- The record that a firing reads: its fault frame's, else the latest delivered (R384). -/
def frecOf (s : State) (g : Firing) (cx : Nat) : FaultRec :=
  let own := if g.cx.toNat = cx then (s.frame? g.course.toNat g.bay g.ft.toNat).bind Frame.faultSeq else none
  match own.bind fun q => s.faults.find? fun f => f.holder.toNat == cx && f.entered && f.info.seq == q with
  | some f => f.info
  | none => (s.ctx cx).frec

/-- A register's rights: self reads, self writes, ancestor reads, ancestor writes; none for a number that R290 does not
list. -/
def csrRights (n : Nat) : Option (Bool × Bool × Bool × Bool) :=
  if n = 0x003 then some (true, false, false, false)
  else if n = 0x008 then some (true, true, true, true)
  else if n = 0x00A then some (true, true, false, true)
  else if n = 0x00B then some (true, false, true, true)
  else if n = 0x009 ∨ n = 0x00C ∨ (0x020 ≤ n ∧ n ≤ 0x024) then some (true, true, true, false)
  else if n ≤ 0x002 ∨ (0x010 ≤ n ∧ n ≤ 0x015) ∨ n = 0x018 ∨ (0x030 ≤ n ∧ n ≤ 0x037) then some (true, false, true, false)
  else if 0x100 ≤ n ∧ n ≤ 0x10F then some (true, true, false, false)
  else none

/-- The floor of a context's quantum, in ns: 2 × its save time + 20 µs (R424). -/
def Ctx.floor (x : Ctx) : Nat := 2 * x.saveTime + 20000

/-- A register of a context as a firing reads it (R290), with the flags of a conversion. -/
def csrRead (s : State) (g : Firing) (cx n : Nat) : Nat × Flags :=
  let x := s.ctx cx
  let c := g.course.toNat
  if 0x100 ≤ n then ((s.kReg c g.unit.toNat (n % 16)).toNat, 0)
  else if 0x030 ≤ n then (frecWord (frecOf s g cx) (n % 8), 0)
  else
    match n with
    | 0x000 => (ctxWord s cx, 0)
    | 0x001 => (x.depth.toNat, 0)
    | 0x002 => (if x.depth = 0 then 0 else ctxWord s x.parent.toNat, 0)
    | 0x003 => (((s.kernelAt cx c g.unit.toNat).map fun k => kernelWord cx k.serial.toNat).getD 0, 0)
    | 0x008 => (x.faultPol.toNat, 0)
    | 0x009 => (x.handler.toNat, 0)
    | 0x00A => (x.seed.toNat, 0)
    | 0x00B => (x.sbc.toNat, 0)
    | 0x00C => (x.nflag.toNat, 0)
    | 0x010 => (x.timeG.toNat, 0)
    | 0x011 => (x.timeS.toNat, 0)
    | 0x012 => (x.energy.toNat, 0)
    | 0x013 => ((s.crs c).step, 0)
    | 0x014 => ((decide (0 < x.quantum.toNat ∧ x.quantum.toNat < x.floor)).toNat + x.runnable.toNat * 2 + x.revoking.toNat * 4, 0)
    | 0x015 => (((lkp x.pceil c).map BitVec.toNat).getD (s.freeShare cx c 5), 0)
    | 0x018 => (s.tick.toNat, 0)
    | 0x020 => let (v, f) := satInt 3 (residInt x); (natMod v 64, f)
    | 0x021 => (x.tol.toNat, 0)
    | 0x022 => (x.thresh.toNat, 0)
    | 0x023 => (x.taskBase.toNat, 0)
    | _ => (x.taskN.toNat, 0)

/-- A value lies outside a register's limits (R290, R381, R387). Reserved bits of NFLAG count among them
(notes/assumptions/130.md, DESIGN CHOICE). -/
def csrBad (s : State) (cx n v : Nat) : Bool :=
  match n with
  | 0x008 => !(faultPolOk v)
  | 0x009 =>
    v / 2 ^ 26 % 2 ^ 7 != 0 || v / 2 ^ 53 != 0 || decide (0x1000 ≤ v / 2 ^ 8 % 2 ^ 13) || !(isGutter (elBay (v / 2 ^ 8 % 2 ^ 13)))
  | 0x00B => decide (16 < v)
  | 0x00C => v / 2 ^ 7 != 0
  | 0x020 => (s.heapKernel cx).isSome
  | 0x022 => v / 2 ^ 32 != 0
  | 0x023 => v % 16 != 0
  | 0x024 => v / 2 ^ 32 != 0
  | _ => false

/-- A register takes a value (R288, R290). -/
def csrWrite (s : State) (g : Firing) (cx n v : Nat) : State :=
  let c := g.course.toNat
  let el := g.unit.toNat
  let w : Word := BitVec.ofNat 64 v
  if 0x100 ≤ n then
    if (s.savedAt g.cx.toNat c el).isSome then
      { s with saved := s.saved.map fun x =>
        if x.cx = g.cx ∧ x.course.toNat = c ∧ x.el = el then { x with k := put x.k (n % 16) w } else x }
    else s.modElem c el fun x => { x with k := put x.k (n % 16) w }
  else
    s.modCtx cx fun x =>
      match n with
      | 0x008 => { x with faultPol := w }
      | 0x009 => { x with handler := w }
      | 0x00A => { x with seed := w }
      | 0x00B => { x with sbc := BitVec.ofNat 5 v }
      | 0x00C => { x with nflag := BitVec.ofNat 7 v }
      | 0x020 => { x with resid := BitVec.ofNat 96 (natMod (signedVal 64 v) 96) }
      | 0x021 => { x with tol := w }
      | 0x022 => { x with thresh := BitVec.ofNat 32 v }
      | 0x023 => { x with taskBase := w }
      | 0x024 => { x with taskN := BitVec.ofNat 32 v }
      | _ => x

/-- The context that a target word names, or its fault (R280, R288): the context, and whether it is the issuer's own. -/
def csrTarget (s : State) (cx w : Nat) : Except (Nat × Nat) (Nat × Bool) :=
  if w / 2 ^ 16 ≠ 0 then .error (kPROT, 19)
  else if w / 2 ^ 15 % 2 = 0 then .ok (cx, true)
  else
    let t := w % 4096
    match s.ctx? t with
    | some x => if t ≠ cx ∧ s.inSubtree cx t = true ∧ x.depth.toNat = w / 2 ^ 12 % 8 then .ok (t, false) else .error (kHOLDING, 5)
    | none => .error (kHOLDING, 5)

/-- CSR.RD (R288): at issue. -/
def execCsrRd (r : NodeRec) (s : State) : Host.Outcome State Fault Refusal :=
  let g := s.firing
  let a := argsOf r.ar.toNat g 0
  let n := bitsAt r.lit 0 12
  .next (actNode s r a fun s =>
    if a.p then emitWord s r g (Config.poisonWord g.key).toNat true
    else
      match csrTarget s g.cx.toNat a.a.word with
      | .error (k, c) => fault s g k c
      | .ok (t, own) =>
        match csrRights n with
        | none => fault s g kPROT 18
        | some (sr, _, ar, _) =>
          if (if own then sr else ar) then
            let (v, f) := csrRead s g t n
            emitWord (addFlags s g f) r g v false
          else fault s g kPROT 18)

/-- The literal operand B of CSR.WR under AR 010 (R289). -/
def csrLit (s : State) (g : Firing) (r : NodeRec) : Nat :=
  if bitAt r.lit 31 then (s.kReg g.course.toNat g.unit.toNat (bitsAt r.lit 12 4)).toNat else bitsAt r.lit 12 19

/-- CSR.WR (R288, R289): B at issue, the register at commit. -/
def execCsrWr (r : NodeRec) (s : State) : Host.Outcome State Fault Refusal :=
  let g := s.firing
  let a := argsOf r.ar.toNat g (BitVec.ofNat 512 (csrLit s g r))
  let n := bitsAt r.lit 0 12
  .next (actNode s r a fun s =>
    if a.p then emitWord (holdArgs s 0xE8 r a) r g a.b.word true
    else
      match csrTarget s g.cx.toNat a.a.word with
      | .error (k, c) => fault s g k c
      | .ok (t, own) =>
        match csrRights n with
        | none => fault s g kPROT 18
        | some (_, sw, _, aw) =>
          if (if own then sw else aw) && !(csrBad s t n a.b.word) then emitWord (holdArgs s 0xE8 r a) r g a.b.word false
          else fault s g kPROT 18)

/-- The effect of CSR.WR at commit (R288). -/
def commitCsr (s : State) (p : Pend) : State :=
  let g := p.fir
  if firingP g then poisonRec s g 8
  else
    match csrTarget s g.cx.toNat (g.a.getD (plain 0)).word with
    | .ok (t, _) => csrWrite s g t (bitsAt p.r.lit 0 12) (g.b.getD (plain 0)).word
    | .error _ => s

/-! ### TRAP, REPAIR and HOST.SIG -/

/-- TRAP (R291): hard at issue, or A at issue and a record at commit. -/
def execTrap (r : NodeRec) (s : State) : Host.Outcome State Fault Refusal :=
  let g := s.firing
  let a := argsOf 0 g 0
  .next (actNode s r a fun s =>
    if bitAt r.lit 16 then emitWord (holdEffect s 0xE9 r) r g a.a.word a.p
    else hardFault s g kTRAP (bitsAt r.lit 0 16) g.cx.toNat fun x => { x with data0 := BitVec.ofNat 64 a.a.word })

/-- The record of a soft TRAP, at commit (R291, R386). -/
def commitTrap (s : State) (p : Pend) : State :=
  softAt s p.fir kTRAP (bitsAt p.r.lit 0 16) fun x => { x with data0 := BitVec.ofNat 64 (p.fir.a.getD (plain 0)).word }

/-- A request that the commit sends after its writes. -/
def holdAfter (s : State) (op : Nat) (r : NodeRec) (toks : List Transit) : State :=
  let g := s.firing
  s.modOwn g fun k => { k with after := k.after ++ [{ pend := pendOf op r g, link := s.ownLink g, toks := toks }] }

/-- REPAIR (R292): A at issue, the verdict at commit. -/
def execRepair (r : NodeRec) (s : State) : Host.Outcome State Fault Refusal :=
  let g := s.firing
  let a := argsOf 0 g 0
  .next (actNode s r a fun s => emitWord (holdAfter s 0xEA r []) r g a.a.word a.p)

/-- A context holds a host endpoint (R282, R293). -/
def State.holdsEndpoint (s : State) (cx ep : Nat) : Bool :=
  if cx = 0 then s.rootHolds { kind := 8#4, course := 0, p0 := 0, p1 := BitVec.ofNat 64 (2 ^ ep) }
  else maskOf 8 0 (s.ctx cx).holds / 2 ^ ep % 2 == 1

/-- HOST.SIG (R293): the endpoint is checked at issue, the message queued at commit. -/
def execHostSig (r : NodeRec) (s : State) : Host.Outcome State Fault Refusal :=
  let g := s.firing
  .next (actNode s r (argsOf 0 g 0) fun s =>
    if s.holdsEndpoint g.cx.toNat (bitsAt r.lit 0 6) then holdAfter s 0xEB r (laterToks s r g true true) else fault s g kHOLDING 2)

/-- A HOST.SIG of a commit, after its writes (R293, R390, R442): pred 1 when it was queued. As a release at SYS it waits for
the Ridge writes of its strand (R322). -/
def commitSig (s : State) (q : AfterReq) : Option State :=
  let g := q.pend.fir
  let ep := bitsAt q.pend.r.lit 0 6
  let v := (g.a.getD (plain 0)).word
  if firingP g then some (sendLater (poisonRec s g 3) q.toks 0 true)
  else if strandUnapplied s g.course.toNat g.cx (s.strandOf g) then none
  else if !s.linkUp || decide (64 ≤ (s.sigs.filter fun m => m.ep == ep).length) then some (sendLater s q.toks 0 false)
  else
    some (sendLater { s with sigs := s.sigs ++ [{ cx := g.cx, ep := ep, val := BitVec.ofNat 64 v }] } q.toks 1 false)

/-- Verdicts that a fault's site, its policy and its strand allow (R380, R387, R388). VAR: RETRY 0, SKIP 1, KILL_STRAND 2,
KILL_CONTEXT 3, REFLECT 4. -/
def verdictOk (f : FaultEntry) (v : Nat) : Bool :=
  (match f.info.site.toNat with
    | 1 => decide (1 ≤ v)
    | 4 => v != 1
    | 6 => v == 1 || v == 3 || v == 4
    | _ => true)
    && decide (v ≤ 4) && (v != 2 || f.info.strv) && (f.info.verdict == 0 || v == 1)

/-- The unsettled fault of a context that a fault word names, when REPAIR may give a verdict (R292). -/
def repairTarget (s : State) (p : Pend) : Option FaultEntry :=
  let w := (p.fir.a.getD (plain 0)).word
  s.faults.find? fun f => f.holder == p.fir.cx && f.entered && !f.settled && f.answer.isNone && faultWord f.info == w
    && verdictOk f p.r.var.toNat

/-- A REPAIR's verdict is sent (R388): it waits for its site. -/
def commitRepair (s : State) (p : Pend) : State :=
  if firingP p.fir then poisonRec s p.fir 8
  else
    match repairTarget s p with
    | some f => { s with faults := s.faults.map fun x => if x == f then { x with answer := some (BitVec.ofNat 3 p.r.var.toNat) } else x }
    | none => s

end Sys2Proof.Machine
end

