-- ==== Sys2Proof/Machine/Casts.lean ====
section
/-! DEFINITION. Sys2Proof/Machine/Casts.lean: the arrival of tokens at elements (R21 to R23, R33, R68), the commit of a cast
(R26, R212, R226, R230, R279), its abort (R27), its stall bound (R29), and the waits of its memory records (R215, R233, R234,
R317). -/

namespace Sys2Proof.Machine

/-! ### Arrival -/

/-- The header word of a token (R12). -/
def headerWord (t : Token) : Nat :=
  t.pl.toNat * 2 ^ 63 + t.p.toNat * 2 ^ 62 + t.e.toNat * 2 ^ 61 + t.cx.toNat * 2 ^ 49 + t.ft.toNat * 2 ^ 37 + t.it.toNat * 2 ^ 21 + t.dest.toNat

/-- The record of a rejected token (R21, R384, R386). -/
def tokenRec (s : State) (t : Transit) (kind code : Nat) (str : Option (BitVec 11)) : FaultRec :=
  let u := destUnit t.tok.dest
  { FaultRec.zero with
    kind := BitVec.ofNat 5 kind
    site := BitVec.ofNat 3 sTOKEN
    ocx := t.tok.cx
    aux := BitVec.ofNat 16 code
    course := t.course
    bay := match unitKind u with | .elem el => BitVec.ofNat 8 (elBay el) | .gate b => BitVec.ofNat 8 b | _ => 0
    unit := BitVec.ofNat 13 u
    node := BitVec.ofNat 6 (destNode t.tok.dest)
    port := BitVec.ofNat 2 (destPort t.tok.dest)
    stack := s.sideband.stackNo
    ft := t.tok.ft
    it := t.tok.it
    str := str.getD 0
    strv := str.isSome
    pos := BitVec.ofNat 32 (t.sStack.toNat * 2 ^ 22 + t.sCourse.toNat * 2 ^ 18 + t.sUnit.toNat * 2 ^ 5)
    snode := t.sNode
    data0 := BitVec.ofNat 64 (headerWord t.tok)
    data1 := t.tok.val.extractLsb' 0 64 }

/-- A token that fails a check is held by a fault (R21); one of the receiving frame's own live cast aborts that cast. -/
def rejectToken (s : State) (t : Transit) (kind code : Nat) : State :=
  let el := destUnit t.tok.dest
  let c := t.course.toNat
  if t.internal then
    let g : Firing := { Firing.none with course := t.sCourse, unit := t.sUnit, node := t.sNode, cx := t.tok.cx, ft := t.tok.ft, it := t.tok.it }
    hardFault s g kind code t.tok.cx.toNat id
  else
    let f := match unitKind el with | .elem el => s.frame? c (elBay el) t.tok.ft.toNat | _ => none
    let own := match f with | some f => if f.cx == t.tok.cx then some f else none | none => none
    fileFault s t.tok.cx.toNat ((own.map fun f => f.faultSeq.isSome).getD false) (tokenRec s t kind code (own.map fun f => f.link.str)) (.token t)

/-- The checks of R21 on a token for an element: its frame, or the fault. -/
def arrivalCheck (s : State) (t : Transit) (el : Nat) : Except (Nat × Nat) Frame :=
  let c := t.course.toNat
  let b := elBay el
  let ft := t.tok.ft.toNat
  let cx := t.tok.cx.toNat
  let node := destNode t.tok.dest
  let port := destPort t.tok.dest
  if !((s.bay c b).parts.any fun e => e.2.cx == t.tok.cx && decide (e.2.ftl.toNat ≤ ft) && decide (ft ≤ e.2.fth.toNat)) then .error (kTAG, 0)
  else
    match s.frame? c b ft with
    | none => .error (kTAG, 1)
    | some f =>
      let w := s.record cx c el node
      let pb := s.portByte cx c el node port
      if f.it != t.tok.it then .error (kTAG, 2)
      else if recOp w = 0 then .error (kEMPTY, 0)
      else if (pb / 64 % 2 == 1) != t.tok.pl then .error (kTAG, 4)
      else if decide (pb / 128 = 1) && f.present (pb % 64) then .error (kTAG, 3)
      else if !((arPorts (bitsAt w 77 3)).contains port) then .error (kTAG, 12)
      else .ok f

/-- The operand that a token carries. -/
def Token.opnd (t : Token) : Opnd := { val := t.val, p := t.p, e := t.e }

/-- A node is complete in a frame when a token arrives at a port (R22). -/
def completeOn (s : State) (c el node port : Nat) (f : Frame) : Bool :=
  let w := s.record f.cx.toNat c el node
  recOp w == 0x07 || (arPorts (bitsAt w 77 3)).all fun p => p == port ||
    match s.portSlot f.cx.toNat c el node p with | some i => f.present i | none => false

/-- A token is written into its slot: PRES, INP for one from outside the live cast, and ARR while the frame is spilled
(R22, R68). -/
def writeSlot (s : State) (c b ft i : Nat) (t : Transit) : State :=
  let s := setSlot s c b ft i t.tok.opnd
  let s := match s.frame? c b ft with
    | some f => if f.sp then s.modPool c b f.pool.toNat fun p => { p with intoSpilled := p.intoSpilled + 1 } else s
    | none => s
  s.modFrame c b ft fun f =>
    { f with pres := f.pres ||| BitVec.ofNat 64 (2 ^ i), arrivals := i :: f.arrivals.filter (· != i), inp := if t.internal then f.inp else f.inp ||| BitVec.ofNat 64 (2 ^ i)
             arr := if f.sp then f.arr + 1 else f.arr }

/-- A token that passed R21 is matched (R22, R23, R25, R68): none when it has to wait at its element's input (R33). One for a
frame that a KILL_STRAND has freed in the middle of its copy goes without a trace (R388). A cast
that has aborted fires nothing until its verdict: a slotted token is kept for the re-firing, an unslotted one waits at the
bay. A token for a record that stands in no block, with no cast live, completes nothing and is dropped: the spec says
nothing of it (notes/assumptions/93.md, DESIGN CHOICE). -/
def matchToken (s : State) (t : Transit) (el : Nat) (f : Frame) : Option State :=
  let c := t.course.toNat
  let b := elBay el
  let ft := t.tok.ft.toNat
  let cx := f.cx.toNat
  let node := destNode t.tok.dest
  let port := destPort t.tok.dest
  let slot := s.portSlot cx c el node port
  let atBay := fun (s : State) => s.modFrame c b ft fun f => { f with atBay := f.atBay ++ [t] }
  let blk := s.blockOf cx c el node
  let merge := recOp (s.record cx c el node) == 0x07
  -- a token for another block than the live cast's counts as waiting from now on, wherever it waits
  let s := match f.cast, blk with
    | some k, some n =>
      if k.block == n || f.waiting.any (fun w => w.1 == n) then s
      else s.modFrame c b ft fun f => { f with waiting := f.waiting ++ [(n, s.cycles)] }
    | _, _ => s
  -- what the token comes after in its strand, the casts that it enters come after
  let s := if t.after.isEmpty then s else s.modFrame c b ft fun f => { f with after := (f.after ++ t.after).eraseDups }
  if f.killing then some s
  else if if f.sp then slot.isNone else f.mv then some (atBay s)
  else
    let done := completeOn s c el node port f
    let arr := if slot.isNone || merge then some (BitVec.ofNat 2 port, t.tok.opnd) else none
    let e := s.completion f.cx t.tok.ft f.it (BitVec.ofNat 6 node) arr t.tok.pl
    match f.cast with
    | some k =>
      if some k.block == blk then
        match slot with
        | some i =>
          let s := writeSlot s c b ft i t
          if done && !k.aborted then enqueueAt s c el e true else some s
        | none => if k.aborted then some (atBay s) else if done then enqueueAt s c el e false else some s
      else
        match slot with
        | some i => some (writeSlot s c b ft i t)
        | none => some (atBay s)
    | none =>
      match blk, slot with
      | none, _ => some s
      | some n, some i => some (beginCast (writeSlot s c b ft i t) c b ft n)
      | some n, none =>
        if done then enqueueAt (beginCast s c b ft n) c el e false else some (beginCast s c b ft n)

/-- A token that fails R21 is held by a fault, unless it is for a frame that a KILL_STRAND freed: its handler does not see that
one (R388). -/
def failToken (s : State) (t : Transit) (el kind code : Nat) : State :=
  if kind = kTAG ∧ code = 1 ∧ ((s.bay t.course.toNat (elBay el)).killed.contains t.tok.ft.toNat) = true then s
  else rejectToken s t kind code

/-- A token reaches its element: checked, then matched, held by a fault, or kept at the input. -/
def arriveElem (s : State) (t : Transit) (el : Nat) : State :=
  match arrivalCheck s t el with
  | .error (kind, code) => failToken s t el kind code
  | .ok f =>
    match matchToken s t el f with
    | some s' => s'
    | none => s.modElem t.course.toNat el fun x => { x with input := x.input ++ [t] }

/-- Two tokens travel from one element to one destination element on one plane (R39). -/
def samePair (t u : Transit) : Bool :=
  t.sStack == u.sStack && t.sCourse == u.sCourse && t.sUnit == u.sUnit && t.stack == u.stack && t.course == u.course
    && destUnit t.tok.dest == destUnit u.tok.dest && t.tok.pl == u.tok.pl

/-- The token of an arrival: the first in flight of the pair that the k-th one belongs to. -/
def pickTransit (s : State) (k : Nat) : Option Transit :=
  s.transit[k]?.bind fun t => s.transit.find? (samePair t)

/-- A course takes tokens: it is awake and works. -/
def courseUp (s : State) (c : Nat) : Bool := (s.crs c).power == .awake && !(s.crs c).failed

/-- An element takes no arrival of a token's plane now: one waits at its input, a completion of that plane waits, or one
came in this cycle already (R33). -/
def inputBusy (s : State) (t : Transit) (el : Nat) : Bool :=
  let x := s.elem t.course.toNat el
  (x.input.any fun u => u.tok.pl == t.tok.pl) || (x.late.any fun e => e.pl == t.tok.pl)
    || (if t.tok.pl then x.lastDat else x.lastCtl) == s.cycles + 1

/-- The arrival of a token is noted for its plane and cycle (R33). -/
def noteArrival (s : State) (t : Transit) (el : Nat) : State :=
  s.modElem t.course.toNat el fun x =>
    if t.tok.pl then { x with lastDat := s.cycles + 1 } else { x with lastCtl := s.cycles + 1 }

/-- TOKEN_ARRIVAL (R21): the k-th token in flight, or one sent before it between the same elements, once the access that it
answers is done (R319). A token for another stack leaves over the Eave links (R41). -/
def execTokenArrival (e : EvArgs) (s : State) : Host.Outcome State Fault Refusal :=
  .next (match pickTransit s e.k.toNat with
    | none => s
    | some t =>
      let out := { s with transit := s.transit.erase t }
      if s.cycles < t.due then s
      else if t.stack != s.sideband.stackNo then { out with eaveOut := s.eaveOut ++ [t] }
      else if !(courseUp s t.course.toNat) then s
      else
        match unitKind (destUnit t.tok.dest) with
        | .elem el => if inputBusy s t el then s else arriveElem (noteArrival out t el) t el
        | .none => rejectToken out t kEMPTY 0
        | _ => s)

/-- The pending completion that enters next: ascending FT and then node (R33). -/
def nextPending (l : List Ready) : Option Ready :=
  l.foldl (fun m e => match m with
    | none => some e
    | some x => if e.ft.toNat * 64 + e.node.toNat < x.ft.toNat * 64 + x.node.toNat then some e else some x) none

/-- Pending completions enter a ready queue while it has room, and those that wait enter the store, or the queue once the
store is empty (R33). -/
def refillReady : Nat → Element → Element
  | 0, x => x
  | fuel + 1, x =>
    if 64 ≤ x.ready.length then x
    else
      match nextPending x.pending, x.late with
      | some e, l => refillReady fuel { x with ready := x.ready ++ [e], pending := x.pending.erase e ++ l.take 1, late := l.drop 1 }
      | none, e :: l => refillReady fuel { x with ready := x.ready ++ [e], late := l }
      | none, [] => x

/-- Tokens that wait at an input complete their nodes, plane by plane, while there is room (R33). -/
def drainInput (c el : Nat) : Nat → State → State
  | 0, s => s
  | fuel + 1, s =>
    let x := s.elem c el
    let heads := [false, true].filterMap fun pl => x.input.find? fun t => t.tok.pl == pl
    match heads.findSome? fun t =>
        let s' := s.modElem c el fun y => { y with input := y.input.erase t }
        match arrivalCheck s' t el with
        | .error (kind, code) => some (failToken s' t el kind code)
        | .ok f => matchToken s' t el f with
    | some s' => drainInput c el fuel s'
    | none => s

/-- A place of a ready queue has come free. -/
def refillElem (s : State) (c el : Nat) : State :=
  let s := s.modElem c el fun x => refillReady 64 x
  drainInput c el ((s.elem c el).input.length + 1) s

/-! ### Checks before step 1 -/

/-- Place of a held write in step 1: ascending OWN; a SHADOW copy, which is no memory record, comes last (R215, R239). -/
def ownKey (p : Pend) : Nat := if p.op = 0xA9 then 128 else litOwn p.r

def insertBy {α : Type} (key : α → Nat) (x : α) : List α → List α
  | [] => [x]
  | y :: l => if key x < key y then x :: y :: l else y :: insertBy key x l

/-- A list in ascending key, equal keys in their order. -/
def sortBy {α : Type} (key : α → Nat) (l : List α) : List α := l.foldl (fun l x => insertBy key x l) []

/-- Ascending element address and then node (R26). -/
def nodeKey (g : Firing) : Nat := g.unit.toNat * 64 + g.node.toNat

/-- The address, size, alignment and classes of a held write; none when it accesses nothing that R212 checks. -/
def writeSpan (p : Pend) : Option (Nat × Nat × Nat × Nat) :=
  let g := p.fir
  let r := p.r
  let a := (g.a.getD (plain 0)).word
  if suppressed p then none
  else
    match p.op with
    | 0x91 | 0x93 | 0x95 | 0x98 =>
      match memAddr p.op r g (memWidth p.op r) with
      | .addr x => some (x, memWidth p.op r, memAlign p.op r, clsStore)
      | .oob _ => none
    | 0xA0 | 0xA1 =>
      match memAddr p.op r g (ctlBytes r) with
      | .addr x => some (x, ctlBytes r, ctlBytes r, clsStore)
      | .oob _ => none
    | 0xA3 | 0xA4 => some (structAddr r g, 8, 8, clsStruct)
    | 0xA5 => some (cmbAddr p, cmbBytes r, cmbBytes r, clsStore)
    | 0xA8 => some (addrPlus a (litOff r), 1, 1, clsShadow)
    | 0xA9 => some (a, 1, 1, clsShadow)
    | _ => none

/-- What the re-check of a cast's held writes gives. -/
inductive RecheckedAll where
  | ok (s : State)
  | waits (s : State)
  /-- the first that fails, with its fault and its address -/
  | bad (p : Pend) (kind code owner addr : Nat)

/-- The held writes checked again (R212), in wave order. -/
def recheckAll (s : State) : List Pend → RecheckedAll
  | [] => .ok s
  | p :: ps =>
    match writeSpan p with
    | none => recheckAll s ps
    | some (x, n, al, cls) =>
      match recheck s p.fir x n al cls with
      | .bad k c o => .bad p k (if cls = clsShadow then shadowCode k c else c) o x
      | .waits s => .waits s
      | .ok s => recheckAll s ps

/-- The first IST of a cast whose word is full or reserved, by this cast or another (R230). -/
def firstClash (s : State) : List Pend → Option Pend
  | [] => none
  | p :: ps =>
    match reserveWords s [p] with
    | none => some p
    | some s' => firstClash s' ps

/-- A REPAIR of the commit that is refused (R292). -/
def badRepair (s : State) (k : Cast) : Option Pend :=
  (k.after.find? fun q => q.pend.op == 0xEA && !(firingP q.pend.fir) && (repairTarget s q.pend).isNone).map AfterReq.pend

/-- A fault of a held record found at commit. -/
def commitFault (s : State) (p : Pend) (kind code owner addr : Nat) : State :=
  hardFault s p.fir kind code owner fun x =>
    { x with addr := BitVec.ofNat 64 addr, wave := if p.op < 0xE0 ∧ p.op ≠ 0xA9 then BitVec.ofNat 7 (litOwn p.r) else 0 }

/-- What comes before step 1: the re-checks (R212), the reservations of IST (R230), the check of REPAIR (R292) and the
Plate's answer (R279). The commit then goes on, or its cast faults, or it waits. -/
def openCommit (s : State) (c b ft : Nat) (k : Cast) : State :=
  let held := sortBy ownKey k.held
  match recheckAll s held with
  | .bad p kind code o x => commitFault s p kind code o x
  | .waits s => s
  | .ok s =>
    match firstClash s held with
    | some p => commitFault s p kWONCE 0 p.fir.cx.toNat (structAddr p.r p.fir)
    | none =>
      match badRepair s k with
      | some p => commitFault s p kPROT 17 p.fir.cx.toNat 0
      | none =>
        let s0 := s
        let s := (reserveWords s held).getD s
        let go := fun (s : State) (out : List Transit) =>
          s.modCast c b ft fun k => { k with committing := true, held := held, plate := [], out := k.out ++ out }
        match k.plate with
        | [] => go s []
        | p :: _ =>
          match sendPlate s p with
          | (.refuse kind code o, _, _) => commitFault s0 p kind code o 0
          | (.waits _, _, _) => match sendPlate s0 p with | (.waits s, _, _) => s | _ => s0
          | (.done s out, toks, mark) =>
            go s (match out with
              | some v => toks.map fun t => { t with tok := { t.tok with val := BitVec.ofNat 512 (v % 2 ^ 64), p := t.tok.p || mark } }
              | none => [])

/-! ### Step 1 -/

/-- One held write performed in its place; one with release waits for its strand's Ridge writes. -/
def performHeld (s : State) (p : Pend) : Written :=
  if relHeld s p then .waits
  else match p.op with
  | 0x91 | 0x93 | 0x95 | 0x98 => performStore s p
  | 0xA0 | 0xA1 => performAtomic s p
  | 0xA3 | 0xA4 => performStruct s p
  | 0xA5 => performCmb s p
  | 0xA6 => performFence s p
  | 0xA7 => performArrive s p
  | 0xA8 => performPublish s p
  | 0xA9 => performShadow s p
  | 0xAA => performRdgSt s p
  | _ => .done s

/-- The suspended write of a commit goes to the replay queue, and its fault to a handler (R226). Until the commit ends, its
writes of higher OWN and all of its outgoing tokens wait in its cast, so that no later cast of its strand is entered, which only
such a token does (R31): what the strand holds beside it is unordered with it, its handler's casts among them
(notes/assumptions/123.md, DEDUCED). -/
def suspendWrite (s : State) (c b ft : Nat) (p : Pend) (kind code owner addr : Nat) : State :=
  let s := s.modCast c b ft fun k => { k with suspended := some p }
  let s := { s with replay := s.replay ++ [(c * 256 + b, p)] }
  let rc := { recOf s p.fir kind sHOME code false with addr := BitVec.ofNat 64 addr, wave := if p.op = 0xA9 then 0 else BitVec.ofNat 7 (litOwn p.r) }
  fileFault s owner (s.inFaultFrame p.fir) rc (.home p.fir.course (BitVec.ofNat 8 b) p.fir.ft)

/-- A write that waits at its home calls it when it sleeps (R453). -/
def callHeld (s : State) (p : Pend) : State :=
  match writeSpan p with
  | some (x, n, _, _) => callHome s p.fir.cx.toNat x n
  | none => s

/-- Writes of step 1 in wave order until one waits, is sent to its home, or faults there. -/
def runHeld (c b ft : Nat) : Nat → State → State
  | 0, s => s
  | fuel + 1, s =>
    match (s.cast? c b ft).bind fun k => k.held.head? with
    | none => s
    | some p =>
      -- an acq CMB holds the later writes of its cast until its cell has released (R234)
      if strandCells s p.fir then s
      else match performHeld s p with
      | .done s => runHeld c b ft fuel (s.modCast c b ft fun k => { k with held := k.held.drop 1 })
      | .waits => if relHeld s p then s else callHeld s p
      | .sent s => s
      | .home kind code o x => suspendWrite s c b ft p kind code o x

/-! ### Requests after the writes -/

/-- Gate requests, host signals and verdicts, in node order, until one waits at its gate (R267, R292, R293). -/
def runAfter (c b ft : Nat) : Nat → State → State
  | 0, s => s
  | fuel + 1, s =>
    match (s.cast? c b ft).bind fun k => (sortBy (fun q => nodeKey q.pend.fir) k.after).head? with
    | none => s
    | some q =>
      let r := match q.pend.op with
        | 0xEB => commitSig s q
        | 0xEA => some (commitRepair s q.pend)
        | _ => takeRequest s q
      match r with
      | none => s
      | some s => runAfter c b ft fuel (s.modCast c b ft fun k => { k with after := k.after.erase q })

/-! ### Step 2 -/

/-- TAGSET's row write at commit (R166). -/
def commitTagset (s : State) (g : Firing) : State :=
  let c := g.course.toNat
  let ft := (frameRef (g.a.getD (plain 0)).word).ft
  match s.ownFrame? g.cx c g.bay ft with
  | some f =>
    if f.link.lc || f.pres != 0 then softAt s g kTAG 9 id
    else s.setFrame c g.bay ft { f with it := BitVec.ofNat 16 (g.b.getD (plain 0)).word }
  | none => softAt s g kTAG 9 id

/-- A frame's linkage is changed, in its image too while it is spilled (R59). -/
def putLink (s : State) (c b ft : Nat) (l : Link) : State :=
  match s.frame? c b ft with
  | none => s
  | some f => imageSlotPut (s.setFrame c b ft { f with link := l }) c f 0 (BitVec.ofNat 512 (linkWord l))

/-- CALL's linkage write at commit (R167), in a frame or a crucible's frame. -/
def commitCall (s : State) (p : Pend) : State :=
  let g := p.fir
  let w := frameRef (g.a.getD (plain 0)).word
  let set := fun (l : Link) => { l with cft := g.ft, cit := g.it, rdest := BitVec.ofNat 21 (bitsAt p.r.lit 0 21) }
  if (g.a.getD (plain 0)).p then s
  else if w.kind = 1 then
    if w.ft = 0 ∧ ((s.cru w.course w.unit).granted && (s.cru w.course w.unit).cx == g.cx) = true then
      s.modCru w.course w.unit fun x => { x with link := set x.link }
    else softAt s g kTAG 9 id
  else
    match s.ownFrame? g.cx w.course w.unit w.ft with
    | some f => putLink s w.course w.unit w.ft (set f.link)
    | none => softAt s g kTAG 9 id

/-- STRAND's linkage write at commit (R172); a live cast keeps the strand with which it began. The spec does not say what
becomes of the write when the row was freed after the STRAND issued: nothing is written and a soft TAG_RANGE record with code
9 is made, as R167 lays down for CALL (notes/assumptions/119.md, DESIGN CHOICE). -/
def commitStrand (s : State) (g : Firing) : State :=
  let c := g.course.toNat
  let ft := (frameRef (g.a.getD (plain 0)).word).ft
  match s.ownFrame? g.cx c g.bay ft with
  | some f => putLink s c g.bay ft { f.link with str := BitVec.ofNat 11 (g.b.getD (plain 0)).word }
  | none => softAt s g kTAG 9 id

/-- The effect of FREE.FRM at commit (R179). A frame with a live cast, the issuing one among them, goes when that cast ends,
though it moves; one that is spilled goes at once, with its image and the cast that waits in it; one that is to go already is
taken for freed (notes/assumptions/99.md). -/
def commitFreeFrm (s : State) (g : Firing) (ft : Nat) : State :=
  let c := g.course.toNat
  match s.ownFrame? g.cx c g.bay ft with
  | none => softAt s g kTAG 9 id
  | some f =>
    if f.freeing || f.endFree then softAt s g kTAG 9 id
    else if f.sp && !f.mv then yieldFrame (dropCast s c g.bay ft) c g.bay ft
    else if f.link.lc || ft == g.ft.toNat then s.setFrame c g.bay ft { f with endFree := true }
    else yieldFrame s c g.bay ft

/-- One effect of step 2 (R26, R173). A poisoned one is suppressed with a POISON record (R390). -/
def commitEffect (s : State) (p : Pend) : State :=
  let g := p.fir
  let a := (g.a.getD (plain 0)).word
  let eight := fun (act : State) => if firingP g then poisonRec s g 8 else act
  match p.op with
  | 0x11 => eight (commitTagset s g)
  | 0x12 => commitCall s p
  | 0x16 => eight (commitStrand s g)
  | 0x24 => eight (commitFreeFrm s g (frameRef a).ft)
  | 0x25 => eight (commitBuf s g a true)
  | 0x26 => eight (commitBuf s g a false)
  | 0x27 => eight (if s.slotGranted g.cx.toNat a then freeSlot s g.cx.toNat a else softAt s g kHOLDING 1 fun x => { x with addr := BitVec.ofNat 64 a })
  | 0x96 => commitBuf s g (addrPlus a (litOff p.r * memWidth 0x96 p.r)) false
  | 0xD0 => commitSpawn s p
  | 0xD1 | 0xD3 | 0xD7 => commitChange s p
  | 0xD5 => commitTol s g
  | 0xE8 => commitCsr s p
  | 0xE9 => commitTrap s p
  | _ => s

/-! ### Steps 3 to 5 -/

/-- The acq partials that the casts entered by a cast's tokens come after: those of its own, and those that it comes after,
while their cells are open (R31, R234). -/
def strandAfter (s : State) (c b ft : Nat) (f : Frame) : List (BitVec 4 × BitVec 13 × BitVec 12 × BitVec 16) :=
  ((acqParts s f.cx).filter fun q => f.after.contains q.sender
    || (q.course.toNat == c && elBay q.unit.toNat == b && q.ft.toNat == ft && q.it == f.it)).map Partial.sender

/-- A token of a commit orders the casts that it enters after its sender's in their strand: CALL or RET sent it, or it is
tagged NEXT (R31). -/
def ordersStrand (s : State) (t : Transit) : Bool :=
  match unitKind t.sUnit.toNat with
  | .elem el =>
    let w := s.record t.tok.cx.toNat t.sCourse.toNat el t.sNode.toNat
    recOp w == 0x12 || recOp w == 0x13 || bitsAt w 75 2 == 1
  | _ => false

/-- Outgoing tokens are released (R26 step 3), in ascending element address and node of their senders, as step 2 applies
its effects (notes/assumptions/95.md). -/
def releaseOut (s : State) (ts : List Transit) : State :=
  let ts := sortBy (fun t => t.sUnit.toNat * 64 + t.sNode.toNat) ts
  { s with transit := s.transit ++ ts.filter (fun t => t.stack == s.sideband.stackNo)
           eaveOut := s.eaveOut ++ ts.filter (fun t => t.stack != s.sideband.stackNo) }

/-- Slot indexes that a block's ports use. -/
def blockSlots (s : State) (cx c block : Nat) : List Nat :=
  ((s.blockNodes cx c block).flatMap fun n => (List.range 4).filterMap fun p => s.portSlot cx c n.1 n.2 p).eraseDups

/-- PRES and INP of a block's slots and their operands are cleared, and LC becomes 0 (R26 step 4). -/
def clearSlots (s : State) (c b ft : Nat) (k : Cast) : State :=
  match s.frame? c b ft with
  | none => s
  | some f =>
    let is := blockSlots s f.cx.toNat c k.block
    let m : Word := BitVec.ofNat 64 ((is.map fun i => 2 ^ i).sum)
    s.setFrame c b ft
      { f with pres := f.pres &&& ~~~m, inp := f.inp &&& ~~~m, slots := f.slots.filter (fun e => !(is.contains e.1)),
               link := { f.link with lc := false, e := false }, cast := none,
               arrivals := f.arrivals.filter (fun i => !(is.contains i)) }

/-- The results and the flip of a commit's Plate request may follow now (R279, R295 step 2). -/
def markReady (s : State) (c b ft : Nat) : State :=
  let fill := fun (f : Fill) => if f.pend.fir.inFrame c b ft then { f with ready := true } else f
  { s with plateWork := s.plateWork.map fun w => if w.pend.fir.inFrame c b ft then { w with ready := true } else w
           courses := s.courses.map fun e =>
             (e.1, { e.2 with fill := e.2.fill.map fill, fillNext := e.2.fillNext.map fill, refill := e.2.refill.map fill }) }

/-- KILL_CONTEXT (R388): the context and its subtree are deleted, and their kernels end KILLED. -/
def killContext (s : State) (cx : Nat) : State := if cx = 0 then s else deleteCtx s cx

/-- What a policy ends, one strand or context after another (R387). -/
def runDooms (s : State) : List Doom → State
  | [] => s
  | d :: ds => runDooms (if d.whole then killContext s d.cx.toNat else killStrand s d.cx.toNat d.str.toNat) ds

/-- The policies that waited for the commit of a frame's cast act (R387). -/
def doomsAt (s : State) (c b ft : Nat) : State :=
  let here := fun (d : Doom) => d.place == some (BitVec.ofNat 4 c, BitVec.ofNat 8 b, BitVec.ofNat 12 ft)
  let ds := s.dooms.filter here
  runDooms { s with dooms := s.dooms.filter fun d => !(here d) } ds

/-- The order of step 2: the decrements of LDL in wave order (R77), then every effect in ascending element address and node
(R26); which of the two orders a USE follows the spec does not settle (notes/assumptions/100.md). -/
def inEffectOrder (l : List Pend) : List Pend :=
  sortBy (fun p => litOwn p.r) (l.filter fun p => p.op == 0x96) ++ sortBy (fun p => nodeKey p.fir) (l.filter fun p => p.op != 0x96)

/-- Step 2 of R26: the effects, once, in their order. One that waits at the home of its cell keeps back those behind it (R301). -/
def runEffects (c b ft : Nat) : List Pend → State → State
  | [], s => s.modCast c b ft fun k => { k with effects := [] }
  | p :: rest, s =>
    let s := commitEffect (s.modCast c b ft fun k => { k with effects := rest }) p
    if changesWait s c b ft then s else runEffects c b ft rest s

/-- The commit of a cast once nothing of its steps 1 and 2 is left: steps 3 to 5 of R26, and what follows it. -/
def closeCommit (s : State) (c b ft : Nat) (f : Frame) (k : Cast) : State :=
  let cx := f.cx.toNat
  -- the heap's end test sees the changes of one commit together (R26, R371)
  let s := endTest s cx
  let late := strandAfter s c b ft f
  let out := (((s.cast? c b ft).map Cast.out).getD k.out).map fun t => if ordersStrand s t then { t with after := late } else t
  let s := releaseOut s out
  let s := setFlags s cx k.flags
  let s := clearSlots s c b ft k
  let s := markReady s c b ft
  let s := match s.frame? c b ft with
    | some f => if f.cs || f.endFree then yieldFrame s c b ft else nextCast s c b ft
    | none => s
  doomsAt (serveReleases s) c b ft

/-- A cast's changes of the heap reach it in the cycle of a pop: they come with the next cycle, since those of one cycle come
before its pop (R368). -/
def afterPop (s : State) (c : Nat) (k : Cast) : Bool :=
  (s.crs c).heap.popped == s.cycles + 1 && k.effects.any fun p => [0xD0, 0xD1, 0xD3, 0xD7].contains p.op

/-- Step 2 and the rest of a commit, when no change of the heap has to come after a pop and none still waits at its home
(R301, R368). -/
def finishCommit (s : State) (c b ft : Nat) (k : Cast) : State :=
  if afterPop s c k || changesWait s c b ft then s
  else
    let s := runEffects c b ft (inEffectOrder k.effects) s
    match s.frame? c b ft with
    | none => s
    | some f =>
      match f.cast with
      | none => s
      | some k => if changesWait s c b ft then s else closeCommit s c b ft f k

/-- Results of the updates of a commit are still on their way from their homes: until then an update is not performed, and
step 3 of R26 does not begin (R225, R319; notes/assumptions/122.md, DEDUCED). -/
def resultsDue (s : State) (k : Cast) : Bool := k.out.any fun t => decide (s.cycles < t.due)

/-- One run of a commit that has begun: as much of it as does not wait. Its requests, changes and tokens are releases of its
writes, which its Ridge writes and publications are once the mirrors hold them (R26, R301, R323, R338;
notes/assumptions/33.md). -/
def runCommit (s : State) (c b ft : Nat) : State :=
  serveReleases <| match s.cast? c b ft with
  | none => s
  | some k =>
    if k.suspended.isSome then s
    else
      let s := runHeld c b ft (k.held.length + 1) s
      match s.frame? c b ft with
      | none => s
      | some f =>
        match f.cast with
        | none => s
        | some k =>
          if !k.held.isEmpty || strandUnapplied s c f.cx k.strand || resultsDue s k then s
          else
            let s := runAfter c b ft (k.after.length + 1) s
            match s.cast? c b ft with
            | some k => if k.after.isEmpty then finishCommit s c b ft k else s
            | none => s

/-- A firing that stands for a frame as a whole. -/
def frameFiring (c b ft : Nat) (f : Frame) : Firing :=
  { Firing.none with course := BitVec.ofNat 4 c, unit := BitVec.ofNat 13 (elAt b 0), cx := f.cx, ft := BitVec.ofNat 12 ft, it := f.it }

/-- A cast may commit: its EXIT has fired, E is 0, it is quiet, its frame stands in the bay store, and its strand is not
held (R26, R226, R234). -/
def mayCommit (s : State) (c b ft : Nat) : Bool :=
  match s.frame? c b ft with
  | none => false
  | some f =>
    match f.cast with
    | none => false
    | some k =>
      let g := frameFiring c b ft f
      k.exited && !f.link.e && !k.aborted && !f.sp && !f.mv && castQuiet s c b ft false
        && (k.held.isEmpty || !(strandCells s g))

/-- CAST_COMMIT (R26): `course`, `unit` as the bay and `ft` name the frame. A commit that has begun goes on. -/
def execCastCommit (e : EvArgs) (s : State) : Host.Outcome State Fault Refusal :=
  let c := e.course.toNat
  let b := e.unit.toNat % 256
  let ft := e.ft.toNat
  .next (match s.cast? c b ft with
    | none => s
    | some k =>
      if k.committing then runCommit s c b ft
      else if mayCommit s c b ft then
        let s := openCommit s c b ft k
        match s.cast? c b ft with
        | some k => if k.committing then runCommit s c b ft else s
        | none => s
      else s)

/-! ### Abort (R27) -/

/-- The abort of a cast: what it held goes, what it was granted is given back, and one fault token is sent for its first
fault; slots, PRES and INP stay. -/
def abortCast (s : State) (c b ft : Nat) (f : Frame) (k : Cast) : State :=
  let s := voidReaders s c b ft
  let s := clearReady s c b ft
  let s := match k.linked with
    | some (l, it) =>
      (s.modFrame c b ft fun f => { f with nv := false, nft := 0 }).modFrame c b l.toNat fun x => { x with it := it }
    | none => s
  let s := k.gotCru.foldl (fun s n => freeCru s c n) s
  let s := k.gotRdg.foldl (fun s n => freeSlot s f.cx.toNat n) s
  let s := endTest ((List.range k.gotHeap).foldl (fun s _ => unreserve s f.cx.toNat c) s) f.cx.toNat
  let s := s.modCast c b ft fun k => { Cast.start k.block k.strand with aborted := true, injected := k.injected }
  let s := freeAll s c b (k.gotFrames.map BitVec.toNat) k.gotBufs
  match k.fault with
  | some (owner, rc) => fileFault s owner.toNat f.faultSeq.isSome rc (.cast (BitVec.ofNat 4 c) (BitVec.ofNat 8 b) (BitVec.ofNat 12 ft))
  | none => s

/-- CAST_ABORT (R27): a cast with E set aborts once it is quiet; EXIT need not have fired. -/
def execCastAbort (e : EvArgs) (s : State) : Host.Outcome State Fault Refusal :=
  let c := e.course.toNat
  let b := e.unit.toNat % 256
  let ft := e.ft.toNat
  .next (match s.frame? c b ft with
    | none => s
    | some f =>
      match f.cast with
      | none => s
      | some k => if f.link.e && !k.aborted && !k.committing && castQuiet s c b ft true then abortCast s c b ft f k else s)

/-! ### The stall bound (R29) -/

/-- A live cast's stall counter counts now: its context runs there, its frame stands, and nothing of it is ready, issuing,
parked or outstanding; a token on its way does not stop it. A cast that commits or has aborted is done with firing, and one with
E = 1, which aborts, keeps its first fault whatever its counter says (R27). -/
def stallCounts (s : State) (c b ft : Nat) (f : Frame) (k : Cast) : Bool :=
  slicedOn s f.cx.toNat c && !f.sp && !f.mv && !k.aborted && !k.committing && !f.link.e
    && (readyOf s c b ft).isEmpty && (parkedOf s c b ft).isEmpty && (walkingOf s c b ft).isEmpty && k.waits.isEmpty
    && !(k.wave.any fun w => w.load && !w.performed) && !(respAway s c b ft k)

/-- STALL (R29): the counter of a cast has reached its context's bound. The cast raises it and the spec names no node for
its record: it is the first of the block's nodes (notes/assumptions/94.md, DESIGN CHOICE). -/
def execStall (e : EvArgs) (s : State) : Host.Outcome State Fault Refusal :=
  let c := e.course.toNat
  let b := e.unit.toNat % 256
  let ft := e.ft.toNat
  .next (match s.frame? c b ft with
    | none => s
    | some f =>
      match f.cast with
      | none => s
      | some k =>
        if stallCounts s c b ft f k && !(mayCommit s c b ft) && decide (s.stallBound f.cx.toNat ≤ k.stall) then
          let n := (s.blockNodes f.cx.toNat c k.block).headD (elAt b 0, 0)
          fault s { frameFiring c b ft f with unit := BitVec.ofNat 13 n.1, node := BitVec.ofNat 6 n.2 } kSTALL 0
        else s)

/-! ### Waits of memory records -/

/-- WAVE_LOAD_PERFORM (R215): a load that waits in the wave buffer and is ready acts again. -/
def execWaveLoadPerform (e : EvArgs) (s : State) : Host.Outcome State Fault Refusal :=
  let c := e.course.toNat
  let b := e.unit.toNat % 256
  let ft := e.ft.toNat
  .next (match s.cast? c b ft with
    | none => s
    | some k =>
      match k.wave.find? fun w => w.load && !w.performed && !(k.waits.contains w.pend) && !(s.agenda.contains (.fire w.pend))
          && !((walkingOf s c b ft).contains w.pend) && loadReady s w.pend.fir w.own with
      | some w => { s with agenda := s.agenda ++ [.fire w.pend] }
      | none => s)

/-- A walk begins, or begins again: its generation, and the cycle in which its reads are done (R317, R414). -/
def startWalk (s : State) (c : Nat) (w : Walk) : Walk :=
  let g := (w.users.head?.map Pend.fir).getD (w.guests.headD { Firing.none with course := BitVec.ofNat 4 c })
  let b := if g.isCru then 0 else g.bay
  { w with begun := true, gen := (s.ctx w.cx.toNat).gen, due := s.cycles + s.walkDelay c b w.cx.toNat (w.page * 2 ^ 16) }

/-- WALKER_START (R317): the oldest queued walk of a course receives a free walker of its 64. -/
def execWalkerStart (e : EvArgs) (s : State) : Host.Outcome State Fault Refusal :=
  let c := e.course.toNat
  let y := s.crs c
  .next (match y.walks.find? fun w => !w.begun with
    | none => s
    | some w =>
      if 64 ≤ (y.walks.filter Walk.begun).length then s
      else
        s.modCrs c fun y => { y with walks := y.walks.map fun x => if x == w then startWalk s c w else x })

/-- The users of a walk act again, in the order in which the requests of one cycle are taken: ascending element and node
(R56, R61). -/
def wakeUsers (s : State) (ps : List Pend) : State :=
  { s with agenda := s.agenda ++ (sortBy (fun p => nodeKey p.fir) ps).map Pick.fire }

/-- The address that a waiting access names (R247). -/
def accessAddr (p : Pend) : Option Nat :=
  match p.op with
  | 0x90 | 0x92 | 0x94 | 0x96 | 0x97 => match memAddr p.op p.r p.fir (memWidth p.op p.r) with | .addr x => some x | .oob _ => none
  | 0xA2 => some (structAddr p.r p.fir)
  | _ => (writeSpan p).map Prod.fst

/-- An access that waited for a walk takes the walk's fault, which names the address accessed (R247, R318, R433). -/
def walkFault (s : State) (p : Pend) (kind code owner va : Nat) : State :=
  hardFault s p.fir kind code owner fun y =>
    { y with addr := BitVec.ofNat 64 ((accessAddr p).getD va), wave := if isMemOp p.op then BitVec.ofNat 7 (litOwn p.r) else 0 }

/-- WALK_COMPLETE (R317, R318, R414): the k-th walk in progress of a course ends, its reads being done. A generation that has moved makes it
walk again; a leaf marked M waits for its page (R432). Accesses of a context act in its slices (R426, R428). -/
def execWalkComplete (e : EvArgs) (s : State) : Host.Outcome State Fault Refusal :=
  let c := e.course.toNat
  .next (match ((s.crs c).walks.filter Walk.begun)[e.k.toNat]? with
    | none => s
    | some w =>
      let cx := w.cx.toNat
      let va := w.page * 2 ^ 16
      let here := ((s.crs c).holder.map fun h => h == w.cx).getD false
      let gone := fun (s : State) => s.modCrs c fun y => { y with walks := y.walks.erase w }
      if !here || decide (s.cycles < w.due) then s
      else if w.gen != (s.ctx cx).gen then
        s.modCrs c fun y => { y with walks := y.walks.map fun x => if x == w then startWalk s c w else x }
      else
        match s.walk cx va with
        | .ok o =>
          -- a walk that reads a line homed on a sleeping course waits for its wake (R453)
          let lines := o.tags.map (64 * ·.1)
          if (s.firstAsleep lines).isSome then wakeAt s lines else
          let bays := (w.users.map Pend.fir ++ w.guests.filter fun g => !g.isCru).map Firing.bay
          wakeUsers (bays.eraseDups.foldl (fun s b => install s c b cx va o) (gone s)) w.users
        | .error x => if x.pull.isSome then s else w.users.foldl (fun s p => walkFault s p x.kind x.code x.owner va) (gone s))

/-! ### Combine cells (R233, R234) -/

/-- CMB_PARTIAL_ARRIVAL (R233): the k-th partial on its way reaches its home; its write is performed, and it joins or
waits. -/
def execCmbPartialArrival (e : EvArgs) (s : State) : Host.Outcome State Fault Refusal :=
  .next (match (s.cellWaits.filter fun w => w.1 == 0)[e.k.toNat]? with
    | none => s
    | some (i, p, q) =>
      let g := p.fir
      let c := g.course.toNat
      let gone := fun (s : State) => { s with cellWaits := s.cellWaits.erase (i, p, q) }
      let home := fun (s : State) => (gone s).modCast c g.bay g.ft.toNat fun k => { k with held := k.held.erase p }
      match partialPA s p with
      | some pa =>
        -- a partial passes those that wait for a place before it only when it can join
        match joinCell (home s) p q pa with
        | some s => scanCells s
        | none => let s := home s; { s with cellWaits := s.cellWaits ++ [(pa + 1, p, q)] }
      | none =>
        -- a copy is waited for, a stale translation walked, and what else fails fails at the home (R55, R226)
        match land s g (cmbAddr p) (cmbBytes p.r) (cmbBytes p.r) clsStore with
        | .waits => callHeld s p
        | .at_ s _ => s
        | .lost s => home s
        | .home k code o x => suspendWrite (gone s) c g.bay g.ft.toNat p k code o x)

/-- CMB_CELL_TIMEOUT (R234): a cell that no partial has joined for the stall bound is closed without an update. -/
def execCmbCellTimeout (_ : EvArgs) (s : State) : Host.Outcome State Fault Refusal :=
  .next (match s.cells.find? fun x => decide (s.stallBound x.cx.toNat ≤ x.idle) with
    | none => s
    | some x =>
      let s := { s with cells := s.cells.erase x }
      let s := softRec s { FaultRec.zero with
        kind := BitVec.ofNat 5 kPOISON, site := BitVec.ofNat 3 sRECORD, soft := true, ocx := x.cx, aux := 7,
        stack := s.sideband.stackNo, addr := x.addr } false none
      scanCells s)

end Sys2Proof.Machine
end

