-- ==== Sys2Proof/Machine/Integer.lean ====
section
/-! DEFINITION. Sys2Proof/Machine/Integer.lean: control-plane integers (R182 to R187). -/

namespace Sys2Proof.Machine

/-- An integer node: `f` gives the exact result and flags from the operand values and the width (R183). -/
def intNode (s : State) (r : NodeRec) (f : Int → Int → Int → Int × Flags) : Host.Outcome State Fault Refusal :=
  let t := r.ty.toNat
  .next (ctlNode s r fun a =>
    let x := f (a.a.int t) (a.b.int t) (a.c.int t)
    (wrap64 t x.1, x.2))

/-- A bitwise node on bits [w−1:0] of A, with the whole payload of B (R183, R184). -/
def bitNode (s : State) (r : NodeRec) (f : Nat → Nat → Nat → Nat) : Host.Outcome State Fault Refusal :=
  let t := r.ty.toNat
  let w := tyWidth t
  .next (ctlNode s r fun a => (wrap64 t ((f w (a.a.word % 2 ^ w) a.b.word % 2 ^ w : Nat) : Int), 0))

/-- Shift right with copies of bit w − 1 (R184). -/
def sarBits (w x k : Nat) : Nat := natMod (signedVal w x / ((2 ^ min k w : Nat) : Int)) w

/-- Rotate left by k mod w (R184). -/
def rolBits (w x k : Nat) : Nat := (x * 2 ^ (k % w) % 2 ^ w) + x / 2 ^ (w - k % w)

/-- Set bits of a number, among its low `n` bits. -/
def popBits (x : Nat) : Nat → Nat
  | 0 => 0
  | n + 1 => popBits x n + x / 2 ^ n % 2

/-- ADD (R183). -/
def execAdd (r : NodeRec) (s : State) : Host.Outcome State Fault Refusal := intNode s r fun a b _ => (a + b, 0)
/-- SUB (R183). -/
def execSub (r : NodeRec) (s : State) : Host.Outcome State Fault Refusal := intNode s r fun a b _ => (a - b, 0)
/-- MUL (R183). -/
def execMul (r : NodeRec) (s : State) : Host.Outcome State Fault Refusal := intNode s r fun a b _ => (a * b, 0)
/-- MULH: floor(a × b ÷ 2^w) (R183). -/
def execMulh (r : NodeRec) (s : State) : Host.Outcome State Fault Refusal :=
  intNode s r fun a b _ => (a * b / ((2 ^ tyWidth r.ty.toNat : Nat) : Int), 0)
/-- DIV (R158, R183). -/
def execDiv (r : NodeRec) (s : State) : Host.Outcome State Fault Refusal :=
  intNode s r fun a b _ => let d := intDiv r.ty.toNat a b; (d.1, d.2.2)
/-- REM (R158, R183). -/
def execRem (r : NodeRec) (s : State) : Host.Outcome State Fault Refusal :=
  intNode s r fun a b _ => let d := intDiv r.ty.toNat a b; (d.2.1, d.2.2)
/-- MAD: a × b + c, one wrap (R183). -/
def execMad (r : NodeRec) (s : State) : Host.Outcome State Fault Refusal := intNode s r fun a b c => (a * b + c, 0)
/-- NEG (R183). -/
def execNeg (r : NodeRec) (s : State) : Host.Outcome State Fault Refusal := intNode s r fun a _ _ => (-a, 0)
/-- ABS (R183). -/
def execAbs (r : NodeRec) (s : State) : Host.Outcome State Fault Refusal :=
  intNode s r fun a _ _ => (if a < 0 then -a else a, 0)
/-- MIN (R183). -/
def execMin (r : NodeRec) (s : State) : Host.Outcome State Fault Refusal :=
  intNode s r fun a b _ => (if b < a then b else a, 0)
/-- MAX (R183). -/
def execMax (r : NodeRec) (s : State) : Host.Outcome State Fault Refusal :=
  intNode s r fun a b _ => (if a < b then b else a, 0)
/-- AND (R183). -/
def execAnd (r : NodeRec) (s : State) : Host.Outcome State Fault Refusal := bitNode s r fun _ a b => a &&& b
/-- OR (R183). -/
def execOr (r : NodeRec) (s : State) : Host.Outcome State Fault Refusal := bitNode s r fun _ a b => a ||| b
/-- XOR (R183). -/
def execXor (r : NodeRec) (s : State) : Host.Outcome State Fault Refusal := bitNode s r fun _ a b => a ^^^ b
/-- NOT (R183). -/
def execNot (r : NodeRec) (s : State) : Host.Outcome State Fault Refusal := bitNode s r fun w a _ => 2 ^ w - 1 - a
/-- ANDN: a and not b (R183). -/
def execAndn (r : NodeRec) (s : State) : Host.Outcome State Fault Refusal :=
  bitNode s r fun w a b => a &&& (2 ^ w - 1 - b % 2 ^ w)
/-- SHL (R184). -/
def execShl (r : NodeRec) (s : State) : Host.Outcome State Fault Refusal :=
  bitNode s r fun w a k => if w ≤ k then 0 else a * 2 ^ k
/-- SHR (R184). -/
def execShr (r : NodeRec) (s : State) : Host.Outcome State Fault Refusal :=
  bitNode s r fun w a k => if w ≤ k then 0 else a / 2 ^ k
/-- SAR (R184). -/
def execSar (r : NodeRec) (s : State) : Host.Outcome State Fault Refusal := bitNode s r fun w a k => sarBits w a k
/-- ROL (R184). -/
def execRol (r : NodeRec) (s : State) : Host.Outcome State Fault Refusal := bitNode s r fun w a k => rolBits w a k
/-- CLZ (R183). -/
def execClz (r : NodeRec) (s : State) : Host.Outcome State Fault Refusal := bitNode s r fun w a _ => w - bitLen a
/-- POP (R183). -/
def execPop (r : NodeRec) (s : State) : Host.Outcome State Fault Refusal := bitNode s r fun w a _ => popBits a w

/-- The relation of a VAR on an ordering (R131, R185). -/
def relHolds (v : Nat) (o : Ordering) : Bool :=
  match v with
  | 0 => o == .eq
  | 1 => o != .eq
  | 2 => o == .lt
  | 3 => o != .gt
  | 4 => o == .gt
  | _ => o != .lt

/-- CMP: a pred payload (R185). -/
def execCmp (r : NodeRec) (s : State) : Host.Outcome State Fault Refusal :=
  let t := r.ty.toNat
  .next (ctlNode s r fun a => ((relHolds r.var.toNat (compare (a.a.int t) (a.b.int t))).toNat, 0))

/-- LEA: b + a × 2^VAR (R183). -/
def execLea (r : NodeRec) (s : State) : Host.Outcome State Fault Refusal :=
  intNode s r fun a b _ => (b + a * ((2 ^ r.var.toNat : Nat) : Int), 0)

/-- The extended payload e of an operand (R135, R186). -/
def extPay (t : Nat) (o : Opnd) : Nat := wrap64 t (o.int t)

/-- BFX (R186). -/
def execBfx (r : NodeRec) (s : State) : Host.Outcome State Fault Refusal :=
  let t := r.ty.toNat
  .next (ctlNode s r fun a =>
    let e := extPay t a.a
    let fw := a.b.word
    let lo := fw % 64
    let len := min (fw / 64 % 128) 64
    let f := natMod (signedVal 64 e / ((2 ^ lo : Nat) : Int)) len
    let x : Int := if len = 0 then 0 else if tySigned t then signedVal len f else (f : Int)
    (wrap64 t x, 0))

/-- BFI (R186). -/
def execBfi (r : NodeRec) (s : State) : Host.Outcome State Fault Refusal :=
  let t := r.ty.toNat
  .next (ctlNode s r fun a =>
    let fw := a.c.word
    let lo := fw % 64
    let len := min (fw / 64 % 128) 64
    let m := (2 ^ len - 1) * 2 ^ lo % 2 ^ 64
    let x : Nat := (extPay t a.a &&& (2 ^ 64 - 1 - m)) ||| (extPay t a.b * 2 ^ lo &&& m)
    (wrap64 t (Int.ofNat x), 0))

/-- EXT (R186). -/
def execExt (r : NodeRec) (s : State) : Host.Outcome State Fault Refusal :=
  let t := r.ty.toNat
  let w := 8 * 2 ^ r.var.toNat
  .next (ctlNode s r fun a =>
    let v := a.a.word % 2 ^ w
    (wrap64 t (if tySigned t then signedVal w v else (v : Int)), 0))

/-- SATADD (R187). -/
def execSatadd (r : NodeRec) (s : State) : Host.Outcome State Fault Refusal :=
  intNode s r fun a b _ => satInt r.ty.toNat (a + b)

/-- CLAMP: min(max(a, b), c) (R187). -/
def execClamp (r : NodeRec) (s : State) : Host.Outcome State Fault Refusal :=
  intNode s r fun a b c =>
    let m := if a < b then b else a
    let x := if c < m then c else m
    (x, flagIf (x != a) fSAT)

end Sys2Proof.Machine
end

