-- ==== Sys2Proof/Machine/Vector.lean ====
section
/-! DEFINITION. Sys2Proof/Machine/Vector.lean: vector integers, lane movement, reductions and scans (R188 to R197). -/

namespace Sys2Proof.Machine

/-- Lanes combined one by one. -/
def zip3 {α : Type} (f : Nat → Nat → Nat → α) (a b c : List Nat) : List α :=
  (a.zip (b.zip c)).map fun x => f x.1 x.2.1 x.2.2

/-- OR of the flags of all lanes (R189). -/
def orFlags (xs : List Flags) : Flags := xs.foldl (· ||| ·) 0

/-- A lane-by-lane integer node: `f` gives the exact result, narrowed by wrap, or by sat when VAR = 1 (R191). -/
def vecInt (s : State) (r : NodeRec) (sat : Bool) (f : Int → Int → Int → Int) : Host.Outcome State Fault Refusal :=
  let t := r.ty.toNat
  let w := laneBits t
  .next (dataNode s r fun a =>
    let out := zip3 (fun x y z =>
      let v := f (intVal t x) (intVal t y) (intVal t z)
      if sat then let q := satInt t v; (wrapLane t q.1, q.2) else (wrapLane t v, (0 : Flags)))
      (lanesOf w a.a.val) (lanesOf w a.b.val) (lanesOf w a.c.val)
    (ofLanes w (out.map Prod.fst), orFlags (out.map Prod.snd), false))

/-- A lane-by-lane node on raw lanes: `f` takes the width and the lanes of A, B and C. -/
def vecBits (s : State) (r : NodeRec) (f : Nat → Nat → Nat → Nat → Nat) : Host.Outcome State Fault Refusal :=
  let w := laneBits r.ty.toNat
  .next (dataNode s r fun a =>
    (ofLanes w (zip3 (f w) (lanesOf w a.a.val) (lanesOf w a.b.val) (lanesOf w a.c.val)), 0, false))

/-- VADD (R191). -/
def execVadd (r : NodeRec) (s : State) : Host.Outcome State Fault Refusal := vecInt s r (r.var == 1#4) fun a b _ => a + b
/-- VSUB (R191). -/
def execVsub (r : NodeRec) (s : State) : Host.Outcome State Fault Refusal := vecInt s r (r.var == 1#4) fun a b _ => a - b
/-- VMUL (R191). -/
def execVmul (r : NodeRec) (s : State) : Host.Outcome State Fault Refusal := vecInt s r (r.var == 1#4) fun a b _ => a * b
/-- VMAD (R191). -/
def execVmad (r : NodeRec) (s : State) : Host.Outcome State Fault Refusal := vecInt s r false fun a b c => a * b + c
/-- VMIN (R191). -/
def execVmin (r : NodeRec) (s : State) : Host.Outcome State Fault Refusal :=
  vecInt s r false fun a b _ => if b < a then b else a
/-- VMAX (R191). -/
def execVmax (r : NodeRec) (s : State) : Host.Outcome State Fault Refusal :=
  vecInt s r false fun a b _ => if a < b then b else a
/-- VAND (R191). -/
def execVand (r : NodeRec) (s : State) : Host.Outcome State Fault Refusal := vecBits s r fun _ a b _ => a &&& b
/-- VOR (R191). -/
def execVor (r : NodeRec) (s : State) : Host.Outcome State Fault Refusal := vecBits s r fun _ a b _ => a ||| b
/-- VXOR (R191). -/
def execVxor (r : NodeRec) (s : State) : Host.Outcome State Fault Refusal := vecBits s r fun _ a b _ => a ^^^ b
/-- VSHL (R191). -/
def execVshl (r : NodeRec) (s : State) : Host.Outcome State Fault Refusal :=
  vecBits s r fun w a k _ => if w ≤ k then 0 else a * 2 ^ k % 2 ^ w
/-- VSHR: zero fill for n types, copies of the sign bit for i types (R191). -/
def execVshr (r : NodeRec) (s : State) : Host.Outcome State Fault Refusal :=
  vecBits s r fun w a k _ => if tySigned r.ty.toNat then sarBits w a k else if w ≤ k then 0 else a / 2 ^ k
/-- VCMP: a mask (R189, R191). -/
def execVcmp (r : NodeRec) (s : State) : Host.Outcome State Fault Refusal :=
  let t := r.ty.toNat
  vecBits s r fun w a b _ => if relHolds r.var.toNat (compare (intVal t a) (intVal t b)) then 2 ^ w - 1 else 0
/-- VSEL: C where the mask A is true, else B (R191). -/
def execVsel (r : NodeRec) (s : State) : Host.Outcome State Fault Refusal :=
  vecBits s r fun _ a b c => if a ≠ 0 then c else b
/-- VABS (R191). -/
def execVabs (r : NodeRec) (s : State) : Host.Outcome State Fault Refusal :=
  vecInt s r false fun a _ _ => if a < 0 then -a else a
/-- VPOPC (R191). -/
def execVpopc (r : NodeRec) (s : State) : Host.Outcome State Fault Refusal := vecBits s r fun w a _ _ => popBits a w

/-- The sum of four byte products of VDOT4's lane i (R192). -/
def dot4 (bt : Nat) (a b : Payload) (i : Nat) : Int :=
  (List.range 4).foldl (fun acc j => acc + intVal bt (laneAt 8 a (4 * i + j)) * intVal bt (laneAt 8 b (4 * i + j))) 0

/-- VDOT4 (R192). -/
def execVdot4 (r : NodeRec) (s : State) : Host.Outcome State Fault Refusal :=
  let t := r.ty.toNat
  let bt := if tySigned t then 0 else 4
  .next (dataNode s r fun a =>
    (ofLanes 32 ((List.range 16).map fun i => wrapLane t (intVal t (laneAt 32 a.c.val i) + dot4 bt a.a.val a.b.val i)), 0, false))

/-- VPERM (R194). -/
def execVperm (r : NodeRec) (s : State) : Host.Outcome State Fault Refusal :=
  let w := laneBits r.ty.toNat
  .next (dataNode s r fun a =>
    (ofLanes w ((lanesOf w a.b.val).map fun j => if j < 512 / w then laneAt w a.a.val j else 0), 0, false))

/-- VSLIDE (R194): the distance is LIT[7:0]. -/
def execVslide (r : NodeRec) (s : State) : Host.Outcome State Fault Refusal :=
  let w := laneBits r.ty.toNat
  let n := 512 / w
  let k := bitsAt r.lit 0 8
  .next (dataNode s r fun a =>
    let two := r.ar == 1#3
    let lane := fun i =>
      if r.var = 0#4 then (if k ≤ i then laneAt w a.a.val (i - k) else if two then laneAt w a.b.val (n - k + i) else 0)
      else (if i + k < n then laneAt w a.a.val (i + k) else if two then laneAt w a.b.val (i + k - n) else 0)
    (ofLanes w ((List.range n).map lane), 0, false))

/-- The integer type of half or double the width with the same signedness. -/
def halfTy (t : Nat) : Nat := t - 1
def doubleTy (t : Nat) : Nat := t + 1

/-- VPACK: lanes of A then B, half the width (R195). -/
def execVpack (r : NodeRec) (s : State) : Host.Outcome State Fault Refusal :=
  let t := r.ty.toNat
  let w := laneBits t
  let h := halfTy t
  .next (dataNode s r fun a =>
    let out := (lanesOf w a.a.val ++ lanesOf w a.b.val).map fun x =>
      if r.var = 1#4 then let q := satInt h (intVal t x); (wrapLane h q.1, q.2) else (x % 2 ^ (w / 2), (0 : Flags))
    (ofLanes (w / 2) (out.map Prod.fst), orFlags (out.map Prod.snd), false))

/-- VUNPK: half of A's lanes, twice the width (R195). -/
def execVunpk (r : NodeRec) (s : State) : Host.Outcome State Fault Refusal :=
  let t := r.ty.toNat
  let w := laneBits t
  let n := 512 / w / 2
  .next (dataNode s r fun a =>
    (ofLanes (2 * w) ((List.range n).map fun i =>
      wrapLane (doubleTy t) (intVal t (laneAt w a.a.val (i + if r.var = 0#4 then 0 else n)))), 0, false))

/-- The integer operation of a reduction (R131, R196). -/
def redOp (v t : Nat) (a b : Nat) : Nat :=
  match v with
  | 0 => wrapLane t (intVal t a + intVal t b)
  | 1 => if intVal t b < intVal t a then b else a
  | 2 => if intVal t a < intVal t b then b else a
  | 3 => a &&& b
  | 4 => a ||| b
  | _ => a ^^^ b

/-- One level of VRED.fadd's tree (R196). -/
def faddLevel (f : Fmt) : List Nat → List (Nat × Flags)
  | x :: y :: l => let q := fAdd f ⟨0, 0, true⟩ x y; (q.code, q.flags) :: faddLevel f l
  | [x] => [(x, 0)]
  | [] => []

/-- VRED.fadd: levels until one lane is left. -/
def faddTree (f : Fmt) : Nat → List Nat → Flags → Nat × Flags
  | 0, xs, fl => (xs.headD 0, fl)
  | n + 1, xs, fl =>
    let l := faddLevel f xs
    faddTree f n (l.map Prod.fst) (fl ||| orFlags (l.map Prod.snd))

/-- VRED: lane 0 holds the reduction, the others zero (R196). -/
def execVred (r : NodeRec) (s : State) : Host.Outcome State Fault Refusal :=
  let t := r.ty.toNat
  let w := laneBits t
  .next (dataNode s r fun a =>
    let xs := lanesOf w a.a.val
    if r.var = 6#4 then
      let q := faddTree (tyFmt t) (Nat.log2 (512 / w)) xs 0
      (ofLanes w [q.1], q.2, false)
    else (ofLanes w [xs.tail.foldl (redOp r.var.toNat t) (xs.headD 0)], 0, false))

/-- Inclusive prefixes of a list under an operation. -/
def scanList (f : Nat → Nat → Nat × Flags) : Nat → List Nat → List (Nat × Flags)
  | _, [] => []
  | acc, x :: l => let q := f acc x; q :: scanList f q.1 l

/-- VSCAN (R196). -/
def execVscan (r : NodeRec) (s : State) : Host.Outcome State Fault Refusal :=
  let t := r.ty.toNat
  let w := laneBits t
  .next (dataNode s r fun a =>
    let xs := lanesOf w a.a.val
    let f := fun x y =>
      if r.var = 6#4 then let q := fAdd (tyFmt t) ⟨0, 0, true⟩ x y; (q.code, q.flags) else (redOp r.var.toNat t x y, (0 : Flags))
    let l := scanList f (xs.headD 0) xs.tail
    (ofLanes w (xs.headD 0 :: l.map Prod.fst), orFlags (l.map Prod.snd), false))

/-- Operands of a node whose literal stands on the control plane and whose result is a data token (R193). -/
def mixNode (s : State) (r : NodeRec) (f : Args → Payload × Bool) : State :=
  let a := argsCtl s r s.firing
  let x := f a
  pureNode s r a true true (some x) (some x) 0

/-- VINS (R194). -/
def execVins (r : NodeRec) (s : State) : Host.Outcome State Fault Refusal :=
  let w := laneBits r.ty.toNat
  .next (mixNode s r fun a =>
    let j := a.c.word
    if 512 / w ≤ j then (a.a.val, true)
    else (ofLanes w ((lanesOf w a.a.val).set j (a.b.val.toNat % 2 ^ w)), false))

/-- VMASK (R197). -/
def execVmask (r : NodeRec) (s : State) : Host.Outcome State Fault Refusal :=
  let w := laneBits r.ty.toNat
  .next (dataNode s r fun a => (ofLanes 1 ((lanesOf w a.a.val).map fun x => if x ≠ 0 then 1 else 0), 0, false))

/-- VIOTA (R194). -/
def execViota (r : NodeRec) (s : State) : Host.Outcome State Fault Refusal :=
  let t := r.ty.toNat
  let w := laneBits t
  .next (dataNode s r fun a =>
    let base := if r.ar = 2#3 then intVal t (laneAt w a.b.val 0) else 0
    (ofLanes w ((List.range (512 / w)).map fun (i : Nat) => wrapLane t (base + (i : Int))), 0, false))

end Sys2Proof.Machine
end

