-- ==== Sys2Proof/Machine/VFloat.lean ====
section
/-! DEFINITION. Sys2Proof/Machine/VFloat.lean: vector floating point, and scalar floating point on the control plane
(R198 to R202, R208 to R210). -/

namespace Sys2Proof.Machine

/-- A lane-by-lane float node: `f` takes the rounder of the lane and the lanes of A, B and C (R199). -/
def vecFloat (s : State) (r : NodeRec) (mode : Nat) (f : Rounder → Nat → Nat → Nat → Rounded) :
    Host.Outcome State Fault Refusal :=
  let w := laneBits r.ty.toNat
  let g := s.firing
  .next (dataNode s r fun a =>
    let out := (List.range (512 / w)).map fun i =>
      f (rounderAt s g mode true i) (laneAt w a.a.val i) (laneAt w a.b.val i) (laneAt w a.c.val i)
    (ofLanes w (out.map Rounded.code), orFlags (out.map Rounded.flags), false))

/-- A code without flags. -/
def bare (x : Nat) : Rounded := { code := x, flags := 0, ovf := false }

/-- VFADD (R199). -/
def execVfadd (r : NodeRec) (s : State) : Host.Outcome State Fault Refusal :=
  vecFloat s r (r.var.toNat % 8) fun k a b _ => fAdd (tyFmt r.ty.toNat) k a b
/-- VFSUB (R199). -/
def execVfsub (r : NodeRec) (s : State) : Host.Outcome State Fault Refusal :=
  vecFloat s r (r.var.toNat % 8) fun k a b _ => fSub (tyFmt r.ty.toNat) k a b
/-- VFMUL (R199). -/
def execVfmul (r : NodeRec) (s : State) : Host.Outcome State Fault Refusal :=
  vecFloat s r (r.var.toNat % 8) fun k a b _ => fMul (tyFmt r.ty.toNat) k a b
/-- VFMA: one rounding (R199). -/
def execVfma (r : NodeRec) (s : State) : Host.Outcome State Fault Refusal :=
  vecFloat s r (r.var.toNat % 8) fun k a b c => fFma (tyFmt r.ty.toNat) k a b c

/-- Order of two codes with −0 below +0 (R200); none with a NaN. -/
def minMaxOrd (f : Fmt) (a b : Nat) : Option Ordering :=
  let x := f.decode a
  let y := f.decode b
  match FV.cmp x y with
  | some .eq => some (compare y.isNeg.toNat x.isNeg.toNat)
  | o => o

def fMin (f : Fmt) (a b : Nat) : Nat :=
  match minMaxOrd f a b with
  | none => f.nan
  | some .gt => b
  | some _ => a

def fMax (f : Fmt) (a b : Nat) : Nat :=
  match minMaxOrd f a b with
  | none => f.nan
  | some .lt => b
  | some _ => a

/-- VFMIN (R200). -/
def execVfmin (r : NodeRec) (s : State) : Host.Outcome State Fault Refusal :=
  vecFloat s r 0 fun _ a b _ => bare (fMin (tyFmt r.ty.toNat) a b)
/-- VFMAX (R200). -/
def execVfmax (r : NodeRec) (s : State) : Host.Outcome State Fault Refusal :=
  vecFloat s r 0 fun _ a b _ => bare (fMax (tyFmt r.ty.toNat) a b)
/-- VFABS (R200). -/
def execVfabs (r : NodeRec) (s : State) : Host.Outcome State Fault Refusal :=
  let f := tyFmt r.ty.toNat
  vecFloat s r 0 fun _ a _ _ => bare (if f.isNan a then f.nan else a % 2 ^ f.signPos)
/-- VFNEG (R200). -/
def execVfneg (r : NodeRec) (s : State) : Host.Outcome State Fault Refusal :=
  let f := tyFmt r.ty.toNat
  vecFloat s r 0 fun _ a _ _ => bare (if f.isNan a then f.nan else a ^^^ 2 ^ f.signPos)

/-- The relation of VFCMP (R201). -/
def fRel (v : Nat) (o : Option Ordering) : Bool :=
  match o with
  | none => v == 1 || v == 6
  | some x => if v = 6 then false else if v = 7 then true else relHolds v x

/-- VFCMP: a mask (R201). -/
def execVfcmp (r : NodeRec) (s : State) : Host.Outcome State Fault Refusal :=
  let f := tyFmt r.ty.toNat
  let w := laneBits r.ty.toNat
  vecFloat s r 0 fun _ a b _ => bare (if fRel r.var.toNat (FV.cmp (f.decode a) (f.decode b)) then 2 ^ w - 1 else 0)
/-- VFDIV (R149, R199). -/
def execVfdiv (r : NodeRec) (s : State) : Host.Outcome State Fault Refusal :=
  vecFloat s r (r.var.toNat % 8) fun k a b _ => viaF32₂ (tyFmt r.ty.toNat) (fDiv f32 k) a b
/-- VFSQRT (R149, R199). -/
def execVfsqrt (r : NodeRec) (s : State) : Host.Outcome State Fault Refusal :=
  vecFloat s r (r.var.toNat % 8) fun k a _ _ => viaF32 (tyFmt r.ty.toNat) (fSqrt f32 k) a
/-- VFRCP (R149). -/
def execVfrcp (r : NodeRec) (s : State) : Host.Outcome State Fault Refusal :=
  vecFloat s r 0 fun k a _ _ => viaF32 (tyFmt r.ty.toNat) (fRcp f32 k) a
/-- VFRSQ (R149). -/
def execVfrsq (r : NodeRec) (s : State) : Host.Outcome State Fault Refusal :=
  vecFloat s r 0 fun k a _ _ => viaF32 (tyFmt r.ty.toNat) (fRsq f32 k) a
/-- VFEXP2 (R149). -/
def execVfexp2 (r : NodeRec) (s : State) : Host.Outcome State Fault Refusal :=
  vecFloat s r 0 fun k a _ _ => viaF32 (tyFmt r.ty.toNat) (fExp2 f32 k) a
/-- VFLOG2 (R149). -/
def execVflog2 (r : NodeRec) (s : State) : Host.Outcome State Fault Refusal :=
  vecFloat s r 0 fun k a _ _ => viaF32 (tyFmt r.ty.toNat) (fLog2 f32 k) a

/-- The class bit of a lane (R202). -/
def fClass (f : Fmt) (a : Nat) : Nat :=
  match f.decode a with
  | .nan => 8
  | .inf n => if n then 0 else 7
  | .fin n m _ =>
    if m = 0 then (if n then 3 else 4)
    else if m < 2 ^ (f.p - 1) then (if n then 2 else 5)
    else (if n then 1 else 6)

/-- VFCLS (R202). -/
def execVfcls (r : NodeRec) (s : State) : Host.Outcome State Fault Refusal :=
  vecFloat s r 0 fun _ a _ _ => bare (2 ^ fClass (tyFmt r.ty.toNat) a)

/-- A code rounded to an integral value in its own format (R210). -/
def fIntegral (f : Fmt) (mode a : Nat) : Nat :=
  match f.decode a with
  | .nan => f.nan
  | .inf _ => a
  | .fin n m e =>
    if 0 ≤ e ∨ m = 0 then a
    else
      let t := (roundAt mode 0 n m e false 0).1
      (roundFin f ⟨0, 0, true⟩ n t 0 false).code

/-- VRND (R210). -/
def execVrnd (r : NodeRec) (s : State) : Host.Outcome State Fault Refusal :=
  vecFloat s r 0 fun _ a _ _ => bare (fIntegral (tyFmt r.ty.toNat) r.var.toNat a)

/-- The literal operand of SFOP (R209). -/
def sfopLit (s : State) (g : Firing) (r : NodeRec) : Nat :=
  let l := r.lit.toNat
  if l / 2 ^ 7 = 0x1000000 then (s.kReg g.course.toNat g.unit.toNat (l / 8 % 16)).toNat
  else if r.ty.toNat = 8 then l / 8 * 8
  else l / 2 ^ 16

/-- SFOP: one control-plane float, rounded once (R208). -/
def execSfop (r : NodeRec) (s : State) : Host.Outcome State Fault Refusal :=
  let g := s.firing
  let f := tyFmt r.ty.toNat
  let w := tyWidth r.ty.toNat
  let a := argsOf r.ar.toNat g (BitVec.ofNat 512 (sfopLit s g r))
  let k := rounderAt s g (bitsAt r.lit 0 3) true 0
  let x := a.a.word % 2 ^ w
  let y := a.b.word % 2 ^ w
  let z := a.c.word % 2 ^ w
  let q := match r.var.toNat with
    | 0 => fAdd f k x y
    | 1 => fSub f k x y
    | 2 => fMul f k x y
    | 3 => fFma f k x y z
    | 4 => fDiv f k x y
    | 5 => fSqrt f k x
    | 6 => bare (fMin f x y)
    | _ => bare (fMax f x y)
  .next (pureNode s r a false false (word64 q.code) (word64 q.code) q.flags)

end Sys2Proof.Machine
end

