-- ==== Sys2Proof/Machine/Convert.lean ====
section
/-! DEFINITION. Sys2Proof/Machine/Convert.lean: conversions (R146 to R148, R203 to R207). -/

namespace Sys2Proof.Machine

/-- The value of a narrow or wide float lane; e2m1 code 1000 is NaN, for a conversion sees no metadata (R204). -/
def srcVal (t code : Nat) : FV :=
  if t = 13 ∧ code % 16 = 8 then .nan else (tyFmt t).decode (code % 2 ^ tyWidth t)

/-- A value that is NaN or an infinity (R148). -/
def nonFinite (t code : Nat) : Bool := !(tyInt t) && !(srcVal t code).finite

/-- One lane converted (R146, R147, R204): the code in the target's lane, its flags, and whether the target could not
hold the value. -/
def cvtLane (src dst : Nat) (k : Rounder) (code : Nat) : Rounded :=
  if tyInt src then
    let v := intVal src code
    if tyInt dst then
      let q := satInt dst v
      { code := wrapLane dst (if k.sat then q.1 else v), flags := if k.sat then q.2 else 0, ovf := q.2 != 0 }
    else roundFV (tyFmt dst) k (intFV v)
  else if src = dst then
    (if src = 13 then { bare (code % 16) with flags := if code % 16 = 8 then fIV else 0 }
      else if (tyFmt src).isNan code then bare (tyFmt src).nan else bare (code % 2 ^ tyWidth src))
  else if tyInt dst then
    let q := floatToInt dst k (srcVal src code)
    { code := wrapLane dst q.1, flags := q.2.1, ovf := q.2.2 }
  else roundFV (tyFmt dst) k (srcVal src code)

/-- sat of VAR[3] (R131). -/
def varSat (r : NodeRec) : Bool := r.var.toNat / 8 == 0

/-- VCVT (R204). -/
def execVcvt (r : NodeRec) (s : State) : Host.Outcome State Fault Refusal :=
  let g := s.firing
  let src := bitsAt r.lit 8 4
  let dst := r.ty.toNat
  let ws := laneBits src
  let wd := laneBits dst
  .next (dataNode s r fun a =>
    let xs := lanesOf ws a.a.val ++ (if r.ar = 1#3 ∨ r.ar = 3#3 then lanesOf ws a.b.val else [])
      ++ (if r.ar = 3#3 then lanesOf ws a.c.val else [])
    let xs := (xs.take (512 / wd)).zipIdx
    let out := xs.map fun x => (cvtLane src dst (rounderAt s g (r.var.toNat % 8) (varSat r) x.2) x.1, nonFinite src x.1)
    let bad := bitAt r.lit 31 && out.any fun o => o.1.ovf || o.2
    (ofLanes wd (out.map fun o => o.1.code), orFlags (out.map fun o => o.1.flags), bad))

/-- F of R205: the largest finite value of a narrow type. -/
def largestOf (t : Nat) : Nat := if t = 11 then 448 else if t = 12 then 57344 else 6

/-- m × 2^e at least as large. -/
def fvMagLe (a b : Nat × Int) : Bool :=
  let e := if a.2 < b.2 then a.2 else b.2
  decide (a.1 * 2 ^ (a.2 - e).toNat ≤ b.1 * 2 ^ (b.2 - e).toNat)

/-- The automatic scale code of a block (R205). -/
def autoScale (t : Nat) (vs : List FV) : Nat :=
  let m := vs.foldl (fun acc v => match v with
    | .fin _ m e => if fvMagLe acc (m, e) then (m, e) else acc
    | _ => acc) (0, 0)
  if m.1 = 0 then 127
  else
    let f := largestOf t
    let k0 : Int := (bitLen m.1 : Int) + m.2 - (bitLen f : Int)
    let k := if fvMagLe m (f, k0) then k0 else k0 + 1
    let c := 127 + k
    if c < 0 then 0 else if 254 < c then 254 else c.toNat

/-- QCVT: one block quantised; the metadata goes out on D1 on the control plane (R205). -/
def execQcvt (r : NodeRec) (s : State) : Host.Outcome State Fault Refusal :=
  let g := s.firing
  let t := r.ty.toNat
  let a := argsCtl s r g
  let vs := ((lanesOf 32 a.a.val) ++ (lanesOf 32 a.b.val)).map f32.decode
  let s0 := (if r.ar = 3#3 then a.c.word else r.lit.toNat) % 256
  let sc := if s0 = 255 then autoScale t vs else s0
  let out := vs.zipIdx.map fun x =>
    roundFV (tyFmt t) (rounderAt s g (r.var.toNat % 8) (varSat r) x.2) (x.1.scale (127 - (sc : Int)))
  let spare := if out.any (fun o => o.code == 8) then 0x7F else 0
  let metaw := if t = 13 then sc + spare * 256 else sc
  let bad := bitAt r.lit 31 && (vs.any (fun v => !v.finite) || out.any Rounded.ovf)
  .next (pureNode s r a true false (some (ofLanes (laneBits t) (out.map Rounded.code), bad))
    (some (BitVec.ofNat 512 metaw, bad)) (orFlags (out.map Rounded.flags)))

/-- DQCVT: one block dequantised (R206). Under sr the values 16 to 31, which D1's token carries, count as lanes 16 to 31
(notes/assumptions/131.md, DESIGN CHOICE). -/
def execDqcvt (r : NodeRec) (s : State) : Host.Outcome State Fault Refusal :=
  let g := s.firing
  let t := r.ty.toNat
  let src := bitsAt r.lit 8 4
  let a := argsCtl s r g
  let out := (List.range 32).map fun j =>
    let d := (elemVal (tyFmt src) (a.b.word / 256 % 256) (laneAt (laneBits src) a.a.val j)).scaled (a.b.word % 256)
    roundFV (tyFmt t) (rounderAt s g (r.var.toNat % 8) true j) d
  let cs := out.map Rounded.code
  let fl := orFlags (out.map Rounded.flags)
  .next (if t = 8 then
      pureNode s r a true true (some (ofLanes 32 (cs.take 16), false)) (some (ofLanes 32 (cs.drop 16), false)) fl
    else pureNode s r a true true (some (ofLanes 16 cs, false)) (some (ofLanes 16 cs, false)) fl)

/-- FCVT: one control-plane value (R207). -/
def execFcvt (r : NodeRec) (s : State) : Host.Outcome State Fault Refusal :=
  let g := s.firing
  let src := bitsAt r.lit 8 4
  let dst := r.ty.toNat
  .next (ctlNode s r fun a =>
    let q := cvtLane src dst (rounderAt s g (r.var.toNat % 8) (varSat r) 0) (a.a.word % 2 ^ tyWidth src)
    (if tyInt dst then wrap64 dst (intVal dst q.code) else q.code, q.flags))

end Sys2Proof.Machine
end

