-- ==== Sys2Proof/Machine/CrucibleEvents.lean ====
section
/-! DEFINITION. Sys2Proof/Machine/CrucibleEvents.lean: the events of crucibles: arrivals and firings (R250, R251), the start
and the completion of operations (R251 to R254), the pour permits (R261, R452), and the beats of a gate's drain (R271). -/

namespace Sys2Proof.Machine

/-! ### Energy (R425, R452) -/

/-- A context is charged with the measured energy of work done for it. -/
def chargeEnergy (s : State) (cx : Nat) : State :=
  (({ s with fresh := s.fresh + 1 } : State)).modCtx cx fun x => { x with energy := x.energy + Config.measure 2 s.fresh }

/-! ### Arrivals (R250) -/

/-- A handler record of a crucible. -/
def Crucible.record (x : Crucible) (n : Nat) : BitVec 96 := (lkp x.active n).getD 0#96

/-- The plane of a port: the control plane, except port B of MX.GATHER (R249). -/
def cruPlane (w : BitVec 96) (port : Nat) : Bool := recOp w == 0xC1 && port == 1

/-- The checks of R250 on a token for a crucible: the fault of the first that fails. -/
def cruArrivalBad (s : State) (t : Transit) (n : Nat) : Option (Nat × Nat) :=
  let c := t.course.toNat
  let x := s.cru c n
  let node := destNode t.tok.dest
  let port := destPort t.tok.dest
  let w := x.record node
  if !(s.holdsCru t.tok.cx.toNat c n) then some (kTAG, 0)
  else if !x.granted || x.cx != t.tok.cx || t.tok.ft != 0 then some (kTAG, 1)
  else if x.it != t.tok.it then some (kTAG, 2)
  else if recOp w = 0 then some (kEMPTY, 0)
  else if !((arPorts (bitsAt w 77 3)).contains port) then some (kTAG, 12)
  else if t.tok.pl != cruPlane w port then some (kTAG, 4)
  else if (lkp x.slots (node * 4 + port)).isSome then some (kTAG, 3)
  else none

/-- Every port that a record names is present. -/
def cruReady (x : Crucible) (node : Nat) : Bool :=
  (arPorts (bitsAt (x.record node) 77 3)).all fun p => (lkp x.slots (node * 4 + p)).isSome

/-- An operation as a cycle accepts it. -/
def CruOp.accept (p : Pend) (scaled : Bool) (cyc : Nat) : CruOp where
  pend := p
  started := false
  wantPermit := false
  burst := false
  done := false
  poisoned := false
  result := 0
  held := false
  scaled := scaled
  waited := 0
  burstDue := 0
  cyc := cyc

/-- The valid scale word of a firing whose operands are sound: its entry and value. -/
def scaleGiven (p : Pend) : Option (Nat × BitVec 16) :=
  if firingP p.fir then none
  else (if p.op = 0xC4 then some p.fir.aw else if p.op = 0xC3 ∧ p.r.ar = 6#3 then some p.fir.sw else none).bind scaleWord

/-- A scale word of a firing whose entry is absent is written at acceptance, ahead of what has not started, but not of a load that
has started and has yet to write the side (R259). -/
def scaleAtOnce (x : Crucible) (p : Pend) : Option (Nat × BitVec 16) :=
  (scaleGiven p).filter fun e =>
    (lkp x.scales e.1).isNone && !(x.ops.any fun o => o.started && !o.done && (opWrites o.pend).contains (3 + e.1 / 512))

/-- A crucible record fires (R251): its presence bits are cleared and the firing is accepted as one operation, with the linkage
from which its completion takes its tags (R118). MX.QRY, and
an MX.SCALE of an absent entry, act at acceptance; a scale word of an absent entry is written then (R259). Any scale word
accepted starts the wait for scales anew (R260). -/
def fireCru (s : State) (c n node : Nat) : State :=
  let x := s.cru c n
  let port := fun p => lkp x.slots (node * 4 + p)
  let g : Firing := { course := BitVec.ofNat 4 c, unit := BitVec.ofNat 13 (0x1000 + n), node := BitVec.ofNat 6 node, cx := x.cx, ft := 0,
                      it := x.it, a := port 0, b := port 1, c := port 2, s := port 3, skip := false, tags := some (x.link, false, 0) }
  let p : Pend := { word := x.record node, fir := g }
  let at_ := scaleAtOnce x p
  let now := p.op == 0xC8 || (p.op == 0xC4 && at_.isSome)
  let fresh := fun (o : CruOp) => if (scaleGiven p).isSome then { o with waited := 0 } else o
  let s := s.setCru c n
    { x with slots := x.slots.filter (fun e => e.1 / 4 != node), accepted := x.accepted + 1
             scales := match at_ with | some (k, v) => put x.scales k v | none => x.scales
             ops := acceptOp { CruOp.accept p at_.isSome s.cycles with started := now } (x.ops.map fresh) }
  if now then { s with agenda := s.agenda ++ [.fire p] } else s

/-- CRUCIBLE_TOKEN_ARRIVAL (R250, R251): the k-th token in flight, or one sent before it between the same units. -/
def execCrucibleTokenArrival (e : EvArgs) (s : State) : Host.Outcome State Fault Refusal :=
  .next (match pickTransit s e.k.toNat with
    | none => s
    | some t =>
      if s.cycles < t.due || t.stack != s.sideband.stackNo || !(courseUp s t.course.toNat) then s
      else
        match unitKind (destUnit t.tok.dest) with
        | .cru n =>
          let c := t.course.toNat
          let out := { s with transit := s.transit.erase t }
          match cruArrivalBad s t n with
          | some (kind, code) => rejectToken out t kind code
          | none =>
            let node := destNode t.tok.dest
            let out := out.modCru c n fun x => { x with slots := put x.slots (node * 4 + destPort t.tok.dest) t.tok.opnd }
            if cruReady (out.cru c n) node then fireCru out c n node else out
        | _ => s)

/-! ### Operations (R251 to R254) -/

/-- Change the operation at an index. -/
def modOpAt (s : State) (c n i : Nat) (f : CruOp → CruOp) : State :=
  s.modCru c n fun x => { x with ops := x.ops.mapIdx fun j o => if j = i then f o else o }

/-- An operation that has started and waits, for scale entries or a moving buffer, and acts again. -/
def CruOp.stuck (o : CruOp) : Bool := o.started && !o.done && !o.held && !o.wantPermit && !o.burst

/-- What a record of a crucible does when its operation acts. -/
def actCru (p : Pend) (s : State) : Host.Outcome State Fault Refusal :=
  let s := { s with firing := p.fir }
  let r := p.r
  match p.op with
  | 0xC0 => execMxLdb r s
  | 0xC1 => execMxGather r s
  | 0xC2 => execMxLda r s
  | 0xC3 => execMxMma r s
  | 0xC4 => execMxScale r s
  | 0xC5 => execMxDrain r s
  | 0xC6 => execMxZero r s
  | 0xC7 => execMxAddc r s
  | 0xC8 => execMxQry r s
  | _ => .next s

/-- A waiting operation that acts again would change something. -/
def cruWakes (s : State) (p : Pend) : Bool :=
  match actCru p s with
  | .next t => { t with firing := s.firing } != s
  | _ => false

/-- CRUCIBLE_OPERATION_START (R251, R252): the k-th accepted operation of a crucible starts, when none before it excludes
it, or one that waits acts again. `unit` is the crucible. -/
def execCrucibleOperationStart (e : EvArgs) (s : State) : Host.Outcome State Fault Refusal :=
  let c := e.course.toNat
  let n := e.unit.toNat
  let k := e.k.toNat
  let x := s.cru c n
  .next (match x.ops[k]? with
    | none => s
    | some o =>
      if o.stuck then (if s.agenda.contains (.fire o.pend) || !(cruWakes s o.pend) then s else { s with agenda := s.agenda ++ [.fire o.pend] })
      else if (startable x s.cycles x.ops [] 0).contains k then
        let s := modOpAt s c n k fun o => { o with started := true }
        chargeEnergy { s with agenda := s.agenda ++ [.fire o.pend] } o.pend.fir.cx.toNat
      else s)

/-- An operation's completion: its record's value with P = 1 when it was poisoned or dropped (R253). Under RETURN the
crucible frame is then freed (R254). -/
def completeOp (s : State) (c n i : Nat) (o : CruOp) : State :=
  let g := o.pend.fir
  let r := o.pend.r
  let s := s.modCru c n fun x => { x with ops := x.ops.eraseIdx i }
  let s := emitWord (setFlags s g.cx.toNat o.flags) r g o.result.toNat o.poisoned
  if r.tg = 3#2 then freeCru s c n else s

/-- CRUCIBLE_OPERATION_COMPLETE (R252): the k-th operation of a crucible, whose effect is made, sends its completion; one
that frees the frame does when those accepted before it have sent theirs (R251, R254). -/
def execCrucibleOperationComplete (e : EvArgs) (s : State) : Host.Outcome State Fault Refusal :=
  let c := e.course.toNat
  let n := e.unit.toNat
  let k := e.k.toNat
  .next (match (s.cru c n).ops[k]? with
    | some o => if o.done && (o.pend.r.tg != 3#2 || k == 0) then completeOp s c n k o else s
    | none => s)

/-! ### Permits (R261, R451, R452) -/

/-- The crucibles of a course that hold a permit, for a burst or for ballast. -/
def permitsOut (s : State) (c : Nat) : Nat := ((List.range 24).filter fun n => (s.cru c n).permit).length

/-- Those that a context's bursts hold. -/
def permitsOf (s : State) (c : Nat) (cx : BitVec 12) : Nat :=
  ((List.range 24).filter fun n => (s.cru c n).permit && (s.cru c n).burstCx == cx).length

/-- Permits that a context may hold on a course: its free share, and its ceiling (R261, R283, R297). -/
def permitCap (s : State) (cx c : Nat) : Nat :=
  min (s.freeShare cx c 5) (((lkp (s.ctx cx).pceil c).map BitVec.toNat).getD 24)

/-- 2 µs have passed since a change of a course's permits; 0 is no change yet. -/
def changeDue (s : State) (last : Nat) : Bool := last == 0 || decide (last + 2000 ≤ s.tick.toNat)

/-- A crucible has a burst that waits for a permit and may have one. -/
def wantsPermit (s : State) (c n : Nat) : Bool :=
  let x := s.cru c n
  !x.permit && x.ops.any (fun o => o.wantPermit && !o.held) && decide (permitsOf s c x.cx < permitCap s x.cx.toNat c)

/-- A free permit of a course exists, and its rise is due. -/
def permitFree (s : State) (c : Nat) : Bool :=
  decide (permitsOut s c < 3 * (s.crs c).step) && changeDue s (s.crs c).lastRise

/-- Cycles of the burst of an MX.MMA (R261): 24 + ceil(RA × c ÷ s). -/
def burstCycles (x : Crucible) (r : NodeRec) : Nat :=
  let ta := x.aFmt.toNat
  let tb := (mmaBank x r).fmt.toNat
  -- c in halves: ½, 2 or 1; s doubles the divisor
  let c := if ta = 13 ∧ tb = 13 then 1 else if tyNarrow ta ∧ tyNarrow tb then 2 else 4
  let d := if x.aSparse = 0 then 2 else 4
  24 + (x.ra * c + d - 1) / d

/-- The first operation that waits for a permit runs its burst, which ends a stated time later. -/
def startBurst (x : Crucible) (now : Nat) : List CruOp → List CruOp
  | [] => []
  | o :: os => if o.wantPermit then { o with wantPermit := false, burst := true, burstDue := now + burstCycles x o.pend.r } :: os
      else o :: startBurst x now os

/-- PERMIT_HANDOUT (R261): a free permit on its way past crucible k stops at the first crucible downstream that waits. -/
def execPermitHandout (e : EvArgs) (s : State) : Host.Outcome State Fault Refusal :=
  let c := e.course.toNat
  .next (if !(permitFree s c) then s
    else
      match ((List.range 24).map fun i => (e.k.toNat + i) % 24).find? (wantsPermit s c) with
      | none => s
      | some n =>
        let s := s.modCru c n fun x => { x with permit := true, ballast := false, burstCx := x.cx, ops := startBurst x s.cycles x.ops }
        s.modCrs c fun y => { y with lastRise := max 1 s.tick.toNat })

/-- A crucible's permit returns to the ring, or, when the fall is not yet due, stays for ballast (R452). -/
def returnPermit (s : State) (c n : Nat) : State :=
  if changeDue s (s.crs c).lastFall then
    (s.modCru c n fun x => { x with permit := false, ballast := false }).modCrs c fun y => { y with lastFall := max 1 s.tick.toNat }
  else s.modCru c n fun x => { x with ballast := true }

/-- The operation that runs a burst ends: its product is made (R260, R261). -/
def endBurst (s : State) (c n : Nat) : State :=
  let x := s.cru c n
  match x.ops.find? fun o => o.burst with
  | none => s
  | some o =>
    let s := s.setCru c n { mmaApply x o.pend.r with
      ops := x.ops.map fun q => if q.burst then { q with burst := false, done := true, result := 0 } else q }
    returnPermit s c n

/-- BURST_END (R261): the burst of a crucible ends in its cycle and its permit is returned. `unit` is the crucible. -/
def execBurstEnd (e : EvArgs) (s : State) : Host.Outcome State Fault Refusal :=
  let c := e.course.toNat
  let n := e.unit.toNat
  .next (if (s.cru c n).permit && !(s.cru c n).ballast then
      match (s.cru c n).ops.find? fun o => o.burst with
      | some o => if s.cycles < o.burstDue then s else endBurst s c n
      | none => returnPermit s c n
    else s)

/-- PERMIT_FALL_DUE (R452): a crucible that runs ballast returns its permit once the fall is due; its ballast is charged to
the context whose burst held the permit last. -/
def execPermitFallDue (e : EvArgs) (s : State) : Host.Outcome State Fault Refusal :=
  let c := e.course.toNat
  .next (match (List.range 24).find? fun n => (s.cru c n).ballast with
    | none => s
    | some n =>
      if changeDue s (s.crs c).lastFall then returnPermit (chargeEnergy s (s.cru c n).burstCx.toNat) c n else s)

/-! ### Beats of a drain (R271) -/

/-- The pattern of a stream, bound or not. -/
def drainPattern (s : State) (c : Nat) (x : Stream) : Option Pattern :=
  if x.count ≠ 0 then some x.pat
  else (s.planeOf x.pend.fir.cx.toNat c x.pend.fir.unit.toNat).bind fun p => p.pats[gatePat x.pend.r]?

/-- The fate of a token at a gate: the stream context and the beat, or the code that rejects it. -/
def drainFate (s : State) (t : Transit) (b : Nat) : Except Nat (Nat × Nat) :=
  let c := t.course.toNat
  let sc := destNode t.tok.dest
  match lkp (s.bay c b).streams sc with
  | none => .error 10
  | some x =>
    if x.pend.op ≠ 0xB3 ∨ x.pend.fir.cx ≠ t.tok.cx then .error 10
    else if destPort t.tok.dest ≠ 0 then .error 12
    else if !t.tok.pl then .error 4
    else
      let k := (t.tok.it.toNat + 65536 - x.pend.fir.it.toNat) % 65536
      match drainPattern s c x with
      | none => .error 11
      | some pat =>
        if pat.beats ≤ k then .error 11
        else if (lkp x.beats k).isSome then .error 3
        else .ok (sc, k)

/-- GATE_DRAIN_BEAT (R271): the k-th token in flight arrives at a gate. -/
def execGateDrainBeat (e : EvArgs) (s : State) : Host.Outcome State Fault Refusal :=
  .next (match pickTransit s e.k.toNat with
    | none => s
    | some t =>
      if s.cycles < t.due || t.stack != s.sideband.stackNo || !(courseUp s t.course.toNat) then s
      else
        match unitKind (destUnit t.tok.dest) with
        | .gate b =>
          let out := { s with transit := s.transit.erase t }
          match drainFate s t b with
          | .error code => rejectToken out t kTAG code
          | .ok (sc, k) =>
            modStream out t.course.toNat b sc fun x =>
              { x with beats := put x.beats k t.tok.val, poisoned := x.poisoned || t.tok.p }
        | _ => s)

end Sys2Proof.Machine
end

