-- ==== Sys2Proof/Machine/RoomEvents.lean ====
section
/-! DEFINITION. Sys2Proof/Machine/RoomEvents.lean: the events of the bay allocator: the end of a copy in a compaction (R63),
the spill timer (R64, R65), the acknowledgement of an image (R66), the end of a restore (R70). In each event `course` names
the course, `unit` the bay and `k` the pool. -/

namespace Sys2Proof.Machine

/-! ### Compaction (R63) -/

/-- Base and MV of an allocation whose copy has ended. -/
def landAt (s : State) (c b pid : Nat) (id : AllocId) (base : Nat) : State :=
  match id with
  | .frame ft => s.modFrame c b ft.toNat fun f => { f with mv := false, base := BitVec.ofNat 16 base }
  | .buf i => s.modPool c b pid fun p => { p with pmap := p.pmap.map fun e =>
      (e.1, if e.1 = i then { e.2 with mv := false, base := BitVec.ofNat 16 base } else e.2) }

/-- After the last move of a compaction the head is granted (R63). -/
def movedOn (s : State) (c b pid : Nat) : State :=
  match s.pool? c b pid with
  | some q => if q.moving.isEmpty then serveHead s c b pid else s
  | none => s

/-- COMPACTION_MOVE_DONE (R63): the copy in progress ends in its cycle, and the next begins; after the last the head is
granted. -/
def execCompactionMoveDone (e : EvArgs) (s : State) : Host.Outcome State Fault Refusal :=
  let c := e.course.toNat
  let b := e.unit.toNat % 256
  let pid := e.k.toNat % 8
  .next (match s.pool? c b pid with
    | none => s
    | some p =>
      match p.moving with
      | [] => s
      | id :: rest =>
        match allocInfo (s.bay c b) pid id with
        | none => movedOn (beginMove s c b pid rest) c b pid
        | some (base, size, guard, _) =>
          if s.cycles < p.moveDue then s
          else
            let s := guardOf s c b pid id
            let s := moveBytes s c b base p.moveBase (size + guard.toNat)
            let s := landAt s c b pid id p.moveBase
            let s := wakeMoved (dropFreed s c b pid id) c b id
            movedOn (beginMove s c b pid rest) c b pid)

/-! ### Spilling (R64 to R66) -/

/-- S of a pool: 2^(6 + SC) cycles (R50). -/
def Pool.bound (p : Pool) : Nat := 2 ^ (6 + p.sc.toNat)

/-- The spill timer of a pool counts: its head is anchored and short, and no move and no spill is in progress (R64, R71). -/
def timerCounts (s : State) (c b pid : Nat) (p : Pool) : Bool :=
  headShort s c b pid p && p.spilling.isNone && p.moving.isEmpty

/-- SPILL_TIMER_EXPIRY (R64, R65): the youngest victim is spilled, or the timer counts from zero. -/
def execSpillTimerExpiry (e : EvArgs) (s : State) : Host.Outcome State Fault Refusal :=
  let c := e.course.toNat
  let b := e.unit.toNat % 256
  let pid := e.k.toNat % 8
  .next (match s.pool? c b pid with
    | none => s
    | some p => if timerCounts s c b pid p && decide (p.bound ≤ p.timer) then spillNext s c b pid else s)

/-- The bytes of an image after its header, written at its place: the state, or the first page that no longer stands
(R66, R74). -/
def putImage (s : State) (c b pid : Nat) (id : AllocId) (off : Nat) : Except (Nat × XErr) State :=
  let cx := ((s.pool? c b pid).map fun p => p.cx.toNat).getD 0
  let bs := allocBytes s c b pid id
  let at_ := (s.ring cx 0 c).base.toNat + off + 16
  match firstUnmapped s cx at_ (at_ + bs.length - 1) (bs.length / 2 ^ 16 + 2) with
  | some x => .error x
  | none => match ringPut s cx 0 c (off + 16) bs with | .ok s => .ok s | .error e => .error (at_, e)

/-- SP, MV and BASE of a spilled allocation. -/
def spillAt (s : State) (c b pid : Nat) (id : AllocId) (off seq : Nat) : State :=
  match id with
  | .frame ft => s.modFrame c b ft.toNat fun f =>
      { f with sp := true, mv := false, base := BitVec.ofNat 16 (off / 16), image := (off, seq) }
  | .buf i => s.modPool c b pid fun q => { q with pmap := q.pmap.map fun e =>
      (e.1, if e.1 = i then { e.2 with sp := true, mv := false, base := BitVec.ofNat 16 (off / 16), img := off, seq := seq } else e.2) }

/-- SPILL_WRITE_ACK (R66): the victim's room returns to the pool; the head is served, or the next victim goes. A page that
no longer stands holds the spill (R74); the image of a victim that has gone meanwhile is done. A spill that waits for its ring's
course to wake takes its place now (R453). -/
def execSpillWriteAck (e : EvArgs) (s : State) : Host.Outcome State Fault Refusal :=
  let c := e.course.toNat
  let b := e.unit.toNat % 256
  let pid := e.k.toNat % 8
  .next (match s.pool? c b pid with
    | none => s
    | some p =>
      match p.spilling with
      | none => s
      | some (id, off, seq) =>
        if p.spillHeld then s
        else if !p.spillPlaced && (allocInfo (s.bay c b) pid id).isSome then beginSpill s c b pid id
        else if (allocInfo (s.bay c b) pid id).isNone then
          let s := if p.spillPlaced then imageDone s p.cx.toNat c off else s
          let s := s.modPool c b pid fun q => { q with spilling := none, spillPlaced := false }
          spillNext (serveHead s c b pid) c b pid
        else
          let s := guardOf s c b pid id
          match putImage s c b pid id off with
          | .error (x, f) => holdSpill s c b pid id (some (off, seq)) f x 0 0
          | .ok s =>
            let s := spillAt s c b pid id off seq.toNat
            let s := s.modPool c b pid fun q => { q with spilling := none, spillPlaced := false, spills := q.spills + 1,
                                                         spilledForHead := q.spilledForHead || (q.pseudo.isNone && q.anchored) }
            let s := wakeMoved (dropFreed s c b pid id) c b id
            match s.pool? c b pid with
            | none => s
            | some q => if headShort s c b pid q then spillNext s c b pid else serveHead s c b pid)

/-! ### Restoring (R70) -/

/-- The context that an allocation belongs to, and the ring offset of its image. -/
def allocImage (s : State) (c b pid : Nat) (id : AllocId) : Nat × Nat :=
  match id with
  | .frame ft => ((s.frame? c b ft.toNat).map fun f => (f.cx.toNat, f.image.1)).getD (0, 0)
  | .buf i => (((s.pool? c b pid).bind fun p => lkp p.pmap i).map fun e => (e.cx.toNat, e.img)).getD (0, 0)

/-- The allocation is live and spilled. -/
def isSpilled (s : State) (c b pid : Nat) (id : AllocId) : Bool := (spilledOf (s.bay c b) pid).any fun e => e.1 == id

/-- RESTORE_COPY_DONE (R70): SP and MV are cleared, the image is done, and what waited at the bay is delivered. -/
def execRestoreCopyDone (e : EvArgs) (s : State) : Host.Outcome State Fault Refusal :=
  let c := e.course.toNat
  let b := e.unit.toNat % 256
  let pid := e.k.toNat % 8
  .next (match s.pool? c b pid with
    | none => s
    | some p =>
      match p.restoring with
      | [] => s
      | (id, base) :: rest =>
        let s := s.modPool c b pid fun q => { q with restoring := rest }
        if isSpilled s c b pid id then
          let (cx, img) := allocImage s c b pid id
          let s := imageDone (endRestore s c b pid id base) cx c img
          let s := s.modPool c b pid fun q => { q with restores := q.restores + 1 }
          scanPool (wakeMoved (dropFreed s c b pid id) c b id) c b pid
        else scanPool s c b pid)

end Sys2Proof.Machine
end

