-- ==== Sys2Proof/Machine/FaultEvents.lean ====
section
/-! DEFINITION. Sys2Proof/Machine/FaultEvents.lean: the delivery of a fault to its handler (R382, R383) and the verdicts at
their sites (R226, R253, R268, R274, R294, R380, R388). -/

namespace Sys2Proof.Machine

/-! ### Delivery (R382, R383) -/

/-- Faults that waited for room in a holder's table enter it while it has room. -/
def admitAll (s : State) (h : Nat) : State :=
  (List.range (s.faults.filter fun f => f.holder.toNat == h && !f.entered).length).foldl (fun s _ => admitFaults s h) s

/-- Change one entry of the fault tables. -/
def modFault (s : State) (f : FaultEntry) (g : FaultEntry → FaultEntry) : State :=
  { s with faults := s.faults.map fun x => if x == f then g x else x }

/-- A fault is settled with a verdict, 1 to 6 (R384); one that a policy has set stays. -/
def settle (s : State) (f : FaultEntry) (v : Nat) : State :=
  modFault (noteVerdict s f (BitVec.ofNat 3 v)) f fun x =>
    { x with settled := true, answer := none, info := { x.info with verdict := if x.info.verdict = 0 then BitVec.ofNat 3 v else x.info.verdict } }

/-- The next fault of a holder to be delivered: the lowest SEQ. -/
def nextDelivery (s : State) (h : Nat) : Option FaultEntry :=
  s.faults.find? fun f => f.holder.toNat == h && h != 0 && f.entered && !f.delivered && !f.settled

/-- The request for a fault frame: cast-scoped, with the first map of the handler node's block (R382). -/
def faultWaiter (s : State) (f : FaultEntry) (c : Nat) (d : BitVec 21) (m : Nat) : Option Waiter :=
  let u := destUnit d
  (s.mapOf f.holder.toNat c u m).map fun q =>
    { party := .fault f.holder f.info.seq
      pend := { word := 0, fir := { Firing.none with course := BitVec.ofNat 4 c, unit := BitVec.ofNat 13 u, cx := f.holder } }
      size := q.gran, nslots := q.slots, dmask := q.dmask, map := BitVec.ofNat 8 m, cs := true, ovt := 0, uc := 0, guard := false }

/-- FAULT_DELIVERY (R382): the oldest undelivered fault of context `cx` asks for its fault frame, whose grant sends the
fault token. A holder that can no longer take it passes it on (R381). -/
def execFaultDelivery (e : EvArgs) (s : State) : Host.Outcome State Fault Refusal :=
  let h := e.cx.toNat
  .next (
    let s := admitAll s h
    match nextDelivery s h with
    | none => s
    | some f =>
      match s.handlerOf h with
      | none => reflectFault (settle s f 5) h { f.info with verdict := 0 } f.site
      | some (c, b, pid, d, m) =>
        match faultWaiter s f c d m with
        | none => reflectFault (settle s f 5) h { f.info with verdict := 0 } f.site
        | some w =>
          -- what was dropped since the last delivery is counted in this record (R383)
          let s' := modFault s f fun x => { x with delivered := true, info := { x.info with lost := (s.ctx h).lost } }
          joinPool (s'.modCtx h fun x => { x with lost := 0 }) c b pid w)

/-! ### Sites (R380, R388) -/

/-- The course of a site. -/
def Site.course : Site → Option (BitVec 4)
  | .nothing => none
  | .cast c _ _ => some c
  | .home c _ _ => some c
  | .crucible c _ => some c
  | .gate c _ _ => some c
  | .spillLatch c _ _ => some c
  | .heapLatch c => some c
  | .config c _ => some c
  | .token t => some t.course

/-- The origin runs on the site's course, so that a verdict may take effect (R388). -/
def siteRuns (s : State) (f : FaultEntry) : Bool :=
  match f.site.course with
  | none => true
  | some c => ((s.crs c.toNat).holder.map fun h => h == f.info.ocx).getD false

/-- A held fill of a course (R294). -/
def heldFill (s : State) (c : Nat) (p : Pend) : Option Fill := (s.crs c).refill.find? fun x => x.held && x.pend == p

/-- A dropped write's results carry P = 1 (R226). -/
def dropWrite (s : State) (p : Pend) : State :=
  let g := p.fir
  let z : Option Val := some (0#512, true)
  match p.op with
  | 0xA0 | 0xA1 | 0xA7 => emitVals s p.r g false z z
  | 0xAA => emitVals s p.r g false none z
  | 0xA3 => unreserveWords s [p]
  | _ => s

/-- A suspended commit may go on (R226). `skip` drops its write. -/
def resumeHome (s : State) (c b ft : Nat) (skip : Bool) : State :=
  match (s.cast? c b ft).bind Cast.suspended with
  | none => s
  | some p =>
    let s := { s with replay := s.replay.filter fun e => !(e.2 == p) }
    let s := s.modCast c b ft fun k => { k with suspended := none }
    if skip then
      dropWrite (s.modCast c b ft fun k => { k with held := k.held.erase p }) p
    else s

/-- The held operation of a crucible whose record the fault names restarts, or is dropped with P = 1 (R253). Two operations
of one record are never held together, since they exclude each other (opsConflict), and the fault of a frame that has been freed
holds nothing (freeCru). -/
def resumeCru (s : State) (c n : Nat) (node : BitVec 6) (skip : Bool) : State :=
  s.modCru c n fun x =>
    match x.ops.findIdx? fun o => o.held && o.pend.fir.node == node with
    | none => x
    | some i => { x with ops := x.ops.mapIdx fun j o =>
        if j ≠ i then o
        else if skip then { o with held := false, done := true, poisoned := true, result := 0 }
        else { o with held := false, waited := 0 } }

/-- A held stream binds or moves again; a skipped element is left out, and a skipped binding ends the stream (R268,
R274). -/
def resumeGate (s : State) (c b sc : Nat) (pos : Nat) (skip : Bool) : State :=
  match lkp (s.bay c b).streams sc with
  | none => s
  | some x =>
    if !skip then modStream s c b sc fun x => { x with state := if x.count = 0 then 1 else 2 }
    else if x.count = 0 then freeStream (sendLater s x.toks 0 true) c b sc
    else
      modStream s c b sc fun x =>
        let x := { x with state := 2, poisoned := true, skipped := x.skipped ++ [pos] }
        match x.pend.op with
        | 0xB2 => x
        | 0xB3 => { x with doneEls := x.doneEls ++ [pos] }
        | _ => { x with pos := x.pos + 1 }

/-- A held spill is tried again, one whose place in the ring is taken from there (R73, R74). -/
def resumeSpill (s : State) (c b pid : Nat) : State :=
  match s.pool? c b pid with
  | none => s
  | some p =>
    match p.spilling with
    | some (id, _, _) =>
      if !p.spillHeld then s
      else if p.spillPlaced then s.modPool c b pid fun q => { q with spillHeld := false }
      else beginSpill s c b pid id
    | none => s

/-- A held eviction of a heap is tried again, the one of a revocation too, or given up, and the reservations of every context go
on (R370, R388, R418). -/
def resumeHeap (s : State) (cx c : Nat) (again : Bool) : State :=
  let s := modHeap s c fun h => { h with held := false }
  let s := if again then evictOver cx c 4097 s else s
  endTest (openWaits s cx c) cx

/-- A held fill starts again, or its result is sent with P = 1 and the shadow banks stay empty (R294). -/
def resumeFill (s : State) (c : Nat) (p : Pend) (skip : Bool) : State :=
  match heldFill s c p with
  | none => s
  | some f =>
    let s := s.modCrs c fun y => { y with refill := y.refill.erase f }
    if skip then (sendLater s f.toks (f.pend.fir.b.getD (plain 0)).word true).modCrs c fun y => { y with shadow := .none }
    else beginFill s c { f with held := false }

/-- RETRY or SKIP at a site (R388). -/
def resumeSite (s : State) (f : FaultEntry) (skip : Bool) : State :=
  match f.site with
  | .nothing => s
  | .cast c b ft => refireCast s c.toNat b.toNat ft.toNat (if skip then some (f.info.unit, f.info.node) else none)
  | .home c b ft => resumeHome s c.toNat b.toNat ft.toNat skip
  | .crucible c n => resumeCru s c.toNat n.toNat f.info.node skip
  | .gate c b sc => resumeGate s c.toNat b.toNat sc.toNat f.info.pos.toNat skip
  | .spillLatch c b pid => resumeSpill s c.toNat b.toNat pid.toNat
  | .heapLatch c => resumeHeap s f.info.ocx.toNat c.toNat true
  | .config c p => resumeFill s c.toNat p skip
  | .token t => if skip then s else { s with transit := s.transit ++ [t] }

/-- What KILL_STRAND ends at its site besides the strand's frames (R253, R274, R388). -/
def killSite (s : State) (f : FaultEntry) : State :=
  match f.site with
  | .crucible c n =>
    -- the frame went with its strand, unless the strand of its linkage has changed hands meanwhile
    if (s.cru c.toNat n.toNat).ops.any fun o => o.held && o.pend.fir.node == f.info.node && o.pend.fir.it == f.info.it
      && o.pend.fir.cx == f.info.ocx then freeCru s c.toNat n.toNat else s
  | .gate c b sc => freeStream (withdrawBay s c.toNat b.toNat fun w => w.party == .stream sc.toNat) c.toNat b.toNat sc.toNat
  | .spillLatch c b pid => abandonSpill s c.toNat b.toNat pid.toNat
  | .heapLatch c => resumeHeap s f.info.ocx.toNat c.toNat false
  | .config c p =>
    match heldFill s c.toNat p with
    | some x => s.modCrs c.toNat fun y => { y with refill := y.refill.erase x }
    | none => s
  | _ => s

/-- A verdict acts on its site (R388): RETRY 0, SKIP 1, KILL_STRAND 2, KILL_CONTEXT 3, REFLECT 4. -/
def applyVerdict (s : State) (f : FaultEntry) (v : Nat) : State :=
  let h := f.holder.toNat
  let s := settle s f (v + 1)
  let s := match v with
    | 0 => resumeSite s f false
    | 1 => resumeSite s f true
    | 2 => killSite (killStrand s f.info.ocx.toNat f.info.str.toNat) f
    | 3 => killContext s f.info.ocx.toNat
    | _ => reflectFault s h { f.info with verdict := 0 } f.site
  admitAll s h

/-- The firmware's answer to a fault that reached it: SKIP for a soft record or a notice, else KILL_CONTEXT of the origin
(R381). -/
def firmwareAnswer (f : FaultEntry) : Nat := if f.info.soft then 1 else 3

/-- The verdict that a fault waits to feel: the firmware's, or the one sent. -/
def pendingAnswer (f : FaultEntry) : Option Nat :=
  if f.settled || !f.entered then none
  else if f.holder = 0 then some (firmwareAnswer f)
  else f.answer.map BitVec.toNat

/-- The held fill of a CONFIG site may send its result (R279). -/
def fillSends (s : State) (f : FaultEntry) : Bool :=
  match f.site with
  | .config c p => ((heldFill s c.toNat p).map Fill.ready).getD true
  | _ => true

/-- A verdict may take effect now. -/
def answerDue (s : State) (f : FaultEntry) : Bool :=
  match pendingAnswer f with
  | none => false
  | some v => (f.holder == 0 || siteRuns s f) && (v != 1 || fillSends s f)

/-- VERDICT_APPLY (R388): the k-th verdict that is due reaches its site. With none due, the policies that wait for no
commit act (R387). -/
def execVerdictApply (e : EvArgs) (s : State) : Host.Outcome State Fault Refusal :=
  .next (match (s.faults.filter (answerDue s))[e.k.toNat]? with
    | some f =>
      match pendingAnswer f with
      | some v => applyVerdict s f v
      | none => s
    | none =>
      let free := fun (d : Doom) => d.place.isNone
      runDooms { s with dooms := s.dooms.filter fun d => !(free d) } (s.dooms.filter free))

end Sys2Proof.Machine
end

