-- ==== Sys2Proof/Machine/Slices.lean ====
section
/-! DEFINITION. Sys2Proof/Machine/Slices.lean: slices, contenders and passes (R421 to R424), sweeps, freezes and resumption
(R426 to R430), the fill of shadow banks (R294), and the Plate's work after a commit: CFG.FLIP, CTX.REVOKE and CTX.STOP
(R286, R295, R418, R420). -/

namespace Sys2Proof.Machine

/-! ### Contenders (R421) -/

/-- The kernel of a context that waits for nothing but its slices (R356, R357). -/
def sliceHead (s : State) (cx : Nat) : Option Kernel :=
  match s.kernels.find? fun k => k.cx.toNat == cx && k.state == .selected with
  | some k => some k
  | none => firstByPrio ((s.heads cx).filter (headDue s))

/-- A kernel is on a course. -/
def kernelOn (s : State) (k : Kernel) (c : Nat) : Bool := ((s.kernelPlane k).map fun p => p.onCourse c).getD false

/-- A handler of a context has work on a course: a cast in a fault frame, or a fault token that waits for its frame or is on
its way (R421). -/
def handlerWork (s : State) (cx c : Nat) : Bool :=
  (s.bays.any fun y => y.1 / 256 == c &&
      ((y.2.frames.any fun f => f.2.cx.toNat == cx && f.2.faultSeq.isSome && f.2.cast.isSome)
        || y.2.pools.any fun p => p.2.waiters.any fun w => match w.party with | .fault x _ => x.toNat == cx | _ => false))
    || (s.transit.any fun t => t.tok.cx.toNat == cx && t.course.toNat == c && t.sUnit == 0x1FFF#13)
    || ((nextDelivery s cx).isSome && ((s.handlerOf cx).map fun h => h.1 == c).getD false)

/-- A context contends for its own time on a course. -/
def ownContends (s : State) (cx c : Nat) : Bool :=
  (s.kernels.any fun k => k.cx.toNat == cx && k.live && kernelOn s k c)
    || (match sliceHead s cx with
        | some k => kernelOn s k c && (match s.kernelPlane k with | some p => unitsFree s k p | none => false)
        | none => false)
    || handlerWork s cx c

/-- The children of a context. -/
def State.children (s : State) (cx : Nat) : List Nat := (s.ctxs.filter fun e => e.1 != 0 && e.2.parent.toNat == cx).map Prod.fst

/-- A child may receive slices: it is runnable, its quantum is above 0, and it has not migrated (R431). -/
def mayRun (s : State) (cx : Nat) : Bool :=
  (s.ctx cx).runnable && decide (0 < (s.ctx cx).quantum.toNat) && !(s.migrated.any fun m => m.1.toNat == cx)

/-- A context has a contender on a course, its own or a child's; `fuel` bounds the depth. -/
def contends (s : State) (c : Nat) : Nat → Nat → Bool
  | 0, cx => ownContends s cx c
  | fuel + 1, cx => ownContends s cx c || (s.children cx).any fun x => mayRun s x && contends s c fuel x

/-- The contenders of a context on a course: itself, and its children. -/
def contenders (s : State) (c p : Nat) : List Nat :=
  (if ownContends s p c then [p] else []) ++ (s.children p).filter fun x => mayRun s x && contends s c 7 x

/-- A context and every ancestor below context 0 may run, and it contends for itself. -/
def stillContends (s : State) (c cx : Nat) : Bool := ownContends s cx c && (s.chain cx).all (mayRun s)

/-! ### Passes (R422, R423) -/

/-- Key of a pass: as a contender under its parent, or under itself. -/
def passKey (p x c : Nat) : Nat := if p = x then 16 + c else c

def passOf (s : State) (p x c : Nat) : Option (BitVec 64) := lkp (s.ctx x).pass (passKey p x c)
def setPass (s : State) (p x c : Nat) (v : BitVec 64) : State :=
  s.modCtx x fun y => { y with pass := put y.pass (passKey p x c) v }
def dropPass (s : State) (p x c : Nat) : State := s.modCtx x fun y => { y with pass := del y.pass (passKey p x c) }

/-- A contender of a context runs on a course: the holder is it, or below it. -/
def runsOn (s : State) (p x c : Nat) : Bool :=
  match (s.crs c).holder with
  | some h => if p = x then h.toNat == p else s.inSubtree x h.toNat
  | none => false

/-- Contenders of one context that join take the lowest pass of those waiting; those that have left lose theirs (R422). -/
def joinPasses (s : State) (c p : Nat) : State :=
  let cs := contenders s c p
  let s := ((p :: s.children p).filter fun x => !(cs.contains x) && (passOf s p x c).isSome).foldl (fun s x => dropPass s p x c) s
  let waiting := (cs.filter fun x => !(runsOn s p x c)).filterMap fun x => passOf s p x c
  let low := waiting.foldl (fun m v => match m with | none => some v | some (w : BitVec 64) => some (if v < w then v else w)) none
  (cs.filter fun x => (passOf s p x c).isNone).foldl (fun s x => setPass s p x c (low.getD 0)) s

/-- Passes of every context on every course. -/
def renewPasses (s : State) : State :=
  (List.range 16).foldl (fun s c => (s.ctxs.map Prod.fst).foldl (fun s p => joinPasses s c p) s) s

/-- The contender that a context gives the course to: the lowest pass, ties to the lower number; one of weight 0 only when
none of nonzero weight waits (R422, R423). -/
def bestContender (s : State) (c p : Nat) : Option Nat :=
  let cs := contenders s c p
  let nz := cs.filter fun x => (s.ctx x).weight != 0
  (if nz.isEmpty then cs else nz).foldl (fun m x => match m with
    | none => some x
    | some y =>
      let px := ((passOf s p x c).getD 0).toNat
      let py := ((passOf s p y c).getD 0).toNat
      if px < py ∨ (px = py ∧ x < y) then some x else some y) none

/-- The context that receives the next slice of a course, down the tree from a context. -/
def pickHolder (s : State) (c : Nat) : Nat → Nat → Option Nat
  | 0, p => if ownContends s p c then some p else none
  | fuel + 1, p =>
    match bestContender s c p with
    | none => none
    | some x => if x = p then some p else pickHolder s c fuel x

/-- A slice raises its holder's pass at every level by t × 2^16 ÷ weight (R422). -/
def chargeSlice (s : State) (c cx t : Nat) : State :=
  let raise := fun (s : State) (p x : Nat) =>
    let w := (s.ctx x).weight.toNat
    if w = 0 then s else setPass s p x c (((passOf s p x c).getD 0) + BitVec.ofNat 64 (t * 2 ^ 16 / w))
  (s.chain cx).foldl (fun s x => raise s (s.ctx x).parent.toNat x) (raise s cx cx)

/-! ### The slice (R421, R424) -/

/-- The effective quantum in ns (R424). -/
def effQuantum (s : State) (cx : Nat) : Nat := max (s.ctx cx).quantum.toNat (s.ctx cx).floor

/-- A contender of weight 0, the holder or one of its ancestors, has the course while one of nonzero weight waits beside it
(R423). -/
def outweighed (s : State) (c cx : Nat) : Bool :=
  let beside := fun (p x : Nat) => (s.ctx x).weight == 0 && (contenders s c p).any fun y => y != x && (s.ctx y).weight != 0
  beside cx cx || (s.chain cx).any fun x => beside (s.ctx x).parent.toNat x

/-- A slice is over: its quantum has passed, its holder no longer contends, or, at weight 0, another of nonzero weight waits
(R421, R423). The firmware's slice has no quantum. -/
def sliceOver (s : State) (c cx : Nat) : Bool :=
  (cx != 0 && decide ((s.crs c).sliceEnd ≤ s.tick.toNat)) || !(stillContends s c cx) || outweighed s c cx

/-- A slice begins: the injections that the context's casts on the course still wait for are made (R361). -/
def startSlice (s : State) (c cx : Nat) : State :=
  injectOwed (s.modCrs c fun y =>
    { y with holder := some (BitVec.ofNat 12 cx), sweeping := none, sliceStart := s.tick.toNat, sliceEnd := s.tick.toNat + effQuantum s cx }) c cx

/-- A pre-emption discards a context's fills and a complete fill not yet flipped; they are made again at its next slice (R294,
R426 step 1, R430). The former plane that a flip left is no fill: it stands there again as it is (R295, R429). -/
def discardFills (s : State) (c : Nat) (cx : BitVec 12) : State :=
  s.modCrs c fun y =>
    let whole : List Fill := match y.shadow with
      | .complete x p _ => if x = cx ∧ y.former = false then
          [{ cx := cx, plane := p, pend := { word := 0, fir := { Firing.none with course := BitVec.ofNat 4 c, cx := cx } }, toks := [],
             str := 0, ready := true, held := false }] else []
      | .none => []
    let now := match y.fill with | some f => if f.cx = cx then [f] else [] | none => []
    { y with former := false
             kept := match y.shadow with | .complete x p i => if x = cx ∧ y.former = true then y.kept ++ [(x, p, i)] else y.kept | .none => y.kept
             refill := y.refill ++ whole ++ now ++ y.fillNext.filter fun f => f.cx == cx
             shadow := match y.shadow with | .complete x p i => if x = cx then .none else .complete x p i | .none => .none
             fill := match y.fill with | some f => if f.cx = cx then none else some f | none => none
             fillNext := y.fillNext.filter fun f => f.cx != cx }

/-- Another contender waits for a course (R421), and takes part (R423). -/
def othersWait (s : State) (c cx : Nat) : Bool :=
  s.ctxs.any fun e => e.1 != cx && stillContends s c e.1 && !(outweighed s c e.1)

/-- The shadow banks of the elements and crucibles on which the next holder places nodes take its saved configuration (R426
step 1). A crucible that it holds keeps its configuration in place while another context has the course. -/
def fillNextHolder (s : State) (c cx : Nat) : State :=
  let s := (s.saved.filter fun v => v.cx.toNat == cx && v.course.toNat == c).foldl
    (fun s v => s.modElem c v.el fun x => { x with shadow := v.bank }) s
  ((s.crucibles.filter fun e => e.1 / 32 == c && s.holdsCru cx c (e.1 % 32)).map fun e => e.1 % 32).foldl
    (fun s n => s.modCru c n fun x => { x with shadow := x.active }) s

/-- A sweep of the holder begins: its fills are discarded, and the shadow banks are filled for the next holder (R426 step 1). -/
def beginSweep (s : State) (c : Nat) (h : BitVec 12) : State :=
  let next := pickHolder s c 8 0
  let s := fillNextHolder (discardFills s c h) c (next.getD 0)
  s.modCrs c fun y => { y with sweeping := some (h, s.tick.toNat, BitVec.ofNat 12 (next.getD 0)), next := next.map (BitVec.ofNat 12) }

/-- SLICE_END (R421): a slice that is over ends. With no other contender waiting the holder keeps the course for a new slice;
otherwise its sweep begins, after which the course passes to the next contender, if there is one. -/
def execSliceEnd (e : EvArgs) (s : State) : Host.Outcome State Fault Refusal :=
  let c := e.course.toNat
  let y := s.crs c
  .next (match y.holder, y.sweeping with
    | some h, none =>
      let cx := h.toNat
      if sliceOver s c cx then
        let s' := chargeSlice s c cx (s.tick.toNat - y.sliceStart)
        if stillContends s' c cx && !(othersWait s' c cx) then startSlice s' c cx else beginSweep s' c h
      else s
    | _, _ => s)

/-! ### Sweep and freeze (R426 to R428) -/

/-- Tokens of a context sent within a course, still in its links. -/
def linkTokens (s : State) (c : Nat) (cx : BitVec 12) : List Transit :=
  s.transit.filter fun t => t.tok.cx == cx && t.course.toNat == c && t.sCourse.toNat == c && t.stack == s.sideband.stackNo
    && t.sStack == s.sideband.stackNo && decide (t.sUnit.toNat < 0x1000)

/-- A record of a context is issuing on a course: its access waits for a walk (R317). -/
def issuingOn (s : State) (c : Nat) (cx : BitVec 12) : Bool := (s.crs c).walks.any fun w => w.users.any fun p => p.fir.cx == cx

/-- A context's configuration, ready queue and pending store of an element go to its save area (R364, R426 step 5). -/
def saveElement (s : State) (c el : Nat) (cx : BitVec 12) : State :=
  let x := s.elem c el
  let mine := fun (r : Ready) => r.cx == cx
  let owns := (s.loadedAt cx.toNat c el).isSome
  if (s.savedAt cx.toNat c el).isSome || !(owns || x.ready.any mine || x.pending.any mine || x.late.any mine) then s
  else
    let rest := fun (l : List Ready) => l.filter fun r => !(mine r)
    let v : Saved := { cx := cx, course := BitVec.ofNat 4 c, el := el, bank := x.active, k := x.k, ready := x.ready.filter mine,
                       pending := x.pending.filter mine, late := x.late.filter mine }
    let s := s.setElem c el { x with ready := rest x.ready, pending := rest x.pending, late := rest x.late }
    drainInput c el (x.input.length + 1) { s with saved := s.saved ++ [v] }

/-- Every element of a course is swept for a context, in one step (notes/assumptions/120.md). -/
def saveCourse (s : State) (c : Nat) (cx : BitVec 12) : State :=
  ((s.elements.filter fun e => e.1 / 8192 == c).map fun e => e.1 % 8192).foldl (fun s el => saveElement s c el cx) s

/-- The sweep or freeze is complete: the save time is kept, and the course is free for the next holder (R424, R426). -/
def endSweep (s : State) (c : Nat) (cx : BitVec 12) (start : Nat) : State :=
  let s := saveCourse s c cx
  let s := s.modCtx cx.toNat fun x => { x with saveTime := max x.saveTime (s.tick.toNat - start) }
  s.modCrs c fun y => { y with sweeping := none, holder := none }

/-- SWEEP (R426, R427): no node of the context is issuing and its tokens sent within the course have arrived. -/
def execSweep (e : EvArgs) (s : State) : Host.Outcome State Fault Refusal :=
  let c := e.course.toNat
  .next (match (s.crs c).sweeping with
    | none => s
    | some (cx, start, _) => if (linkTokens s c cx).isEmpty && !(issuingOn s c cx) then endSweep s c cx start else s)

/-- FREEZE (R428): a sweep that is not complete when the context's floor has passed scans out what is left. -/
def execFreeze (e : EvArgs) (s : State) : Host.Outcome State Fault Refusal :=
  let c := e.course.toNat
  .next (match (s.crs c).sweeping with
    | none => s
    | some (cx, start, _) =>
      if start + (s.ctx cx.toNat).floor ≤ s.tick.toNat then
        let ts := linkTokens s c cx
        let s := { s with transit := s.transit.filter fun t => !(ts.contains t) }
        endSweep (s.modCrs c fun y => { y with frozen := y.frozen ++ ts }) c cx start
      else s)

/-! ### Resumption (R429, R430) -/

/-- A context's saved element comes back: its configuration, by an exchange of banks, its ready queue, then its pending completions
by R33. -/
def loadElement (s : State) (c : Nat) (v : Saved) : State :=
  s.modElem c v.el fun x =>
    refillReady 64 { x with active := v.bank, shadow := x.active, k := v.k, ready := v.ready ++ x.ready, pending := x.pending ++ v.pending, late := x.late ++ v.late }

/-- Shadow banks of a course as a plane fills them. -/
def fillBanks (s : State) (c : Nat) (p : Plane) : State :=
  let s := ((s.elements.filter fun e => e.1 / 8192 == c).map fun e => e.1 % 8192).foldl (fun s el => s.modElem c el fun x => { x with shadow := Bank.empty }) s
  let s := ((s.crucibles.filter fun e => e.1 / 32 == c).map fun e => e.1 % 32).foldl (fun s n => s.modCru c n fun x => { x with shadow := [] }) s
  (p.units.filter fun u => u.course == c).foldl (fun s u =>
    if u.crucible then s.modCru c u.x fun x => { x with shadow := u.bank.recs }
    else s.modElem c (u.y * 64 + u.x) fun x => { x with shadow := u.bank }) s

/-- The saved configuration of a context on a course, and what its freeze captured. -/
def loadCourse (s : State) (c cx : Nat) : State :=
  let mine := fun (v : Saved) => v.cx.toNat == cx && v.course.toNat == c
  let vs := s.saved.filter mine
  let s := vs.foldl (fun s v => loadElement s c v) { s with saved := s.saved.filter fun v => !(mine v) }
  let y := s.crs c
  let back := y.frozen.filter fun t => t.tok.cx.toNat == cx
  let again := y.refill.filter fun f => f.cx.toNat == cx && !f.held
  let s := { s with transit := back ++ s.transit }
  let old := if again.isEmpty then y.kept.find? fun k => k.1.toNat == cx else none
  let s := match old with | some k => fillBanks s c k.2.2 | none => s
  s.modCrs c fun y =>
    { y with exchanged := s.beat + 1, next := none
             former := old.isSome, kept := y.kept.filter fun k => k.1.toNat != cx
             frozen := y.frozen.filter fun t => t.tok.cx.toNat != cx
             refill := y.refill.filter fun f => !(f.cx.toNat == cx && !f.held)
             shadow := match old with | some k => .complete k.1 k.2.1 k.2.2 | none => .none
             fill := again.head?, fillNext := again.drop 1 }

/-- The context that a free course goes to: the one chosen when the sweep began, while it still contends, else the one that the
tree of contexts gives it to (R421, R426). -/
def nextHolder (s : State) (c : Nat) : Option Nat :=
  match (s.crs c).next with
  | some n => if stillContends s c n.toNat then some n.toNat else pickHolder s c 8 0
  | none => pickHolder s c 8 0

/-- SLICE_RESUME (R421, R429): a free course goes to its next holder, in a beat without another exchange of banks (R430). -/
def execSliceResume (e : EvArgs) (s : State) : Host.Outcome State Fault Refusal :=
  let c := e.course.toNat
  let y := s.crs c
  .next (if y.holder.isSome || y.sweeping.isSome || !(courseUp s c) || y.exchanged == s.beat + 1 then s
    else
      match nextHolder s c with
      | some cx => startSlice (loadCourse s c cx) c cx
      | none => s)

/-! ### Layout (R294, R295) -/

/-- A frame of a context on a course is laid out differently by a new plane (R295 step 3). -/
def frameBreaks (s : State) (cx c : Nat) (new : Plane) : Bool := layoutBreaks s c new fun l => l.cx.toNat == cx

/-- The plane that a context's CFG.FLIP on a course replaces: that of the flipping unit. -/
def formerPlane (s : State) (g : Firing) : Option Loaded := s.loadedAt g.cx.toNat g.course.toNat g.unit.toNat

/-- Bays of a course in which either plane declares pools. -/
def poolBaysOn (c : Nat) (old new : Plane) : List (Nat × Nat) := ((old.pools ++ new.pools).filter fun q => q.course == c).map (fun q => (c, q.bay)) |>.eraseDups

/-- The pools of a course under a new plane: none when one that differs is occupied (R295 step 4). -/
def flipPools (s : State) (cx c : Nat) (old new : Plane) : Option State :=
  dropPools s cx { new with pools := new.pools.filter fun q => q.course == c } (fun c b pid => (old.poolAt c b pid).isNone) (poolBaysOn c old new)

/-- The planes of a context active on a course, as one list of pools. -/
def activePools (s : State) (cx c : Nat) : Plane :=
  match (s.crs c).loaded.filter fun l => l.cx.toNat == cx with
  | [] => default
  | l :: ls => { l.info with pools := (l :: ls).flatMap fun x => x.info.pools }

/-- Pools that a flip on a course leaves in force: those that no active plane there declares. -/
def unflipped (s : State) (cx c : Nat) (c' b pid : Nat) : Bool := ((activePools s cx c).poolAt c' b pid).isNone

/-! ### The end of a fill (R294) -/

/-- The next fill of a course begins. -/
def nextFill (s : State) (c : Nat) : State :=
  s.modCrs c fun y =>
    match y.fillNext with
    | f :: fs => { y with fill := some f, fillNext := fs, shadow := .none, former := false }
    | [] => { y with fill := none }

/-- A fill faults and is discarded: its record is of site CONFIG and names its CFG.LOAD, or what validation rejects (R132,
R294). -/
def failFill (s : State) (c : Nat) (f : Fill) (kind code : Nat) (bad : Option Illegal) : State :=
  let s := (nextFill s c).modCrs c fun y => { y with refill := y.refill ++ [{ f with held := true }], shadow := .none, former := false }
  let rc := { recOf s f.pend.fir kind sCONFIG code false with str := f.str, course := BitVec.ofNat 4 c }
  let rc := match bad with
    | some x =>
      if x.isPool then { rc with course := BitVec.ofNat 4 x.course, bay := BitVec.ofNat 8 x.bay, unit := 0, node := BitVec.ofNat 6 x.pool }
      else { rc with course := BitVec.ofNat 4 x.course, bay := if x.unit < 0x1000 then BitVec.ofNat 8 (elBay x.unit) else 0, unit := BitVec.ofNat 13 x.unit, node := BitVec.ofNat 6 x.node }
    | none => rc
  fileFault s f.cx.toNat (s.inFaultFrame f.pend.fir) rc (.config (BitVec.ofNat 4 c) f.pend)

/-- CFG_FILL_COMPLETE (R294): the fill in progress on a course of the context that holds it ends. -/
def execCfgFillComplete (e : EvArgs) (s : State) : Host.Outcome State Fault Refusal :=
  let c := e.course.toNat
  let y := s.crs c
  .next (match y.fill with
    | none => s
    | some f =>
      let cx := f.cx.toNat
      if !f.ready || y.sweeping.isSome || y.holder != some f.cx then s
      else
        match lkp s.planes f.plane.toNat with
        | none => failFill s c f kCFGFETCH 0 none
        | some p =>
          if p.damaged then failFill s c f kCFGFETCH 1 none
          else
            match p.validateOn s.sideband.stackNo.toNat (· == c) (poolClash s cx p (unflipped s cx c)) with
            | some x => failFill s c f kCFGILL x.code (some x)
            | none =>
              if frameBreaks s cx c p || (flipPools s cx c (activePools s cx c) p).isNone then failFill s c f kLAYOUT 0 none
              else
                let s := (fillBanks s c p).modCrs c fun y => { y with shadow := .complete f.cx f.plane p, former := false }
                let s := sendLater s f.toks (f.pend.fir.b.getD (plain 0)).word false
                if (s.crs c).fillNext.isEmpty then s.modCrs c fun y => { y with fill := none } else nextFill s c)

/-! ### CFG.FLIP (R295) -/

/-- A unit's banks change roles. -/
def swapBanks (x : Element) : Element := { x with active := x.shadow, shadow := x.active }

/-- The units of a course that a context holds exchange their banks (R295 step 5). -/
def swapUnits (s : State) (cx c : Nat) : State :=
  let s := ((s.elements.filter fun e => e.1 / 8192 == c && s.holdsBay cx c (elBay (e.1 % 8192))).map fun e => e.1 % 8192).foldl
    (fun s el => s.modElem c el swapBanks) s
  ((s.crucibles.filter fun e => e.1 / 32 == c && s.holdsCru cx c (e.1 % 32)).map fun e => e.1 % 32).foldl
    (fun s n => s.modCru c n fun x => { x with active := x.shadow, shadow := x.active }) s

/-- The block of a new plane that stands for one of a context's active planes. -/
def newBlock (s : State) (cx c : Nat) (plane : BitVec 16) (new : Plane) (blk : Nat) : Nat :=
  match (s.blockAt cx c blk).bind new.sameBlock with
  | some i => plane.toNat * 2 ^ 17 + i
  | none => blk

/-- Blocks of the casts and waiting lists of a context's frames on a course, as the new plane numbers them. -/
def renumber (s : State) (cx c : Nat) (plane : BitVec 16) (new : Plane) : State :=
  let nb := newBlock s cx c plane new
  { s with bays := s.bays.map fun y =>
      if y.1 / 256 = c then
        (y.1, { y.2 with frames := y.2.frames.map fun f =>
          (f.1, if f.2.cx.toNat = cx then
              { f.2 with waiting := f.2.waiting.map fun w => (nb w.1, w.2), cast := f.2.cast.map fun k => { k with block := nb k.block } }
            else f.2) })
      else y }

/-- The units of a kernel after a flip of its context on a course: those of the new plane there, for the kernel that flips, and
none for another (R358). -/
def Kernel.afterFlip (k : Kernel) (c : Nat) (new : Plane) (own : Bool) : Kernel :=
  match k.info with
  | none => k
  | some p =>
    let q : Plane := { p with
      units := p.units.filter (fun u => u.course != c) ++ (if own then new.units.filter fun u => u.course == c else [])
      pools := p.pools.filter (fun u => u.course != c) ++ (if own then new.pools.filter fun u => u.course == c else []) }
    { k with info := some q, heap := q.isHeap }

/-- Steps 3 to 5 of R295: LAYOUT, or the exchange. -/
def flipNow (s : State) (g : Firing) : State :=
  let cx := g.cx.toNat
  let c := g.course.toNat
  let layout := fun (s : State) => softRec s (recOf s g kLAYOUT sRECORD 0 true) false none
  match shadowOf s cx c with
  -- the fill that a sweep discarded could not be made again (notes/assumptions/134.md, DESIGN CHOICE)
  | none => softRec s (recOf s g kCFGFETCH sRECORD 3 true) false none
  | some (plane, new) =>
    if frameBreaks s cx c new then layout s
    else
      match flipPools s cx c (activePools s cx c) new with
      | none => layout s
      | some s =>
        let s := renumber s cx c plane new
        let old := formerPlane s g
        let serial := (old.map Loaded.serial).getD 0
        let s := swapUnits s cx c
        let s := { s with kernels := s.kernels.map fun (k : Kernel) =>
          if k.cx == g.cx && k.live then k.afterFlip c new (k.serial == serial) else k }
        s.modCrs c fun y =>
          { y with exchanged := s.beat + 1, former := old.isSome
                   loaded := { cx := g.cx, plane := plane, serial := serial, info := new } :: y.loaded.filter fun l => l.cx != g.cx
                   shadow := match old with | some l => .complete g.cx l.plane l.info | none => .none }

/-- Step 2 of R295 is over: the context holds the course, a fill that a sweep discarded meanwhile is made again, no token of it is
on its way to a unit there, and the exchange of its slice fell in an earlier beat (R430). -/
def flipDue (s : State) (g : Firing) : Bool :=
  let c := g.course.toNat
  (s.crs c).holder == some g.cx && !(filling s g.cx.toNat c) && (s.crs c).sweeping.isNone && (s.crs c).exchanged != s.beat + 1 && s.transit.all fun t => !(t.tok.cx == g.cx && t.course == g.course)

/-! ### Work of the Plate after a commit -/

def modWork (s : State) (w : PlateWork) (f : PlateWork → PlateWork) : State :=
  { s with plateWork := s.plateWork.map fun x => if x == w then f x else x }

def endWork (s : State) (w : PlateWork) : State := { s with plateWork := s.plateWork.erase w }

/-- A held write of a cast finds its page no longer in any window: the cast stored through a translation that has been revoked
(R420). -/
def throughRevoked (s : State) (p : Pend) : Bool :=
  match writeSpan p with
  | some (x, n, _, _) =>
    match s.resolve p.fir.cx.toNat x (max n 1) with
    | .error e => e.kind == kHOLDING
    | .ok _ => false
  | none => false

/-- A live cast of a context stands unspilled in some bays, or still writes through a revoked window (R420). -/
def castIn (s : State) (ch : Nat) (es : List Holding) : Bool :=
  let live := fun (f : Frame) => f.cx.toNat == ch && !f.sp && (match f.cast with | some k => !k.aborted | none => false)
  ((revokedBays es).any fun (c, b) => (s.bay c b).frames.any fun e => live e.2)
    || ((es.any fun h => h.kind == 2#4) && s.bays.any fun y => y.2.frames.any fun e =>
      live e.2 && ((e.2.cast.map Cast.held).getD []).any (throughRevoked s))

/-- CTX.REVOKE goes on (R418 to R420): steps 3 to 9 when no commit is in progress in the revoked bays, then REVOKED as soon
as no cast is live there, and the result, before which REVOKED comes unless a live cast still holds it back. -/
def goRevoke (s : State) (w : PlateWork) : State :=
  let ch := w.child.toNat
  let bays := revokedBays w.entries
  if !w.noticeDue then
    if commitIn s ch bays then s
    else modWork (finishRevoke s w.pend.fir.cx.toNat ch w.entries) w fun x => { x with noticeDue := true }
  else
    let send := fun (s : State) => sendLater s w.toks (w.pend.fir.a.getD (plain 0)).word false
    if !(castIn s ch w.entries) then
      if w.ready || w.toks.isEmpty then send (notice (endWork s w) ch kREVOKED (kindMask w.entries) id) else s
    else if w.ready then modWork (send s) w fun x => { x with toks := [] }
    else s

end Sys2Proof.Machine
end

