-- ==== Sys2Proof/Machine/Pages.lean ====
section
/-! DEFINITION. Sys2Proof/Machine/Pages.lean: post-copy migration: the pull of a page (R432) and its loss (R433). -/

namespace Sys2Proof.Machine

/-- A walk of a course that has met a leaf marked M: the context whose leaf it is, and its entry, old backing, new backing
and size (R432). -/
def pullOf (s : State) (w : Walk) : Option (Nat × Nat × Nat × Nat × Nat) :=
  match s.walk w.cx.toNat (w.page * 2 ^ 16) with
  | .error x => x.pull.map fun q => (x.owner, q)
  | .ok _ => none

/-- The walks of a course that wait for a page to be pulled. -/
def pullWalks (s : State) (c : Nat) : List Walk := (s.crs c).walks.filter fun w => w.begun && (pullOf s w).isSome

/-- PAGE_PULL (R432): the k-th walk of a course that waits for a page: its page is copied, its leaf is rewritten, and the
walk goes on. A sleeping course that the copy needs first wakes (R453). A source that is out of reach, or whose data is lost, is
PULL_LOST's. -/
def execPagePull (e : EvArgs) (s : State) : Host.Outcome State Fault Refusal :=
  .next (match (pullWalks s e.course.toNat)[e.k.toNat]? with
    | none => s
    | some w =>
      match pullOf s w with
      | none => s
      | some (owner, q) =>
        let ends := [pullSource s owner q, sourceByte s (s.ctx owner).parent.toNat q.2.2.1 q.2.2.2]
        if (s.firstAsleep ends).isSome then wakeAt s ends else (pullNow s owner q).getD s)

/-- A guest of a lost pull: the operation of a crucible or the stream of a gate faults at its own site, and the cast of a commit
aborts at a CAST site, whatever of its writes has been performed; a prefetch and a kernel's start, which no cast waits on, ask
again. -/
def guestLost (s : State) (g : Firing) (code owner page : Nat) : State :=
  let c := g.course.toNat
  if g.isCru then cruFault s g kPULLLOST code owner page 0
  else
    match (s.bay c g.bay).streams.find? fun e => e.2.pend.fir == g with
    | some e => gateFault s c g.bay e.1 e.2 kPULLLOST code owner page e.2.pos
    | none =>
      match s.cast? c g.bay g.ft.toNat with
      | none => s
      | some k =>
        if k.suspended.isNone && (k.held ++ k.plate ++ k.waits).any fun p => p.fir == g then
          let s := if k.committing then
              (unreserveWords s k.held).modCast c g.bay g.ft.toNat fun k => { k with committing := false }
            else s
          hardFault s g kPULLLOST code owner fun x => { x with addr := BitVec.ofNat 64 page }
        else s

/-- A walk of a course whose pull is lost ends: what waits on it faults, with the page as its ADDR. -/
def walkLost (code owner : Nat) (s : State) (c : Nat) (w : Walk) : State :=
  let s := s.modCrs c fun y => { y with walks := y.walks.erase w }
  let page := w.page * 2 ^ 16
  let s := w.users.foldl (fun s p => hardFault s p.fir kPULLLOST code owner fun x => { x with addr := BitVec.ofNat 64 page }) s
  w.guests.foldl (fun s g => guestLost s g code owner page) s

/-- PULL_LOST (R433): the k-th pull of a course stops, and every access that waits on it, on whichever course and of whichever
context, faults, owned by the context whose leaf holds M. `aux` = 1 is the input that the link failed. -/
def execPullLost (e : EvArgs) (s : State) : Host.Outcome State Fault Refusal :=
  let c := e.course.toNat
  .next (match (pullWalks s c)[e.k.toNat]? with
    | none => s
    | some w =>
      match pullOf s w with
      | none => s
      | some (owner, q) =>
        match pullCode s (pullSource s owner q) e.aux.toNat with
        | none => s
        | some code =>
          let same := fun (w : Walk) => ((pullOf s w).map fun x => (x.1, x.2.1)) == some (owner, q.1)
          (List.range 16).foldl (fun s d => ((pullWalks s d).filter same).foldl (fun s w => walkLost code owner s d w) s) s)

end Sys2Proof.Machine
end

