-- ==== Sys2Proof/Machine/Power.lean ====
section
/-! DEFINITION. Sys2Proof/Machine/Power.lean: the stack power controller: measurement and permit steps (R451), and the
sleep of courses (R345, R347, R453). In each event of a course, `course` names it. -/

namespace Sys2Proof.Machine

/-! ### Measurement and steps (R451) -/

/-- POWER_MEASURE (R451): package power and the junction temperatures are measured; the last 100 measurements of power, one
each µs, are kept for their mean. -/
def execPowerMeasure (s : State) : Host.Outcome State Fault Refusal :=
  let p := Config.measure 0 s.fresh
  .next { s with
    fresh := s.fresh + 1
    telem := { s.telem with
      power := p
      lastMeasure := max 1 s.tick.toNat
      powers := (p :: s.telem.powers).take 100
      temps := (List.range 16).map fun c => (c, Config.measure (16 + c) s.fresh) } }

/-- The 100 µs average of package power, times the number of measurements in it, and that number. -/
def powerSum (s : State) : Nat × Nat := ((s.telem.powers.map BitVec.toNat).sum, s.telem.powers.length)

/-- The average exceeds the limit. -/
def overLimit (s : State) : Bool := let (t, n) := powerSum s; decide (s.policy.power * n < t)

/-- The average is below 0.95 of the limit. -/
def underLimit (s : State) : Bool := let (t, n) := powerSum s; decide (0 < n) && decide (20 * t < 19 * (s.policy.power * n))

/-- Junction temperature of a course. -/
def tempOf (s : State) (c : Nat) : Nat := ((lkp s.telem.temps c).map BitVec.toNat).getD 0

/-- The course of greatest value among some, ties to the lower number. -/
def bestCourse (f : Nat → Nat) (cs : List Nat) : Option Nat :=
  cs.foldl (fun m c => match m with | none => some c | some x => if f x < f c then some c else some x) none

/-- The course whose step is lowered: the hottest over 105 °C, else that of the highest step. -/
def lowerChoice (s : State) : Option Nat :=
  let hot := (List.range 16).filter fun c => decide (105 < tempOf s c)
  if hot.isEmpty then bestCourse (fun c => (s.crs c).step) (List.range 16) else bestCourse (tempOf s) hot

/-- An interval in ns has passed since a time; 0 is no time yet. -/
def since (s : State) (last n : Nat) : Bool := last == 0 || decide (last + n ≤ s.tick.toNat)

/-- PERMIT_STEP_LOWER (R451): while the average exceeds the limit or a course is over 105 °C, every 10 µs. -/
def execPermitStepLower (_ : EvArgs) (s : State) : Host.Outcome State Fault Refusal :=
  let due := (overLimit s || (List.range 16).any fun c => decide (105 < tempOf s c)) && since s s.telem.lastLower 10000
  .next (match due, lowerChoice s with
    | true, some c =>
      ({ s with telem := { s.telem with lastLower := max 1 s.tick.toNat } } : State).modCrs c fun y => { y with step := y.step - 1 }
    | _, _ => s)

/-- A burst of a course waits for a permit. -/
def burstWaits (s : State) (c : Nat) : Bool := (List.range 24).any fun n => (s.cru c n).ops.any fun o => o.wantPermit

/-- PERMIT_STEP_RAISE (R451): while the average is below 0.95 of the limit and no course is over 100 °C, every 100 µs. -/
def execPermitStepRaise (_ : EvArgs) (s : State) : Host.Outcome State Fault Refusal :=
  let due := underLimit s && ((List.range 16).all fun c => decide (tempOf s c ≤ 100)) && since s s.telem.lastRaise 100000
  .next (match due, bestCourse (fun c => 8 - (s.crs c).step) ((List.range 16).filter (burstWaits s)) with
    | true, some c =>
      ({ s with telem := { s.telem with lastRaise := max 1 s.tick.toNat } } : State).modCrs c fun y =>
        { y with step := min 8 (y.step + 1) }
    | _, _ => s)

/-! ### Sleep (R345, R347, R453) -/

/-- The conditions of R345: no live cast, parked node or token in flight on a course, and nothing queued at its Ridge port;
an operation of a crucible or a stream of a gate there counts as a node at work. -/
def courseQuiet (s : State) (c : Nat) : Bool :=
  let y := s.crs c
  (s.bays.all fun e => e.1 / 256 != c ||
      ((e.2.frames.all fun f => f.2.cast.isNone && f.2.atBay.isEmpty) && e.2.streams.all (fun x => x.2.state == 0)
        && e.2.pools.all fun p => p.2.waiters.isEmpty && p.2.moving.isEmpty && p.2.spilling.isNone && p.2.restoring.isEmpty))
    && (s.elements.all fun e => e.1 / 8192 != c || (e.2.ready.isEmpty && e.2.pending.isEmpty && e.2.input.isEmpty && e.2.late.isEmpty))
    && (s.crucibles.all fun e => e.1 / 32 != c || (e.2.ops.isEmpty && e.2.waiters.isEmpty))
    && (s.transit.all fun t => t.course.toNat != c && t.sCourse.toNat != c)
    && (s.rdgWaits.all fun w => w.2.fir.course.toNat != c)
    && y.heap.waits.isEmpty && y.walks.isEmpty && y.port.isEmpty && y.ctl.isEmpty

/-- A course is needed (R453): by a selected or starting kernel, a contender for its slices, a sweep, a fill, a walk, or a
token on its way to it. -/
def courseNeeded (s : State) (c : Nat) : Bool :=
  let y := s.crs c
  (s.kernels.any fun k => (k.state == .selected || k.state == .starting) && kernelOn s k c)
    || (pickHolder s c 8 0).isSome || y.sweeping.isSome || y.fill.isSome || !y.walks.isEmpty
    || s.transit.any fun t => t.course.toNat == c && t.stack == s.sideband.stackNo

/-- COURSE_RETENTION_ENTER (R453): the conditions have held for 100 µs, and POLICY allows retention. -/
def execCourseRetentionEnter (e : EvArgs) (s : State) : Host.Outcome State Fault Refusal :=
  let c := e.course.toNat
  let y := s.crs c
  .next (if y.power == .awake && !y.failed && courseQuiet s c && !(courseNeeded s c) && bitAt s.policy.sleep 0
      && decide (y.quietSince + 100000 ≤ s.tick.toNat) then
      s.modCrs c fun y => { y with power := .retention, retainedAt := s.tick.toNat }
    else s)

/-- Some context holds a near page, a structure page or an allocation backed on a course (R453). -/
def backedOn (s : State) (c : Nat) : Bool :=
  let lo := nearPA c 0 0
  let hi := nearPA (c + 1) 0 0
  (s.ctxs.any fun e => e.1 != 0 && e.2.depth == 1#3 && e.2.holds.any fun h => h.kind == 2#4 &&
      (let a := s.localPA h.p0.toNat
       let n := bitsAt h.p1 0 32 * 2 ^ 16
       isNearPA a && decide (a < hi) && decide (lo < a + n)))
    || (s.structPages.any fun p => decide (lo ≤ p.1) && decide (p.1 < hi))
    || s.bays.any fun e => e.1 / 256 == c && (!e.2.frames.isEmpty || e.2.pools.any fun p => p.2.pmap.any fun x => x.2.v)

/-- The Plate's journal as a course goes off: with no other off, it begins with what the mirrors have yet to apply (R346). -/
def beginJournal (s : State) : State :=
  if journalling s then s else { s with journal := s.changes, journalCut := 0 }

/-- COURSE_OFF_ENTER (R453): 10 ms of retention have passed, POLICY allows off, and nothing is backed on the course. Its
mirror stops (R345). -/
def execCourseOffEnter (e : EvArgs) (s : State) : Host.Outcome State Fault Refusal :=
  let c := e.course.toNat
  let y := s.crs c
  .next (if y.power == .retention && courseQuiet s c && bitAt s.policy.sleep 1 && !(backedOn s c) && !(courseNeeded s c)
      && y.waking.isNone && decide (y.retainedAt + 10000000 ≤ s.tick.toNat) then
      (beginJournal s).modCrs c fun y => { y with power := .off, mirror := some s.ridge, lastBeat := s.beat - 4 }
    else s)

/-- A course's wake ends: it is awake, its mirror caught up, by the journal or by a recopy. Its nodes issue once the mirror
has applied every beat up to this one (R345). -/
def endWake (s : State) (c : Nat) : State :=
  let m := caughtUp s (s.crs c)
  s.modCrs c fun y =>
    { y with power := .awake, mirror := if y.power = .off ∧ m ≠ s.ridge then some m else none, waking := none,
             issueFrom := s.beat + 4, quietSince := s.tick.toNat }

/-- COURSE_WAKE (R453): a sleeping course that is needed begins to wake, as it does for an access or a copy homed in its SRAM
(`startWake`); a wake whose time has passed ends. -/
def execCourseWake (e : EvArgs) (s : State) : Host.Outcome State Fault Refusal :=
  let c := e.course.toNat
  .next (match (s.crs c).waking with
    | some (t, _) => if t ≤ s.cycles then endWake s c else s
    | none => if courseNeeded s c then startWake s c else s)

end Sys2Proof.Machine
end

