-- ==== Sys2Proof/Machine/Errors.lean ====
section
/-! DEFINITION. Sys2Proof/Machine/Errors.lean: memory errors: scrubbing (R393, R395), the memory manager's decisions (R396 to
R399), failed courses and downpipes (R400, R401). That an error occurs, and where, is an input: the step word's fields. -/

namespace Sys2Proof.Machine

/-! ### Scrubbing (R393, R395) -/

/-- Allocations of a bay, with their pools. -/
def bayAllocs (y : Bay) : List (Nat × AllocId) := y.pools.flatMap fun p => (poolAllocs y p.1).map fun a => (p.1, a.1)

/-- SCRUB (R395): the scrubber goes through the bay store `unit` of a course, or, with `unit` 256, its mirror copy, or, above that,
the Thatch; `aux` is the number of corrected errors met, which are written back and counted. It checks the guard granules that it
passes (R393). -/
def execScrub (e : EvArgs) (s : State) : Host.Outcome State Fault Refusal :=
  let c := e.course.toNat
  let b := e.unit.toNat % 256
  let now := s.tick.toNat
  let s := match e.unit.toNat / 256 with
    | 0 => ((bayAllocs (s.bay c b)).foldl (fun (s : State) (a : Nat × AllocId) => guardOf s c b a.1 a.2) s).modBay c b fun y => { y with lastScrub := now }
    | 1 => s.modCrs c fun y => { y with mirrorScrub := now }
    | _ => { s with telem := { s.telem with lastThatch := now } }
  .next { s with telem := { s.telem with scrubbed := s.telem.scrubbed + 1, corrected := s.telem.corrected + e.aux.toNat } }

/-! ### Pages that contexts map -/

/-- The pages that contexts map, with their translations: context, virtual address, composed entry, a leaf that its ancestors'
smaller ones make several of once for each (R413). -/
def mappedPages (s : State) : List (Nat × Nat × XOk) :=
  s.ctxs.flatMap fun e => (s.leavesOf e.1).flatMap fun l => (s.leafPages e.1 l).filterMap fun p =>
    match s.walk e.1 p.1 with
    | .ok o => if o.cls = 4 then none else some (e.1, p.1, o)
    | .error _ => none

/-- Banks that back a near page, its shadow copy included, as bank numbers. -/
def pageBanks (o : XOk) : List Nat :=
  if isNearPA o.base then o.banks.map fun (c, b, g) => c * 4096 + b * 16 + g / 4096 else []

/-- Two translations are of one page of the physical level. -/
def onePage (o q : XOk) : Bool := o.base == q.base && o.bsize == q.bsize

/-- Each page of the physical level once. -/
def eachPage (l : List XOk) : List XOk := l.foldl (fun l o => if l.any (onePage o) then l else l ++ [o]) []

/-! ### Decisions on pages (R396, R397) -/

/-- A near page is clean: a leaf that maps it whole names a far copy, whose base, size and offset it is, and neither its D bit
nor that of the physical leaf is set (R397, R411). -/
def pageClean (s : State) (pages : List (Nat × Nat × XOk)) (o : XOk) : Option (Nat × Nat × Nat) :=
  let clean := fun (l : Nat) => Memory.get s.mem l 8 / 2 ^ 57 % 2 == 0
  pages.findSome? fun p =>
    if p.2.2.base == o.base && p.2.2.bsize == o.bsize && p.2.2.size == o.bsize then
      p.2.2.farCopy.bind fun f => if clean f.1 && p.2.2.leaves.getLast?.all clean then some f.2 else none
    else none

/-- A free spare bank of a course. -/
def freeSpare (s : State) (c : Nat) : Option Nat :=
  ((List.range s.policy.spare).map fun i => c * 4096 + Config.spareBank c i % 4096).find? fun k =>
    !(s.telem.usedSpares.contains k) && !(s.telem.retiredBanks.contains k)

/-- A spare bank stands for a bank. -/
def useSpare (s : State) (bank spare : Nat) : State :=
  { s with telem := { s.telem with usedSpares := s.telem.usedSpares ++ [spare], remaps := put s.telem.remaps bank spare } }

/-- A notice of DATA_LOST. -/
def dataLost (s : State) (cx scope : Nat) (upd : FaultRec → FaultRec) : State :=
  notice s cx kDATALOST 0 fun x => upd { x with data0 := BitVec.ofNat 64 scope }

/-- The mark of DATA_LOST of a page, with the table entries of the physical level that map it, and the banks of it that have no
backing, some of which an earlier mark of the page may name. -/
def putLost (s : State) (o : XOk) (leaves gone : List Nat) : State :=
  let same := fun (p : LostPage) => p.pa == o.base && p.size == o.bsize
  { s with lostPages :=
      { pa := o.base, size := o.bsize, snd := if o.cls = 5 then some (o.snd.1, o.snd.2.1) else none, leaves := leaves
        gone := gone ++ (s.lostPages.filter same).flatMap LostPage.gone } :: s.lostPages.filter fun p => !(same p) }

/-- A page is marked DATA_LOST, and every context that maps it is told. -/
def markLost (s : State) (pages : List (Nat × Nat × XOk)) (o : XOk) (gone : List Nat) : State :=
  let users := pages.filter fun p => onePage o p.2.2
  let s := putLost s o (users.filterMap fun p => p.2.2.leaves.getLast?).eraseDups gone
  users.foldl (fun s p => dataLost s p.1 0 fun x => { x with addr := BitVec.ofNat 64 p.2.1 }) s

/-- The bytes of one bank of a page, by their offsets in the page. -/
def bankOffsets (o : XOk) (bank : Nat) : List Nat :=
  (List.range o.bsize).filter fun i =>
    let a := pageByte o.base o.bsize i
    a / 2 ^ 28 * 4096 + a / 2 ^ 20 % 256 * 16 + a % 2 ^ 20 / 2 ^ 16 == bank

/-- A bank under a near page has failed a word (R396). The bytes of a clean page in it, with a spare bank free, are written from
its far copy and its translation raised; any other page is lost, its bytes in the bank zero, on a spare bank when one is free, and
else without backing. -/
def decidePage (s : State) (pages : List (Nat × Nat × XOk)) (o : XOk) (bank : Nat) : State :=
  let spare := freeSpare s (bank / 4096)
  match pageClean s pages o, spare with
  | some far, some k =>
    let s := useSpare s bank k
    let s := { s with mem := (bankOffsets o bank).foldl (fun m i =>
      Memory.write m (pageByte o.base o.bsize i) (s.byteAt (s.localPA (pageByte far.1 far.2.1 (far.2.2 + i))))) s.mem }
    (pages.filter fun p => p.2.2.base == o.base).foldl (fun s p => bumpGen s ((s.chain p.1).getLast?.getD p.1)) s
  | _, _ =>
    let s := match spare with | some k => useSpare s bank k | none => s
    let zero := (bankOffsets o bank).map (pageByte o.base o.bsize)
    let copy := if o.cls = 5 then (List.range (2 ^ 16)).map fun i => bank / 4096 * 2 ^ 28 + bank / 16 % 256 * 2 ^ 20 + bank % 16 * 2 ^ 16 + i else []
    markLost { s with mem := (zero ++ copy).foldl (fun m a => Memory.write m a 0#8) s.mem } pages o (if spare.isNone then [bank] else [])

/-- Every page of those mapped that a bank backs is decided, each once. -/
def decideBank (s : State) (pages : List (Nat × Nat × XOk)) (bank : Nat) : State :=
  (eachPage ((pages.map fun p => p.2.2).filter fun o => (pageBanks o).contains bank)).foldl (fun s o => decidePage s pages o bank) s

/-! ### Decisions on frames and buffers (R396, R398) -/

/-- A frame or its row is lost: the row is retired and its strand ends as by KILL_STRAND. -/
def loseFrame (s : State) (c b ft : Nat) : State :=
  let s := s.modBay c b fun y => { y with retiredRows := if y.retiredRows.contains ft then y.retiredRows else y.retiredRows ++ [ft] }
  match s.frame? c b ft with
  | none => s
  | some f =>
    let s := killStrand s f.cx.toNat f.link.str.toNat
    dataLost s f.cx.toNat 1 fun x =>
      { x with course := BitVec.ofNat 4 c, bay := BitVec.ofNat 8 b, ft := BitVec.ofNat 12 ft, it := f.it, str := f.link.str, strv := true }

/-- A buffer is lost: its entry is marked. -/
def loseBuf (s : State) (c b pid i : Nat) : State :=
  match (s.pool? c b pid).bind fun p => lkp p.pmap i with
  | none => s
  | some e =>
    if e.v && !e.lost then
      let s := s.modPool c b pid fun p => { p with pmap := put p.pmap i { e with lost := true } }
      dataLost s e.cx.toNat 2 fun x =>
        { x with course := BitVec.ofNat 4 c, bay := BitVec.ofNat 8 b, addr := BitVec.ofNat 64 (handleWord c b pid i e.gen.toNat) }
    else s

def loseAlloc (s : State) (c b pid : Nat) : AllocId → State
  | .frame ft => loseFrame s c b ft.toNat
  | .buf i => loseBuf s c b pid i

/-- The allocations of a bay that stand over some granules. -/
def allocsOver (y : Bay) (g n : Nat) : List (Nat × AllocId) :=
  y.pools.flatMap fun p => ((poolAllocs y p.1).filter fun a => decide (a.2.1 < g + n) && decide (g < a.2.1 + a.2.2)).map fun a => (p.1, a.1)

/-- A bay-store word at a granule has failed (R396). -/
def loseGranules (s : State) (c b g n : Nat) : State := (allocsOver (s.bay c b) g n).foldl (fun s a => loseAlloc s c b a.1 a.2) s

/-! ### Banks (R399) -/

/-- A bank is failed: its granules are retired in every pool over it, and all of it is decided, the pages as they are mapped
before it backs none. -/
def failBank (s : State) (bank : Nat) : State :=
  let c := bank / 4096
  let b := bank / 16 % 256
  let g := bank % 16 * 4096
  let pages := mappedPages s
  let s := { s with telem := { s.telem with retiredBanks := if s.telem.retiredBanks.contains bank then s.telem.retiredBanks else s.telem.retiredBanks ++ [bank] } }
  let s := s.modBay c b fun y => { y with pools := y.pools.map fun e => (e.1, e.2.retire [(g, 4096)]) }
  decideBank (loseGranules s c b g 4096) pages bank

/-- An uncorrectable error of a bank is counted; the third in one second fails it. -/
def countBank (s : State) (bank : Nat) : Nat × State :=
  let now := s.tick.toNat
  let l := now :: (((lkp s.telem.bankErrors bank).getD []).filter fun t => decide (now < t + 10 ^ 9))
  (l.length, { s with telem := { s.telem with bankErrors := put s.telem.bankErrors bank l } })

/-- An uncorrectable word of a bay store at byte `x`; `own` says that the fault is in the bank's own logic. -/
def bayError (s : State) (c b x : Nat) (own : Bool) : State :=
  let bank := c * 4096 + b * 16 + x / 2 ^ 16
  let (n, s) := countBank s bank
  if own || decide (3 ≤ n) then failBank s bank
  else
    let s := loseGranules s c b (x / 16) 1
    decideBank s (mappedPages s) bank

/-! ### Other words (R396) -/

/-- Every allocation of a pool, in its store or spilled, is lost with its map or descriptor. -/
def losePool (s : State) (c b pid : Nat) : State :=
  let y := s.bay c b
  let fs := (y.frames.filter fun e => e.2.pool.toNat == pid).map Prod.fst
  let bs := ((y.pools.filter fun p => p.1 == pid).flatMap fun p => (p.2.pmap.filter fun e => e.2.v).map Prod.fst)
  fs.foldl (fun s ft => loseFrame s c b ft) (bs.foldl (fun s i => loseBuf s c b pid i) s)

/-- A byte lies in a page, or in the second copy of a shadow-capable one. -/
def XOk.covers (o : XOk) (a : Nat) : Bool :=
  (decide (o.base ≤ a) && decide (a < o.base + o.bsize)) || (o.cls == 5 && decide (o.snd.1 ≤ a) && decide (a < o.snd.1 + o.snd.2.1))

/-- A far word at an offset: its 256-byte block is retired, holding bytes that the spec does not state, and the pages over
it, or whose second copy it is in, are lost. -/
def farError (s : State) (off : Nat) : State :=
  let blk := off / 256
  let a := farBase + 256 * blk
  let pages := mappedPages s
  let s := { s with fresh := s.fresh + 256
                    mem := (List.range 256).foldl (fun m i => Memory.write m (a + i) (Config.freeByte (s.fresh + i))) s.mem
                    telem := { s.telem with retiredFar := s.telem.retiredFar ++ [blk] } }
  (eachPage ((pages.map fun p => p.2.2).filter (XOk.covers · a))).foldl (fun s o => markLost s pages o []) s

/-- UNCORRECTABLE_ERROR (R396). `k` says what the word belonged to: 0, bay `unit` of a course, at byte `aux` of its store
(bit 20: the fault is in the bank's own logic); 1, row `ft` of its frame table; 2, the map or descriptor of its pool `aux`;
3, the mirror of the course; 4, plane `aux` in the Thatch; 5, far memory at byte `aux`. -/
def execUncorrectableError (e : EvArgs) (s : State) : Host.Outcome State Fault Refusal :=
  let c := e.course.toNat
  let b := e.unit.toNat % 256
  let x := e.aux.toNat
  let s := { s with telem := { s.telem with uncorrectable := s.telem.uncorrectable + 1 } }
  .next (match e.k.toNat with
    | 0 => bayError s c b (x % 2 ^ 20) (x / 2 ^ 20 % 2 == 1)
    | 1 => loseFrame s c b e.ft.toNat
    | 2 => losePool s c b (x % 8)
    | 3 => if (s.crs c).power == .off then s else s.modCrs c fun y => { y with mirror := none }
    | 4 => { s with planes := s.planes.map fun p => if p.1 = x % 2 ^ 16 then (p.1, { p.2 with damaged := true }) else p }
    | 5 => if x < farSize then farError s x else s
    | _ => s)

/-! ### Downpipes and courses (R400, R401) -/

/-- DOWNPIPE_FAIL (R400): the downpipe of bay position `unit`, which serves that bay in every course (R3), is drained onto
its neighbour's. No token is lost or reordered. -/
def execDownpipeFail (e : EvArgs) (s : State) : Host.Outcome State Fault Refusal :=
  let k := e.unit.toNat % 256
  .next (if s.telem.failedPipes.contains k then s else { s with telem := { s.telem with failedPipes := s.telem.failedPipes ++ [k] } })

/-- DOWNPIPE_TEST_BEAT (R401): test beats over the downpipe of bay position `unit` (R3). -/
def execDownpipeTestBeat (e : EvArgs) (s : State) : Host.Outcome State Fault Refusal :=
  .next { s with telem := { s.telem with lastTest := s.tick.toNat, testPipe := e.unit.toNat % 256, testBeats := s.telem.testBeats + 1 } }

/-- A context has a frame or a unit on a course. -/
def onCourse (s : State) (cx c : Nat) : Bool :=
  (s.bays.any fun y => y.1 / 256 == c && (y.2.frames.any (fun f => f.2.cx.toNat == cx) || y.2.pools.any fun p => p.2.cx.toNat == cx))
    || (s.crs c).loaded.any fun l => l.cx.toNat == cx && l.info.onCourse c

/-- Contexts that a failed course concerns (R400): with a page homed there, a frame there or a unit there. -/
def courseUsers (s : State) (pages : List (Nat × Nat × XOk)) (c : Nat) : List Nat :=
  (s.ctxs.map Prod.fst).filter fun cx => cx != 0 &&
    (onCourse s cx c || pages.any fun p => p.1 == cx && (pageBanks p.2.2).any fun k => k / 4096 == c)

/-- What stood on a course is gone: frames, pools' contents, requests, elements, crucibles, heap, and its bay stores. -/
def wipeCourse (s : State) (c : Nat) : State :=
  let s := settleKilled s fun e => (e.site.course.map BitVec.toNat) == some c
  let cxs := s.ctxs.map Prod.fst
  let s := s.bays.foldl (fun s y => if y.1 / 256 = c then cxs.foldl (fun s cx => clearBay s c (y.1 % 256) cx false) s else s) s
  let s := cxs.foldl (fun s cx => clearCourse s c cx false) s
  { s with
    elements := s.elements.filter fun e => e.1 / 8192 != c
    crucibles := s.crucibles.filter fun e => e.1 / 32 != c
    saved := s.saved.filter fun v => v.course.toNat != c
    transit := s.transit.filter fun t => t.course.toNat != c
    rdgWaits := s.rdgWaits.filter fun w => w.2.fir.course.toNat != c
    replay := s.replay.filter fun r => r.1 / 256 != c
    cellWaits := s.cellWaits.filter fun w => w.2.1.fir.course.toNat != c
    plateWork := s.plateWork.filter fun w => w.pend.fir.course.toNat != c
    agenda := s.agenda.filter fun p => match p with | .fire q => q.fir.course.toNat != c | _ => true
    mem := Memory.clear s.mem (nearPA c 0 0) (2 ^ 28)
    courses := put s.courses c { Course.empty with failed := true } }

/-- COURSE_FAIL (R400): the kernels on the course end KILLED, its state is lost, the pages homed there are marked, and
every context concerned is told. -/
def execCourseFail (e : EvArgs) (s : State) : Host.Outcome State Fault Refusal :=
  let c := e.course.toNat
  .next (if (s.crs c).failed then s
    else
      let pages := mappedPages s
      let killed := s.kernels.filter fun k => k.state != .ended && kernelOn s k c
      let users := (courseUsers s pages c ++ killed.map fun k => k.cx.toNat).eraseDups
      let s := killed.foldl (fun s k => endKernel s k .killed 0 0) s
      let s := wipeCourse s c
      let lost := pages.filter fun p => (pageBanks p.2.2).any fun k => k / 4096 == c
      let s := lost.foldl (fun s p => putLost s p.2.2 p.2.2.leaves.getLast?.toList []) s
      users.foldl (fun s cx => dataLost s cx 3 fun x => { x with course := BitVec.ofNat 4 c }) s)

end Sys2Proof.Machine
end

