-- ==== Sys2Proof/Machine/Pod.lean ====
section
/-! DEFINITION. Sys2Proof/Machine/Pod.lean: the Eave links and the pod time base (R449, R450), power-good and bring-up
(R437, R454). -/

namespace Sys2Proof.Machine

/-- The lowest-numbered reachable stack, this one included (R450). -/
def masterOf (s : State) : BitVec 10 := BitVec.ofNat 10 (s.reach.foldl min s.sideband.stackNo.toNat)

/-- TIME_SYNC (R450): the count is corrected by at most 1 ns per µs until the next exchange. Whether the stack can hold the
bound of 4 ns is measured. -/
def execTimeSync (s : State) : Host.Outcome State Fault Refusal :=
  .next { s with
    fresh := s.fresh + 1
    telem := { s.telem with drift := max (-1) (min 1 (Config.timeCorrection s.fresh)), syncFlag := Config.measure 3 s.fresh != 0, lastSync := max 1 s.tick.toNat, master := masterOf s } }

/-- EAVE_FLIT_REPLAY (R449): a flit is sent again; nothing else changes. -/
def execEaveFlitReplay (_ : EvArgs) (s : State) : Host.Outcome State Fault Refusal :=
  .next { s with telem := { s.telem with replays := s.telem.replays + 1 } }

/-- EAVE_LINK_LOSS (R449): the link that `unit` names is lost and routes are computed anew; `k` names a stack that none
reaches any more, if there is one. -/
def execEaveLinkLoss (e : EvArgs) (s : State) : Host.Outcome State Fault Refusal :=
  let s := { s with reach := s.reach.filter (· != e.k.toNat) }
  let n := e.unit.toNat % 16
  .next { s with telem := { s.telem with master := masterOf s, lostLinks := if s.telem.lostLinks.contains n then s.telem.lostLinks else s.telem.lostLinks ++ [n] } }

/-- What a map by address holds of other stacks, by their pod addresses (R412). -/
def podCells {α : Type} (m : List (Nat × α)) : List (Nat × α) := m.filter fun e => isPodPA e.1

/-- What counts time from the end of bring-up: the quiet of the courses (R453) and the periods of the stack's own units. -/
def startClocks (s : State) : State :=
  let now := s.tick.toNat
  { s with
    courses := (List.range 16).map fun c => (c, { s.crs c with quietSince := now, mirrorScrub := now })
    telem := { s.telem with lastMeasure := now, lastTest := now, lastThatch := now, lastLower := now, lastRaise := now } }

/-- A stack whose power has just come: the state of R455 before bring-up has run, with what lies outside the stack, the memory of
other stacks among it. -/
def powerOn (s : State) : State :=
  { State.reset with
    mem := podCells s.mem, stags := podCells s.stags, selectors := podCells s.selectors
    stepCount := s.stepCount, fresh := s.fresh, hostMem := s.hostMem, hostOut := s.hostOut, captures := s.captures,
    linkUp := false
    sideband := { phase := 1, ready := false, frozen := false, stackNo := Config.stackStraps } }

/-- POWER_GOOD (R454): a stack that is up, or has not begun, enters phase 1; a bring-up under way goes to its next phase. In
phase 5 the host link trains, in phase 6 the routes are computed and the count takes the pod's time, and phase 7 sets READY. -/
def execPowerGood (s : State) : Host.Outcome State Fault Refusal :=
  let p := s.sideband.phase.toNat
  .next (if p = 0 ∨ 7 ≤ p then powerOn s
    else
      let s := { s with sideband := { s.sideband with phase := BitVec.ofNat 4 (p + 1), ready := p == 6 } }
      match p + 1 with
      | 5 => { s with linkUp := true }
      | 6 =>
        let s := startClocks { s with reach := Config.podReach, tick := Config.podTick s.fresh, fresh := s.fresh + 1 }
        { s with telem := { s.telem with master := masterOf s, lostLinks := [] } }
      | _ => s)

end Sys2Proof.Machine
end

