-- ==== Sys2Proof/Machine/Capture.lean ====
section
/-! DEFINITION. Sys2Proof/Machine/Capture.lean: checkpoints (R428, R444, R446) and their restoration (R445). -/

namespace Sys2Proof.Machine

/-! ### What a subtree has -/

/-- The contexts of a checkpoint: a subtree, or every context. -/
def capturedCxs (s : State) (cx : Nat) : List Nat := if cx = 0 then s.ctxs.map Prod.fst else s.subtree cx

/-- Ranges of memory that a context holds: its bay-store ranges, and its windows resolved in its parent's space. -/
def heldRanges (s : State) (cx : Nat) : List (Nat × Nat) :=
  let x := s.ctx cx
  x.holds.flatMap fun h =>
    match h.kind.toNat with
    | 1 => [(nearPA (h.range.1 / 256) (h.range.1 % 256) (16 * h.range.2.1), 16 * h.range.2.2)]
    | 2 =>
      if x.depth = 1#3 then [(s.localPA h.p0.toNat, bitsAt h.p1 0 32 * 2 ^ 16)]
      else (List.range (bitsAt h.p1 0 32)).filterMap fun i =>
        match s.resolveByte x.parent.toNat (h.p0.toNat + i * 2 ^ 16) with
        | .ok a => some (a, 2 ^ 16)
        | .error _ => none
    | _ => []

/-- Near and far memory whole. -/
def wholeMemory : List (Nat × Nat) := [(0, 2 ^ 32), (farBase, farSize)]

/-- The cells of a memory in some ranges. -/
def cellsIn (m : List Host.Cell) (rs : List (Nat × Nat)) : List Host.Cell :=
  m.filter fun c => rs.any fun r => decide (r.1 ≤ c.1) && decide (c.1 < r.1 + r.2)

/-- A bay's part of some contexts. -/
def Bay.part (y : Bay) (f : BitVec 12 → Bool) : Bay :=
  { y with frames := y.frames.filter fun e => f e.2.cx
           parts := [], tlb := []
           pools := y.pools.filter fun e => f e.2.cx
           streams := y.streams.filter fun e => f e.2.pend.fir.cx
           fences := y.fences.filter fun e => e.2.1.any fun t => f t.tok.cx }

def Element.part (x : Element) (f : BitVec 12 → Bool) : Element :=
  { Element.empty with
    ready := x.ready.filter fun r => f r.cx, pending := x.pending.filter fun r => f r.cx
    late := x.late.filter fun r => f r.cx, input := x.input.filter fun t => f t.tok.cx, takes := x.takes.filter fun t => f t.2.cx }

def Course.part (y : Course) (f : BitVec 12 → Bool) : Course :=
  { Course.empty with
    frozen := y.frozen.filter fun t => f t.tok.cx
    loaded := y.loaded.filter fun l => f l.cx
    refill := y.refill.filter fun x => f x.cx
    kept := y.kept.filter fun k => f k.1
    port := y.port.filter fun w => f w.cx
    ctl := y.ctl.filter fun w => w.cx != 0 && f w.cx
    walks := (y.walks.filter fun w => f w.cx).map fun w => { w with begun := false }
    heap := { y.heap with
      entries := y.heap.entries.filter fun e => f e.cx
      waits := y.heap.waits.filter fun e => f e.cx
      evictSeq := y.heap.evictSeq.filter fun e => f (BitVec.ofNat 12 e.1)
      pops := y.heap.pops.filter fun e => f (BitVec.ofNat 12 e.1)
      oldPops := y.heap.oldPops.filter fun e => f (BitVec.ofNat 12 e.1)
      running := y.heap.running.filter fun e => f e.1 } }

/-- A fault that belongs to some contexts. -/
def FaultEntry.of (e : FaultEntry) (f : BitVec 12 → Bool) : Bool := f e.info.ocx || f e.holder

/-- Firings that the agenda still names. -/
def firesOf (l : List Pick) : List Pend := l.filterMap fun p => match p with | .fire q => some q | _ => none

/-- The bytes that the Ridge will hold once its changes on their way are applied. -/
def ridgeSoon (s : State) : List Host.Cell := s.changes.foldl applyBytes s.ridge

/-- The capture of some contexts, with the bytes of some ranges of memory (R428). -/
def captureOf (s : State) (root : Nat) (cxs : List Nat) (rs : List (Nat × Nat)) (scan : List Byte) : Capture :=
  let f := fun (x : BitVec 12) => cxs.contains x.toNat
  let inRange := fun (a : Nat) => rs.any fun r => decide (r.1 ≤ a) && decide (a < r.1 + r.2)
  { root := BitVec.ofNat 12 root
    debug := false
    scan := scan
    ctxs := s.ctxs.filter fun e => cxs.contains e.1
    kernels := s.kernels.filter fun k => f k.cx
    bays := s.bays.map fun e => (e.1, e.2.part f)
    elements := s.elements.map fun e => (e.1, e.2.part f)
    crucibles := s.crucibles.filter fun e => cxs.any fun cx => cx != 0 && s.holdsCru cx (e.1 / 32) (e.1 % 32)
    courses := s.courses.map fun e => (e.1, e.2.part f)
    saved := s.saved.filter fun v => f v.cx
    transit := s.transit.filter fun t => f t.tok.cx
    faults := s.faults.filter fun e => e.of f
    dooms := s.dooms.filter fun d => f d.cx
    barriers := s.barriers.filter fun b => f b.cx
    cells := s.cells.filter fun x => f x.cx
    cellWaits := s.cellWaits.filter fun w => f w.2.1.fir.cx
    stags := s.stags.filter fun e => inRange e.1
    selectors := s.selectors.filter fun e => inRange e.1
    structPages := s.structPages.filter fun e => inRange e.1
    lostPages := s.lostPages.filter fun e => inRange e.pa
    replay := s.replay.filter fun e => f e.2.fir.cx
    guardNotes := s.guardNotes.filter fun g => f g.cx
    plateWork := s.plateWork.filter fun w => f w.pend.fir.cx
    slots := s.slots.filter fun e => f e.2.cx
    ridge := (ridgeSoon s).filter fun x => (lkp s.slots (x.1 / 128)).any fun y => f y.cx
    rdgWaits := s.rdgWaits.filter fun w => f w.2.fir.cx
    sigs := s.sigs.filter fun m => f m.cx
    fires := (firesOf s.agenda).filter fun p => f p.fir.cx
    ranges := rs
    mem := cellsIn s.mem rs }

/-! ### Stopping and freezing (R286, R428, R444) -/

/-- Contexts are stopped. -/
def stopAll (s : State) (cxs : List Nat) : State := cxs.foldl (fun s x => s.modCtx x fun y => { y with runnable := false }) s

/-- The remaining bays of some contexts are frozen on a course: those of its holder, whose slice ends, or of the context being
swept. -/
def freezeCourse (cxs : List Nat) (s : State) (c : Nat) : State :=
  let y := s.crs c
  let go := fun (s : State) (cx : BitVec 12) (start : Nat) =>
    if cxs.contains cx.toNat then
      let s := discardFills s c cx
      let ts := linkTokens s c cx
      let s := { s with transit := s.transit.filter fun t => !(ts.contains t) }
      endSweep (s.modCrs c fun y => { y with frozen := y.frozen ++ ts }) c cx start
    else s
  match y.sweeping, y.holder with
  | some (cx, start, _), _ => go s cx start
  | none, some cx => go (if cxs.contains cx.toNat then chargeSlice s c cx.toNat (s.tick.toNat - y.sliceStart) else s) cx s.tick.toNat
  | none, none => s

/-- The subtree leaves the fabric. -/
def freezeAll (s : State) (cxs : List Nat) : State := (List.range 16).foldl (freezeCourse cxs) s

/-- The whole stack, as the debugging capture scans it out (R446): nothing is left out. -/
def debugCapture (s : State) (scan : List Byte) : Capture :=
  { root := 0
    debug := true
    scan := scan
    ctxs := s.ctxs, kernels := s.kernels, bays := s.bays, elements := s.elements, crucibles := s.crucibles, courses := s.courses
    saved := s.saved, transit := s.transit, faults := s.faults, dooms := s.dooms, barriers := s.barriers, cells := s.cells
    cellWaits := s.cellWaits, stags := s.stags, selectors := s.selectors, structPages := s.structPages, lostPages := s.lostPages
    replay := s.replay, guardNotes := s.guardNotes, plateWork := s.plateWork, slots := s.slots, ridge := ridgeSoon s
    rdgWaits := s.rdgWaits, sigs := s.sigs, fires := firesOf s.agenda, ranges := wholeMemory, mem := s.mem }

/-! ### Images (R101 to R103, R444, R445)

What R445 does not place, the bytes of CAPT and CTXS and the header's NAME and CMASK, is settled in notes/assumptions/77.md. -/

/-- The end of a section that is padded to a multiple of 64 bytes (R101). -/
def pad64 (n : Nat) : Nat := (n + 63) / 64 * 64

/-- A section, padded with zero bytes. -/
def padded (bs : List Byte) : List Byte := bs ++ List.replicate (pad64 bs.length - bs.length) 0#8

/-- Digest bytes, most significant first. -/
def digestBytes (bs : List Byte) : List Byte := (leBytes 64 (Config.sha512 bs).toNat).reverse

/-- The CTXS section: one entry of 128 bytes per context. -/
def ctxsSection (n : Nat) (cp : Capture) : List Byte :=
  cp.ctxs.flatMap fun e => (List.range 128).map fun i => Config.ctxsByte n e.1 i

/-- The MEMR section: of each range its physical address, its length, and its bytes. -/
def memrSection (cp : Capture) : List Byte :=
  cp.ranges.flatMap fun r => leBytes 8 r.1 ++ leBytes 8 r.2 ++ Memory.bytes cp.mem r.1 r.2

/-- Lengths of the sections of an image. -/
def memrSize (cp : Capture) : Nat := (cp.ranges.map fun r => 16 + r.2).sum

/-- Offsets of CTXS, MEMR and DIGS; CAPT stands at 0x80, after the header and the table. -/
def ctxsAt (cp : Capture) : Nat := 0x80 + pad64 cp.scan.length
def memrAt (cp : Capture) : Nat := ctxsAt cp + pad64 (128 * cp.ctxs.length)
def digsAt (cp : Capture) : Nat := memrAt cp + pad64 (memrSize cp)

/-- Bytes of an image. -/
def imageSize (cp : Capture) : Nat := digsAt cp + 64

/-- The header of an image: that of R102 with MAGIC "ECXK" and four sections. -/
def imageHeader (cp : Capture) : List Byte :=
  asciiOf [0x45, 0x43, 0x58, 0x4B, 2, 0] ++ leBytes 2 0 ++ leBytes 2 4 ++ leBytes 2 0 ++ leBytes 4 (imageSize cp)
    ++ List.replicate 32 0#8 ++ leBytes 4 0x40 ++ leBytes 2 0 ++ List.replicate 10 0#8

/-- An entry of the section table (R103). -/
def imageEntry (name : List Nat) (off size count : Nat) : List Byte :=
  asciiOf name ++ leBytes 4 off ++ leBytes 4 size ++ leBytes 4 count

/-- The section table: CAPT, CTXS, MEMR, DIGS. -/
def imageTable (cp : Capture) : List Byte :=
  imageEntry [0x43, 0x41, 0x50, 0x54] 0x80 cp.scan.length 1
    ++ imageEntry [0x43, 0x54, 0x58, 0x53] (ctxsAt cp) (128 * cp.ctxs.length) cp.ctxs.length
    ++ imageEntry [0x4D, 0x45, 0x4D, 0x52] (memrAt cp) (memrSize cp) cp.ranges.length
    ++ imageEntry [0x44, 0x49, 0x47, 0x53] (digsAt cp) 64 1

/-- An image up to its digest. -/
def imageBody (n : Nat) (cp : Capture) : List Byte :=
  imageHeader cp ++ imageTable cp ++ padded cp.scan ++ padded (ctxsSection n cp) ++ padded (memrSection cp)

/-- An image: its last section, DIGS, is the digest of every byte before it. -/
def imageOf (n : Nat) (cp : Capture) : List Byte := imageBody n cp ++ digestBytes (imageBody n cp)

/-- The bytes of a scan-out of the stack. -/
def scanOut (s : State) : List Byte := Config.captureBytes s.fresh

/-- An image is written to the host and its capture kept, unless it exceeds the host's capacity. -/
def writeImage (s : State) (cp : Capture) (at_ cap : Nat) : Option State :=
  if cap < imageSize cp then none
  else some { s with fresh := s.fresh + 1, captures := s.captures.filter (fun c => c.scan != cp.scan) ++ [cp]
                     hostMem := Memory.putBytes s.hostMem at_ (imageOf s.fresh cp) }

/-- The ranges of a subtree, or of the stack. -/
def capturedRanges (s : State) (cx : Nat) : List (Nat × Nat) :=
  if cx = 0 then wholeMemory else (capturedCxs s cx).flatMap (heldRanges s)

/-- A checkpoint of a subtree, or of the stack: the state after it and the bytes written, or none when the image exceeds
the host's capacity, and then nothing changes. Without RESUME each context is left stopped. -/
def checkpointAt (s : State) (cx : Nat) (resume : Bool) (at_ cap : Nat) : Option (State × Nat) :=
  let cxs := capturedCxs s cx
  let z := freezeAll s cxs
  let cp := captureOf z cx cxs (capturedRanges z cx) (scanOut z)
  (writeImage (if resume then z else stopAll z (cxs.filter (· != 0))) cp at_ cap).map fun t => (t, imageSize cp)

/-! ### Migration (R431) -/

/-- The work of a subtree leaves this stack with its capture: its kernels, and its fault table with it. Faults of the subtree in
another context's table stay unsettled (R389). -/
def departWork (s : State) (xs : List Nat) : State :=
  xs.foldl (fun s x =>
    clearWork { s with kernels := s.kernels.filter fun k => k.cx.toNat != x
                       faults := s.faults.filter fun e => e.holder.toNat != x } x true) s

/-- A migration: the subtree is frozen and captured by R428, with the bytes of its bay-store ranges, and the capture goes to the
target stack. Pages are not copied. -/
def migrate (s : State) (ch target : Nat) : State :=
  if target = s.sideband.stackNo.toNat then s
  else
    let xs := s.subtree ch
    let z := freezeAll s xs
    let bays := fun x => heldRanges { z with ctxs := z.ctxs.map fun e => (e.1, { e.2 with holds := e.2.holds.filter fun h => h.kind == 1#4 }) } x
    departWork { z with departed := z.departed ++ [(target, captureOf z ch xs (xs.flatMap bays) [])] } xs

/-- One move of accepted work. -/
def plateGo (s : State) (p : Pend) : State :=
  match s.plateWork.find? fun w => w.pend == p with
  | none => s
  | some w =>
    match p.op with
    | 0xE1 =>
      if w.ready then
        let s := if (s.ctx? w.child.toNat).isSome then migrate s w.child.toNat ((w.entries.head?.map fun h => h.p0.toNat).getD 0) else s
        endWork (sendLater s w.toks (p.fir.a.getD (plain 0)).word false) w
      else s
    | 0xE2 => goRevoke s w
    | 0xE4 => if w.ready && !(s.onFabric w.child.toNat) then endWork (sendLater s w.toks (p.fir.a.getD (plain 0)).word false) w else s
    | _ => if w.ready && flipDue s p.fir then flipNow (endWork s w) p.fir else s

/-! ### Restoring (R445) -/

/-- Ranges of a MEMR section in host memory, with their bytes, and where it ends. -/
def readRanges (m : List Host.Cell) : Nat → Nat → List (Nat × List Byte) × Nat
  | at_, 0 => ([], at_)
  | at_, n + 1 =>
    let len := fld (Memory.bytes m (at_ + 8) 8) 0 8
    let (rs, e) := readRanges m (at_ + 16 + len) n
    ((fld (Memory.bytes m at_ 8) 0 8, Memory.bytes m (at_ + 16) len) :: rs, e)

/-- The capture whose image stands in host memory at an address, with the bytes of memory that the image gives; none when its
MAGIC or its digest is wrong, or its scan-out is none that this stack has written (notes/assumptions/77.md). -/
def imageAt (s : State) (a : Nat) : Option Capture :=
  let word := fun off n => fld (Memory.bytes s.hostMem (a + off) n) 0 n
  let (rs, e) := readRanges s.hostMem (a + word 0x64 4) (word 0x6C 4)
  let digs := a + pad64 (e - a)
  let scan := Memory.bytes s.hostMem (a + word 0x44 4) (word 0x48 4)
  if word 0 4 != 0x4B584345 || Memory.bytes s.hostMem digs 64 != digestBytes (Memory.bytes s.hostMem a (digs - a)) then none
  else (s.captures.find? fun c => c.scan == scan).map fun c =>
    { c with ranges := rs.map fun r => (r.1, r.2.length), mem := rs.foldl (fun m r => Memory.putBytes m r.1 r.2) [] }

/-- A recorded holding is free in context 0's holding, or is a window of memory that exists. -/
def holdFree (s : State) (depth : BitVec 3) (h : Holding) : Bool :=
  let k := h.kind.toNat
  if k = 2 then depth != 1#3 || s.physExists h.p0.toNat (bitsAt h.p1 0 32 * 2 ^ 16)
  else if k = 0 ∨ k = 1 ∨ k = 3 ∨ k = 4 ∨ k = 8 then s.rootHolds h
  else if k = 5 ∨ k = 6 then depth != 1#3 || decide (h.p0.toNat ≤ s.freeShare 0 h.course.toNat k)
  else true

/-- Every number and holding of a capture is free, and its root's parent exists. -/
def captureFits (s : State) (c : Capture) : Bool :=
  let xs := c.ctxs.filter fun e => e.1 != 0
  (xs.all fun e => (s.ctx? e.1).isNone && !(s.migrated.any fun m => m.1.toNat == e.1)
      && e.2.holds.all (holdFree s e.2.depth))
    && (c.root == 0#12 || match lkp c.ctxs c.root.toNat with | some x => (s.ctx? x.parent.toNat).isSome | none => false)

/-- What a capture has in a bay comes back. -/
def restoreBay (s : State) (k : Nat) (p : Bay) : State :=
  s.modBay (k / 256) (k % 256) fun y =>
    { y with frames := p.frames.foldl (fun l e => put l e.1 e.2) y.frames
             pools := p.pools.foldl (fun l e => put l e.1 e.2) y.pools
             streams := p.streams.foldl (fun l e => put l e.1 e.2) y.streams
             fences := y.fences ++ p.fences
             taken := max y.taken p.taken
             spillSeq := if y.spillSeq < p.spillSeq then p.spillSeq else y.spillSeq
             grantAge := max y.grantAge p.grantAge }

def restoreElement (s : State) (k : Nat) (p : Element) : State :=
  s.modElem (k / 8192) (k % 8192) fun x =>
    { x with ready := x.ready ++ p.ready, pending := x.pending ++ p.pending, late := x.late ++ p.late
             input := x.input ++ p.input
             takes := p.takes.foldl (fun l e => put l e.1 e.2) x.takes }

def restoreCourse (s : State) (c : Nat) (p : Course) : State :=
  s.modCrs c fun y =>
    { y with frozen := y.frozen ++ p.frozen, loaded := p.loaded ++ y.loaded, refill := y.refill ++ p.refill, kept := y.kept ++ p.kept, port := y.port ++ p.port, ctl := y.ctl ++ p.ctl
             walks := y.walks ++ p.walks
             heap := { y.heap with
               entries := y.heap.entries ++ p.heap.entries, waits := y.heap.waits ++ p.heap.waits
               evictSeq := p.heap.evictSeq.foldl (fun l e => put l e.1 e.2) y.heap.evictSeq
               pops := p.heap.pops.foldl (fun l e => put l e.1 e.2) y.heap.pops
               oldPops := p.heap.oldPops.foldl (fun l e => put l e.1 e.2) y.heap.oldPops
               running := y.heap.running ++ p.heap.running } }

/-- Bytes of a capture come back; a tagged line of a range written bumps its context (R415). -/
def restoreMem (s : State) (c : Capture) : State :=
  let s := c.ranges.foldl (fun s r => touchRange s r.1 r.2) s
  let m := c.ranges.foldl (fun m r => Memory.clear m r.1 r.2) s.mem
  { s with mem := c.mem.foldl (fun m x => Memory.write m x.1 x.2) m }

/-- Entries of the Ridge come back, here and in the mirror of a course that has yet to catch up. -/
def restoreRidge (s : State) (c : Capture) : State :=
  let put := fun m => c.ridge.foldl (fun m x => Memory.write m x.1 x.2) (c.slots.foldl (fun m e => Memory.clear m (128 * e.1) 128) m)
  { s with ridge := put s.ridge, courses := s.courses.map fun e => (e.1, { e.2 with mirror := e.2.mirror.map put }) }

/-- A subtree is recreated from its capture under its former numbers. -/
def restoreCapture (s : State) (c : Capture) : State :=
  let s := restoreMem s c
  let s := c.bays.foldl (fun s e => restoreBay s e.1 e.2) s
  let s := c.elements.foldl (fun s e => restoreElement s e.1 e.2) s
  let s := c.crucibles.foldl (fun s e => s.setCru (e.1 / 32) (e.1 % 32) e.2) s
  let s := restoreRidge (c.courses.foldl (fun s e => restoreCourse s e.1 e.2) s) c
  let s := { s with
    ctxs := (c.ctxs.filter fun e => e.1 != 0).foldl (fun l e => put l e.1 e.2) s.ctxs
    kernels := s.kernels ++ c.kernels, saved := s.saved ++ c.saved, transit := s.transit ++ c.transit
    faults := s.faults ++ c.faults, dooms := s.dooms ++ c.dooms, barriers := s.barriers ++ c.barriers
    cells := s.cells ++ c.cells, cellWaits := s.cellWaits ++ c.cellWaits
    stags := c.stags.foldl (fun l e => put l e.1 e.2) s.stags
    selectors := c.selectors.foldl (fun l e => put l e.1 e.2) s.selectors
    structPages := s.structPages ++ c.structPages, lostPages := s.lostPages ++ c.lostPages
    replay := s.replay ++ c.replay, guardNotes := s.guardNotes ++ c.guardNotes, plateWork := s.plateWork ++ c.plateWork
    slots := c.slots.foldl (fun l e => put l e.1 e.2) s.slots
    rdgWaits := s.rdgWaits ++ c.rdgWaits, sigs := s.sigs ++ c.sigs, agenda := s.agenda ++ c.fires.map Pick.fire }
  (((c.ctxs.flatMap fun e => (e.2.holds.filter fun h => h.kind == 0#4).map fun h => h.range.1).eraseDups)).foldl syncParts s

end Sys2Proof.Machine
end

