-- ==== Sys2Proof/Machine/HostEvents.lean ====
section
/-! DEFINITION. Sys2Proof/Machine/HostEvents.lean: what the host does: window writes (R437, R443), and the messages of R439
with their answers (R438 to R448). Each message's event takes that message from the queue of delivered ones. -/

namespace Sys2Proof.Machine

/-! ### Taking a message (R438, R440, R441) -/

/-- Status codes (R440). -/
def stOK : Nat := 0
def stBadMsg : Nat := 1
def stNoContext : Nat := 2
def stHolding : Nat := 3
def stBadObject : Nat := 4
def stQueueFull : Nat := 7
def stBusy : Nat := 8
def stFault : Nat := 9
def stFull : Nat := 10
def stNoSpace : Nat := 12
def stLayout : Nat := 13

/-- A response: the request's code, tag and context, with RSP set. -/
def respond (s : State) (m : Msg) (status p0 p1 : Nat) (payload : List Byte) : State :=
  { s with hostOut := s.hostOut ++
      [{ opc := m.opc, flags := 0x80, tag := m.tag, cx := m.cx, status := BitVec.ofNat 16 status, p0 := BitVec.ofNat 64 p0,
         p1 := BitVec.ofNat 64 p1, payload := payload }] }

/-- A refusal with no further word. -/
def refuse (s : State) (m : Msg) (status : Nat) : State := respond s m status 0 0 []

/-- A FAULT response: kind, code and address. -/
def refuseFault (s : State) (m : Msg) (kind code addr : Nat) : State :=
  respond s m stFault addr (kind % 32 * 2 ^ 59 + code % 2 ^ 16) []

/-- MEM_COPY, CHECKPOINT, RESTORE and ATTEST run in the background (R441). -/
def Msg.background (m : Msg) : Bool := decide (5 ≤ m.opc.toNat) && decide (m.opc.toNat ≤ 8)

/-- LEN of a message: the bytes of its payload. -/
def Msg.len (m : Msg) : Nat := m.payload.length

/-- A message as it crosses the link: its 32-byte header, little-endian, then its payload. -/
def Msg.bytes (m : Msg) : List Byte :=
  leBytes 1 m.opc.toNat ++ leBytes 1 m.flags.toNat ++ leBytes 2 m.tag.toNat ++ leBytes 2 m.cx.toNat ++ leBytes 2 m.status.toNat
    ++ leBytes 4 m.len ++ leBytes 4 m.rsv.toNat ++ leBytes 8 m.p0.toNat ++ leBytes 8 m.p1.toNat ++ m.payload

/-- A message read from the link's bytes, the first LEN after its header being its payload. -/
def Msg.ofBytes (bs : List Byte) : Msg :=
  { opc := BitVec.ofNat 8 (fld bs 0 1), flags := BitVec.ofNat 8 (fld bs 1 1), tag := BitVec.ofNat 16 (fld bs 2 2)
    cx := BitVec.ofNat 16 (fld bs 4 2), status := BitVec.ofNat 16 (fld bs 6 2), p0 := BitVec.ofNat 64 (fld bs 0x10 8)
    p1 := BitVec.ofNat 64 (fld bs 0x18 8), payload := slice bs 32 (fld bs 8 4), rsv := BitVec.ofNat 32 (fld bs 0x0C 4) }

/-- A header that R438 does not allow. -/
def Msg.malformed (m : Msg) : Bool :=
  m.flags.toNat ≥ (if m.opc = 6#8 then 4 else 1) || decide (255 < m.tag.toNat) || decide (4095 < m.cx.toNat) || m.status != 0
    || m.len % 8 != 0 || decide (0x10000000 < m.len) || m.rsv != 0

/-- The first message of a kind that may begin: those before it run in the background, for other contexts and under other
tags. -/
def nextMsg (f : Msg → Bool) : List Msg → List Msg → Option Msg
  | _, [] => none
  | before, m :: rest =>
    if f m && before.all (fun x => x.background && x.cx != m.cx && x.tag != m.tag) then some m else nextMsg f (before ++ [m]) rest

/-- Answered while FROZEN is set: TELEM, ATTEST and RESET of the stack. -/
def Msg.whileFrozen (m : Msg) : Bool := m.opc == 9#8 || m.opc == 8#8 || (m.opc == 10#8 && m.cx == 0#16)

/-- The first message of each tag, and those that repeat the tag of one before them. -/
def splitTags : List Msg → List Msg → List Msg × List Msg
  | seen, [] => (seen, [])
  | seen, m :: rest =>
    if seen.any fun x => x.tag == m.tag then let (a, b) := splitTags seen rest; (a, m :: b)
    else splitTags (seen ++ [m]) rest

/-- A message whose tag is outstanding is refused with BAD_MSG (R441). -/
def refuseRepeats (s : State) : State :=
  let (first, again) := splitTags [] s.hostIn
  again.foldl (fun s x => refuse s x stBadMsg) { s with hostIn := first }

/-- A message of a kind is taken, and acts or is refused. While `hold` gives a state, the message stays where it is: it waits for a
course to wake (R453). -/
def hostEvent (s : State) (f : Msg → Bool) (act : State → Msg → State) (hold : State → Msg → Option State := fun _ _ => none) : State :=
  if !s.linkUp || s.sideband.phase != 7#4 then s
  else
    let s := refuseRepeats s
    match nextMsg f [] s.hostIn with
    | none => s
    | some m =>
      let t := { s with hostIn := s.hostIn.erase m }
      if m.malformed then refuse t m stBadMsg
      else if s.sideband.frozen && !m.whileFrozen then refuse t m stBusy
      else
        match hold s m with
        | some s => s
        | none => act t m

/-- Message of a code. -/
def opcIs (n : Nat) (m : Msg) : Bool := m.opc.toNat == n

/-- A message for the stack as a whole, with no parameters and no payload. -/
def plainMsg (m : Msg) : Bool := m.p0 == 0 && m.p1 == 0 && m.payload.isEmpty

/-- A depth-1 context. -/
def depthOne (s : State) (cx : Nat) : Bool := cx != 0 && (s.ctx? cx).isSome && (s.ctx cx).depth == 1#3

/-! ### The window (R437, R443) -/

/-- An access that the window carries: aligned, of 8 to 64 bytes, within far memory. -/
def windowOk (off n : Nat) : Bool := (n == 8 || n == 16 || n == 32 || n == 64) && off % n == 0 && decide (off + n ≤ farSize)

def windowPut (s : State) (w : Nat × List Byte) : State :=
  if windowOk w.1 w.2.length then
    writeBytes s ((List.range w.2.length).map (fun i => farBase + w.1 + i) |>.zip w.2)
  else s

/-- HOST_WINDOW_WRITE (R443): the oldest window write reaches its controller. -/
def execHostWindowWrite (_ : EvArgs) (s : State) : Host.Outcome State Fault Refusal :=
  .next (match s.windowIn with
    | [] => s
    | w :: ws => windowPut { s with windowIn := ws } w)

/-- A 64-bit register of the sideband as the host reads it: STATUS, WFENCE and STACKNO; reserved bits read 0. -/
def sidebandWord (s : State) (off : Nat) : Word :=
  let x := s.sideband
  match off with
  | 0x00 => BitVec.ofNat 64 (x.phase.toNat + x.ready.toNat * 2 ^ 4 + x.frozen.toNat * 2 ^ 5)
  | 0x10 => BitVec.ofNat 64 x.stackNo.toNat
  | _ => 0

/-- WFENCE (R437): every window write issued before the read is performed; the read returns 0. -/
def execWfence (s : State) : Host.Outcome State Fault Refusal :=
  .next (s.windowIn.foldl windowPut { s with windowIn := [], sidebandOut := s.sidebandOut ++ [sidebandWord s 0x08] })

/-! ### Contexts -/

/-- Sixteen-byte entries from words. -/
def entriesOf : List Nat → List Holding
  | a :: b :: rest => holdingOf a b :: entriesOf rest
  | _ => []

/-- CTX_CREATE (R439): a runnable context of depth 1 from context 0's holdings. -/
def execCtxCreate (s : State) : Host.Outcome State Fault Refusal :=
  .next (hostEvent s (opcIs 1) fun s m =>
    let ws := wordsOf (m.payload.length / 8) m.payload
    let es := entriesOf (ws.drop 8)
    match creationOf (ws.take 8) with
    | none => refuse s m stBadMsg
    | some f =>
      if m.cx != 0 || m.p0 != 0 || m.p1 != 0 || ws.length != 8 + 2 * f.2.2.1 then refuse s m stBadMsg
      else
        match createChild s 0 (ws.take 8) es with
        | .error (kind, _) => refuse s m (if kind = kHOLDING then stHolding else stBadMsg)
        | .ok (cx, s) =>
          let s := s.modCtx cx fun x =>
            { x with runnable := true, quantum := if x.holds.any (fun h => h.kind == 11#4) then x.quantum else 1000000 }
          respond { s with created := true } m stOK (ctxWord s cx) 0 [])

/-- CTX_DELETE (R287, R439). -/
def execCtxDelete (s : State) : Host.Outcome State Fault Refusal :=
  .next (hostEvent s (opcIs 2) fun s m =>
    if !(depthOne s m.cx.toNat) then refuse s m stNoContext
    else if !(plainMsg m) then refuse s m stBadMsg
    else respond (deleteCtx s m.cx.toNat) m stOK 0 0 [])

/-- RESET of a depth-1 context, as CTX.RST (R287, R434). -/
def execResetContext (s : State) : Host.Outcome State Fault Refusal :=
  .next (hostEvent s (fun m => opcIs 10 m && m.cx != 0) fun s m =>
    if !(depthOne s m.cx.toNat) then refuse s m stNoContext
    else if !(plainMsg m) then refuse s m stBadMsg
    else respond (resetCtx s m.cx.toNat) m stOK 0 0 [])

/-! ### Planes and kernels -/

/-- A plane that replaces one whose context has live frames changes a HASH (R114 step 6). -/
def putBreaks (s : State) (num : Nat) (new : Plane) : Bool :=
  s.courses.any fun e => layoutBreaks s e.1 new fun l => l.plane.toNat == num

/-- Bytes of the Thatch (R4). -/
def thatchSize : Nat := 2 ^ 34

/-- PLANE_PUT (R114, R439). -/
def execPlanePut (s : State) : Host.Outcome State Fault Refusal :=
  .next (hostEvent s (opcIs 3) fun s m =>
    let want := m.p0.toNat % 2 ^ 16
    let num? := if want = 0 then ((List.range 65535).map (· + 1)).find? fun n => (lkp s.planes n).isNone else some want
    if m.cx != 0 || m.p0.toNat ≥ 2 ^ 16 || m.p1 != 0 then refuse s m stBadMsg
    else
      match num? with
      | none => refuse s m stNoSpace
      | some num =>
        match readObject s num m.payload with
        | .error st => refuse s m st
        | .ok p =>
          let others := (s.planes.filter fun e => e.1 != num).map fun e => e.2.bytes
          if putBreaks s num p then refuse s m stLayout
          else if thatchSize < others.sum + p.bytes then refuse s m stNoSpace
          else respond { s with planes := put s.planes num p } m stOK num 0 [])

/-- LAUNCH (R354, R355, R439, R440). -/
def execLaunchMessage (s : State) : Host.Outcome State Fault Refusal :=
  .next (hostEvent s (opcIs 4) fun s m =>
    let ws := wordsOf (m.payload.length / 8) m.payload
    if m.cx = 0 ∨ (s.ctx? m.cx.toNat).isNone then refuse s m stNoContext
    else if m.p0 != 0 || m.p1 != 0 || ws.length < 8 || ws.getD 0 0 / 2 ^ 48 % 2 ^ 12 != m.cx.toNat then refuse s m stBadMsg
    else
      match queueLaunch s (ws.take 8) (ws.drop 8) true with
      | .ok (w, s) => respond s m stOK w 0 []
      | .error (kind, code) =>
        if kind = kHOLDING then refuse s m (if code = 6 then stQueueFull else stHolding)
        else if kind = kCFGFETCH then refuseFault s m kind code 0
        else refuse s m stBadMsg)

/-! ### Copies (R328, R439) -/

/-- A byte of a context's space as the copy engine reaches it; context 0 names physical memory. -/
def hostByte (s : State) (cx va : Nat) (write : Bool) : Except (Nat × Nat) Nat :=
  if cx = 0 then
    if s.physExists va 1 then .ok (s.localPA va) else .error (kPAGE, if s.unreachable va then 8 else 0)
  else
    match s.walk cx va with
    | .error x => let x := pullFault s x; .error (x.kind, x.code)
    | .ok o =>
      if (if write then clsStore else clsLoad) / 2 ^ o.cls % 2 = 0 ∨ o.cls = 4 then .error (kPROT, 7)
      else if write && !o.w then .error (kPROT, 6)
      else
        match s.resolveByte cx va with
        | .error x => .error (x.kind, x.code)
        | .ok a => if s.unreachable a then .error (kPAGE, 8) else .ok a

/-- The bytes of a range, or the fault and the address of the first that fails. -/
def hostBytes (s : State) (cx : Nat) (write : Bool) : Nat → Nat → Except (Nat × Nat × Nat) (List Nat)
  | _, 0 => .ok []
  | va, n + 1 =>
    match hostByte s cx va write with
    | .error (k, c) => .error (k, c, va)
    | .ok a =>
      match hostBytes s cx write (va + 1) n with
      | .error e => .error e
      | .ok as => .ok (a :: as)

/-- The bays in whose stores some bytes lie. -/
def baysOf (as : List Nat) : List (Nat × Nat) := ((as.filter isNearPA).map homeOf).eraseDups

/-- A write in physical memory is noted at once where it lands on a guard granule (R393). -/
def noteGuards (s : State) (as : List Nat) : State :=
  (baysOf as).foldl (fun s (x : Nat × Nat) =>
    (bayAllocs (s.bay x.1 x.2)).foldl (fun (s : State) (a : Nat × AllocId) => guardOf s x.1 x.2 a.1 a.2) s) s

/-- Device bytes are written, the pages' D bits set (R416). -/
def hostWrite (s : State) (cx va : Nat) (as : List Nat) (bs : List Byte) : State :=
  if cx = 0 then noteGuards (writeBytes s (as.zip bs)) as else s.writeRegion cx va as bs

/-- DIR and the length of a MEM_COPY; none when its payload is malformed. -/
def copyArgs (s : State) (m : Msg) : Option (Nat × Nat) :=
  match wordsOf (m.payload.length / 8) m.payload with
  | [w] =>
    if w / 2 ^ 62 = 3 ∨ w / 2 ^ 40 % 2 ^ 22 ≠ 0 ∨ w % 8 ≠ 0 ∨ (s.ctx? m.cx.toNat).isNone then none else some (w / 2 ^ 62, w % 2 ^ 40)
  | _ => none

/-- The pages that a device access of the host needs are pulled (R432). -/
def hostPull (s : State) (cx va n : Nat) : State := if cx = 0 then s else pullRange s cx (n / 2 ^ 16 + 2) va n

/-- The pages of a MEM_COPY are pulled. -/
def copyPull (s : State) (m : Msg) (dir n : Nat) : State :=
  let s := if dir = 0 then s else hostPull s m.cx.toNat m.p0.toNat n
  if dir = 1 then s else hostPull s m.cx.toNat m.p1.toNat n

/-- What waits for a course to wake: some bytes that are homed on one that sleeps (R453). -/
def holdFor (s : State) (as : List Nat) : Option State := if (s.firstAsleep as).isSome then some (wakeAt s as) else none

/-- A MEM_COPY waits for the courses in whose stores its device bytes lie. -/
def copyHold (s : State) (m : Msg) : Option State :=
  match copyArgs s m with
  | none => none
  | some (dir, n) =>
    if (List.range 16).all fun c => !(s.asleep c) then none
    else
      let s := copyPull s m dir n
      let side := fun (skip write : Bool) (a : Nat) => if skip then [] else
        match hostBytes s m.cx.toNat write a n with | .ok as => as | .error _ => []
      holdFor s (side (dir == 0) false m.p0.toNat ++ side (dir == 1) true m.p1.toNat)

/-- A MEM_COPY runs. -/
def memCopy (s : State) (m : Msg) : State :=
  let cx := m.cx.toNat
  let src := m.p0.toNat
  let dst := m.p1.toNat
  match copyArgs s m with
  | none => refuse s m stBadMsg
  | some (dir, n) =>
    let s := copyPull s m dir n
    let from_ : Except (Nat × Nat × Nat) (List Byte) :=
      if dir = 0 then .ok (Memory.bytes s.hostMem src n) else (hostBytes s cx false src n).map (readBytes s)
    match from_ with
    | .error (k, c, a) => refuseFault s m k c a
    | .ok bs =>
      if dir = 1 then respond { s with hostMem := Memory.putBytes s.hostMem dst bs } m stOK 0 0 []
      else
        match hostBytes s cx true dst n with
        | .error (k, c, a) => refuseFault s m k c a
        | .ok as => respond (hostWrite s cx dst as bs) m stOK 0 0 []

/-- DIR of a message. -/
def copyDir (m : Msg) : Nat := fld m.payload 0 8 / 2 ^ 62

/-- MEM_COPY, host to device. -/
def execMemCopyToDevice (s : State) : Host.Outcome State Fault Refusal :=
  .next (hostEvent s (fun m => opcIs 5 m && copyDir m == 0) memCopy copyHold)

/-- MEM_COPY, device to host. -/
def execMemCopyToHost (s : State) : Host.Outcome State Fault Refusal :=
  .next (hostEvent s (fun m => opcIs 5 m && copyDir m == 1) memCopy copyHold)

/-- MEM_COPY, device to device; a DIR of 3 is refused. -/
def execMemCopyDevice (s : State) : Host.Outcome State Fault Refusal :=
  .next (hostEvent s (fun m => opcIs 5 m && decide (2 ≤ copyDir m)) memCopy copyHold)

/-! ### Checkpoints (R444 to R446) -/

/-- CHECKPOINT of a subtree or of the stack. -/
def execCheckpoint (s : State) : Host.Outcome State Fault Refusal :=
  .next (hostEvent s (fun m => opcIs 6 m && !(bitAt m.flags 1)) fun s m =>
    let cx := m.cx.toNat
    if (s.ctx? cx).isNone then refuse s m stNoContext
    else if !m.payload.isEmpty then refuse s m stBadMsg
    else
      match checkpointAt s cx (bitAt m.flags 0) m.p0.toNat m.p1.toNat with
      | none => refuse s m stNoSpace
      | some (s, n) => respond s m stOK n 0 [])

/-- CHECKPOINT with DEBUG: the whole stack stops, and FROZEN stays set until RESET of the stack. -/
def execCheckpointDebug (s : State) : Host.Outcome State Fault Refusal :=
  .next (hostEvent s (fun m => opcIs 6 m && bitAt m.flags 1) fun s m =>
    if m.cx != 0 || !m.payload.isEmpty then refuse s m stBadMsg
    else
      let cp := debugCapture s (scanOut s)
      match writeImage s cp m.p0.toNat m.p1.toNat with
      | none => refuse s m stNoSpace
      | some s => respond { s with sideband := { s.sideband with frozen := true } } m stOK (imageSize cp) 0 [])

/-- RESTORE: the image's digest is checked, then its numbers and holdings. -/
def execRestoreMessage (s : State) : Host.Outcome State Fault Refusal :=
  .next (hostEvent s (opcIs 7) fun s m =>
    if m.cx != 0 || m.p1 != 0 || !m.payload.isEmpty then refuse s m stBadMsg
    else
      match imageAt s m.p0.toNat with
      | none => refuse s m stBadObject
      | some c =>
        if c.debug then refuse s m stBadObject
        else if !(captureFits s c) then refuse s m stHolding
        else
          let s := restoreCapture s c
          respond s m stOK (ctxWord s c.root.toNat) 0 [])

/-! ### Attestation (R447) -/

/-- The policy state: selectors 2 to 4 in order. -/
def policyBytes (p : Policy) : List Byte := leBytes 8 p.spare ++ leBytes 8 p.signed.toNat ++ p.keys.flatten

/-- The signed part of a report. -/
def reportBody (s : State) (nonce : List Byte) : List Byte :=
  asciiOf [0x45, 0x43, 0x58, 0x41] ++ leBytes 4 1 ++ leBytes 8 s.sideband.stackNo.toNat ++ nonce
    ++ (leBytes 64 Config.romDigest.toNat).reverse ++ (leBytes 64 Config.identityDigest.toNat).reverse
    ++ digestBytes (policyBytes s.policy) ++ leBytes 8 s.tick.toNat ++ List.replicate 40 0#8

/-- ATTEST selector 0: the report, signed by the root of trust. -/
def execAttestReport (s : State) : Host.Outcome State Fault Refusal :=
  .next (hostEvent s (fun m => opcIs 8 m && m.p0 == 0) fun s m =>
    if m.cx != 0 || m.p1 != 0 || m.payload.length != 64 then refuse s m stBadMsg
    else
      let body := reportBody s m.payload
      let sg := Config.rootSign body s.fresh
      respond { s with fresh := s.fresh + 1 } m stOK 0 0 (body ++ (List.range 512).map fun i => sg.getD i 0#8))

/-- The certificate chain as a payload, whose length is a multiple of 8 (R438): zero bytes follow it
(notes/assumptions/132.md, DESIGN CHOICE). -/
def chainBytes : List Byte := Config.certChain ++ List.replicate ((8 - Config.certChain.length % 8) % 8) 0#8

/-- ATTEST selector 1: the certificate chain; a selector above 1 is refused. -/
def execAttestChain (s : State) : Host.Outcome State Fault Refusal :=
  .next (hostEvent s (fun m => opcIs 8 m && m.p0 != 0) fun s m =>
    if m.cx != 0 || m.p1 != 0 || m.p0 != 1 || !m.payload.isEmpty then refuse s m stBadMsg
    else respond s m stOK 0 0 chainBytes)

/-! ### Telemetry (R452) -/

/-- A TELEM selector's words. -/
def telemAct (ws : State → List Nat) (s : State) (m : Msg) : State :=
  if m.cx != 0 || m.p1 != 0 || !m.payload.isEmpty then refuse s m stBadMsg
  else respond s m stOK 0 0 ((ws s).flatMap (leBytes 8))

/-- Selector 0: package power, then each course's step. -/
def execTelemPower (s : State) : Host.Outcome State Fault Refusal :=
  .next (hostEvent s (fun m => opcIs 9 m && m.p0 == 0)
    (telemAct fun s => s.telem.power.toNat :: (List.range 16).map fun c => (s.crs c).step))

/-- Selector 1: temperatures. -/
def execTelemTemperature (s : State) : Host.Outcome State Fault Refusal :=
  .next (hostEvent s (fun m => opcIs 9 m && m.p0 == 1) (telemAct fun s => (List.range 16).map (tempOf s)))

/-- Selector 2: corrected and uncorrectable errors, and the retired banks. -/
def execTelemErrors (s : State) : Host.Outcome State Fault Refusal :=
  .next (hostEvent s (fun m => opcIs 9 m && m.p0 == 2)
    (telemAct fun s => s.telem.corrected :: s.telem.uncorrectable :: s.telem.retiredBanks))

/-- Code of a sleep state. -/
def Power.code : Power → Nat
  | .awake => 0
  | .retention => 1
  | .off => 2

/-- Selector 3: the sleep state of each course, 2 bits each. -/
def execTelemSleep (s : State) : Host.Outcome State Fault Refusal :=
  .next (hostEvent s (fun m => opcIs 9 m && m.p0 == 3)
    (telemAct fun s => [((List.range 16).map fun c => (s.crs c).power.code * 4 ^ c).sum]))

/-- Selector 4: sync flag and master stack; a selector above 4, and a message of a code that R439 does not list, are
refused. -/
def execTelemSync (s : State) : Host.Outcome State Fault Refusal :=
  .next (hostEvent s (fun m => (opcIs 9 m && decide (4 ≤ m.p0.toNat)) || m.opc == 0#8 || decide (0x0C < m.opc.toNat)) fun s m =>
    if m.opc != 9#8 || m.p0 != 4 then refuse s m stBadMsg
    else telemAct (fun s => [s.telem.syncFlag.toNat, s.telem.master.toNat]) s m)

/-! ### Reset of the stack (R455) -/

/-- The stack after phases 3 to 7: R455's table, with what the rule keeps and what lies outside the stack: the memory of other
stacks, by its pod addresses. Failed banks, downpipes and courses stay failed, as the self-test of phase 3 finds them. -/
def resetState (s : State) : State :=
  startClocks { State.reset with
    stepCount := s.stepCount, fresh := s.fresh, cycles := s.cycles, tick := s.tick
    mem := podCells s.mem, stags := podCells s.stags, selectors := podCells s.selectors
    courses := (s.courses.filter fun e => e.2.failed).map fun e => (e.1, { Course.empty with failed := true })
    hostMem := s.hostMem, hostOut := s.hostOut, captures := s.captures, linkUp := s.linkUp, reach := s.reach
    sideband := { phase := 7, ready := true, frozen := false, stackNo := s.sideband.stackNo }
    telem := { State.reset.telem with
      retiredBanks := s.telem.retiredBanks, failedPipes := s.telem.failedPipes, retiredFar := s.telem.retiredFar, master := masterOf s
      drift := s.telem.drift, syncFlag := s.telem.syncFlag, lastSync := s.telem.lastSync } }

/-- RESET of the stack: outstanding messages are answered with BUSY, and the kernels of LAUNCH messages end. -/
def execResetStack (s : State) : Host.Outcome State Fault Refusal :=
  .next (hostEvent s (fun m => opcIs 10 m && m.cx == 0) fun s m =>
    if !(plainMsg m) then refuse s m stBadMsg
    else
      let s := s.hostIn.foldl (fun s x => refuse s x stBusy) s
      let s := (s.kernels.filter fun k => k.fromHost && k.state != .ended).foldl (fun s k => endKernel s k .killed 0 0) s
      respond (resetState s) m stOK 0 0 [])

/-! ### Endpoints (R230, R439, R442) -/

/-- The word of an EP_SEND lies in a page that is pulled first (R432). -/
def epPull (s : State) (m : Msg) : State :=
  let va := fld m.payload 0 8
  if va % 8 = 0 ∧ va < 2 ^ 56 then pullPage s m.cx.toNat va 8 else s

/-- The structure word that an EP_SEND names, or the fault. -/
def epWord (s : State) (cx va : Nat) : Except (Nat × Nat) Nat :=
  if va % 8 ≠ 0 then .error (kALIGN, 0)
  else if 2 ^ 56 ≤ va then .error (kPROT, 0)
  else
    match s.walk cx va with
    | .error x => let x := pullFault s x; .error (x.kind, x.code)
    | .ok o =>
      if o.cls ≠ 3 then .error (kPROT, 7)
      else if !o.w then .error (kPROT, 6)
      else match s.resolveByte cx va with
        | .ok a => .ok a
        | .error x => .error (x.kind, x.code)

/-- An EP_SEND that is malformed, or that names what the context does not hold: its status. -/
def epRefused (s : State) (m : Msg) : Option Nat :=
  if m.payload.length != 8 || 64 ≤ m.p0.toNat then some stBadMsg
  else if (s.ctx? m.cx.toNat).isNone || !(s.holdsEndpoint m.cx.toNat m.p0.toNat) then some stHolding
  else none

/-- An EP_SEND waits for the course in whose store its word lies (R453). -/
def epHold (s : State) (m : Msg) : Option State :=
  if ((List.range 16).all fun c => !(s.asleep c)) || (epRefused s m).isSome then none
  else
    let s := epPull s m
    match epWord s m.cx.toNat (fld m.payload 0 8) with
    | .ok a => holdFor s [a]
    | .error _ => none

/-- EP_SEND: IST.rel.sys of P1 into the named word, a write through its translation (R416). -/
def epSend (s : State) (m : Msg) : State :=
  let cx := m.cx.toNat
  let va := fld m.payload 0 8
  match epRefused s m with
  | some status => refuse s m status
  | none =>
    let s := epPull s m
    match epWord s cx va with
    | .error (k, c) => refuseFault s m k c va
    | .ok a =>
      let s := match s.walk cx va with | .ok o => install s (a / 2 ^ 28 % 16) (a / 2 ^ 20 % 256) cx va o | .error _ => s
      if (s.stag a).full || (s.stag a).res then refuse s m stFull
      else respond (serveReleases (fillWord (dirtyRegion s cx 1 va 8) a m.p1.toNat)) m stOK 0 0 []

/-- EP_SEND (R439). -/
def execEpSend (s : State) : Host.Outcome State Fault Refusal := .next (hostEvent s (opcIs 11) epSend epHold)

/-- SIG_DELIVERY_ACK (R442): the oldest SIG of endpoint `k` is delivered, and its queue entry frees. -/
def execSigDeliveryAck (e : EvArgs) (s : State) : Host.Outcome State Fault Refusal :=
  .next (if !s.linkUp then s
    else
      match s.sigs.find? fun x => x.ep == e.k.toNat with
      | none => s
      | some x => hostSend { s with sigs := s.sigs.erase x } 0x81 x.cx.toNat x.ep x.val.toNat)

/-- HOST_LINK_DOWN (R293): the host link goes down. -/
def execHostLinkDown (s : State) : Host.Outcome State Fault Refusal := .next { s with linkUp := false }

/-! ### POLICY (R440, R448) -/

/-- A POLICY value is set: the stack's own, its value within limits, and, for selectors 2 to 4, before the first
CTX_CREATE. -/
def policyAct (early : Bool) (ok : Msg → Bool) (set : Policy → Msg → Policy) (s : State) (m : Msg) : State :=
  if early && s.created then refuse s m stBusy
  else if m.cx != 0 || !(ok m) then refuse s m stBadMsg
  else respond { s with policy := set s.policy m } m stOK 0 0 []

/-- Selector 0: package power limit in W. -/
def execPolicyPowerLimit (s : State) : Host.Outcome State Fault Refusal :=
  .next (hostEvent s (fun m => opcIs 12 m && m.p0 == 0)
    (policyAct false (fun m => m.payload.isEmpty && decide (600 ≤ m.p1.toNat) && decide (m.p1.toNat ≤ 1800)) fun p m => { p with power := m.p1.toNat }))

/-- Selector 1: retention and off allowed. -/
def execPolicySleep (s : State) : Host.Outcome State Fault Refusal :=
  .next (hostEvent s (fun m => opcIs 12 m && m.p0 == 1)
    (policyAct false (fun m => m.payload.isEmpty && decide (m.p1.toNat < 4)) fun p m => { p with sleep := BitVec.ofNat 2 m.p1.toNat }))

/-- Selector 2: spare banks withheld per course. -/
def execPolicySpareBanks (s : State) : Host.Outcome State Fault Refusal :=
  .next (hostEvent s (fun m => opcIs 12 m && m.p0 == 2)
    (policyAct true (fun m => m.payload.isEmpty && decide (m.p1.toNat ≤ 4)) fun p m => { p with spare := m.p1.toNat }))

/-- Selector 3: signed planes required. -/
def execPolicySignedPlanes (s : State) : Host.Outcome State Fault Refusal :=
  .next (hostEvent s (fun m => opcIs 12 m && m.p0 == 3)
    (policyAct true (fun m => m.payload.isEmpty && decide (m.p1.toNat < 2)) fun p m => { p with signed := m.p1 == 1 }))

/-- Selector 4: a plane-signing key, at most 8; a selector above 4 is refused. -/
def execPolicyKeyInstall (s : State) : Host.Outcome State Fault Refusal :=
  .next (hostEvent s (fun m => opcIs 12 m && decide (4 ≤ m.p0.toNat)) fun s m =>
    if m.p0 != 4 then refuse s m stBadMsg
    else policyAct true (fun m => m.payload.length == 512 && decide (s.policy.keys.length < 8)) (fun p m => { p with keys := p.keys ++ [m.payload] }) s m)

end Sys2Proof.Machine
end

