-- ==== Sys2Proof/Machine/Dispatch.lean ====
section
/-! DEFINITION. Sys2Proof/Machine/Dispatch.lean: one arm per constructor of Instr. -/

namespace Sys2Proof.Machine

def exec (i : Instr) (s : State) : Host.Outcome State Fault Refusal :=
  match i with
  | .tokenArrival e => Sys2Proof.Machine.execTokenArrival e s
  | .castCommit e => Sys2Proof.Machine.execCastCommit e s
  | .castAbort e => Sys2Proof.Machine.execCastAbort e s
  | .stall e => Sys2Proof.Machine.execStall e s
  | .compactionMoveDone e => Sys2Proof.Machine.execCompactionMoveDone e s
  | .spillTimerExpiry e => Sys2Proof.Machine.execSpillTimerExpiry e s
  | .spillWriteAck e => Sys2Proof.Machine.execSpillWriteAck e s
  | .waveLoadPerform e => Sys2Proof.Machine.execWaveLoadPerform e s
  | .walkComplete e => Sys2Proof.Machine.execWalkComplete e s
  | .walkerStart e => Sys2Proof.Machine.execWalkerStart e s
  | .cmbPartialArrival e => Sys2Proof.Machine.execCmbPartialArrival e s
  | .cmbCellTimeout e => Sys2Proof.Machine.execCmbCellTimeout e s
  | .barrierPhaseComplete e => Sys2Proof.Machine.execBarrierPhaseComplete e s
  | .ridgeOccurrence e => Sys2Proof.Machine.execRidgeOccurrence e s
  | .ridgeControlWord e => Sys2Proof.Machine.execRidgeControlWord e s
  | .ridgeMirrorApply e => Sys2Proof.Machine.execRidgeMirrorApply e s
  | .tickUntilExpiry e => Sys2Proof.Machine.execTickUntilExpiry e s
  | .crucibleTokenArrival e => Sys2Proof.Machine.execCrucibleTokenArrival e s
  | .crucibleOperationStart e => Sys2Proof.Machine.execCrucibleOperationStart e s
  | .permitHandout e => Sys2Proof.Machine.execPermitHandout e s
  | .burstEnd e => Sys2Proof.Machine.execBurstEnd e s
  | .gateStreamBind e => Sys2Proof.Machine.execGateStreamBind e s
  | .gateFeedBeat e => Sys2Proof.Machine.execGateFeedBeat e s
  | .gateDrainBeat e => Sys2Proof.Machine.execGateDrainBeat e s
  | .gateStreamComplete e => Sys2Proof.Machine.execGateStreamComplete e s
  | .gateStreamFault e => Sys2Proof.Machine.execGateStreamFault e s
  | .faultDelivery e => Sys2Proof.Machine.execFaultDelivery e s
  | .verdictApply e => Sys2Proof.Machine.execVerdictApply e s
  | .kernelSelect e => Sys2Proof.Machine.execKernelSelect e s
  | .kernelStart e => Sys2Proof.Machine.execKernelStart e s
  | .kernelCancel e => Sys2Proof.Machine.execKernelCancel e s
  | .gangStartTick e => Sys2Proof.Machine.execGangStartTick e s
  | .sourceInjection e => Sys2Proof.Machine.execSourceInjection e s
  | .kernelEnd e => Sys2Proof.Machine.execKernelEnd e s
  | .heapPop e => Sys2Proof.Machine.execHeapPop e s
  | .sliceEnd e => Sys2Proof.Machine.execSliceEnd e s
  | .sweep e => Sys2Proof.Machine.execSweep e s
  | .freeze e => Sys2Proof.Machine.execFreeze e s
  | .sliceResume e => Sys2Proof.Machine.execSliceResume e s
  | .cfgFillComplete e => Sys2Proof.Machine.execCfgFillComplete e s
  | .pagePull e => Sys2Proof.Machine.execPagePull e s
  | .pullLost e => Sys2Proof.Machine.execPullLost e s
  | .permitStepLower e => Sys2Proof.Machine.execPermitStepLower e s
  | .permitStepRaise e => Sys2Proof.Machine.execPermitStepRaise e s
  | .courseRetentionEnter e => Sys2Proof.Machine.execCourseRetentionEnter e s
  | .courseOffEnter e => Sys2Proof.Machine.execCourseOffEnter e s
  | .courseWake e => Sys2Proof.Machine.execCourseWake e s
  | .scrub e => Sys2Proof.Machine.execScrub e s
  | .uncorrectableError e => Sys2Proof.Machine.execUncorrectableError e s
  | .downpipeFail e => Sys2Proof.Machine.execDownpipeFail e s
  | .courseFail e => Sys2Proof.Machine.execCourseFail e s
  | .downpipeTestBeat e => Sys2Proof.Machine.execDownpipeTestBeat e s
  | .eaveFlitReplay e => Sys2Proof.Machine.execEaveFlitReplay e s
  | .eaveLinkLoss e => Sys2Proof.Machine.execEaveLinkLoss e s
  | .restoreCopyDone e => Sys2Proof.Machine.execRestoreCopyDone e s
  | .crucibleOperationComplete e => Sys2Proof.Machine.execCrucibleOperationComplete e s
  | .sigDeliveryAck e => Sys2Proof.Machine.execSigDeliveryAck e s
  | .hostWindowWrite e => Sys2Proof.Machine.execHostWindowWrite e s
  | .permitFallDue e => Sys2Proof.Machine.execPermitFallDue e s
  | .pass r => Sys2Proof.Machine.execPass r s
  | .sink r => Sys2Proof.Machine.execSink r s
  | .lit r => Sys2Proof.Machine.execLit r s
  | .src r => Sys2Proof.Machine.execSrc r s
  | .steer r => Sys2Proof.Machine.execSteer r s
  | .sel r => Sys2Proof.Machine.execSel r s
  | .merge r => Sys2Proof.Machine.execMerge r s
  | .join r => Sys2Proof.Machine.execJoin r s
  | .vert r => Sys2Proof.Machine.execVert r s
  | .eave r => Sys2Proof.Machine.execEave r s
  | .repl r => Sys2Proof.Machine.execRepl r s
  | .extr r => Sys2Proof.Machine.execExtr r s
  | .tagget r => Sys2Proof.Machine.execTagget r s
  | .tagset r => Sys2Proof.Machine.execTagset r s
  | .call r => Sys2Proof.Machine.execCall r s
  | .ret r => Sys2Proof.Machine.execRet r s
  | .exit r => Sys2Proof.Machine.execExit r s
  | .iter r => Sys2Proof.Machine.execIter r s
  | .strand r => Sys2Proof.Machine.execStrand r s
  | .allocFrm r => Sys2Proof.Machine.execAllocFrm r s
  | .allocBuf r => Sys2Proof.Machine.execAllocBuf r s
  | .allocRdg r => Sys2Proof.Machine.execAllocRdg r s
  | .allocCru r => Sys2Proof.Machine.execAllocCru r s
  | .freeFrm r => Sys2Proof.Machine.execFreeFrm r s
  | .freeBuf r => Sys2Proof.Machine.execFreeBuf r s
  | .use r => Sys2Proof.Machine.execUse r s
  | .freeRdg r => Sys2Proof.Machine.execFreeRdg r s
  | .poolq r => Sys2Proof.Machine.execPoolq r s
  | .add r => Sys2Proof.Machine.execAdd r s
  | .sub r => Sys2Proof.Machine.execSub r s
  | .mul r => Sys2Proof.Machine.execMul r s
  | .mulh r => Sys2Proof.Machine.execMulh r s
  | .div r => Sys2Proof.Machine.execDiv r s
  | .rem r => Sys2Proof.Machine.execRem r s
  | .mad r => Sys2Proof.Machine.execMad r s
  | .neg r => Sys2Proof.Machine.execNeg r s
  | .abs r => Sys2Proof.Machine.execAbs r s
  | .min r => Sys2Proof.Machine.execMin r s
  | .max r => Sys2Proof.Machine.execMax r s
  | .and r => Sys2Proof.Machine.execAnd r s
  | .or r => Sys2Proof.Machine.execOr r s
  | .xor r => Sys2Proof.Machine.execXor r s
  | .not r => Sys2Proof.Machine.execNot r s
  | .andn r => Sys2Proof.Machine.execAndn r s
  | .shl r => Sys2Proof.Machine.execShl r s
  | .shr r => Sys2Proof.Machine.execShr r s
  | .sar r => Sys2Proof.Machine.execSar r s
  | .rol r => Sys2Proof.Machine.execRol r s
  | .clz r => Sys2Proof.Machine.execClz r s
  | .pop r => Sys2Proof.Machine.execPop r s
  | .cmp r => Sys2Proof.Machine.execCmp r s
  | .lea r => Sys2Proof.Machine.execLea r s
  | .bfx r => Sys2Proof.Machine.execBfx r s
  | .bfi r => Sys2Proof.Machine.execBfi r s
  | .ext r => Sys2Proof.Machine.execExt r s
  | .satadd r => Sys2Proof.Machine.execSatadd r s
  | .clamp r => Sys2Proof.Machine.execClamp r s
  | .vadd r => Sys2Proof.Machine.execVadd r s
  | .vsub r => Sys2Proof.Machine.execVsub r s
  | .vmul r => Sys2Proof.Machine.execVmul r s
  | .vmad r => Sys2Proof.Machine.execVmad r s
  | .vmin r => Sys2Proof.Machine.execVmin r s
  | .vmax r => Sys2Proof.Machine.execVmax r s
  | .vand r => Sys2Proof.Machine.execVand r s
  | .vor r => Sys2Proof.Machine.execVor r s
  | .vxor r => Sys2Proof.Machine.execVxor r s
  | .vshl r => Sys2Proof.Machine.execVshl r s
  | .vshr r => Sys2Proof.Machine.execVshr r s
  | .vcmp r => Sys2Proof.Machine.execVcmp r s
  | .vsel r => Sys2Proof.Machine.execVsel r s
  | .vabs r => Sys2Proof.Machine.execVabs r s
  | .vdot4 r => Sys2Proof.Machine.execVdot4 r s
  | .vpopc r => Sys2Proof.Machine.execVpopc r s
  | .vperm r => Sys2Proof.Machine.execVperm r s
  | .vslide r => Sys2Proof.Machine.execVslide r s
  | .vpack r => Sys2Proof.Machine.execVpack r s
  | .vunpk r => Sys2Proof.Machine.execVunpk r s
  | .vred r => Sys2Proof.Machine.execVred r s
  | .vscan r => Sys2Proof.Machine.execVscan r s
  | .vins r => Sys2Proof.Machine.execVins r s
  | .vmask r => Sys2Proof.Machine.execVmask r s
  | .viota r => Sys2Proof.Machine.execViota r s
  | .vfadd r => Sys2Proof.Machine.execVfadd r s
  | .vfsub r => Sys2Proof.Machine.execVfsub r s
  | .vfmul r => Sys2Proof.Machine.execVfmul r s
  | .vfma r => Sys2Proof.Machine.execVfma r s
  | .vfmin r => Sys2Proof.Machine.execVfmin r s
  | .vfmax r => Sys2Proof.Machine.execVfmax r s
  | .vfabs r => Sys2Proof.Machine.execVfabs r s
  | .vfneg r => Sys2Proof.Machine.execVfneg r s
  | .vfcmp r => Sys2Proof.Machine.execVfcmp r s
  | .vfdiv r => Sys2Proof.Machine.execVfdiv r s
  | .vfsqrt r => Sys2Proof.Machine.execVfsqrt r s
  | .vfrcp r => Sys2Proof.Machine.execVfrcp r s
  | .vfrsq r => Sys2Proof.Machine.execVfrsq r s
  | .vfexp2 r => Sys2Proof.Machine.execVfexp2 r s
  | .vflog2 r => Sys2Proof.Machine.execVflog2 r s
  | .vfcls r => Sys2Proof.Machine.execVfcls r s
  | .vcvt r => Sys2Proof.Machine.execVcvt r s
  | .qcvt r => Sys2Proof.Machine.execQcvt r s
  | .dqcvt r => Sys2Proof.Machine.execDqcvt r s
  | .fcvt r => Sys2Proof.Machine.execFcvt r s
  | .sfop r => Sys2Proof.Machine.execSfop r s
  | .vrnd r => Sys2Proof.Machine.execVrnd r s
  | .ld r => Sys2Proof.Machine.execLd r s
  | .st r => Sys2Proof.Machine.execSt r s
  | .vld r => Sys2Proof.Machine.execVld r s
  | .vst r => Sys2Proof.Machine.execVst r s
  | .ldx r => Sys2Proof.Machine.execLdx r s
  | .stx r => Sys2Proof.Machine.execStx r s
  | .ldl r => Sys2Proof.Machine.execLdl r s
  | .vldx r => Sys2Proof.Machine.execVldx r s
  | .vstx r => Sys2Proof.Machine.execVstx r s
  | .pref r => Sys2Proof.Machine.execPref r s
  | .atom r => Sys2Proof.Machine.execAtom r s
  | .cas r => Sys2Proof.Machine.execCas r s
  | .ild r => Sys2Proof.Machine.execIld r s
  | .ist r => Sys2Proof.Machine.execIst r s
  | .iclr r => Sys2Proof.Machine.execIclr r s
  | .cmb r => Sys2Proof.Machine.execCmb r s
  | .fence r => Sys2Proof.Machine.execFence r s
  | .barArrive r => Sys2Proof.Machine.execBarArrive r s
  | .barWait r => Sys2Proof.Machine.execBarWait r s
  | .publish r => Sys2Proof.Machine.execPublish r s
  | .shadow r => Sys2Proof.Machine.execShadow r s
  | .rdgSt r => Sys2Proof.Machine.execRdgSt r s
  | .rdgLd r => Sys2Proof.Machine.execRdgLd r s
  | .rdgWait r => Sys2Proof.Machine.execRdgWait r s
  | .tickRd r => Sys2Proof.Machine.execTickRd r s
  | .tickUntil r => Sys2Proof.Machine.execTickUntil r s
  | .gateLoad r => Sys2Proof.Machine.execGateLoad r s
  | .gateStore r => Sys2Proof.Machine.execGateStore r s
  | .gateFeed r => Sys2Proof.Machine.execGateFeed r s
  | .gateDrain r => Sys2Proof.Machine.execGateDrain r s
  | .gateFence r => Sys2Proof.Machine.execGateFence r s
  | .gateQry r => Sys2Proof.Machine.execGateQry r s
  | .gateCancel r => Sys2Proof.Machine.execGateCancel r s
  | .mxLdb r => Sys2Proof.Machine.execMxLdb r s
  | .mxGather r => Sys2Proof.Machine.execMxGather r s
  | .mxLda r => Sys2Proof.Machine.execMxLda r s
  | .mxMma r => Sys2Proof.Machine.execMxMma r s
  | .mxScale r => Sys2Proof.Machine.execMxScale r s
  | .mxDrain r => Sys2Proof.Machine.execMxDrain r s
  | .mxZero r => Sys2Proof.Machine.execMxZero r s
  | .mxAddc r => Sys2Proof.Machine.execMxAddc r s
  | .mxQry r => Sys2Proof.Machine.execMxQry r s
  | .spawn r => Sys2Proof.Machine.execSpawn r s
  | .gainAdd r => Sys2Proof.Machine.execGainAdd r s
  | .gainTake r => Sys2Proof.Machine.execGainTake r s
  | .gainDone r => Sys2Proof.Machine.execGainDone r s
  | .residRd r => Sys2Proof.Machine.execResidRd r s
  | .tolWr r => Sys2Proof.Machine.execTolWr r s
  | .heapQ r => Sys2Proof.Machine.execHeapQ r s
  | .gainSet r => Sys2Proof.Machine.execGainSet r s
  | .ctxNew r => Sys2Proof.Machine.execCtxNew r s
  | .ctxGrant r => Sys2Proof.Machine.execCtxGrant r s
  | .ctxRevoke r => Sys2Proof.Machine.execCtxRevoke r s
  | .ctxRun r => Sys2Proof.Machine.execCtxRun r s
  | .ctxStop r => Sys2Proof.Machine.execCtxStop r s
  | .ctxDel r => Sys2Proof.Machine.execCtxDel r s
  | .ctxRst r => Sys2Proof.Machine.execCtxRst r s
  | .csrRd r => Sys2Proof.Machine.execCsrRd r s
  | .csrWr r => Sys2Proof.Machine.execCsrWr r s
  | .trap r => Sys2Proof.Machine.execTrap r s
  | .repair r => Sys2Proof.Machine.execRepair r s
  | .hostSig r => Sys2Proof.Machine.execHostSig r s
  | .cfgLoad r => Sys2Proof.Machine.execCfgLoad r s
  | .cfgFlip r => Sys2Proof.Machine.execCfgFlip r s
  | .launch r => Sys2Proof.Machine.execLaunch r s
  | .permit r => Sys2Proof.Machine.execPermit r s
  | .powerMeasure => Sys2Proof.Machine.execPowerMeasure s
  | .timeSync => Sys2Proof.Machine.execTimeSync s
  | .powerGood => Sys2Proof.Machine.execPowerGood s
  | .wfence => Sys2Proof.Machine.execWfence s
  | .ctxCreate => Sys2Proof.Machine.execCtxCreate s
  | .ctxDelete => Sys2Proof.Machine.execCtxDelete s
  | .planePut => Sys2Proof.Machine.execPlanePut s
  | .launchMessage => Sys2Proof.Machine.execLaunchMessage s
  | .memCopyToDevice => Sys2Proof.Machine.execMemCopyToDevice s
  | .memCopyToHost => Sys2Proof.Machine.execMemCopyToHost s
  | .memCopyDevice => Sys2Proof.Machine.execMemCopyDevice s
  | .checkpoint => Sys2Proof.Machine.execCheckpoint s
  | .checkpointDebug => Sys2Proof.Machine.execCheckpointDebug s
  | .restoreMessage => Sys2Proof.Machine.execRestoreMessage s
  | .attestReport => Sys2Proof.Machine.execAttestReport s
  | .attestChain => Sys2Proof.Machine.execAttestChain s
  | .telemPower => Sys2Proof.Machine.execTelemPower s
  | .telemTemperature => Sys2Proof.Machine.execTelemTemperature s
  | .telemErrors => Sys2Proof.Machine.execTelemErrors s
  | .telemSleep => Sys2Proof.Machine.execTelemSleep s
  | .telemSync => Sys2Proof.Machine.execTelemSync s
  | .resetStack => Sys2Proof.Machine.execResetStack s
  | .resetContext => Sys2Proof.Machine.execResetContext s
  | .epSend => Sys2Proof.Machine.execEpSend s
  | .policyPowerLimit => Sys2Proof.Machine.execPolicyPowerLimit s
  | .policySleep => Sys2Proof.Machine.execPolicySleep s
  | .policySpareBanks => Sys2Proof.Machine.execPolicySpareBanks s
  | .policySignedPlanes => Sys2Proof.Machine.execPolicySignedPlanes s
  | .policyKeyInstall => Sys2Proof.Machine.execPolicyKeyInstall s
  | .hostLinkDown => Sys2Proof.Machine.execHostLinkDown s

end Sys2Proof.Machine
end

