-- ==== Sys2Proof/Machine/Schedule.lean ====
section
/-! DEFINITION. Sys2Proof/Machine/Schedule.lean: how time passes between steps, which node an element issues (R33 to R37, R171,
R364), and which moves may come next (notes/assumptions/1.md, 2.md). -/

namespace Sys2Proof.Machine

/-! ### Time -/

/-- Nanoseconds of a number of cycles of the 1.4 GHz clock. -/
def nsOf (cycles : Nat) : Nat := cycles * 5 / 7

/-- The pod time base after some ns, corrected at each µs that has passed; it never runs backward (R450). -/
def tickAfter (s : State) (ns : Nat) : Nat :=
  let t := s.tick.toNat
  let us := (t + ns) / 1000 - t / 1000
  max t ((((t + ns : Nat) : Int) + s.telem.drift * (us : Int)).toNat)

/-- The context holds a slice on some course. -/
def holdsSlice (s : State) (cx : Nat) : Bool := (List.range 16).any (slicedOn s cx)

/-- TIME_G and TIME_S of a context (R425): one counts while it holds a slice, the other while a live kernel of it could run
and it holds no slice on any course that the kernel needs. -/
def chargeTime (s : State) (ns cx : Nat) (x : Ctx) : Ctx :=
  let starved := x.runnable && x.quantum != 0 && s.kernels.any fun k =>
    k.cx.toNat == cx && k.live && (List.range 16).all fun c => !(kernelOn s k c && slicedOn s cx c)
  { x with timeG := if holdsSlice s cx then x.timeG + BitVec.ofNat 64 ns else x.timeG
           timeS := if starved then x.timeS + BitVec.ofNat 64 ns else x.timeS }

/-- Stall counters and spill timers of a bay (R29, R64). -/
def chargeBay (s : State) (dt c b : Nat) (y : Bay) : Bay :=
  { y with
    frames := y.frames.map fun e => (e.1, match e.2.cast with
      | some k => { e.2 with cast := some { k with stall := if stallCounts s c b e.1 e.2 k then k.stall + dt else k.stall } }
      | none => e.2)
    pools := y.pools.map fun e => (e.1,
      if slicedOn s e.2.cx.toNat c && timerCounts s c b e.1 e.2 then { e.2 with timer := e.2.timer + dt } else e.2) }

/-- Cycles that crucible operations have waited for scales (R260). -/
def chargeCru (dt : Nat) (x : Crucible) : Crucible :=
  { x with ops := x.ops.map fun o => if o.stuck then { o with waited := o.waited + dt } else o }

/-- The tokens on their way that a step sees first carry its number from then on (notes/assumptions/1.md). -/
def stampToks (n : Nat) (l : List Transit) : List Transit := l.map fun t => if t.born = 0 then { t with born := n } else t

/-- An element with a free place in its ready queue, and something that waits for one. -/
def Element.refills (x : Element) : Bool :=
  decide (x.ready.length < 64) && !(x.pending.isEmpty && x.input.isEmpty && x.late.isEmpty)

/-- What waits for a free place of a ready queue takes it, however the place has come free (R33). -/
def refillAll (s : State) : State :=
  (s.elements.filter fun e => e.2.refills).foldl (fun s e => refillElem s (e.1 / 8192) (e.1 % 8192)) s

/-- Time passes by some cycles: the clocks, the beats of the Ridge, one to two cycles (R331), and what counts time. FROZEN stops every
clock (R446). -/
def passTime (s : State) (dt : Nat) : State :=
  let ns := nsOf (s.cycles + dt) - nsOf s.cycles
  let tick := tickAfter s ns
  if s.sideband.frozen then { s with stepCount := s.stepCount + 1 } else
  let quiet := (List.range 16).filter fun c => courseQuiet s c && !(courseNeeded s c)
  let s := { s with
    ctxs := s.ctxs.map fun e => (e.1, chargeTime s ns e.1 e.2)
    bays := s.bays.map fun e => (e.1, chargeBay s dt (e.1 / 256) (e.1 % 256) e.2)
    crucibles := s.crucibles.map fun e => (e.1, chargeCru dt e.2)
    cells := s.cells.map fun x => if holdsSlice s x.cx.toNat then { x with idle := x.idle + dt } else x
    courses := s.courses.map fun e => (e.1, if quiet.contains e.1 then e.2 else { e.2 with quietSince := tick })
    cycles := s.cycles + dt
    tick := BitVec.ofNat 64 tick
    beat := s.beat + ((s.cycles + dt) / 2 - s.cycles / 2)
    transit := stampToks s.stepCount s.transit
    stepCount := s.stepCount + 1 }
  renewPasses (refillAll s)

/-! ### Issue (R33 to R37, R171, R364) -/

/-- The releasers of R36. -/
def isReleaser (op : Nat) : Bool := op == 0x14 || op == 0x24 || op == 0x25 || op == 0x26 || op == 0x27 || op == 0xD3

/-- A revocation has stopped the issue of a context in a bay (R418 step 3). -/
def revokedHere (s : State) (cx c b : Nat) : Bool :=
  (s.ctx cx).revoking && s.plateWork.any fun w => w.pend.op == 0xE2 && !w.noticeDue && s.inSubtree w.child.toNat cx
    && (revokedBays w.entries).contains (c, b)

/-- A ready node may issue now: its context runs there, its frame stands with a live cast, and R171 does not hold it. -/
def mayIssue (s : State) (c el : Nat) (r : Ready) : Bool :=
  let b := elBay el
  let ft := r.ft.toNat
  match s.frame? c b ft with
  | none => false
  | some f =>
    f.cx == r.cx && ((f.cast.map fun k => !k.aborted).getD false) && !f.sp && !f.mv && ((s.crs c).holder.map fun h => h == r.cx).getD false
      && (s.crs c).sweeping.isNone && decide ((s.crs c).issueFrom ≤ s.beat) && !(revokedHere s r.cx.toNat c b)
      && (!(heldNext s c el f r.node.toNat) || castQuiet s c b ft true)

/-- The IT from which ordered mode ranks the ready ones: the oldest, when all lie within 32,767 after it (R35), else the one
32,767 before that of the node issued last (R364). -/
def itBase (x : Element) (its : List Nat) : Nat :=
  (its.find? fun m => its.all fun y => decide ((y + 65536 - m) % 65536 ≤ 32767)).getD ((x.lastIt.toNat + 65536 - 32767) % 65536)

/-- Rank of an IT in ordered mode (R35, R364). -/
def itRank (base : Nat) (it : BitVec 16) : Nat := (it.toNat + 65536 - base) % 65536

/-- Some pool of a bay has a waiting request (R36, R364). -/
def poolWaits (y : Bay) : Bool := y.pools.any fun p => !p.2.waiters.isEmpty

/-- The ready nodes that may issue in an element that has not issued in this cycle (R33). -/
def ableOf (s : State) (c el : Nat) : List Ready :=
  let x := s.elem c el
  if x.lastIssue = s.cycles + 1 then [] else x.ready.filter (mayIssue s c el)

/-- The ready node that an element issues, with the head that it passes over. Of two nodes of one IT and node number, in
two frames, the one that entered first goes: R35 breaks no such tie (notes/assumptions/96.md, DESIGN CHOICE). -/
def nextIssue (s : State) (c el : Nat) : Option (Ready × Option Ready) :=
  let x := s.elem c el
  let set := x.active.setting
  let able := ableOf s c el
  let base := itBase x (x.ready.map fun r => r.it.toNat)
  let ranked := if bitAt set 61 then sortBy (fun r => itRank base r.it * 64 + r.node.toNat) able else able
  let op := fun (r : Ready) => recOp (s.record r.cx.toNat c el r.node.toNat)
  match ranked with
  | [] => none
  | h :: _ =>
    if bitAt set 62 && poolWaits (s.bay c (elBay el)) && !(isReleaser (op h)) && decide (h.waited < 64) then
      match ranked.find? fun r => isReleaser (op r) with
      | some r => some (r, some h)
      | none => some (h, none)
    else some (h, none)

/-- The operand of a port of a node: the arriving token's, else its slot's (R22). -/
def issueOpnd (s : State) (c el : Nat) (r : Ready) (f : Frame) (only : Option Nat) (p : Nat) : Option Opnd :=
  match r.arrived with
  | some (q, o) => if q.toNat = p then some o else if only.isSome then none else
      (s.portSlot r.cx.toNat c el r.node.toNat p).bind fun i => if f.present i then lkp f.slots i else none
  | none => (s.portSlot r.cx.toNat c el r.node.toNat p).bind fun i => if f.present i then lkp f.slots i else none

/-- What a ready node has when it issues. -/
def firingOf (s : State) (c el : Nat) (r : Ready) (f : Frame) (k : Cast) : Firing :=
  let w := s.record r.cx.toNat c el r.node.toNat
  let ps := arPorts (bitsAt w 77 3)
  -- MERGE is complete on one arrival, and takes it alone (R162)
  let only := if recOp w = 0x07 then r.arrived.map fun a => a.1.toNat else none
  let src := recOp w == 0x04 || recOp w == 0xD2
  let port := fun p => if src || !(ps.contains p) then none else issueOpnd s c el r f only p
  { course := BitVec.ofNat 4 c, unit := BitVec.ofNat 13 el, node := r.node, cx := r.cx, ft := r.ft, it := r.it
    a := port 0, b := port 1, c := port 2, s := port 3
    skip := k.skip == some (BitVec.ofNat 13 el, r.node)
    tags := some (f.link, f.nv, f.nft) }

/-- An element issues: the node leaves the ready queue, the issue latch is loaded, and the record that acts is named. -/
def issueAt (s : State) (c el : Nat) : Option (BitVec 96 × State) :=
  match nextIssue s c el with
  | none => none
  | some (r, passed) =>
    let b := elBay el
    match s.frame? c b r.ft.toNat with
    | none => none
    | some f =>
      match f.cast with
      | none => none
      | some k =>
        let g := firingOf s c el r f k
        let w := s.record r.cx.toNat c el r.node.toNat
        let s := s.modElem c el fun x =>
          { x with ready := (x.ready.erase r).map (fun q => if passed == some q then { q with waited := q.waited + 1 } else q), lastIt := r.it, lastIssue := s.cycles + 1, lastStep := s.stepCount }
        let s := s.modCast c b r.ft.toNat fun k => { k with stall := 0, skip := if g.skip then none else k.skip }
        let s := chargeEnergy (refillElem s c el) r.cx.toNat
        some (w, { s with firing := g })

/-! ### The moves that may come next -/

/-- An event as a move. -/
def eventOf (i : Instr) : Pick := .event (encode i)

/-- Arguments of an event. -/
def evArgs (c u ft k cx aux : Nat) : EvArgs :=
  { course := BitVec.ofNat 4 c, unit := BitVec.ofNat 16 u, ft := BitVec.ofNat 12 ft, k := BitVec.ofNat 16 k, cx := BitVec.ofNat 12 cx,
    aux := BitVec.ofNat 36 aux }

/-- Moves of the tokens in flight. -/
def tokenMoves (s : State) : List Pick :=
  ((List.range s.transit.length).zip s.transit).map fun (i, t) =>
    let e := evArgs 0 0 0 i 0 0
    match unitKind (destUnit t.tok.dest) with
    | .cru _ => eventOf (.crucibleTokenArrival e)
    | .gate _ => eventOf (.gateDrainBeat e)
    | _ => eventOf (.tokenArrival e)

/-- Moves of one frame's cast. -/
def castMoves (c b ft : Nat) (k : Cast) : List Pick :=
  let e := evArgs c b ft 0 0 0
  [eventOf (.castCommit e), eventOf (.castAbort e), eventOf (.stall e), eventOf (.waveLoadPerform e)]
    ++ (k.waits.filter fun p => !((listedIlds k).contains p)).map Pick.fire

/-- Moves of a pool. -/
def poolMoves (c b pid : Nat) : List Pick :=
  let e := evArgs c b 0 pid 0 0
  [eventOf (.compactionMoveDone e), eventOf (.spillTimerExpiry e), eventOf (.spillWriteAck e), eventOf (.restoreCopyDone e)]

/-- Moves of a stream context; how far it goes in one of them is a free choice (notes/assumptions/1.md). -/
def streamMoves (s : State) (c b sc : Nat) : List Pick :=
  let e := evArgs c b 0 sc 0 (1 + Config.choice (s.stepCount + 1) % 65536)
  [eventOf (.gateStreamBind e), eventOf (.gateFeedBeat e), eventOf (.gateStreamComplete e), eventOf (.gateStreamFault e)]

def bayMoves (s : State) (key : Nat) (y : Bay) : List Pick :=
  let c := key / 256
  let b := key % 256
  (y.frames.flatMap fun e => match e.2.cast with | some k => castMoves c b e.1 k | none => [])
    ++ y.pools.flatMap (fun e => poolMoves c b e.1) ++ y.streams.flatMap (fun e => streamMoves s c b e.1)
    ++ [eventOf (.scrub (evArgs c b 0 0 0 0))]

/-- Moves of a crucible. -/
def cruMoves (key : Nat) (x : Crucible) : List Pick :=
  let e := fun k => evArgs (key / 32) (key % 32) 0 k 0 0
  ((List.range x.ops.length).flatMap fun k => [eventOf (.crucibleOperationStart (e k)), eventOf (.crucibleOperationComplete (e k))])
    ++ [eventOf (.burstEnd (e 0))]

/-- Moves of a course. -/
def courseMoves (s : State) (c : Nat) : List Pick :=
  let y := s.crs c
  let e := fun k => evArgs c 0 0 k 0 0
  ((List.range y.walks.length).flatMap fun k => [eventOf (.walkComplete (e k)), eventOf (.pagePull (e k)), eventOf (.pullLost (e k))])
    ++ ((List.range 24).filter (wantsPermit s c)).map (fun n => eventOf (.permitHandout (e n)))
    ++ [eventOf (.walkerStart (e 0)), eventOf (.permitFallDue (e 0)),
        eventOf (.heapPop (e 0)), eventOf (.sliceEnd (e 0)), eventOf (.sweep (e 0)), eventOf (.freeze (e 0)), eventOf (.sliceResume (e 0)),
        eventOf (.cfgFillComplete (e 0)), eventOf (.courseWake (e 0))]

/-- Moves of a context. -/
def ctxMoves (cx : Nat) : List Pick :=
  let e := evArgs 0 0 0 0 cx 0
  [eventOf (.faultDelivery e), eventOf (.kernelSelect e), eventOf (.kernelStart e), eventOf (.kernelCancel e), eventOf (.gangStartTick e),
   eventOf (.sourceInjection e), eventOf (.kernelEnd e)]

/-- The tester goes on to the next downpipe (R401). -/
def testMove (s : State) : Pick := eventOf (.downpipeTestBeat (evArgs 0 ((s.telem.testPipe + 1) % 256) 0 0 0 0))

/-- Moves of the stack as a whole. -/
def stackMoves (s : State) : List Pick :=
  let e := fun k => evArgs 0 0 0 k 0 0
  (List.range (s.faults.length + 1)).map (fun k => eventOf (.verdictApply (e k)))
    ++ (List.range s.cellWaits.length).map (fun k => eventOf (.cmbPartialArrival (e k)))
    ++ [eventOf (.cmbCellTimeout (e 0)), eventOf (.tickUntilExpiry (e 0)), testMove s]
    ++ s.plateWork.map fun w => .plate w.pend

/-- Moves that take a message of the host. -/
def messageMoves : List Pick :=
  [eventOf .ctxCreate, eventOf .ctxDelete, eventOf .planePut, eventOf .launchMessage, eventOf .memCopyToDevice, eventOf .memCopyToHost,
   eventOf .memCopyDevice, eventOf .checkpoint, eventOf .checkpointDebug, eventOf .restoreMessage, eventOf .attestReport,
   eventOf .attestChain, eventOf .telemPower, eventOf .telemTemperature, eventOf .telemErrors, eventOf .telemSleep, eventOf .telemSync,
   eventOf .resetStack, eventOf .resetContext, eventOf (.epSend), eventOf .policyPowerLimit, eventOf .policySleep,
   eventOf .policySpareBanks, eventOf .policySignedPlanes, eventOf .policyKeyInstall]

/-- Moves of the host's side. -/
def hostMoves (s : State) : List Pick :=
  (if s.hostIn.isEmpty then [] else messageMoves)
    ++ (if s.windowIn.isEmpty then [] else [eventOf (.hostWindowWrite (evArgs 0 0 0 0 0 0))])
    ++ (s.sigs.map fun m => eventOf (.sigDeliveryAck (evArgs 0 0 0 m.ep 0 0)))

/-- Every element with a ready node issues. -/
def issueMoves (s : State) : List Pick :=
  (s.elements.filter fun e => !e.2.ready.isEmpty).map fun e => .issue (BitVec.ofNat 4 (e.1 / 8192)) (BitVec.ofNat 13 (e.1 % 8192))

/-- A casts' counters and the bound they count to (R29): course, bay, frame, cycles left. -/
def stallsLeft (s : State) : List (Nat × Nat × Nat × Nat) :=
  s.bays.flatMap fun y => y.2.frames.filterMap fun e =>
    match e.2.cast with
    | some k => if stallCounts s (y.1 / 256) (y.1 % 256) e.1 e.2 k then
        some (y.1 / 256, y.1 % 256, e.1, s.stallBound e.2.cx.toNat - k.stall) else none
    | none => none

/-- Pools whose spill timer counts (R64): course, bay, pool, cycles left. -/
def spillsLeft (s : State) : List (Nat × Nat × Nat × Nat) :=
  s.bays.flatMap fun y => y.2.pools.filterMap fun e =>
    if slicedOn s e.2.cx.toNat (y.1 / 256) && timerCounts s (y.1 / 256) (y.1 % 256) e.1 e.2 then
      some (y.1 / 256, y.1 % 256, e.1, e.2.bound - e.2.timer) else none

/-- Copies of a compaction, with the cycle in which they end (R63): course, bay, pool, cycle. -/
def copiesDue (s : State) : List (Nat × Nat × Nat × Nat) :=
  s.bays.flatMap fun y => y.2.pools.filterMap fun e =>
    if e.2.moving.isEmpty then none else some (y.1 / 256, y.1 % 256, e.1, e.2.moveDue)

/-- Bursts, with the cycle in which they end (R261): course, crucible, cycle. -/
def burstsDue (s : State) : List (Nat × Nat × Nat) :=
  s.crucibles.filterMap fun e => (e.2.ops.find? CruOp.burst).map fun o => (e.1 / 32, e.1 % 32, o.burstDue)

/-- Courses that wake, with the cycle in which they must be awake (R345, R453). -/
def wakesDue (s : State) : List (Nat × Nat) := s.courses.filterMap fun e => e.2.waking.map fun w => (e.1, w.2)

/-- Slices, and sweeps that a floor turns into a freeze, with the tick at which they end (R421, R428): course, tick, and
whether it is a sweep. -/
def slicesDue (s : State) : List (Nat × Nat × Bool) :=
  s.courses.filterMap fun e =>
    match e.2.holder, e.2.sweeping with
    | _, some (cx, start, _) => some (e.1, start + (s.ctx cx.toNat).floor, true)
    | some _, none => some (e.1, e.2.sliceEnd, false)
    | none, none => none

/-- Courses with a ballast burst, with the tick at which their next fall of a permit is due (R452). -/
def fallsDue (s : State) : List (Nat × Nat) :=
  (((s.crucibles.filter fun e => e.2.ballast).map fun e => e.1 / 32).eraseDups).map fun c => (c, (s.crs c).lastFall + 2000)

/-- Operations that wait for scales (R260): course, crucible, index, cycles left. -/
def scalesLeft (s : State) : List (Nat × Nat × Nat × Nat) :=
  s.crucibles.flatMap fun e => ((List.range e.2.ops.length).zip e.2.ops).filterMap fun (k, o) =>
    if o.stuck && o.pend.op == 0xC3 then some (e.1 / 32, e.1 % 32, k, s.stallBound o.pend.fir.cx.toNat - o.waited) else none

/-- Combine cells that time counts for (R234): cycles left. -/
def cellsLeft (s : State) : List Nat :=
  (s.cells.filter fun x => holdsSlice s x.cx.toNat).map fun x => s.stallBound x.cx.toNat - x.idle

/-- Faults that are still to reach their handlers: the holder, and the cycle by which the token of an unloaded device is
there (R383). -/
def faultsDue (s : State) : List (BitVec 12 × Nat) :=
  (s.faults.filter fun f => f.entered && !f.settled && f.holder != 0).map fun f => (f.holder, f.due)

/-- Ticks of the pod time base that a wait, or the start of a gang, stands for (R246, R362): the context and the tick. -/
def ticksDue (s : State) : List (BitVec 12 × Nat) :=
  ((s.kernels.filter fun k => k.state == .starting && k.launch.gn != 0 && k.tick != 0).map fun k => (k.cx, k.tick))
    ++ s.bays.flatMap fun y => y.2.frames.flatMap fun e =>
      ((((e.2.cast.map Cast.waits).getD []).filter fun p => p.op == 0xAD).map fun p => (p.fir.cx, (p.fir.a.getD (plain 0)).word))

/-- Waits on a position of the Ridge, with the beat at whose start every mirror holds it (R343). -/
def positionsDue (s : State) : List (Pend × Nat) :=
  s.bays.flatMap fun y => y.2.frames.flatMap fun e =>
    (((e.2.cast.map Cast.waits).getD []).filter fun p => p.op == 0xAC).map fun p => (p, (p.fir.a.getD (plain 0)).word / 8 + 4)

/-- Walks in progress, with the cycle in which their reads are done (R317): course, index, cycle. -/
def walksDue (s : State) : List (Nat × Nat × Nat) :=
  s.courses.flatMap fun e =>
    let ws := e.2.walks.filter Walk.begun
    ((List.range ws.length).zip ws).map fun (k, w) => (e.1, k, w.due)

/-- Revocations, with the tick by which their steps 3 to 9 are done (R419). -/
def revokesDue (s : State) : List (Pend × Nat) := (s.plateWork.filter fun w => w.due != 0).map fun w => (w.pend, w.due)

/-- Bay stores of awake courses, mirrors and the Thatch, with the tick by which the scrubber has gone through them again (R395):
course, unit of SCRUB, tick. -/
def scrubsDue (s : State) : List (Nat × Nat × Nat) :=
  (s.bays.filter fun e => courseUp s (e.1 / 256)).map (fun e => (e.1 / 256, e.1 % 256, e.2.lastScrub + 10 ^ 8))
    ++ (List.range 16).filterMap (fun c => let y := s.crs c; if y.power = .off ∨ y.failed = true then none else some (c, 256, y.mirrorScrub + 10 ^ 8))
    ++ [(0, 512, s.telem.lastThatch + 10 ^ 10)]

/-- Work of the stack's own units that a rule gives a period, with the tick at which it is due: the exchange of time (R450), the
measurement and the steps of power (R451), and the tester, which takes the 256 downpipes in turn, each once a second (R401;
notes/assumptions/2.md, DESIGN CHOICE). -/
def periodsDue (s : State) : List (Pick × Nat) :=
  let e := evArgs 0 0 0 0 0 0
  [(eventOf .powerMeasure, s.telem.lastMeasure + 1000), (eventOf .timeSync, s.telem.lastSync + 1000000),
   (eventOf (.permitStepLower e), s.telem.lastLower + 10000), (eventOf (.permitStepRaise e), s.telem.lastRaise + 100000),
   (testMove s, s.telem.lastTest + 3906250)]

/-- Courses that may sleep, with the tick at which they enter retention or off, once the conditions have held (R453). -/
def sleepsDue (s : State) : List (Pick × Nat) :=
  (List.range 16).filterMap fun c =>
    let y := s.crs c
    let e := evArgs c 0 0 0 0 0
    match y.power with
    | .awake => if bitAt s.policy.sleep 0 then some (eventOf (.courseRetentionEnter e), y.quietSince + 100000) else none
    | .retention => if bitAt s.policy.sleep 1 then some (eventOf (.courseOffEnter e), y.retainedAt + 10000000) else none
    | .off => none

/-- The cycle after power-good by which READY is set: 1.5 s of the 1.4 GHz clock (R454). -/
def readyBy : Nat := 2100000000

/-- A cycle not after the one in which the pod time base reaches a tick, whatever its correction, which is at most 1 ns in a
µs (R450); of a tick that has come, the present one. -/
def cycleOf (s : State) (t : Nat) : Nat :=
  if t ≤ s.tick.toNat then s.cycles else s.cycles + max 1 ((t - s.tick.toNat) * 999 / 1000 * 7 / 5)

/-- Moves that a stated time makes due: occurrences and control words of the Ridge in their beats, then their application
(R333, R338, R340); completions of barriers, ends of copies, of bursts and of wakes in their cycles (R44, R63, R261, R345); ends of slices, freezes and falls of permits in their ns (R421, R428, R452); what has counted to its
bound (R29, R64, R234, R260); the delivery of a fault in time (R383); what waits for a tick (R246, R362); the end of a walk's
reads (R317), of a revocation (R419) and of a wait on the Ridge (R343); the scrubber's next round (R395), the tester's and the
power controller's work (R401, R450, R451), and the sleep of a course (R453). -/
def timedMoves (s : State) : List Pick :=
  let ev := fun (f : EvArgs → Instr) (c u ft k cx : Nat) => eventOf (f (evArgs c u ft k cx 0))
  [ev .ridgeOccurrence 0 0 0 0 0, ev .ridgeControlWord 0 0 0 0 0, ev .ridgeMirrorApply 0 0 0 0 0]
    ++ (List.range s.barriers.length).map (fun k => ev .barrierPhaseComplete 0 0 0 k 0)
    ++ (copiesDue s).map (fun x => ev .compactionMoveDone x.1 x.2.1 0 x.2.2.1 0)
    ++ (burstsDue s).map (fun x => ev .burstEnd x.1 x.2.1 0 0 0)
    ++ ((wakesDue s).filter fun x => decide (x.2 ≤ s.cycles)).map (fun x => ev .courseWake x.1 0 0 0 0)
    ++ ((slicesDue s).filter fun x => decide (x.2.1 ≤ s.tick.toNat)).map (fun x => if x.2.2 then ev .freeze x.1 0 0 0 0 else ev .sliceEnd x.1 0 0 0 0)
    ++ ((fallsDue s).filter fun x => decide (x.2 ≤ s.tick.toNat)).map (fun x => ev .permitFallDue x.1 0 0 0 0)
    ++ ((stallsLeft s).filter fun x => x.2.2.2 == 0).map (fun x => ev .stall x.1 x.2.1 x.2.2.1 0 0)
    ++ ((spillsLeft s).filter fun x => x.2.2.2 == 0).map (fun x => ev .spillTimerExpiry x.1 x.2.1 0 x.2.2.1 0)
    ++ ((scalesLeft s).filter fun x => x.2.2.2 == 0).map (fun x => ev .crucibleOperationStart x.1 x.2.1 0 x.2.2.1 0)
    ++ (if (cellsLeft s).contains 0 then [ev .cmbCellTimeout 0 0 0 0 0] else [])
    ++ ((faultsDue s).filter fun x => decide (x.2 ≤ s.cycles)).flatMap (fun x =>
      ev .faultDelivery 0 0 0 0 x.1.toNat :: (((List.range s.transit.length).zip s.transit).filter fun t => t.2.sUnit == 0x1FFF#13
        && t.2.tok.cx == x.1).map fun t => ev .tokenArrival 0 0 0 t.1 0)
    ++ (if (ticksDue s).isEmpty then [] else
      ev .tickUntilExpiry 0 0 0 0 0 :: ((s.kernels.filter fun k => k.launch.gn != 0 && k.tick != 0).map fun k => ev .sourceInjection 0 0 0 0 k.cx.toNat))
    ++ ((positionsDue s).filter fun x => mirrorHolds s (x.1.fir.a.getD (plain 0)).word).map (fun x => .fire x.1)
    ++ ((walksDue s).filter fun x => decide (x.2.2 ≤ s.cycles)).map (fun x => ev .walkComplete x.1 0 0 x.2.1 0)
    ++ ((revokesDue s).filter fun x => decide (x.2 ≤ s.tick.toNat)).map (fun x => .plate x.1)
    ++ ((scrubsDue s).filter fun x => decide (x.2.2 ≤ s.tick.toNat)).map (fun x => ev .scrub x.1 x.2.1 0 0 0)
    ++ ((periodsDue s ++ sleepsDue s).filter fun x => decide (x.2 ≤ s.tick.toNat)).map Prod.fst

/-- The cycle in which a beat of the Ridge begins, one to two cycles (R331). -/
def beatCycle (s : State) (n : Nat) : Nat := s.cycles + 2 * (n - s.beat) - s.cycles % 2

/-- The cycles at which something is due by a stated time. What has come due already, and cannot be done yet, holds no time back:
it is tried again before time passes. -/
def deadlines (s : State) : List Nat :=
  let left := fun n => s.cycles + n
  (ridgeBeats s).map (beatCycle s) ++ (positionsDue s).map (fun x => beatCycle s x.2) ++ (walksDue s).map (fun x => x.2.2)
    ++ (revokesDue s).map (fun x => cycleOf s x.2) ++ (scrubsDue s).map (fun x => cycleOf s x.2.2) ++ s.barriers.flatMap (fun x => x.due.map Prod.snd)
    ++ (copiesDue s).map (fun x => x.2.2.2) ++ (burstsDue s).map (fun x => x.2.2) ++ (wakesDue s).map Prod.snd
    ++ (slicesDue s).map (fun x => cycleOf s x.2.1) ++ (fallsDue s).map (fun x => cycleOf s x.2)
    ++ (stallsLeft s).map (fun x => left x.2.2.2) ++ (spillsLeft s).map (fun x => left x.2.2.2)
    ++ (scalesLeft s).map (fun x => left x.2.2.2) ++ (cellsLeft s).map left
    ++ (faultsDue s).map Prod.snd ++ (ticksDue s).map (fun x => cycleOf s x.2) ++ (periodsDue s ++ sleepsDue s).map (fun x => cycleOf s x.2)

/-- Cycles that pass before a step: a free number, at least one, and never past a deadline. -/
def stepCycles (s : State) : Nat :=
  let n := max 1 (Config.elapsed s.stepCount)
  (((if s.sideband.phase = 7#4 then deadlines s else [readyBy])).filter fun d => decide (s.cycles < d)).foldl (fun n d => min n (d - s.cycles)) n

/-- A record acts on the issue latch. A record that validation refuses never executes (R133). -/
def runRecord (w : BitVec 96) (s : State) : Host.Outcome State Fault Refusal :=
  match decodeRecord w with
  | .ok i => exec i s
  | .error _ => .next s

/-- A waiting record acts again: it no longer counts as an outstanding response of its cast. -/
def refire (s : State) (p : Pend) : State :=
  let s := { s with firing := p.fir }
  if p.fir.isCru then s else s.modOwn p.fir fun k => { k with waits := k.waits.erase p }

/-- A waiting record that acts again changes something: it does not just wait on. -/
def fireChanges (s : State) (p : Pend) : Bool :=
  match runRecord p.word (refire s p) with
  | .next t =>
    let g := p.fir
    let back : State := { t with firing := s.firing }
    let old := ((s.cast? g.course.toNat g.bay g.ft.toNat).map Cast.waits).getD []
    let now := ((t.cast? g.course.toNat g.bay g.ft.toNat).map Cast.waits).getD []
    if g.isCru then back != s
    else !(now.contains p && now.length == old.length) || (back.modOwn g fun k => { k with waits := old }) != s
  | _ => true

/-- A move changes the state. -/
def moves (s : State) (p : Pick) : Bool :=
  match p with
  | .event w =>
    match decodeStep w with
    | .ok i => match exec i s with | .next s' => s' != s | _ => false
    | .error _ => false
  | .issue c el => (issueAt s c.toNat el.toNat).isSome
  | .fire p => if p.op = 0xAD then tickEnds s p else fireChanges s p
  | .plate p => plateGo s p != s

/-- An element issues in ordered mode (R35). -/
def orderedElem (s : State) (c el : Nat) : Bool := bitAt (s.elem c el).active.setting 61

/-- Since when a move of an element in ordered mode, or of a token for one, has been possible; none for any other move. -/
def orderKey (s : State) (p : Pick) : Option Nat :=
  match p with
  | .issue c el =>
    if orderedElem s c.toNat el.toNat then
      match ableOf s c.toNat el.toNat with
      | [] => none
      | r :: rs => some (2 * max (rs.foldl (fun m x => min m x.born) r.born) (s.elem c.toNat el.toNat).lastStep + 1)
    else none
  | .event w =>
    match decodeStep w with
    | .ok (.tokenArrival e) =>
      match pickTransit s e.k.toNat with
      | some t =>
        match unitKind (destUnit t.tok.dest) with
        | .elem el => if orderedElem s t.course.toNat el then some (2 * t.born) else none
        | _ => none
      | none => none
    | _ => none
  | _ => none

/-- Ordered mode fixes the order of issue (R37, R46, R48): of the arrivals and issues of elements in ordered mode, only the
one that has been possible longest may come next. Every other move stays free (notes/assumptions/1.md). -/
def inOrder (s : State) (ps : List Pick) : List Pick :=
  let keyed := ps.filterMap fun p => (orderKey s p).map fun k => (p, k)
  match keyed with
  | [] => ps
  | e :: es =>
    let first := es.foldl (fun m x => if x.2 < m.2 then x else m) e
    ps.filter fun p => (orderKey s p).isNone || p == first.1

/-- Moves that may come next when nothing is prescribed. A stack that is FROZEN takes only messages (R446); one in bring-up
goes through its phases (R454). -/
def candidates (s : State) : List Pick :=
  if s.sideband.phase != 7#4 then [eventOf .powerGood]
  else if s.sideband.frozen then (hostMoves s).filter (moves s)
  else
    inOrder s <|
      (tokenMoves s ++ issueMoves s ++ s.bays.flatMap (fun e => bayMoves s e.1 e.2) ++ s.crucibles.flatMap (fun e => cruMoves e.1 e.2)
        ++ (List.range 16).flatMap (courseMoves s) ++ s.ctxs.flatMap (fun e => ctxMoves e.1) ++ stackMoves s ++ hostMoves s).filter (moves s)

/-- What a stated time makes due now: in bring-up its next phase, once READY is due (R454). -/
def dueMove (s : State) : Option Pick :=
  if s.sideband.phase != 7#4 then
    (if s.sideband.phase != 0#4 && decide (readyBy ≤ s.cycles) then some (eventOf .powerGood) else none)
  else if s.sideband.frozen then none
  else (timedMoves s).find? (moves s)

/-- An event without what a free choice has put into it. -/
def bareEvent (i : Instr) : Instr :=
  match i with
  | .gateStreamBind e => .gateStreamBind { e with aux := 0 }
  | .gateFeedBeat e => .gateFeedBeat { e with aux := 0 }
  | .gateStreamComplete e => .gateStreamComplete { e with aux := 0 }
  | .gateStreamFault e => .gateStreamFault { e with aux := 0 }
  | .downpipeTestBeat _ => .downpipeTestBeat (evArgs 0 0 0 0 0 0)
  | i => i

/-- The token whose arrival an event is. -/
def arrivalOf (s : State) (i : Instr) : Option Transit :=
  match i with
  | .tokenArrival e => pickTransit s e.k.toNat
  | .crucibleTokenArrival e => pickTransit s e.k.toNat
  | .gateDrainBeat e => pickTransit s e.k.toNat
  | _ => none

/-- What waits when a candidate is passed over: the move, or, of an arrival, the token. -/
def turnOf (s : State) (p : Pick) : Turn :=
  match p with
  | .event w =>
    match decodeStep w with
    | .ok i => match arrivalOf s i with | some t => .token t | none => .move (eventOf (bareEvent i))
    | .error _ => .move p
  | _ => .move p

/-- Steps for which a candidate has been passed over. -/
def passedOver (s : State) (p : Pick) : Nat := ((s.waited.find? fun w => w.1 == turnOf s p).map Prod.snd).getD 0

/-- One of the candidates: one that has been passed over too often, else by a free choice. -/
def choose (s : State) : List Pick → Option Pick
  | [] => none
  | [p] => some p
  | ps =>
    match ps.find? fun p => decide (Config.patience ≤ passedOver s p) && ps.all fun q => decide (passedOver s q ≤ passedOver s p) with
    | some p => some p
    | none => ps[Config.choice s.stepCount % ps.length]?

/-- The candidates that a choice passes over wait one step longer. -/
def noteWaits (s : State) (ps : List Pick) (chosen : Option Pick) : State :=
  { s with waited := ((ps.filter fun p => chosen.map (turnOf s) != some (turnOf s p)).map fun p => (turnOf s p, passedOver s p + 1)).eraseDups }

/-! ### Making a move -/

/-- A move. -/
def runPick (p : Pick) (s : State) : Host.Outcome State Fault Refusal :=
  match p with
  | .event w =>
    match decodeStep w with
    | .ok i => exec i s
    | .error _ => .refused .undecodable
  | .issue c el =>
    match issueAt s c.toNat el.toNat with
    | some (w, s') => runRecord w s'
    | none => .next s
  | .fire p => runRecord p.word (refire s p)
  | .plate p => .next (plateGo s p)

end Sys2Proof.Machine
end

