-- ==== Sys2Proof/Machine/Step.lean ====
section
/-! DEFINITION. Sys2Proof/Machine/Step.lean: one step. A move that the agenda prescribes comes first, then one that a stated
time makes due; neither takes time. Otherwise time passes, by at least a cycle, and what is then due is made, or else one of
the moves that may come next (notes/assumptions/1.md, 2.md). -/

namespace Sys2Proof.Machine

/-- One of the moves that may come next is made. -/
def freeStep (s : State) : Host.Outcome State Fault Refusal :=
  let ps := candidates s
  let p := choose s ps
  let s := noteWaits s ps p
  match p with
  | some p => runPick p s
  | none => .next s

/-- One step. -/
def step (s : State) : Host.Outcome State Fault Refusal :=
  match s.agenda with
  | p :: rest => runPick p { s with agenda := rest }
  | [] =>
    match dueMove s with
    | some p => runPick p s
    | none =>
      let s' := passTime s (stepCycles s)
      match dueMove s' with
      | some p => runPick p s'
      | none => freeStep s'

/-- The state whose next step is a given instruction: its step word stands first on the agenda. -/
def State.withFetchWord (s : State) (nbits w : Nat) : State :=
  { s with agenda := .event (BitVec.ofNat 104 (w % 2 ^ nbits)) :: s.agenda }

end Sys2Proof.Machine
end

