-- ==== Sys2Proof/Safety.lean ====
section
/-! DEFINITION. Sys2Proof/Safety.lean: what a safe run is, and the terms in which claims speak of steps: the state after a
node has sent its tokens, the result of a node that only computes, and the canonical form of memory. -/

namespace Sys2Proof.Machine

/-- A run of `n` steps that ends in neither a fault nor a refusal. -/
def SafeRun (n : Nat) (s : State) : Prop := ∃ t, core.run n s = .next t

/-- The byte memories of the stack, of the host and of the Ridge mirror stand in their canonical form. -/
def MemoryCanonical (s : State) : Prop := Memory.wf s.mem = true ∧ Memory.wf s.hostMem = true ∧ Memory.wf s.ridge = true

/-! ### Sending (R12, R13, R25, R118, R119) -/

/-- The token of a firing for one destination; none for "no destination", or without a value. -/
def oneTok (s : State) (e : Bool) (stack course ft it : Nat) (d : BitVec 21) (pl : Bool) (v : Option Val) : List Transit :=
  match v with
  | some x => if d = 0x1FFFFF#21 then [] else [mkTok s s.firing e stack course ft it d pl x]
  | none => []

/-- The tokens of a firing on its destinations: one for each that is not "no destination", under RETURN one
token to RDEST, with the value and the plane of D0 where D0 has one, else of D1 (notes/assumptions/18.md, DEDUCED). -/
def outTokens (s : State) (r : NodeRec) (e : Bool) (stack course ft it : Nat) (pl0 pl1 : Bool) (v0 v1 : Option Val) :
    List Transit :=
  if r.tg = 3#2 then oneTok s e stack course ft it (s.tagLink s.firing).rdest (if v0.isSome then pl0 else pl1) (v0.or v1)
  else oneTok s e stack course ft it r.d0 pl0 v0 ++ oneTok s e stack course ft it r.d1 pl1 v1

/-- A token of a firing that leaves before the commit: one internal to its live cast, or any token of a firing that has no
live cast (R25). -/
def leavesNow (s : State) (t : Transit) : Bool :=
  isInternal s s.firing t || s.firing.isCru || (s.cast? s.firing.course.toNat s.firing.bay s.firing.ft.toNat).isNone

/-- Tokens more in flight. -/
def State.inFlight (s : State) (l : List Transit) : State := { s with transit := s.transit ++ l }

/-- Tokens more that stand with a cast until it commits. -/
def Cast.hold (k : Cast) (l : List Transit) : Cast := { k with out := k.out ++ l }

/-- Those of a firing's tokens that leave at once, an internal one marked so. -/
def nowToks (s : State) (toks : List Transit) : List Transit :=
  (toks.filter (leavesNow s)).map fun t => { t with internal := isInternal s s.firing t || t.internal }

/-- Those that stand with its live cast. -/
def heldToks (s : State) (toks : List Transit) : List Transit := toks.filter fun t => !(leavesNow s t)

/-- The state after a firing's tokens are sent: those that leave now are in flight, the others stand with its live cast. -/
def afterSend (s : State) (toks : List Transit) : State :=
  if heldToks s toks = [] then s.inFlight (nowToks s toks)
  else (s.inFlight (nowToks s toks)).modOwn s.firing fun k => k.hold (heldToks s toks)

/-- The step of a node that only computes. A tag that cannot be formed is a hard fault TAG_RANGE with its code, a poisoned
frame word a POISON record of AUX 4 (R125), neither of a node that SKIP names (R388); an operand or a linkage with E = 1 gives zeros with E = 1 (R27); a node that
SKIP names gives zeros with P = 1 (R388); else its values leave, poisoned when an operand is (R14), and its flags wait with
the cast (R145). -/
def computed (s : State) (r : NodeRec) (a : Args) (stack course : Nat) (pl0 pl1 : Bool) (v0 v1 : Option Val) (fl : Flags) :
    State :=
  match tagTo s r s.firing course with
  | .bad code => if s.firing.skip then s else fault s s.firing kTAG code
  | .poisoned => if s.firing.skip then s else poisonRec s s.firing 4
  | .ok c ft it =>
    let e := a.e || s.eBit s.firing
    let skip := s.firing.skip
    let w := fun (v : Option Val) =>
      if skip then v.map fun _ => (0#512, true) else v.map fun x => (x.1, x.2 || a.p)
    afterSend (if e || skip then s else addFlags s s.firing fl) (outTokens s r e stack c ft it pl0 pl1 (w v0) (w v1))

/-- The step of a node with one 64-bit result, on both destinations of the control plane. -/
def sendsWord (s : State) (r : NodeRec) (x : BitVec 64) (fl : Flags) : State :=
  computed s r (argsCtl s r s.firing) s.sideband.stackNo.toNat s.firing.course.toNat false false
    (some (x.setWidth 512, false)) (some (x.setWidth 512, false)) fl

/-- The step of a node with one data result, on both destinations of the data plane; `p` poisons it. -/
def sendsData (s : State) (r : NodeRec) (x : Payload) (p : Bool) (fl : Flags) : State :=
  computed s r (argsData s r s.firing) s.sideband.stackNo.toNat s.firing.course.toNat true true
    (some (x, p)) (some (x, p)) fl

/-- The step of a node that passes a value on, on the plane of its record. -/
def passesOn (s : State) (r : NodeRec) (a : Args) (v0 v1 : Option Payload) : State :=
  computed s r a s.sideband.stackNo.toNat s.firing.course.toNat r.pl r.pl
    (v0.map fun x => (x, false)) (v1.map fun x => (x, false)) 0

/-- The tokens of a node that acts, a value for each destination, on the record's plane, with their E mark. -/
def sendsPair (s : State) (r : NodeRec) (e : Bool) (v0 v1 : Option Val) : State :=
  match tagOf s r s.firing with
  | .ok c ft it => afterSend s (outTokens s r e s.sideband.stackNo.toNat c ft it r.pl r.pl v0 v1)
  | _ => s

/-- The tokens of a node that acts: one payload on both destinations, E as the linkage has it. -/
def sendsPayload (s : State) (r : NodeRec) (x : Payload) (p : Bool) : State :=
  sendsPair s r (s.eBit s.firing) (some (x, p)) (some (x, p))

/-- The same for an access: its tokens do not arrive before the cycles that the access takes have passed (R319). -/
def sendsAfter (s : State) (r : NodeRec) (x : Payload) (p : Bool) (d : Nat) : State :=
  delaySince s (sendsPayload s r x p) s.firing (s.cycles + d)

/-- The tokens of a node that acts: one 64-bit value on both destinations. -/
def sendsValue (s : State) (r : NodeRec) (x : BitVec 64) (p : Bool) : State := sendsPayload s r (x.setWidth 512) p

/-! ### Integers (R135) -/

/-- The low bits of an operand. -/
def Opnd.low (w : Nat) (o : Opnd) : BitVec w := o.val.setWidth w

/-- A result of an integer type extended through bit 63: by its sign in an i type, by zeros in an n type. -/
def extended (t : Nat) {w : Nat} (x : BitVec w) : BitVec 64 := if tySigned t then x.signExtend 64 else x.setWidth 64

/-! ### Lanes (R188, R196) -/

/-- Lane i of a payload, lanes of `w` bits. -/
def laneV (w : Nat) (x : Payload) (i : Nat) : BitVec w := x.extractLsb' (i * w) w

/-- OR of the flags of the first `n` lanes (R189). -/
def lanesFlags (n : Nat) (f : Nat → Flags) : Flags := (List.range n).foldl (fun acc i => acc ||| f i) 0

/-- The outcome is the next state of a node that sends one data token whose lane i of `w` bits is `f i`. -/
def sendsLanes (o : Host.Outcome State Fault Refusal) (s : State) (r : NodeRec) (w : Nat) (f : Nat → BitVec w) (fl : Flags) :
    Prop :=
  ∃ x : Payload, (∀ i, i < 512 / w → laneV w x i = f i) ∧ o = .next (sendsData s r x false fl)

/-- The outcome is the next state of a node that sends one data token whose lane i is the code of `f i`, with the flags of
all lanes. -/
def sendsRounded (o : Host.Outcome State Fault Refusal) (s : State) (r : NodeRec) (w : Nat) (f : Nat → Rounded) : Prop :=
  sendsLanes o s r w (fun i => BitVec.ofNat w (f i).code) (lanesFlags (512 / w) fun i => (f i).flags)

/-- The order of an integer type. -/
def lessIn (signed : Bool) {w : Nat} (p q : BitVec w) : Bool := if signed then p.slt q else p.ult q

/-- The value of lane bits in an integer type. -/
def valueIn (signed : Bool) {w : Nat} (p : BitVec w) : Int := if signed then p.toInt else (p.toNat : Int)

/-- The relations of VAR 0 to 5 (R131). -/
def relationIn (signed : Bool) (v : Nat) {w : Nat} (p q : BitVec w) : Bool :=
  match v with
  | 0 => p == q
  | 1 => p != q
  | 2 => lessIn signed p q
  | 3 => !(lessIn signed q p)
  | 4 => lessIn signed q p
  | _ => !(lessIn signed p q)

/-- `y` is the reduction of lanes 0 to m by the operation of VAR 0 to 5 (R131, R196). -/
def isReduction (v : Nat) (signed : Bool) {w : Nat} (x : Nat → BitVec w) (m : Nat) (y : BitVec w) : Prop :=
  match v with
  | 0 => y = ((List.range (m + 1)).map x).foldl (· + ·) 0#w
  | 1 => (∃ i, i ≤ m ∧ y = x i) ∧ ∀ i, i ≤ m → lessIn signed (x i) y = false
  | 2 => (∃ i, i ≤ m ∧ y = x i) ∧ ∀ i, i ≤ m → lessIn signed y (x i) = false
  | 3 => ∀ k, k < w → (y.getLsbD k = true ↔ ∀ i, i ≤ m → (x i).getLsbD k = true)
  | 4 => ∀ k, k < w → (y.getLsbD k = true ↔ ∃ i, i ≤ m ∧ (x i).getLsbD k = true)
  | _ => y = ((List.range (m + 1)).map x).foldl (· ^^^ ·) 0#w

/-- The pairwise sums of VRED.fadd: lane i of level l, with the flags of every rounding below it (R196). -/
def pairSum (f : Fmt) (x : Nat → Nat) : Nat → Nat → Nat × Flags
  | 0, i => (x i, 0)
  | l + 1, i =>
    let a := pairSum f x l (2 * i)
    let b := pairSum f x l (2 * i + 1)
    let q := fAdd f ⟨0, 0, true⟩ a.1 b.1
    (q.code, a.2 ||| b.2 ||| q.flags)

/-- The running sums of VSCAN.fadd, with the flags of every rounding so far (R196). -/
def runSum (f : Fmt) (x : Nat → Nat) : Nat → Nat × Flags
  | 0 => (x 0, 0)
  | i + 1 =>
    let a := runSum f x i
    let q := fAdd f ⟨0, 0, true⟩ a.1 (x (i + 1))
    (q.code, a.2 ||| q.flags)

/-! ### Casts -/

/-- A firing of an element in a live cast in which no exception was seen and which no SKIP verdict names, with a tag that
can be formed and no operand marked P or E: the node acts as its instruction says. -/
def actsFreely (s : State) (r : NodeRec) (a : Args) : Prop :=
  (∃ c ft it, tagOf s r s.firing = .ok c ft it) ∧ s.firing.skip = false ∧ s.eBit s.firing = false ∧ a.e = false ∧ a.p = false

/-! ### Messages (R438, R440) -/

/-- A message stands first in the queue of a stack that is up and not frozen, is one that R438 allows, and its tag is its
own. -/
def msgTaken (s : State) (m : Msg) (rest : List Msg) : Prop :=
  s.linkUp = true ∧ s.sideband.phase = 7#4 ∧ s.sideband.frozen = false ∧ s.hostIn = m :: rest ∧ (s.hostIn.map Msg.tag).Nodup ∧
    m.malformed = false

end Sys2Proof.Machine
end

