-- ==== Sys2Proof/Certificates/Slice0/Obligations.lean ====
section
/-! DEFINITION. Sys2Proof/Certificates/Slice0/Obligations.lean: the statements for the provers, each a def Obligations.<Name>.
A statement names the rule of spec/ that it formalises; one that rests on the model's own choice says so. -/

open Sys2Proof Sys2Proof.Machine

/-! ### Integers (R182 to R187) -/

/-- R183, R158: ADD, SUB, MUL, MAD, NEG and LEA compute modulo 2^w and extend the result through bit 63 by R135; MULH gives the
high half of the exact product; DIV and REM truncate toward zero, give all ones and the dividend on a zero divisor with IDZ,
and the minimum and 0 for the minimum divided by −1.
R183, R185, R187: ABS, MIN, MAX and CMP compare as TY says; SATADD and CLAMP saturate and set SAT when their result
differs from the exact one. -/
def Obligations.IntegerArithmeticComputes : Prop :=
  (∀ (r : NodeRec) (s : State), r.ty.toNat < 8 →
      let t := r.ty.toNat
      let w := tyWidth t
      let a := argsCtl s r s.firing
      let x := a.a.low w
      let y := a.b.low w
      let z := a.c.low w
      exec (.add r) s = .next (sendsWord s r (extended t (x + y)) 0) ∧
      exec (.sub r) s = .next (sendsWord s r (extended t (x - y)) 0) ∧
      exec (.mul r) s = .next (sendsWord s r (extended t (x * y)) 0) ∧
      exec (.mad r) s = .next (sendsWord s r (extended t (x * y + z)) 0) ∧
      exec (.neg r) s = .next (sendsWord s r (extended t (-x)) 0) ∧
      exec (.lea r) s = .next (sendsWord s r (extended t (y + x <<< r.var.toNat)) 0) ∧
      exec (.mulh r) s = .next (sendsWord s r
        (extended t (if tySigned t then ((x.signExtend (2 * w) * y.signExtend (2 * w)).extractLsb' w w)
          else ((x.setWidth (2 * w) * y.setWidth (2 * w)).extractLsb' w w))) 0) ∧
      exec (.div r) s = .next (sendsWord s r
        (extended t (if y = 0#w then BitVec.allOnes w else if tySigned t then x.sdiv y else x / y)) (if y = 0#w then iDZ else 0)) ∧
      exec (.rem r) s = .next (sendsWord s r
        (extended t (if y = 0#w then x else if tySigned t then x.srem y else x % y)) (if y = 0#w then iDZ else 0))) ∧
  (∀ (r : NodeRec) (s : State), r.ty.toNat < 8 →
      let t := r.ty.toNat
      let w := tyWidth t
      let sg := tySigned t
      let a := argsCtl s r s.firing
      let x := a.a.low w
      let y := a.b.low w
      let z := a.c.low w
      let less := fun (p q : BitVec w) => if sg then p.slt q else p.ult q
      let val := fun (p : BitVec w) => if sg then p.toInt else (p.toNat : Int)
      let sum := val x + val y
      let least : Int := if sg then -(2 ^ (w - 1) : Int) else 0
      let most : Int := if sg then (2 ^ (w - 1) : Int) - 1 else (2 ^ w : Int) - 1
      let m := if less x y then y else x
      let c := if less z m then z else m
      exec (.abs r) s = .next (sendsWord s r (extended t (if sg && x.msb then -x else x)) 0) ∧
      exec (.min r) s = .next (sendsWord s r (extended t (if less y x then y else x)) 0) ∧
      exec (.max r) s = .next (sendsWord s r (extended t (if less x y then y else x)) 0) ∧
      (r.var.toNat < 6 → exec (.cmp r) s = .next (sendsWord s r
        (if (match r.var.toNat with
            | 0 => x == y
            | 1 => x != y
            | 2 => less x y
            | 3 => !(less y x)
            | 4 => less y x
            | _ => !(less x y)) then 1#64 else 0#64) 0)) ∧
      exec (.satadd r) s = .next (sendsWord s r
        (extended t (BitVec.ofInt w (max least (min most sum)))) (if least ≤ sum ∧ sum ≤ most then 0 else fSAT)) ∧
      exec (.clamp r) s = .next (sendsWord s r (extended t c) (if c = x then 0 else fSAT)))

/-- R183, R184: AND, OR, XOR, NOT and ANDN act on the low w bits; SHL, SHR, SAR and ROL shift them by the whole payload of
B, zeros or copies of bit w − 1 for a count of w or more.
R183, R186: CLZ and POP count among the low w bits; BFX, BFI and EXT act on the extended payload and on fields of it. -/
def Obligations.IntegerBitsShiftsAndFields : Prop :=
  (∀ (r : NodeRec) (s : State), r.ty.toNat < 8 →
      let t := r.ty.toNat
      let a := argsCtl s r s.firing
      let x := a.a.low (tyWidth t)
      let y := a.b.low (tyWidth t)
      let k := a.b.word
      exec (.and r) s = .next (sendsWord s r (extended t (x &&& y)) 0) ∧
      exec (.or r) s = .next (sendsWord s r (extended t (x ||| y)) 0) ∧
      exec (.xor r) s = .next (sendsWord s r (extended t (x ^^^ y)) 0) ∧
      exec (.not r) s = .next (sendsWord s r (extended t (~~~x)) 0) ∧
      exec (.andn r) s = .next (sendsWord s r (extended t (x &&& ~~~y)) 0) ∧
      exec (.shl r) s = .next (sendsWord s r (extended t (x <<< k)) 0) ∧
      exec (.shr r) s = .next (sendsWord s r (extended t (x >>> k)) 0) ∧
      exec (.sar r) s = .next (sendsWord s r (extended t (x.sshiftRight k)) 0) ∧
      exec (.rol r) s = .next (sendsWord s r (extended t (x.rotateLeft k)) 0)) ∧
  (∀ (r : NodeRec) (s : State), r.ty.toNat < 8 →
      let t := r.ty.toNat
      let w := tyWidth t
      let sg := tySigned t
      let a := argsCtl s r s.firing
      let x := a.a.low w
      let e := extended t x
      let field := fun (f : Nat) => (f % 64, min (f / 64 % 128) 64)
      (∃ n, n ≤ w ∧ (∀ i, i < n → x.getMsbD i = false) ∧ (n < w → x.getMsbD n = true) ∧
        exec (.clz r) s = .next (sendsWord s r (BitVec.ofNat 64 n) 0)) ∧
      exec (.pop r) s = .next (sendsWord s r (BitVec.ofNat 64 ((List.range w).filter fun i => x.getLsbD i).length) 0) ∧
      (let (lo, len) := field a.b.word
       let f := (e.sshiftRight lo) &&& BitVec.ofNat 64 (2 ^ len - 1)
       let v := if len = 0 then 0#64 else if sg then (f <<< (64 - len)).sshiftRight (64 - len) else f
       exec (.bfx r) s = .next (sendsWord s r (extended t (v.setWidth w)) 0)) ∧
      (let (lo, len) := field a.c.word
       let m := BitVec.ofNat 64 (2 ^ len - 1) <<< lo
       let v := (e &&& ~~~m) ||| ((extended t (a.b.low w) <<< lo) &&& m)
       exec (.bfi r) s = .next (sendsWord s r (extended t (v.setWidth w)) 0)) ∧
      (r.var.toNat < 3 →
       let v := if sg then (a.a.low (8 * 2 ^ r.var.toNat)).signExtend 64 else (a.a.low (8 * 2 ^ r.var.toNat)).setWidth 64
       exec (.ext r) s = .next (sendsWord s r (extended t (v.setWidth w)) 0)))

/-! ### Tokens and casts (R159 to R173) -/

/-- R161, R162: the plumbing instructions send the operand, or the literal value, that their line names; SINK sends nothing.
That RETURN sends one token, with the value of D0 where D0 has one, else of D1, is the model's reading (notes/assumptions/18.md). -/
def Obligations.TokenPlumbingSends : Prop :=
  ∀ (r : NodeRec) (s : State),
    let a := argsPl s r s.firing
    let lit := BitVec.ofNat 64 (litCtl s s.firing r)
    let came := (s.firing.a.or (s.firing.b.or s.firing.c)).getD (plain 0)
    exec (.pass r) s = .next (passesOn s r a (some a.a.val) (some a.a.val)) ∧
    exec (.sink r) s = .next s ∧
    exec (.lit r) s = .next (sendsWord s r lit 0) ∧
    (r.ar.toNat = 5 → exec (.src r) s = .next (sendsWord s r lit 0)) ∧
    exec (.steer r) s = .next (if a.b.val.getLsbD 0 then passesOn s r a (some a.a.val) none else passesOn s r a none (some a.a.val)) ∧
    exec (.sel r) s = .next (if a.a.val.getLsbD 0 then passesOn s r a (some a.c.val) (some a.c.val)
      else passesOn s r a (some a.b.val) (some a.b.val)) ∧
    exec (.merge r) s = .next (passesOn s r ⟨came, plain 0, plain 0, plain 0, came.p, came.e⟩ (some came.val) (some came.val)) ∧
    exec (.join r) s = .next (if r.ar = 1#3 ∨ r.ar = 2#3 then passesOn s r a (some a.b.val) (some a.b.val)
      else passesOn s r a (some a.c.val) (some a.c.val))

/-- R163, R164: VERT and EAVE send to another course or stack, A under RETURN and B under FRAME_A, where the COURSE of A must
be the target course, whatever the destinations (TAG_RANGE 7); an EAVE to a stack that is absent or not held is the hard fault
HOLDING 2; REPL fills every lane with A and EXTR takes one lane of A, a
poisoned zero for an index at or beyond the lane count. That the context's own stack counts as held is the model's choice
(notes/assumptions/10.md). -/
def Obligations.CourseStackAndLaneMoves : Prop :=
  ∀ (r : NodeRec) (s : State),
    let a := argsPl s r s.firing
    let v := (if r.tg = 3#2 then a.a.val else a.b.val, false)
    let w := laneBits r.ty.toNat
    let n := (r.lit.extractLsb' 0 10).toNat
    let b := argsCtl s r s.firing
    let x := s.firing.a.getD (plain 0)
    let off := fun (course : Nat) => r.tg = 2#2 ∧ x.p = false ∧ (frameRef x.word).course ≠ course
    let below := (r.lit.extractLsb' 0 4).toNat
    let beyond := (r.lit.extractLsb' 10 4).toNat
    (off below → s.firing.skip = false → exec (.vert r) s = .next (fault s s.firing kTAG 7)) ∧
    (¬ off below ∨ s.firing.skip = true → exec (.vert r) s = .next
      (computed s r a s.sideband.stackNo.toNat below r.pl r.pl (some v) (some v) 0)) ∧
    (s.holdsStack s.firing.cx.toNat n = true → n ∈ s.reach ∨ n = s.sideband.stackNo.toNat →
      (off beyond → s.firing.skip = false → exec (.eave r) s = .next (fault s s.firing kTAG 7)) ∧
      (¬ off beyond ∨ s.firing.skip = true → exec (.eave r) s = .next
        (computed s r a n beyond r.pl r.pl (some v) (some v) 0))) ∧
    (s.holdsStack s.firing.cx.toNat n = false ∨ (n ∉ s.reach ∧ n ≠ s.sideband.stackNo.toNat) → a.e = false →
      s.eBit s.firing = false → s.firing.skip = false → exec (.eave r) s = .next (fault s s.firing kHOLDING 2)) ∧
    (r.ty.toNat < 14 → ∃ x : Payload, (∀ i, i < 512 / w → laneAt w x i = b.a.val.toNat % 2 ^ w) ∧
      exec (.repl r) s = .next (computed s r b s.sideband.stackNo.toNat s.firing.course.toNat true true
        (some (x, false)) (some (x, false)) 0)) ∧
    (r.ty.toNat < 14 → b.b.word < 512 / w →
      let x := (b.a.val >>> (b.b.word * w)).setWidth w
      exec (.extr r) s = .next (sendsWord s r (extended r.ty.toNat x) 0)) ∧
    (512 / w ≤ b.b.word → exec (.extr r) s = .next (computed s r b s.sideband.stackNo.toNat s.firing.course.toNat false false
        (some (0#512, true)) (some (0#512, true)) 0))

/-- R166 to R168, R170, R172: in a cast that acts freely, TAGGET sends its frame word, TAGSET sends A with the IT of B and
holds its row write, CALL sends B and holds its linkage write, RET sends A, EXIT marks the cast, ITER links the named frame
and sends B, and STRAND sends A and holds its linkage write. -/
def Obligations.TagAndCastInstructionsAct : Prop :=
  ∀ (r : NodeRec) (s : State) (own : Frame),
    let g := s.firing
    let c := g.course.toNat
    let a := argsCtl s r g
    let w := frameRef a.a.word
    s.frame? c g.bay g.ft.toNat = some own →
    exec (.tagget r) s = .next (sendsWord s r (BitVec.ofNat 64 (frameWord 0 c g.bay own.it.toNat g.ft.toNat)) 0) ∧
    exec (.ret r) s = .next (sendsWord s r (a.a.low 64) 0) ∧
    exec (.exit r) s = .next (s.modOwn g fun k => { k with exited := true }) ∧
    (actsFreely s r a →
      exec (.call r) s = .next (sendsValue (holdEffect s 0x12 r) r (a.b.low 64) false) ∧
      ∀ f : Frame, w.kind = 0 → w.course = c → w.unit = g.bay → s.frame? c g.bay w.ft = some f → f.cx = g.cx →
        exec (.strand r) s = .next (sendsValue (holdArgs s 0x16 r a) r (a.a.low 64) false) ∧
        (f.link.lc = false → f.pres = 0#64 → w.ft ≠ g.ft.toNat →
          exec (.tagset r) s = .next (sendsValue (holdArgs s 0x11 r a) r
            (((a.a.low 64) &&& ~~~(0xFFFF000#64)) ||| (((a.b.low 16).setWidth 64) <<< 12)) false) ∧
          (own.nv = false → f.mv = false →
            exec (.iter r) s = .next
              (let t := s.setFrame c g.bay w.ft { f with it := own.it + 1 }
               let t := t.modFrame c g.bay g.ft.toNat fun x => { x with nft := BitVec.ofNat 12 w.ft, nv := true }
               let t := t.modOwn g fun k => { k with linked := some (BitVec.ofNat 12 w.ft, f.it) }
               sendsValue t r (a.b.low 64) false))))

/-- R166, R170, R172, R179: a frame word that names a frame outside the issuing bay is the hard fault TAG_RANGE code 7, and
one whose row is free code 1; ITER and TAGSET of the own frame, or of a frame with a live cast or a present slot, are code 8.
That the row of another context's frame counts as free is the model's choice (R43, notes/assumptions/119.md). -/
def Obligations.FrameWordChecksTrap : Prop :=
  ∀ (r : NodeRec) (s : State) (i : Instr), i ∈ [Instr.tagset r, .iter r, .strand r, .freeFrm r] →
    let g := s.firing
    let c := g.course.toNat
    let a := argsCtl s r g
    let w := frameRef a.a.word
    actsFreely s r a →
    (w.kind ≠ 0 ∨ w.course ≠ c ∨ w.unit ≠ g.bay → exec i s = .next (fault s g kTAG 7)) ∧
    (w.kind = 0 → w.course = c → w.unit = g.bay → (∀ f, s.frame? c g.bay w.ft = some f → f.cx ≠ g.cx) →
      exec i s = .next (fault s g kTAG 1)) ∧
    (∀ f own : Frame, i = .tagset r ∨ i = .iter r → w.kind = 0 → w.course = c → w.unit = g.bay →
      s.frame? c g.bay w.ft = some f → f.cx = g.cx → s.frame? c g.bay g.ft.toNat = some own →
      w.ft = g.ft.toNat ∨ f.link.lc = true ∨ f.pres ≠ 0#64 → exec i s = .next (fault s g kTAG 8))

/-! ### Room (R50 to R83, R174 to R181) -/

/-- R56, R175, R176: an ALLOC.FRM or ALLOC.BUF whose pool its context owns, with nobody waiting and no move or restore
pending, is granted at once at the base that fits: the lowest free frame tag of the context with a new row and the issuing
frame's linkage, its strand that of the issuing cast, or the lowest free pool-map entry with its generation raised.
R81, R82, R177, R178: with nobody waiting, ALLOC.RDG takes the lowest idle slot of the context's run-time holding and
ALLOC.CRU a free crucible that it holds, whose frame is cleared; the results are the slot word and the frame word of KIND 1.
Without a holding both are the hard fault HOLDING 2. -/
def Obligations.RoomRequestsAreGranted : Prop :=
  (∀ (r : NodeRec) (s : State) (p : Pool) (base : Nat),
      let g := s.firing
      let c := g.course.toNat
      let pid := (r.lit.extractLsb' 0 3).toNat
      let a := argsCtl s r g
      actsFreely s r a → s.pool? c g.bay pid = some p → p.cx = g.cx → p.waiters = [] → p.pseudo = none → p.moving = [] →
      (∀ (m : PMap) (own : Frame) (ft : Nat), p.kind = 0#2 →
        s.mapOf g.cx.toNat c g.unit.toNat (r.lit.extractLsb' 8 8).toNat = some m →
        s.frame? c g.bay g.ft.toNat = some own → freeTag (s.bay c g.bay) g.cx.toNat = some ft →
        let w := nodeWaiter s 0x20 r m.gran m.slots m.dmask (r.lit.extractLsb' 8 8).toNat 0 (r.var == 1#4)
        fitsAt (s.bay c g.bay) pid p g.cx.toNat w = some base →
        exec (.allocFrm r) s = .next (grantAt s c g.bay pid p w base) ∧
        ∃ f, (grantAt s c g.bay pid p w base).frame? c g.bay ft = some f ∧ f.cx = g.cx ∧ f.cs = (r.var == 1#4) ∧
          f.sp = false ∧ f.mv = false ∧ f.nv = false ∧ f.base = BitVec.ofNat 16 base ∧ f.it = g.it ∧ f.pres = 0 ∧ f.inp = 0 ∧
          f.link = { s.ownLink g with e := false, lc := false }) ∧
      (∀ i : Nat, p.kind = 1#2 → freeEntry p = some i →
        let w := nodeWaiter s 0x21 r (r.lit.extractLsb' 16 16).toNat 0 0 0 (r.lit.extractLsb' 8 8).toNat false
        let gen := ((lkp p.pmap i).map PEntry.gen).getD 0 + 1
        fitsAt (s.bay c g.bay) pid p g.cx.toNat w = some base →
        exec (.allocBuf r) s = .next (grantAt s c g.bay pid p w base) ∧
        ∃ q e, (grantAt s c g.bay pid p w base).pool? c g.bay pid = some q ∧ lkp q.pmap i = some e ∧ e.v = true ∧ e.sp = false ∧
          e.mv = false ∧ e.ch = false ∧ e.gen = gen ∧ e.base = BitVec.ofNat 16 base ∧ e.size = r.lit.extractLsb' 16 16 ∧
          e.uc = r.lit.extractLsb' 8 8 ∧ e.hft = g.ft)) ∧
  (∀ (r : NodeRec) (s : State),
      let g := s.firing
      let c := g.course.toNat
      let a := argsCtl s r g
      let n := (r.lit.extractLsb' 0 5).toNat
      actsFreely s r a →
      (∀ k, s.rdgWaits = [] → s.idleSlot g.cx.toNat = some k →
        exec (.allocRdg r) s = .next
          (sendsValue ((setSlotState { s with rdgTicket := s.rdgTicket + 1 } k .granted).modOwn g fun q =>
            { q with gotRdg := q.gotRdg ++ [k] }) r (BitVec.ofNat 64 k) false)) ∧
      (s.runSlots g.cx.toNat = [] → exec (.allocRdg r) s = .next (fault s g kHOLDING 2)) ∧
      (s.holdsCru g.cx.toNat c n = true → (s.cru c n).granted = false → (s.cru c n).waiters = [] →
        let x := { s.cru c n with ticket := (s.cru c n).ticket + 1 }
        exec (.allocCru r) s = .next
          (sendsValue ((s.setCru c n (x.grant g.cx g.it (s.ownLink g))).modOwn g fun q => { q with gotCru := q.gotCru ++ [n] })
            r (BitVec.ofNat 64 (frameWord 1 c n g.it.toNat 0)) false)) ∧
      (s.holdsCru g.cx.toNat c n = false → exec (.allocCru r) s = .next (fault s g kHOLDING 2)))

/-- R178 to R181: FREE.FRM, FREE.BUF, USE and FREE.RDG send A at issue and hold their effect for the commit; POOLQ sends the
word of its selector, 0 for a pool that is not declared, and is the hard fault HOLDING 2 for another context's. -/
def Obligations.ReleasesAndPoolQueries : Prop :=
  ∀ (r : NodeRec) (s : State),
    let g := s.firing
    let c := g.course.toNat
    let a := argsCtl s r g
    let x := a.a.word
    let w := frameRef x
    let pid := (r.lit.extractLsb' 0 3).toNat
    let sel := (r.lit.extractLsb' 4 4).toNat
    actsFreely s r a →
    (w.kind = 0 → w.course = c → w.unit = g.bay → (∃ f, s.frame? c g.bay w.ft = some f ∧ f.cx = g.cx) →
      exec (.freeFrm r) s = .next (sendsValue (holdEffect s 0x24 r) r (a.a.low 64) false)) ∧
    (x / 2 ^ 60 = 0xF → (∃ e, s.handleEntry g.cx.toNat x 0 = .ok e) →
      exec (.freeBuf r) s = .next (sendsValue (holdEffect s 0x25 r) r (a.a.low 64) false) ∧
      exec (.use r) s = .next (sendsValue (holdEffect s 0x26 r) r (a.a.low 64) false)) ∧
    (s.slotGranted g.cx.toNat x = true →
      exec (.freeRdg r) s = .next (sendsValue (holdEffect s 0x27 r) r (a.a.low 64) false)) ∧
    (s.pool? c g.bay pid = none → exec (.poolq r) s = .next (sendsValue s r 0#64 false)) ∧
    (∀ p, s.pool? c g.bay pid = some p → p.cx ≠ g.cx → exec (.poolq r) s = .next (fault s g kHOLDING 2)) ∧
    (∀ p, s.pool? c g.bay pid = some p → p.cx = g.cx → sel < 8 →
      exec (.poolq r) s = .next (sendsValue s r
        (([p.grants, p.releases, p.overtakes, p.anchors, p.compactions, p.spills, p.restores, p.intoSpilled].getD sel 0).setWidth 64)
        false)) ∧
    (∀ p, s.pool? c g.bay pid = some p → p.cx = g.cx → 8 ≤ sel → sel ≤ 10 →
      exec (.poolq r) s = .next (sendsValue s r (BitVec.ofNat 64 (poolqWord s c g.bay pid sel p)) false))

/-! ### Memory (R211 to R226) -/

/-- R211, R218, R220, R221: a load whose address is readable, aligned and in range, whose turn in the wave has come and that
no held write of its cast precedes, sends what memory holds: an integer extended through bit 63, other types by zeros, the
bytes themselves on the data plane; a window is read from the Ridge mirror. LDL also lowers UC at its commit. The value
carries P when the page is lost (R397), and arrives when the access's latency has passed.
R319: that latency in cycles, 1.4 to a ns: 6 in the own bay, 20 and the distance to another bay of the course, 24 more to
another course, the same in the mirror, 532 to far memory, and for an update 2 more at a near home, 546 at a far one; that
an access to a pod home, which the rule bounds from above alone, takes no cycle is the model's (notes/assumptions/2.md). -/
def Obligations.LoadsReadMemory : Prop :=
  (∀ (r : NodeRec) (s : State) (op : Nat) (i : Instr) (x cls : Nat) (as : List Nat) (lost : Bool) (k : Cast),
    (op, i) ∈ [(0x90, Instr.ld r), (0x92, .vld r), (0x94, .ldx r), (0x96, .ldl r), (0x97, .vldx r)] →
    let g := s.firing
    let c := g.course.toNat
    let n := memWidth op r
    let u := waveIn (s.usePages g x n) op r true false
    let t := waveIn u op r true true
    let t := if op = 0x96 then holdEffect t op r else t
    let bs := leNat (if cls = 4 then s.readAccess c g.cx.toNat as cls else as.map (Memory.read s.mem))
    actsFreely s r (argsOf r.ar.toNat g 0) → firingP g = false → memAddr op r g n = .addr x →
    (op = 0x96 → (g.a.getD (plain 0)).word / 2 ^ 60 = 0xF) → waveCount s c g.bay < 1024 →
    s.access c g.bay g.cx.toNat x n (memAlign op r) clsLoad false = .ok as lost cls → (∀ y ∈ as, s.unreachable y = false) →
    s.cast? c g.bay g.ft.toNat = some k → k.held = [] → loadReady u g (litOwn r) = true →
    exec i s = .next (sendsAfter t r
      (if op ≠ 0x92 ∧ op ≠ 0x97 ∧ r.ty.toNat < 8 then
        (extended r.ty.toNat (BitVec.ofNat (tyWidth r.ty.toNat) bs)).setWidth 512 else BitVec.ofNat 512 bs) lost
      (t.accessDelay c g.bay (as.headD 0) cls))) ∧
  (∀ (s : State) (c b hc hb off : Nat), c < 16 → b < 256 → hc < 16 → hb < 256 → off < 2 ^ 20 →
    let apart := fun (x y : Nat) => (x - y) + (y - x)
    let h := apart (b % 16) (hb % 16) + apart (b / 16) (hb / 16) + 2
    let near := if hc = c ∧ hb = b then 6 else if hc = c then 20 + h else 20 + h + 24
    s.accessDelay c b (nearPA hc hb off) 0 = near ∧ s.atomDelay c b (nearPA hc hb off) = near + 2 ∧
    (∀ e, e < 2 ^ 13 → s.accessDelay c b (128 * e) 4 =
      let m := apart (b % 16) (e % 16) + 2
      if e % 16 = b % 16 then 6 else 20 + m) ∧
    (∀ d, d < farSize → s.accessDelay c b (farBase + d) 0 = 532 ∧ s.atomDelay c b (farBase + d) = 546))

/-- R215: a load takes each byte from the held write of its cast with the highest OWN below its own that covers the byte, and
from memory when none does. -/
def Obligations.LoadsForwardHeldWrites : Prop :=
  ∀ (s : State) (r : NodeRec) (g : Firing) (as : List Nat) (cls : Nat) (k : Cast),
    s.cast? g.course.toNat g.bay g.ft.toNat = some k → cls ≠ 4 →
    ∀ (j a : Nat) (v : Byte), as[j]? = some a → (loadBytes s r g as cls)[j]? = some v →
      ((∀ p ∈ k.held, litOwn p.r < litOwn r → lkp (heldBytes s p) a = none) → v = Memory.read s.mem a) ∧
      (∀ p ∈ k.held, litOwn p.r < litOwn r → lkp (heldBytes s p) a ≠ none →
        (∀ q ∈ k.held, q ≠ p → litOwn q.r < litOwn r → lkp (heldBytes s q) a ≠ none → litOwn q.r < litOwn p.r) →
        lkp (heldBytes s p) a = some v)

/-- R212, R219, R220, R222: a store whose address is writable, aligned and in range sends its value at once and holds its
write for the commit; memory does not change before. PREF sends A.
R55, R212, R213, R456: where a load or a store faults: no such address (PROT 0), a misaligned one (ALIGN), a handle that fails
R55 (PROT 1 to 3), and, its pages being translated, a class that R213 does not allow (PROT 7), a write without permission (PROT
6), two classes (ATTR_SPLIT), in that order; a load of a stack that no route reaches (PAGE 8). -/
def Obligations.StoresAreHeld : Prop :=
  (∀ (r : NodeRec) (s : State) (op : Nat) (i : Instr) (x cls : Nat) (as : List Nat) (lost : Bool),
    (op, i) ∈ [(0x91, Instr.st r), (0x93, .vst r), (0x95, .stx r), (0x98, .vstx r)] →
    let g := s.firing
    let c := g.course.toNat
    let n := memWidth op r
    actsFreely s r (argsOf r.ar.toNat g 0) → firingP g = false →
    let sent := fun (u : State) => sendsPayload (holdWrite u op r) r (storeVal op g).val false
    waveCount s c g.bay < 1024 →
    (memAddr op r g n = .addr x →
      (s.access c g.bay g.cx.toNat x n (memAlign op r) clsStore true = .ok as lost cls →
        exec i s = .next (sent (s.usePages g x n)) ∧ (sent (s.usePages g x n)).mem = s.mem) ∧
      (s.access c g.bay g.cx.toNat x n (memAlign op r) clsStore true = .held → exec i s = .next (sent s) ∧ (sent s).mem = s.mem)) ∧
    (r.ar.toNat = 0 → ∃ t, exec (.pref r) s = .next (sendsValue t r ((g.a.getD (plain 0)).low 64) false) ∧ t.mem = s.mem ∧
      t.transit = s.transit)) ∧
  (∀ (r : NodeRec) (s : State) (op : Nat) (i : Instr) (x : Nat) (write : Bool),
    (op, i, write) ∈ [(0x90, Instr.ld r, false), (0x92, .vld r, false), (0x94, .ldx r, false), (0x96, .ldl r, false),
      (0x97, .vldx r, false), (0x91, .st r, true), (0x93, .vst r, true), (0x95, .stx r, true), (0x98, .vstx r, true)] →
    let g := s.firing
    let c := g.course.toNat
    let n := memWidth op r
    let cls := if write then clsStore else clsLoad
    let allowed := fun (t : TlbEntry) => cls / 2 ^ t.cls % 2 = 1
    let faults := fun kind code => exec i s = .next (memFault s r g kind code g.cx.toNat x)
    actsFreely s r (argsOf r.ar.toNat g 0) → firingP g = false → waveCount s c g.bay < 1024 → inWave s op r = false →
    memAddr op r g n = .addr x → (op = 0x96 → (g.a.getD (plain 0)).word / 2 ^ 60 = 0xF) →
    (addrKind (x % 2 ^ 64) = .bad → faults kPROT 0) ∧
    (addrKind (x % 2 ^ 64) ≠ .bad → x % memAlign op r ≠ 0 → faults kALIGN 0) ∧
    (x % memAlign op r = 0 →
      (addrKind (x % 2 ^ 64) = .handle → ∀ code, s.handleEntry g.cx.toNat x n = .error code → faults kPROT code) ∧
      (∀ t u, addrKind (x % 2 ^ 64) = .virt → s.tlbHit c g.bay g.cx.toNat x = some t →
        s.tlbHit c g.bay g.cx.toNat (x + n - 1) = some u →
        (¬ allowed t ∨ ¬ allowed u → faults kPROT 7) ∧
        (allowed t → allowed u → write = true → (t.w && u.w) = false → faults kPROT 6) ∧
        (allowed t → allowed u → (write = true → (t.w && u.w) = true) → t.cls ≠ u.cls → faults kATTR 0)) ∧
      (∀ t u, addrKind (x % 2 ^ 64) = .shadowAlias → s.tlbHit c g.bay g.cx.toNat (x % 2 ^ 56) = some t →
        s.tlbHit c g.bay g.cx.toNat (x % 2 ^ 56 + n - 1) = some u → t.cls ≠ 5 ∨ u.cls ≠ 5 → faults kPROT 7)) ∧
    (∀ as lost k, write = false → s.access c g.bay g.cx.toNat x n (memAlign op r) clsLoad false = .ok as lost k →
      (∃ y ∈ as, s.unreachable y = true) → faults kPAGE 8))

/-- R55, R219, R226, R390: a held store is performed at the addresses that `land` gives for it: every byte of its value is
written there, least significant first, and when the D bits of its pages stand already no other byte of memory changes; one
with a poisoned operand writes nothing. -/
def Obligations.PerformedStoreFrame : Prop :=
  ∀ (s s' t : State) (p : Pend) (x : Nat) (as : List Nat),
    let op := p.op
    let n := memWidth op p.r
    Memory.wf s.mem = true → op = 0x91 ∨ op = 0x93 ∨ op = 0x95 ∨ op = 0x98 → memAddr op p.r p.fir n = .addr x →
    (firingP p.fir = true → performStore s p = .done t → t.mem = s.mem) ∧
    (firingP p.fir = false → land s p.fir x n (memAlign op p.r) clsStore = .at_ s' as → s'.mem = s.mem → as.length = n → as.Nodup →
      ∃ u, performStore s p = .done u ∧
        (∀ j a, as[j]? = some a → Memory.read u.mem a = BitVec.ofNat 8 ((storeVal op p.fir).val.toNat / 2 ^ (8 * j))) ∧
        (∀ a, a ∉ as → Memory.read u.mem a = Memory.read s.mem a))

/-- R225: ATOM and CAS hold their update for the commit and send nothing before; performed, ATOM writes f(old, B) and CAS
writes C when the old value equals B, and the old value, extended, goes to D0 (to D1 as well for ATOM, the match for CAS), to
arrive when the latency of the update has passed (R319). Under RETURN the D0 value goes alone (notes/assumptions/18.md, the
model's reading). -/
def Obligations.AtomicsUpdateAtCommit : Prop :=
  ∀ (r : NodeRec) (s : State) (x cls : Nat) (as : List Nat) (lost : Bool),
    let g := s.firing
    let n := ctlBytes r
    (actsFreely s r (argsOf r.ar.toNat g 0) → firingP g = false → waveCount s g.course.toNat g.bay < 1024 →
      (memAddr 0xA0 r g n = .addr x → s.access g.course.toNat g.bay g.cx.toNat x n n clsStore true = .ok as lost cls →
        exec (.atom r) s = .next (holdWrite (s.usePages g x n) 0xA0 r)) ∧
      (memAddr 0xA1 r g n = .addr x → s.access g.course.toNat g.bay g.cx.toNat x n n clsStore true = .ok as lost cls →
        exec (.cas r) s = .next (holdWrite (s.usePages g x n) 0xA1 r))) ∧
    (∀ s' : State, ∀ as' : List Nat, firingP g = false → memAddr 0xA0 r g n = .addr x → land s g x n n clsStore = .at_ s' as' →
      let old := leNat (readBytes s' as')
      let b := (g.b.getD (plain 0)).word
      let v := some ((BitVec.ofNat 64 (extendTy r.ty.toNat old)).setWidth 512, false)
      let hit := old = b % 2 ^ (8 * n)
      let sent := fun (u : State) (v1 : Option Val) =>
        delaySince u (emitVals u r g false v v1) g (s'.cycles + s'.atomDelay g.course.toNat g.bay (as'.headD 0))
      performAtomic s (pendOf 0xA0 r g) = .done (sent
        (setFlags (writeBytes s' (as'.zip (leBytes n (atomUpd r.ty.toNat r.var.toNat old b).1))) g.cx.toNat
          (atomUpd r.ty.toNat r.var.toNat old b).2) v) ∧
      performAtomic s (pendOf 0xA1 r g) = .done (sent
        (if hit then writeBytes s' (as'.zip (leBytes n (g.c.getD (plain 0)).word)) else s')
        (some (if hit then 1#512 else 0#512, false))))

/-! ### Synchronisation (R227 to R246) -/

/-- R229 to R231: an ILD of a full word of its own bay sends the word's value on D0 once its turn in the wave has come; IST
sends B and ICLR sends A, and both hold their change of the word for the commit, where IST writes B with FULL set and ICLR
clears a full word to 0. Filling a word that nobody waits for writes its 8 bytes, sets FULL and changes no other word.
R227, R230 and R231 name no token of ICLR: that it sends A at issue is the model's reading (notes/assumptions/27.md). -/
def Obligations.StructureWordsReadFillAndClear : Prop :=
  ∀ (r : NodeRec) (s : State) (as : List Nat) (lost : Bool) (cls : Nat),
    let g := s.firing
    let c := g.course.toNat
    let x := structAddr r g
    let v := s.usePages g x 8
    let w := waveMark v 0xA2 r true false
    let u := waveMark v 0xA2 r true true
    actsFreely s r (argsOf r.ar.toNat g 0) → actsFreely s r (argsOf 0 g 0) → firingP g = false → waveCount s c g.bay < 1024 →
    (∀ a rest, as = a :: rest → s.access c g.bay g.cx.toNat x 8 8 clsStruct false = .ok as lost cls → homeOf a = (c, g.bay) →
      loadReady w g (litOwn r) = true → (w.stag a).full = true →
      exec (.ild r) s = .next (delaySince u (sendsPair u r (s.eBit g)
        (some ((BitVec.ofNat 64 (Memory.get s.mem a 8)).setWidth 512, lost)) none) g (u.cycles + u.accessDelay c g.bay a 3))) ∧
    (s.access c g.bay g.cx.toNat x 8 8 clsStruct true = .ok as lost cls →
      exec (.ist r) s = .next (sendsValue (holdWrite v 0xA3 r) r ((g.b.getD (plain 0)).low 64) false) ∧
      exec (.iclr r) s = .next (sendsValue (holdWrite v 0xA4 r) r ((g.a.getD (plain 0)).low 64) false)) ∧
    (∀ s' a rest, land s g x 8 8 clsStruct = .at_ s' (a :: rest) →
      performStruct s (pendOf 0xA3 r g) = .done (fillWord s' a (g.b.getD (plain 0)).word) ∧
      ((s'.stag a).full = true → (s'.stag a).res = false →
        performStruct s (pendOf 0xA4 r g) =
          .done ((writeBytes s' ((a :: rest).zip (leBytes 8 0))).setStag a { s'.stag a with full := false }))) ∧
    (∀ a v : Nat, Memory.wf s.mem = true → v < 2 ^ 64 → (s.stag a).wait = false →
      ((fillWord s a v).stag a).full = true ∧ ((fillWord s a v).stag a).res = false ∧
      Memory.get (fillWord s a v).mem a 8 = v ∧
      (∀ b, b ≠ a → (fillWord s a v).stag b = s.stag b) ∧
      (∀ b, b < a ∨ a + 8 ≤ b → Memory.read (fillWord s a v).mem b = Memory.read s.mem b))

/-- R232, R235, R237, R238, R239, R241: CMB sends B and holds its partial, FENCE sends A and takes its place in the wave,
BAR.arrive holds its arrival, BAR.wait sends A once its phase has completed, SHADOW sends the alias of its page's other copy,
and PUBLISH sends A and holds its flip.
The PUBLISH clause is the model's reading (notes/assumptions/27.md): that it sends A at issue, counts OFF in single bytes and
asks for permission to write. -/
def Obligations.CombineFenceBarrierShadowAct : Prop :=
  ∀ (r : NodeRec) (s : State) (as : List Nat) (lost : Bool) (cls : Nat),
    let g := s.firing
    let c := g.course.toNat
    let a := g.a.getD (plain 0)
    let b := g.b.getD (plain 0)
    let n := (g.c.getD (plain 0)).word
    let e := b.word % 2 ^ 16
    let y := addrPlus a.word (litOff r)
    let bar := s.barrier g.cx (litScope r) (barNum r) (barUnit g (litScope r))
    actsFreely s r (argsOf 3 g 0) → waveCount s c g.bay < 1024 →
    let z := addrPlus a.word (litOff r * cmbBytes r)
    (1 ≤ n → n ≤ 16 → s.access c g.bay g.cx.toNat z (cmbBytes r) (cmbBytes r) clsStore true = .ok as lost cls →
      exec (.cmb r) s = .next (sendsPayload (holdWrite (s.usePages g z (cmbBytes r)) 0xA5 r) r b.val false)) ∧
    (litOrd r < 2 → exec (.fence r) s = .next (sendsValue (waveIn s 0xA6 r false true) r (a.low 64) false)) ∧
    (litOrd r = 2 ∨ litOrd r = 3 → exec (.fence r) s = .next (sendsValue (holdWrite s 0xA6 r) r (a.low 64) false)) ∧
    (firingP g = false → e ≠ 0 → exec (.barArrive r) s = .next (holdWrite s 0xA7 r)) ∧
    (bar.completed (a.low 16) = true →
      exec (.barWait r) s = .next (sendsValue (waveMark s 0xA7 r false true) r (a.low 64) false)) ∧
    (addrKind a.word = .virt → bitAt r.lit 0 = false → s.access c g.bay g.cx.toNat a.word 1 1 clsShadow false = .ok as lost cls →
      exec (.shadow r) s = .next (sendsValue (s.usePages g a.word 1) r (0xE000000000000000#64 ||| (a.low 56).setWidth 64) false)) ∧
    (addrKind y = .virt → s.access c g.bay g.cx.toNat y 1 1 clsShadow true = .ok as lost cls →
      exec (.publish r) s = .next (sendsValue (holdWrite (s.usePages g y 1) 0xA8 r) r (a.low 64) false))

/-- R236, R237: an arrival below the phase's count is counted and one that reaches it completes the phase, whose number goes
up by one, and whose waits end 4, 24, 48 or 1,260 cycles later by its scope (R44, 900 ns in the pod); what the guards of its
strand noted is reported (R394); an arrival sends the phase that it joined, and one with a count that differs makes a soft PROT 12 record. -/
def Obligations.BarrierArrivalsCount : Prop :=
  ∀ (s : State) (r : NodeRec) (g : Firing),
    let scope := litScope r
    let x := s.barrier g.cx scope (barNum r) (barUnit g scope)
    let n := (g.b.getD (plain 0)).word % 2 ^ 16
    let count := if x.arrivals = 0 then n else x.count
    let delay := if x.scope = 1 then 4 else if x.scope = 2 then 24 else if x.scope = 3 then 48 else if x.scope = 5 then 1260 else 0
    let y := if count ≤ x.arrivals + 1 then
        { x with phase := x.phase + 1, count := 0, arrivals := 0, due := x.due ++ [(x.phase, s.cycles + delay)] }
      else { x with count := count, arrivals := x.arrivals + 1 }
    let u := strandGuards (s.setBarrier y) g.cx (s.strandOf g)
    let v := some ((x.phase.setWidth 512 : Payload), false)
    firingP g = false → scope ≠ 4 →
    (x.arrivals = 0 ∨ x.count = n → performArrive s (pendOf 0xA7 r g) = .done (emitVals u r g false v v)) ∧
    (x.arrivals ≠ 0 → x.count ≠ n →
      performArrive s (pendOf 0xA7 r g) = .done (emitVals (softRec u (countRec u r g)
        (u.inFaultFrame g) (some (g.course, BitVec.ofNat 8 g.bay, g.ft))) r g false v v))

/-- R243 to R246: RDG.ST sends B on D0 and holds its write, RDG.LD sends the entry's bytes in the course's mirror, RDG.WAIT
sends A once every mirror holds every write up to the position, TICK.rd sends the pod time base and TICK.until sends A once
that time has come. A slot that the context may not name is the hard fault HOLDING 2 and an offset beyond the entry PROT 3. Performed, RDG.ST joins
the port of its course with its bytes at their offset in the entry, unless the port holds 256 writes or a release waits for
the earlier writes and publications of its strand; a slot lost since the issue is HOLDING 2 at HOME (R337). That PROT 3 comes
before HOLDING 2, what a release waits for, and the second slot check are the model's readings (notes/assumptions/31.md,
33.md, 124.md); which value RETURN sends is 18.md. -/
def Obligations.RidgeAndTimeInstructionsAct : Prop :=
  ∀ (r : NodeRec) (s : State),
    let g := s.firing
    let c := g.course.toNat
    let a := g.a.getD (plain 0)
    let x := a.word
    let b := g.b.getD (plain 0)
    let lo := if r.pl then 64 * (litOff r).toNat else 8 * (litOff r).toNat
    let n := if r.pl then 64 else max 1 (tyWidth r.ty.toNat / 8)
    let v := Memory.get (s.mirrorOf c) (128 * x + lo) n
    exec (.tickRd r) s = .next (sendsWord s r s.tick 0) ∧
    (actsFreely s r (argsOf 1 g 0) → actsFreely s r (argsOf 0 g 0) → firingP g = false →
      (rdgOffOk r = false → waveCount s c g.bay < 1024 → exec (.rdgSt r) s = .next (memFault s r g kPROT 3 g.cx.toNat x) ∧
        exec (.rdgLd r) s = .next (memFault s r g kPROT 3 g.cx.toNat x)) ∧
      (rdgOffOk r = true → s.slotUsable g.cx.toNat x = false → waveCount s c g.bay < 1024 →
        exec (.rdgSt r) s = .next (memFault s r g kHOLDING 2 g.cx.toNat x) ∧
        exec (.rdgLd r) s = .next (memFault s r g kHOLDING 2 g.cx.toNat x)) ∧
      (rdgOffOk r = true → s.slotUsable g.cx.toNat x = true → waveCount s c g.bay < 1024 →
        exec (.rdgSt r) s = .next (sendsPair (holdWrite s 0xAA r) r (s.eBit g) (some (b.val, false)) none) ∧
        (loadReady (waveIn s 0xAB r true false) g (litOwn r) = true →
          let u := waveIn (waveIn s 0xAB r true false) 0xAB r true true
          exec (.rdgLd r) s = .next (sendsAfter u r
            (if r.pl then BitVec.ofNat 512 v else if r.ty.toNat < 8 then
              (extended r.ty.toNat (BitVec.ofNat (tyWidth r.ty.toNat) v)).setWidth 512 else BitVec.ofNat 512 (v % 2 ^ tyWidth r.ty.toNat)) false (u.accessDelay c g.bay (128 * x) 4)))) ∧
      (x / 8 ≤ s.beat + 1024 → x / 8 + 4 ≤ s.beat → (∀ y ∈ s.changes, x / 8 < y.beat) →
        exec (.rdgWait r) s = .next (sendsValue s r (a.low 64) false)) ∧
      (s.beat + 1024 < x / 8 → exec (.rdgWait r) s =
        .next (hardFault s g kPROT 20 g.cx.toNat fun y => { y with addr := BitVec.ofNat 64 x })) ∧
      ((s.tick - a.low 64).msb = false → exec (.tickUntil r) s = .next (sendsValue s r (a.low 64) false))) ∧
    (firingP g = false →
      (s.slotUsable g.cx.toNat x = false → performRdgSt s (pendOf 0xAA r g) = .home kHOLDING 2 g.cx.toNat x) ∧
      (s.slotUsable g.cx.toNat x = true → 256 ≤ (s.crs c).port.length → performRdgSt s (pendOf 0xAA r g) = .waits) ∧
      (s.slotUsable g.cx.toNat x = true → (s.crs c).port.length < 256 →
        (litOrd r = 2 → ridgeHeld s c g.cx (s.strandOf g) = false) →
        ∃ w, performRdgSt s (pendOf 0xAA r g) = .done (s.modCrs c fun y => { y with port := y.port ++ [w] }) ∧
          w.slot = x ∧ w.cx = g.cx ∧ w.str = s.strandOf g ∧ w.beat = s.beat ∧
          (∀ i, i < 128 → w.mask.getLsbD i = (decide (lo ≤ i) && decide (i < lo + n))) ∧
          (∀ i, i < n → lo + n ≤ 128 → w.data.extractLsb' (8 * (lo + i)) 8 = b.val.extractLsb' (8 * i) 8)))

/-! ### Vectors (R188 to R210) -/

/-- R191: VADD, VSUB and VMUL wrap each lane, or clamp it under `sat` and set SAT when a lane changes; VMAD, VMIN, VMAX and
VABS act lane by lane. -/
def Obligations.VectorIntegersWrapOrSaturate : Prop :=
  ∀ (r : NodeRec) (s : State), r.ty.toNat < 8 →
    let w := tyWidth r.ty.toNat
    let sg := tySigned r.ty.toNat
    let a := argsData s r s.firing
    let x := laneV w a.a.val
    let y := laneV w a.b.val
    let z := laneV w a.c.val
    let least : Int := if sg then -(2 ^ (w - 1) : Int) else 0
    let most : Int := if sg then (2 ^ (w - 1) : Int) - 1 else (2 ^ w : Int) - 1
    (∀ (i : Instr) (f : Int → Int → Int),
      (i, f) ∈ [(Instr.vadd r, fun p q => p + q), (.vsub r, fun p q => p - q), (.vmul r, fun p q => p * q)] →
      let e := fun j => f (valueIn sg (x j)) (valueIn sg (y j))
      (r.var ≠ 1#4 → sendsLanes (exec i s) s r w (fun j => BitVec.ofInt w (e j)) 0) ∧
      (r.var = 1#4 → sendsLanes (exec i s) s r w (fun j => BitVec.ofInt w (max least (min most (e j))))
        (if ∀ j, j < 512 / w → least ≤ e j ∧ e j ≤ most then 0 else fSAT))) ∧
    sendsLanes (exec (.vmad r) s) s r w (fun j => x j * y j + z j) 0 ∧
    sendsLanes (exec (.vmin r) s) s r w (fun j => if lessIn sg (y j) (x j) then y j else x j) 0 ∧
    sendsLanes (exec (.vmax r) s) s r w (fun j => if lessIn sg (x j) (y j) then y j else x j) 0 ∧
    sendsLanes (exec (.vabs r) s) s r w (fun j => if sg && (x j).msb then -(x j) else x j) 0

/-- R191, R197: VAND, VOR, VXOR, VSHL, VSHR, VCMP, VSEL and VPOPC act lane by lane and set no flag; VMASK packs the truth of
A's lanes into the low bits. -/
def Obligations.VectorBitsMasksAndShifts : Prop :=
  ∀ (r : NodeRec) (s : State),
    let w := tyWidth r.ty.toNat
    let sg := tySigned r.ty.toNat
    let a := argsData s r s.firing
    let x := laneV w a.a.val
    let y := laneV w a.b.val
    let z := laneV w a.c.val
    (r.ty.toNat < 8 →
      sendsLanes (exec (.vand r) s) s r w (fun j => x j &&& y j) 0 ∧
      sendsLanes (exec (.vor r) s) s r w (fun j => x j ||| y j) 0 ∧
      sendsLanes (exec (.vxor r) s) s r w (fun j => x j ^^^ y j) 0 ∧
      sendsLanes (exec (.vshl r) s) s r w (fun j => x j <<< (y j).toNat) 0 ∧
      sendsLanes (exec (.vshr r) s) s r w (fun j => if sg then (x j).sshiftRight (y j).toNat else x j >>> (y j).toNat) 0 ∧
      (r.var.toNat < 6 → sendsLanes (exec (.vcmp r) s) s r w
        (fun j => if relationIn sg r.var.toNat (x j) (y j) then BitVec.allOnes w else 0#w) 0) ∧
      sendsLanes (exec (.vpopc r) s) s r w
        (fun j => BitVec.ofNat w ((List.range w).filter fun k => (x j).getLsbD k).length) 0) ∧
    (r.ty.toNat < 13 →
      sendsLanes (exec (.vsel r) s) s r w (fun j => if x j ≠ 0#w then z j else y j) 0 ∧
      sendsLanes (exec (.vmask r) s) s r 1
        (fun j => BitVec.ofBool (decide (j < 512 / w) && decide (x j ≠ 0#w))) 0)

/-- R192, R194, R195: VDOT4 adds four byte products to each lane of C; VPERM, VSLIDE, VINS, VPACK, VUNPK and VIOTA move
lanes as their lines say, and VINS at an index of L or more sends A poisoned. -/
def Obligations.VectorLanesMove : Prop :=
  ∀ (r : NodeRec) (s : State), r.ty.toNat < 14 →
    let w := tyWidth r.ty.toNat
    let n := 512 / w
    let sg := tySigned r.ty.toNat
    let a := argsData s r s.firing
    let x := laneV w a.a.val
    let y := laneV w a.b.val
    let b := argsCtl s r s.firing
    let k := (r.lit.extractLsb' 0 8).toNat
    let two := r.ar == 1#3
    (r.ty = 2#4 ∨ r.ty = 6#4 →
      let p := fun i j => valueIn sg (laneV 8 a.a.val (4 * i + j)) * valueIn sg (laneV 8 a.b.val (4 * i + j))
      sendsLanes (exec (.vdot4 r) s) s r 32
        (fun i => BitVec.ofInt 32 (valueIn sg (laneV 32 a.c.val i) + (p i 0 + p i 1 + p i 2 + p i 3))) 0) ∧
    (w ≠ 4 → sendsLanes (exec (.vperm r) s) s r w (fun i => if (y i).toNat < n then x (y i).toNat else 0#w) 0) ∧
    (r.var = 0#4 → sendsLanes (exec (.vslide r) s) s r w
      (fun i => if k ≤ i then x (i - k) else if two then y (n - k + i) else 0#w) 0) ∧
    (r.var ≠ 0#4 → sendsLanes (exec (.vslide r) s) s r w
      (fun i => if i + k < n then x (i + k) else if two then y (i + k - n) else 0#w) 0) ∧
    (let insert := fun v => computed s r b s.sideband.stackNo.toNat s.firing.course.toNat true true (some v) (some v) 0
     (n ≤ b.c.word → exec (.vins r) s = .next (insert (b.a.val, true))) ∧
     (b.c.word < n → ∃ v, (∀ i, i < n → laneV w v i = if i = b.c.word then b.b.low w else laneV w b.a.val i) ∧
       exec (.vins r) s = .next (insert (v, false)))) ∧
    (r.ty.toNat < 8 → 16 ≤ w →
      let h := w / 2
      let least : Int := if sg then -(2 ^ (h - 1) : Int) else 0
      let most : Int := if sg then (2 ^ (h - 1) : Int) - 1 else (2 ^ h : Int) - 1
      let z := fun i => if i < n then x i else y (i - n)
      (r.var ≠ 1#4 → sendsLanes (exec (.vpack r) s) s r h (fun i => (z i).setWidth h) 0) ∧
      (r.var = 1#4 → sendsLanes (exec (.vpack r) s) s r h
        (fun i => BitVec.ofInt h (max least (min most (valueIn sg (z i)))))
        (if ∀ i, i < 2 * n → least ≤ valueIn sg (z i) ∧ valueIn sg (z i) ≤ most then 0 else fSAT))) ∧
    (r.ty.toNat < 8 → w ≤ 32 → sendsLanes (exec (.vunpk r) s) s r (2 * w)
      (fun i => let v := x (i + if r.var = 0#4 then 0 else n / 2)
        if sg then v.signExtend (2 * w) else v.setWidth (2 * w)) 0) ∧
    (r.ty.toNat < 8 → sendsLanes (exec (.viota r) s) s r w
      (fun i => (if r.ar = 2#3 then y 0 else 0#w) + BitVec.ofNat w i) 0)

/-- R196: VRED writes the reduction of A's lanes into lane 0 and zeros elsewhere, VSCAN the reduction of lanes 0 to i into
lane i; `fadd` adds pair by pair in VRED and lane by lane in VSCAN, each addition rounded rne. -/
def Obligations.ReductionsAndScans : Prop :=
  ∀ (r : NodeRec) (s : State),
    let t := r.ty.toNat
    let w := tyWidth t
    let n := 512 / w
    let x := laneV w (argsData s r s.firing).a.val
    let v := r.var.toNat
    (t < 8 → v < 6 →
      (∃ y, isReduction v (tySigned t) x (n - 1) y ∧ sendsLanes (exec (.vred r) s) s r w (fun i => if i = 0 then y else 0#w) 0) ∧
      (∃ y : Nat → BitVec w, (∀ i, i < n → isReduction v (tySigned t) x i (y i)) ∧ sendsLanes (exec (.vscan r) s) s r w y 0)) ∧
    (8 ≤ t → t < 11 → v = 6 →
      let c := fun i => (x i).toNat
      let sum := pairSum (tyFmt t) c (Nat.log2 n) 0
      sendsLanes (exec (.vred r) s) s r w (fun i => if i = 0 then BitVec.ofNat w sum.1 else 0#w) sum.2 ∧
      sendsLanes (exec (.vscan r) s) s r w (fun i => BitVec.ofNat w (runSum (tyFmt t) c i).1) (runSum (tyFmt t) c (n - 1)).2)

/-- R199: VFADD, VFSUB, VFMUL and VFMA round the exact value of each lane once; VFDIV and VFSQRT do on f32, and VFRCP,
VFRSQ, VFEXP2 and VFLOG2 rne; on f16 and bf16 those six convert the f32 result rne. VRND rounds to integral values. That 256 fraction
bits of an irrational result decide its rounding is the model's reading of R149 (notes/assumptions/90.md). -/
def Obligations.VectorFloatsRoundOnce : Prop :=
  ∀ (r : NodeRec) (s : State), 8 ≤ r.ty.toNat → r.ty.toNat < 11 →
    let f := tyFmt r.ty.toNat
    let w := tyWidth r.ty.toNat
    let a := argsData s r s.firing
    let x := fun i => (laneV w a.a.val i).toNat
    let y := fun i => (laneV w a.b.val i).toNat
    let z := fun i => (laneV w a.c.val i).toNat
    let m := r.var.toNat % 8
    let k := rounderAt s s.firing m true
    let near := rounderAt s s.firing 0 true
    let once := fun (q : Rounder) (v : FV × Flags) => { roundFV f q v.1 with flags := (roundFV f q v.1).flags ||| v.2 }
    sendsRounded (exec (.vfadd r) s) s r w (fun i => once (k i) (FV.add m (f.decode (x i)) (f.decode (y i)))) ∧
    sendsRounded (exec (.vfsub r) s) s r w (fun i => once (k i) (FV.add m (f.decode (x i)) (f.decode (y i)).neg)) ∧
    sendsRounded (exec (.vfmul r) s) s r w (fun i => once (k i) (FV.mul (f.decode (x i)) (f.decode (y i)))) ∧
    sendsRounded (exec (.vfma r) s) s r w (fun i => fFma f (k i) (x i) (y i) (z i)) ∧
    sendsRounded (exec (.vfdiv r) s) s r w (fun i => viaF32₂ f (fDiv f32 (k i)) (x i) (y i)) ∧
    sendsRounded (exec (.vfsqrt r) s) s r w (fun i => viaF32 f (fSqrt f32 (k i)) (x i)) ∧
    sendsRounded (exec (.vfrcp r) s) s r w (fun i => viaF32 f (fRcp f32 (near i)) (x i)) ∧
    sendsRounded (exec (.vfrsq r) s) s r w (fun i => viaF32 f (fRsq f32 (near i)) (x i)) ∧
    sendsRounded (exec (.vfexp2 r) s) s r w (fun i => viaF32 f (fExp2 f32 (near i)) (x i)) ∧
    sendsRounded (exec (.vflog2 r) s) s r w (fun i => viaF32 f (fLog2 f32 (near i)) (x i)) ∧
    sendsLanes (exec (.vrnd r) s) s r w (fun i => BitVec.ofNat w (fIntegral f r.var.toNat (x i))) 0

/-- R200, R201, R202: VFMIN and VFMAX order −0 below +0 and give the canonical NaN for a NaN; VFABS and VFNEG change the
sign bit of every value that is not NaN; VFCMP writes a mask by its table and VFCLS the class bit. None sets a flag. -/
def Obligations.VectorFloatsOrderAndClassify : Prop :=
  ∀ (r : NodeRec) (s : State), 8 ≤ r.ty.toNat → r.ty.toNat < 11 →
    let f := tyFmt r.ty.toNat
    let w := tyWidth r.ty.toNat
    let a := argsData s r s.firing
    let x := fun i => (laneV w a.a.val i).toNat
    let y := fun i => (laneV w a.b.val i).toNat
    let nan := fun c => f.decode c = FV.nan
    let less := fun p q => FV.cmp (f.decode p) (f.decode q) = some .lt ∨
      FV.cmp (f.decode p) (f.decode q) = some .eq ∧ (f.decode p).isNeg = true ∧ (f.decode q).isNeg = false
    let eq := fun p q => FV.cmp (f.decode p) (f.decode q) = some .eq
    let lt := fun p q => FV.cmp (f.decode p) (f.decode q) = some .lt
    let holds := fun (v : Nat) p q => match v with
      | 0 => eq p q
      | 1 => ¬ eq p q
      | 2 => lt p q
      | 3 => lt p q ∨ eq p q
      | 4 => lt q p
      | 5 => lt q p ∨ eq p q
      | 6 => nan p ∨ nan q
      | _ => ¬ nan p ∧ ¬ nan q
    (∃ u : Nat → BitVec w, sendsLanes (exec (.vfmin r) s) s r w u 0 ∧ ∀ i, i < 512 / w →
      (nan (x i) ∨ nan (y i) → (u i).toNat = f.nan) ∧
      (¬ nan (x i) → ¬ nan (y i) → (less (y i) (x i) → (u i).toNat = y i) ∧ (¬ less (y i) (x i) → (u i).toNat = x i))) ∧
    (∃ u : Nat → BitVec w, sendsLanes (exec (.vfmax r) s) s r w u 0 ∧ ∀ i, i < 512 / w →
      (nan (x i) ∨ nan (y i) → (u i).toNat = f.nan) ∧
      (¬ nan (x i) → ¬ nan (y i) → (less (x i) (y i) → (u i).toNat = y i) ∧ (¬ less (x i) (y i) → (u i).toNat = x i))) ∧
    (∃ u v : Nat → BitVec w, sendsLanes (exec (.vfabs r) s) s r w u 0 ∧ sendsLanes (exec (.vfneg r) s) s r w v 0 ∧
      ∀ i, i < 512 / w →
      (nan (x i) → (u i).toNat = f.nan ∧ (v i).toNat = f.nan) ∧
      (¬ nan (x i) → (u i).msb = false ∧ (v i).msb = !(laneV w a.a.val i).msb ∧ (∀ k, k < w - 1 →
        (u i).getLsbD k = (laneV w a.a.val i).getLsbD k ∧ (v i).getLsbD k = (laneV w a.a.val i).getLsbD k))) ∧
    (∃ u : Nat → BitVec w, sendsLanes (exec (.vfcmp r) s) s r w u 0 ∧ (r.var.toNat < 8 → ∀ i, i < 512 / w →
      (holds r.var.toNat (x i) (y i) → u i = BitVec.allOnes w) ∧ (¬ holds r.var.toNat (x i) (y i) → u i = 0#w))) ∧
    sendsLanes (exec (.vfcls r) s) s r w (fun i => BitVec.ofNat w (2 ^ (match f.decode (x i) with
      | .nan => 8
      | .inf neg => if neg then 0 else 7
      | .fin neg m _ => if m = 0 then (if neg then 3 else 4) else if m < 2 ^ (f.p - 1) then (if neg then 2 else 5)
        else (if neg then 1 else 6)))) 0

/-- R149: the special results of the correctly rounded functions, which no rounding mode changes. -/
def Obligations.FloatSpecialResults : Prop :=
  ∀ (k : Rounder) (f : Fmt), f ∈ [f32, f16, bf16] →
    let zero := fun (neg : Bool) => f.pack neg 0 f.qmin
    let res := fun c fl => (⟨c, fl, false⟩ : Rounded)
    let isZero := fun c => (f.decode c).isZero = true
    let finite := fun c => (f.decode c).finite = true
    let neg := fun c => (f.decode c).isNeg
    (∀ a b, f.decode a = .nan ∨ f.decode b = .nan → fDiv f k a b = res f.nan 0) ∧
    (∀ a b, finite a → ¬ isZero a → isZero b → fDiv f k a b = res (f.inf (neg a != neg b)) fDZ) ∧
    (∀ a b, isZero a → isZero b → fDiv f k a b = res f.nan fIV) ∧
    (∀ p q a b, f.decode a = .inf p → f.decode b = .inf q → fDiv f k a b = res f.nan fIV) ∧
    (∀ a, f.decode a = .nan → fSqrt f k a = res f.nan 0 ∧ fRcp f k a = res f.nan 0 ∧ fRsq f k a = res f.nan 0 ∧
      fExp2 f k a = res f.nan 0 ∧ fLog2 f k a = res f.nan 0) ∧
    (∀ a, isZero a → fSqrt f k a = res (zero (neg a)) 0 ∧ fRcp f k a = res (f.inf (neg a)) fDZ ∧
      fRsq f k a = res (f.inf (neg a)) fDZ ∧ fLog2 f k a = res (f.inf true) fDZ) ∧
    (∀ a, neg a = true → ¬ isZero a → fSqrt f k a = res f.nan fIV ∧ fRsq f k a = res f.nan fIV ∧
      fLog2 f k a = res f.nan fIV) ∧
    (∀ a, f.decode a = .inf false → fSqrt f k a = res (f.inf false) 0 ∧ fRsq f k a = res (zero false) 0 ∧
      fExp2 f k a = res (f.inf false) 0 ∧ fLog2 f k a = res (f.inf false) 0) ∧
    (∀ p a, f.decode a = .inf p → fRcp f k a = res (zero p) 0) ∧
    (∀ a, f.decode a = .inf true → fExp2 f k a = res (zero false) 0)

/-- R143, R144: what each rounding mode chooses between the two neighbours t × 2^q and (t + 1) × 2^q of a magnitude m × 2^e;
mode 5, sr, adds the draw to the first 32 bits of what is discarded, and the draw of a lane of an element is the upper half of
the mix of its counter and the context's seed. -/
def Obligations.RoundingChoosesByMode : Prop :=
  (∀ (mode draw m d : Nat) (neg : Bool) (e : Int),
    let (u, inexact, _) := roundAt mode draw neg m e false (e + (d : Int) + 1)
    let p := 2 ^ (d + 1)
    let t := m / p
    let rest := m % p
    (rest = 0 → u = t ∧ inexact = false) ∧
    (rest ≠ 0 → inexact = true ∧ (u = t ∨ u = t + 1) ∧
      (mode = 0 → (2 * rest < p → u = t) ∧ (p < 2 * rest → u = t + 1) ∧ (2 * rest = p → u % 2 = 0)) ∧
      (mode = 1 → u = t) ∧
      (mode = 2 → u = if neg then t else t + 1) ∧
      (mode = 3 → u = if neg then t + 1 else t) ∧
      (mode = 4 → u % 2 = 1) ∧
      (mode = 5 → u = if 2 ^ 32 ≤ rest * 2 ^ 32 / p + draw then t + 1 else t))) ∧
  (∀ (s : State) (g : Firing) (sat : Bool) (lane : Nat), g.unit.toNat < 0x1000 → lane < 128 →
    let mix := fun (z : BitVec 64) =>
      let z := (z ^^^ (z >>> 30)) * 0xBF58476D1CE4E5B9#64
      let z := (z ^^^ (z >>> 27)) * 0x94D049BB133111EB#64
      z ^^^ (z >>> 31)
    let ctr : BitVec 64 := g.it ++ g.course ++ g.unit.extractLsb' 6 6 ++ g.unit.extractLsb' 0 6 ++ g.node ++
      BitVec.ofNat 7 lane ++ s.strandOf g ++ 0#8
    (rounderAt s g 5 sat lane).draw = ((mix (ctr ^^^ mix (s.ctx g.cx.toNat).seed)) >>> 32).toNat)

/-- R204 to R207: VCVT converts its source lanes in order and fills the rest with zeros, QCVT quantises a block and sends its
metadata on D1, DQCVT dequantises one, and FCVT converts one control value.
Under RETURN the D0 value goes alone (notes/assumptions/18.md, the model's reading). -/
def Obligations.ConversionsConvertLanes : Prop :=
  ∀ (r : NodeRec) (s : State),
    let t := r.ty.toNat
    let w := tyWidth t
    let src := (r.lit.extractLsb' 8 4).toNat
    let ws := tyWidth src
    let n := 512 / ws
    let a := argsData s r s.firing
    let b := argsCtl s r s.firing
    let m := r.var.toNat % 8
    let k := rounderAt s s.firing m (decide (r.var.toNat < 8))
    let nf := r.lit.getLsbD 31
    let ops := if r.ar = 3#3 then 3 else if r.ar = 1#3 then 2 else 1
    let code := fun j => if j < n then (laneV ws a.a.val j).toNat else if j < 2 * n then (laneV ws a.b.val (j - n)).toNat
      else (laneV ws a.c.val (j - 2 * n)).toNat
    let lanes := min (ops * n) (512 / w)
    let out := fun j => cvtLane src t (k j) (code j)
    (t < 14 → src < 14 → ∃ x : Payload,
      (∀ j, j < 512 / w → laneV w x j = if j < lanes then BitVec.ofNat w (out j).code else 0#w) ∧
      exec (.vcvt r) s = .next (sendsData s r x
        (nf && (List.range lanes).any fun j => (out j).ovf || nonFinite src (code j)) (lanesFlags lanes fun j => (out j).flags))) ∧
    (11 ≤ t → t < 14 →
      let v := fun j => f32.decode (if j < 16 then laneV 32 b.a.val j else laneV 32 b.b.val (j - 16)).toNat
      let given := (if r.ar = 3#3 then b.c.word else r.lit.toNat) % 256
      let scale := if given = 255 then autoScale t ((List.range 32).map v) else given
      let q := fun j => roundFV (tyFmt t) (k j) ((v j).scale (127 - (scale : Int)))
      let bad := nf && (List.range 32).any fun j => !(v j).finite || (q j).ovf
      let spare := if (List.range 32).any fun j => (q j).code == 8 then 0x7F else 0
      ∃ x : Payload, (∀ j, j < 512 / w → laneV w x j = if j < 32 then BitVec.ofNat w (q j).code else 0#w) ∧
        exec (.qcvt r) s = .next (computed s r b s.sideband.stackNo.toNat s.firing.course.toNat true false (some (x, bad))
          (some (BitVec.ofNat 512 (if t = 13 then scale + 256 * spare else scale), bad)) (lanesFlags 32 fun j => (q j).flags))) ∧
    (8 ≤ t → t < 11 → 11 ≤ src → src < 14 →
      let near := rounderAt s s.firing m true
      let q := fun j => roundFV (tyFmt t) (near j)
        ((elemVal (tyFmt src) (b.b.word / 256 % 256) (laneV ws b.a.val j).toNat).scaled (b.b.word % 256))
      ∃ x y : Payload,
        (∀ j, j < 512 / w → laneV w x j = BitVec.ofNat w (q j).code ∧
          laneV w y j = BitVec.ofNat w (q (if t = 8 then 16 + j else j)).code) ∧
        exec (.dqcvt r) s = .next (computed s r b s.sideband.stackNo.toNat s.firing.course.toNat true true (some (x, false))
          (some (y, false)) (lanesFlags 32 fun j => (q j).flags))) ∧
    (t < 14 → src < 14 →
      let q := cvtLane src t (k 0) (b.a.low ws).toNat
      let v := BitVec.ofNat w q.code
      exec (.fcvt r) s = .next (sendsWord s r (if t < 8 then extended t v else BitVec.ofNat 64 q.code) q.flags))

/-- R146, R147: what a conversion gives for NaN and infinities. A finite value into a float target is the multiple of the
target's unit that the mode chooses, exact when the target holds it, with NX and UF by R137, and an overflow goes by R143 or,
into the narrow formats, by the table of R147. An integer target holds the rounded value, or its nearest bound with FIV; an
integer source saturates or, under nsat, wraps. A type converted to itself keeps its bits, NaN made canonical. -/
def Obligations.ConversionCorners : Prop :=
  ∀ (src t code : Nat) (k : Rounder), src < 14 → t < 14 →
    let out := cvtLane src t k code
    (src ≠ t → tyInt src = false → srcVal src code = .nan →
      (tyInt t = true → out = ⟨0, fIV, true⟩) ∧
      (tyInt t = false → out.code = (tyFmt t).nan ∧ out.flags = if t = 13 then fIV else 0)) ∧
    (∀ neg m e, src ≠ t → tyInt t = false → (if tyInt src then intFV (intVal src code) else srcVal src code) = .fin neg m e →
      let f := tyFmt t
      let q : Int := e + (bitLen m : Int) - (f.p : Int)
      let free := roundAt k.mode k.draw neg m e false q
      let tooBig := f.maxM * 2 ^ (f.maxQ - q).toNat < free.1 * 2 ^ (q - f.maxQ).toNat
      let tiny := free.1 * 2 ^ (q - f.qmin).toNat < 2 ^ (f.p - 1) * 2 ^ (f.qmin - q).toNat
      let last := roundAt k.mode k.draw neg m e false (max q f.qmin)
      (m = 0 → out.code = (if neg = true ∧ t ≠ 13 then 2 ^ f.signPos else 0) ∧ out.flags = 0) ∧
      (m ≠ 0 → ¬ tooBig → FV.cmp (f.decode out.code) (.fin neg last.1 (max q f.qmin)) = some .eq ∧
        out.flags = (if last.2.1 then fNX else 0) ||| (if last.2.1 = true ∧ tiny then fUF else 0)) ∧
      (m ≠ 0 → tooBig →
        (t < 11 → out.flags = fOF ||| fNX ∧ out.code =
          if k.mode = 0 ∨ (k.mode = 2 ∧ neg = false) ∨ (k.mode = 3 ∧ neg = true) ∨ (k.mode = 5 ∧ free.2.2 = true) then f.inf neg
          else f.largest neg) ∧
        (k.sat = true → 11 ≤ t → out.flags = fSAT ||| fOF ||| fNX ∧
          out.code = if t = 11 then (if neg then 0xFE else 0x7E) else if t = 12 then (if neg then 0xFB else 0x7B)
            else if neg then 15 else 7) ∧
        (k.sat = false → 11 ≤ t → out.flags = (if t = 13 then fIV else 0) ||| fOF ||| fNX ∧
          out.code = if t = 11 then 0x7F else if t = 12 then (if neg then 0xFC else 0x7C) else 8))) ∧
    (∀ neg m e, tyInt src = false → tyInt t = true → srcVal src code = .fin neg m e →
      let u := roundAt k.mode k.draw neg m e false 0
      let v : Int := if neg then -(u.1 : Int) else (u.1 : Int)
      intVal t out.code = max (tyMin t) (min (tyMax t) v) ∧
      out.flags = if v < tyMin t ∨ tyMax t < v then fIV else if u.2.1 then fNX else 0) ∧
    (src = t → tyInt t = false →
      (t = 13 → out.code = code % 16 ∧ out.flags = if code % 16 = 8 then fIV else 0) ∧
      (t ≠ 13 → srcVal src code = .nan → out.code = (tyFmt t).nan ∧ out.flags = 0) ∧
      (t ≠ 13 → srcVal src code ≠ .nan → out.code = code % 2 ^ tyWidth t ∧ out.flags = 0)) ∧
    (∀ neg, src ≠ t → tyInt src = false → srcVal src code = .inf neg →
      (8 ≤ t → t < 11 → out = ⟨(tyFmt t).inf neg, 0, false⟩) ∧
      (t = 11 → out = if k.sat then ⟨if neg then 0xFE else 0x7E, fSAT, false⟩ else ⟨0x7F, 0, false⟩) ∧
      (t = 12 → out = if k.sat then ⟨if neg then 0xFB else 0x7B, fSAT, false⟩
        else ⟨if neg then 0xFC else 0x7C, 0, false⟩) ∧
      (t = 13 → out = if k.sat then ⟨if neg then 15 else 7, fSAT, false⟩ else ⟨8, fIV, false⟩) ∧
      (tyInt t = true → out.flags = fIV ∧
        intVal t out.code = if neg then tyMin t else tyMax t)) ∧
    (tyInt src = true → tyInt t = true →
      let v := intVal src code
      (tyMin t ≤ v → v ≤ tyMax t → intVal t out.code = v ∧ out.flags = 0) ∧
      (k.sat = true → v < tyMin t → intVal t out.code = tyMin t ∧ out.flags = fSAT) ∧
      (k.sat = true → tyMax t < v → intVal t out.code = tyMax t ∧ out.flags = fSAT) ∧
      (k.sat = false → (out.code : Int) = v % 2 ^ tyWidth t ∧ out.flags = 0))

/-- R208, R209: SFOP computes one control-plane float by its VAR, rounded once in the mode of LIT[2:0], its literal formed
from the other bits of LIT. -/
def Obligations.ScalarFloatComputes : Prop :=
  ∀ (r : NodeRec) (s : State), 8 ≤ r.ty.toNat → r.ty.toNat < 11 →
    let f := tyFmt r.ty.toNat
    let w := tyWidth r.ty.toNat
    let g := s.firing
    let lit : BitVec 64 := if r.lit.extractLsb' 7 25 = 0x1000000#25 then s.kReg g.course.toNat g.unit.toNat (r.lit.extractLsb' 3 4).toNat
      else if r.ty = 8#4 then ((r.lit >>> 3) <<< 3).setWidth 64 else (r.lit >>> 16).setWidth 64
    let a := argsOf r.ar.toNat g (lit.setWidth 512)
    let k := rounderAt s g (r.lit.extractLsb' 0 3).toNat true 0
    let x := (a.a.low w).toNat
    let y := (a.b.low w).toNat
    let z := (a.c.low w).toNat
    let gives := fun (q : Rounded) => exec (.sfop r) s = .next (computed s r a s.sideband.stackNo.toNat g.course.toNat false false
      (some ((BitVec.ofNat 64 q.code).setWidth 512, false)) (some ((BitVec.ofNat 64 q.code).setWidth 512, false)) q.flags)
    (r.var = 0#4 → gives (fAdd f k x y)) ∧ (r.var = 1#4 → gives (fSub f k x y)) ∧ (r.var = 2#4 → gives (fMul f k x y)) ∧
    (r.var = 3#4 → gives (fFma f k x y z)) ∧ (r.var = 4#4 → gives (fDiv f k x y)) ∧ (r.var = 5#4 → gives (fSqrt f k x)) ∧
    (r.var = 6#4 → gives (bare (fMin f x y))) ∧ (r.var = 7#4 → gives (bare (fMax f x y)))

/-! ### Crucibles (R248 to R264) -/

/-- R253, R256 to R258: an MX.LDB whose region can be read loads its bank column by column, and the metadata entries when its
format has them; an MX.LDA sets RA, the format and the sparsity and loads each row, the rows from RA on being +0; an
MX.GATHER copies the row that each index below the bound names and leaves +0 with metadata 0x007F for the others. That an operation
which reads lost data completes with P = 1 is the model's reading (notes/assumptions/35.md). -/
def Obligations.CrucibleLoadsFillTheirLatches : Prop :=
  ∀ (r : NodeRec) (s : State),
    let g := s.firing
    let c := g.course.toNat
    let t := r.ty.toNat
    let w := elemBits t
    let x := s.cruOf g
    let element := fun (bs : List Byte) i => leNat bs / 2 ^ (w * i) % 2 ^ w
    firingP g = false →
    (∀ as lost cls, s.region g.cx.toNat g.aw (16 * w * 128) 64 clsLoad false false = .ok as lost cls →
      let bs := s.readRegion c g.cx.toNat as cls
      let side := 1 + r.var.toNat % 2
      let loaded := fun (u : State) =>
        let b := if side = 1 then (u.cruOf g).b0 else (u.cruOf g).b1
        b.loaded = true ∧ b.fmt = r.ty ∧
        ∀ j k, j < 128 → k < 128 → codeAt ((lkp b.cols j).getD 0) k = element bs (128 * j + k)
      (noMeta r = true ∨ tyNarrow t = false → ∃ u, exec (.mxLdb r) s = .next (finishOp u g 0 lost) ∧ loaded u ∧
        ∀ k, k < 512 → lkp (u.cruOf g).scales (side * 512 + k) = none) ∧
      (∀ a2 l2 c2 ms, noMeta r = false → tyNarrow t = true → readMeta s g t (addrPlus g.aw (metaOff r)) 512 = (.ok a2 l2 c2, ms) →
        ∃ u, exec (.mxLdb r) s = .next (finishOp u g 0 (lost || l2)) ∧ loaded u ∧
          ∀ k v, ms[k]? = some v → lkp (u.cruOf g).scales (side * 512 + k) = some (BitVec.ofNat 16 v))) ∧
    (∀ (ra sp : Nat) (codes : Nat → BitVec 2048) (mask : Nat → BitVec 128) (md : Nat → List Nat) (lost : Nat → Bool),
      g.bw = ra + 256 * sp → 1 ≤ ra → ra ≤ 128 → sp < 3 → g.aw % 16 = 0 →
      (∀ i, i < ra → readRow s g r sp (addrPlus g.aw (i * rowBytes t sp)) (addrPlus g.aw (metaOff r + i * 4 * metaBytes t)) =
        .ok (codes i) (mask i) (md i) (lost i)) →
      ∃ y : Crucible, exec (.mxLda r) s = .next (finishOp (modCruOf s g fun z => { y with ops := z.ops }) g 0 ((List.range ra).any lost)) ∧
        y.ra = ra ∧ y.aFmt = r.ty ∧ y.aSparse = BitVec.ofNat 2 sp ∧
        (∀ i, i < ra → lkp y.aRows i = some (codes i) ∧ lkp y.aMasks i = some (mask i)) ∧ ∀ i, ra ≤ i → lkp y.aRows i = none) ∧
    (∀ (bound f sp : Nat) (codes : Nat → BitVec 2048) (mask : Nat → BitVec 128) (md : Nat → List Nat) (lost : Nat → Bool),
      let v := fun i => (laneV 32 (g.b.getD (plain 0)).val i).toNat
      g.cw = bound + 2 ^ 32 * f + 2 ^ 40 * sp → bound < 2 ^ 32 → f ≤ 112 → sp < 3 → g.aw % 16 = 0 →
      x.ra = 0 ∨ x.aFmt = r.ty ∧ x.aSparse.toNat = sp →
      (∀ i, i < 16 → v i < bound →
        readRow s g r sp (addrPlus g.aw (v i * rowBytes t sp)) (addrPlus (addrPlus g.aw (v i * rowBytes t sp)) (metaOff r)) =
          .ok (codes i) (mask i) (md i) (lost i)) →
      ∃ y : Crucible, exec (.mxGather r) s = .next (finishOp (modCruOf s g fun z => { y with ops := z.ops }) g 0
          ((List.range 16).any fun i => decide (bound ≤ v i) || lost i)) ∧
        y.ra = max x.ra (f + 16) ∧ y.aFmt = r.ty ∧ y.aSparse = BitVec.ofNat 2 sp ∧
        ∀ i, i < 16 → (v i < bound → lkp y.aRows (f + i) = some (codes i) ∧ lkp y.aMasks (f + i) = some (mask i)) ∧
          (bound ≤ v i → lkp y.aRows (f + i) = some 0 ∧ ∀ b, b < 4 → lkp y.scales ((f + i) * 4 + b) = some 0x007F#16)) ∧
    (∀ sp at_ mx as lost cls, sp < 3 → s.region g.cx.toNat at_ (rowBytes t sp) 16 clsLoad false false = .ok as lost cls →
      noMeta r = true ∨ tyNarrow t = false →
      let bs := s.readRegion c g.cx.toNat as cls
      ∃ codes mask, readRow s g r sp at_ mx = .ok codes mask [] lost ∧
        (∀ k, k < 16 * keptOf sp → codeAt codes k = element bs k) ∧
        mask = BitVec.ofNat 128 (leNat bs / 2 ^ (16 * keptOf sp * w)))

/-- R253, R259, R263, R264: MX.SCALE writes the entry that its tag names, MX.ZERO clears its accumulator, MX.ADDC adds a row
of values to every live row, MX.QRY gives the word of its selector, and one with a poisoned operand completes poisoned. That an
operation which reads lost data completes with P = 1 is the model's reading (notes/assumptions/35.md). -/
def Obligations.CrucibleWordsScaleZeroAndQuery : Prop :=
  ∀ (r : NodeRec) (s : State),
    let g := s.firing
    let x := s.cruOf g
    let a := g.aw
    let side := a / 2 ^ 30 % 4
    let n := r.var.toNat % 4
    let t := r.ty.toNat
    let w := tyWidth t
    let sel := (r.lit.extractLsb' 0 4).toNat
    (firingP g = true → ∀ i ∈ [Instr.mxLdb r, .mxLda r, .mxGather r, .mxScale r, .mxMma r, .mxZero r, .mxAddc r, .mxQry r],
      exec i s = .next (finishOp s g 0 true)) ∧
    (firingP g = false →
      (a < 2 ^ 32 → side < 3 → a / 2 ^ 18 % 32 = 0 → exec (.mxScale r) s = .next (finishOp (modCruOf s g fun y =>
        { y with scales := put y.scales (side * 512 + a / 2 ^ 23 % 128 * 4 + a / 2 ^ 16 % 4) (BitVec.ofNat 16 a) }) g 0 false)) ∧
      (2 ^ 32 ≤ a ∨ side = 3 ∨ a / 2 ^ 18 % 32 ≠ 0 → exec (.mxScale r) s =
        .next (cruFault s g kPROT 15 g.cx.toNat 0 (a / 2 ^ 23 % 128))) ∧
      (∃ u, exec (.mxZero r) s = .next (finishOp u g 0 false) ∧ u.mem = s.mem ∧ lkp (u.cruOf g).rows n = some 0 ∧
        ∀ m row j, m < 4 → row < 128 → j < 128 → accCell (u.cruOf g) m row j = if m = n then 0 else accCell x m row j) ∧
      (∀ as lost cls, s.region g.cx.toNat a (128 * (w / 8)) 64 clsLoad false false = .ok as lost cls →
        (lkp x.rows n).getD 0 ≤ 128 →
        let v := fun j => leNat (s.readRegion g.course.toNat g.cx.toNat as cls) / 2 ^ (w * j) % 2 ^ w
        ∃ u, exec (.mxAddc r) s = .next (finishOp u g 0 lost) ∧
          ∀ m row j, m < 4 → row < 128 → j < 128 → accCell (u.cruOf g) m row j =
            if m = n ∧ row < (lkp x.rows n).getD 0 then
              BitVec.ofNat 37 (roundFV x37 { mode := 4 }
                (FV.add 4 (x37.decode (accCell x n row j).toNat) ((tyFmt t).decode (v j))).1).code
            else accCell x m row j) ∧
      (sel ≠ 3 → exec (.mxQry r) s = .next (finishOp s g (match sel with
        | 0 => x.ra + x.aFmt.toNat * 2 ^ 8 + x.aSparse.toNat * 2 ^ 12
        | 1 => x.b0.fmt.toNat + x.b0.loaded.toNat * 2 ^ 4 + x.b1.fmt.toNat * 2 ^ 8 + x.b1.loaded.toNat * 2 ^ 12
        | 2 => (lkp x.rows 0).getD 0 + ((lkp x.rows 1).getD 0 * 2 ^ 8 + ((lkp x.rows 2).getD 0 * 2 ^ 16 + (lkp x.rows 3).getD 0 * 2 ^ 24))
        | _ => x.accepted.toNat) false)) ∧
      (sel = 3 → exec (.mxQry r) s = .next (finishOp (modCruOf s g fun y => { y with gstat := 0 }) g x.gstat.toNat false)))

/-- R260, R261: an MX.MMA with RA 0 only applies VAR[2]; one whose checks pass and whose scale entries are present asks for a
permit; an empty bank or another format is PROT 13, another sparsity SPARSE_META 1. Its S word is written once, before, and a
fault leaves the entry as it was. -/
def Obligations.MmaChecksThenAsksForItsPermit : Prop :=
  ∀ (r : NodeRec) (s : State),
    let g := s.firing
    let word := g.sw
    let side := word / 2 ^ 30 % 4
    let y := s.cruOf g
    let scaled := ((y.ops.find? fun o => o.pend.fir == g && o.started && !o.done).map CruOp.scaled).getD false
    let x := if r.ar = 6#3 ∧ scaled = false then
        { y with scales := put y.scales (side * 512 + word / 2 ^ 23 % 128 * 4 + word / 2 ^ 16 % 4) (BitVec.ofNat 16 word)
                 ops := modFirstOp g (fun o => { o with scaled := true }) y.ops }
      else y
    let s1 := modCruOf s g fun _ => x
    let n := r.var.toNat % 4
    let set := r.var.getLsbD 2
    let b := if r.var.toNat < 8 then x.b0 else x.b1
    let bside := if r.var.toNat < 8 then 1 else 2
    let sp := x.aSparse.toNat
    firingP g = false →
    (r.ar = 6#3 → 2 ^ 32 ≤ word ∨ side = 3 ∨ word / 2 ^ 18 % 32 ≠ 0 →
      exec (.mxMma r) s = .next (cruFault s g kPROT 15 g.cx.toNat 0 (word / 2 ^ 23 % 128))) ∧
    ((r.ar = 6#3 → word < 2 ^ 32 ∧ side < 3 ∧ word / 2 ^ 18 % 32 = 0) →
      (x.ra = 0 → ∃ u, exec (.mxMma r) s = .next (finishOp u g 0 false) ∧
        (set = false → u = s1) ∧
        (set = true → lkp (u.cruOf g).rows n = some 0 ∧ ∀ m row j, m < 4 → row < 128 → j < 128 →
          accCell (u.cruOf g) m row j = if m = n then 0 else accCell x m row j)) ∧
      (x.ra ≠ 0 → b.loaded = false ∨ r.ty ≠ x.aFmt → exec (.mxMma r) s = .next (cruFault s g kPROT 13 g.cx.toNat 0 0)) ∧
      (x.ra ≠ 0 → b.loaded = true → r.ty = x.aFmt → (r.lit.extractLsb' 0 2).toNat ≠ sp →
        exec (.mxMma r) s = .next (cruFault s g kSPARSE 1 g.cx.toNat 0 0)) ∧
      (x.ra ≠ 0 → b.loaded = true → r.ty = x.aFmt → (r.lit.extractLsb' 0 2).toNat = sp →
        (sp ≠ 0 → ∀ row q, row < x.ra → q < 16 → popByte (maskByte x row q) = if sp = 1 then 4 else 2) →
        (tyNarrow x.aFmt.toNat = true → ∀ row k, row < x.ra → k < 4 → (lkp x.scales (row * 4 + k)).isSome = true) →
        (tyNarrow b.fmt.toNat = true → ∀ j k, j < 128 → k < 4 → (lkp x.scales (bside * 512 + j * 4 + k)).isSome = true) →
        exec (.mxMma r) s = .next (modCruOf s1 g fun y => { y with ops := modFirstOp g (fun o => { o with wantPermit := true }) y.ops })))

/-- R150 to R153, R155, R260: what a burst leaves: each cell of a row below RA is the sum of its four blocks in their order on
the old cell, or on −0 in the set variant; other rows keep their cells, or become +0 in the set variant; ROWS follows. The
sum of a block is the sum of its 32 exact products by a fixed tree of pairs, each addition rounded to x37, times the two
scales, NaN for a NaN scale; a sparse operand gives the sum of the dense one that holds the kept elements at their mask
positions and +0 elsewhere. -/
def Obligations.BurstUpdatesItsAccumulator : Prop :=
  ∀ (x : Crucible) (r : NodeRec), x.ra ≤ 128 →
    let n := r.var.toNat % 4
    let set := r.var.getLsbD 2
    let side := 1 + r.var.toNat / 8
    let b := if side = 1 then x.b0 else x.b1
    let odd := fun (v : FV) => x37.decode (roundFV x37 { mode := 4 } v).code
    let plus := fun (v : FV) (row j q : Nat) => odd (FV.add 4 v (groupSum x b side row j q)).1
    let ta := x.aFmt.toNat
    let tb := b.fmt.toNat
    let scale := fun (t key : Nat) => if tyNarrow t then ((lkp x.scales key).getD 0).toNat else 127
    (∀ row j q, q < 4 →
      let sa := scale ta (row * 4 + q)
      let sb := scale tb (side * 512 + j * 4 + q)
      (x.aSparse = 0 → ∃ v : Nat → Nat → FV,
        (∀ i, i < 32 → v 0 i = (FV.mul (elemVal (tyFmt ta) (sa / 256) (codeAt ((lkp x.aRows row).getD 0) (32 * q + i)))
          (elemVal (tyFmt tb) (sb / 256) (codeAt ((lkp b.cols j).getD 0) (32 * q + i)))).1) ∧
        (∀ l i, l < 5 → i < 2 ^ (4 - l) → v (l + 1) i = odd (FV.add 4 (v l (2 * i)) (v l (2 * i + 1))).1) ∧
        groupSum x b side row j q = if sa % 256 = 255 ∨ sb % 256 = 255 then FV.nan
          else (v 5 0).scale ((((sa % 256 : Nat) : Int) - 127) + (((sb % 256 : Nat) : Int) - 127))) ∧
      (∀ y : Crucible, y.aSparse = 0 → y.aFmt = x.aFmt → y.scales = x.scales → x.aSparse ≠ 0 →
        (∀ k, k < 128 → codeAt ((lkp y.aRows row).getD 0) k =
          let mask := maskByte x row (k / 8)
          if mask / 2 ^ (k % 8) % 2 = 1 then
            codeAt ((lkp x.aRows row).getD 0) ((if x.aSparse = 1 then 4 else 2) * (k / 8) + popByte (mask % 2 ^ (k % 8)))
          else 0) →
        groupSum y b side row j q = groupSum x b side row j q)) ∧
    (∀ m row j, m < 4 → row < 128 → j < 128 → accCell (mmaApply x r) m row j =
      if m = n then
        if row < x.ra then
          let z : FV := if set then .fin true 0 0 else x37.decode (accCell x n row j).toNat
          let v := plus (plus (plus (plus z row j 0) row j 1) row j 2) row j 3
          BitVec.ofNat 37 (roundFV x37 { mode := 4 } v).code
        else if set then 0 else accCell x m row j
      else accCell x m row j) ∧
    (lkp (mmaApply x r).rows n).getD 0 = (if set then x.ra else max ((lkp x.rows n).getD 0) x.ra) ∧
    (mmaApply x r).b0 = x.b0 ∧ (mmaApply x r).b1 = x.b1 ∧ (mmaApply x r).aRows = x.aRows ∧ (mmaApply x r).scales = x.scales

/-- R262: MX.DRAIN writes its live rows in order, each cell converted rne, and leaves the accumulator; without live rows it
writes nothing; a B whose bits name no address is PROT 0, one not aligned to 64 is ALIGN, and a region of two classes is
ATTR_SPLIT before any write. The flags wait in the operation for its completion (R145, R255). Through a handle whose rows all
lie in a readable part of its buffer it completes, and of memory only the rows' bytes change. -/
def Obligations.DrainWritesItsRows : Prop :=
  ∀ (r : NodeRec) (s : State),
    let g := s.firing
    let x := s.cruOf g
    let n := r.var.toNat % 4
    let t := r.ty.toNat
    let size := tyWidth t / 8
    let rows := (lkp x.rows n).getD 0
    let pitch := r.lit.toNat
    let span := (rows - 1) * pitch + 128 * size
    let ends := fun (u : State) (f : Flags) =>
      finishOp (modCruOf u g fun y => { y with ops := modFirstOp g (fun o => { o with flags := f }) y.ops }) g 0 false
    (firingP g = true → exec (.mxDrain r) s = .next (finishOp (softAt s g kPOISON 2 id) g 0 true)) ∧
    (firingP g = false → rows = 0 → exec (.mxDrain r) s = .next (finishOp s g 0 false)) ∧
    (firingP g = false → rows ≠ 0 → addrKind g.bw = .bad → exec (.mxDrain r) s = .next (cruFault s g kPROT 0 g.cx.toNat g.bw 0)) ∧
    (firingP g = false → rows ≠ 0 → addrKind g.bw ≠ .bad → g.bw % 64 ≠ 0 →
      exec (.mxDrain r) s = .next (cruFault s g kALIGN 0 g.cx.toNat g.bw 0)) ∧
    (∀ va, firingP g = false → rows ≠ 0 → addrKind g.bw ≠ .bad → g.bw % 64 = 0 → isHandle g.bw = false →
      drainPull s g span = none → regionSplit s g.cx.toNat (g.bw % 2 ^ 56) span = some va →
      exec (.mxDrain r) s = .next (cruFault s g kATTR 0 g.cx.toNat va 0)) ∧
    (∀ u f, firingP g = false → rows ≠ 0 → addrKind g.bw ≠ .bad → g.bw % 64 = 0 → drainPull s g span = none →
      (isHandle g.bw = false → regionSplit s g.cx.toNat (g.bw % 2 ^ 56) span = none) →
      drainRows g x n t pitch (drainPlan s g t pitch rows 0) 0 (s, 0) = (u, f, none) →
      exec (.mxDrain r) s = .next (ends u f) ∧ u.cruOf g = x) ∧
    (∀ at_ : Nat → List Nat, Memory.wf s.mem = true → firingP g = false → rows ≠ 0 → g.bw % 64 = 0 → isHandle g.bw = true →
      (∀ row, row < rows → isHandle (addrPlus g.bw (row * pitch)) = true ∧ (∀ a ∈ at_ row, s.unreachable a = false) ∧
        s.region g.cx.toNat (addrPlus g.bw (row * pitch)) (128 * size) 64 clsStore true true = .ok (at_ row) false 0) →
      (∀ i j, i < rows → j < rows → i ≠ j → ∀ a ∈ at_ i, a ∉ at_ j) →
      ∃ u f, exec (.mxDrain r) s = .next (ends u f) ∧ u.cruOf g = x ∧
        (∀ row j : Nat, ∀ a : Nat, row < rows → (at_ row)[j]? = some a → some (Memory.read u.mem a) = (drainRow x n t row).1[j]?) ∧
        (∀ a, (∀ row, row < rows → a ∉ at_ row) → Memory.read u.mem a = Memory.read s.mem a)) ∧
    (8 ≤ t → t < 13 → ∀ row j i, j < 128 → i < size →
      (drainRow x n t row).1[j * size + i]? =
        some (BitVec.ofNat 8 ((roundFV (tyFmt t) { mode := 0 } (x37.decode (accCell x n row j).toNat)).code / 2 ^ (8 * i))))

/-! ### Gates (R265 to R275) -/

/-- R267, R275: a stream request, GATE.FENCE and GATE.CANCEL wait with the cast, their completion's tags taken at issue;
GATE.QRY sends the state, the kind and the number of moved elements of a stream of its own context, and 0 for any other. -/
def Obligations.GateRequestsWaitWithTheCast : Prop :=
  ∀ (r : NodeRec) (s : State),
    let g := s.firing
    let x := lkp (s.bay g.course.toNat g.bay).streams (r.lit.extractLsb' 0 2).toNat
    actsFreely s r (argsOf r.ar.toNat g 0) →
    (∀ op i, (op, i) ∈ [(0xB0, Instr.gateLoad r), (0xB1, .gateStore r), (0xB2, .gateFeed r), (0xB3, .gateDrain r),
        (0xB4, .gateFence r), (0xB6, .gateCancel r)] →
      exec i s = .next (s.modOwn g fun k => { k with after := k.after ++
        [{ pend := pendOf op r g, link := s.ownLink g, toks := laterToks s r g (decide (op ≠ 0xB2)) true }] })) ∧
    (actsFreely s r (argsOf 0 g 0) →
      (x = none → exec (.gateQry r) s = .next (sendsValue s r 0#64 false)) ∧
      (∀ st, x = some st → st.pend.fir.cx ≠ g.cx → exec (.gateQry r) s = .next (sendsValue s r 0#64 false)) ∧
      (∀ st, x = some st → st.pend.fir.cx = g.cx → st.state < 4 → 0xB0 ≤ st.pend.op → st.pend.op < 0xB4 →
        exec (.gateQry r) s = .next (sendsValue s r
          (BitVec.ofNat 2 st.state ++ BitVec.ofNat 3 (st.pend.op - 0xB0) ++ 0#27 ++
            BitVec.ofNat 32 (if st.pend.op = 0xB3 then (st.doneEls.filter fun n => !(st.skipped.contains n)).length
              else st.pos - (st.skipped.filter fun n => decide (n < st.pos)).length)) false)))

/-- R267, R272, R275, R390: a gate takes a stream request when its stream context is free and a fence at once; a cancel stops
the stream of its own context, whose completion carries P = 1, and answers 1, else 0; a poisoned request is a POISON record
and its completion carries P = 1.
R268 to R274: a request that passes binding becomes a moving stream, and one that fails it is held by its fault; a beat of a
feed is sent into its granted frame with the next IT; elements move in packed order, and when all have moved the completion
carries their number, without those that SKIP left out; the element that cannot move is held by its fault at its position.
That a stream which reads lost data completes with P = 1 is the model's reading (notes/assumptions/35.md). -/
def Obligations.GatesTakeAndMoveStreams : Prop :=
  (∀ (s : State) (q : AfterReq),
      let g := q.pend.fir
      let c := g.course.toNat
      let b := g.bay
      let sc := gateSc q.pend.op q.pend.r
      (firingP g = true → takeRequest s q = some (sendLater (poisonRec s g 2) q.toks 0 true)) ∧
      (firingP g = false → q.pend.op < 0xB4 →
        ((lkp (s.bay c b).streams sc).isSome = true → takeRequest s q = none) ∧
        (lkp (s.bay c b).streams sc = none → ∃ t st, takeRequest s q = some t ∧ lkp (t.bay c b).streams sc = some st ∧
          st.state = 1 ∧ st.pend = q.pend ∧ st.toks = q.toks ∧ st.pos = 0 ∧ st.order = (s.bay c b).taken ∧
          (t.bay c b).taken = (s.bay c b).taken + 1 ∧ t.mem = s.mem)) ∧
      (firingP g = false → q.pend.op = 0xB4 → (s.bay c b).streams = [] → (s.bay c b).fences = [] →
        ∃ t, takeRequest s q = some (sendLater t q.toks (g.a.getD (plain 0)).word false) ∧ (t.bay c b).taken = (s.bay c b).taken + 1) ∧
      (firingP g = false → q.pend.op = 0xB6 →
        (∀ x, lkp (s.bay c b).streams sc = some x → x.pend.fir.cx = g.cx →
          takeRequest s q = some (sendLater (cancelStream s c b sc x) q.toks 1 false)) ∧
        (lkp (s.bay c b).streams sc = none ∨ (∃ x, lkp (s.bay c b).streams sc = some x ∧ x.pend.fir.cx ≠ g.cx) →
          takeRequest s q = some (sendLater s q.toks 0 false)))) ∧
  (∀ (e : EvArgs) (s : State) (x : Stream),
      let c := e.course.toNat
      let b := e.unit.toNat
      let sc := e.k.toNat % 4
      let y := s.bay c b
      let op := x.pend.op
      let held := fun kind code o a pos => .next (gateFault s c b sc x kind code o a pos)
      let moved := if op = 0xB3 then x.count else x.pos - (x.skipped.filter fun n => decide (n < x.pos)).length
      let ends := fun (t : State) => freeStream (sendLater t x.toks moved x.poisoned) c b sc
      lkp y.streams sc = some x →
      (x.state = 1 → x.count = 0 → ∀ pl pat, s.planeOf x.pend.fir.cx.toNat c x.pend.fir.unit.toNat = some pl →
        pl.pats[gatePat x.pend.r]? = some pat →
        let bound := { x with state := 2, count := pat.size, pat := pat, sels := s.selectors }
        (∀ kind code o a, bindRegion s x = .bad kind code o a → exec (.gateStreamBind e) s = held kind code o a 0) ∧
        (∀ kind code o a, bindRegion s x = .ok → bindRest s c b x pat = .bad kind code o a →
          exec (.gateStreamBind e) s = held kind code o a 0) ∧
        (bindRegion s x = .ok → bindRest s c b x pat = .ok →
          (pat.size = 0 → exec (.gateStreamBind e) s =
            .next (freeStream (sendLater (modStream s c b sc fun _ => bound) x.toks 0 false) c b sc)) ∧
          (pat.size ≠ 0 → op ≠ 0xB2 → exec (.gateStreamBind e) s = .next (modStream s c b sc fun _ => bound)) ∧
          (pat.size ≠ 0 → op = 0xB2 → exec (.gateStreamBind e) s = .next (askFrame (modStream s c b sc fun _ => bound) c b sc bound)))) ∧
      (x.state ≠ 3 → fenced y x = false → ∀ ft bs lost, x.frame = some ft → beatBytes s c x x.beat 64 = (bs, lost, none) →
        let n := x.beat + 1
        let it := (x.pend.fir.it + BitVec.ofNat 16 x.beat).toNat
        let t := mkTok s x.pend.fir false s.sideband.stackNo.toNat c ft.toNat it x.pend.r.d0 true (BitVec.ofNat 512 (leNat bs), lost)
        let z := { x with beat := n, frame := none, pos := min x.count (64 * n / x.pat.es), state := 2, poisoned := x.poisoned || lost }
        let sent := modStream { s with transit := s.transit ++ [t] } c b sc fun _ => z
        exec (.gateFeedBeat e) s = .next (if n < x.pat.beats then askFrame sent c b sc z else sent)) ∧
      (x.state = 2 → fenced y x = false → x.count ≠ 0 →
        (op = 0xB0 ∨ op = 0xB1 →
          (x.count ≤ x.pos → exec (.gateStreamComplete e) s = .next (ends s)) ∧
          (∀ t lost, x.pos + 1 < x.count → e.aux = 1#36 → moveElem s c x x.pos = .ok t lost → (t.bay c b).streams = y.streams →
            exec (.gateStreamComplete e) s =
              .next (modStream t c b sc fun z => { z with pos := z.pos + 1, poisoned := z.poisoned || lost })) ∧
          (∀ kind code o a, x.pos < x.count → moveElem s c x x.pos = .bad kind code o a →
            exec (.gateStreamFault e) s = held kind code o a x.pos)) ∧
        (op = 0xB2 → x.pat.beats ≤ x.beat → exec (.gateStreamComplete e) s = .next (ends s)) ∧
        (op = 0xB3 → drainReady x = [] → x.count ≤ x.doneEls.length → x.pat.beats ≤ x.beats.length →
          exec (.gateStreamComplete e) s = .next (ends s))))

/-! ### The gain heap (R299 to R306, R365 to R373) -/

/-- R299, R301, R302, R304, R306: GAIN.ADD, GAIN.SET and GAIN.DONE send A at issue and hold their change; SPAWN reserves an
entry and sends A; GAIN.TAKE arms once; TOL.WR sends A; RESID.RD sends the clamped residual; a task index at or beyond
TASKN is PROT 16, and a SPAWN without a heap share HOLDING 2. HEAP.Q sends the word that its selector names, for selector 1
the greatest key. -/
def Obligations.HeapInstructionsAct : Prop :=
  ∀ (r : NodeRec) (s : State) (as : List Nat) (lost : Bool) (cls : Nat),
    let g := s.firing
    let c := g.course.toNat
    let cx := g.cx.toNat
    let a := argsCtl s r g
    let t := a.a.word % 2 ^ 32
    let resid := (s.ctx cx).resid.toInt
    let changes := [(0xD1, Instr.gainAdd r), (0xD3, .gainDone r), (0xD7, .gainSet r)]
    let h := (s.crs c).heap
    let here := h.entries.filter fun e => e.cx.toNat == cx && !e.rv
    let sel := (r.lit.extractLsb' 0 4).toNat
    let sends := fun (v : BitVec 64) => exec (.heapQ r) s = .next (sendsWord s r v 0)
    (sel = 0 → sends (BitVec.ofNat 64 here.length)) ∧
    (sel = 1 → here = [] → sends 0x7FC00000#64) ∧
    (sel = 1 → ∀ e, here = [e] → sends (e.key.setWidth 64)) ∧
    (sel = 1 → (∀ q ∈ here, f32.decode q.key.toNat ≠ FV.nan) → here ≠ [] →
      ∃ e ∈ here, sends (e.key.setWidth 64) ∧ ∀ q ∈ here, keyLt e.key.toNat q.key.toNat = false) ∧
    (sel = 2 → sends (BitVec.ofNat 64 (s.heapRecords cx c).length)) ∧
    (sel = 3 → sends (((lkp h.pops cx).getD 0 - (lkp h.oldPops cx).getD 0).setWidth 64)) ∧
    (sel = 4 → sends (BitVec.ofNat 64 (h.running.filter fun x => x.1.toNat == cx).length)) ∧
    exec (.residRd r) s = .next (sendsWord s r (BitVec.ofInt 64 (max (-(2 ^ 63)) (min (2 ^ 63 - 1) resid)))
      (if -(2 ^ 63) ≤ resid ∧ resid ≤ 2 ^ 63 - 1 then 0 else fSAT)) ∧
    (actsFreely s r a →
      exec (.tolWr r) s = .next (sendsValue (holdArgs s 0xD5 r a) r (a.a.low 64) false) ∧
      ((s.ctx cx).taskN.toNat ≤ t → exec (.spawn r) s = .next (fault s g kPROT 16) ∧
        ∀ op i, (op, i) ∈ changes → exec i s = .next (fault s g kPROT 16)) ∧
      (t < (s.ctx cx).taskN.toNat → s.cellRegion cx t = .ok as lost cls →
        s.firstAsleep as = none →
        (∀ op i, (op, i) ∈ changes → exec i s = .next (sendsValue (holdArgs s op r a) r (a.a.low 64) false)) ∧
        (s.freeShare cx c 6 = 0 → exec (.spawn r) s = .next (fault s g kHOLDING 2)) ∧
        (heapUsed (s.crs c).heap cx < s.freeShare cx c 6 → (∀ w ∈ (s.crs c).heap.waits, w.cx ≠ g.cx) →
          exec (.spawn r) s = .next (sendsValue ((modHeap (holdArgs s 0xD0 r a) c fun h =>
            { h with entries := h.entries ++ [{ rv := true, cx := g.cx, key := 0, task := BitVec.ofNat 32 a.a.word }] }).modOwn g
              fun k => { k with gotHeap := k.gotHeap + 1 }) r ((g.a.getD (plain 0)).low 64) false)))) ∧
    (actsFreely s r (argsOf 5 g 0) →
      ((lkp (s.elem c g.unit.toNat).takes g.takeKey).isSome = true → exec (.gainTake r) s = .next s) ∧
      (lkp (s.elem c g.unit.toNat).takes g.takeKey = none → ∃ u k, exec (.gainTake r) s = .next (askTake u (pendOf 0xD2 r g)) ∧
        lkp (u.elem c g.unit.toNat).takes g.takeKey = some k ∧ k.cx = g.cx ∧ k.link = s.ownLink g ∧ k.parked = false ∧
        k.frame = none ∧ u.mem = s.mem ∧ u.transit = s.transit))

/-- R300, R303, R305, R390: at its commit a GAIN.ADD on a running task sets GAIN to the rne sum and a GAIN.SET to B, and
RESID moves by the difference of the two on its grid; GAIN.DONE of a running task takes its TAKEN from RESID, ends the run,
and leaves the task done, or queued again when its gain is active; of another task it makes a soft PROT 16 record. A change
that makes a task active queues it in the heap of its course; SPAWN fills the entry that it reserved, in the heap of its own
course, or returns it when the task runs (R302). TOL.WR sets TOL; a poisoned one makes a POISON record of AUX 6 and changes
nothing else. What waits for an entry of the heap is then served (R369), and a change behind one of its task that waits at
its home waits there whole (notes/assumptions/36.md). That the end test of R306 and R371 is made by the commit that runs
these, not by each, is notes/assumptions/37.md.
R304: the heap's top entry goes to the GAIN.TAKE that was granted its frame first: the task runs, its gain moves to TAKEN,
the pops of the context count and give the IT, D0 carries the task and D1 its ARG; the entry's unit of the share is freed
(R369), and the latch asks for its next frame. -/
def Obligations.HeapChangesAndPops : Prop :=
  (∀ (s : State) (p : Pend) (k : TaskCell),
      let g := p.fir
      let cx := g.cx.toNat
      let t := (g.a.getD (plain 0)).word % 2 ^ 32
      let b := (g.b.getD (plain 0)).word % 2 ^ 32
      let q := fAdd f32 { mode := 0 } k.gain b
      let c := g.course.toNat
      let moved := fun (u : State) (new : Nat) => serveWaiting ((addResid u cx new k.gain).putTask cx t { k with gain := new }) cx
      let stopped := fun (u : State) (n : Nat) => modHeap u n fun h =>
        { h with running := h.running.filter fun r => !(r.1.toNat == cx && r.2.toNat == t) }
      let queued := fun (u : State) (n key : Nat) => modHeap u n fun h => { h with entries := h.entries ++
        [{ rv := false, cx := BitVec.ofNat 12 cx, key := BitVec.ofNat 32 key, task := BitVec.ofNat 32 t }] }
      (firingP g = true → commitChange s p = poisonRec s g 6 ∧ commitSpawn s p = poisonRec s g 6 ∧ commitTol s g = poisonRec s g 6) ∧
      (firingP g = false → commitTol s g = s.modCtx cx fun x => { x with tol := (g.b.getD (plain 0)).low 64 }) ∧
      (firingP g = false → s.taskCell cx t = some k → waitingAt s cx t = none →
        (k.st = 2 → p.op = 0xD1 → commitChange s p = moved (setFlags s cx q.flags) q.code) ∧
        (k.st = 2 → p.op = 0xD7 → commitChange s p = moved s b) ∧
        (k.st ≠ 2 → p.op = 0xD3 → commitChange s p = serveWaiting (softAt s g kPROT 16 id) cx) ∧
        (k.st = 0 ∨ k.st = 3 → s.active cx b = false → p.op = 0xD7 → commitChange s p = moved s b) ∧
        (k.st = 2 → s.active cx k.gain = false → p.op = 0xD3 →
          commitChange s p = serveWaiting ((stopped (addResid s cx 0 k.taken) k.crs).putTask cx t { k with taken := 0, st := 3 }) cx) ∧
        (heapEnded s cx = false → heapUsed (s.crs k.crs).heap cx < s.freeShare cx k.crs 6 →
          (∀ w ∈ (s.crs k.crs).heap.waits, w.cx ≠ g.cx) →
          let u := modHeap s k.crs id
          (k.st = 0 ∨ k.st = 3 → s.active cx b = true → p.op = 0xD7 → commitChange s p =
            queued ((addResid u cx b k.gain).putTask cx t { k with gain := b, st := 1, hr := true }) k.crs b) ∧
          (k.st = 2 → s.active cx k.gain = true → p.op = 0xD3 → commitChange s p =
            queued ((stopped (addResid u cx 0 k.taken) k.crs).putTask cx t { k with taken := 0, st := 1, hr := true }) k.crs k.gain)) ∧
        (k.st = 2 → commitSpawn s p = unreserve (moved s b) cx c) ∧
        (∀ e, k.st = 0 ∨ k.st = 3 → f32.isNan b = false → heapEnded s cx = false → (∀ w ∈ (s.crs c).heap.waits, w.cx ≠ g.cx) →
          ((s.crs c).heap.entries.find? fun e => e.rv && e.cx.toNat == cx) = some e →
          commitSpawn s p = modHeap ((addResid s cx b k.gain).putTask cx t { k with gain := b, crs := c, st := 1, hr := true }) c
            fun h => { h with entries := h.entries.erase e ++
              [{ rv := false, cx := g.cx, key := BitVec.ofNat 32 b, task := BitVec.ofNat 32 t }] })) ∧
      (∀ d w, firingP g = false → waitingAt s cx t = some d → ((s.crs d).heap.waits.find? fun w => w.cx.toNat == cx) = some w →
        w.change = true → changeNeeds s w.pend = some d → s.freeShare cx d 6 ≤ heapUsed (s.crs d).heap cx →
        (s.crs d).heap.held = true →
        commitChange s p = modHeap s d fun h => { h with waits := h.waits ++
          [{ cx := g.cx, task := BitVec.ofNat 32 t, pend := p, change := true }] }) ∧
      (∀ u : State, (∀ e ∈ u.courses, ∀ w ∈ e.2.heap.waits, w.cx ≠ g.cx) → serveWaiting u cx = u) ∧
      (∀ new old, (s.ctx? cx).isSome = true →
        (gridQ (f32.decode new)).2 = 0 → (gridQ (f32.decode old)).2 = 0 →
        ((addResid s cx new old).ctx cx).resid =
          (s.ctx cx).resid + BitVec.ofInt 96 ((gridQ (f32.decode new)).1 - (gridQ (f32.decode old)).1))) ∧
  (∀ (e : EvArgs) (s : State) (el node : Nat) (t : TakeLatch) (ft : BitVec 12) (x : HeapEntry),
      let c := e.course.toNat
      let cx := t.cx.toNat
      let h := (s.crs c).heap
      let pops := (lkp h.pops cx).getD 0
      let it := pops.setWidth 16
      let r := recFields (s.record cx c el node)
      let g := { Firing.none with course := e.course, unit := BitVec.ofNat 13 el, node := BitVec.ofNat 6 node, cx := t.cx }
      let key := t.cx.toNat * 64 + node % 64
      let heap := fun (h : Heap) => { h with
        entries := h.entries.erase x, pops := put h.pops cx (pops + 1), running := h.running ++ [(t.cx, x.task)], popped := s.cycles + 1 }
      let popped := (modHeap s c heap).modFrame c g.bay ft.toNat fun f => { f with it := it }
      let tok := fun (d : BitVec 21) (v : Nat) => if d = 0x1FFFFF#21 then [] else
        [mkTok s { g with ft := ft, it := it } false s.sideband.stackNo.toNat c ft.toNat it.toNat d false (BitVec.ofNat 512 v, false)]
      let (taken, arg) := match popped.taskCell cx x.task.toNat with
        | some k => (popped.putTask cx x.task.toNat { k with taken := k.gain, gain := 0, st := 2, hr := false }, k.arg)
        | none => (popped, 0)
      let sent := ({ taken with transit := s.transit ++ tok r.d0 x.task.toNat ++ tok r.d1 arg } : State).modElem c el fun y =>
        { y with takes := put y.takes key { t with frame := none } }
      let freed := endTest (freedUnit sent cx c) cx
      nextTake s c = some (el, node, t, ft, x) →
      exec (.heapPop e) s =
        .next (if (lkp (freed.elem c el).takes key).isSome then askTake freed (pendOf 0xD2 r g) else freed) ∧
      ((s.ring cx 1 c).head = (s.ring cx 1 c).tail → (∀ w ∈ h.waits, w.cx ≠ t.cx) →
        exec (.heapPop e) s = .next (askTake sent (pendOf 0xD2 r g))))

/-! ### The system instructions (R278 to R298) -/

/-- R278 to R280, R284 to R287, R294 to R298: a Plate request passes its issue check and waits for the commit with its
operands; CFG.FLIP and PERMIT send A at issue; a reserved bit of a context word, a plane word or a ceiling, or an entry
count outside 1 to 1,024, is PROT 19.
R286, R287, R297: at the commit CTX.RUN makes a child runnable, CTX.STOP of a runnable child and its like are work of the
Plate, CTX.DEL and CTX.RST act on the child, PERMIT sets the ceiling of the issuing course, at most the free share; a word
that names no child is HOLDING 5. A request whose data lies in a page that must be pulled, or whose home sleeps, waits for it
(R432, R453), and so does a CFG.FLIP while its shadow bank is still filled (notes/assumptions/68.md). -/
def Obligations.PlateRequestsWaitAndAreAnswered : Prop :=
  (∀ (r : NodeRec) (s : State),
      let g := s.firing
      let a := argsCtl s r g
      let held := fun op => s.modOwn g fun k => { k with plate := k.plate ++
        [pendOf op r { g with a := some a.a, b := some a.b, c := some a.c }] }
      let waits := fun op i => exec i s = .next (held op)
      let sends := fun op i => exec i s = .next (sendsValue (held op) r (a.a.low 64) false)
      let bad := fun i => exec i s = .next (fault s g kPROT 19)
      actsFreely s r a →
      waits 0xE0 (.ctxNew r) ∧ waits 0xEE (.launch r) ∧ sends 0xED (.cfgFlip r) ∧
      (a.a.word < 2 ^ 16 → waits 0xE3 (.ctxRun r) ∧ waits 0xE4 (.ctxStop r) ∧ waits 0xE5 (.ctxDel r) ∧ waits 0xE6 (.ctxRst r) ∧
        (1 ≤ a.c.word → a.c.word ≤ 1024 → waits 0xE1 (.ctxGrant r) ∧ waits 0xE2 (.ctxRevoke r)) ∧
        (a.c.word = 0 ∨ 1024 < a.c.word → bad (.ctxGrant r) ∧ bad (.ctxRevoke r))) ∧
      (2 ^ 16 ≤ a.a.word → bad (.ctxGrant r) ∧ bad (.ctxRevoke r) ∧ bad (.ctxRun r) ∧ bad (.ctxStop r) ∧ bad (.ctxDel r) ∧
        bad (.ctxRst r)) ∧
      (a.b.word < 2 ^ 20 → waits 0xEC (.cfgLoad r)) ∧ (2 ^ 20 ≤ a.b.word → bad (.cfgLoad r)) ∧
      (a.b.word ≤ 24 → sends 0xEF (.permit r)) ∧ (24 < a.b.word → bad (.permit r))) ∧
  (∀ (s : State) (r : NodeRec) (g : Firing) (ch : Nat) (x : Ctx),
      let cx := g.cx.toNat
      let word := (g.a.getD (plain 0)).word
      let c := g.course.toNat
      (childOf s cx word = none → ∀ op ∈ [0xE1, 0xE2, 0xE3, 0xE4, 0xE5, 0xE6], platePull s (pendOf op r g) = none →
        answerPlate s (pendOf op r g) = .refuse kHOLDING 5 cx) ∧
      (ch ≠ 0 → ch = word % 4096 → s.ctx? ch = some x → x.parent = g.cx → x.depth.toNat = word / 2 ^ 12 % 8 →
        answerPlate s (pendOf 0xE3 r g) = .done (s.modCtx ch fun x => { x with runnable := true }) (some word) ∧
        (x.runnable = false → answerPlate s (pendOf 0xE4 r g) = .done s (some word)) ∧
        (x.runnable = true → answerPlate s (pendOf 0xE4 r g) =
          .done (addWork (s.modCtx ch fun x => { x with runnable := false }) (pendOf 0xE4 r g) ch [] 0) none) ∧
        answerPlate s (pendOf 0xE5 r g) = .done (deleteCtx s ch) (some word) ∧
        answerPlate s (pendOf 0xE6 r g) = .done (resetCtx s ch) (some word)) ∧
      (∀ op va, platePull s (pendOf op r g) = some va → answerPlate s (pendOf op r g) = .waits (needPage s c cx va g)) ∧
      (filling s cx c = true → answerPlate s (pendOf 0xED r g) = .waits s) ∧
      (∃ n, answerPlate s (pendOf 0xEF r g) = .done (s.modCtx cx fun x => { x with pceil := put x.pceil c (BitVec.ofNat 5 n) }) none ∧
        n = min ((g.b.getD (plain 0)).word % 32) (s.freeShare cx c 5)))

/-- R288, R290, R384, R424: CSR.RD of the own context sends the register at issue, RESID clamped with SAT, FREC_0 to FREC_7 word
by word; a number that the table does not list is PROT 18 for
CSR.RD and CSR.WR, and so is a CSR.WR of a register that its context may only read. -/
def Obligations.SpecialRegistersRead : Prop :=
  ∀ (r : NodeRec) (s : State),
    let g := s.firing
    let a := argsOf r.ar.toNat g 0
    let b := argsOf r.ar.toNat g (BitVec.ofNat 512 (csrLit s g r))
    let x := s.ctx g.cx.toNat
    let n := (r.lit.extractLsb' 0 12).toNat
    let values : List (Nat × BitVec 64) := [(0x000, x.depth.setWidth 64 <<< 12 ||| g.cx.setWidth 64), (0x001, x.depth.setWidth 64),
      (0x008, x.faultPol), (0x009, x.handler), (0x00A, x.seed), (0x00B, x.sbc.setWidth 64), (0x00C, x.nflag.setWidth 64),
      (0x010, x.timeG), (0x011, x.timeS), (0x012, x.energy), (0x013, BitVec.ofNat 64 (s.crs g.course.toNat).step), (0x018, s.tick),
      (0x021, x.tol), (0x022, x.thresh.setWidth 64), (0x023, x.taskBase), (0x024, x.taskN.setWidth 64),
      (0x002, if x.depth = 0 then 0 else (s.ctx x.parent.toNat).depth.setWidth 64 <<< 12 ||| x.parent.setWidth 64),
      (0x003, match s.kernelAt g.cx.toNat g.course.toNat g.unit.toNat with
        | some k => 0#20 ++ g.cx ++ k.serial
        | none => 0#64),
      (0x014, (BitVec.ofBool x.revoking ++ BitVec.ofBool x.runnable ++
        BitVec.ofBool (decide (0 < x.quantum.toNat ∧ x.quantum.toNat < 2 * x.saveTime + 20000))).setWidth 64),
      (0x015, BitVec.ofNat 64 (((lkp x.pceil g.course.toNat).map BitVec.toNat).getD (s.freeShare g.cx.toNat g.course.toNat 5)))]
    let f := frecOf s g g.cx.toNat
    let frec : List (BitVec 64) := [f.kind ++ f.site ++ BitVec.ofBool f.soft ++ f.hops ++ f.ocx ++ 0#24 ++ f.aux,
      f.course ++ f.bay.extractLsb' 0 4 ++ f.bay.extractLsb' 4 4 ++ f.unit ++ f.node ++ f.port ++ f.stack ++ 0#21,
      f.ft ++ f.it ++ f.wave ++ f.str ++ BitVec.ofBool f.strv ++ 0#17, f.addr, f.pos ++ f.snode ++ 0#26, f.data0, f.data1,
      f.seq ++ f.verdict ++ 0#13 ++ f.lost]
    let resid := x.resid.toInt
    (actsFreely s r a → a.a.word < 2 ^ 15 →
      (∀ v, (n, v) ∈ values → exec (.csrRd r) s = .next (sendsValue s r v false)) ∧
      (0x100 ≤ n → n ≤ 0x10F → exec (.csrRd r) s =
        .next (sendsValue s r (s.kReg g.course.toNat g.unit.toNat (n - 0x100)) false)) ∧
      (∀ i, i < 8 → n = 0x030 + i → exec (.csrRd r) s = .next (sendsValue s r (frec.getD i 0) false)) ∧
      (n = 0x020 → exec (.csrRd r) s = .next (sendsValue
        (addFlags s g (if -(2 ^ 63) ≤ resid ∧ resid ≤ 2 ^ 63 - 1 then 0 else fSAT)) r
        (BitVec.ofInt 64 (max (-(2 ^ 63)) (min (2 ^ 63 - 1) resid))) false)) ∧
      (n ∉ values.map Prod.fst → n ≠ 0x020 → (n < 0x030 ∨ 0x038 ≤ n) → (n < 0x100 ∨ 0x110 ≤ n) →
        exec (.csrRd r) s = .next (fault s g kPROT 18))) ∧
    (actsFreely s r b → b.a.word < 2 ^ 15 →
      n ∉ [0x008, 0x009, 0x00A, 0x00C, 0x020, 0x021, 0x022, 0x023, 0x024] → (n < 0x100 ∨ 0x110 ≤ n) →
        exec (.csrWr r) s = .next (fault s g kPROT 18)) ∧
    (actsFreely s r a → 2 ^ 16 ≤ a.a.word → exec (.csrRd r) s = .next (fault s g kPROT 19))

/-- R288 to R290: a CSR.WR of a writable register with a value in its limits sends B at issue and holds the write; when it is
performed the register reads B and every other register of the table reads as before. -/
def Obligations.SpecialRegisterReadsBack : Prop :=
  ∀ (r : NodeRec) (s : State),
    let g := s.firing
    let b := argsOf r.ar.toNat g (BitVec.ofNat 512 (csrLit s g r))
    let n := (r.lit.extractLsb' 0 12).toNat
    let cx := g.cx.toNat
    let v := b.b.word
    let writable := n ∈ [0x008, 0x009, 0x00A, 0x00C, 0x020, 0x021, 0x022, 0x023, 0x024] ∨ (0x100 ≤ n ∧ n ≤ 0x10F)
    let p := pendOf 0xE8 r { g with a := some b.a, b := some b.b }
    actsFreely s r b → b.a.word < 2 ^ 15 → writable → csrBad s cx n v = false →
    exec (.csrWr r) s = .next (sendsValue (holdArgs s 0xE8 r b) r (b.b.low 64) false) ∧
    ((s.ctx? cx).isSome = true → g.unit.toNat < 0x1000 → s.savedAt cx g.course.toNat g.unit.toNat = none →
      (g.c.map Opnd.p).getD false = false → (g.s.map Opnd.p).getD false = false →
      csrRead (commitCsr s p) g cx n = (v, 0) ∧
      ∀ m, csrRights m ≠ none → m ≠ n → csrRead (commitCsr s p) g cx m = csrRead s g cx m)

/-- R291 to R293: a hard TRAP is the fault TRAP with its code and A as data, and sends nothing; a soft one and REPAIR send A
and wait for the commit; HOST.SIG waits with its completion when the context holds the endpoint, else it is HOLDING 2. -/
def Obligations.TrapRepairAndSignalAct : Prop :=
  ∀ (r : NodeRec) (s : State),
    let g := s.firing
    let a := argsOf 0 g 0
    let code := (r.lit.extractLsb' 0 16).toNat
    let after := fun (op : Nat) (toks : List Transit) => s.modOwn g fun k =>
      { k with after := k.after ++ [{ pend := pendOf op r g, link := s.ownLink g, toks := toks }] }
    actsFreely s r a →
    (r.lit.getLsbD 16 = false → exec (.trap r) s =
      .next (hardFault s g kTRAP code g.cx.toNat fun x => { x with data0 := a.a.low 64 })) ∧
    (r.lit.getLsbD 16 = true → exec (.trap r) s = .next (sendsValue (holdEffect s 0xE9 r) r (a.a.low 64) false)) ∧
    exec (.repair r) s = .next (sendsValue (after 0xEA []) r (a.a.low 64) false) ∧
    (s.holdsEndpoint g.cx.toNat (r.lit.extractLsb' 0 6).toNat = true → exec (.hostSig r) s = .next (after 0xEB (laterToks s r g true true))) ∧
    (s.holdsEndpoint g.cx.toNat (r.lit.extractLsb' 0 6).toNat = false → exec (.hostSig r) s = .next (fault s g kHOLDING 2))

/-! ### Events of tokens and casts (R21 to R27, R68, R215, R250, R251, R271) -/

/-- R21, R22, R23: a token for another stack leaves over the Eave links; one that fails a check of R21's table is rejected with
that row's fault; one that passes is written into its slot with PRES, with INP when it comes from outside the live cast, and
completes its node, waits at the input when the node cannot enter (R33), or begins its block's cast; one for a frame that a
KILL_STRAND has freed in the middle of its copy goes without a trace (R388). None arrives before the access that it answers is
done (R319).
R250, R251, R271: a token for a crucible fills its port, and the record fires as one more operation when every port that
it names is present; a token for a gate is a beat of the drain that its stream context holds, by the distance of its IT from
the drain's; one that no drain expects is TAG_RANGE 10. -/
def Obligations.TokensArriveAndMatch : Prop :=
  (∀ (e : EvArgs) (s : State) (t : Transit) (el : Nat),
      let out := { s with transit := s.transit.erase t }
      let seen := noteArrival out t el
      let c := t.course.toNat
      let b := elBay el
      let ft := t.tok.ft.toNat
      let cx := t.tok.cx.toNat
      let node := destNode t.tok.dest
      let port := destPort t.tok.dest
      let w := s.record cx c el node
      let covered := (s.bay c b).parts.any fun q => q.2.cx == t.tok.cx && decide (q.2.ftl.toNat ≤ ft) && decide (ft ≤ q.2.fth.toNat)
      let row := s.frame? c b ft
      let held := fun i => (row.map fun f => f.present i).getD false
      let plane := s.portByte cx c el node port / 64 % 2 == 1
      let slot := s.portSlot cx c el node port
      let goes := exec (.tokenArrival e) s
      pickTransit s e.k.toNat = some t → unitKind (destUnit t.tok.dest) = .elem el →
      (s.cycles < t.due → goes = .next s) ∧
      (t.due ≤ s.cycles →
      (t.stack ≠ s.sideband.stackNo → goes = .next { out with eaveOut := s.eaveOut ++ [t] }) ∧
      (t.stack = s.sideband.stackNo → courseUp s c = true → inputBusy s t el = true → goes = .next s) ∧
      (t.stack = s.sideband.stackNo → courseUp s c = true → inputBusy s t el = false →
        (covered = false → goes = .next (rejectToken seen t kTAG 0)) ∧
        (covered = true → row = none → (s.bay c b).killed.contains ft = false → goes = .next (rejectToken seen t kTAG 1)) ∧
        (covered = true → row = none → (s.bay c b).killed.contains ft = true → goes = .next seen) ∧
        (∀ f, covered = true → row = some f → f.it ≠ t.tok.it → goes = .next (rejectToken seen t kTAG 2)) ∧
        (∀ f, covered = true → row = some f → f.it = t.tok.it →
          (recOp w = 0 → goes = .next (rejectToken seen t kEMPTY 0)) ∧
          (recOp w ≠ 0 → plane ≠ t.tok.pl → goes = .next (rejectToken seen t kTAG 4)) ∧
          (recOp w ≠ 0 → plane = t.tok.pl → ∀ i, slot = some i → held i = true → goes = .next (rejectToken seen t kTAG 3)) ∧
          (recOp w ≠ 0 → plane = t.tok.pl → slot.all (fun i => !(held i)) = true → port ∉ arPorts (bitsAt w 77 3) →
            goes = .next (rejectToken seen t kTAG 12)) ∧
          (recOp w ≠ 0 → plane = t.tok.pl → port ∈ arPorts (bitsAt w 77 3) → slot.all (fun i => !(held i)) = true →
            f.killing = true → f.cast = none → t.after = [] → goes = .next seen) ∧
          (recOp w ≠ 0 → recOp w ≠ 7 → plane = t.tok.pl → port ∈ arPorts (bitsAt w 77 3) →
            f.sp = false → f.mv = false → f.killing = false → f.cx = t.tok.cx →
            ∀ i n, slot = some i → held i = false → s.blockOf cx c el node = some n →
            let bit := BitVec.ofNat 64 (2 ^ i)
            let fill := fun (f : Frame) => { f with
              slots := put f.slots i t.tok.opnd, pres := f.pres ||| bit, inp := if t.internal then f.inp else f.inp ||| bit
              arrivals := i :: f.arrivals.filter (· != i), after := if t.after = [] then f.after else (f.after ++ t.after).eraseDups }
            let written := seen.modFrame c b ft fill
            let entry : Ready := { cx := f.cx, ft := t.tok.ft, it := f.it, node := BitVec.ofNat 6 node, arrived := none, waited := 0,
                                   cyc := s.cycles, pl := t.tok.pl, born := s.stepCount }
            let done := (arPorts (bitsAt w 77 3)).all fun p => p == port ||
              match s.portSlot cx c el node p with | some j => f.present j | none => false
            (∀ k, f.cast = some k → k.block = n → done = false → goes = .next written) ∧
            (∀ k, f.cast = some k → k.block = n → k.aborted = true → goes = .next written) ∧
            (∀ k, f.cast = some k → k.block = n → k.aborted = false → done = true → goes = .next ((enqueueAt written c el entry true).getD
              (seen.modElem c el fun x => { x with input := x.input ++ [t] }))) ∧
            (∀ k, f.cast = some k → k.block ≠ n → goes = .next (seen.modFrame c b ft fun f => { fill f with
              waiting := if f.waiting.any (fun w => w.1 == n) then f.waiting else f.waiting ++ [(n, s.cycles)] })) ∧
            (f.cast = none → goes = .next (beginCast written c b ft n))))))) ∧
  (∀ (e : EvArgs) (s : State) (t : Transit) (n : Nat) (x : Crucible) (st : Stream),
      let out := { s with transit := s.transit.erase t }
      let c := t.course.toNat
      let node := destNode t.tok.dest
      let port := destPort t.tok.dest
      let w := x.record node
      let sc := lkp (s.bay c n).streams node
      let far := (t.tok.it - st.pend.fir.it).toNat
      let next := { st with beats := put st.beats far t.tok.val, poisoned := st.poisoned || t.tok.p }
      pickTransit s e.k.toNat = some t → t.due ≤ s.cycles → t.stack = s.sideband.stackNo → courseUp s c = true →
      (unitKind (destUnit t.tok.dest) = .cru n → s.cru c n = x →
        let put1 := out.modCru c n fun x => { x with slots := put x.slots (node * 4 + port) t.tok.opnd }
        (s.holdsCru t.tok.cx.toNat c n = false → exec (.crucibleTokenArrival e) s = .next (rejectToken out t kTAG 0)) ∧
        (s.holdsCru t.tok.cx.toNat c n = true → x.granted = true → x.cx = t.tok.cx → t.tok.ft = 0#12 → x.it = t.tok.it →
          recOp w ≠ 0 → port ∈ arPorts (bitsAt w 77 3) → t.tok.pl = decide (recOp w = 0xC1 ∧ port = 1) →
          lkp x.slots (node * 4 + port) = none →
          ((∃ p ∈ arPorts (bitsAt w 77 3), p ≠ port ∧ lkp x.slots (node * 4 + p) = none) →
            exec (.crucibleTokenArrival e) s = .next put1) ∧
          ((∀ p ∈ arPorts (bitsAt w 77 3), p ≠ port → (lkp x.slots (node * 4 + p)).isSome = true) → ∃ u o,
            exec (.crucibleTokenArrival e) s = .next u ∧ (u.cru c n).accepted = x.accepted + 1 ∧
            (u.cru c n).ops.length = x.ops.length + 1 ∧ o ∈ (u.cru c n).ops ∧ o.pend.word = w ∧ o.done = false ∧
            ((∀ q ∈ x.ops, q.cyc ≠ s.cycles) → (u.cru c n).ops.getLast? = some o) ∧
            o.pend.fir.cx = x.cx ∧ (port = 0 → o.pend.fir.a = some t.tok.opnd) ∧ (port ≠ 0 → o.pend.fir.a = lkp x.slots (node * 4)) ∧
            u.mem = s.mem))) ∧
      (unitKind (destUnit t.tok.dest) = .gate n →
        (sc = none → exec (.gateDrainBeat e) s = .next (rejectToken out t kTAG 10)) ∧
        (sc = some st → st.pend.op = 0xB3 → st.pend.fir.cx = t.tok.cx → port = 0 → t.tok.pl = true → st.count ≠ 0 →
          (st.pat.beats ≤ far → exec (.gateDrainBeat e) s = .next (rejectToken out t kTAG 11)) ∧
          (far < st.pat.beats → (lkp st.beats far).isSome = true → exec (.gateDrainBeat e) s = .next (rejectToken out t kTAG 3)) ∧
          (far < st.pat.beats → lkp st.beats far = none → exec (.gateDrainBeat e) s =
            .next (out.modBay c n fun y => { y with streams := put y.streams node next })))))

/-- R26, R215, R226: a cast with nothing held commits at once: its tokens are released in the order of their senders (the
model's choice, notes/assumptions/95.md), its flags enter NFLAG, PRES and INP of its block's slots and LC become 0 and the
cast is gone, memory unchanged; a commit that has begun waits while a result of its updates is on its way (R225, R319, the
reading of notes/assumptions/122.md), as it does with a release before which Ridge writes of its strand are unapplied (R322),
with its requests, changes and tokens, which are such releases too (R301, R323; the reading of notes/assumptions/33.md), and with changes
of the heap in the cycle of a pop (R368), or is suspended by a fault of its next write; a load that is ready in the wave buffer acts again. -/
def Obligations.CastsCommit : Prop :=
  ∀ (e : EvArgs) (s : State) (f : Frame) (k : Cast),
    let c := e.course.toNat
    let b := e.unit.toNat % 256
    let ft := e.ft.toNat
    let cx := f.cx.toNat
    let here := fun (t : Transit) => t.stack == s.sideband.stackNo
    let mask := BitVec.ofNat 64 ((blockSlots s cx c k.block).map fun i => 2 ^ i).sum
    let leaves := fun (t : Transit) => if ordersStrand s t then { t with after := strandAfter s c b ft f } else t
    let out := sortBy (fun t => t.sUnit.toNat * 64 + t.sNode.toNat) (k.out.map leaves)
    let runs := fun (u : State) => exec (.castCommit e) s = .next (serveReleases u)
    s.frame? c b ft = some f → f.cast = some k →
    (mayCommit s c b ft = true → k.committing = false → k.suspended = none → k.held = [] → k.plate = [] → k.after = [] →
      k.effects = [] → f.cs = false → f.endFree = false → f.waiting = [] → f.atBay = [] → s.heapKernel cx = none → s.dooms = [] →
      s.released = [] → strandUnapplied s c f.cx k.strand = false → changesWait s c b ft = false → (∀ t ∈ k.out, t.due ≤ s.cycles) →
      ∃ u v, exec (.castCommit e) s = .next u ∧ u.frame? c b ft = some v ∧ v.cast = none ∧ v.link.lc = false ∧ v.link.e = false ∧
        v.pres = f.pres &&& ~~~mask ∧ v.inp = f.inp &&& ~~~mask ∧ v.it = f.it ∧ u.mem = s.mem ∧
        u.transit = s.transit ++ out.filter here ∧ u.eaveOut = s.eaveOut ++ out.filter (fun t => !(here t)) ∧
        ((s.ctx? cx).isSome = true → (u.ctx cx).nflag = (s.ctx cx).nflag ||| k.flags)) ∧
    (k.committing = true → k.suspended = none → ∀ p ps, k.held = p :: ps →
      (strandCells s p.fir = true → runs s) ∧
      (strandCells s p.fir = false → relHeld s p = false → performHeld s p = .waits → runs (callHeld s p)) ∧
      (litOrd p.r = 2 ∨ litOrd p.r = 3 → suppressed p = false → p.op ∈ [0x91, 0x93, 0x95, 0x98, 0xA0, 0xA1, 0xA3, 0xA4, 0xA5, 0xA6] →
        strandUnapplied s p.fir.course.toNat p.fir.cx (s.strandOf p.fir) = true → runs s) ∧
      (∀ kind code o x, strandCells s p.fir = false → performHeld s p = .home kind code o x → runs (suspendWrite s c b ft p kind code o x))) ∧
    (k.committing = true → k.suspended = none → k.held = [] →
      (strandUnapplied s c f.cx k.strand = true ∨ ∃ t ∈ k.out, s.cycles < t.due) → runs s) ∧
    (k.committing = true → k.suspended = none → k.held = [] → k.after = [] → (s.crs c).heap.popped = s.cycles + 1 →
      (∃ p ∈ k.effects, p.op = 0xD0 ∨ p.op = 0xD1 ∨ p.op = 0xD3 ∨ p.op = 0xD7) → runs s) ∧
    (∀ w ws, k.wave = w :: ws → w.load = true → w.performed = false → w.pend ∉ k.waits → Pick.fire w.pend ∉ s.agenda →
      w.pend ∉ walkingOf s c b ft → loadReady s w.pend.fir w.own = true →
      exec (.waveLoadPerform e) s = .next { s with agenda := s.agenda ++ [.fire w.pend] })

/-! ### Exceptions: taking one and returning from it (R27, R29, R379 to R391) -/

/-- R27, R29, R379: a hard fault sets E in its frame and keeps the cast's first fault; a cast with E set, once quiet, aborts: its
slots, PRES and INP stay, what it held is gone, and its fault is filed with its handler. A cast that nothing moves for the
stall bound takes the hard fault STALL, whose record names the first node of its block, the model's choice
(notes/assumptions/94.md). -/
def Obligations.ExceptionsAreTaken : Prop :=
  ∀ (e : EvArgs) (s : State) (f : Frame) (k : Cast),
    let c := e.course.toNat
    let b := e.unit.toNat % 256
    let ft := e.ft.toNat
    let node := (s.blockNodes f.cx.toNat c k.block).headD (elAt b 0, 0)
    s.frame? c b ft = some f → f.cast = some k →
    (∀ (g : Firing) kind code owner upd, g.isCru = false → g.course.toNat = c → g.bay = b → g.ft.toNat = ft →
      (∀ q ∈ (s.bay c b).pools, q.2.waiters = []) → (∀ w ∈ s.rdgWaits, w.2.fir.inFrame c b ft = false) →
      (∀ x ∈ s.crucibles, ∀ w ∈ x.2.waiters, w.2.fir.inFrame c b ft = false) →
      ∃ v q, (hardFault s g kind code owner upd).frame? c b ft = some v ∧ v.link = { f.link with e := true } ∧ v.cast = some q ∧
        q.fault = some (k.fault.getD (BitVec.ofNat 12 owner, upd (recOf s g kind sCAST code false))) ∧ q.held = k.held ∧
        v.pres = f.pres ∧ v.inp = f.inp ∧ v.slots = f.slots ∧ (hardFault s g kind code owner upd).mem = s.mem ∧
        (hardFault s g kind code owner upd).transit = s.transit) ∧
    (∀ owner rc, f.link.e = true → k.aborted = false → k.committing = false → castQuiet s c b ft true = true →
      k.fault = some (owner, rc) → k.linked = none → k.gotFrames = [] → k.gotBufs = [] → k.gotCru = [] → k.gotRdg = [] →
      k.gotHeap = 0 → k.waits = [] → s.heapKernel f.cx.toNat = none → s.released = [] →
      ∃ u v, exec (.castAbort e) s =
          .next (fileFault u owner.toNat f.faultSeq.isSome rc (.cast e.course (BitVec.ofNat 8 b) e.ft)) ∧
        u.frame? c b ft = some v ∧ v.cast = some { Cast.start k.block k.strand with aborted := true, injected := k.injected } ∧
        v.pres = f.pres ∧ v.inp = f.inp ∧ v.slots = f.slots ∧ u.mem = s.mem ∧ u.transit = s.transit ∧ u.faults = s.faults) ∧
    (stallCounts s c b ft f k = true → mayCommit s c b ft = false → s.stallBound f.cx.toNat ≤ k.stall →
      exec (.stall e) s = .next (fault s { Firing.none with
        course := e.course, unit := BitVec.ofNat 13 node.1, node := BitVec.ofNat 6 node.2, cx := f.cx, ft := e.ft, it := f.it } kSTALL 0))

/-- R226, R382, R383, R388: the oldest fault of a context that can take it asks for its fault frame; RETRY and SKIP re-fire an
aborted cast from the slots that INP marks with E cleared, SKIP with the node that it passes over; RETRY lets a suspended
commit go on; REFLECT passes the fault to the parent, as does a HANDLER that names nothing
active (the reading of notes/assumptions/51.md). -/
def Obligations.FaultsAreDeliveredAndAnswered : Prop :=
  ∀ (e : EvArgs) (s : State) (fe : FaultEntry),
    let h := e.cx.toNat
    ((∀ x ∈ s.faults, x.holder.toNat = h → x.entered = true) → nextDelivery s h = some fe →
      (s.handlerOf h = none → exec (.faultDelivery e) s =
        .next (reflectFault (settle s fe 5) h { fe.info with verdict := 0 } fe.site)) ∧
      (∀ c b pid d m q, s.handlerOf h = some (c, b, pid, d, m) → s.mapOf fe.holder.toNat c (destUnit d) m = some q →
        exec (.faultDelivery e) s = .next (joinPool ((modFault s fe fun x =>
            { x with delivered := true, info := { x.info with lost := (s.ctx h).lost } }).modCtx h fun x => { x with lost := 0 })
          c b pid
          { party := .fault fe.holder fe.info.seq
            pend := { word := 0, fir := { Firing.none with
              course := BitVec.ofNat 4 c, unit := BitVec.ofNat 13 (destUnit d), cx := fe.holder } }
            size := q.gran, nslots := q.slots, dmask := q.dmask, map := BitVec.ofNat 8 m, cs := true, ovt := 0, uc := 0,
            guard := false }))) ∧
    ((s.faults.filter (answerDue s))[e.k.toNat]? = some fe →
      (∀ v c b ft f k, pendingAnswer fe = some v → v < 2 → fe.site = .cast c b ft → s.frame? c.toNat b.toNat ft.toNat = some f →
        f.cast = some k →
        ∃ u g, exec (.verdictApply e) s = .next u ∧ u.frame? c.toNat b.toNat ft.toNat = some g ∧ g.pres = f.pres &&& f.inp ∧
          g.inp = f.inp ∧ g.slots = f.slots ∧ g.link = { f.link with e := false, lc := true } ∧
          g.cast = some { Cast.start k.block k.strand with
            skip := if v = 1 then some (fe.info.unit, fe.info.node) else none, injected := k.injected } ∧ u.mem = s.mem) ∧
      (∀ c b ft k p, pendingAnswer fe = some 0 → fe.site = .home c b ft → s.cast? c.toNat b.toNat ft.toNat = some k →
        k.suspended = some p →
        ∃ u q, exec (.verdictApply e) s = .next u ∧ u.cast? c.toNat b.toNat ft.toNat = some q ∧ q.suspended = none ∧
          q.held = k.held ∧ u.replay = s.replay.filter (fun x => !(x.2 == p)) ∧ u.mem = s.mem) ∧
      (pendingAnswer fe = some 4 → exec (.verdictApply e) s =
        .next (admitAll (reflectFault (settle s fe 5) fe.holder.toNat { fe.info with verdict := 0 } fe.site) fe.holder.toNat)) ∧
      (pendingAnswer fe = some 3 → exec (.verdictApply e) s =
        .next (admitAll (killContext (settle s fe 4) fe.info.ocx.toNat) fe.holder.toNat)))

/-! ### Events of rooms, walks and pages (R63 to R70, R317, R432, R433) -/

/-- R63 to R66, R68, R70, R74: the end of a copy gives its buffer or frame its new base and moves its bytes, and after the last
the head of the list is granted when it fits; a spill timer at its bound spills the youngest victim or counts again; an
acknowledged image holds the bytes of its buffer or frame and leaves it spilled, and a page of it that no longer stands holds
the spill by the fault of its translation; a restored buffer has its image's bytes at its new base, a restored frame its
image's slots and linkage, SP and MV cleared. Tokens that waited at the bay for a frame come back. -/
def Obligations.RoomEventsAct : Prop :=
  ∀ (e : EvArgs) (s v : State) (p : Pool) (i : Nat) (en : PEntry),
    let c := e.course.toNat
    let b := e.unit.toNat % 256
    let pid := e.k.toNat % 8
    let byBuf := fun (f : PEntry → PEntry) (m : List (Nat × PEntry)) => m.map fun x => (x.1, if x.1 = i then f x.2 else x.2)
    let bytes := Memory.bytes s.mem (nearPA c b (16 * en.base.toNat)) (16 * en.size.toNat)
    let whole := lkp p.pmap i = some en ∧ en.v = true ∧ en.guard = false ∧ en.freeing = false ∧ p.pseudo = none
    let plainly := whole ∧ p.waiters = []
    let moved := ({ s with mem := Memory.putBytes s.mem (nearPA c b (16 * p.moveBase)) bytes } : State).modPool c b pid fun q =>
      { q with moving := [], pmap := byBuf (fun y => { y with mv := false, base := BitVec.ofNat 16 p.moveBase }) q.pmap }
    let ring := (s.ring p.cx.toNat 0 c).base.toNat
    s.pool? c b pid = some p →
    (plainly → en.sp = false → p.moving = [.buf i] → p.moveDue ≤ s.cycles → exec (.compactionMoveDone e) s = .next moved) ∧
    (∀ w q at_, whole → p.waiters = [w] → en.sp = false → p.moving = [.buf i] → p.moveDue ≤ s.cycles →
      moved.pool? c b pid = some q → fitsAt (moved.bay c b) pid q w.cx w = some at_ →
      exec (.compactionMoveDone e) s = .next (grantAt (unlist moved c b pid 0) c b pid q w at_)) ∧
    (∀ (ft : BitVec 12) (f : Frame), s.frame? c b ft.toNat = some f → f.guard = false → f.freeing = false → p.waiters = [] →
      p.pseudo = none →
      let image := allocBytes s c b pid (.frame ft)
      (f.sp = false → p.moving = [.frame ft] → p.moveDue ≤ s.cycles →
        ∃ u, exec (.compactionMoveDone e) s = .next u ∧
          u.frame? c b ft.toNat = some { f with mv := false, base := BitVec.ofNat 16 p.moveBase, atBay := [] } ∧
          u.mem = Memory.putBytes s.mem (nearPA c b (16 * p.moveBase))
            (Memory.bytes s.mem (nearPA c b (16 * f.base.toNat)) (16 * f.size)) ∧ u.transit = f.atBay ++ s.transit) ∧
      (∀ off seq, f.sp = false → p.spilling = some (.frame ft, off, seq) → p.spillHeld = false → p.spillPlaced = true →
        firstUnmapped s p.cx.toNat (ring + off + 16) (ring + off + 16 + image.length - 1) (image.length / 2 ^ 16 + 2) = none →
        ringPut s p.cx.toNat 0 c (off + 16) image = .ok v →
        ∃ u, exec (.spillWriteAck e) s = .next u ∧
          u.frame? c b ft.toNat = some { f with
            sp := true, mv := false, base := BitVec.ofNat 16 (off / 16), image := (off, seq.toNat), atBay := [] } ∧
          u.mem = v.mem ∧ u.transit = f.atBay ++ v.transit) ∧
      (∀ base rest, f.sp = true → f.pool.toNat = pid → p.restoring = (.frame ft, base) :: rest →
        let t := s.modPool c b pid fun q => { q with restoring := rest }
        let slot := fun (i : Nat) => leNat (ringGet t f.cx.toNat 0 c (f.image.1 + 16 + slotOff f.dmask i) (slotSize f.dmask i))
        ∃ u, exec (.restoreCopyDone e) s = .next u ∧
          u.frame? c b ft.toNat = some { f with
            sp := false, mv := false, arr := 0, base := BitVec.ofNat 16 base, atBay := [], link := linkOfWord (slot 0)
            slots := f.slots.map fun x => (x.1, { x.2 with val := BitVec.ofNat 512 (slot x.1) }) } ∧
          u.transit = f.atBay ++ s.transit)) ∧
    (timerCounts s c b pid p = true → 2 ^ (6 + p.sc.toNat) ≤ p.timer →
      (∀ id, nextVictim s c b pid p = some id → exec (.spillTimerExpiry e) s = .next (beginSpill s c b pid id)) ∧
      (nextVictim s c b pid p = none →
        exec (.spillTimerExpiry e) s = .next (s.modPool c b pid fun q => { q with timer := 0 }))) ∧
    (∀ off seq, plainly → en.sp = false → p.spilling = some (.buf i, off, seq) → p.spillHeld = false → p.spillPlaced = true →
      let at_ := ring + off + 16
      let stops := firstUnmapped s p.cx.toNat at_ (at_ + bytes.length - 1) (bytes.length / 2 ^ 16 + 2)
      (stops = none → ringPut s p.cx.toNat 0 c (off + 16) bytes = .ok v →
        exec (.spillWriteAck e) s = .next (v.modPool c b pid fun q => { q with
          spilling := none, spillPlaced := false, spills := q.spills + 1, spilledForHead := q.spilledForHead || (q.pseudo.isNone && q.anchored)
          pmap := byBuf (fun y => { y with
            sp := true, mv := false, base := BitVec.ofNat 16 (off / 16), img := off, seq := seq.toNat }) q.pmap })) ∧
      (∀ a x, stops = some (a, x) →
        exec (.spillWriteAck e) s = .next (holdSpill s c b pid (.buf i) (some (off, seq)) x a 0 0))) ∧
    (∀ base rest, plainly → en.sp = true → p.restoring = (.buf i, base) :: rest →
      let t := s.modPool c b pid fun q => { q with restoring := rest }
      let image := ringGet t en.cx.toNat 0 c (en.img + 16) (16 * en.size.toNat)
      exec (.restoreCopyDone e) s = .next ((imageDone
        (({ t with mem := Memory.putBytes t.mem (nearPA c b (16 * base)) image } : State).modPool c b pid fun q =>
          { q with pmap := put q.pmap i { en with sp := false, mv := false, base := BitVec.ofNat 16 base } })
        en.cx.toNat c en.img).modPool c b pid fun q => { q with restores := q.restores + 1 }))

/-- R317, R318, R414, R432, R433: the oldest queued walk receives one of a course's 64 walkers, and ends when its reads are done,
not before (the time of each is the model's reading, notes/assumptions/66.md); a walk that ends well lets its accesses act
again, in the order of their elements and nodes (R56, R61), one that fails gives them its fault, with the address that each
accesses, one whose generation has moved walks again, and one that met M = 1 waits for its page; a page is pulled and its leaf
rewritten, and a pull that is lost gives the accesses of every walk that waits on it PULL_LOST with the code of its cause. That
the pull is one step, copied line by line, is notes/assumptions/42.md; that a failed link is an input is 1.md. -/
def Obligations.WalksAndPullsAct : Prop :=
  ∀ (e : EvArgs) (s : State) (w : Walk),
    let c := e.course.toNat
    let begun := (s.crs c).walks.filter Walk.begun
    let wave := fun (p : Pend) => if isMemOp p.op then BitVec.ofNat 7 (litOwn p.r) else 0#7
    let va := w.page * 2 ^ 16
    let gone := s.modCrs c fun y => { y with walks := y.walks.erase w }
    let failed := fun (x : XErr) => w.users.foldl (fun t p => hardFault t p.fir x.kind x.code x.owner fun y =>
      { y with addr := BitVec.ofNat 64 ((accessAddr p).getD va), wave := wave p }) gone
    let lost := fun (code owner entry : Nat) => (List.range 16).foldl (fun t d =>
      ((pullWalks t d).filter fun x => ((pullOf s x).map fun q => (q.1, q.2.1)) == some (owner, entry)).foldl
        (fun t x => walkLost code owner t d x) t) s
    let page := fun (x : Walk) => x.page * 2 ^ 16
    (∀ (t : State) (d code owner : Nat) (x : Walk), walkLost code owner t d x =
      x.guests.foldl (fun t g => guestLost t g code owner (page x))
        (x.users.foldl (fun t p => hardFault t p.fir kPULLLOST code owner fun y => { y with addr := BitVec.ofNat 64 (page x) })
          (t.modCrs d fun y => { y with walks := y.walks.erase x }))) ∧
    ((s.crs c).walks.find? (fun x => !x.begun) = some w →
      (begun.length < 64 → exec (.walkerStart e) s = .next (s.modCrs c fun y => { y with
        walks := y.walks.map fun x => if x = w then startWalk s c w else x })) ∧
      (64 ≤ begun.length → exec (.walkerStart e) s = .next s)) ∧
    (begun[e.k.toNat]? = some w → s.cycles < w.due → exec (.walkComplete e) s = .next s) ∧
    (begun[e.k.toNat]? = some w → (s.crs c).holder = some w.cx → w.due ≤ s.cycles → w.gen = (s.ctx w.cx.toNat).gen →
      (∀ o, s.walk w.cx.toNat va = .ok o → o.cls ≠ 3 → s.firstAsleep (o.tags.map (64 * ·.1)) = none → ∃ u, exec (.walkComplete e) s = .next u ∧
        u.agenda = s.agenda ++ (sortBy (fun p => nodeKey p.fir) w.users).map Pick.fire ∧ (u.crs c).walks = (s.crs c).walks.erase w ∧ u.mem = s.mem ∧
        u.transit = s.transit) ∧
      (∀ x, s.walk w.cx.toNat va = .error x → x.pull = none → exec (.walkComplete e) s = .next (failed x)) ∧
      (∀ x, s.walk w.cx.toNat va = .error x → x.pull.isSome = true → exec (.walkComplete e) s = .next s)) ∧
    (begun[e.k.toNat]? = some w → (s.crs c).holder = some w.cx → w.due ≤ s.cycles → w.gen ≠ (s.ctx w.cx.toNat).gen →
      exec (.walkComplete e) s = .next (s.modCrs c fun y => { y with
        walks := y.walks.map fun x => if x = w then startWalk s c w else x })) ∧
    (∀ owner entry src dst size, (pullWalks s c)[e.k.toNat]? = some w → pullOf s w = some (owner, entry, src, dst, size) →
      let up := (s.ctx owner).parent.toNat
      let a := sourceByte s up src size
      (∀ v, s.unreachable a = false → s.lostByte a = false → s.firstAsleep [a, sourceByte s up dst size] = none → pullLines up src dst size (size / 64) 0 s = some v →
        exec (.pagePull e) s = .next (rewriteLeaf v owner entry dst)) ∧
      (s.unreachable a = true → exec (.pullLost e) s = .next (lost 0 owner entry)) ∧
      (s.unreachable a = false → s.lostByte a = true → exec (.pullLost e) s = .next (lost 2 owner entry)) ∧
      (s.unreachable a = false → s.lostByte a = false → e.aux = 1#36 → exec (.pullLost e) s = .next (lost 1 owner entry)))

/-! ### Events of combining, barriers, time and the Ridge (R233 to R246, R333 to R341) -/

/-- R233, R234, R236, R246: a partial opens a cell, joins the open one, completes it, or waits beside one of another count; a
cell that no partial joins for the stall bound ends without an update and with a POISON record of AUX 7; a phase whose
completion is due and a tick that has come, while the context runs, end the waits on them. -/
def Obligations.CombineBarrierAndTickEventsAct : Prop :=
  ∀ (e : EvArgs) (s : State) (p : Pend) (q : Partial) (x : Cell) (y : Barrier),
    let g := p.fir
    let moved := { s with cellWaits := [] }.modCast g.course.toNat g.bay g.ft.toNat fun k => { k with held := k.held.erase p }
    let n := partialN p
    let with_ := { x with parts := x.parts ++ [q], idle := 0 }
    (s.cellWaits = [(0, p, q)] → e.k = 0#16 → ∀ pa, partialPA s p = some pa →
      ((∀ z ∈ s.cells, cellKey z p pa = false) → 1 < n → (s.cells.filter fun z => z.home == cellHome pa).length < 64 →
        ∃ u z, exec (.cmbPartialArrival e) s = .next u ∧ u.cells = s.cells ++ [z] ∧ z.cx = g.cx ∧ z.pa = pa ∧ z.var = p.r.var ∧
          z.ty = p.r.ty ∧ z.n = n ∧ z.parts = [q] ∧ z.idle = 0 ∧ u.mem = s.mem ∧ u.cellWaits = []) ∧
      (s.cells = [x] → cellKey x p pa = true → x.n = n → x.parts.length + 1 < n → ∃ u, exec (.cmbPartialArrival e) s = .next u ∧
        u.cells = [with_] ∧ u.mem = s.mem ∧ u.cellWaits = []) ∧
      (s.cells = [x] → cellKey x p pa = true → x.n = n → n ≤ x.parts.length + 1 →
        exec (.cmbPartialArrival e) s = .next (releaseCell { moved with cells := [] } with_)) ∧
      (s.cells = [x] → cellKey x p pa = true → x.n ≠ n →
        exec (.cmbPartialArrival e) s = .next { moved with cellWaits := [(pa + 1, p, q)] })) ∧
    (s.cells = [x] → s.cellWaits = [] → s.stallBound x.cx.toNat ≤ x.idle → exec (.cmbCellTimeout e) s =
      .next (softRec { s with cells := [] } { FaultRec.zero with
        kind := 11, site := 1, soft := true, ocx := x.cx, aux := 7, stack := s.sideband.stackNo, addr := x.addr } false none)) ∧
    (∀ ph rest, y.due = ph :: rest → (s.barriers.filter fun z =>
        z.scope != 4#3 && (z.due.head?.map fun d => decide (d.2 ≤ s.cycles)).getD false)[e.k.toNat]? = some y →
      let done := s.setBarrier { y with due := rest }
      exec (.barrierPhaseComplete e) s = .next (refireWaits done fun w =>
        w.op == 0xA7 && w.fir.cx == y.cx && litScope w.r == y.scope.toNat && barNum w.r == y.num.toNat
          && barUnit w.fir (litScope w.r) == y.unit
          && (done.barrier y.cx y.scope.toNat y.num.toNat y.unit).completed (BitVec.ofNat 16 (w.fir.a.getD (plain 0)).word))) ∧
    (∀ c b ft k w, s.cast? c b ft = some k → w ∈ k.waits → w.op = 0xAD →
      let come := (s.tick - (w.fir.a.getD (plain 0)).low 64).toNat < 2 ^ 63 ∧ (s.crs w.fir.course.toNat).holder = some w.fir.cx
      ∃ u k', exec (.tickUntilExpiry e) s = .next u ∧ u.cast? c b ft = some k' ∧ u.mem = s.mem ∧
        (come → Pick.fire w ∈ u.agenda ∧ w ∉ k'.waits) ∧ (¬ come → w ∈ k'.waits))

/-- R333, R337 to R342: an occurrence that is due carries every write of its winner that meets the cut-off, the later winning
byte by byte, and their tokens then carry its position; a control word goes out in its beat, and an arrival is counted in order
and answered with its phase; these tokens wait with the outgoing tokens of their casts (R26, R322); four beats after its beat a change is applied, the later one winning byte by byte, and a
control word has its effect; what is not due stays. -/
def Obligations.RidgeEventsAct : Prop :=
  ∀ (e : EvArgs) (s : State),
    let due := fun (x : RidgeChange) => x.beat + 4 ≤ s.beat
    let shows := fun (x : RidgeChange) (a : Nat) =>
      128 * x.slot ≤ a ∧ a < 128 * x.slot + 128 ∧ x.mask.getLsbD (a - 128 * x.slot) = true
    let answers := fun (t : State) (g : Option Firing) (toks : List Transit) (v : Nat) => g.elim t fun f => outLater t f toks v
    (∀ (g : Firing) (f : Frame) (k : Cast) (toks : List Transit) (v : Nat),
      s.frame? g.course.toNat g.bay g.ft.toNat = some f → f.cx = g.cx → f.it = g.it → f.cast = some k → k.committing = true →
      let u := outLater s g toks v
      u.transit = s.transit ∧ u.mem = s.mem ∧ u.cast? g.course.toNat g.bay g.ft.toNat = some { k with out := k.out ++ toks.map fun t =>
        { t with tok := { t.tok with val := BitVec.ofNat 512 (v % 2 ^ 64), p := false } } }) ∧
    -- occurrences
    (nextOccurrence s = none → exec (.ridgeOccurrence e) s = .next s) ∧
    (∀ n slot, nextOccurrence s = some (n, slot) → s.beat < n → exec (.ridgeOccurrence e) s = .next s) ∧
    (∀ n slot c, nextOccurrence s = some (n, slot) → n ≤ s.beat → slotWinner s slot n = some c →
      let goes := fun (w : RidgeWrite) => w.slot == slot && decide (w.beat + 3 ≤ n)
      let ws := (s.crs c).port.filter goes
      ∃ u x, exec (.ridgeOccurrence e) s = .next (ws.foldl (fun t w => answers t w.sender w.toks (n * 8 + slot % 8)) u) ∧
        u.changes = s.changes ++ [x] ∧ x.beat = n ∧ x.slot = slot ∧
        x.ch = slot % 8 ∧ x.ctl = none ∧ x.src = BitVec.ofNat 5 c ∧ (u.crs c).port = (s.crs c).port.filter (fun w => !(goes w)) ∧ u.ridge = s.ridge ∧
        u.mem = s.mem ∧
        (∀ i, i < 128 → (x.mask.getLsbD i = true ↔ ∃ w ∈ ws, w.mask.getLsbD i = true)) ∧
        (∀ i old w new, i < 128 → ws = old ++ w :: new → w.mask.getLsbD i = true → (∀ v ∈ new, v.mask.getLsbD i = false) →
          x.data.extractLsb' (8 * i) 8 = w.data.extractLsb' (8 * i) 8) ∧
        u.transit = s.transit) ∧
    -- control words
    (nextCtl s = none → exec (.ridgeControlWord e) s = .next s) ∧
    (∀ c w, nextCtl s = some (c, w) → s.beat < ctlBeat s w → exec (.ridgeControlWord e) s = .next s) ∧
    (∀ c w ws, nextCtl s = some (c, w) → ctlBeat s w ≤ s.beat → (s.crs c).ctl = w :: ws →
      (w.word.toNat / 2 ^ 61 ≠ 1 → exec (.ridgeControlWord e) s =
        .next (recordChange (s.modCrs c fun y => { y with ctl := ws })
          { beat := ctlBeat s w, ch := 8, slot := 0, mask := 0, data := 0, src := BitVec.ofNat 5 c, by_ := [], ctl := some w })) ∧
      (w.word.toNat / 2 ^ 61 = 1 → s.guardNotes = [] →
        let num := w.word.toNat / 2 ^ 43 % 64
        let (ph, differs, bar) := (s.barrier w.cx 4 num 0).arrive (w.word.toNat / 2 ^ 11 % 2 ^ 16) s.cycles
        let counted := (s.modCrs c fun y => { y with ctl := ws }).setBarrier bar
        let noted := match differs, w.note, w.sender with
          | true, some rc, some g => softRec counted rc (counted.inFaultFrame g) (some (g.course, BitVec.ofNat 8 g.bay, g.ft))
          | _, _, _ => counted
        exec (.ridgeControlWord e) s = .next (answers (recordChange noted
          { beat := ctlBeat s w, ch := 8, slot := 0, mask := 0, data := 0, src := BitVec.ofNat 5 c, by_ := [],
            ctl := some { w with word := w.word ||| BitVec.ofNat 64 (ph.toNat * 2 ^ 27), toks := [] } }) w.sender w.toks ph.toNat))) ∧
    -- application
    (Memory.wf s.ridge = true → (∀ x ∈ s.changes, x.ch < 16 ∧ x.slot < 8192 ∧ (due x → x.ctl = none)) →
      ∃ u, exec (.ridgeMirrorApply e) s = .next u ∧ u.mem = s.mem ∧ u.transit = s.transit ∧
        (∀ x, x ∈ u.changes ↔ x ∈ s.changes ∧ ¬ due x) ∧
        (∀ a, (∀ x ∈ s.changes, due x → ¬ shows x a) → Memory.read u.ridge a = Memory.read s.ridge a) ∧
        (∀ a, ∀ x ∈ s.changes, due x → shows x a →
          (∀ y ∈ s.changes, due y → shows y a → y = x ∨ y.beat * 16 + y.ch < x.beat * 16 + x.ch) →
          Memory.read u.ridge a = x.data.extractLsb' (8 * (a - 128 * x.slot)) 8)) ∧
    (∀ x w, s.changes = [x] → due x → x.ctl = some w →
      let kind := w.word.toNat / 2 ^ 61
      let num := w.word.toNat / 2 ^ 43 % 64
      let slot := w.word.toNat / 2 ^ 36 % 2 ^ 13
      let bar := s.barrier w.cx 4 num 0
      ∃ u, exec (.ridgeMirrorApply e) s = .next u ∧
        (kind = 1 → u.changes = [] ∧ u.ridge = s.ridge ∧ u.barriers = (s.setBarrier { bar with
          due := bar.due.filter fun d => d.1 != BitVec.ofNat 16 (w.word.toNat / 2 ^ 27) }).barriers) ∧
        (kind = 2 → u.changes = [] ∧ u.ridge = s.ridge ∧ u.selectors = (flipSelector s w.page).selectors) ∧
        (kind = 3 → s.rdgWaits = [] → u.changes = [] ∧ u.ridge = Memory.clear s.ridge (128 * slot) 128 ∧
          (lkp s.slots slot = none → u.slots = s.slots) ∧
          (∀ z, lkp s.slots slot = some z → z.cx = 0#12 → u.slots = del s.slots slot) ∧
          (∀ z, lkp s.slots slot = some z → z.cx ≠ 0#12 →
            u.slots = put s.slots slot { cx := z.cx, state := .idle, users := 0, leaving := false })))

/-! ### Events of crucibles and gates (R251 to R261, R268 to R274, R452) -/

/-- R251 to R254, R261, R452: an accepted operation that no earlier one excludes starts, one that it excludes does not, and one
that waits acts again once that would change something; a completion carries its record's value, and P = 1 when poisoned, and
one that frees the frame waits for those accepted before it; the flags of a drain enter NFLAG then (R145, R255); a free permit
stops at the first crucible downstream that waits, whose burst takes 24 cycles and the time of its rows; a burst whose cycle
has come makes its product and gives its permit back, or keeps it as ballast until the fall is due. Which operations exclude
each other, and that a completion is a chosen step, are the readings of notes/assumptions/121.md and 86.md. -/
def Obligations.CrucibleEventsAct : Prop :=
  ∀ (e : EvArgs) (s : State) (o : CruOp),
    let c := e.course.toNat
    let n := e.unit.toNat
    let k := e.k.toNat
    let x := s.cru c n
    let stop := fun m => (∀ i, i < m → wantsPermit s c ((k + i) % 24) = false) ∧ m < 24 ∧ wantsPermit s c ((k + m) % 24) = true
    let due := (s.crs c).lastFall = 0 ∨ (s.crs c).lastFall + 2000 ≤ s.tick.toNat
    let back := fun (t : State) (m : Nat) => (t.modCru c m fun y => { y with permit := false, ballast := false }).modCrs c
      fun y => { y with lastFall := max 1 t.tick.toNat }
    let ended := fun (q : CruOp) => if q.burst then { q with burst := false, done := true, result := 0 } else q
    let poured := s.setCru c n { mmaApply x o.pend.r with ops := x.ops.map ended }
    (x.ops[k]? = some o →
      (o.started = false → k ∈ startable x s.cycles x.ops [] 0 → exec (.crucibleOperationStart e) s =
        .next (chargeEnergy { (s.modCru c n fun y => { y with
          ops := y.ops.mapIdx fun j q => if j = k then { q with started := true } else q }) with
            agenda := s.agenda ++ [.fire o.pend] } o.pend.fir.cx.toNat)) ∧
      (o.started = false → k ∉ startable x s.cycles x.ops [] 0 → exec (.crucibleOperationStart e) s = .next s) ∧
      (o.started = true → o.done = false → o.held = false → o.wantPermit = false → o.burst = false →
        Pick.fire o.pend ∉ s.agenda →
        (cruWakes s o.pend = true → exec (.crucibleOperationStart e) s = .next { s with agenda := s.agenda ++ [.fire o.pend] }) ∧
        (cruWakes s o.pend = false → exec (.crucibleOperationStart e) s = .next s)) ∧
      (o.done = true → o.pend.r.tg ≠ 3#2 ∨ k = 0 → let left := s.modCru c n fun y => { y with ops := y.ops.eraseIdx k }
        let sent := emitWord (setFlags left o.pend.fir.cx.toNat o.flags) o.pend.r o.pend.fir o.result.toNat o.poisoned
        exec (.crucibleOperationComplete e) s = .next (if o.pend.r.tg = 3#2 then freeCru sent c n else sent)) ∧
      (o.done = false ∨ (o.pend.r.tg = 3#2 ∧ k ≠ 0) → exec (.crucibleOperationComplete e) s = .next s)) ∧
    (permitsOut s c < 3 * (s.crs c).step → (s.crs c).lastRise = 0 ∨ (s.crs c).lastRise + 2000 ≤ s.tick.toNat → ∀ m, stop m →
      ∃ u, exec (.permitHandout e) s = .next u ∧ (u.cru c ((k + m) % 24)).permit = true ∧
        (u.cru c ((k + m) % 24)).ballast = false ∧ (u.cru c ((k + m) % 24)).burstCx = (s.cru c ((k + m) % 24)).cx ∧
        (∀ pre q post, (s.cru c ((k + m) % 24)).ops = pre ++ q :: post → q.wantPermit = true → (∀ y ∈ pre, y.wantPermit = false) →
          (u.cru c ((k + m) % 24)).ops = pre ++ { q with
            wantPermit := false, burst := true
            burstDue := s.cycles + burstCycles (s.cru c ((k + m) % 24)) q.pend.r } :: post) ∧
        (u.crs c).lastRise = max 1 s.tick.toNat ∧ u.mem = s.mem) ∧
    (x.permit = true → x.ballast = false → x.ops.find? (fun q => q.burst) = some o →
      (s.cycles < o.burstDue → exec (.burstEnd e) s = .next s) ∧
      (o.burstDue ≤ s.cycles → due → exec (.burstEnd e) s = .next (back poured n)) ∧
      (o.burstDue ≤ s.cycles → ¬ due →
        exec (.burstEnd e) s = .next (poured.modCru c n fun y => { y with ballast := true }))) ∧
    (∀ a b : Nat, x.ra = a → burstCycles x o.pend.r = 24 + b →
      let na := tyNarrow x.aFmt.toNat
      let nb := tyNarrow (mmaBank x o.pend.r).fmt.toNat
      let d := if x.aSparse = 0 then 1 else 2
      (x.aFmt = 13#4 → (mmaBank x o.pend.r).fmt = 13#4 → b = (a + 2 * d - 1) / (2 * d)) ∧
      (na = true → nb = true → ¬ (x.aFmt = 13#4 ∧ (mmaBank x o.pend.r).fmt = 13#4) → b = (a + d - 1) / d) ∧
      (na = false ∨ nb = false → ¬ (x.aFmt = 13#4 ∧ (mmaBank x o.pend.r).fmt = 13#4) → b = (2 * a + d - 1) / d)) ∧
    (due → ∀ m, m < 24 → (s.cru c m).ballast = true → (∀ i, i < m → (s.cru c i).ballast = false) →
      exec (.permitFallDue e) s = .next (back (chargeEnergy s (s.cru c m).burstCx.toNat) m))

/-! ### Events of kernels (R304, R356 to R362) -/

/-- R356 to R362, R432: the head of highest PRIO among those whose conditions hold is selected; a selected kernel whose units are
free has the pages of its data pulled, then starts, a gang with the start tick that its ready words give, or ends REFUSED with
the fault that stops it; a STRICT head whose prerequisite failed ends CANCELLED; every gang that waits takes its start tick,
with the ready word that comes; the entry block begins with its sources injected and ENERGY 0; a quiet kernel ends NORMAL. That
ENERGY is 0 at the injection is the reading of notes/assumptions/58.md; that the ready words of other stacks are inputs is 62.md. -/
def Obligations.KernelEventsAct : Prop :=
  ∀ (e : EvArgs) (s : State) (k : Kernel),
    let cx := e.cx.toNat
    let able := (s.heads cx).filter (headReady s)
    ((∀ x ∈ s.kernels, x.cx.toNat = cx → x.state ≠ .selected) → able ≠ [] → ∃ x ∈ able,
      (∀ y ∈ able, y.launch.prio.toNat ≤ x.launch.prio.toNat) ∧
      exec (.kernelSelect e) s = .next (modKernel s x fun y => { y with state := .selected })) ∧
    (s.kernels.find? (fun x => x.cx.toNat == cx && x.state == .selected) = some k → ∀ p, s.kernelPlane k = some p →
      holdsSlices s cx p = true → unitsFree s k p = true →
      (∀ va, dataPull s cx p = some va → exec (.kernelStart e) s =
        .next (needPage s k.course.toNat cx va { Firing.none with course := k.course, cx := k.cx })) ∧
      (dataPull s cx p = none → ∀ t, startKernel s k = .ok t → exec (.kernelStart e) s = .next (headsWait (fixTicks t cx) cx)) ∧
      (∀ t, fixTicks t cx = (gangWaits t cx).foldl fixTick t) ∧
      (dataPull s cx p = none → ∀ kind code, startKernel s k = .error (kind, code) →
        exec (.kernelStart e) s = .next (headsWait (endKernel s k .refused kind code) cx))) ∧
    ((s.heads cx).find? (fun x => x.launch.strict && preFailed s x) = some k →
      exec (.kernelCancel e) s = .next (headsWait (endKernel s k .cancelled 0 0) cx)) ∧
    (s.kernels.find? (fun x => x.cx.toNat == cx && x.state == .starting && x.launch.gn != 0 && x.tick == 0) = some k →
      e.unit ≠ 1#16 → gangWaits s cx = [k] → (gangTick s k = none → exec (.gangStartTick e) s = .next s) ∧ ∀ t, gangTick s k = some t →
      exec (.gangStartTick e) s = .next (modKernel { s with
        readyWords := s.readyWords.filter fun w => !(w.1 == k.launch.gid.toNat && decide (w.2.2 + 2000 ≤ t)) } k
        fun x => { x with tick := t })) ∧
    (e.unit ≠ 1#16 → exec (.gangStartTick e) s = .next ((gangWaits s cx).foldl fixTick s)) ∧
    (∀ pre post, gangWaits s cx = pre ++ k :: post → e.ft.toNat = pre.length → e.unit = 1#16 →
      let from_ := e.k.toNat % 1024
      from_ ≠ s.sideband.stackNo.toNat → from_ ∈ s.reach → s.tick.toNat ≤ s.tick.toNat / 2 ^ 36 * 2 ^ 36 + e.aux.toNat + 900 →
      (∀ w ∈ s.readyWords, w.1 = k.launch.gid.toNat → w.2.1 ≠ from_) →
      exec (.gangStartTick e) s = .next ((gangWaits s cx).foldl fixTick { s with
        readyWords := s.readyWords ++ [(k.launch.gid.toNat, from_, s.tick.toNat / 2 ^ 36 * 2 ^ 36 + e.aux.toNat)] })) ∧
    (∀ ft f, s.kernels = [k] → k.cx = e.cx → k.state = .starting → k.frame = some ft → (s.crs k.course.toNat).holder = some k.cx →
      (s.crs k.course.toNat).sweeping = none → k.launch.gn = 0#11 ∨ (k.tick ≠ 0 ∧ k.tick ≤ s.tick.toNat) →
      s.frame? k.course.toNat k.bay.toNat ft.toNat = some f →
      ∃ u g, exec (.sourceInjection e) s = .next u ∧ u.frame? k.course.toNat k.bay.toNat ft.toNat = some g ∧
        g.cast = some { Cast.start (k.launch.plane.toNat * 2 ^ 17 + k.block) f.link.str with injected := true } ∧
        g.link = { f.link with lc := true, e := false } ∧
        u.kernels = [{ k with state := .running, pending := false }] ∧ u.mem = s.mem ∧
        ((s.ctx? cx).isSome = true → (u.ctx cx).energy = 0)) ∧
    (s.kernels.find? (fun x => x.cx.toNat == cx && x.state == .running && kernelQuiet s x && (!x.heap || x.endToken)) = some k →
      k.frame = none → exec (.kernelEnd e) s = .next (headsWait (endKernel s k .normal 0 0) cx))

/-! ### Events of slices and configurations (R294, R421 to R430) -/

/-- R421 to R430: a slice that is over begins anew while no other contender waits, and else its sweep begins, with its fills
discarded and the shadow banks filled for the next contender; a sweep whose nodes and tokens are done, or a freeze at the
context's floor, leaves the course without a holder and keeps the save time; a free course goes to its contender with what it
saved, in a beat without another exchange of banks. A holder that no longer contends is swept with no other contender too;
this, what the fill of the next holder and a freeze keep, and the sweep in one step are the model's (notes/assumptions/64.md,
65.md, 67.md, 120.md).
R133, R294: a fill ends with the shadow complete, or with CFG_FETCH, LAYOUT, or the CFG_ILLEGAL of the first thing that
validation rejects, a pool that lies over one which stays in force among them. -/
def Obligations.SliceEventsAct : Prop :=
  ∀ (e : EvArgs) (s : State) (cx : BitVec 12) (start : Nat) (next : BitVec 12) (f : Fill),
    let c := e.course.toNat
    let y := s.crs c
    let floor := start + (s.ctx cx.toNat).floor
    let ts := linkTokens s c cx
    (y.holder = some cx → y.sweeping = none → sliceOver s c cx.toNat = true →
      let t := chargeSlice s c cx.toNat (s.tick.toNat - y.sliceStart)
      (stillContends t c cx.toNat = true ∧ othersWait t c cx.toNat = false →
        exec (.sliceEnd e) s = .next (startSlice t c cx.toNat)) ∧
      (stillContends t c cx.toNat = false ∨ othersWait t c cx.toNat = true →
        exec (.sliceEnd e) s = .next (beginSweep t c cx) ∧
          ((beginSweep t c cx).crs c).sweeping = some (cx, s.tick.toNat, BitVec.ofNat 12 ((pickHolder t c 8 0).getD 0)) ∧
          ((beginSweep t c cx).crs c).next = (pickHolder t c 8 0).map (BitVec.ofNat 12))) ∧
    (y.holder = some cx → y.sweeping = none → sliceOver s c cx.toNat = false → exec (.sliceEnd e) s = .next s) ∧
    (y.sweeping = some (cx, start, next) →
      (ts = [] ∧ issuingOn s c cx = false → exec (.sweep e) s = .next (endSweep s c cx start)) ∧
      (ts ≠ [] ∨ issuingOn s c cx = true → exec (.sweep e) s = .next s) ∧
      (floor ≤ s.tick.toNat → exec (.freeze e) s = .next (endSweep
        (({ s with transit := s.transit.filter fun t => !(ts.contains t) } : State).modCrs c fun y => { y with
          frozen := y.frozen ++ ts }) c cx start)) ∧
      (s.tick.toNat < floor → exec (.freeze e) s = .next s)) ∧
    (let u := endSweep s c cx start;
      (u.crs c).holder = none ∧ (u.crs c).sweeping = none ∧ ((∀ x ∈ s.elements, x.2.input = []) → u.mem = s.mem ∧
        ((s.ctx? cx.toNat).isSome = true → (u.ctx cx.toNat).saveTime = max (s.ctx cx.toNat).saveTime (s.tick.toNat - start)))) ∧
    (y.holder = none → y.sweeping = none → courseUp s c = true → y.exchanged ≠ s.beat + 1 → ∀ n, nextHolder s c = some n →
      let u := startSlice (loadCourse s c n) c n
      exec (.sliceResume e) s = .next u ∧ (u.crs c).holder = some (BitVec.ofNat 12 n) ∧ (u.crs c).sliceStart = s.tick.toNat ∧
        (u.crs c).sliceEnd = s.tick.toNat + effQuantum s n ∧ (u.crs c).exchanged = s.beat + 1 ∧
        (∀ v ∈ u.saved, ¬ (v.cx.toNat = n ∧ v.course.toNat = c)) ∧ u.mem = s.mem ∧
        u.transit = y.frozen.filter (fun t => t.tok.cx.toNat == n) ++ s.transit ∧
        (∀ v, s.saved.filter (fun v => v.cx.toNat == n && v.course.toNat == c) = [v] → y.kept = [] →
          (u.elem c v.el).active = v.bank ∧ (u.elem c v.el).k = v.k)) ∧
    (y.fill = some f → f.ready = true → y.sweeping = none → y.holder = some f.cx →
      (lkp s.planes f.plane.toNat = none → exec (.cfgFillComplete e) s = .next (failFill s c f kCFGFETCH 0 none)) ∧
      (∀ p, lkp s.planes f.plane.toNat = some p →
        let clash := poolClash s f.cx.toNat p (unflipped s f.cx.toNat c)
        let illegal := p.validateOn s.sideband.stackNo.toNat (· == c) clash
        let fits := frameBreaks s f.cx.toNat c p = false ∧
          (flipPools s f.cx.toNat c (activePools s f.cx.toNat c) p).isSome = true
        let done := sendLater ((fillBanks s c p).modCrs c fun y => { y with shadow := .complete f.cx f.plane p, former := false })
          f.toks (f.pend.fir.b.getD (plain 0)).word false
        (p.damaged = true → exec (.cfgFillComplete e) s = .next (failFill s c f kCFGFETCH 1 none)) ∧
        (p.damaged = false →
          (∀ x, illegal = some x → exec (.cfgFillComplete e) s = .next (failFill s c f kCFGILL x.code (some x))) ∧
          (∀ q ∈ p.pools, q.course = c → clash q = true → ∃ x, illegal = some x) ∧
          (∀ q ∈ p.pools, q.course = c → clash q = true → p.units = [] → p.maps = [] → p.blocks = [] → p.pools = [q] →
            illegal = some (Illegal.ofPool q)) ∧
          (illegal = none → ¬ fits → exec (.cfgFillComplete e) s = .next (failFill s c f kLAYOUT 0 none)) ∧
          (illegal = none → fits → y.fillNext = [] →
            exec (.cfgFillComplete e) s = .next (done.modCrs c fun y => { y with fill := none })) ∧
          (illegal = none → fits → y.fillNext ≠ [] → exec (.cfgFillComplete e) s = .next (nextFill done c))) ∧
        (done.crs c).shadow = .complete f.cx f.plane p ∧ done.mem = s.mem ∧ done.transit = s.transit ++ f.toks.map fun t => { t with
          tok := { t.tok with val := ((f.pend.fir.b.getD (plain 0)).low 64).setWidth 512, p := false } }))

/-! ### Events of power, memory errors and the pod (R345, R395 to R401, R449 to R454) -/

/-- R345, R347, R450 to R454: the controller lowers the step of a course, or raises it, by one; a course sleeps, and
wakes 2 µs after it is needed, or, with its bay stores zero, from off after 50 µs and at most 512 beats, its mirror caught up
and its nodes held until the mirror has applied the beats up to the wake; time is corrected by at most 1 ns per µs; bring-up goes
phase by phase to READY, and the memory of other stacks, which lies outside it, stays. That one event makes each phase, and
that memory is zero from phase 1, is the model's choice (notes/assumptions/13.md, 91.md).
R395, R396, R400, R401, R449: scrubbed words and corrected errors are counted; an uncorrectable word costs the row of a frame
table, a mirror, a Thatch plane or a bay store's allocations, and is counted; the failed downpipe of a bay position is
drained in every course; a failed course loses its state; a link loss takes a stack out of reach. What off keeps, when a wake ends, what
an error of a bank does and what a failed course loses beyond the words of these rules are the readings of
notes/assumptions/71.md, 74.md, 75.md and 76.md. -/
def Obligations.PowerAndErrorEventsAct : Prop :=
  (∀ (e : EvArgs) (s : State),
      let c := e.course.toNat
      let y := s.crs c
      let steps := fun (l : Nat) (d : Nat) => l = 0 ∨ l + d ≤ s.tick.toNat
      let hot := fun k => 105 < tempOf s k
      let cool := ∀ k, k < 16 → ¬ hot k
      let highest := ∀ k, k < 16 → k ≠ c → (s.crs k).step < y.step ∨ ((s.crs k).step = y.step ∧ c < k)
      let hottest := ∀ k, k < 16 → k ≠ c → hot k → tempOf s k < tempOf s c ∨ (tempOf s k = tempOf s c ∧ c < k)
      let lowest := ∀ k, k < 16 → k ≠ c → burstWaits s k = true → y.step < (s.crs k).step ∨ ((s.crs k).step = y.step ∧ c < k)
      let quiet := courseQuiet s c = true ∧ courseNeeded s c = false
      let p := s.sideband.phase.toNat
      (∃ x u, exec .powerMeasure s = .next u ∧ u.telem.power = x ∧ u.telem.powers = (x :: s.telem.powers).take 100 ∧
        u.mem = s.mem ∧ u.courses = s.courses) ∧
      (steps s.telem.lastLower 10000 → ((hot c ∧ hottest) ∨ (cool ∧ highest ∧ overLimit s = true)) →
        ∃ u, exec (.permitStepLower e) s = .next u ∧ (u.crs c).step = y.step - 1 ∧ u.telem.lastLower = max 1 s.tick.toNat ∧
          ∀ k, k ≠ c → (u.crs k).step = (s.crs k).step) ∧
      (steps s.telem.lastRaise 100000 → underLimit s = true → (∀ k, k < 16 → tempOf s k ≤ 100) → burstWaits s c = true → lowest →
        (∀ k, k < 16 → (s.crs k).step ≤ 8) → ∃ u, exec (.permitStepRaise e) s = .next u ∧ (u.crs c).step = min 8 (y.step + 1) ∧
          ∀ k, k ≠ c → (u.crs k).step = (s.crs k).step) ∧
      (quiet → y.power = .awake → y.failed = false → s.policy.sleep.getLsbD 0 = true → y.quietSince + 100000 ≤ s.tick.toNat →
        exec (.courseRetentionEnter e) s =
          .next (s.modCrs c fun y => { y with power := .retention, retainedAt := s.tick.toNat })) ∧
      (quiet → y.power = .retention → y.waking = none → s.policy.sleep.getLsbD 1 = true → backedOn s c = false →
        y.retainedAt + 10000000 ≤ s.tick.toNat → ∃ u, exec (.courseOffEnter e) s = .next u ∧ (u.crs c).power = .off ∧
          (u.crs c).mirror = some s.ridge ∧ (u.crs c).lastBeat = s.beat - 4 ∧ u.mem = s.mem ∧
          (journalling s = false → u.journal = s.changes) ∧ (journalling s = true → u.journal = s.journal)) ∧
      (courseNeeded s c = true → y.waking = none →
        (y.power = .retention → exec (.courseWake e) s =
          .next (s.modCrs c fun y => { y with waking := some (s.cycles + 2800, s.cycles + 2800) })) ∧
        (y.power = .off → ∃ u, exec (.courseWake e) s = .next u ∧ (u.crs c).power = .off ∧
          (u.crs c).waking = some (s.cycles + 70000, s.cycles + 71024) ∧ u.mem = Memory.clear s.mem (nearPA c 0 0) (2 ^ 28))) ∧
      (∀ t d, y.waking = some (t, d) → (s.cycles < t → exec (.courseWake e) s = .next s) ∧
        (t ≤ s.cycles → ∃ u, exec (.courseWake e) s = .next u ∧ (u.crs c).power = .awake ∧ (u.crs c).waking = none ∧
          (u.crs c).issueFrom = s.beat + 4 ∧ u.mem = s.mem ∧ (y.power ≠ .off ∨ caughtUp s y = s.ridge → (u.crs c).mirror = none) ∧
          (y.power = .off → caughtUp s y ≠ s.ridge → (u.crs c).mirror = some (caughtUp s y)))) ∧
      (∃ u, exec .timeSync s = .next u ∧ -1 ≤ u.telem.drift ∧ u.telem.drift ≤ 1 ∧ u.tick = s.tick ∧
        u.telem.master = BitVec.ofNat 10 (s.reach.foldl min s.sideband.stackNo.toNat)) ∧
      (p = 0 ∨ 7 ≤ p → ∃ u, exec .powerGood s = .next u ∧ u.sideband.phase = 1#4 ∧ u.sideband.ready = false ∧
        u.mem = podCells s.mem ∧ u.linkUp = false) ∧
      (0 < p → p < 7 → ∃ u, exec .powerGood s = .next u ∧ u.sideband.phase.toNat = p + 1 ∧ (u.sideband.ready = true ↔ p = 6) ∧
        u.mem = s.mem ∧ u.sideband.stackNo = s.sideband.stackNo ∧
        (p = 5 → u.reach = Config.podReach ∧ u.tick = Config.podTick s.fresh) ∧ (p ≠ 5 → u.reach = s.reach ∧ u.tick = s.tick))) ∧
  (∀ (e : EvArgs) (s : State),
      let c := e.course.toNat
      let b := e.unit.toNat % 256
      let x := e.aux.toNat
      let s1 := { s with telem := { s.telem with uncorrectable := s.telem.uncorrectable + 1 } }
      let pipe := b
      (∃ u, exec (.scrub e) s = .next u ∧ u.telem.scrubbed = s.telem.scrubbed + 1 ∧ u.telem.corrected = s.telem.corrected + x ∧
        u.mem = s.mem ∧
        (e.unit.toNat / 256 = 0 → u.bays = (s.modBay c b fun y => { y with lastScrub := s.tick.toNat }).bays) ∧
        (e.unit.toNat / 256 = 1 → u.bays = s.bays ∧ (u.crs c).mirrorScrub = s.tick.toNat) ∧
        (2 ≤ e.unit.toNat / 256 → u.bays = s.bays ∧ u.telem.lastThatch = s.tick.toNat)) ∧
      (e.k = 0#16 → exec (.uncorrectableError e) s = .next (bayError s1 c b (x % 2 ^ 20) (x / 2 ^ 20 % 2 == 1))) ∧
      (e.k = 1#16 → s.frame? c b e.ft.toNat = none → ∃ u, exec (.uncorrectableError e) s = .next u ∧
        e.ft.toNat ∈ (u.bay c b).retiredRows ∧ u.mem = s.mem ∧ u.telem.uncorrectable = s.telem.uncorrectable + 1) ∧
      (e.k = 2#16 → exec (.uncorrectableError e) s = .next (losePool s1 c b (x % 8))) ∧
      (e.k = 3#16 → (s.crs c).power ≠ .off → exec (.uncorrectableError e) s =
        .next (s1.modCrs c fun y => { y with mirror := none })) ∧
      (e.k = 4#16 → ∀ p, lkp s.planes (x % 2 ^ 16) = some p → ∃ u, exec (.uncorrectableError e) s = .next u ∧
        lkp u.planes (x % 2 ^ 16) = some { p with damaged := true } ∧
        (∀ n, n ≠ x % 2 ^ 16 → lkp u.planes n = lkp s.planes n) ∧ u.mem = s.mem) ∧
      (e.k = 5#16 → x < farSize → exec (.uncorrectableError e) s = .next (farError s1 x)) ∧
      (pipe ∉ s.telem.failedPipes → exec (.downpipeFail e) s =
        .next { s with telem := { s.telem with failedPipes := s.telem.failedPipes ++ [pipe] } }) ∧
      (pipe ∈ s.telem.failedPipes → exec (.downpipeFail e) s = .next s) ∧
      exec (.downpipeTestBeat e) s = .next { s with telem := { s.telem with
        testPipe := pipe, testBeats := s.telem.testBeats + 1, lastTest := s.tick.toNat } } ∧
      exec (.eaveFlitReplay e) s = .next { s with telem := { s.telem with replays := s.telem.replays + 1 } } ∧
      (∃ u, exec (.eaveLinkLoss e) s = .next u ∧ u.reach = s.reach.filter (fun n => n != e.k.toNat) ∧ u.mem = s.mem ∧
        u.transit = s.transit ∧ u.telem.master = BitVec.ofNat 10 (u.reach.foldl min s.sideband.stackNo.toNat) ∧
        e.unit.toNat % 16 ∈ u.telem.lostLinks ∧ ∀ n ∈ s.telem.lostLinks, n ∈ u.telem.lostLinks) ∧
      ((s.crs c).failed = false → ∃ u, exec (.courseFail e) s = .next u ∧ (u.crs c).failed = true ∧ (u.crs c).holder = none ∧
        (∀ a, nearPA c 0 0 ≤ a → a < nearPA c 0 0 + 2 ^ 28 → Memory.read u.mem a = 0#8) ∧
        (∀ el ∈ u.elements, el.1 / 8192 ≠ c) ∧ (∀ t ∈ u.transit, t.course.toNat ≠ c)))

/-! ### Events of the host (R293, R437 to R448, R455) -/

/-- R437 to R448: a window write lands in far memory, WFENCE performs every one that was issued and reads 0, the oldest SIG of
an endpoint is delivered; a message crosses the link as R438's header and payload; it acts, or is refused with the status of
R440; one that R438 does not allow, or that repeats the tag of one that waits, is BAD_MSG, and while FROZEN is set one that R446
does not name is BUSY.
R328, R439 to R448, R455: what MEM_COPY, CHECKPOINT, RESTORE, ATTEST, TELEM and POLICY messages do, with the courses awake; pages
that a copy or an EP_SEND needs are pulled first. That a copy is one step, what stands in an image where R445 does not say, the
zero bytes after the chain, and what ATTEST signs are the model's choice (notes/assumptions/6.md, 70.md, 77.md, 78.md, 79.md,
81.md, 112.md, 132.md). -/
def Obligations.HostMessagesAct : Prop :=
  (∀ (e : EvArgs) (s : State) (m : Msg) (rest : List Msg),
      let s0 := { s with hostIn := rest }
      let ok := fun (t : State) (p0 : Nat) (bs : List Byte) => .next (respond t m 0 p0 0 bs)
      let no := fun (status : Nat) => .next (respond s0 m status 0 0 [])
      let bad := fun (kind code addr : Nat) => .next (respond s0 m 9 addr (kind % 32 * 2 ^ 59 + code % 2 ^ 16) [])
      let cx := m.cx.toNat
      let ws := wordsOf (m.payload.length / 8) m.payload
      let plainly := m.p0 = 0 ∧ m.p1 = 0 ∧ m.payload = []
      (∀ w l, s.windowIn = w :: l → windowOk w.1 w.2.length = true → exec (.hostWindowWrite e) s =
        .next (writeBytes { s with windowIn := l } ((List.range w.2.length).map (fun i => farBase + w.1 + i) |>.zip w.2))) ∧
      (∃ u, exec .wfence s = .next u ∧ u.windowIn = [] ∧ u.transit = s.transit ∧
        ∀ w, s.windowIn = [w] → windowOk w.1 w.2.length = true →
          u = writeBytes { s with windowIn := [], sidebandOut := s.sidebandOut ++ [0#64] }
            ((List.range w.2.length).map (fun i => farBase + w.1 + i) |>.zip w.2)) ∧
      ((sidebandWord s 0x00).toNat = s.sideband.phase.toNat + s.sideband.ready.toNat * 16 + s.sideband.frozen.toNat * 32 ∧
        (sidebandWord s 0x10).toNat = s.sideband.stackNo.toNat) ∧
      (m.payload.length < 2 ^ 32 → Msg.ofBytes m.bytes = m) ∧
      (m.payload.length % 8 ≠ 0 ∨ m.rsv ≠ 0 ∨ m.status ≠ 0 ∨ 256 ≤ m.tag.toNat → m.malformed = true) ∧
      (s.linkUp = true → ∀ x, s.sigs.find? (fun y => y.ep == e.k.toNat) = some x → ∃ u a, exec (.sigDeliveryAck e) s = .next u ∧
        u.sigs = s.sigs.erase x ∧ u.hostOut = s.hostOut ++ [a] ∧ a.opc = 0x81#8 ∧ a.cx = x.cx.setWidth 16 ∧ a.p1 = x.val ∧ u.mem = s.mem) ∧
      exec .hostLinkDown s = .next { s with linkUp := false } ∧
      (∀ x, s.linkUp = true → s.sideband.phase = 7#4 → s.hostIn = [m, x] → x.tag = m.tag → m.opc = 9#8 → m.p0 = 4 → m.p1 = 0 →
        m.cx = 0#16 → m.payload = [] → m.malformed = false → exec .telemSync s = .next (respond (respond { s with hostIn := [] } x 1 0 0 [])
          m 0 0 0 ([s.telem.syncFlag.toNat, s.telem.master.toNat].flatMap (leBytes 8)))) ∧
      (s.linkUp = true → s.sideband.phase = 7#4 → s.hostIn = m :: rest → (s.hostIn.map Msg.tag).Nodup →
        (m.opc = 2#8 → m.malformed = true → exec .ctxDelete s = no 1) ∧
        (m.opc = 2#8 → m.malformed = false → s.sideband.frozen = true → exec .ctxDelete s = no 8)) ∧
      (msgTaken s m rest →
        (m.opc = 1#8 → m.cx = 0#16 → m.p0 = 0 → m.p1 = 0 → ∀ fs, creationOf (ws.take 8) = some fs → ws.length = 8 + 2 * fs.2.2.1 →
          (∀ n t, createChild s0 0 (ws.take 8) (entriesOf (ws.drop 8)) = .ok (n, t) →
            let v := t.modCtx n fun x =>
              { x with runnable := true, quantum := if x.holds.any (fun h => h.kind == 11#4) then x.quantum else 1000000 }
            exec .ctxCreate s = ok { v with created := true } (ctxWord v n) []) ∧
          (∀ code, createChild s0 0 (ws.take 8) (entriesOf (ws.drop 8)) = .error (kHOLDING, code) → exec .ctxCreate s = no 3)) ∧
        (depthOne s0 cx = false → (m.opc = 2#8 → exec .ctxDelete s = no 2) ∧
          (m.opc = 10#8 → m.cx ≠ 0#16 → exec .resetContext s = no 2)) ∧
        (depthOne s0 cx = true → plainly → (m.opc = 2#8 → exec .ctxDelete s = ok (deleteCtx s0 cx) 0 []) ∧
          (m.opc = 10#8 → m.cx ≠ 0#16 → exec .resetContext s = ok (resetCtx s0 cx) 0 [])) ∧
        (m.opc = 3#8 → m.cx = 0#16 → m.p0 ≠ 0 → m.p0.toNat < 2 ^ 16 → m.p1 = 0 →
          (∀ st, readObject s0 m.p0.toNat m.payload = .error st → exec .planePut s = no st) ∧
          (∀ p, readObject s0 m.p0.toNat m.payload = .ok p → putBreaks s0 m.p0.toNat p = true → exec .planePut s = no 13) ∧
          (∀ p, readObject s0 m.p0.toNat m.payload = .ok p → putBreaks s0 m.p0.toNat p = false →
            (((s.planes.filter fun x => x.1 != m.p0.toNat).map fun x => x.2.bytes).sum + p.bytes ≤ 2 ^ 34 →
              exec .planePut s = ok { s0 with planes := put s.planes m.p0.toNat p } m.p0.toNat []) ∧
            (2 ^ 34 < ((s.planes.filter fun x => x.1 != m.p0.toNat).map fun x => x.2.bytes).sum + p.bytes →
              exec .planePut s = no 12))) ∧
        (m.opc = 4#8 → (s.ctx? cx = none → exec .launchMessage s = no 2) ∧
          (m.cx ≠ 0#16 → (s.ctx? cx).isSome = true → m.p0 = 0 → m.p1 = 0 → 8 ≤ ws.length → ws.getD 0 0 / 2 ^ 48 % 2 ^ 12 = cx →
            (∀ w t, queueLaunch s0 (ws.take 8) (ws.drop 8) true = .ok (w, t) → exec .launchMessage s = ok t w []) ∧
            (queueLaunch s0 (ws.take 8) (ws.drop 8) true = .error (kHOLDING, 6) → exec .launchMessage s = no 7) ∧
            (∀ code, queueLaunch s0 (ws.take 8) (ws.drop 8) true = .error (kCFGFETCH, code) →
              exec .launchMessage s = bad kCFGFETCH code 0))) ∧
        (m.opc = 10#8 → m.cx = 0#16 → plainly → (∀ k ∈ s.kernels, k.fromHost = false) → rest = [] →
          exec .resetStack s = ok (resetState s0) 0 []) ∧
        (m.opc = 11#8 → m.payload.length = 8 → m.p0.toNat < 64 →
          let va := fld m.payload 0 8
          let v := epPull s0 m
          ((s.ctx? cx).isSome = true → s.holdsEndpoint cx m.p0.toNat = true → (∀ c, c < 16 → s.asleep c = false) →
            (∀ kind code, epWord v cx va = .error (kind, code) →
              exec .epSend s = .next (respond v m 9 va (kind % 32 * 2 ^ 59 + code % 2 ^ 16) [])) ∧
            (∀ a o, epWord v cx va = .ok a → v.walk cx va = .ok o →
              let t := install v (a / 2 ^ 28 % 16) (a / 2 ^ 20 % 256) cx va o
              ((t.stag a).full = true ∨ (t.stag a).res = true → exec .epSend s = .next (respond t m 10 0 0 [])) ∧
              ((t.stag a).full = false → (t.stag a).res = false → exec .epSend s =
                ok (serveReleases (fillWord (dirtyRegion t cx 1 va 8) a m.p1.toNat)) 0 []))) ∧
          (s.holdsEndpoint cx m.p0.toNat = false → exec .epSend s = no 3)))) ∧
  (∀ (s : State) (m : Msg) (rest : List Msg),
      let s0 := { s with hostIn := rest }
      let ok := fun (t : State) (p0 : Nat) (bs : List Byte) => .next (respond t m 0 p0 0 bs)
      let no := fun (status : Nat) => .next (respond s0 m status 0 0 [])
      let cx := m.cx.toNat
      let src := m.p0.toNat
      let dst := m.p1.toNat
      let plainly := m.cx = 0#16 ∧ m.p1 = 0 ∧ m.payload = []
      let words := fun (l : List Nat) => ok s0 0 (l.flatMap (leBytes 8))
      let course := fun (f : Nat → Nat) => (List.range 16).map f
      let sleep := fun c => match (s.crs c).power with | .awake => 0 | .retention => 1 | .off => 2
      let policy := fun (p : Policy) => ok { s0 with policy := p } 0 []
      msgTaken s m rest →
      (m.opc = 5#8 → (∀ c, c < 16 → s.asleep c = false) → ∀ n, let v := fun dir => copyPull s0 m dir n
        (copyArgs s0 m = some (0, n) → copyDir m = 0 → ∀ as, hostBytes (v 0) cx true dst n = .ok as →
          exec .memCopyToDevice s = ok (hostWrite (v 0) cx dst as (Memory.bytes (v 0).hostMem src n)) 0 []) ∧
        (copyArgs s0 m = some (1, n) → copyDir m = 1 → ∀ as, hostBytes (v 1) cx false src n = .ok as →
          exec .memCopyToHost s = ok { v 1 with hostMem := Memory.putBytes (v 1).hostMem dst (readBytes (v 1) as) } 0 []) ∧
        (copyArgs s0 m = some (2, n) → copyDir m = 2 → ∀ as, hostBytes (v 2) cx false src n = .ok as →
          ∀ bs, hostBytes (v 2) cx true dst n = .ok bs →
            exec .memCopyDevice s = ok (hostWrite (v 2) cx dst bs (readBytes (v 2) as)) 0 []) ∧
        (copyArgs s0 m = some (0, n) → copyDir m = 0 → ∀ k c a, hostBytes (v 0) cx true dst n = .error (k, c, a) →
          exec .memCopyToDevice s = .next (respond (v 0) m 9 a (k % 32 * 2 ^ 59 + c % 2 ^ 16) []))) ∧
      (m.opc = 6#8 → m.payload = [] →
        (m.flags.getLsbD 1 = false → (s.ctx? cx).isSome = true →
          (∀ t n, checkpointAt s0 cx (bitAt m.flags 0) src dst = some (t, n) → exec .checkpoint s = ok t n []) ∧
          (checkpointAt s0 cx (bitAt m.flags 0) src dst = none → exec .checkpoint s = no 12)) ∧
        (m.flags.getLsbD 1 = true → m.cx = 0#16 → let cp := debugCapture s0 (scanOut s0)
          (imageSize cp ≤ dst → ∃ u, exec .checkpointDebug s = .next u ∧
            u.sideband.frozen = true ∧ u.mem = s.mem ∧ u.hostMem = Memory.putBytes s.hostMem src (imageOf s.fresh cp) ∧
            u.bays = s.bays ∧ u.ctxs = s.ctxs) ∧
          (dst < imageSize cp → exec .checkpointDebug s = no 12))) ∧
      (m.opc = 7#8 → plainly →
        (imageAt s0 src = none → exec .restoreMessage s = no 4) ∧
        (∀ k, imageAt s0 src = some k → k.debug = false →
          (captureFits s0 k = false → exec .restoreMessage s = no 3) ∧
          (captureFits s0 k = true →
            exec .restoreMessage s = ok (restoreCapture s0 k) (ctxWord (restoreCapture s0 k) k.root.toNat) []))) ∧
      (m.opc = 8#8 → m.cx = 0#16 → m.p1 = 0 →
        (m.p0 = 0 → m.payload.length = 64 → ∃ u bs, exec .attestReport s = ok u 0 (reportBody s0 m.payload ++ bs) ∧ bs.length = 512 ∧
          u.mem = s.mem) ∧
        (m.p0 = 1 → m.payload = [] → exec .attestChain s = ok s0 0 chainBytes ∧ chainBytes.length % 8 = 0) ∧
        (1 < m.p0.toNat → exec .attestChain s = no 1)) ∧
      (m.opc = 9#8 → plainly →
        (m.p0 = 0 → exec .telemPower s = words (s.telem.power.toNat :: course fun c => (s.crs c).step)) ∧
        (m.p0 = 1 → exec .telemTemperature s = words (course (tempOf s))) ∧
        (m.p0 = 2 → exec .telemErrors s = words (s.telem.corrected :: s.telem.uncorrectable :: s.telem.retiredBanks)) ∧
        (m.p0 = 3 → exec .telemSleep s = words [(course fun c => sleep c * 4 ^ c).sum]) ∧
        (m.p0 = 4 → exec .telemSync s = words [s.telem.syncFlag.toNat, s.telem.master.toNat]) ∧
        (4 < m.p0.toNat → exec .telemSync s = no 1)) ∧
      (m.opc = 12#8 → m.cx = 0#16 →
        (m.p0 = 0 → m.payload = [] →
          (600 ≤ dst → dst ≤ 1800 → exec .policyPowerLimit s = policy { s.policy with power := dst }) ∧
          (dst < 600 ∨ 1800 < dst → exec .policyPowerLimit s = no 1)) ∧
        (m.p0 = 1 → m.payload = [] → dst < 4 → exec .policySleep s = policy { s.policy with sleep := m.p1.setWidth 2 }) ∧
        (s.created = true → (m.p0 = 2 → exec .policySpareBanks s = no 8) ∧ (m.p0 = 3 → exec .policySignedPlanes s = no 8) ∧
          (m.p0 = 4 → exec .policyKeyInstall s = no 8)) ∧
        (s.created = false →
          (m.p0 = 2 → m.payload = [] → dst ≤ 4 → exec .policySpareBanks s = policy { s.policy with spare := dst }) ∧
          (m.p0 = 3 → m.payload = [] → dst < 2 → exec .policySignedPlanes s = policy { s.policy with signed := dst == 1 }) ∧
          (m.p0 = 4 → m.payload.length = 512 → s.policy.keys.length < 8 →
            exec .policyKeyInstall s = policy { s.policy with keys := s.policy.keys ++ [m.payload] }))))

/-! ### The step, the encoding and the whole machine -/

/-- A step runs the instruction that its word decodes to. A move that the agenda prescribes comes first and takes no time: an
event word, an element's issue (its record acts on the issue latch), a record that acts again; a record that validation
refuses never executes (R133). With nothing prescribed, a move that a stated time makes due comes next, and else time passes,
after which what is then due is made, or one of the candidate moves; in bring-up that is POWER_GOOD's (R454). The agenda, the free choice and its bounds are the
model's (notes/assumptions/1.md, 2.md). -/
def Obligations.StepRunsTheDecodedInstruction : Prop :=
  ∀ (s : State),
    let t := passTime s (stepCycles s)
    let m := choose t (candidates t)
    let v := noteWaits t (candidates t) m
    let runs := fun (p : Pick) (u : State) =>
      (∀ w, p = .event w →
        (∀ i, decodeStep w = .ok i → step s = exec i u) ∧ (∀ err, decodeStep w = .error err → step s = .refused .undecodable)) ∧
      (∀ c el, p = .issue c el →
        (∀ w v, issueAt u c.toNat el.toNat = some (w, v) →
          (∀ i, decodeRecord w = .ok i → step s = exec i v) ∧ (∀ err, decodeRecord w = .error err → step s = .next v)) ∧
        (issueAt u c.toNat el.toNat = none → step s = .next u)) ∧
      (∀ q, p = .fire q →
        (∀ i, decodeRecord q.word = .ok i → step s = exec i (refire u q)) ∧
        (∀ err, decodeRecord q.word = .error err → step s = .next (refire u q))) ∧
      (∀ q, p = .plate q → step s = .next (plateGo u q))
    (∀ p rest, s.agenda = p :: rest → runs p { s with agenda := rest }) ∧
    (s.agenda = [] →
      (∀ p, dueMove s = some p → runs p s) ∧
      (dueMove s = none → (∀ p, dueMove t = some p → runs p t) ∧
        (dueMove t = none → (m = none → step s = .next v) ∧ ∀ p, m = some p → runs p v)) ∧
      (s.sideband.phase ≠ 7#4 →
        (s.sideband.phase = 0#4 ∨ t.cycles < readyBy → step s = exec .powerGood { t with waited := [] }) ∧
        (s.sideband.phase ≠ 0#4 → readyBy ≤ s.cycles → step s = exec .powerGood s))) ∧
    (∀ i, i.wellFormed = true → s.agenda = [] → step (s.withFetchWord 104 (encode i).toNat) = exec i s)

/-- Bytes of the example objects (spec/01_collatz_program.md, spec/05_perceptron_program.md) decode to the instructions that
their listings give; an empty slot and an OP that R128 does not list are refused. The class byte 00 after a record's twelve is
the model's (notes/assumptions/1.md). -/
def Obligations.DecodesItsWords : Prop :=
  decodeBytes [0x01, 0x02, 0x00, 0x00, 0xFF, 0xFF, 0x1F, 0x00, 0x08, 0x30, 0x06, 0x12, 0x00] =
    .ok (.call { var := 0, ty := 6, ar := 1, tg := 2, pl := false, d0 := 0x4000, d1 := 0x1FFFFF, lit := 0x201 }, []) ∧
  decodeBytes [0x00, 0x00, 0x00, 0x00, 0xFF, 0xFF, 0x1F, 0x26, 0x00, 0x44, 0x08, 0x75, 0x00, 0xAA] =
    .ok (.vfmax { var := 0, ty := 8, ar := 2, tg := 0, pl := true, d0 := 0x130, d1 := 0x1FFFFF, lit := 0 }, [0xAA]) ∧
  decodeBytes [0x00, 0x02, 0x00, 0x00, 0xFF, 0xFF, 0xFF, 0xFF, 0xFF, 0x3B, 0x08, 0xC5, 0x00] =
    .ok (.mxDrain { var := 0, ty := 8, ar := 1, tg := 3, pl := false, d0 := 0x1FFFFF, d1 := 0x1FFFFF, lit := 0x200 }, []) ∧
  decodeBytes (List.replicate 12 0x00 ++ [0x39]) = .ok (.powerGood, []) ∧
  decodeBytes (List.replicate 13 0x00) = .error .emptySlot ∧
  decodeBytes (List.replicate 11 0x00 ++ [0x0D, 0x00]) = .error (.cfgIllegal 1) ∧
  decodeBytes (List.replicate 12 0x00) = .error .short

/-- R115, R128: every step that validation accepts is read back from its word and from its bytes, with every operand at every
value, and no other word is read as it. -/
def Obligations.EncodeDecodeRoundTrip : Prop :=
  (∀ i : Instr, i.wellFormed = true → decodeStep (encode i) = .ok i) ∧
  (∀ (w : BitVec 104) (i : Instr), decodeStep w = .ok i → i.wellFormed = true ∧ encode i = w) ∧
  (∀ (i : Instr) (rest : List Byte), i.wellFormed = true → decodeBytes (encodeBytes i ++ rest) = .ok (i, rest)) ∧
  (∀ (bs rest : List Byte) (i : Instr), decodeBytes bs = .ok (i, rest) → i.wellFormed = true ∧ bs = encodeBytes i ++ rest) ∧
  (∀ i : Instr, i.wellFormed = true → decodeTableWord 104 (encode i).toNat = some i)

/-- What a reset leaves, by R455's table and R448's defaults: only context 0, no planes, this stack's memory zero and other
stacks' memory as it was, every course awake at step 8, serials and the Ridge frame count begun anew, the pod time base kept;
messages that wait are answered with BUSY. That State.reset is the state after bring-up, that State.mem holds other stacks' memory
too, and the values that no rule gives, are the model's choice (notes/assumptions/13.md, 17.md). -/
def Obligations.ResetStateHolds : Prop :=
  let after := fun (u : State) => (∃ x, u.ctxs = [(0, x)]) ∧ u.planes = [] ∧ (∀ a, isPodPA a = false → Memory.read u.mem a = 0) ∧
    (∀ c, (u.crs c).step = 8 ∧ (u.crs c).power = .awake) ∧ u.policy = ⟨1800, 1, 1, false, []⟩ ∧ u.kernels = [] ∧ u.bays = [] ∧
    u.elements = [] ∧ u.crucibles = [] ∧ u.beat = 0 ∧ u.transit = [] ∧ u.created = false ∧ u.linkUp = true ∧
    u.sideband.phase = 7#4 ∧ u.sideband.ready = true ∧ u.sideband.frozen = false ∧ u.windowIn = [] ∧ u.hostIn = [] ∧
    (u.ctx 0).nflag = 0 ∧ (u.ctx 0).thresh = 1 ∧ (u.ctx 0).timeG = 0 ∧ (u.ctx 0).timeS = 0 ∧ (u.ctx 0).serial = 1
  after State.reset ∧ MemoryCanonical State.reset ∧
  ∀ (s : State) (m : Msg) (rest : List Msg), msgTaken s m rest → m.opc = 10#8 → m.cx = 0#16 → m.p0 = 0 → m.p1 = 0 → m.payload = [] →
    ∃ u, exec .resetStack s = .next u ∧ after u ∧ u.tick = s.tick ∧ u.sideband.stackNo = s.sideband.stackNo ∧
      (∀ a, isPodPA a = true → Memory.read u.mem a = Memory.read s.mem a) ∧
      ∃ q z a, u.hostOut = s.hostOut ++ q ++ z ++ [a] ∧
        q.map (fun x => (x.opc, x.tag, x.status)) = rest.map (fun x => (x.opc, x.tag, 8#16)) ∧
        a.opc = m.opc ∧ a.tag = m.tag ∧ a.status = 0#16 ∧ ((∀ k ∈ s.kernels, k.fromHost = false) → z = [])

/-- Every step keeps every byte memory in its canonical form, from every state that has it: equal memories are equal data. The
form is the model's (Machine/Mem.lean). -/
def Obligations.StepKeepsMemoryCanonical : Prop :=
  ∀ s t : State, MemoryCanonical s → step s = .next t → MemoryCanonical t

/-- R13, R25, R145: what a node that only computes changes. Its tokens and its flags apart, every unit, every frame, every
register of every context and every byte of memory stays, whatever its operands; of its own frame only the cast changes, and of
the cast only the tokens that stand with it and its flags. -/
def Obligations.ComputingNodesChangeNothingElse : Prop :=
  ∀ (op : Nat) (r : NodeRec) (i : Instr) (s t : State), instrOfOp op r = some i →
    (op = 0x01 ∨ (0x03 ≤ op ∧ op ≤ 0x08) ∨ op = 0x0B ∨ op = 0x0C ∨ op = 0x10 ∨ (0x30 ≤ op ∧ op ≤ 0x85)) →
    (∃ c ft it, tagOf s r s.firing = .ok c ft it) → exec i s = .next t →
    let key := s.firing.course.toNat * 256 + s.firing.bay
    t = { s with transit := t.transit, bays := t.bays } ∧ (∃ l, t.transit = s.transit ++ l) ∧
    (∀ a, Memory.read t.mem a = Memory.read s.mem a) ∧
    (∀ c b, { t.bay c b with frames := [] } = { s.bay c b with frames := [] }) ∧
    (∀ c b ft, c * 256 + b ≠ key ∨ ft ≠ s.firing.ft.toNat → t.frame? c b ft = s.frame? c b ft) ∧
    (∀ f, s.frame? s.firing.course.toNat s.firing.bay s.firing.ft.toNat = some f →
      t.frame? s.firing.course.toNat s.firing.bay s.firing.ft.toNat = some f ∨
      ∃ k l fl, f.cast = some k ∧ t.frame? s.firing.course.toNat s.firing.bay s.firing.ft.toNat =
        some { f with cast := some { k with out := k.out ++ l, flags := k.flags ||| fl } })
end

