-- ==== Sys2Proof/Laws/Decode.lean ====
section
/-! SUPPORT. Sys2Proof/Laws/Decode.lean: the record word, the event word and the byte string of a step word, each with its
fields read back. -/

namespace Sys2Proof

theorem toNat_append_add {m n : Nat} (x : BitVec m) (y : BitVec n) : (x ++ y).toNat = x.toNat * 2 ^ n + y.toNat := by
  rw [BitVec.toNat_append, ← Nat.shiftLeft_add_eq_or_of_lt y.isLt, Nat.shiftLeft_eq]

theorem recWord_toNat (op : Nat) (r : NodeRec) :
    (recWord op r).toNat = ((((((((op % 256) * 16 + r.var.toNat) * 16 + r.ty.toNat) * 8 + r.ar.toNat) * 4 + r.tg.toNat) * 2 +
      r.pl.toNat) * 2097152 + r.d0.toNat) * 2097152 + r.d1.toNat) * 4294967296 + r.lit.toNat := by
  simp only [recWord, toNat_append_add, BitVec.toNat_ofNat, BitVec.toNat_ofBool]
  norm_num

theorem recFields_recWord (op : Nat) (r : NodeRec) : recFields (recWord op r) = r := by
  have h := recWord_toNat op r
  obtain ⟨v, ty, ar, tg, pl, d0, d1, lit⟩ := r
  have := v.isLt; have := ty.isLt; have := ar.isLt; have := tg.isLt; have := d0.isLt; have := d1.isLt; have := lit.isLt
  have := pl.toNat_lt
  simp only at h
  simp only [recFields, NodeRec.mk.injEq, ← BitVec.toNat_inj, BitVec.extractLsb'_toNat, bitAt, bitsAt, h,
    Nat.shiftRight_eq_div_pow]
  refine ⟨by omega, by omega, by omega, by omega, ?_, by omega, by omega, by omega⟩
  cases pl <;> simp only [Bool.toNat_true, Bool.toNat_false, beq_iff_eq, beq_eq_false_iff_ne] <;> omega

theorem recOp_recWord (op : Nat) (r : NodeRec) : recOp (recWord op r) = op % 256 := by
  have h := recWord_toNat op r
  have := r.var.isLt; have := r.ty.isLt; have := r.ar.isLt; have := r.tg.isLt; have := r.d0.isLt; have := r.d1.isLt
  have := r.lit.isLt; have := r.pl.toNat_lt
  simp only [recOp, bitsAt, h]
  omega

theorem recWord_recFields (w : BitVec 96) : recWord (recOp w) (recFields w) = w := by
  have := w.isLt
  apply BitVec.eq_of_toNat_eq
  rw [recWord_toNat]
  simp only [recFields, recOp, BitVec.extractLsb'_toNat, bitAt, bitsAt, Nat.shiftRight_eq_div_pow]
  have hp : ∀ x : Nat, (x % 2 ^ 1 == 1).toNat = x % 2 := by
    intro x
    rcases Nat.mod_two_eq_zero_or_one x with h | h <;> simp [h]
  rw [hp]
  omega

theorem evWord_toNat (e : EvArgs) :
    (evWord e).toNat = ((((e.course.toNat * 65536 + e.unit.toNat) * 4096 + e.ft.toNat) * 65536 + e.k.toNat) * 4096 +
      e.cx.toNat) * 68719476736 + e.aux.toNat := by
  simp only [evWord, toNat_append_add]
  norm_num

theorem evFields_evWord (e : EvArgs) : evFields (evWord e) = e := by
  have h := evWord_toNat e
  obtain ⟨c, u, ft, k, cx, aux⟩ := e
  have := c.isLt; have := u.isLt; have := ft.isLt; have := k.isLt; have := cx.isLt; have := aux.isLt
  simp only at h
  simp only [evFields, EvArgs.mk.injEq, ← BitVec.toNat_inj, BitVec.extractLsb'_toNat, h, Nat.shiftRight_eq_div_pow]
  refine ⟨by omega, by omega, by omega, by omega, by omega, by omega⟩

theorem evWord_evFields (w : BitVec 96) : evWord (evFields w) = w := by
  have := w.isLt
  apply BitVec.eq_of_toNat_eq
  rw [evWord_toNat]
  simp only [evFields, BitVec.extractLsb'_toNat, Nat.shiftRight_eq_div_pow]
  omega

/-- A step word is its class byte above its body. -/
theorem stepWord_parts (c : BitVec 8) (b : BitVec 96) :
    (c ++ b).extractLsb' 0 96 = b ∧ bitsAt (c ++ b) 96 8 = c.toNat := by
  have := c.isLt; have := b.isLt
  refine ⟨?_, ?_⟩
  · simp only [← BitVec.toNat_inj, BitVec.extractLsb'_toNat, toNat_append_add, Nat.shiftRight_eq_div_pow]; omega
  · simp only [bitsAt, toNat_append_add]; omega

theorem leBytes_length (n x : Nat) : (leBytes n x).length = n := by
  induction n generalizing x with
  | zero => rfl
  | succ n ih => simp [leBytes, ih]

theorem leNat_leBytes (n x : Nat) : leNat (leBytes n x) = x % 256 ^ n := by
  induction n generalizing x with
  | zero => simp [leBytes, leNat, Nat.mod_one]
  | succ n ih =>
    have h : x % (256 * 256 ^ n) = x % 256 + 256 * (x / 256 % 256 ^ n) := Nat.mod_mul
    rw [Nat.pow_succ', h]
    simp only [leBytes, leNat, ih, BitVec.toNat_ofNat, Nat.reducePow]

theorem leBytes_leNat (l : List Byte) : leBytes l.length (leNat l) = l := by
  induction l with
  | nil => rfl
  | cons b l ih =>
    have hb := b.isLt
    have h : (b.toNat + 256 * leNat l) / 256 = leNat l := by omega
    simp only [List.length_cons, leBytes, leNat, h, ih, List.cons.injEq, and_true]
    apply BitVec.eq_of_toNat_eq
    simp only [BitVec.toNat_ofNat]
    omega

end Sys2Proof
end

