-- ==== Sys2Proof/Laws/Host.lean ====
section
/-! SUPPORT. Sys2Proof/Laws/Host.lean: what a message step does with the message that stands first (R438, R441). -/

namespace Sys2Proof.Machine

/-- Messages under tags of their own are no repeats. -/
theorem splitTags_nodup : ∀ (l seen : List Msg), ((seen ++ l).map Msg.tag).Nodup → splitTags seen l = (seen ++ l, []) := by
  intro l
  induction l with
  | nil => intro seen _; simp [splitTags]
  | cons m l ih =>
    intro seen h
    have h1 : seen.any (fun x => x.tag == m.tag) = false := by
      rw [List.any_eq_false]
      intro x hx
      simp only [List.map_append, List.map_cons] at h
      have := (List.nodup_append.mp h).2.2 x.tag (List.mem_map_of_mem hx) m.tag (by simp)
      simpa using this
    have h2 := ih (seen ++ [m]) (by simpa using h)
    simp only [splitTags, h1]
    simpa using h2

/-- A queue with no tag twice is left as it is. -/
theorem refuseRepeats_nodup {s : State} (h : (s.hostIn.map Msg.tag).Nodup) : refuseRepeats s = s := by
  unfold refuseRepeats
  rw [splitTags_nodup s.hostIn [] (by simpa using h)]
  rfl

/-- The first message acts, in the state without it, when it is of the step's kind and nothing holds it. -/
theorem hostEvent_first {s : State} {m : Msg} {rest : List Msg} (h : msgTaken s m rest) (f : Msg → Bool) (act : State → Msg → State)
    (hold : State → Msg → Option State) (hf : f m = true) (hh : hold s m = none) :
    hostEvent s f act hold = act { s with hostIn := rest } m := by
  obtain ⟨h1, h2, h3, h4, h5, h6⟩ := h
  unfold hostEvent
  simp [h1, h2, refuseRepeats_nodup h5, h4, nextMsg, hf, h6, h3, hh, List.erase_cons_head]

/-- A message that is held leaves its step with what the hold gives. -/
theorem hostEvent_held {s t : State} {m : Msg} {rest : List Msg} (h : msgTaken s m rest) (f : Msg → Bool) (act : State → Msg → State)
    (hold : State → Msg → Option State) (hf : f m = true) (hh : hold s m = some t) : hostEvent s f act hold = t := by
  obtain ⟨h1, h2, h3, h4, h5, h6⟩ := h
  unfold hostEvent
  simp [h1, h2, refuseRepeats_nodup h5, h4, nextMsg, hf, h6, h3, hh]

/-- With no course asleep nothing is held for a wake. -/
theorem copyHold_awake {s : State} (h : ∀ c, c < 16 → s.asleep c = false) (m : Msg) : copyHold s m = none := by
  have : ((List.range 16).all fun c => !(s.asleep c)) = true := by
    rw [List.all_eq_true]; intro c hc; simp [h c (List.mem_range.mp hc)]
  unfold copyHold
  split
  · rfl
  · rw [if_pos this]

theorem epHold_awake {s : State} (h : ∀ c, c < 16 → s.asleep c = false) (m : Msg) : epHold s m = none := by
  have : ((List.range 16).all fun c => !(s.asleep c)) = true := by
    rw [List.all_eq_true]; intro c hc; simp [h c (List.mem_range.mp hc)]
  unfold epHold
  rw [if_pos (by rw [this]; rfl)]

end Sys2Proof.Machine
end

