-- ==== Sys2Proof/Laws/State.lean ====
section
/-! SUPPORT. Sys2Proof/Laws/State.lean: which field of State each update of Machine/Mem.lean changes: one lemma for each
field and update, so that no later proof unfolds a record update. -/

namespace Sys2Proof.Machine

/-! ### The four updates of units, by course and number -/

@[simp] theorem State.setBay_firing (s : State) (c b : Nat) (x : Bay) : (s.setBay c b x).firing = s.firing := rfl
@[simp] theorem State.setBay_agenda (s : State) (c b : Nat) (x : Bay) : (s.setBay c b x).agenda = s.agenda := rfl
@[simp] theorem State.setBay_stepCount (s : State) (c b : Nat) (x : Bay) : (s.setBay c b x).stepCount = s.stepCount := rfl
@[simp] theorem State.setBay_fresh (s : State) (c b : Nat) (x : Bay) : (s.setBay c b x).fresh = s.fresh := rfl
@[simp] theorem State.setBay_cycles (s : State) (c b : Nat) (x : Bay) : (s.setBay c b x).cycles = s.cycles := rfl
@[simp] theorem State.setBay_tick (s : State) (c b : Nat) (x : Bay) : (s.setBay c b x).tick = s.tick := rfl
@[simp] theorem State.setBay_beat (s : State) (c b : Nat) (x : Bay) : (s.setBay c b x).beat = s.beat := rfl
@[simp] theorem State.setBay_mem (s : State) (c b : Nat) (x : Bay) : (s.setBay c b x).mem = s.mem := rfl
@[simp] theorem State.setBay_elements (s : State) (c b : Nat) (x : Bay) : (s.setBay c b x).elements = s.elements := rfl
@[simp] theorem State.setBay_crucibles (s : State) (c b : Nat) (x : Bay) : (s.setBay c b x).crucibles = s.crucibles := rfl
@[simp] theorem State.setBay_courses (s : State) (c b : Nat) (x : Bay) : (s.setBay c b x).courses = s.courses := rfl
@[simp] theorem State.setBay_ctxs (s : State) (c b : Nat) (x : Bay) : (s.setBay c b x).ctxs = s.ctxs := rfl
@[simp] theorem State.setBay_kernels (s : State) (c b : Nat) (x : Bay) : (s.setBay c b x).kernels = s.kernels := rfl
@[simp] theorem State.setBay_planes (s : State) (c b : Nat) (x : Bay) : (s.setBay c b x).planes = s.planes := rfl
@[simp] theorem State.setBay_transit (s : State) (c b : Nat) (x : Bay) : (s.setBay c b x).transit = s.transit := rfl
@[simp] theorem State.setBay_eaveOut (s : State) (c b : Nat) (x : Bay) : (s.setBay c b x).eaveOut = s.eaveOut := rfl
@[simp] theorem State.setBay_readyOut (s : State) (c b : Nat) (x : Bay) : (s.setBay c b x).readyOut = s.readyOut := rfl
@[simp] theorem State.setBay_sidebandOut (s : State) (c b : Nat) (x : Bay) : (s.setBay c b x).sidebandOut = s.sidebandOut := rfl
@[simp] theorem State.setBay_faults (s : State) (c b : Nat) (x : Bay) : (s.setBay c b x).faults = s.faults := rfl
@[simp] theorem State.setBay_dooms (s : State) (c b : Nat) (x : Bay) : (s.setBay c b x).dooms = s.dooms := rfl
@[simp] theorem State.setBay_barriers (s : State) (c b : Nat) (x : Bay) : (s.setBay c b x).barriers = s.barriers := rfl
@[simp] theorem State.setBay_cells (s : State) (c b : Nat) (x : Bay) : (s.setBay c b x).cells = s.cells := rfl
@[simp] theorem State.setBay_cellWaits (s : State) (c b : Nat) (x : Bay) : (s.setBay c b x).cellWaits = s.cellWaits := rfl
@[simp] theorem State.setBay_stags (s : State) (c b : Nat) (x : Bay) : (s.setBay c b x).stags = s.stags := rfl
@[simp] theorem State.setBay_selectors (s : State) (c b : Nat) (x : Bay) : (s.setBay c b x).selectors = s.selectors := rfl
@[simp] theorem State.setBay_lineTags (s : State) (c b : Nat) (x : Bay) : (s.setBay c b x).lineTags = s.lineTags := rfl
@[simp] theorem State.setBay_lostPages (s : State) (c b : Nat) (x : Bay) : (s.setBay c b x).lostPages = s.lostPages := rfl
@[simp] theorem State.setBay_waited (s : State) (c b : Nat) (x : Bay) : (s.setBay c b x).waited = s.waited := rfl
@[simp] theorem State.setBay_released (s : State) (c b : Nat) (x : Bay) : (s.setBay c b x).released = s.released := rfl
@[simp] theorem State.setBay_structPages (s : State) (c b : Nat) (x : Bay) : (s.setBay c b x).structPages = s.structPages := rfl
@[simp] theorem State.setBay_replay (s : State) (c b : Nat) (x : Bay) : (s.setBay c b x).replay = s.replay := rfl
@[simp] theorem State.setBay_guardNotes (s : State) (c b : Nat) (x : Bay) : (s.setBay c b x).guardNotes = s.guardNotes := rfl
@[simp] theorem State.setBay_plateWork (s : State) (c b : Nat) (x : Bay) : (s.setBay c b x).plateWork = s.plateWork := rfl
@[simp] theorem State.setBay_migrated (s : State) (c b : Nat) (x : Bay) : (s.setBay c b x).migrated = s.migrated := rfl
@[simp] theorem State.setBay_departed (s : State) (c b : Nat) (x : Bay) : (s.setBay c b x).departed = s.departed := rfl
@[simp] theorem State.setBay_ridge (s : State) (c b : Nat) (x : Bay) : (s.setBay c b x).ridge = s.ridge := rfl
@[simp] theorem State.setBay_slots (s : State) (c b : Nat) (x : Bay) : (s.setBay c b x).slots = s.slots := rfl
@[simp] theorem State.setBay_rdgWaits (s : State) (c b : Nat) (x : Bay) : (s.setBay c b x).rdgWaits = s.rdgWaits := rfl
@[simp] theorem State.setBay_rdgTicket (s : State) (c b : Nat) (x : Bay) : (s.setBay c b x).rdgTicket = s.rdgTicket := rfl
@[simp] theorem State.setBay_changes (s : State) (c b : Nat) (x : Bay) : (s.setBay c b x).changes = s.changes := rfl
@[simp] theorem State.setBay_journal (s : State) (c b : Nat) (x : Bay) : (s.setBay c b x).journal = s.journal := rfl
@[simp] theorem State.setBay_journalCut (s : State) (c b : Nat) (x : Bay) : (s.setBay c b x).journalCut = s.journalCut := rfl
@[simp] theorem State.setBay_saved (s : State) (c b : Nat) (x : Bay) : (s.setBay c b x).saved = s.saved := rfl
@[simp] theorem State.setBay_hostIn (s : State) (c b : Nat) (x : Bay) : (s.setBay c b x).hostIn = s.hostIn := rfl
@[simp] theorem State.setBay_windowIn (s : State) (c b : Nat) (x : Bay) : (s.setBay c b x).windowIn = s.windowIn := rfl
@[simp] theorem State.setBay_hostOut (s : State) (c b : Nat) (x : Bay) : (s.setBay c b x).hostOut = s.hostOut := rfl
@[simp] theorem State.setBay_hostMem (s : State) (c b : Nat) (x : Bay) : (s.setBay c b x).hostMem = s.hostMem := rfl
@[simp] theorem State.setBay_sigs (s : State) (c b : Nat) (x : Bay) : (s.setBay c b x).sigs = s.sigs := rfl
@[simp] theorem State.setBay_linkUp (s : State) (c b : Nat) (x : Bay) : (s.setBay c b x).linkUp = s.linkUp := rfl
@[simp] theorem State.setBay_sideband (s : State) (c b : Nat) (x : Bay) : (s.setBay c b x).sideband = s.sideband := rfl
@[simp] theorem State.setBay_policy (s : State) (c b : Nat) (x : Bay) : (s.setBay c b x).policy = s.policy := rfl
@[simp] theorem State.setBay_telem (s : State) (c b : Nat) (x : Bay) : (s.setBay c b x).telem = s.telem := rfl
@[simp] theorem State.setBay_reach (s : State) (c b : Nat) (x : Bay) : (s.setBay c b x).reach = s.reach := rfl
@[simp] theorem State.setBay_readyWords (s : State) (c b : Nat) (x : Bay) : (s.setBay c b x).readyWords = s.readyWords := rfl
@[simp] theorem State.setBay_created (s : State) (c b : Nat) (x : Bay) : (s.setBay c b x).created = s.created := rfl
@[simp] theorem State.setBay_captures (s : State) (c b : Nat) (x : Bay) : (s.setBay c b x).captures = s.captures := rfl

@[simp] theorem State.setElem_firing (s : State) (c el : Nat) (x : Element) : (s.setElem c el x).firing = s.firing := rfl
@[simp] theorem State.setElem_agenda (s : State) (c el : Nat) (x : Element) : (s.setElem c el x).agenda = s.agenda := rfl
@[simp] theorem State.setElem_stepCount (s : State) (c el : Nat) (x : Element) : (s.setElem c el x).stepCount = s.stepCount := rfl
@[simp] theorem State.setElem_fresh (s : State) (c el : Nat) (x : Element) : (s.setElem c el x).fresh = s.fresh := rfl
@[simp] theorem State.setElem_cycles (s : State) (c el : Nat) (x : Element) : (s.setElem c el x).cycles = s.cycles := rfl
@[simp] theorem State.setElem_tick (s : State) (c el : Nat) (x : Element) : (s.setElem c el x).tick = s.tick := rfl
@[simp] theorem State.setElem_beat (s : State) (c el : Nat) (x : Element) : (s.setElem c el x).beat = s.beat := rfl
@[simp] theorem State.setElem_mem (s : State) (c el : Nat) (x : Element) : (s.setElem c el x).mem = s.mem := rfl
@[simp] theorem State.setElem_bays (s : State) (c el : Nat) (x : Element) : (s.setElem c el x).bays = s.bays := rfl
@[simp] theorem State.setElem_crucibles (s : State) (c el : Nat) (x : Element) : (s.setElem c el x).crucibles = s.crucibles := rfl
@[simp] theorem State.setElem_courses (s : State) (c el : Nat) (x : Element) : (s.setElem c el x).courses = s.courses := rfl
@[simp] theorem State.setElem_ctxs (s : State) (c el : Nat) (x : Element) : (s.setElem c el x).ctxs = s.ctxs := rfl
@[simp] theorem State.setElem_kernels (s : State) (c el : Nat) (x : Element) : (s.setElem c el x).kernels = s.kernels := rfl
@[simp] theorem State.setElem_planes (s : State) (c el : Nat) (x : Element) : (s.setElem c el x).planes = s.planes := rfl
@[simp] theorem State.setElem_transit (s : State) (c el : Nat) (x : Element) : (s.setElem c el x).transit = s.transit := rfl
@[simp] theorem State.setElem_eaveOut (s : State) (c el : Nat) (x : Element) : (s.setElem c el x).eaveOut = s.eaveOut := rfl
@[simp] theorem State.setElem_readyOut (s : State) (c el : Nat) (x : Element) : (s.setElem c el x).readyOut = s.readyOut := rfl
@[simp] theorem State.setElem_sidebandOut (s : State) (c el : Nat) (x : Element) : (s.setElem c el x).sidebandOut = s.sidebandOut := rfl
@[simp] theorem State.setElem_faults (s : State) (c el : Nat) (x : Element) : (s.setElem c el x).faults = s.faults := rfl
@[simp] theorem State.setElem_dooms (s : State) (c el : Nat) (x : Element) : (s.setElem c el x).dooms = s.dooms := rfl
@[simp] theorem State.setElem_barriers (s : State) (c el : Nat) (x : Element) : (s.setElem c el x).barriers = s.barriers := rfl
@[simp] theorem State.setElem_cells (s : State) (c el : Nat) (x : Element) : (s.setElem c el x).cells = s.cells := rfl
@[simp] theorem State.setElem_cellWaits (s : State) (c el : Nat) (x : Element) : (s.setElem c el x).cellWaits = s.cellWaits := rfl
@[simp] theorem State.setElem_stags (s : State) (c el : Nat) (x : Element) : (s.setElem c el x).stags = s.stags := rfl
@[simp] theorem State.setElem_selectors (s : State) (c el : Nat) (x : Element) : (s.setElem c el x).selectors = s.selectors := rfl
@[simp] theorem State.setElem_lineTags (s : State) (c el : Nat) (x : Element) : (s.setElem c el x).lineTags = s.lineTags := rfl
@[simp] theorem State.setElem_lostPages (s : State) (c el : Nat) (x : Element) : (s.setElem c el x).lostPages = s.lostPages := rfl
@[simp] theorem State.setElem_waited (s : State) (c el : Nat) (x : Element) : (s.setElem c el x).waited = s.waited := rfl
@[simp] theorem State.setElem_released (s : State) (c el : Nat) (x : Element) : (s.setElem c el x).released = s.released := rfl
@[simp] theorem State.setElem_structPages (s : State) (c el : Nat) (x : Element) : (s.setElem c el x).structPages = s.structPages := rfl
@[simp] theorem State.setElem_replay (s : State) (c el : Nat) (x : Element) : (s.setElem c el x).replay = s.replay := rfl
@[simp] theorem State.setElem_guardNotes (s : State) (c el : Nat) (x : Element) : (s.setElem c el x).guardNotes = s.guardNotes := rfl
@[simp] theorem State.setElem_plateWork (s : State) (c el : Nat) (x : Element) : (s.setElem c el x).plateWork = s.plateWork := rfl
@[simp] theorem State.setElem_migrated (s : State) (c el : Nat) (x : Element) : (s.setElem c el x).migrated = s.migrated := rfl
@[simp] theorem State.setElem_departed (s : State) (c el : Nat) (x : Element) : (s.setElem c el x).departed = s.departed := rfl
@[simp] theorem State.setElem_ridge (s : State) (c el : Nat) (x : Element) : (s.setElem c el x).ridge = s.ridge := rfl
@[simp] theorem State.setElem_slots (s : State) (c el : Nat) (x : Element) : (s.setElem c el x).slots = s.slots := rfl
@[simp] theorem State.setElem_rdgWaits (s : State) (c el : Nat) (x : Element) : (s.setElem c el x).rdgWaits = s.rdgWaits := rfl
@[simp] theorem State.setElem_rdgTicket (s : State) (c el : Nat) (x : Element) : (s.setElem c el x).rdgTicket = s.rdgTicket := rfl
@[simp] theorem State.setElem_changes (s : State) (c el : Nat) (x : Element) : (s.setElem c el x).changes = s.changes := rfl
@[simp] theorem State.setElem_journal (s : State) (c el : Nat) (x : Element) : (s.setElem c el x).journal = s.journal := rfl
@[simp] theorem State.setElem_journalCut (s : State) (c el : Nat) (x : Element) : (s.setElem c el x).journalCut = s.journalCut := rfl
@[simp] theorem State.setElem_saved (s : State) (c el : Nat) (x : Element) : (s.setElem c el x).saved = s.saved := rfl
@[simp] theorem State.setElem_hostIn (s : State) (c el : Nat) (x : Element) : (s.setElem c el x).hostIn = s.hostIn := rfl
@[simp] theorem State.setElem_windowIn (s : State) (c el : Nat) (x : Element) : (s.setElem c el x).windowIn = s.windowIn := rfl
@[simp] theorem State.setElem_hostOut (s : State) (c el : Nat) (x : Element) : (s.setElem c el x).hostOut = s.hostOut := rfl
@[simp] theorem State.setElem_hostMem (s : State) (c el : Nat) (x : Element) : (s.setElem c el x).hostMem = s.hostMem := rfl
@[simp] theorem State.setElem_sigs (s : State) (c el : Nat) (x : Element) : (s.setElem c el x).sigs = s.sigs := rfl
@[simp] theorem State.setElem_linkUp (s : State) (c el : Nat) (x : Element) : (s.setElem c el x).linkUp = s.linkUp := rfl
@[simp] theorem State.setElem_sideband (s : State) (c el : Nat) (x : Element) : (s.setElem c el x).sideband = s.sideband := rfl
@[simp] theorem State.setElem_policy (s : State) (c el : Nat) (x : Element) : (s.setElem c el x).policy = s.policy := rfl
@[simp] theorem State.setElem_telem (s : State) (c el : Nat) (x : Element) : (s.setElem c el x).telem = s.telem := rfl
@[simp] theorem State.setElem_reach (s : State) (c el : Nat) (x : Element) : (s.setElem c el x).reach = s.reach := rfl
@[simp] theorem State.setElem_readyWords (s : State) (c el : Nat) (x : Element) : (s.setElem c el x).readyWords = s.readyWords := rfl
@[simp] theorem State.setElem_created (s : State) (c el : Nat) (x : Element) : (s.setElem c el x).created = s.created := rfl
@[simp] theorem State.setElem_captures (s : State) (c el : Nat) (x : Element) : (s.setElem c el x).captures = s.captures := rfl

@[simp] theorem State.setCru_firing (s : State) (c n : Nat) (x : Crucible) : (s.setCru c n x).firing = s.firing := rfl
@[simp] theorem State.setCru_agenda (s : State) (c n : Nat) (x : Crucible) : (s.setCru c n x).agenda = s.agenda := rfl
@[simp] theorem State.setCru_stepCount (s : State) (c n : Nat) (x : Crucible) : (s.setCru c n x).stepCount = s.stepCount := rfl
@[simp] theorem State.setCru_fresh (s : State) (c n : Nat) (x : Crucible) : (s.setCru c n x).fresh = s.fresh := rfl
@[simp] theorem State.setCru_cycles (s : State) (c n : Nat) (x : Crucible) : (s.setCru c n x).cycles = s.cycles := rfl
@[simp] theorem State.setCru_tick (s : State) (c n : Nat) (x : Crucible) : (s.setCru c n x).tick = s.tick := rfl
@[simp] theorem State.setCru_beat (s : State) (c n : Nat) (x : Crucible) : (s.setCru c n x).beat = s.beat := rfl
@[simp] theorem State.setCru_mem (s : State) (c n : Nat) (x : Crucible) : (s.setCru c n x).mem = s.mem := rfl
@[simp] theorem State.setCru_bays (s : State) (c n : Nat) (x : Crucible) : (s.setCru c n x).bays = s.bays := rfl
@[simp] theorem State.setCru_elements (s : State) (c n : Nat) (x : Crucible) : (s.setCru c n x).elements = s.elements := rfl
@[simp] theorem State.setCru_courses (s : State) (c n : Nat) (x : Crucible) : (s.setCru c n x).courses = s.courses := rfl
@[simp] theorem State.setCru_ctxs (s : State) (c n : Nat) (x : Crucible) : (s.setCru c n x).ctxs = s.ctxs := rfl
@[simp] theorem State.setCru_kernels (s : State) (c n : Nat) (x : Crucible) : (s.setCru c n x).kernels = s.kernels := rfl
@[simp] theorem State.setCru_planes (s : State) (c n : Nat) (x : Crucible) : (s.setCru c n x).planes = s.planes := rfl
@[simp] theorem State.setCru_transit (s : State) (c n : Nat) (x : Crucible) : (s.setCru c n x).transit = s.transit := rfl
@[simp] theorem State.setCru_eaveOut (s : State) (c n : Nat) (x : Crucible) : (s.setCru c n x).eaveOut = s.eaveOut := rfl
@[simp] theorem State.setCru_readyOut (s : State) (c n : Nat) (x : Crucible) : (s.setCru c n x).readyOut = s.readyOut := rfl
@[simp] theorem State.setCru_sidebandOut (s : State) (c n : Nat) (x : Crucible) : (s.setCru c n x).sidebandOut = s.sidebandOut := rfl
@[simp] theorem State.setCru_faults (s : State) (c n : Nat) (x : Crucible) : (s.setCru c n x).faults = s.faults := rfl
@[simp] theorem State.setCru_dooms (s : State) (c n : Nat) (x : Crucible) : (s.setCru c n x).dooms = s.dooms := rfl
@[simp] theorem State.setCru_barriers (s : State) (c n : Nat) (x : Crucible) : (s.setCru c n x).barriers = s.barriers := rfl
@[simp] theorem State.setCru_cells (s : State) (c n : Nat) (x : Crucible) : (s.setCru c n x).cells = s.cells := rfl
@[simp] theorem State.setCru_cellWaits (s : State) (c n : Nat) (x : Crucible) : (s.setCru c n x).cellWaits = s.cellWaits := rfl
@[simp] theorem State.setCru_stags (s : State) (c n : Nat) (x : Crucible) : (s.setCru c n x).stags = s.stags := rfl
@[simp] theorem State.setCru_selectors (s : State) (c n : Nat) (x : Crucible) : (s.setCru c n x).selectors = s.selectors := rfl
@[simp] theorem State.setCru_lineTags (s : State) (c n : Nat) (x : Crucible) : (s.setCru c n x).lineTags = s.lineTags := rfl
@[simp] theorem State.setCru_lostPages (s : State) (c n : Nat) (x : Crucible) : (s.setCru c n x).lostPages = s.lostPages := rfl
@[simp] theorem State.setCru_waited (s : State) (c n : Nat) (x : Crucible) : (s.setCru c n x).waited = s.waited := rfl
@[simp] theorem State.setCru_released (s : State) (c n : Nat) (x : Crucible) : (s.setCru c n x).released = s.released := rfl
@[simp] theorem State.setCru_structPages (s : State) (c n : Nat) (x : Crucible) : (s.setCru c n x).structPages = s.structPages := rfl
@[simp] theorem State.setCru_replay (s : State) (c n : Nat) (x : Crucible) : (s.setCru c n x).replay = s.replay := rfl
@[simp] theorem State.setCru_guardNotes (s : State) (c n : Nat) (x : Crucible) : (s.setCru c n x).guardNotes = s.guardNotes := rfl
@[simp] theorem State.setCru_plateWork (s : State) (c n : Nat) (x : Crucible) : (s.setCru c n x).plateWork = s.plateWork := rfl
@[simp] theorem State.setCru_migrated (s : State) (c n : Nat) (x : Crucible) : (s.setCru c n x).migrated = s.migrated := rfl
@[simp] theorem State.setCru_departed (s : State) (c n : Nat) (x : Crucible) : (s.setCru c n x).departed = s.departed := rfl
@[simp] theorem State.setCru_ridge (s : State) (c n : Nat) (x : Crucible) : (s.setCru c n x).ridge = s.ridge := rfl
@[simp] theorem State.setCru_slots (s : State) (c n : Nat) (x : Crucible) : (s.setCru c n x).slots = s.slots := rfl
@[simp] theorem State.setCru_rdgWaits (s : State) (c n : Nat) (x : Crucible) : (s.setCru c n x).rdgWaits = s.rdgWaits := rfl
@[simp] theorem State.setCru_rdgTicket (s : State) (c n : Nat) (x : Crucible) : (s.setCru c n x).rdgTicket = s.rdgTicket := rfl
@[simp] theorem State.setCru_changes (s : State) (c n : Nat) (x : Crucible) : (s.setCru c n x).changes = s.changes := rfl
@[simp] theorem State.setCru_journal (s : State) (c n : Nat) (x : Crucible) : (s.setCru c n x).journal = s.journal := rfl
@[simp] theorem State.setCru_journalCut (s : State) (c n : Nat) (x : Crucible) : (s.setCru c n x).journalCut = s.journalCut := rfl
@[simp] theorem State.setCru_saved (s : State) (c n : Nat) (x : Crucible) : (s.setCru c n x).saved = s.saved := rfl
@[simp] theorem State.setCru_hostIn (s : State) (c n : Nat) (x : Crucible) : (s.setCru c n x).hostIn = s.hostIn := rfl
@[simp] theorem State.setCru_windowIn (s : State) (c n : Nat) (x : Crucible) : (s.setCru c n x).windowIn = s.windowIn := rfl
@[simp] theorem State.setCru_hostOut (s : State) (c n : Nat) (x : Crucible) : (s.setCru c n x).hostOut = s.hostOut := rfl
@[simp] theorem State.setCru_hostMem (s : State) (c n : Nat) (x : Crucible) : (s.setCru c n x).hostMem = s.hostMem := rfl
@[simp] theorem State.setCru_sigs (s : State) (c n : Nat) (x : Crucible) : (s.setCru c n x).sigs = s.sigs := rfl
@[simp] theorem State.setCru_linkUp (s : State) (c n : Nat) (x : Crucible) : (s.setCru c n x).linkUp = s.linkUp := rfl
@[simp] theorem State.setCru_sideband (s : State) (c n : Nat) (x : Crucible) : (s.setCru c n x).sideband = s.sideband := rfl
@[simp] theorem State.setCru_policy (s : State) (c n : Nat) (x : Crucible) : (s.setCru c n x).policy = s.policy := rfl
@[simp] theorem State.setCru_telem (s : State) (c n : Nat) (x : Crucible) : (s.setCru c n x).telem = s.telem := rfl
@[simp] theorem State.setCru_reach (s : State) (c n : Nat) (x : Crucible) : (s.setCru c n x).reach = s.reach := rfl
@[simp] theorem State.setCru_readyWords (s : State) (c n : Nat) (x : Crucible) : (s.setCru c n x).readyWords = s.readyWords := rfl
@[simp] theorem State.setCru_created (s : State) (c n : Nat) (x : Crucible) : (s.setCru c n x).created = s.created := rfl
@[simp] theorem State.setCru_captures (s : State) (c n : Nat) (x : Crucible) : (s.setCru c n x).captures = s.captures := rfl

@[simp] theorem State.modCrs_firing (s : State) (c : Nat) (f : Course → Course) : (s.modCrs c f).firing = s.firing := rfl
@[simp] theorem State.modCrs_agenda (s : State) (c : Nat) (f : Course → Course) : (s.modCrs c f).agenda = s.agenda := rfl
@[simp] theorem State.modCrs_stepCount (s : State) (c : Nat) (f : Course → Course) : (s.modCrs c f).stepCount = s.stepCount := rfl
@[simp] theorem State.modCrs_fresh (s : State) (c : Nat) (f : Course → Course) : (s.modCrs c f).fresh = s.fresh := rfl
@[simp] theorem State.modCrs_cycles (s : State) (c : Nat) (f : Course → Course) : (s.modCrs c f).cycles = s.cycles := rfl
@[simp] theorem State.modCrs_tick (s : State) (c : Nat) (f : Course → Course) : (s.modCrs c f).tick = s.tick := rfl
@[simp] theorem State.modCrs_beat (s : State) (c : Nat) (f : Course → Course) : (s.modCrs c f).beat = s.beat := rfl
@[simp] theorem State.modCrs_mem (s : State) (c : Nat) (f : Course → Course) : (s.modCrs c f).mem = s.mem := rfl
@[simp] theorem State.modCrs_bays (s : State) (c : Nat) (f : Course → Course) : (s.modCrs c f).bays = s.bays := rfl
@[simp] theorem State.modCrs_elements (s : State) (c : Nat) (f : Course → Course) : (s.modCrs c f).elements = s.elements := rfl
@[simp] theorem State.modCrs_crucibles (s : State) (c : Nat) (f : Course → Course) : (s.modCrs c f).crucibles = s.crucibles := rfl
@[simp] theorem State.modCrs_ctxs (s : State) (c : Nat) (f : Course → Course) : (s.modCrs c f).ctxs = s.ctxs := rfl
@[simp] theorem State.modCrs_kernels (s : State) (c : Nat) (f : Course → Course) : (s.modCrs c f).kernels = s.kernels := rfl
@[simp] theorem State.modCrs_planes (s : State) (c : Nat) (f : Course → Course) : (s.modCrs c f).planes = s.planes := rfl
@[simp] theorem State.modCrs_transit (s : State) (c : Nat) (f : Course → Course) : (s.modCrs c f).transit = s.transit := rfl
@[simp] theorem State.modCrs_eaveOut (s : State) (c : Nat) (f : Course → Course) : (s.modCrs c f).eaveOut = s.eaveOut := rfl
@[simp] theorem State.modCrs_readyOut (s : State) (c : Nat) (f : Course → Course) : (s.modCrs c f).readyOut = s.readyOut := rfl
@[simp] theorem State.modCrs_sidebandOut (s : State) (c : Nat) (f : Course → Course) : (s.modCrs c f).sidebandOut = s.sidebandOut := rfl
@[simp] theorem State.modCrs_faults (s : State) (c : Nat) (f : Course → Course) : (s.modCrs c f).faults = s.faults := rfl
@[simp] theorem State.modCrs_dooms (s : State) (c : Nat) (f : Course → Course) : (s.modCrs c f).dooms = s.dooms := rfl
@[simp] theorem State.modCrs_barriers (s : State) (c : Nat) (f : Course → Course) : (s.modCrs c f).barriers = s.barriers := rfl
@[simp] theorem State.modCrs_cells (s : State) (c : Nat) (f : Course → Course) : (s.modCrs c f).cells = s.cells := rfl
@[simp] theorem State.modCrs_cellWaits (s : State) (c : Nat) (f : Course → Course) : (s.modCrs c f).cellWaits = s.cellWaits := rfl
@[simp] theorem State.modCrs_stags (s : State) (c : Nat) (f : Course → Course) : (s.modCrs c f).stags = s.stags := rfl
@[simp] theorem State.modCrs_selectors (s : State) (c : Nat) (f : Course → Course) : (s.modCrs c f).selectors = s.selectors := rfl
@[simp] theorem State.modCrs_lineTags (s : State) (c : Nat) (f : Course → Course) : (s.modCrs c f).lineTags = s.lineTags := rfl
@[simp] theorem State.modCrs_lostPages (s : State) (c : Nat) (f : Course → Course) : (s.modCrs c f).lostPages = s.lostPages := rfl
@[simp] theorem State.modCrs_waited (s : State) (c : Nat) (f : Course → Course) : (s.modCrs c f).waited = s.waited := rfl
@[simp] theorem State.modCrs_released (s : State) (c : Nat) (f : Course → Course) : (s.modCrs c f).released = s.released := rfl
@[simp] theorem State.modCrs_structPages (s : State) (c : Nat) (f : Course → Course) : (s.modCrs c f).structPages = s.structPages := rfl
@[simp] theorem State.modCrs_replay (s : State) (c : Nat) (f : Course → Course) : (s.modCrs c f).replay = s.replay := rfl
@[simp] theorem State.modCrs_guardNotes (s : State) (c : Nat) (f : Course → Course) : (s.modCrs c f).guardNotes = s.guardNotes := rfl
@[simp] theorem State.modCrs_plateWork (s : State) (c : Nat) (f : Course → Course) : (s.modCrs c f).plateWork = s.plateWork := rfl
@[simp] theorem State.modCrs_migrated (s : State) (c : Nat) (f : Course → Course) : (s.modCrs c f).migrated = s.migrated := rfl
@[simp] theorem State.modCrs_departed (s : State) (c : Nat) (f : Course → Course) : (s.modCrs c f).departed = s.departed := rfl
@[simp] theorem State.modCrs_ridge (s : State) (c : Nat) (f : Course → Course) : (s.modCrs c f).ridge = s.ridge := rfl
@[simp] theorem State.modCrs_slots (s : State) (c : Nat) (f : Course → Course) : (s.modCrs c f).slots = s.slots := rfl
@[simp] theorem State.modCrs_rdgWaits (s : State) (c : Nat) (f : Course → Course) : (s.modCrs c f).rdgWaits = s.rdgWaits := rfl
@[simp] theorem State.modCrs_rdgTicket (s : State) (c : Nat) (f : Course → Course) : (s.modCrs c f).rdgTicket = s.rdgTicket := rfl
@[simp] theorem State.modCrs_changes (s : State) (c : Nat) (f : Course → Course) : (s.modCrs c f).changes = s.changes := rfl
@[simp] theorem State.modCrs_journal (s : State) (c : Nat) (f : Course → Course) : (s.modCrs c f).journal = s.journal := rfl
@[simp] theorem State.modCrs_journalCut (s : State) (c : Nat) (f : Course → Course) : (s.modCrs c f).journalCut = s.journalCut := rfl
@[simp] theorem State.modCrs_saved (s : State) (c : Nat) (f : Course → Course) : (s.modCrs c f).saved = s.saved := rfl
@[simp] theorem State.modCrs_hostIn (s : State) (c : Nat) (f : Course → Course) : (s.modCrs c f).hostIn = s.hostIn := rfl
@[simp] theorem State.modCrs_windowIn (s : State) (c : Nat) (f : Course → Course) : (s.modCrs c f).windowIn = s.windowIn := rfl
@[simp] theorem State.modCrs_hostOut (s : State) (c : Nat) (f : Course → Course) : (s.modCrs c f).hostOut = s.hostOut := rfl
@[simp] theorem State.modCrs_hostMem (s : State) (c : Nat) (f : Course → Course) : (s.modCrs c f).hostMem = s.hostMem := rfl
@[simp] theorem State.modCrs_sigs (s : State) (c : Nat) (f : Course → Course) : (s.modCrs c f).sigs = s.sigs := rfl
@[simp] theorem State.modCrs_linkUp (s : State) (c : Nat) (f : Course → Course) : (s.modCrs c f).linkUp = s.linkUp := rfl
@[simp] theorem State.modCrs_sideband (s : State) (c : Nat) (f : Course → Course) : (s.modCrs c f).sideband = s.sideband := rfl
@[simp] theorem State.modCrs_policy (s : State) (c : Nat) (f : Course → Course) : (s.modCrs c f).policy = s.policy := rfl
@[simp] theorem State.modCrs_telem (s : State) (c : Nat) (f : Course → Course) : (s.modCrs c f).telem = s.telem := rfl
@[simp] theorem State.modCrs_reach (s : State) (c : Nat) (f : Course → Course) : (s.modCrs c f).reach = s.reach := rfl
@[simp] theorem State.modCrs_readyWords (s : State) (c : Nat) (f : Course → Course) : (s.modCrs c f).readyWords = s.readyWords := rfl
@[simp] theorem State.modCrs_created (s : State) (c : Nat) (f : Course → Course) : (s.modCrs c f).created = s.created := rfl
@[simp] theorem State.modCrs_captures (s : State) (c : Nat) (f : Course → Course) : (s.modCrs c f).captures = s.captures := rfl

@[simp] theorem State.setBay_bays (s : State) (c b : Nat) (x : Bay) : (s.setBay c b x).bays = put s.bays (c * 256 + b) x := rfl
@[simp] theorem State.setElem_elements (s : State) (c el : Nat) (x : Element) : (s.setElem c el x).elements = put s.elements (c * 8192 + el) x := rfl
@[simp] theorem State.setCru_crucibles (s : State) (c n : Nat) (x : Crucible) : (s.setCru c n x).crucibles = put s.crucibles (c * 32 + n) x := rfl
@[simp] theorem State.modCrs_courses (s : State) (c : Nat) (f : Course → Course) : (s.modCrs c f).courses = put s.courses c (f (s.crs c)) := rfl

/-! ### Updates that pass through them -/

@[simp] theorem State.modBay_firing (s : State) (c b : Nat) (f : Bay → Bay) : (s.modBay c b f).firing = s.firing := rfl
@[simp] theorem State.modBay_agenda (s : State) (c b : Nat) (f : Bay → Bay) : (s.modBay c b f).agenda = s.agenda := rfl
@[simp] theorem State.modBay_stepCount (s : State) (c b : Nat) (f : Bay → Bay) : (s.modBay c b f).stepCount = s.stepCount := rfl
@[simp] theorem State.modBay_fresh (s : State) (c b : Nat) (f : Bay → Bay) : (s.modBay c b f).fresh = s.fresh := rfl
@[simp] theorem State.modBay_cycles (s : State) (c b : Nat) (f : Bay → Bay) : (s.modBay c b f).cycles = s.cycles := rfl
@[simp] theorem State.modBay_tick (s : State) (c b : Nat) (f : Bay → Bay) : (s.modBay c b f).tick = s.tick := rfl
@[simp] theorem State.modBay_beat (s : State) (c b : Nat) (f : Bay → Bay) : (s.modBay c b f).beat = s.beat := rfl
@[simp] theorem State.modBay_mem (s : State) (c b : Nat) (f : Bay → Bay) : (s.modBay c b f).mem = s.mem := rfl
@[simp] theorem State.modBay_elements (s : State) (c b : Nat) (f : Bay → Bay) : (s.modBay c b f).elements = s.elements := rfl
@[simp] theorem State.modBay_crucibles (s : State) (c b : Nat) (f : Bay → Bay) : (s.modBay c b f).crucibles = s.crucibles := rfl
@[simp] theorem State.modBay_courses (s : State) (c b : Nat) (f : Bay → Bay) : (s.modBay c b f).courses = s.courses := rfl
@[simp] theorem State.modBay_ctxs (s : State) (c b : Nat) (f : Bay → Bay) : (s.modBay c b f).ctxs = s.ctxs := rfl
@[simp] theorem State.modBay_kernels (s : State) (c b : Nat) (f : Bay → Bay) : (s.modBay c b f).kernels = s.kernels := rfl
@[simp] theorem State.modBay_planes (s : State) (c b : Nat) (f : Bay → Bay) : (s.modBay c b f).planes = s.planes := rfl
@[simp] theorem State.modBay_transit (s : State) (c b : Nat) (f : Bay → Bay) : (s.modBay c b f).transit = s.transit := rfl
@[simp] theorem State.modBay_eaveOut (s : State) (c b : Nat) (f : Bay → Bay) : (s.modBay c b f).eaveOut = s.eaveOut := rfl
@[simp] theorem State.modBay_readyOut (s : State) (c b : Nat) (f : Bay → Bay) : (s.modBay c b f).readyOut = s.readyOut := rfl
@[simp] theorem State.modBay_sidebandOut (s : State) (c b : Nat) (f : Bay → Bay) : (s.modBay c b f).sidebandOut = s.sidebandOut := rfl
@[simp] theorem State.modBay_faults (s : State) (c b : Nat) (f : Bay → Bay) : (s.modBay c b f).faults = s.faults := rfl
@[simp] theorem State.modBay_dooms (s : State) (c b : Nat) (f : Bay → Bay) : (s.modBay c b f).dooms = s.dooms := rfl
@[simp] theorem State.modBay_barriers (s : State) (c b : Nat) (f : Bay → Bay) : (s.modBay c b f).barriers = s.barriers := rfl
@[simp] theorem State.modBay_cells (s : State) (c b : Nat) (f : Bay → Bay) : (s.modBay c b f).cells = s.cells := rfl
@[simp] theorem State.modBay_cellWaits (s : State) (c b : Nat) (f : Bay → Bay) : (s.modBay c b f).cellWaits = s.cellWaits := rfl
@[simp] theorem State.modBay_stags (s : State) (c b : Nat) (f : Bay → Bay) : (s.modBay c b f).stags = s.stags := rfl
@[simp] theorem State.modBay_selectors (s : State) (c b : Nat) (f : Bay → Bay) : (s.modBay c b f).selectors = s.selectors := rfl
@[simp] theorem State.modBay_lineTags (s : State) (c b : Nat) (f : Bay → Bay) : (s.modBay c b f).lineTags = s.lineTags := rfl
@[simp] theorem State.modBay_lostPages (s : State) (c b : Nat) (f : Bay → Bay) : (s.modBay c b f).lostPages = s.lostPages := rfl
@[simp] theorem State.modBay_waited (s : State) (c b : Nat) (f : Bay → Bay) : (s.modBay c b f).waited = s.waited := rfl
@[simp] theorem State.modBay_released (s : State) (c b : Nat) (f : Bay → Bay) : (s.modBay c b f).released = s.released := rfl
@[simp] theorem State.modBay_structPages (s : State) (c b : Nat) (f : Bay → Bay) : (s.modBay c b f).structPages = s.structPages := rfl
@[simp] theorem State.modBay_replay (s : State) (c b : Nat) (f : Bay → Bay) : (s.modBay c b f).replay = s.replay := rfl
@[simp] theorem State.modBay_guardNotes (s : State) (c b : Nat) (f : Bay → Bay) : (s.modBay c b f).guardNotes = s.guardNotes := rfl
@[simp] theorem State.modBay_plateWork (s : State) (c b : Nat) (f : Bay → Bay) : (s.modBay c b f).plateWork = s.plateWork := rfl
@[simp] theorem State.modBay_migrated (s : State) (c b : Nat) (f : Bay → Bay) : (s.modBay c b f).migrated = s.migrated := rfl
@[simp] theorem State.modBay_departed (s : State) (c b : Nat) (f : Bay → Bay) : (s.modBay c b f).departed = s.departed := rfl
@[simp] theorem State.modBay_ridge (s : State) (c b : Nat) (f : Bay → Bay) : (s.modBay c b f).ridge = s.ridge := rfl
@[simp] theorem State.modBay_slots (s : State) (c b : Nat) (f : Bay → Bay) : (s.modBay c b f).slots = s.slots := rfl
@[simp] theorem State.modBay_rdgWaits (s : State) (c b : Nat) (f : Bay → Bay) : (s.modBay c b f).rdgWaits = s.rdgWaits := rfl
@[simp] theorem State.modBay_rdgTicket (s : State) (c b : Nat) (f : Bay → Bay) : (s.modBay c b f).rdgTicket = s.rdgTicket := rfl
@[simp] theorem State.modBay_changes (s : State) (c b : Nat) (f : Bay → Bay) : (s.modBay c b f).changes = s.changes := rfl
@[simp] theorem State.modBay_journal (s : State) (c b : Nat) (f : Bay → Bay) : (s.modBay c b f).journal = s.journal := rfl
@[simp] theorem State.modBay_journalCut (s : State) (c b : Nat) (f : Bay → Bay) : (s.modBay c b f).journalCut = s.journalCut := rfl
@[simp] theorem State.modBay_saved (s : State) (c b : Nat) (f : Bay → Bay) : (s.modBay c b f).saved = s.saved := rfl
@[simp] theorem State.modBay_hostIn (s : State) (c b : Nat) (f : Bay → Bay) : (s.modBay c b f).hostIn = s.hostIn := rfl
@[simp] theorem State.modBay_windowIn (s : State) (c b : Nat) (f : Bay → Bay) : (s.modBay c b f).windowIn = s.windowIn := rfl
@[simp] theorem State.modBay_hostOut (s : State) (c b : Nat) (f : Bay → Bay) : (s.modBay c b f).hostOut = s.hostOut := rfl
@[simp] theorem State.modBay_hostMem (s : State) (c b : Nat) (f : Bay → Bay) : (s.modBay c b f).hostMem = s.hostMem := rfl
@[simp] theorem State.modBay_sigs (s : State) (c b : Nat) (f : Bay → Bay) : (s.modBay c b f).sigs = s.sigs := rfl
@[simp] theorem State.modBay_linkUp (s : State) (c b : Nat) (f : Bay → Bay) : (s.modBay c b f).linkUp = s.linkUp := rfl
@[simp] theorem State.modBay_sideband (s : State) (c b : Nat) (f : Bay → Bay) : (s.modBay c b f).sideband = s.sideband := rfl
@[simp] theorem State.modBay_policy (s : State) (c b : Nat) (f : Bay → Bay) : (s.modBay c b f).policy = s.policy := rfl
@[simp] theorem State.modBay_telem (s : State) (c b : Nat) (f : Bay → Bay) : (s.modBay c b f).telem = s.telem := rfl
@[simp] theorem State.modBay_reach (s : State) (c b : Nat) (f : Bay → Bay) : (s.modBay c b f).reach = s.reach := rfl
@[simp] theorem State.modBay_readyWords (s : State) (c b : Nat) (f : Bay → Bay) : (s.modBay c b f).readyWords = s.readyWords := rfl
@[simp] theorem State.modBay_created (s : State) (c b : Nat) (f : Bay → Bay) : (s.modBay c b f).created = s.created := rfl
@[simp] theorem State.modBay_captures (s : State) (c b : Nat) (f : Bay → Bay) : (s.modBay c b f).captures = s.captures := rfl

@[simp] theorem State.modElem_firing (s : State) (c el : Nat) (f : Element → Element) : (s.modElem c el f).firing = s.firing := rfl
@[simp] theorem State.modElem_agenda (s : State) (c el : Nat) (f : Element → Element) : (s.modElem c el f).agenda = s.agenda := rfl
@[simp] theorem State.modElem_stepCount (s : State) (c el : Nat) (f : Element → Element) : (s.modElem c el f).stepCount = s.stepCount := rfl
@[simp] theorem State.modElem_fresh (s : State) (c el : Nat) (f : Element → Element) : (s.modElem c el f).fresh = s.fresh := rfl
@[simp] theorem State.modElem_cycles (s : State) (c el : Nat) (f : Element → Element) : (s.modElem c el f).cycles = s.cycles := rfl
@[simp] theorem State.modElem_tick (s : State) (c el : Nat) (f : Element → Element) : (s.modElem c el f).tick = s.tick := rfl
@[simp] theorem State.modElem_beat (s : State) (c el : Nat) (f : Element → Element) : (s.modElem c el f).beat = s.beat := rfl
@[simp] theorem State.modElem_mem (s : State) (c el : Nat) (f : Element → Element) : (s.modElem c el f).mem = s.mem := rfl
@[simp] theorem State.modElem_bays (s : State) (c el : Nat) (f : Element → Element) : (s.modElem c el f).bays = s.bays := rfl
@[simp] theorem State.modElem_crucibles (s : State) (c el : Nat) (f : Element → Element) : (s.modElem c el f).crucibles = s.crucibles := rfl
@[simp] theorem State.modElem_courses (s : State) (c el : Nat) (f : Element → Element) : (s.modElem c el f).courses = s.courses := rfl
@[simp] theorem State.modElem_ctxs (s : State) (c el : Nat) (f : Element → Element) : (s.modElem c el f).ctxs = s.ctxs := rfl
@[simp] theorem State.modElem_kernels (s : State) (c el : Nat) (f : Element → Element) : (s.modElem c el f).kernels = s.kernels := rfl
@[simp] theorem State.modElem_planes (s : State) (c el : Nat) (f : Element → Element) : (s.modElem c el f).planes = s.planes := rfl
@[simp] theorem State.modElem_transit (s : State) (c el : Nat) (f : Element → Element) : (s.modElem c el f).transit = s.transit := rfl
@[simp] theorem State.modElem_eaveOut (s : State) (c el : Nat) (f : Element → Element) : (s.modElem c el f).eaveOut = s.eaveOut := rfl
@[simp] theorem State.modElem_readyOut (s : State) (c el : Nat) (f : Element → Element) : (s.modElem c el f).readyOut = s.readyOut := rfl
@[simp] theorem State.modElem_sidebandOut (s : State) (c el : Nat) (f : Element → Element) : (s.modElem c el f).sidebandOut = s.sidebandOut := rfl
@[simp] theorem State.modElem_faults (s : State) (c el : Nat) (f : Element → Element) : (s.modElem c el f).faults = s.faults := rfl
@[simp] theorem State.modElem_dooms (s : State) (c el : Nat) (f : Element → Element) : (s.modElem c el f).dooms = s.dooms := rfl
@[simp] theorem State.modElem_barriers (s : State) (c el : Nat) (f : Element → Element) : (s.modElem c el f).barriers = s.barriers := rfl
@[simp] theorem State.modElem_cells (s : State) (c el : Nat) (f : Element → Element) : (s.modElem c el f).cells = s.cells := rfl
@[simp] theorem State.modElem_cellWaits (s : State) (c el : Nat) (f : Element → Element) : (s.modElem c el f).cellWaits = s.cellWaits := rfl
@[simp] theorem State.modElem_stags (s : State) (c el : Nat) (f : Element → Element) : (s.modElem c el f).stags = s.stags := rfl
@[simp] theorem State.modElem_selectors (s : State) (c el : Nat) (f : Element → Element) : (s.modElem c el f).selectors = s.selectors := rfl
@[simp] theorem State.modElem_lineTags (s : State) (c el : Nat) (f : Element → Element) : (s.modElem c el f).lineTags = s.lineTags := rfl
@[simp] theorem State.modElem_lostPages (s : State) (c el : Nat) (f : Element → Element) : (s.modElem c el f).lostPages = s.lostPages := rfl
@[simp] theorem State.modElem_waited (s : State) (c el : Nat) (f : Element → Element) : (s.modElem c el f).waited = s.waited := rfl
@[simp] theorem State.modElem_released (s : State) (c el : Nat) (f : Element → Element) : (s.modElem c el f).released = s.released := rfl
@[simp] theorem State.modElem_structPages (s : State) (c el : Nat) (f : Element → Element) : (s.modElem c el f).structPages = s.structPages := rfl
@[simp] theorem State.modElem_replay (s : State) (c el : Nat) (f : Element → Element) : (s.modElem c el f).replay = s.replay := rfl
@[simp] theorem State.modElem_guardNotes (s : State) (c el : Nat) (f : Element → Element) : (s.modElem c el f).guardNotes = s.guardNotes := rfl
@[simp] theorem State.modElem_plateWork (s : State) (c el : Nat) (f : Element → Element) : (s.modElem c el f).plateWork = s.plateWork := rfl
@[simp] theorem State.modElem_migrated (s : State) (c el : Nat) (f : Element → Element) : (s.modElem c el f).migrated = s.migrated := rfl
@[simp] theorem State.modElem_departed (s : State) (c el : Nat) (f : Element → Element) : (s.modElem c el f).departed = s.departed := rfl
@[simp] theorem State.modElem_ridge (s : State) (c el : Nat) (f : Element → Element) : (s.modElem c el f).ridge = s.ridge := rfl
@[simp] theorem State.modElem_slots (s : State) (c el : Nat) (f : Element → Element) : (s.modElem c el f).slots = s.slots := rfl
@[simp] theorem State.modElem_rdgWaits (s : State) (c el : Nat) (f : Element → Element) : (s.modElem c el f).rdgWaits = s.rdgWaits := rfl
@[simp] theorem State.modElem_rdgTicket (s : State) (c el : Nat) (f : Element → Element) : (s.modElem c el f).rdgTicket = s.rdgTicket := rfl
@[simp] theorem State.modElem_changes (s : State) (c el : Nat) (f : Element → Element) : (s.modElem c el f).changes = s.changes := rfl
@[simp] theorem State.modElem_journal (s : State) (c el : Nat) (f : Element → Element) : (s.modElem c el f).journal = s.journal := rfl
@[simp] theorem State.modElem_journalCut (s : State) (c el : Nat) (f : Element → Element) : (s.modElem c el f).journalCut = s.journalCut := rfl
@[simp] theorem State.modElem_saved (s : State) (c el : Nat) (f : Element → Element) : (s.modElem c el f).saved = s.saved := rfl
@[simp] theorem State.modElem_hostIn (s : State) (c el : Nat) (f : Element → Element) : (s.modElem c el f).hostIn = s.hostIn := rfl
@[simp] theorem State.modElem_windowIn (s : State) (c el : Nat) (f : Element → Element) : (s.modElem c el f).windowIn = s.windowIn := rfl
@[simp] theorem State.modElem_hostOut (s : State) (c el : Nat) (f : Element → Element) : (s.modElem c el f).hostOut = s.hostOut := rfl
@[simp] theorem State.modElem_hostMem (s : State) (c el : Nat) (f : Element → Element) : (s.modElem c el f).hostMem = s.hostMem := rfl
@[simp] theorem State.modElem_sigs (s : State) (c el : Nat) (f : Element → Element) : (s.modElem c el f).sigs = s.sigs := rfl
@[simp] theorem State.modElem_linkUp (s : State) (c el : Nat) (f : Element → Element) : (s.modElem c el f).linkUp = s.linkUp := rfl
@[simp] theorem State.modElem_sideband (s : State) (c el : Nat) (f : Element → Element) : (s.modElem c el f).sideband = s.sideband := rfl
@[simp] theorem State.modElem_policy (s : State) (c el : Nat) (f : Element → Element) : (s.modElem c el f).policy = s.policy := rfl
@[simp] theorem State.modElem_telem (s : State) (c el : Nat) (f : Element → Element) : (s.modElem c el f).telem = s.telem := rfl
@[simp] theorem State.modElem_reach (s : State) (c el : Nat) (f : Element → Element) : (s.modElem c el f).reach = s.reach := rfl
@[simp] theorem State.modElem_readyWords (s : State) (c el : Nat) (f : Element → Element) : (s.modElem c el f).readyWords = s.readyWords := rfl
@[simp] theorem State.modElem_created (s : State) (c el : Nat) (f : Element → Element) : (s.modElem c el f).created = s.created := rfl
@[simp] theorem State.modElem_captures (s : State) (c el : Nat) (f : Element → Element) : (s.modElem c el f).captures = s.captures := rfl

@[simp] theorem State.modCru_firing (s : State) (c n : Nat) (f : Crucible → Crucible) : (s.modCru c n f).firing = s.firing := rfl
@[simp] theorem State.modCru_agenda (s : State) (c n : Nat) (f : Crucible → Crucible) : (s.modCru c n f).agenda = s.agenda := rfl
@[simp] theorem State.modCru_stepCount (s : State) (c n : Nat) (f : Crucible → Crucible) : (s.modCru c n f).stepCount = s.stepCount := rfl
@[simp] theorem State.modCru_fresh (s : State) (c n : Nat) (f : Crucible → Crucible) : (s.modCru c n f).fresh = s.fresh := rfl
@[simp] theorem State.modCru_cycles (s : State) (c n : Nat) (f : Crucible → Crucible) : (s.modCru c n f).cycles = s.cycles := rfl
@[simp] theorem State.modCru_tick (s : State) (c n : Nat) (f : Crucible → Crucible) : (s.modCru c n f).tick = s.tick := rfl
@[simp] theorem State.modCru_beat (s : State) (c n : Nat) (f : Crucible → Crucible) : (s.modCru c n f).beat = s.beat := rfl
@[simp] theorem State.modCru_mem (s : State) (c n : Nat) (f : Crucible → Crucible) : (s.modCru c n f).mem = s.mem := rfl
@[simp] theorem State.modCru_bays (s : State) (c n : Nat) (f : Crucible → Crucible) : (s.modCru c n f).bays = s.bays := rfl
@[simp] theorem State.modCru_elements (s : State) (c n : Nat) (f : Crucible → Crucible) : (s.modCru c n f).elements = s.elements := rfl
@[simp] theorem State.modCru_courses (s : State) (c n : Nat) (f : Crucible → Crucible) : (s.modCru c n f).courses = s.courses := rfl
@[simp] theorem State.modCru_ctxs (s : State) (c n : Nat) (f : Crucible → Crucible) : (s.modCru c n f).ctxs = s.ctxs := rfl
@[simp] theorem State.modCru_kernels (s : State) (c n : Nat) (f : Crucible → Crucible) : (s.modCru c n f).kernels = s.kernels := rfl
@[simp] theorem State.modCru_planes (s : State) (c n : Nat) (f : Crucible → Crucible) : (s.modCru c n f).planes = s.planes := rfl
@[simp] theorem State.modCru_transit (s : State) (c n : Nat) (f : Crucible → Crucible) : (s.modCru c n f).transit = s.transit := rfl
@[simp] theorem State.modCru_eaveOut (s : State) (c n : Nat) (f : Crucible → Crucible) : (s.modCru c n f).eaveOut = s.eaveOut := rfl
@[simp] theorem State.modCru_readyOut (s : State) (c n : Nat) (f : Crucible → Crucible) : (s.modCru c n f).readyOut = s.readyOut := rfl
@[simp] theorem State.modCru_sidebandOut (s : State) (c n : Nat) (f : Crucible → Crucible) : (s.modCru c n f).sidebandOut = s.sidebandOut := rfl
@[simp] theorem State.modCru_faults (s : State) (c n : Nat) (f : Crucible → Crucible) : (s.modCru c n f).faults = s.faults := rfl
@[simp] theorem State.modCru_dooms (s : State) (c n : Nat) (f : Crucible → Crucible) : (s.modCru c n f).dooms = s.dooms := rfl
@[simp] theorem State.modCru_barriers (s : State) (c n : Nat) (f : Crucible → Crucible) : (s.modCru c n f).barriers = s.barriers := rfl
@[simp] theorem State.modCru_cells (s : State) (c n : Nat) (f : Crucible → Crucible) : (s.modCru c n f).cells = s.cells := rfl
@[simp] theorem State.modCru_cellWaits (s : State) (c n : Nat) (f : Crucible → Crucible) : (s.modCru c n f).cellWaits = s.cellWaits := rfl
@[simp] theorem State.modCru_stags (s : State) (c n : Nat) (f : Crucible → Crucible) : (s.modCru c n f).stags = s.stags := rfl
@[simp] theorem State.modCru_selectors (s : State) (c n : Nat) (f : Crucible → Crucible) : (s.modCru c n f).selectors = s.selectors := rfl
@[simp] theorem State.modCru_lineTags (s : State) (c n : Nat) (f : Crucible → Crucible) : (s.modCru c n f).lineTags = s.lineTags := rfl
@[simp] theorem State.modCru_lostPages (s : State) (c n : Nat) (f : Crucible → Crucible) : (s.modCru c n f).lostPages = s.lostPages := rfl
@[simp] theorem State.modCru_waited (s : State) (c n : Nat) (f : Crucible → Crucible) : (s.modCru c n f).waited = s.waited := rfl
@[simp] theorem State.modCru_released (s : State) (c n : Nat) (f : Crucible → Crucible) : (s.modCru c n f).released = s.released := rfl
@[simp] theorem State.modCru_structPages (s : State) (c n : Nat) (f : Crucible → Crucible) : (s.modCru c n f).structPages = s.structPages := rfl
@[simp] theorem State.modCru_replay (s : State) (c n : Nat) (f : Crucible → Crucible) : (s.modCru c n f).replay = s.replay := rfl
@[simp] theorem State.modCru_guardNotes (s : State) (c n : Nat) (f : Crucible → Crucible) : (s.modCru c n f).guardNotes = s.guardNotes := rfl
@[simp] theorem State.modCru_plateWork (s : State) (c n : Nat) (f : Crucible → Crucible) : (s.modCru c n f).plateWork = s.plateWork := rfl
@[simp] theorem State.modCru_migrated (s : State) (c n : Nat) (f : Crucible → Crucible) : (s.modCru c n f).migrated = s.migrated := rfl
@[simp] theorem State.modCru_departed (s : State) (c n : Nat) (f : Crucible → Crucible) : (s.modCru c n f).departed = s.departed := rfl
@[simp] theorem State.modCru_ridge (s : State) (c n : Nat) (f : Crucible → Crucible) : (s.modCru c n f).ridge = s.ridge := rfl
@[simp] theorem State.modCru_slots (s : State) (c n : Nat) (f : Crucible → Crucible) : (s.modCru c n f).slots = s.slots := rfl
@[simp] theorem State.modCru_rdgWaits (s : State) (c n : Nat) (f : Crucible → Crucible) : (s.modCru c n f).rdgWaits = s.rdgWaits := rfl
@[simp] theorem State.modCru_rdgTicket (s : State) (c n : Nat) (f : Crucible → Crucible) : (s.modCru c n f).rdgTicket = s.rdgTicket := rfl
@[simp] theorem State.modCru_changes (s : State) (c n : Nat) (f : Crucible → Crucible) : (s.modCru c n f).changes = s.changes := rfl
@[simp] theorem State.modCru_journal (s : State) (c n : Nat) (f : Crucible → Crucible) : (s.modCru c n f).journal = s.journal := rfl
@[simp] theorem State.modCru_journalCut (s : State) (c n : Nat) (f : Crucible → Crucible) : (s.modCru c n f).journalCut = s.journalCut := rfl
@[simp] theorem State.modCru_saved (s : State) (c n : Nat) (f : Crucible → Crucible) : (s.modCru c n f).saved = s.saved := rfl
@[simp] theorem State.modCru_hostIn (s : State) (c n : Nat) (f : Crucible → Crucible) : (s.modCru c n f).hostIn = s.hostIn := rfl
@[simp] theorem State.modCru_windowIn (s : State) (c n : Nat) (f : Crucible → Crucible) : (s.modCru c n f).windowIn = s.windowIn := rfl
@[simp] theorem State.modCru_hostOut (s : State) (c n : Nat) (f : Crucible → Crucible) : (s.modCru c n f).hostOut = s.hostOut := rfl
@[simp] theorem State.modCru_hostMem (s : State) (c n : Nat) (f : Crucible → Crucible) : (s.modCru c n f).hostMem = s.hostMem := rfl
@[simp] theorem State.modCru_sigs (s : State) (c n : Nat) (f : Crucible → Crucible) : (s.modCru c n f).sigs = s.sigs := rfl
@[simp] theorem State.modCru_linkUp (s : State) (c n : Nat) (f : Crucible → Crucible) : (s.modCru c n f).linkUp = s.linkUp := rfl
@[simp] theorem State.modCru_sideband (s : State) (c n : Nat) (f : Crucible → Crucible) : (s.modCru c n f).sideband = s.sideband := rfl
@[simp] theorem State.modCru_policy (s : State) (c n : Nat) (f : Crucible → Crucible) : (s.modCru c n f).policy = s.policy := rfl
@[simp] theorem State.modCru_telem (s : State) (c n : Nat) (f : Crucible → Crucible) : (s.modCru c n f).telem = s.telem := rfl
@[simp] theorem State.modCru_reach (s : State) (c n : Nat) (f : Crucible → Crucible) : (s.modCru c n f).reach = s.reach := rfl
@[simp] theorem State.modCru_readyWords (s : State) (c n : Nat) (f : Crucible → Crucible) : (s.modCru c n f).readyWords = s.readyWords := rfl
@[simp] theorem State.modCru_created (s : State) (c n : Nat) (f : Crucible → Crucible) : (s.modCru c n f).created = s.created := rfl
@[simp] theorem State.modCru_captures (s : State) (c n : Nat) (f : Crucible → Crucible) : (s.modCru c n f).captures = s.captures := rfl

@[simp] theorem State.setFrame_firing (s : State) (c b ft : Nat) (x : Frame) : (s.setFrame c b ft x).firing = s.firing := rfl
@[simp] theorem State.setFrame_agenda (s : State) (c b ft : Nat) (x : Frame) : (s.setFrame c b ft x).agenda = s.agenda := rfl
@[simp] theorem State.setFrame_stepCount (s : State) (c b ft : Nat) (x : Frame) : (s.setFrame c b ft x).stepCount = s.stepCount := rfl
@[simp] theorem State.setFrame_fresh (s : State) (c b ft : Nat) (x : Frame) : (s.setFrame c b ft x).fresh = s.fresh := rfl
@[simp] theorem State.setFrame_cycles (s : State) (c b ft : Nat) (x : Frame) : (s.setFrame c b ft x).cycles = s.cycles := rfl
@[simp] theorem State.setFrame_tick (s : State) (c b ft : Nat) (x : Frame) : (s.setFrame c b ft x).tick = s.tick := rfl
@[simp] theorem State.setFrame_beat (s : State) (c b ft : Nat) (x : Frame) : (s.setFrame c b ft x).beat = s.beat := rfl
@[simp] theorem State.setFrame_mem (s : State) (c b ft : Nat) (x : Frame) : (s.setFrame c b ft x).mem = s.mem := rfl
@[simp] theorem State.setFrame_elements (s : State) (c b ft : Nat) (x : Frame) : (s.setFrame c b ft x).elements = s.elements := rfl
@[simp] theorem State.setFrame_crucibles (s : State) (c b ft : Nat) (x : Frame) : (s.setFrame c b ft x).crucibles = s.crucibles := rfl
@[simp] theorem State.setFrame_courses (s : State) (c b ft : Nat) (x : Frame) : (s.setFrame c b ft x).courses = s.courses := rfl
@[simp] theorem State.setFrame_ctxs (s : State) (c b ft : Nat) (x : Frame) : (s.setFrame c b ft x).ctxs = s.ctxs := rfl
@[simp] theorem State.setFrame_kernels (s : State) (c b ft : Nat) (x : Frame) : (s.setFrame c b ft x).kernels = s.kernels := rfl
@[simp] theorem State.setFrame_planes (s : State) (c b ft : Nat) (x : Frame) : (s.setFrame c b ft x).planes = s.planes := rfl
@[simp] theorem State.setFrame_transit (s : State) (c b ft : Nat) (x : Frame) : (s.setFrame c b ft x).transit = s.transit := rfl
@[simp] theorem State.setFrame_eaveOut (s : State) (c b ft : Nat) (x : Frame) : (s.setFrame c b ft x).eaveOut = s.eaveOut := rfl
@[simp] theorem State.setFrame_readyOut (s : State) (c b ft : Nat) (x : Frame) : (s.setFrame c b ft x).readyOut = s.readyOut := rfl
@[simp] theorem State.setFrame_sidebandOut (s : State) (c b ft : Nat) (x : Frame) : (s.setFrame c b ft x).sidebandOut = s.sidebandOut := rfl
@[simp] theorem State.setFrame_faults (s : State) (c b ft : Nat) (x : Frame) : (s.setFrame c b ft x).faults = s.faults := rfl
@[simp] theorem State.setFrame_dooms (s : State) (c b ft : Nat) (x : Frame) : (s.setFrame c b ft x).dooms = s.dooms := rfl
@[simp] theorem State.setFrame_barriers (s : State) (c b ft : Nat) (x : Frame) : (s.setFrame c b ft x).barriers = s.barriers := rfl
@[simp] theorem State.setFrame_cells (s : State) (c b ft : Nat) (x : Frame) : (s.setFrame c b ft x).cells = s.cells := rfl
@[simp] theorem State.setFrame_cellWaits (s : State) (c b ft : Nat) (x : Frame) : (s.setFrame c b ft x).cellWaits = s.cellWaits := rfl
@[simp] theorem State.setFrame_stags (s : State) (c b ft : Nat) (x : Frame) : (s.setFrame c b ft x).stags = s.stags := rfl
@[simp] theorem State.setFrame_selectors (s : State) (c b ft : Nat) (x : Frame) : (s.setFrame c b ft x).selectors = s.selectors := rfl
@[simp] theorem State.setFrame_lineTags (s : State) (c b ft : Nat) (x : Frame) : (s.setFrame c b ft x).lineTags = s.lineTags := rfl
@[simp] theorem State.setFrame_lostPages (s : State) (c b ft : Nat) (x : Frame) : (s.setFrame c b ft x).lostPages = s.lostPages := rfl
@[simp] theorem State.setFrame_waited (s : State) (c b ft : Nat) (x : Frame) : (s.setFrame c b ft x).waited = s.waited := rfl
@[simp] theorem State.setFrame_released (s : State) (c b ft : Nat) (x : Frame) : (s.setFrame c b ft x).released = s.released := rfl
@[simp] theorem State.setFrame_structPages (s : State) (c b ft : Nat) (x : Frame) : (s.setFrame c b ft x).structPages = s.structPages := rfl
@[simp] theorem State.setFrame_replay (s : State) (c b ft : Nat) (x : Frame) : (s.setFrame c b ft x).replay = s.replay := rfl
@[simp] theorem State.setFrame_guardNotes (s : State) (c b ft : Nat) (x : Frame) : (s.setFrame c b ft x).guardNotes = s.guardNotes := rfl
@[simp] theorem State.setFrame_plateWork (s : State) (c b ft : Nat) (x : Frame) : (s.setFrame c b ft x).plateWork = s.plateWork := rfl
@[simp] theorem State.setFrame_migrated (s : State) (c b ft : Nat) (x : Frame) : (s.setFrame c b ft x).migrated = s.migrated := rfl
@[simp] theorem State.setFrame_departed (s : State) (c b ft : Nat) (x : Frame) : (s.setFrame c b ft x).departed = s.departed := rfl
@[simp] theorem State.setFrame_ridge (s : State) (c b ft : Nat) (x : Frame) : (s.setFrame c b ft x).ridge = s.ridge := rfl
@[simp] theorem State.setFrame_slots (s : State) (c b ft : Nat) (x : Frame) : (s.setFrame c b ft x).slots = s.slots := rfl
@[simp] theorem State.setFrame_rdgWaits (s : State) (c b ft : Nat) (x : Frame) : (s.setFrame c b ft x).rdgWaits = s.rdgWaits := rfl
@[simp] theorem State.setFrame_rdgTicket (s : State) (c b ft : Nat) (x : Frame) : (s.setFrame c b ft x).rdgTicket = s.rdgTicket := rfl
@[simp] theorem State.setFrame_changes (s : State) (c b ft : Nat) (x : Frame) : (s.setFrame c b ft x).changes = s.changes := rfl
@[simp] theorem State.setFrame_journal (s : State) (c b ft : Nat) (x : Frame) : (s.setFrame c b ft x).journal = s.journal := rfl
@[simp] theorem State.setFrame_journalCut (s : State) (c b ft : Nat) (x : Frame) : (s.setFrame c b ft x).journalCut = s.journalCut := rfl
@[simp] theorem State.setFrame_saved (s : State) (c b ft : Nat) (x : Frame) : (s.setFrame c b ft x).saved = s.saved := rfl
@[simp] theorem State.setFrame_hostIn (s : State) (c b ft : Nat) (x : Frame) : (s.setFrame c b ft x).hostIn = s.hostIn := rfl
@[simp] theorem State.setFrame_windowIn (s : State) (c b ft : Nat) (x : Frame) : (s.setFrame c b ft x).windowIn = s.windowIn := rfl
@[simp] theorem State.setFrame_hostOut (s : State) (c b ft : Nat) (x : Frame) : (s.setFrame c b ft x).hostOut = s.hostOut := rfl
@[simp] theorem State.setFrame_hostMem (s : State) (c b ft : Nat) (x : Frame) : (s.setFrame c b ft x).hostMem = s.hostMem := rfl
@[simp] theorem State.setFrame_sigs (s : State) (c b ft : Nat) (x : Frame) : (s.setFrame c b ft x).sigs = s.sigs := rfl
@[simp] theorem State.setFrame_linkUp (s : State) (c b ft : Nat) (x : Frame) : (s.setFrame c b ft x).linkUp = s.linkUp := rfl
@[simp] theorem State.setFrame_sideband (s : State) (c b ft : Nat) (x : Frame) : (s.setFrame c b ft x).sideband = s.sideband := rfl
@[simp] theorem State.setFrame_policy (s : State) (c b ft : Nat) (x : Frame) : (s.setFrame c b ft x).policy = s.policy := rfl
@[simp] theorem State.setFrame_telem (s : State) (c b ft : Nat) (x : Frame) : (s.setFrame c b ft x).telem = s.telem := rfl
@[simp] theorem State.setFrame_reach (s : State) (c b ft : Nat) (x : Frame) : (s.setFrame c b ft x).reach = s.reach := rfl
@[simp] theorem State.setFrame_readyWords (s : State) (c b ft : Nat) (x : Frame) : (s.setFrame c b ft x).readyWords = s.readyWords := rfl
@[simp] theorem State.setFrame_created (s : State) (c b ft : Nat) (x : Frame) : (s.setFrame c b ft x).created = s.created := rfl
@[simp] theorem State.setFrame_captures (s : State) (c b ft : Nat) (x : Frame) : (s.setFrame c b ft x).captures = s.captures := rfl

@[simp] theorem State.delFrame_firing (s : State) (c b ft : Nat) : (s.delFrame c b ft).firing = s.firing := rfl
@[simp] theorem State.delFrame_agenda (s : State) (c b ft : Nat) : (s.delFrame c b ft).agenda = s.agenda := rfl
@[simp] theorem State.delFrame_stepCount (s : State) (c b ft : Nat) : (s.delFrame c b ft).stepCount = s.stepCount := rfl
@[simp] theorem State.delFrame_fresh (s : State) (c b ft : Nat) : (s.delFrame c b ft).fresh = s.fresh := rfl
@[simp] theorem State.delFrame_cycles (s : State) (c b ft : Nat) : (s.delFrame c b ft).cycles = s.cycles := rfl
@[simp] theorem State.delFrame_tick (s : State) (c b ft : Nat) : (s.delFrame c b ft).tick = s.tick := rfl
@[simp] theorem State.delFrame_beat (s : State) (c b ft : Nat) : (s.delFrame c b ft).beat = s.beat := rfl
@[simp] theorem State.delFrame_mem (s : State) (c b ft : Nat) : (s.delFrame c b ft).mem = s.mem := rfl
@[simp] theorem State.delFrame_elements (s : State) (c b ft : Nat) : (s.delFrame c b ft).elements = s.elements := rfl
@[simp] theorem State.delFrame_crucibles (s : State) (c b ft : Nat) : (s.delFrame c b ft).crucibles = s.crucibles := rfl
@[simp] theorem State.delFrame_courses (s : State) (c b ft : Nat) : (s.delFrame c b ft).courses = s.courses := rfl
@[simp] theorem State.delFrame_ctxs (s : State) (c b ft : Nat) : (s.delFrame c b ft).ctxs = s.ctxs := rfl
@[simp] theorem State.delFrame_kernels (s : State) (c b ft : Nat) : (s.delFrame c b ft).kernels = s.kernels := rfl
@[simp] theorem State.delFrame_planes (s : State) (c b ft : Nat) : (s.delFrame c b ft).planes = s.planes := rfl
@[simp] theorem State.delFrame_transit (s : State) (c b ft : Nat) : (s.delFrame c b ft).transit = s.transit := rfl
@[simp] theorem State.delFrame_eaveOut (s : State) (c b ft : Nat) : (s.delFrame c b ft).eaveOut = s.eaveOut := rfl
@[simp] theorem State.delFrame_readyOut (s : State) (c b ft : Nat) : (s.delFrame c b ft).readyOut = s.readyOut := rfl
@[simp] theorem State.delFrame_sidebandOut (s : State) (c b ft : Nat) : (s.delFrame c b ft).sidebandOut = s.sidebandOut := rfl
@[simp] theorem State.delFrame_faults (s : State) (c b ft : Nat) : (s.delFrame c b ft).faults = s.faults := rfl
@[simp] theorem State.delFrame_dooms (s : State) (c b ft : Nat) : (s.delFrame c b ft).dooms = s.dooms := rfl
@[simp] theorem State.delFrame_barriers (s : State) (c b ft : Nat) : (s.delFrame c b ft).barriers = s.barriers := rfl
@[simp] theorem State.delFrame_cells (s : State) (c b ft : Nat) : (s.delFrame c b ft).cells = s.cells := rfl
@[simp] theorem State.delFrame_cellWaits (s : State) (c b ft : Nat) : (s.delFrame c b ft).cellWaits = s.cellWaits := rfl
@[simp] theorem State.delFrame_stags (s : State) (c b ft : Nat) : (s.delFrame c b ft).stags = s.stags := rfl
@[simp] theorem State.delFrame_selectors (s : State) (c b ft : Nat) : (s.delFrame c b ft).selectors = s.selectors := rfl
@[simp] theorem State.delFrame_lineTags (s : State) (c b ft : Nat) : (s.delFrame c b ft).lineTags = s.lineTags := rfl
@[simp] theorem State.delFrame_lostPages (s : State) (c b ft : Nat) : (s.delFrame c b ft).lostPages = s.lostPages := rfl
@[simp] theorem State.delFrame_waited (s : State) (c b ft : Nat) : (s.delFrame c b ft).waited = s.waited := rfl
@[simp] theorem State.delFrame_released (s : State) (c b ft : Nat) : (s.delFrame c b ft).released = s.released := rfl
@[simp] theorem State.delFrame_structPages (s : State) (c b ft : Nat) : (s.delFrame c b ft).structPages = s.structPages := rfl
@[simp] theorem State.delFrame_replay (s : State) (c b ft : Nat) : (s.delFrame c b ft).replay = s.replay := rfl
@[simp] theorem State.delFrame_guardNotes (s : State) (c b ft : Nat) : (s.delFrame c b ft).guardNotes = s.guardNotes := rfl
@[simp] theorem State.delFrame_plateWork (s : State) (c b ft : Nat) : (s.delFrame c b ft).plateWork = s.plateWork := rfl
@[simp] theorem State.delFrame_migrated (s : State) (c b ft : Nat) : (s.delFrame c b ft).migrated = s.migrated := rfl
@[simp] theorem State.delFrame_departed (s : State) (c b ft : Nat) : (s.delFrame c b ft).departed = s.departed := rfl
@[simp] theorem State.delFrame_ridge (s : State) (c b ft : Nat) : (s.delFrame c b ft).ridge = s.ridge := rfl
@[simp] theorem State.delFrame_slots (s : State) (c b ft : Nat) : (s.delFrame c b ft).slots = s.slots := rfl
@[simp] theorem State.delFrame_rdgWaits (s : State) (c b ft : Nat) : (s.delFrame c b ft).rdgWaits = s.rdgWaits := rfl
@[simp] theorem State.delFrame_rdgTicket (s : State) (c b ft : Nat) : (s.delFrame c b ft).rdgTicket = s.rdgTicket := rfl
@[simp] theorem State.delFrame_changes (s : State) (c b ft : Nat) : (s.delFrame c b ft).changes = s.changes := rfl
@[simp] theorem State.delFrame_journal (s : State) (c b ft : Nat) : (s.delFrame c b ft).journal = s.journal := rfl
@[simp] theorem State.delFrame_journalCut (s : State) (c b ft : Nat) : (s.delFrame c b ft).journalCut = s.journalCut := rfl
@[simp] theorem State.delFrame_saved (s : State) (c b ft : Nat) : (s.delFrame c b ft).saved = s.saved := rfl
@[simp] theorem State.delFrame_hostIn (s : State) (c b ft : Nat) : (s.delFrame c b ft).hostIn = s.hostIn := rfl
@[simp] theorem State.delFrame_windowIn (s : State) (c b ft : Nat) : (s.delFrame c b ft).windowIn = s.windowIn := rfl
@[simp] theorem State.delFrame_hostOut (s : State) (c b ft : Nat) : (s.delFrame c b ft).hostOut = s.hostOut := rfl
@[simp] theorem State.delFrame_hostMem (s : State) (c b ft : Nat) : (s.delFrame c b ft).hostMem = s.hostMem := rfl
@[simp] theorem State.delFrame_sigs (s : State) (c b ft : Nat) : (s.delFrame c b ft).sigs = s.sigs := rfl
@[simp] theorem State.delFrame_linkUp (s : State) (c b ft : Nat) : (s.delFrame c b ft).linkUp = s.linkUp := rfl
@[simp] theorem State.delFrame_sideband (s : State) (c b ft : Nat) : (s.delFrame c b ft).sideband = s.sideband := rfl
@[simp] theorem State.delFrame_policy (s : State) (c b ft : Nat) : (s.delFrame c b ft).policy = s.policy := rfl
@[simp] theorem State.delFrame_telem (s : State) (c b ft : Nat) : (s.delFrame c b ft).telem = s.telem := rfl
@[simp] theorem State.delFrame_reach (s : State) (c b ft : Nat) : (s.delFrame c b ft).reach = s.reach := rfl
@[simp] theorem State.delFrame_readyWords (s : State) (c b ft : Nat) : (s.delFrame c b ft).readyWords = s.readyWords := rfl
@[simp] theorem State.delFrame_created (s : State) (c b ft : Nat) : (s.delFrame c b ft).created = s.created := rfl
@[simp] theorem State.delFrame_captures (s : State) (c b ft : Nat) : (s.delFrame c b ft).captures = s.captures := rfl

@[simp] theorem State.modPool_firing (s : State) (c b p : Nat) (f : Pool → Pool) : (s.modPool c b p f).firing = s.firing := rfl
@[simp] theorem State.modPool_agenda (s : State) (c b p : Nat) (f : Pool → Pool) : (s.modPool c b p f).agenda = s.agenda := rfl
@[simp] theorem State.modPool_stepCount (s : State) (c b p : Nat) (f : Pool → Pool) : (s.modPool c b p f).stepCount = s.stepCount := rfl
@[simp] theorem State.modPool_fresh (s : State) (c b p : Nat) (f : Pool → Pool) : (s.modPool c b p f).fresh = s.fresh := rfl
@[simp] theorem State.modPool_cycles (s : State) (c b p : Nat) (f : Pool → Pool) : (s.modPool c b p f).cycles = s.cycles := rfl
@[simp] theorem State.modPool_tick (s : State) (c b p : Nat) (f : Pool → Pool) : (s.modPool c b p f).tick = s.tick := rfl
@[simp] theorem State.modPool_beat (s : State) (c b p : Nat) (f : Pool → Pool) : (s.modPool c b p f).beat = s.beat := rfl
@[simp] theorem State.modPool_mem (s : State) (c b p : Nat) (f : Pool → Pool) : (s.modPool c b p f).mem = s.mem := rfl
@[simp] theorem State.modPool_elements (s : State) (c b p : Nat) (f : Pool → Pool) : (s.modPool c b p f).elements = s.elements := rfl
@[simp] theorem State.modPool_crucibles (s : State) (c b p : Nat) (f : Pool → Pool) : (s.modPool c b p f).crucibles = s.crucibles := rfl
@[simp] theorem State.modPool_courses (s : State) (c b p : Nat) (f : Pool → Pool) : (s.modPool c b p f).courses = s.courses := rfl
@[simp] theorem State.modPool_ctxs (s : State) (c b p : Nat) (f : Pool → Pool) : (s.modPool c b p f).ctxs = s.ctxs := rfl
@[simp] theorem State.modPool_kernels (s : State) (c b p : Nat) (f : Pool → Pool) : (s.modPool c b p f).kernels = s.kernels := rfl
@[simp] theorem State.modPool_planes (s : State) (c b p : Nat) (f : Pool → Pool) : (s.modPool c b p f).planes = s.planes := rfl
@[simp] theorem State.modPool_transit (s : State) (c b p : Nat) (f : Pool → Pool) : (s.modPool c b p f).transit = s.transit := rfl
@[simp] theorem State.modPool_eaveOut (s : State) (c b p : Nat) (f : Pool → Pool) : (s.modPool c b p f).eaveOut = s.eaveOut := rfl
@[simp] theorem State.modPool_readyOut (s : State) (c b p : Nat) (f : Pool → Pool) : (s.modPool c b p f).readyOut = s.readyOut := rfl
@[simp] theorem State.modPool_sidebandOut (s : State) (c b p : Nat) (f : Pool → Pool) : (s.modPool c b p f).sidebandOut = s.sidebandOut := rfl
@[simp] theorem State.modPool_faults (s : State) (c b p : Nat) (f : Pool → Pool) : (s.modPool c b p f).faults = s.faults := rfl
@[simp] theorem State.modPool_dooms (s : State) (c b p : Nat) (f : Pool → Pool) : (s.modPool c b p f).dooms = s.dooms := rfl
@[simp] theorem State.modPool_barriers (s : State) (c b p : Nat) (f : Pool → Pool) : (s.modPool c b p f).barriers = s.barriers := rfl
@[simp] theorem State.modPool_cells (s : State) (c b p : Nat) (f : Pool → Pool) : (s.modPool c b p f).cells = s.cells := rfl
@[simp] theorem State.modPool_cellWaits (s : State) (c b p : Nat) (f : Pool → Pool) : (s.modPool c b p f).cellWaits = s.cellWaits := rfl
@[simp] theorem State.modPool_stags (s : State) (c b p : Nat) (f : Pool → Pool) : (s.modPool c b p f).stags = s.stags := rfl
@[simp] theorem State.modPool_selectors (s : State) (c b p : Nat) (f : Pool → Pool) : (s.modPool c b p f).selectors = s.selectors := rfl
@[simp] theorem State.modPool_lineTags (s : State) (c b p : Nat) (f : Pool → Pool) : (s.modPool c b p f).lineTags = s.lineTags := rfl
@[simp] theorem State.modPool_lostPages (s : State) (c b p : Nat) (f : Pool → Pool) : (s.modPool c b p f).lostPages = s.lostPages := rfl
@[simp] theorem State.modPool_waited (s : State) (c b p : Nat) (f : Pool → Pool) : (s.modPool c b p f).waited = s.waited := rfl
@[simp] theorem State.modPool_released (s : State) (c b p : Nat) (f : Pool → Pool) : (s.modPool c b p f).released = s.released := rfl
@[simp] theorem State.modPool_structPages (s : State) (c b p : Nat) (f : Pool → Pool) : (s.modPool c b p f).structPages = s.structPages := rfl
@[simp] theorem State.modPool_replay (s : State) (c b p : Nat) (f : Pool → Pool) : (s.modPool c b p f).replay = s.replay := rfl
@[simp] theorem State.modPool_guardNotes (s : State) (c b p : Nat) (f : Pool → Pool) : (s.modPool c b p f).guardNotes = s.guardNotes := rfl
@[simp] theorem State.modPool_plateWork (s : State) (c b p : Nat) (f : Pool → Pool) : (s.modPool c b p f).plateWork = s.plateWork := rfl
@[simp] theorem State.modPool_migrated (s : State) (c b p : Nat) (f : Pool → Pool) : (s.modPool c b p f).migrated = s.migrated := rfl
@[simp] theorem State.modPool_departed (s : State) (c b p : Nat) (f : Pool → Pool) : (s.modPool c b p f).departed = s.departed := rfl
@[simp] theorem State.modPool_ridge (s : State) (c b p : Nat) (f : Pool → Pool) : (s.modPool c b p f).ridge = s.ridge := rfl
@[simp] theorem State.modPool_slots (s : State) (c b p : Nat) (f : Pool → Pool) : (s.modPool c b p f).slots = s.slots := rfl
@[simp] theorem State.modPool_rdgWaits (s : State) (c b p : Nat) (f : Pool → Pool) : (s.modPool c b p f).rdgWaits = s.rdgWaits := rfl
@[simp] theorem State.modPool_rdgTicket (s : State) (c b p : Nat) (f : Pool → Pool) : (s.modPool c b p f).rdgTicket = s.rdgTicket := rfl
@[simp] theorem State.modPool_changes (s : State) (c b p : Nat) (f : Pool → Pool) : (s.modPool c b p f).changes = s.changes := rfl
@[simp] theorem State.modPool_journal (s : State) (c b p : Nat) (f : Pool → Pool) : (s.modPool c b p f).journal = s.journal := rfl
@[simp] theorem State.modPool_journalCut (s : State) (c b p : Nat) (f : Pool → Pool) : (s.modPool c b p f).journalCut = s.journalCut := rfl
@[simp] theorem State.modPool_saved (s : State) (c b p : Nat) (f : Pool → Pool) : (s.modPool c b p f).saved = s.saved := rfl
@[simp] theorem State.modPool_hostIn (s : State) (c b p : Nat) (f : Pool → Pool) : (s.modPool c b p f).hostIn = s.hostIn := rfl
@[simp] theorem State.modPool_windowIn (s : State) (c b p : Nat) (f : Pool → Pool) : (s.modPool c b p f).windowIn = s.windowIn := rfl
@[simp] theorem State.modPool_hostOut (s : State) (c b p : Nat) (f : Pool → Pool) : (s.modPool c b p f).hostOut = s.hostOut := rfl
@[simp] theorem State.modPool_hostMem (s : State) (c b p : Nat) (f : Pool → Pool) : (s.modPool c b p f).hostMem = s.hostMem := rfl
@[simp] theorem State.modPool_sigs (s : State) (c b p : Nat) (f : Pool → Pool) : (s.modPool c b p f).sigs = s.sigs := rfl
@[simp] theorem State.modPool_linkUp (s : State) (c b p : Nat) (f : Pool → Pool) : (s.modPool c b p f).linkUp = s.linkUp := rfl
@[simp] theorem State.modPool_sideband (s : State) (c b p : Nat) (f : Pool → Pool) : (s.modPool c b p f).sideband = s.sideband := rfl
@[simp] theorem State.modPool_policy (s : State) (c b p : Nat) (f : Pool → Pool) : (s.modPool c b p f).policy = s.policy := rfl
@[simp] theorem State.modPool_telem (s : State) (c b p : Nat) (f : Pool → Pool) : (s.modPool c b p f).telem = s.telem := rfl
@[simp] theorem State.modPool_reach (s : State) (c b p : Nat) (f : Pool → Pool) : (s.modPool c b p f).reach = s.reach := rfl
@[simp] theorem State.modPool_readyWords (s : State) (c b p : Nat) (f : Pool → Pool) : (s.modPool c b p f).readyWords = s.readyWords := rfl
@[simp] theorem State.modPool_created (s : State) (c b p : Nat) (f : Pool → Pool) : (s.modPool c b p f).created = s.created := rfl
@[simp] theorem State.modPool_captures (s : State) (c b p : Nat) (f : Pool → Pool) : (s.modPool c b p f).captures = s.captures := rfl

@[simp] theorem State.modCtx_firing (s : State) (cx : Nat) (f : Ctx → Ctx) : (s.modCtx cx f).firing = s.firing := by unfold State.modCtx; split <;> rfl
@[simp] theorem State.modCtx_agenda (s : State) (cx : Nat) (f : Ctx → Ctx) : (s.modCtx cx f).agenda = s.agenda := by unfold State.modCtx; split <;> rfl
@[simp] theorem State.modCtx_stepCount (s : State) (cx : Nat) (f : Ctx → Ctx) : (s.modCtx cx f).stepCount = s.stepCount := by unfold State.modCtx; split <;> rfl
@[simp] theorem State.modCtx_fresh (s : State) (cx : Nat) (f : Ctx → Ctx) : (s.modCtx cx f).fresh = s.fresh := by unfold State.modCtx; split <;> rfl
@[simp] theorem State.modCtx_cycles (s : State) (cx : Nat) (f : Ctx → Ctx) : (s.modCtx cx f).cycles = s.cycles := by unfold State.modCtx; split <;> rfl
@[simp] theorem State.modCtx_tick (s : State) (cx : Nat) (f : Ctx → Ctx) : (s.modCtx cx f).tick = s.tick := by unfold State.modCtx; split <;> rfl
@[simp] theorem State.modCtx_beat (s : State) (cx : Nat) (f : Ctx → Ctx) : (s.modCtx cx f).beat = s.beat := by unfold State.modCtx; split <;> rfl
@[simp] theorem State.modCtx_mem (s : State) (cx : Nat) (f : Ctx → Ctx) : (s.modCtx cx f).mem = s.mem := by unfold State.modCtx; split <;> rfl
@[simp] theorem State.modCtx_bays (s : State) (cx : Nat) (f : Ctx → Ctx) : (s.modCtx cx f).bays = s.bays := by unfold State.modCtx; split <;> rfl
@[simp] theorem State.modCtx_elements (s : State) (cx : Nat) (f : Ctx → Ctx) : (s.modCtx cx f).elements = s.elements := by unfold State.modCtx; split <;> rfl
@[simp] theorem State.modCtx_crucibles (s : State) (cx : Nat) (f : Ctx → Ctx) : (s.modCtx cx f).crucibles = s.crucibles := by unfold State.modCtx; split <;> rfl
@[simp] theorem State.modCtx_courses (s : State) (cx : Nat) (f : Ctx → Ctx) : (s.modCtx cx f).courses = s.courses := by unfold State.modCtx; split <;> rfl
@[simp] theorem State.modCtx_kernels (s : State) (cx : Nat) (f : Ctx → Ctx) : (s.modCtx cx f).kernels = s.kernels := by unfold State.modCtx; split <;> rfl
@[simp] theorem State.modCtx_planes (s : State) (cx : Nat) (f : Ctx → Ctx) : (s.modCtx cx f).planes = s.planes := by unfold State.modCtx; split <;> rfl
@[simp] theorem State.modCtx_transit (s : State) (cx : Nat) (f : Ctx → Ctx) : (s.modCtx cx f).transit = s.transit := by unfold State.modCtx; split <;> rfl
@[simp] theorem State.modCtx_eaveOut (s : State) (cx : Nat) (f : Ctx → Ctx) : (s.modCtx cx f).eaveOut = s.eaveOut := by unfold State.modCtx; split <;> rfl
@[simp] theorem State.modCtx_readyOut (s : State) (cx : Nat) (f : Ctx → Ctx) : (s.modCtx cx f).readyOut = s.readyOut := by unfold State.modCtx; split <;> rfl
@[simp] theorem State.modCtx_sidebandOut (s : State) (cx : Nat) (f : Ctx → Ctx) : (s.modCtx cx f).sidebandOut = s.sidebandOut := by unfold State.modCtx; split <;> rfl
@[simp] theorem State.modCtx_faults (s : State) (cx : Nat) (f : Ctx → Ctx) : (s.modCtx cx f).faults = s.faults := by unfold State.modCtx; split <;> rfl
@[simp] theorem State.modCtx_dooms (s : State) (cx : Nat) (f : Ctx → Ctx) : (s.modCtx cx f).dooms = s.dooms := by unfold State.modCtx; split <;> rfl
@[simp] theorem State.modCtx_barriers (s : State) (cx : Nat) (f : Ctx → Ctx) : (s.modCtx cx f).barriers = s.barriers := by unfold State.modCtx; split <;> rfl
@[simp] theorem State.modCtx_cells (s : State) (cx : Nat) (f : Ctx → Ctx) : (s.modCtx cx f).cells = s.cells := by unfold State.modCtx; split <;> rfl
@[simp] theorem State.modCtx_cellWaits (s : State) (cx : Nat) (f : Ctx → Ctx) : (s.modCtx cx f).cellWaits = s.cellWaits := by unfold State.modCtx; split <;> rfl
@[simp] theorem State.modCtx_stags (s : State) (cx : Nat) (f : Ctx → Ctx) : (s.modCtx cx f).stags = s.stags := by unfold State.modCtx; split <;> rfl
@[simp] theorem State.modCtx_selectors (s : State) (cx : Nat) (f : Ctx → Ctx) : (s.modCtx cx f).selectors = s.selectors := by unfold State.modCtx; split <;> rfl
@[simp] theorem State.modCtx_lineTags (s : State) (cx : Nat) (f : Ctx → Ctx) : (s.modCtx cx f).lineTags = s.lineTags := by unfold State.modCtx; split <;> rfl
@[simp] theorem State.modCtx_lostPages (s : State) (cx : Nat) (f : Ctx → Ctx) : (s.modCtx cx f).lostPages = s.lostPages := by unfold State.modCtx; split <;> rfl
@[simp] theorem State.modCtx_waited (s : State) (cx : Nat) (f : Ctx → Ctx) : (s.modCtx cx f).waited = s.waited := by unfold State.modCtx; split <;> rfl
@[simp] theorem State.modCtx_released (s : State) (cx : Nat) (f : Ctx → Ctx) : (s.modCtx cx f).released = s.released := by unfold State.modCtx; split <;> rfl
@[simp] theorem State.modCtx_structPages (s : State) (cx : Nat) (f : Ctx → Ctx) : (s.modCtx cx f).structPages = s.structPages := by unfold State.modCtx; split <;> rfl
@[simp] theorem State.modCtx_replay (s : State) (cx : Nat) (f : Ctx → Ctx) : (s.modCtx cx f).replay = s.replay := by unfold State.modCtx; split <;> rfl
@[simp] theorem State.modCtx_guardNotes (s : State) (cx : Nat) (f : Ctx → Ctx) : (s.modCtx cx f).guardNotes = s.guardNotes := by unfold State.modCtx; split <;> rfl
@[simp] theorem State.modCtx_plateWork (s : State) (cx : Nat) (f : Ctx → Ctx) : (s.modCtx cx f).plateWork = s.plateWork := by unfold State.modCtx; split <;> rfl
@[simp] theorem State.modCtx_migrated (s : State) (cx : Nat) (f : Ctx → Ctx) : (s.modCtx cx f).migrated = s.migrated := by unfold State.modCtx; split <;> rfl
@[simp] theorem State.modCtx_departed (s : State) (cx : Nat) (f : Ctx → Ctx) : (s.modCtx cx f).departed = s.departed := by unfold State.modCtx; split <;> rfl
@[simp] theorem State.modCtx_ridge (s : State) (cx : Nat) (f : Ctx → Ctx) : (s.modCtx cx f).ridge = s.ridge := by unfold State.modCtx; split <;> rfl
@[simp] theorem State.modCtx_slots (s : State) (cx : Nat) (f : Ctx → Ctx) : (s.modCtx cx f).slots = s.slots := by unfold State.modCtx; split <;> rfl
@[simp] theorem State.modCtx_rdgWaits (s : State) (cx : Nat) (f : Ctx → Ctx) : (s.modCtx cx f).rdgWaits = s.rdgWaits := by unfold State.modCtx; split <;> rfl
@[simp] theorem State.modCtx_rdgTicket (s : State) (cx : Nat) (f : Ctx → Ctx) : (s.modCtx cx f).rdgTicket = s.rdgTicket := by unfold State.modCtx; split <;> rfl
@[simp] theorem State.modCtx_changes (s : State) (cx : Nat) (f : Ctx → Ctx) : (s.modCtx cx f).changes = s.changes := by unfold State.modCtx; split <;> rfl
@[simp] theorem State.modCtx_journal (s : State) (cx : Nat) (f : Ctx → Ctx) : (s.modCtx cx f).journal = s.journal := by unfold State.modCtx; split <;> rfl
@[simp] theorem State.modCtx_journalCut (s : State) (cx : Nat) (f : Ctx → Ctx) : (s.modCtx cx f).journalCut = s.journalCut := by unfold State.modCtx; split <;> rfl
@[simp] theorem State.modCtx_saved (s : State) (cx : Nat) (f : Ctx → Ctx) : (s.modCtx cx f).saved = s.saved := by unfold State.modCtx; split <;> rfl
@[simp] theorem State.modCtx_hostIn (s : State) (cx : Nat) (f : Ctx → Ctx) : (s.modCtx cx f).hostIn = s.hostIn := by unfold State.modCtx; split <;> rfl
@[simp] theorem State.modCtx_windowIn (s : State) (cx : Nat) (f : Ctx → Ctx) : (s.modCtx cx f).windowIn = s.windowIn := by unfold State.modCtx; split <;> rfl
@[simp] theorem State.modCtx_hostOut (s : State) (cx : Nat) (f : Ctx → Ctx) : (s.modCtx cx f).hostOut = s.hostOut := by unfold State.modCtx; split <;> rfl
@[simp] theorem State.modCtx_hostMem (s : State) (cx : Nat) (f : Ctx → Ctx) : (s.modCtx cx f).hostMem = s.hostMem := by unfold State.modCtx; split <;> rfl
@[simp] theorem State.modCtx_sigs (s : State) (cx : Nat) (f : Ctx → Ctx) : (s.modCtx cx f).sigs = s.sigs := by unfold State.modCtx; split <;> rfl
@[simp] theorem State.modCtx_linkUp (s : State) (cx : Nat) (f : Ctx → Ctx) : (s.modCtx cx f).linkUp = s.linkUp := by unfold State.modCtx; split <;> rfl
@[simp] theorem State.modCtx_sideband (s : State) (cx : Nat) (f : Ctx → Ctx) : (s.modCtx cx f).sideband = s.sideband := by unfold State.modCtx; split <;> rfl
@[simp] theorem State.modCtx_policy (s : State) (cx : Nat) (f : Ctx → Ctx) : (s.modCtx cx f).policy = s.policy := by unfold State.modCtx; split <;> rfl
@[simp] theorem State.modCtx_telem (s : State) (cx : Nat) (f : Ctx → Ctx) : (s.modCtx cx f).telem = s.telem := by unfold State.modCtx; split <;> rfl
@[simp] theorem State.modCtx_reach (s : State) (cx : Nat) (f : Ctx → Ctx) : (s.modCtx cx f).reach = s.reach := by unfold State.modCtx; split <;> rfl
@[simp] theorem State.modCtx_readyWords (s : State) (cx : Nat) (f : Ctx → Ctx) : (s.modCtx cx f).readyWords = s.readyWords := by unfold State.modCtx; split <;> rfl
@[simp] theorem State.modCtx_created (s : State) (cx : Nat) (f : Ctx → Ctx) : (s.modCtx cx f).created = s.created := by unfold State.modCtx; split <;> rfl
@[simp] theorem State.modCtx_captures (s : State) (cx : Nat) (f : Ctx → Ctx) : (s.modCtx cx f).captures = s.captures := by unfold State.modCtx; split <;> rfl

@[simp] theorem State.modFrame_firing (s : State) (c b ft : Nat) (f : Frame → Frame) : (s.modFrame c b ft f).firing = s.firing := by unfold State.modFrame; split <;> rfl
@[simp] theorem State.modFrame_agenda (s : State) (c b ft : Nat) (f : Frame → Frame) : (s.modFrame c b ft f).agenda = s.agenda := by unfold State.modFrame; split <;> rfl
@[simp] theorem State.modFrame_stepCount (s : State) (c b ft : Nat) (f : Frame → Frame) : (s.modFrame c b ft f).stepCount = s.stepCount := by unfold State.modFrame; split <;> rfl
@[simp] theorem State.modFrame_fresh (s : State) (c b ft : Nat) (f : Frame → Frame) : (s.modFrame c b ft f).fresh = s.fresh := by unfold State.modFrame; split <;> rfl
@[simp] theorem State.modFrame_cycles (s : State) (c b ft : Nat) (f : Frame → Frame) : (s.modFrame c b ft f).cycles = s.cycles := by unfold State.modFrame; split <;> rfl
@[simp] theorem State.modFrame_tick (s : State) (c b ft : Nat) (f : Frame → Frame) : (s.modFrame c b ft f).tick = s.tick := by unfold State.modFrame; split <;> rfl
@[simp] theorem State.modFrame_beat (s : State) (c b ft : Nat) (f : Frame → Frame) : (s.modFrame c b ft f).beat = s.beat := by unfold State.modFrame; split <;> rfl
@[simp] theorem State.modFrame_mem (s : State) (c b ft : Nat) (f : Frame → Frame) : (s.modFrame c b ft f).mem = s.mem := by unfold State.modFrame; split <;> rfl
@[simp] theorem State.modFrame_elements (s : State) (c b ft : Nat) (f : Frame → Frame) : (s.modFrame c b ft f).elements = s.elements := by unfold State.modFrame; split <;> rfl
@[simp] theorem State.modFrame_crucibles (s : State) (c b ft : Nat) (f : Frame → Frame) : (s.modFrame c b ft f).crucibles = s.crucibles := by unfold State.modFrame; split <;> rfl
@[simp] theorem State.modFrame_courses (s : State) (c b ft : Nat) (f : Frame → Frame) : (s.modFrame c b ft f).courses = s.courses := by unfold State.modFrame; split <;> rfl
@[simp] theorem State.modFrame_ctxs (s : State) (c b ft : Nat) (f : Frame → Frame) : (s.modFrame c b ft f).ctxs = s.ctxs := by unfold State.modFrame; split <;> rfl
@[simp] theorem State.modFrame_kernels (s : State) (c b ft : Nat) (f : Frame → Frame) : (s.modFrame c b ft f).kernels = s.kernels := by unfold State.modFrame; split <;> rfl
@[simp] theorem State.modFrame_planes (s : State) (c b ft : Nat) (f : Frame → Frame) : (s.modFrame c b ft f).planes = s.planes := by unfold State.modFrame; split <;> rfl
@[simp] theorem State.modFrame_transit (s : State) (c b ft : Nat) (f : Frame → Frame) : (s.modFrame c b ft f).transit = s.transit := by unfold State.modFrame; split <;> rfl
@[simp] theorem State.modFrame_eaveOut (s : State) (c b ft : Nat) (f : Frame → Frame) : (s.modFrame c b ft f).eaveOut = s.eaveOut := by unfold State.modFrame; split <;> rfl
@[simp] theorem State.modFrame_readyOut (s : State) (c b ft : Nat) (f : Frame → Frame) : (s.modFrame c b ft f).readyOut = s.readyOut := by unfold State.modFrame; split <;> rfl
@[simp] theorem State.modFrame_sidebandOut (s : State) (c b ft : Nat) (f : Frame → Frame) : (s.modFrame c b ft f).sidebandOut = s.sidebandOut := by unfold State.modFrame; split <;> rfl
@[simp] theorem State.modFrame_faults (s : State) (c b ft : Nat) (f : Frame → Frame) : (s.modFrame c b ft f).faults = s.faults := by unfold State.modFrame; split <;> rfl
@[simp] theorem State.modFrame_dooms (s : State) (c b ft : Nat) (f : Frame → Frame) : (s.modFrame c b ft f).dooms = s.dooms := by unfold State.modFrame; split <;> rfl
@[simp] theorem State.modFrame_barriers (s : State) (c b ft : Nat) (f : Frame → Frame) : (s.modFrame c b ft f).barriers = s.barriers := by unfold State.modFrame; split <;> rfl
@[simp] theorem State.modFrame_cells (s : State) (c b ft : Nat) (f : Frame → Frame) : (s.modFrame c b ft f).cells = s.cells := by unfold State.modFrame; split <;> rfl
@[simp] theorem State.modFrame_cellWaits (s : State) (c b ft : Nat) (f : Frame → Frame) : (s.modFrame c b ft f).cellWaits = s.cellWaits := by unfold State.modFrame; split <;> rfl
@[simp] theorem State.modFrame_stags (s : State) (c b ft : Nat) (f : Frame → Frame) : (s.modFrame c b ft f).stags = s.stags := by unfold State.modFrame; split <;> rfl
@[simp] theorem State.modFrame_selectors (s : State) (c b ft : Nat) (f : Frame → Frame) : (s.modFrame c b ft f).selectors = s.selectors := by unfold State.modFrame; split <;> rfl
@[simp] theorem State.modFrame_lineTags (s : State) (c b ft : Nat) (f : Frame → Frame) : (s.modFrame c b ft f).lineTags = s.lineTags := by unfold State.modFrame; split <;> rfl
@[simp] theorem State.modFrame_lostPages (s : State) (c b ft : Nat) (f : Frame → Frame) : (s.modFrame c b ft f).lostPages = s.lostPages := by unfold State.modFrame; split <;> rfl
@[simp] theorem State.modFrame_waited (s : State) (c b ft : Nat) (f : Frame → Frame) : (s.modFrame c b ft f).waited = s.waited := by unfold State.modFrame; split <;> rfl
@[simp] theorem State.modFrame_released (s : State) (c b ft : Nat) (f : Frame → Frame) : (s.modFrame c b ft f).released = s.released := by unfold State.modFrame; split <;> rfl
@[simp] theorem State.modFrame_structPages (s : State) (c b ft : Nat) (f : Frame → Frame) : (s.modFrame c b ft f).structPages = s.structPages := by unfold State.modFrame; split <;> rfl
@[simp] theorem State.modFrame_replay (s : State) (c b ft : Nat) (f : Frame → Frame) : (s.modFrame c b ft f).replay = s.replay := by unfold State.modFrame; split <;> rfl
@[simp] theorem State.modFrame_guardNotes (s : State) (c b ft : Nat) (f : Frame → Frame) : (s.modFrame c b ft f).guardNotes = s.guardNotes := by unfold State.modFrame; split <;> rfl
@[simp] theorem State.modFrame_plateWork (s : State) (c b ft : Nat) (f : Frame → Frame) : (s.modFrame c b ft f).plateWork = s.plateWork := by unfold State.modFrame; split <;> rfl
@[simp] theorem State.modFrame_migrated (s : State) (c b ft : Nat) (f : Frame → Frame) : (s.modFrame c b ft f).migrated = s.migrated := by unfold State.modFrame; split <;> rfl
@[simp] theorem State.modFrame_departed (s : State) (c b ft : Nat) (f : Frame → Frame) : (s.modFrame c b ft f).departed = s.departed := by unfold State.modFrame; split <;> rfl
@[simp] theorem State.modFrame_ridge (s : State) (c b ft : Nat) (f : Frame → Frame) : (s.modFrame c b ft f).ridge = s.ridge := by unfold State.modFrame; split <;> rfl
@[simp] theorem State.modFrame_slots (s : State) (c b ft : Nat) (f : Frame → Frame) : (s.modFrame c b ft f).slots = s.slots := by unfold State.modFrame; split <;> rfl
@[simp] theorem State.modFrame_rdgWaits (s : State) (c b ft : Nat) (f : Frame → Frame) : (s.modFrame c b ft f).rdgWaits = s.rdgWaits := by unfold State.modFrame; split <;> rfl
@[simp] theorem State.modFrame_rdgTicket (s : State) (c b ft : Nat) (f : Frame → Frame) : (s.modFrame c b ft f).rdgTicket = s.rdgTicket := by unfold State.modFrame; split <;> rfl
@[simp] theorem State.modFrame_changes (s : State) (c b ft : Nat) (f : Frame → Frame) : (s.modFrame c b ft f).changes = s.changes := by unfold State.modFrame; split <;> rfl
@[simp] theorem State.modFrame_journal (s : State) (c b ft : Nat) (f : Frame → Frame) : (s.modFrame c b ft f).journal = s.journal := by unfold State.modFrame; split <;> rfl
@[simp] theorem State.modFrame_journalCut (s : State) (c b ft : Nat) (f : Frame → Frame) : (s.modFrame c b ft f).journalCut = s.journalCut := by unfold State.modFrame; split <;> rfl
@[simp] theorem State.modFrame_saved (s : State) (c b ft : Nat) (f : Frame → Frame) : (s.modFrame c b ft f).saved = s.saved := by unfold State.modFrame; split <;> rfl
@[simp] theorem State.modFrame_hostIn (s : State) (c b ft : Nat) (f : Frame → Frame) : (s.modFrame c b ft f).hostIn = s.hostIn := by unfold State.modFrame; split <;> rfl
@[simp] theorem State.modFrame_windowIn (s : State) (c b ft : Nat) (f : Frame → Frame) : (s.modFrame c b ft f).windowIn = s.windowIn := by unfold State.modFrame; split <;> rfl
@[simp] theorem State.modFrame_hostOut (s : State) (c b ft : Nat) (f : Frame → Frame) : (s.modFrame c b ft f).hostOut = s.hostOut := by unfold State.modFrame; split <;> rfl
@[simp] theorem State.modFrame_hostMem (s : State) (c b ft : Nat) (f : Frame → Frame) : (s.modFrame c b ft f).hostMem = s.hostMem := by unfold State.modFrame; split <;> rfl
@[simp] theorem State.modFrame_sigs (s : State) (c b ft : Nat) (f : Frame → Frame) : (s.modFrame c b ft f).sigs = s.sigs := by unfold State.modFrame; split <;> rfl
@[simp] theorem State.modFrame_linkUp (s : State) (c b ft : Nat) (f : Frame → Frame) : (s.modFrame c b ft f).linkUp = s.linkUp := by unfold State.modFrame; split <;> rfl
@[simp] theorem State.modFrame_sideband (s : State) (c b ft : Nat) (f : Frame → Frame) : (s.modFrame c b ft f).sideband = s.sideband := by unfold State.modFrame; split <;> rfl
@[simp] theorem State.modFrame_policy (s : State) (c b ft : Nat) (f : Frame → Frame) : (s.modFrame c b ft f).policy = s.policy := by unfold State.modFrame; split <;> rfl
@[simp] theorem State.modFrame_telem (s : State) (c b ft : Nat) (f : Frame → Frame) : (s.modFrame c b ft f).telem = s.telem := by unfold State.modFrame; split <;> rfl
@[simp] theorem State.modFrame_reach (s : State) (c b ft : Nat) (f : Frame → Frame) : (s.modFrame c b ft f).reach = s.reach := by unfold State.modFrame; split <;> rfl
@[simp] theorem State.modFrame_readyWords (s : State) (c b ft : Nat) (f : Frame → Frame) : (s.modFrame c b ft f).readyWords = s.readyWords := by unfold State.modFrame; split <;> rfl
@[simp] theorem State.modFrame_created (s : State) (c b ft : Nat) (f : Frame → Frame) : (s.modFrame c b ft f).created = s.created := by unfold State.modFrame; split <;> rfl
@[simp] theorem State.modFrame_captures (s : State) (c b ft : Nat) (f : Frame → Frame) : (s.modFrame c b ft f).captures = s.captures := by unfold State.modFrame; split <;> rfl

@[simp] theorem State.modCast_firing (s : State) (c b ft : Nat) (f : Cast → Cast) : (s.modCast c b ft f).firing = s.firing := by unfold State.modCast; rw [State.modFrame_firing]
@[simp] theorem State.modCast_agenda (s : State) (c b ft : Nat) (f : Cast → Cast) : (s.modCast c b ft f).agenda = s.agenda := by unfold State.modCast; rw [State.modFrame_agenda]
@[simp] theorem State.modCast_stepCount (s : State) (c b ft : Nat) (f : Cast → Cast) : (s.modCast c b ft f).stepCount = s.stepCount := by unfold State.modCast; rw [State.modFrame_stepCount]
@[simp] theorem State.modCast_fresh (s : State) (c b ft : Nat) (f : Cast → Cast) : (s.modCast c b ft f).fresh = s.fresh := by unfold State.modCast; rw [State.modFrame_fresh]
@[simp] theorem State.modCast_cycles (s : State) (c b ft : Nat) (f : Cast → Cast) : (s.modCast c b ft f).cycles = s.cycles := by unfold State.modCast; rw [State.modFrame_cycles]
@[simp] theorem State.modCast_tick (s : State) (c b ft : Nat) (f : Cast → Cast) : (s.modCast c b ft f).tick = s.tick := by unfold State.modCast; rw [State.modFrame_tick]
@[simp] theorem State.modCast_beat (s : State) (c b ft : Nat) (f : Cast → Cast) : (s.modCast c b ft f).beat = s.beat := by unfold State.modCast; rw [State.modFrame_beat]
@[simp] theorem State.modCast_mem (s : State) (c b ft : Nat) (f : Cast → Cast) : (s.modCast c b ft f).mem = s.mem := by unfold State.modCast; rw [State.modFrame_mem]
@[simp] theorem State.modCast_elements (s : State) (c b ft : Nat) (f : Cast → Cast) : (s.modCast c b ft f).elements = s.elements := by unfold State.modCast; rw [State.modFrame_elements]
@[simp] theorem State.modCast_crucibles (s : State) (c b ft : Nat) (f : Cast → Cast) : (s.modCast c b ft f).crucibles = s.crucibles := by unfold State.modCast; rw [State.modFrame_crucibles]
@[simp] theorem State.modCast_courses (s : State) (c b ft : Nat) (f : Cast → Cast) : (s.modCast c b ft f).courses = s.courses := by unfold State.modCast; rw [State.modFrame_courses]
@[simp] theorem State.modCast_ctxs (s : State) (c b ft : Nat) (f : Cast → Cast) : (s.modCast c b ft f).ctxs = s.ctxs := by unfold State.modCast; rw [State.modFrame_ctxs]
@[simp] theorem State.modCast_kernels (s : State) (c b ft : Nat) (f : Cast → Cast) : (s.modCast c b ft f).kernels = s.kernels := by unfold State.modCast; rw [State.modFrame_kernels]
@[simp] theorem State.modCast_planes (s : State) (c b ft : Nat) (f : Cast → Cast) : (s.modCast c b ft f).planes = s.planes := by unfold State.modCast; rw [State.modFrame_planes]
@[simp] theorem State.modCast_transit (s : State) (c b ft : Nat) (f : Cast → Cast) : (s.modCast c b ft f).transit = s.transit := by unfold State.modCast; rw [State.modFrame_transit]
@[simp] theorem State.modCast_eaveOut (s : State) (c b ft : Nat) (f : Cast → Cast) : (s.modCast c b ft f).eaveOut = s.eaveOut := by unfold State.modCast; rw [State.modFrame_eaveOut]
@[simp] theorem State.modCast_readyOut (s : State) (c b ft : Nat) (f : Cast → Cast) : (s.modCast c b ft f).readyOut = s.readyOut := by unfold State.modCast; rw [State.modFrame_readyOut]
@[simp] theorem State.modCast_sidebandOut (s : State) (c b ft : Nat) (f : Cast → Cast) : (s.modCast c b ft f).sidebandOut = s.sidebandOut := by unfold State.modCast; rw [State.modFrame_sidebandOut]
@[simp] theorem State.modCast_faults (s : State) (c b ft : Nat) (f : Cast → Cast) : (s.modCast c b ft f).faults = s.faults := by unfold State.modCast; rw [State.modFrame_faults]
@[simp] theorem State.modCast_dooms (s : State) (c b ft : Nat) (f : Cast → Cast) : (s.modCast c b ft f).dooms = s.dooms := by unfold State.modCast; rw [State.modFrame_dooms]
@[simp] theorem State.modCast_barriers (s : State) (c b ft : Nat) (f : Cast → Cast) : (s.modCast c b ft f).barriers = s.barriers := by unfold State.modCast; rw [State.modFrame_barriers]
@[simp] theorem State.modCast_cells (s : State) (c b ft : Nat) (f : Cast → Cast) : (s.modCast c b ft f).cells = s.cells := by unfold State.modCast; rw [State.modFrame_cells]
@[simp] theorem State.modCast_cellWaits (s : State) (c b ft : Nat) (f : Cast → Cast) : (s.modCast c b ft f).cellWaits = s.cellWaits := by unfold State.modCast; rw [State.modFrame_cellWaits]
@[simp] theorem State.modCast_stags (s : State) (c b ft : Nat) (f : Cast → Cast) : (s.modCast c b ft f).stags = s.stags := by unfold State.modCast; rw [State.modFrame_stags]
@[simp] theorem State.modCast_selectors (s : State) (c b ft : Nat) (f : Cast → Cast) : (s.modCast c b ft f).selectors = s.selectors := by unfold State.modCast; rw [State.modFrame_selectors]
@[simp] theorem State.modCast_lineTags (s : State) (c b ft : Nat) (f : Cast → Cast) : (s.modCast c b ft f).lineTags = s.lineTags := by unfold State.modCast; rw [State.modFrame_lineTags]
@[simp] theorem State.modCast_lostPages (s : State) (c b ft : Nat) (f : Cast → Cast) : (s.modCast c b ft f).lostPages = s.lostPages := by unfold State.modCast; rw [State.modFrame_lostPages]
@[simp] theorem State.modCast_waited (s : State) (c b ft : Nat) (f : Cast → Cast) : (s.modCast c b ft f).waited = s.waited := by unfold State.modCast; rw [State.modFrame_waited]
@[simp] theorem State.modCast_released (s : State) (c b ft : Nat) (f : Cast → Cast) : (s.modCast c b ft f).released = s.released := by unfold State.modCast; rw [State.modFrame_released]
@[simp] theorem State.modCast_structPages (s : State) (c b ft : Nat) (f : Cast → Cast) : (s.modCast c b ft f).structPages = s.structPages := by unfold State.modCast; rw [State.modFrame_structPages]
@[simp] theorem State.modCast_replay (s : State) (c b ft : Nat) (f : Cast → Cast) : (s.modCast c b ft f).replay = s.replay := by unfold State.modCast; rw [State.modFrame_replay]
@[simp] theorem State.modCast_guardNotes (s : State) (c b ft : Nat) (f : Cast → Cast) : (s.modCast c b ft f).guardNotes = s.guardNotes := by unfold State.modCast; rw [State.modFrame_guardNotes]
@[simp] theorem State.modCast_plateWork (s : State) (c b ft : Nat) (f : Cast → Cast) : (s.modCast c b ft f).plateWork = s.plateWork := by unfold State.modCast; rw [State.modFrame_plateWork]
@[simp] theorem State.modCast_migrated (s : State) (c b ft : Nat) (f : Cast → Cast) : (s.modCast c b ft f).migrated = s.migrated := by unfold State.modCast; rw [State.modFrame_migrated]
@[simp] theorem State.modCast_departed (s : State) (c b ft : Nat) (f : Cast → Cast) : (s.modCast c b ft f).departed = s.departed := by unfold State.modCast; rw [State.modFrame_departed]
@[simp] theorem State.modCast_ridge (s : State) (c b ft : Nat) (f : Cast → Cast) : (s.modCast c b ft f).ridge = s.ridge := by unfold State.modCast; rw [State.modFrame_ridge]
@[simp] theorem State.modCast_slots (s : State) (c b ft : Nat) (f : Cast → Cast) : (s.modCast c b ft f).slots = s.slots := by unfold State.modCast; rw [State.modFrame_slots]
@[simp] theorem State.modCast_rdgWaits (s : State) (c b ft : Nat) (f : Cast → Cast) : (s.modCast c b ft f).rdgWaits = s.rdgWaits := by unfold State.modCast; rw [State.modFrame_rdgWaits]
@[simp] theorem State.modCast_rdgTicket (s : State) (c b ft : Nat) (f : Cast → Cast) : (s.modCast c b ft f).rdgTicket = s.rdgTicket := by unfold State.modCast; rw [State.modFrame_rdgTicket]
@[simp] theorem State.modCast_changes (s : State) (c b ft : Nat) (f : Cast → Cast) : (s.modCast c b ft f).changes = s.changes := by unfold State.modCast; rw [State.modFrame_changes]
@[simp] theorem State.modCast_journal (s : State) (c b ft : Nat) (f : Cast → Cast) : (s.modCast c b ft f).journal = s.journal := by unfold State.modCast; rw [State.modFrame_journal]
@[simp] theorem State.modCast_saved (s : State) (c b ft : Nat) (f : Cast → Cast) : (s.modCast c b ft f).saved = s.saved := by unfold State.modCast; rw [State.modFrame_saved]
@[simp] theorem State.modCast_hostIn (s : State) (c b ft : Nat) (f : Cast → Cast) : (s.modCast c b ft f).hostIn = s.hostIn := by unfold State.modCast; rw [State.modFrame_hostIn]
@[simp] theorem State.modCast_windowIn (s : State) (c b ft : Nat) (f : Cast → Cast) : (s.modCast c b ft f).windowIn = s.windowIn := by unfold State.modCast; rw [State.modFrame_windowIn]
@[simp] theorem State.modCast_hostOut (s : State) (c b ft : Nat) (f : Cast → Cast) : (s.modCast c b ft f).hostOut = s.hostOut := by unfold State.modCast; rw [State.modFrame_hostOut]
@[simp] theorem State.modCast_hostMem (s : State) (c b ft : Nat) (f : Cast → Cast) : (s.modCast c b ft f).hostMem = s.hostMem := by unfold State.modCast; rw [State.modFrame_hostMem]
@[simp] theorem State.modCast_sigs (s : State) (c b ft : Nat) (f : Cast → Cast) : (s.modCast c b ft f).sigs = s.sigs := by unfold State.modCast; rw [State.modFrame_sigs]
@[simp] theorem State.modCast_linkUp (s : State) (c b ft : Nat) (f : Cast → Cast) : (s.modCast c b ft f).linkUp = s.linkUp := by unfold State.modCast; rw [State.modFrame_linkUp]
@[simp] theorem State.modCast_sideband (s : State) (c b ft : Nat) (f : Cast → Cast) : (s.modCast c b ft f).sideband = s.sideband := by unfold State.modCast; rw [State.modFrame_sideband]
@[simp] theorem State.modCast_policy (s : State) (c b ft : Nat) (f : Cast → Cast) : (s.modCast c b ft f).policy = s.policy := by unfold State.modCast; rw [State.modFrame_policy]
@[simp] theorem State.modCast_telem (s : State) (c b ft : Nat) (f : Cast → Cast) : (s.modCast c b ft f).telem = s.telem := by unfold State.modCast; rw [State.modFrame_telem]
@[simp] theorem State.modCast_reach (s : State) (c b ft : Nat) (f : Cast → Cast) : (s.modCast c b ft f).reach = s.reach := by unfold State.modCast; rw [State.modFrame_reach]
@[simp] theorem State.modCast_readyWords (s : State) (c b ft : Nat) (f : Cast → Cast) : (s.modCast c b ft f).readyWords = s.readyWords := by unfold State.modCast; rw [State.modFrame_readyWords]
@[simp] theorem State.modCast_created (s : State) (c b ft : Nat) (f : Cast → Cast) : (s.modCast c b ft f).created = s.created := by unfold State.modCast; rw [State.modFrame_created]
@[simp] theorem State.modCast_captures (s : State) (c b ft : Nat) (f : Cast → Cast) : (s.modCast c b ft f).captures = s.captures := by unfold State.modCast; rw [State.modFrame_captures]

@[simp] theorem State.modOwn_firing (s : State) (g : Firing) (f : Cast → Cast) : (s.modOwn g f).firing = s.firing := by unfold State.modOwn; rw [State.modCast_firing]
@[simp] theorem State.modOwn_agenda (s : State) (g : Firing) (f : Cast → Cast) : (s.modOwn g f).agenda = s.agenda := by unfold State.modOwn; rw [State.modCast_agenda]
@[simp] theorem State.modOwn_stepCount (s : State) (g : Firing) (f : Cast → Cast) : (s.modOwn g f).stepCount = s.stepCount := by unfold State.modOwn; rw [State.modCast_stepCount]
@[simp] theorem State.modOwn_fresh (s : State) (g : Firing) (f : Cast → Cast) : (s.modOwn g f).fresh = s.fresh := by unfold State.modOwn; rw [State.modCast_fresh]
@[simp] theorem State.modOwn_cycles (s : State) (g : Firing) (f : Cast → Cast) : (s.modOwn g f).cycles = s.cycles := by unfold State.modOwn; rw [State.modCast_cycles]
@[simp] theorem State.modOwn_tick (s : State) (g : Firing) (f : Cast → Cast) : (s.modOwn g f).tick = s.tick := by unfold State.modOwn; rw [State.modCast_tick]
@[simp] theorem State.modOwn_beat (s : State) (g : Firing) (f : Cast → Cast) : (s.modOwn g f).beat = s.beat := by unfold State.modOwn; rw [State.modCast_beat]
@[simp] theorem State.modOwn_mem (s : State) (g : Firing) (f : Cast → Cast) : (s.modOwn g f).mem = s.mem := by unfold State.modOwn; rw [State.modCast_mem]
@[simp] theorem State.modOwn_elements (s : State) (g : Firing) (f : Cast → Cast) : (s.modOwn g f).elements = s.elements := by unfold State.modOwn; rw [State.modCast_elements]
@[simp] theorem State.modOwn_crucibles (s : State) (g : Firing) (f : Cast → Cast) : (s.modOwn g f).crucibles = s.crucibles := by unfold State.modOwn; rw [State.modCast_crucibles]
@[simp] theorem State.modOwn_courses (s : State) (g : Firing) (f : Cast → Cast) : (s.modOwn g f).courses = s.courses := by unfold State.modOwn; rw [State.modCast_courses]
@[simp] theorem State.modOwn_ctxs (s : State) (g : Firing) (f : Cast → Cast) : (s.modOwn g f).ctxs = s.ctxs := by unfold State.modOwn; rw [State.modCast_ctxs]
@[simp] theorem State.modOwn_kernels (s : State) (g : Firing) (f : Cast → Cast) : (s.modOwn g f).kernels = s.kernels := by unfold State.modOwn; rw [State.modCast_kernels]
@[simp] theorem State.modOwn_planes (s : State) (g : Firing) (f : Cast → Cast) : (s.modOwn g f).planes = s.planes := by unfold State.modOwn; rw [State.modCast_planes]
@[simp] theorem State.modOwn_transit (s : State) (g : Firing) (f : Cast → Cast) : (s.modOwn g f).transit = s.transit := by unfold State.modOwn; rw [State.modCast_transit]
@[simp] theorem State.modOwn_eaveOut (s : State) (g : Firing) (f : Cast → Cast) : (s.modOwn g f).eaveOut = s.eaveOut := by unfold State.modOwn; rw [State.modCast_eaveOut]
@[simp] theorem State.modOwn_readyOut (s : State) (g : Firing) (f : Cast → Cast) : (s.modOwn g f).readyOut = s.readyOut := by unfold State.modOwn; rw [State.modCast_readyOut]
@[simp] theorem State.modOwn_sidebandOut (s : State) (g : Firing) (f : Cast → Cast) : (s.modOwn g f).sidebandOut = s.sidebandOut := by unfold State.modOwn; rw [State.modCast_sidebandOut]
@[simp] theorem State.modOwn_faults (s : State) (g : Firing) (f : Cast → Cast) : (s.modOwn g f).faults = s.faults := by unfold State.modOwn; rw [State.modCast_faults]
@[simp] theorem State.modOwn_dooms (s : State) (g : Firing) (f : Cast → Cast) : (s.modOwn g f).dooms = s.dooms := by unfold State.modOwn; rw [State.modCast_dooms]
@[simp] theorem State.modOwn_barriers (s : State) (g : Firing) (f : Cast → Cast) : (s.modOwn g f).barriers = s.barriers := by unfold State.modOwn; rw [State.modCast_barriers]
@[simp] theorem State.modOwn_cells (s : State) (g : Firing) (f : Cast → Cast) : (s.modOwn g f).cells = s.cells := by unfold State.modOwn; rw [State.modCast_cells]
@[simp] theorem State.modOwn_cellWaits (s : State) (g : Firing) (f : Cast → Cast) : (s.modOwn g f).cellWaits = s.cellWaits := by unfold State.modOwn; rw [State.modCast_cellWaits]
@[simp] theorem State.modOwn_stags (s : State) (g : Firing) (f : Cast → Cast) : (s.modOwn g f).stags = s.stags := by unfold State.modOwn; rw [State.modCast_stags]
@[simp] theorem State.modOwn_selectors (s : State) (g : Firing) (f : Cast → Cast) : (s.modOwn g f).selectors = s.selectors := by unfold State.modOwn; rw [State.modCast_selectors]
@[simp] theorem State.modOwn_lineTags (s : State) (g : Firing) (f : Cast → Cast) : (s.modOwn g f).lineTags = s.lineTags := by unfold State.modOwn; rw [State.modCast_lineTags]
@[simp] theorem State.modOwn_lostPages (s : State) (g : Firing) (f : Cast → Cast) : (s.modOwn g f).lostPages = s.lostPages := by unfold State.modOwn; rw [State.modCast_lostPages]
@[simp] theorem State.modOwn_waited (s : State) (g : Firing) (f : Cast → Cast) : (s.modOwn g f).waited = s.waited := by unfold State.modOwn; rw [State.modCast_waited]
@[simp] theorem State.modOwn_released (s : State) (g : Firing) (f : Cast → Cast) : (s.modOwn g f).released = s.released := by unfold State.modOwn; rw [State.modCast_released]
@[simp] theorem State.modOwn_structPages (s : State) (g : Firing) (f : Cast → Cast) : (s.modOwn g f).structPages = s.structPages := by unfold State.modOwn; rw [State.modCast_structPages]
@[simp] theorem State.modOwn_replay (s : State) (g : Firing) (f : Cast → Cast) : (s.modOwn g f).replay = s.replay := by unfold State.modOwn; rw [State.modCast_replay]
@[simp] theorem State.modOwn_guardNotes (s : State) (g : Firing) (f : Cast → Cast) : (s.modOwn g f).guardNotes = s.guardNotes := by unfold State.modOwn; rw [State.modCast_guardNotes]
@[simp] theorem State.modOwn_plateWork (s : State) (g : Firing) (f : Cast → Cast) : (s.modOwn g f).plateWork = s.plateWork := by unfold State.modOwn; rw [State.modCast_plateWork]
@[simp] theorem State.modOwn_migrated (s : State) (g : Firing) (f : Cast → Cast) : (s.modOwn g f).migrated = s.migrated := by unfold State.modOwn; rw [State.modCast_migrated]
@[simp] theorem State.modOwn_departed (s : State) (g : Firing) (f : Cast → Cast) : (s.modOwn g f).departed = s.departed := by unfold State.modOwn; rw [State.modCast_departed]
@[simp] theorem State.modOwn_ridge (s : State) (g : Firing) (f : Cast → Cast) : (s.modOwn g f).ridge = s.ridge := by unfold State.modOwn; rw [State.modCast_ridge]
@[simp] theorem State.modOwn_slots (s : State) (g : Firing) (f : Cast → Cast) : (s.modOwn g f).slots = s.slots := by unfold State.modOwn; rw [State.modCast_slots]
@[simp] theorem State.modOwn_rdgWaits (s : State) (g : Firing) (f : Cast → Cast) : (s.modOwn g f).rdgWaits = s.rdgWaits := by unfold State.modOwn; rw [State.modCast_rdgWaits]
@[simp] theorem State.modOwn_rdgTicket (s : State) (g : Firing) (f : Cast → Cast) : (s.modOwn g f).rdgTicket = s.rdgTicket := by unfold State.modOwn; rw [State.modCast_rdgTicket]
@[simp] theorem State.modOwn_changes (s : State) (g : Firing) (f : Cast → Cast) : (s.modOwn g f).changes = s.changes := by unfold State.modOwn; rw [State.modCast_changes]
@[simp] theorem State.modOwn_journal (s : State) (g : Firing) (f : Cast → Cast) : (s.modOwn g f).journal = s.journal := by unfold State.modOwn; rw [State.modCast_journal]
@[simp] theorem State.modOwn_saved (s : State) (g : Firing) (f : Cast → Cast) : (s.modOwn g f).saved = s.saved := by unfold State.modOwn; rw [State.modCast_saved]
@[simp] theorem State.modOwn_hostIn (s : State) (g : Firing) (f : Cast → Cast) : (s.modOwn g f).hostIn = s.hostIn := by unfold State.modOwn; rw [State.modCast_hostIn]
@[simp] theorem State.modOwn_windowIn (s : State) (g : Firing) (f : Cast → Cast) : (s.modOwn g f).windowIn = s.windowIn := by unfold State.modOwn; rw [State.modCast_windowIn]
@[simp] theorem State.modOwn_hostOut (s : State) (g : Firing) (f : Cast → Cast) : (s.modOwn g f).hostOut = s.hostOut := by unfold State.modOwn; rw [State.modCast_hostOut]
@[simp] theorem State.modOwn_hostMem (s : State) (g : Firing) (f : Cast → Cast) : (s.modOwn g f).hostMem = s.hostMem := by unfold State.modOwn; rw [State.modCast_hostMem]
@[simp] theorem State.modOwn_sigs (s : State) (g : Firing) (f : Cast → Cast) : (s.modOwn g f).sigs = s.sigs := by unfold State.modOwn; rw [State.modCast_sigs]
@[simp] theorem State.modOwn_linkUp (s : State) (g : Firing) (f : Cast → Cast) : (s.modOwn g f).linkUp = s.linkUp := by unfold State.modOwn; rw [State.modCast_linkUp]
@[simp] theorem State.modOwn_sideband (s : State) (g : Firing) (f : Cast → Cast) : (s.modOwn g f).sideband = s.sideband := by unfold State.modOwn; rw [State.modCast_sideband]
@[simp] theorem State.modOwn_policy (s : State) (g : Firing) (f : Cast → Cast) : (s.modOwn g f).policy = s.policy := by unfold State.modOwn; rw [State.modCast_policy]
@[simp] theorem State.modOwn_telem (s : State) (g : Firing) (f : Cast → Cast) : (s.modOwn g f).telem = s.telem := by unfold State.modOwn; rw [State.modCast_telem]
@[simp] theorem State.modOwn_reach (s : State) (g : Firing) (f : Cast → Cast) : (s.modOwn g f).reach = s.reach := by unfold State.modOwn; rw [State.modCast_reach]
@[simp] theorem State.modOwn_readyWords (s : State) (g : Firing) (f : Cast → Cast) : (s.modOwn g f).readyWords = s.readyWords := by unfold State.modOwn; rw [State.modCast_readyWords]
@[simp] theorem State.modOwn_created (s : State) (g : Firing) (f : Cast → Cast) : (s.modOwn g f).created = s.created := by unfold State.modOwn; rw [State.modCast_created]
@[simp] theorem State.modOwn_captures (s : State) (g : Firing) (f : Cast → Cast) : (s.modOwn g f).captures = s.captures := by unfold State.modOwn; rw [State.modCast_captures]

end Sys2Proof.Machine
end

