-- ==== Sys2Proof/Laws/Mem.lean ====
section
/-! SUPPORT. Sys2Proof/Laws/Mem.lean: the laws of sparse lists and of byte memory (Machine/Mem.lean): a read after a write,
a write that leaves other places alone, and the canonical form, which every memory operation keeps. -/

namespace Sys2Proof.Machine

/-! ### Sparse lists -/

@[simp] theorem lkp_put_same {α : Type} (l : List (Nat × α)) (i : Nat) (v : α) : lkp (put l i v) i = some v := by
  induction l with
  | nil => simp [put, lkp]
  | cons e l ih =>
    obtain ⟨k, w⟩ := e
    simp only [put]
    split
    · simp [lkp]
    · split
      · simp [lkp]
      · rename_i h1 h2
        simp only [lkp]
        rw [if_neg (fun h => h2 h.symm)]
        exact ih

theorem lkp_put_other {α : Type} (l : List (Nat × α)) {i j : Nat} (v : α) (h : j ≠ i) : lkp (put l i v) j = lkp l j := by
  induction l with
  | nil => simp [put, lkp, Ne.symm h]
  | cons e l ih =>
    obtain ⟨k, w⟩ := e
    simp only [put]
    split
    · simp [lkp, Ne.symm h]
    · split
      · rename_i h1 h2
        subst h2
        simp [lkp, Ne.symm h]
      · simp only [lkp, ih]

@[simp] theorem put_put {α : Type} (l : List (Nat × α)) (i : Nat) (v w : α) : put (put l i v) i w = put l i w := by
  induction l with
  | nil => simp [put]
  | cons e l ih =>
    obtain ⟨k, x⟩ := e
    by_cases h1 : i < k
    · simp [put, h1]
    · by_cases h2 : i = k
      · subst h2; simp [put]
      · simp [put, h1, h2, ih]

theorem lkp_del_same {α : Type} (l : List (Nat × α)) (i : Nat) : lkp (del l i) i = none := by
  induction l with
  | nil => simp [del, lkp]
  | cons e l ih =>
    obtain ⟨k, x⟩ := e
    by_cases h : k = i
    · simp [del, h, ih]
    · simp [del, h, lkp, ih]

theorem lkp_del_other {α : Type} (l : List (Nat × α)) {i j : Nat} (h : j ≠ i) : lkp (del l i) j = lkp l j := by
  induction l with
  | nil => simp [del, lkp]
  | cons e l ih =>
    obtain ⟨k, x⟩ := e
    by_cases h2 : k = i
    · subst h2; simp [del, lkp, ih, Ne.symm h]
    · simp [del, h2, lkp, ih]

/-! ### Units -/

@[simp] theorem State.bay_setBay (s : State) (c b : Nat) (x : Bay) : (s.setBay c b x).bay c b = x := by
  simp [State.bay]

@[simp] theorem State.elem_setElem (s : State) (c el : Nat) (x : Element) : (s.setElem c el x).elem c el = x := by
  simp [State.elem]

@[simp] theorem State.cru_setCru (s : State) (c n : Nat) (x : Crucible) : (s.setCru c n x).cru c n = x := by
  simp [State.cru]

@[simp] theorem State.crs_modCrs (s : State) (c : Nat) (f : Course → Course) : (s.modCrs c f).crs c = f (s.crs c) := by
  simp [State.crs]

@[simp] theorem State.setBay_setBay (s : State) (c b : Nat) (x y : Bay) : (s.setBay c b x).setBay c b y = s.setBay c b y := by
  simp [State.setBay]

@[simp] theorem State.frame?_setFrame (s : State) (c b ft : Nat) (x : Frame) : (s.setFrame c b ft x).frame? c b ft = some x := by
  simp [State.frame?, State.setFrame, State.modBay]

theorem State.frame?_modFrame (s : State) (c b ft : Nat) (f : Frame → Frame) :
    (s.modFrame c b ft f).frame? c b ft = (s.frame? c b ft).map f := by
  unfold State.modFrame
  cases h : s.frame? c b ft with
  | none => simp [h]
  | some x => simp

theorem State.cast?_modCast (s : State) (c b ft : Nat) (f : Cast → Cast) :
    (s.modCast c b ft f).cast? c b ft = (s.cast? c b ft).map f := by
  unfold State.modCast State.cast?
  rw [State.frame?_modFrame]
  cases h : s.frame? c b ft <;> simp

/-! ### Byte memory -/

theorem Memory.wf_cons {a : Nat} {v : Byte} {m : List Host.Cell} :
    Memory.wf ((a, v) :: m) = true ↔ v ≠ 0#8 ∧ (∀ e ∈ m.head?, a < e.1) ∧ Memory.wf m = true := by
  cases m with
  | nil => simp [Memory.wf]
  | cons e m => simp [Memory.wf, and_assoc]

theorem Memory.wf_tail {e : Host.Cell} {m : List Host.Cell} (h : Memory.wf (e :: m) = true) : Memory.wf m = true :=
  (Memory.wf_cons.mp h).2.2

theorem Memory.write_head {m : List Host.Cell} {a b : Nat} {v : Byte} (hb : b < a) (h : ∀ e ∈ m.head?, b < e.1)
    (hw : Memory.wf m = true) : ∀ e ∈ (Memory.write m a v).head?, b < e.1 := by
  cases m with
  | nil => unfold Memory.write; split <;> simp [hb]
  | cons e m =>
    obtain ⟨k, w⟩ := e
    have hk : b < k := h (k, w) (by simp)
    unfold Memory.write
    split
    · split <;> simp [hb, hk]
    · split
      · split
        · cases m with
          | nil => simp
          | cons f m =>
            have := (Memory.wf_cons.mp hw).2.1 f (by simp)
            intro e he
            simp only [List.head?_cons, Option.mem_def, Option.some.injEq] at he
            subst he
            omega
        · simp [hb]
      · simp [hk]

/-- A write keeps the canonical form. -/
theorem Memory.write_wf {m : List Host.Cell} (h : Memory.wf m = true) (a : Nat) (v : Byte) : Memory.wf (Memory.write m a v) = true := by
  induction m with
  | nil =>
    unfold Memory.write
    split
    · rfl
    · rename_i hv; simp [Memory.wf, hv]
  | cons e m ih =>
    obtain ⟨k, w⟩ := e
    have ⟨h1, h2, h3⟩ := Memory.wf_cons.mp h
    unfold Memory.write
    split
    · split
      · exact h
      · rename_i h4 h5
        exact Memory.wf_cons.mpr ⟨h5, by simpa using h4, h⟩
    · split
      · rename_i h4 h5
        subst h5
        split
        · exact h3
        · rename_i h6
          exact Memory.wf_cons.mpr ⟨h6, h2, h3⟩
      · exact Memory.wf_cons.mpr ⟨h1, Memory.write_head (by omega) h2 h3, ih h3⟩

/-- Consecutive writes keep the canonical form. -/
theorem Memory.putBytes_wf {m : List Host.Cell} (h : Memory.wf m = true) (a : Nat) (bs : List Byte) :
    Memory.wf (Memory.putBytes m a bs) = true := by
  induction bs generalizing m a with
  | nil => simpa [Memory.putBytes] using h
  | cons b bs ih => exact ih (Memory.write_wf h a b) (a + 1)

/-- A write of a number keeps the canonical form. -/
theorem Memory.set_wf {m : List Host.Cell} (h : Memory.wf m = true) (a n x : Nat) : Memory.wf (Memory.set m a n x) = true :=
  Memory.putBytes_wf h a _

/-- A run of writes keeps the canonical form. -/
theorem Memory.foldl_write_wf {α : Type} {m : List Host.Cell} (h : Memory.wf m = true) (l : List α) (a : α → Nat) (v : α → Byte) :
    Memory.wf (l.foldl (fun m x => Memory.write m (a x) (v x)) m) = true := by
  induction l generalizing m with
  | nil => simpa using h
  | cons x l ih => exact ih (Memory.write_wf h _ _)

theorem Memory.foldl_wf {α : Type} (f : List Host.Cell → α → List Host.Cell)
    (hf : ∀ m x, Memory.wf m = true → Memory.wf (f m x) = true) {m : List Host.Cell} (h : Memory.wf m = true) (l : List α) :
    Memory.wf (l.foldl f m) = true := by
  induction l generalizing m with
  | nil => simpa using h
  | cons x l ih => exact ih (hf _ _ h)

theorem Memory.filter_wf_aux {m : List Host.Cell} (p : Host.Cell → Bool) :
    Memory.wf m = true → Memory.wf (m.filter p) = true ∧ ∀ b, (∀ e ∈ m.head?, b < e.1) → ∀ e ∈ (m.filter p).head?, b < e.1 := by
  induction m with
  | nil => intro _; simp [Memory.wf]
  | cons e m ih =>
    obtain ⟨k, w⟩ := e
    intro h
    have ⟨h1, h2, h3⟩ := Memory.wf_cons.mp h
    have ⟨i1, i2⟩ := ih h3
    by_cases hp : p (k, w) = true
    · rw [List.filter_cons_of_pos hp]
      refine ⟨Memory.wf_cons.mpr ⟨h1, i2 k h2, i1⟩, ?_⟩
      intro b hb
      simpa using hb
    · rw [List.filter_cons_of_neg hp]
      refine ⟨i1, ?_⟩
      intro b hb
      refine i2 b ?_
      intro e he
      have := h2 e he
      have := hb (k, w) (by simp)
      simp at this
      omega

/-- Clearing a range keeps the canonical form. -/
theorem Memory.clear_wf {m : List Host.Cell} (h : Memory.wf m = true) (a n : Nat) : Memory.wf (Memory.clear m a n) = true :=
  (Memory.filter_wf_aux _ h).1

theorem Memory.wf_filter {m : List Host.Cell} (h : Memory.wf m = true) (p : Host.Cell → Bool) : Memory.wf (m.filter p) = true :=
  (Memory.filter_wf_aux p h).1

theorem Memory.lkp_of_lt {m : List Host.Cell} {a b : Nat} (h : Memory.wf m = true) (hb : ∀ e ∈ m.head?, b < e.1) (ha : a ≤ b) :
    lkp m a = none := by
  induction m generalizing b with
  | nil => rfl
  | cons e m ih =>
    obtain ⟨k, w⟩ := e
    have ⟨_, h2, h3⟩ := Memory.wf_cons.mp h
    have hk : b < k := hb (k, w) (by simp)
    simp only [lkp]
    rw [if_neg (by omega)]
    exact ih h3 h2 (by omega)

/-- A read of the byte just written. -/
theorem Memory.read_write_same {m : List Host.Cell} (h : Memory.wf m = true) (a : Nat) (v : Byte) :
    Memory.read (Memory.write m a v) a = v := by
  unfold Memory.read
  induction m with
  | nil =>
    unfold Memory.write
    split
    · rename_i hv; simp [lkp, hv]
    · simp [lkp]
  | cons e m ih =>
    obtain ⟨k, w⟩ := e
    have ⟨h1, h2, h3⟩ := Memory.wf_cons.mp h
    unfold Memory.write
    split
    · rename_i hak
      split
      · rename_i hv
        have : lkp ((k, w) :: m) a = none := Memory.lkp_of_lt (b := a) h (by simpa using hak) (Nat.le_refl a)
        rw [this, hv]; rfl
      · simp [lkp]
    · split
      · rename_i hak hk
        subst hk
        split
        · rename_i hv
          have : lkp m a = none := Memory.lkp_of_lt h3 h2 (Nat.le_refl a)
          rw [this, hv]; rfl
        · simp [lkp]
      · rename_i hne
        simp only [lkp]
        rw [if_neg (fun h => hne h.symm)]
        exact ih h3

/-- A write leaves every other byte alone. -/
theorem Memory.read_write_other (m : List Host.Cell) {a b : Nat} (v : Byte) (h : b ≠ a) :
    Memory.read (Memory.write m a v) b = Memory.read m b := by
  unfold Memory.read
  congr 1
  induction m with
  | nil =>
    unfold Memory.write
    split
    · rfl
    · simp [lkp, Ne.symm h]
  | cons e m ih =>
    obtain ⟨k, w⟩ := e
    unfold Memory.write
    split
    · split
      · rfl
      · simp [lkp, Ne.symm h]
    · split
      · rename_i hak hk
        subst hk
        split
        · simp [lkp, Ne.symm h]
        · simp [lkp, Ne.symm h]
      · simp only [lkp, ih]

/-- Bytes outside a run of writes stay. -/
theorem Memory.read_putBytes_other (m : List Host.Cell) (bs : List Byte) {a b : Nat} (h : b < a ∨ a + bs.length ≤ b) :
    Memory.read (Memory.putBytes m a bs) b = Memory.read m b := by
  induction bs generalizing m a with
  | nil => rfl
  | cons x bs ih =>
    simp only [Memory.putBytes, List.length_cons] at *
    rw [ih _ (by omega), Memory.read_write_other _ _ (by omega)]

/-- A byte of a run of writes reads back. -/
theorem Memory.read_putBytes {m : List Host.Cell} (h : Memory.wf m = true) (a : Nat) (bs : List Byte) {i : Nat} {v : Byte}
    (hi : bs[i]? = some v) : Memory.read (Memory.putBytes m a bs) (a + i) = v := by
  induction bs generalizing m a i with
  | nil => simp at hi
  | cons x bs ih =>
    cases i with
    | zero =>
      simp only [List.getElem?_cons_zero, Option.some.injEq] at hi
      rw [Memory.putBytes, Memory.read_putBytes_other _ _ (by omega), Nat.add_zero, Memory.read_write_same h, hi]
    | succ i =>
      rw [Memory.putBytes, show a + (i + 1) = a + 1 + i by omega]
      exact ih (Memory.write_wf h a x) (a + 1) (by simpa using hi)

/-- A part of a run of writes reads back. -/
theorem Memory.bytes_putBytes {m : List Host.Cell} (h : Memory.wf m = true) (a : Nat) (bs : List Byte) {i n : Nat}
    (hn : i + n ≤ bs.length) : Memory.bytes (Memory.putBytes m a bs) (a + i) n = (bs.drop i).take n := by
  induction n generalizing i with
  | zero => simp [Memory.bytes]
  | succ n ih =>
    have hi : i < bs.length := by omega
    rw [Memory.bytes, Memory.read_putBytes h a bs (List.getElem?_eq_getElem hi), Nat.add_assoc, ih (by omega),
      List.drop_eq_getElem_cons hi, List.take_succ_cons]

end Sys2Proof.Machine
end

