-- ==== Sys2Proof/Laws/PerInstr.lean ====
section
/-! SUPPORT. Sys2Proof/Laws/PerInstr.lean: what holds of every instruction as syntax, one lemma per constructor: its number and
its fields name it. -/

namespace Sys2Proof

/-- The OP and the fields of an instruction's record, or the number and the operands of an event, give it back; an OP is not 0
and has 8 bits, and so has an event's number (R115, R128). -/
def Laws.Fields.Statement (i : Instr) : Prop :=
  match i.op with
  | some op => 0 < op ∧ op < 256 ∧ (i.variantOk = true → instrOfOp op i.fields = some i)
  | none => 0 < i.eventNo ∧ i.eventNo < 256 ∧ eventOfNo i.eventNo i.args = some i

theorem Laws.Fields.tokenArrival (e : EvArgs) : Laws.Fields.Statement (.tokenArrival e) :=
  ⟨Nat.le_of_ble_eq_true rfl, Nat.le_of_ble_eq_true rfl, rfl⟩

theorem Laws.Fields.castCommit (e : EvArgs) : Laws.Fields.Statement (.castCommit e) :=
  ⟨Nat.le_of_ble_eq_true rfl, Nat.le_of_ble_eq_true rfl, rfl⟩

theorem Laws.Fields.castAbort (e : EvArgs) : Laws.Fields.Statement (.castAbort e) :=
  ⟨Nat.le_of_ble_eq_true rfl, Nat.le_of_ble_eq_true rfl, rfl⟩

theorem Laws.Fields.stall (e : EvArgs) : Laws.Fields.Statement (.stall e) :=
  ⟨Nat.le_of_ble_eq_true rfl, Nat.le_of_ble_eq_true rfl, rfl⟩

theorem Laws.Fields.compactionMoveDone (e : EvArgs) : Laws.Fields.Statement (.compactionMoveDone e) :=
  ⟨Nat.le_of_ble_eq_true rfl, Nat.le_of_ble_eq_true rfl, rfl⟩

theorem Laws.Fields.spillTimerExpiry (e : EvArgs) : Laws.Fields.Statement (.spillTimerExpiry e) :=
  ⟨Nat.le_of_ble_eq_true rfl, Nat.le_of_ble_eq_true rfl, rfl⟩

theorem Laws.Fields.spillWriteAck (e : EvArgs) : Laws.Fields.Statement (.spillWriteAck e) :=
  ⟨Nat.le_of_ble_eq_true rfl, Nat.le_of_ble_eq_true rfl, rfl⟩

theorem Laws.Fields.waveLoadPerform (e : EvArgs) : Laws.Fields.Statement (.waveLoadPerform e) :=
  ⟨Nat.le_of_ble_eq_true rfl, Nat.le_of_ble_eq_true rfl, rfl⟩

theorem Laws.Fields.walkComplete (e : EvArgs) : Laws.Fields.Statement (.walkComplete e) :=
  ⟨Nat.le_of_ble_eq_true rfl, Nat.le_of_ble_eq_true rfl, rfl⟩

theorem Laws.Fields.walkerStart (e : EvArgs) : Laws.Fields.Statement (.walkerStart e) :=
  ⟨Nat.le_of_ble_eq_true rfl, Nat.le_of_ble_eq_true rfl, rfl⟩

theorem Laws.Fields.cmbPartialArrival (e : EvArgs) : Laws.Fields.Statement (.cmbPartialArrival e) :=
  ⟨Nat.le_of_ble_eq_true rfl, Nat.le_of_ble_eq_true rfl, rfl⟩

theorem Laws.Fields.cmbCellTimeout (e : EvArgs) : Laws.Fields.Statement (.cmbCellTimeout e) :=
  ⟨Nat.le_of_ble_eq_true rfl, Nat.le_of_ble_eq_true rfl, rfl⟩

theorem Laws.Fields.barrierPhaseComplete (e : EvArgs) : Laws.Fields.Statement (.barrierPhaseComplete e) :=
  ⟨Nat.le_of_ble_eq_true rfl, Nat.le_of_ble_eq_true rfl, rfl⟩

theorem Laws.Fields.ridgeOccurrence (e : EvArgs) : Laws.Fields.Statement (.ridgeOccurrence e) :=
  ⟨Nat.le_of_ble_eq_true rfl, Nat.le_of_ble_eq_true rfl, rfl⟩

theorem Laws.Fields.ridgeControlWord (e : EvArgs) : Laws.Fields.Statement (.ridgeControlWord e) :=
  ⟨Nat.le_of_ble_eq_true rfl, Nat.le_of_ble_eq_true rfl, rfl⟩

theorem Laws.Fields.ridgeMirrorApply (e : EvArgs) : Laws.Fields.Statement (.ridgeMirrorApply e) :=
  ⟨Nat.le_of_ble_eq_true rfl, Nat.le_of_ble_eq_true rfl, rfl⟩

theorem Laws.Fields.tickUntilExpiry (e : EvArgs) : Laws.Fields.Statement (.tickUntilExpiry e) :=
  ⟨Nat.le_of_ble_eq_true rfl, Nat.le_of_ble_eq_true rfl, rfl⟩

theorem Laws.Fields.crucibleTokenArrival (e : EvArgs) : Laws.Fields.Statement (.crucibleTokenArrival e) :=
  ⟨Nat.le_of_ble_eq_true rfl, Nat.le_of_ble_eq_true rfl, rfl⟩

theorem Laws.Fields.crucibleOperationStart (e : EvArgs) : Laws.Fields.Statement (.crucibleOperationStart e) :=
  ⟨Nat.le_of_ble_eq_true rfl, Nat.le_of_ble_eq_true rfl, rfl⟩

theorem Laws.Fields.permitHandout (e : EvArgs) : Laws.Fields.Statement (.permitHandout e) :=
  ⟨Nat.le_of_ble_eq_true rfl, Nat.le_of_ble_eq_true rfl, rfl⟩

theorem Laws.Fields.burstEnd (e : EvArgs) : Laws.Fields.Statement (.burstEnd e) :=
  ⟨Nat.le_of_ble_eq_true rfl, Nat.le_of_ble_eq_true rfl, rfl⟩

theorem Laws.Fields.gateStreamBind (e : EvArgs) : Laws.Fields.Statement (.gateStreamBind e) :=
  ⟨Nat.le_of_ble_eq_true rfl, Nat.le_of_ble_eq_true rfl, rfl⟩

theorem Laws.Fields.gateFeedBeat (e : EvArgs) : Laws.Fields.Statement (.gateFeedBeat e) :=
  ⟨Nat.le_of_ble_eq_true rfl, Nat.le_of_ble_eq_true rfl, rfl⟩

theorem Laws.Fields.gateDrainBeat (e : EvArgs) : Laws.Fields.Statement (.gateDrainBeat e) :=
  ⟨Nat.le_of_ble_eq_true rfl, Nat.le_of_ble_eq_true rfl, rfl⟩

theorem Laws.Fields.gateStreamComplete (e : EvArgs) : Laws.Fields.Statement (.gateStreamComplete e) :=
  ⟨Nat.le_of_ble_eq_true rfl, Nat.le_of_ble_eq_true rfl, rfl⟩

theorem Laws.Fields.gateStreamFault (e : EvArgs) : Laws.Fields.Statement (.gateStreamFault e) :=
  ⟨Nat.le_of_ble_eq_true rfl, Nat.le_of_ble_eq_true rfl, rfl⟩

theorem Laws.Fields.faultDelivery (e : EvArgs) : Laws.Fields.Statement (.faultDelivery e) :=
  ⟨Nat.le_of_ble_eq_true rfl, Nat.le_of_ble_eq_true rfl, rfl⟩

theorem Laws.Fields.verdictApply (e : EvArgs) : Laws.Fields.Statement (.verdictApply e) :=
  ⟨Nat.le_of_ble_eq_true rfl, Nat.le_of_ble_eq_true rfl, rfl⟩

theorem Laws.Fields.kernelSelect (e : EvArgs) : Laws.Fields.Statement (.kernelSelect e) :=
  ⟨Nat.le_of_ble_eq_true rfl, Nat.le_of_ble_eq_true rfl, rfl⟩

theorem Laws.Fields.kernelStart (e : EvArgs) : Laws.Fields.Statement (.kernelStart e) :=
  ⟨Nat.le_of_ble_eq_true rfl, Nat.le_of_ble_eq_true rfl, rfl⟩

theorem Laws.Fields.kernelCancel (e : EvArgs) : Laws.Fields.Statement (.kernelCancel e) :=
  ⟨Nat.le_of_ble_eq_true rfl, Nat.le_of_ble_eq_true rfl, rfl⟩

theorem Laws.Fields.gangStartTick (e : EvArgs) : Laws.Fields.Statement (.gangStartTick e) :=
  ⟨Nat.le_of_ble_eq_true rfl, Nat.le_of_ble_eq_true rfl, rfl⟩

theorem Laws.Fields.sourceInjection (e : EvArgs) : Laws.Fields.Statement (.sourceInjection e) :=
  ⟨Nat.le_of_ble_eq_true rfl, Nat.le_of_ble_eq_true rfl, rfl⟩

theorem Laws.Fields.kernelEnd (e : EvArgs) : Laws.Fields.Statement (.kernelEnd e) :=
  ⟨Nat.le_of_ble_eq_true rfl, Nat.le_of_ble_eq_true rfl, rfl⟩

theorem Laws.Fields.heapPop (e : EvArgs) : Laws.Fields.Statement (.heapPop e) :=
  ⟨Nat.le_of_ble_eq_true rfl, Nat.le_of_ble_eq_true rfl, rfl⟩

theorem Laws.Fields.sliceEnd (e : EvArgs) : Laws.Fields.Statement (.sliceEnd e) :=
  ⟨Nat.le_of_ble_eq_true rfl, Nat.le_of_ble_eq_true rfl, rfl⟩

theorem Laws.Fields.sweep (e : EvArgs) : Laws.Fields.Statement (.sweep e) :=
  ⟨Nat.le_of_ble_eq_true rfl, Nat.le_of_ble_eq_true rfl, rfl⟩

theorem Laws.Fields.freeze (e : EvArgs) : Laws.Fields.Statement (.freeze e) :=
  ⟨Nat.le_of_ble_eq_true rfl, Nat.le_of_ble_eq_true rfl, rfl⟩

theorem Laws.Fields.sliceResume (e : EvArgs) : Laws.Fields.Statement (.sliceResume e) :=
  ⟨Nat.le_of_ble_eq_true rfl, Nat.le_of_ble_eq_true rfl, rfl⟩

theorem Laws.Fields.cfgFillComplete (e : EvArgs) : Laws.Fields.Statement (.cfgFillComplete e) :=
  ⟨Nat.le_of_ble_eq_true rfl, Nat.le_of_ble_eq_true rfl, rfl⟩

theorem Laws.Fields.pagePull (e : EvArgs) : Laws.Fields.Statement (.pagePull e) :=
  ⟨Nat.le_of_ble_eq_true rfl, Nat.le_of_ble_eq_true rfl, rfl⟩

theorem Laws.Fields.pullLost (e : EvArgs) : Laws.Fields.Statement (.pullLost e) :=
  ⟨Nat.le_of_ble_eq_true rfl, Nat.le_of_ble_eq_true rfl, rfl⟩

theorem Laws.Fields.permitStepLower (e : EvArgs) : Laws.Fields.Statement (.permitStepLower e) :=
  ⟨Nat.le_of_ble_eq_true rfl, Nat.le_of_ble_eq_true rfl, rfl⟩

theorem Laws.Fields.permitStepRaise (e : EvArgs) : Laws.Fields.Statement (.permitStepRaise e) :=
  ⟨Nat.le_of_ble_eq_true rfl, Nat.le_of_ble_eq_true rfl, rfl⟩

theorem Laws.Fields.courseRetentionEnter (e : EvArgs) : Laws.Fields.Statement (.courseRetentionEnter e) :=
  ⟨Nat.le_of_ble_eq_true rfl, Nat.le_of_ble_eq_true rfl, rfl⟩

theorem Laws.Fields.courseOffEnter (e : EvArgs) : Laws.Fields.Statement (.courseOffEnter e) :=
  ⟨Nat.le_of_ble_eq_true rfl, Nat.le_of_ble_eq_true rfl, rfl⟩

theorem Laws.Fields.courseWake (e : EvArgs) : Laws.Fields.Statement (.courseWake e) :=
  ⟨Nat.le_of_ble_eq_true rfl, Nat.le_of_ble_eq_true rfl, rfl⟩

theorem Laws.Fields.scrub (e : EvArgs) : Laws.Fields.Statement (.scrub e) :=
  ⟨Nat.le_of_ble_eq_true rfl, Nat.le_of_ble_eq_true rfl, rfl⟩

theorem Laws.Fields.uncorrectableError (e : EvArgs) : Laws.Fields.Statement (.uncorrectableError e) :=
  ⟨Nat.le_of_ble_eq_true rfl, Nat.le_of_ble_eq_true rfl, rfl⟩

theorem Laws.Fields.downpipeFail (e : EvArgs) : Laws.Fields.Statement (.downpipeFail e) :=
  ⟨Nat.le_of_ble_eq_true rfl, Nat.le_of_ble_eq_true rfl, rfl⟩

theorem Laws.Fields.courseFail (e : EvArgs) : Laws.Fields.Statement (.courseFail e) :=
  ⟨Nat.le_of_ble_eq_true rfl, Nat.le_of_ble_eq_true rfl, rfl⟩

theorem Laws.Fields.downpipeTestBeat (e : EvArgs) : Laws.Fields.Statement (.downpipeTestBeat e) :=
  ⟨Nat.le_of_ble_eq_true rfl, Nat.le_of_ble_eq_true rfl, rfl⟩

theorem Laws.Fields.eaveFlitReplay (e : EvArgs) : Laws.Fields.Statement (.eaveFlitReplay e) :=
  ⟨Nat.le_of_ble_eq_true rfl, Nat.le_of_ble_eq_true rfl, rfl⟩

theorem Laws.Fields.eaveLinkLoss (e : EvArgs) : Laws.Fields.Statement (.eaveLinkLoss e) :=
  ⟨Nat.le_of_ble_eq_true rfl, Nat.le_of_ble_eq_true rfl, rfl⟩

theorem Laws.Fields.restoreCopyDone (e : EvArgs) : Laws.Fields.Statement (.restoreCopyDone e) :=
  ⟨Nat.le_of_ble_eq_true rfl, Nat.le_of_ble_eq_true rfl, rfl⟩

theorem Laws.Fields.crucibleOperationComplete (e : EvArgs) : Laws.Fields.Statement (.crucibleOperationComplete e) :=
  ⟨Nat.le_of_ble_eq_true rfl, Nat.le_of_ble_eq_true rfl, rfl⟩

theorem Laws.Fields.sigDeliveryAck (e : EvArgs) : Laws.Fields.Statement (.sigDeliveryAck e) :=
  ⟨Nat.le_of_ble_eq_true rfl, Nat.le_of_ble_eq_true rfl, rfl⟩

theorem Laws.Fields.hostWindowWrite (e : EvArgs) : Laws.Fields.Statement (.hostWindowWrite e) :=
  ⟨Nat.le_of_ble_eq_true rfl, Nat.le_of_ble_eq_true rfl, rfl⟩

theorem Laws.Fields.permitFallDue (e : EvArgs) : Laws.Fields.Statement (.permitFallDue e) :=
  ⟨Nat.le_of_ble_eq_true rfl, Nat.le_of_ble_eq_true rfl, rfl⟩

theorem Laws.Fields.pass (r : NodeRec) : Laws.Fields.Statement (.pass r) :=
  ⟨Nat.le_of_ble_eq_true rfl, Nat.le_of_ble_eq_true rfl, fun _ => rfl⟩

theorem Laws.Fields.sink (r : NodeRec) : Laws.Fields.Statement (.sink r) :=
  ⟨Nat.le_of_ble_eq_true rfl, Nat.le_of_ble_eq_true rfl, fun _ => rfl⟩

theorem Laws.Fields.lit (r : NodeRec) : Laws.Fields.Statement (.lit r) :=
  ⟨Nat.le_of_ble_eq_true rfl, Nat.le_of_ble_eq_true rfl, fun _ => rfl⟩

theorem Laws.Fields.src (r : NodeRec) : Laws.Fields.Statement (.src r) :=
  ⟨Nat.le_of_ble_eq_true rfl, Nat.le_of_ble_eq_true rfl, fun _ => rfl⟩

theorem Laws.Fields.steer (r : NodeRec) : Laws.Fields.Statement (.steer r) :=
  ⟨Nat.le_of_ble_eq_true rfl, Nat.le_of_ble_eq_true rfl, fun _ => rfl⟩

theorem Laws.Fields.sel (r : NodeRec) : Laws.Fields.Statement (.sel r) :=
  ⟨Nat.le_of_ble_eq_true rfl, Nat.le_of_ble_eq_true rfl, fun _ => rfl⟩

theorem Laws.Fields.merge (r : NodeRec) : Laws.Fields.Statement (.merge r) :=
  ⟨Nat.le_of_ble_eq_true rfl, Nat.le_of_ble_eq_true rfl, fun _ => rfl⟩

theorem Laws.Fields.join (r : NodeRec) : Laws.Fields.Statement (.join r) :=
  ⟨Nat.le_of_ble_eq_true rfl, Nat.le_of_ble_eq_true rfl, fun _ => rfl⟩

theorem Laws.Fields.vert (r : NodeRec) : Laws.Fields.Statement (.vert r) :=
  ⟨Nat.le_of_ble_eq_true rfl, Nat.le_of_ble_eq_true rfl, fun _ => rfl⟩

theorem Laws.Fields.eave (r : NodeRec) : Laws.Fields.Statement (.eave r) :=
  ⟨Nat.le_of_ble_eq_true rfl, Nat.le_of_ble_eq_true rfl, fun _ => rfl⟩

theorem Laws.Fields.repl (r : NodeRec) : Laws.Fields.Statement (.repl r) :=
  ⟨Nat.le_of_ble_eq_true rfl, Nat.le_of_ble_eq_true rfl, fun _ => rfl⟩

theorem Laws.Fields.extr (r : NodeRec) : Laws.Fields.Statement (.extr r) :=
  ⟨Nat.le_of_ble_eq_true rfl, Nat.le_of_ble_eq_true rfl, fun _ => rfl⟩

theorem Laws.Fields.tagget (r : NodeRec) : Laws.Fields.Statement (.tagget r) :=
  ⟨Nat.le_of_ble_eq_true rfl, Nat.le_of_ble_eq_true rfl, fun _ => rfl⟩

theorem Laws.Fields.tagset (r : NodeRec) : Laws.Fields.Statement (.tagset r) :=
  ⟨Nat.le_of_ble_eq_true rfl, Nat.le_of_ble_eq_true rfl, fun _ => rfl⟩

theorem Laws.Fields.call (r : NodeRec) : Laws.Fields.Statement (.call r) :=
  ⟨Nat.le_of_ble_eq_true rfl, Nat.le_of_ble_eq_true rfl, fun _ => rfl⟩

theorem Laws.Fields.ret (r : NodeRec) : Laws.Fields.Statement (.ret r) :=
  ⟨Nat.le_of_ble_eq_true rfl, Nat.le_of_ble_eq_true rfl, fun _ => rfl⟩

theorem Laws.Fields.exit (r : NodeRec) : Laws.Fields.Statement (.exit r) :=
  ⟨Nat.le_of_ble_eq_true rfl, Nat.le_of_ble_eq_true rfl, fun _ => rfl⟩

theorem Laws.Fields.iter (r : NodeRec) : Laws.Fields.Statement (.iter r) :=
  ⟨Nat.le_of_ble_eq_true rfl, Nat.le_of_ble_eq_true rfl, fun _ => rfl⟩

theorem Laws.Fields.strand (r : NodeRec) : Laws.Fields.Statement (.strand r) :=
  ⟨Nat.le_of_ble_eq_true rfl, Nat.le_of_ble_eq_true rfl, fun _ => rfl⟩

theorem Laws.Fields.allocFrm (r : NodeRec) : Laws.Fields.Statement (.allocFrm r) :=
  ⟨Nat.le_of_ble_eq_true rfl, Nat.le_of_ble_eq_true rfl, fun _ => rfl⟩

theorem Laws.Fields.allocBuf (r : NodeRec) : Laws.Fields.Statement (.allocBuf r) :=
  ⟨Nat.le_of_ble_eq_true rfl, Nat.le_of_ble_eq_true rfl, fun _ => rfl⟩

theorem Laws.Fields.allocRdg (r : NodeRec) : Laws.Fields.Statement (.allocRdg r) :=
  ⟨Nat.le_of_ble_eq_true rfl, Nat.le_of_ble_eq_true rfl, fun _ => rfl⟩

theorem Laws.Fields.allocCru (r : NodeRec) : Laws.Fields.Statement (.allocCru r) :=
  ⟨Nat.le_of_ble_eq_true rfl, Nat.le_of_ble_eq_true rfl, fun _ => rfl⟩

theorem Laws.Fields.freeFrm (r : NodeRec) : Laws.Fields.Statement (.freeFrm r) :=
  ⟨Nat.le_of_ble_eq_true rfl, Nat.le_of_ble_eq_true rfl, fun _ => rfl⟩

theorem Laws.Fields.freeBuf (r : NodeRec) : Laws.Fields.Statement (.freeBuf r) :=
  ⟨Nat.le_of_ble_eq_true rfl, Nat.le_of_ble_eq_true rfl, fun _ => rfl⟩

theorem Laws.Fields.use (r : NodeRec) : Laws.Fields.Statement (.use r) :=
  ⟨Nat.le_of_ble_eq_true rfl, Nat.le_of_ble_eq_true rfl, fun _ => rfl⟩

theorem Laws.Fields.freeRdg (r : NodeRec) : Laws.Fields.Statement (.freeRdg r) :=
  ⟨Nat.le_of_ble_eq_true rfl, Nat.le_of_ble_eq_true rfl, fun _ => rfl⟩

theorem Laws.Fields.poolq (r : NodeRec) : Laws.Fields.Statement (.poolq r) :=
  ⟨Nat.le_of_ble_eq_true rfl, Nat.le_of_ble_eq_true rfl, fun _ => rfl⟩

theorem Laws.Fields.add (r : NodeRec) : Laws.Fields.Statement (.add r) :=
  ⟨Nat.le_of_ble_eq_true rfl, Nat.le_of_ble_eq_true rfl, fun _ => rfl⟩

theorem Laws.Fields.sub (r : NodeRec) : Laws.Fields.Statement (.sub r) :=
  ⟨Nat.le_of_ble_eq_true rfl, Nat.le_of_ble_eq_true rfl, fun _ => rfl⟩

theorem Laws.Fields.mul (r : NodeRec) : Laws.Fields.Statement (.mul r) :=
  ⟨Nat.le_of_ble_eq_true rfl, Nat.le_of_ble_eq_true rfl, fun _ => rfl⟩

theorem Laws.Fields.mulh (r : NodeRec) : Laws.Fields.Statement (.mulh r) :=
  ⟨Nat.le_of_ble_eq_true rfl, Nat.le_of_ble_eq_true rfl, fun _ => rfl⟩

theorem Laws.Fields.div (r : NodeRec) : Laws.Fields.Statement (.div r) :=
  ⟨Nat.le_of_ble_eq_true rfl, Nat.le_of_ble_eq_true rfl, fun _ => rfl⟩

theorem Laws.Fields.rem (r : NodeRec) : Laws.Fields.Statement (.rem r) :=
  ⟨Nat.le_of_ble_eq_true rfl, Nat.le_of_ble_eq_true rfl, fun _ => rfl⟩

theorem Laws.Fields.mad (r : NodeRec) : Laws.Fields.Statement (.mad r) :=
  ⟨Nat.le_of_ble_eq_true rfl, Nat.le_of_ble_eq_true rfl, fun _ => rfl⟩

theorem Laws.Fields.neg (r : NodeRec) : Laws.Fields.Statement (.neg r) :=
  ⟨Nat.le_of_ble_eq_true rfl, Nat.le_of_ble_eq_true rfl, fun _ => rfl⟩

theorem Laws.Fields.abs (r : NodeRec) : Laws.Fields.Statement (.abs r) :=
  ⟨Nat.le_of_ble_eq_true rfl, Nat.le_of_ble_eq_true rfl, fun _ => rfl⟩

theorem Laws.Fields.min (r : NodeRec) : Laws.Fields.Statement (.min r) :=
  ⟨Nat.le_of_ble_eq_true rfl, Nat.le_of_ble_eq_true rfl, fun _ => rfl⟩

theorem Laws.Fields.max (r : NodeRec) : Laws.Fields.Statement (.max r) :=
  ⟨Nat.le_of_ble_eq_true rfl, Nat.le_of_ble_eq_true rfl, fun _ => rfl⟩

theorem Laws.Fields.and (r : NodeRec) : Laws.Fields.Statement (.and r) :=
  ⟨Nat.le_of_ble_eq_true rfl, Nat.le_of_ble_eq_true rfl, fun _ => rfl⟩

theorem Laws.Fields.or (r : NodeRec) : Laws.Fields.Statement (.or r) :=
  ⟨Nat.le_of_ble_eq_true rfl, Nat.le_of_ble_eq_true rfl, fun _ => rfl⟩

theorem Laws.Fields.xor (r : NodeRec) : Laws.Fields.Statement (.xor r) :=
  ⟨Nat.le_of_ble_eq_true rfl, Nat.le_of_ble_eq_true rfl, fun _ => rfl⟩

theorem Laws.Fields.not (r : NodeRec) : Laws.Fields.Statement (.not r) :=
  ⟨Nat.le_of_ble_eq_true rfl, Nat.le_of_ble_eq_true rfl, fun _ => rfl⟩

theorem Laws.Fields.andn (r : NodeRec) : Laws.Fields.Statement (.andn r) :=
  ⟨Nat.le_of_ble_eq_true rfl, Nat.le_of_ble_eq_true rfl, fun _ => rfl⟩

theorem Laws.Fields.shl (r : NodeRec) : Laws.Fields.Statement (.shl r) :=
  ⟨Nat.le_of_ble_eq_true rfl, Nat.le_of_ble_eq_true rfl, fun _ => rfl⟩

theorem Laws.Fields.shr (r : NodeRec) : Laws.Fields.Statement (.shr r) :=
  ⟨Nat.le_of_ble_eq_true rfl, Nat.le_of_ble_eq_true rfl, fun _ => rfl⟩

theorem Laws.Fields.sar (r : NodeRec) : Laws.Fields.Statement (.sar r) :=
  ⟨Nat.le_of_ble_eq_true rfl, Nat.le_of_ble_eq_true rfl, fun _ => rfl⟩

theorem Laws.Fields.rol (r : NodeRec) : Laws.Fields.Statement (.rol r) :=
  ⟨Nat.le_of_ble_eq_true rfl, Nat.le_of_ble_eq_true rfl, fun _ => rfl⟩

theorem Laws.Fields.clz (r : NodeRec) : Laws.Fields.Statement (.clz r) :=
  ⟨Nat.le_of_ble_eq_true rfl, Nat.le_of_ble_eq_true rfl, fun _ => rfl⟩

theorem Laws.Fields.pop (r : NodeRec) : Laws.Fields.Statement (.pop r) :=
  ⟨Nat.le_of_ble_eq_true rfl, Nat.le_of_ble_eq_true rfl, fun _ => rfl⟩

theorem Laws.Fields.cmp (r : NodeRec) : Laws.Fields.Statement (.cmp r) :=
  ⟨Nat.le_of_ble_eq_true rfl, Nat.le_of_ble_eq_true rfl, fun _ => rfl⟩

theorem Laws.Fields.lea (r : NodeRec) : Laws.Fields.Statement (.lea r) :=
  ⟨Nat.le_of_ble_eq_true rfl, Nat.le_of_ble_eq_true rfl, fun _ => rfl⟩

theorem Laws.Fields.bfx (r : NodeRec) : Laws.Fields.Statement (.bfx r) :=
  ⟨Nat.le_of_ble_eq_true rfl, Nat.le_of_ble_eq_true rfl, fun _ => rfl⟩

theorem Laws.Fields.bfi (r : NodeRec) : Laws.Fields.Statement (.bfi r) :=
  ⟨Nat.le_of_ble_eq_true rfl, Nat.le_of_ble_eq_true rfl, fun _ => rfl⟩

theorem Laws.Fields.ext (r : NodeRec) : Laws.Fields.Statement (.ext r) :=
  ⟨Nat.le_of_ble_eq_true rfl, Nat.le_of_ble_eq_true rfl, fun _ => rfl⟩

theorem Laws.Fields.satadd (r : NodeRec) : Laws.Fields.Statement (.satadd r) :=
  ⟨Nat.le_of_ble_eq_true rfl, Nat.le_of_ble_eq_true rfl, fun _ => rfl⟩

theorem Laws.Fields.clamp (r : NodeRec) : Laws.Fields.Statement (.clamp r) :=
  ⟨Nat.le_of_ble_eq_true rfl, Nat.le_of_ble_eq_true rfl, fun _ => rfl⟩

theorem Laws.Fields.vadd (r : NodeRec) : Laws.Fields.Statement (.vadd r) :=
  ⟨Nat.le_of_ble_eq_true rfl, Nat.le_of_ble_eq_true rfl, fun _ => rfl⟩

theorem Laws.Fields.vsub (r : NodeRec) : Laws.Fields.Statement (.vsub r) :=
  ⟨Nat.le_of_ble_eq_true rfl, Nat.le_of_ble_eq_true rfl, fun _ => rfl⟩

theorem Laws.Fields.vmul (r : NodeRec) : Laws.Fields.Statement (.vmul r) :=
  ⟨Nat.le_of_ble_eq_true rfl, Nat.le_of_ble_eq_true rfl, fun _ => rfl⟩

theorem Laws.Fields.vmad (r : NodeRec) : Laws.Fields.Statement (.vmad r) :=
  ⟨Nat.le_of_ble_eq_true rfl, Nat.le_of_ble_eq_true rfl, fun _ => rfl⟩

theorem Laws.Fields.vmin (r : NodeRec) : Laws.Fields.Statement (.vmin r) :=
  ⟨Nat.le_of_ble_eq_true rfl, Nat.le_of_ble_eq_true rfl, fun _ => rfl⟩

theorem Laws.Fields.vmax (r : NodeRec) : Laws.Fields.Statement (.vmax r) :=
  ⟨Nat.le_of_ble_eq_true rfl, Nat.le_of_ble_eq_true rfl, fun _ => rfl⟩

theorem Laws.Fields.vand (r : NodeRec) : Laws.Fields.Statement (.vand r) :=
  ⟨Nat.le_of_ble_eq_true rfl, Nat.le_of_ble_eq_true rfl, fun _ => rfl⟩

theorem Laws.Fields.vor (r : NodeRec) : Laws.Fields.Statement (.vor r) :=
  ⟨Nat.le_of_ble_eq_true rfl, Nat.le_of_ble_eq_true rfl, fun _ => rfl⟩

theorem Laws.Fields.vxor (r : NodeRec) : Laws.Fields.Statement (.vxor r) :=
  ⟨Nat.le_of_ble_eq_true rfl, Nat.le_of_ble_eq_true rfl, fun _ => rfl⟩

theorem Laws.Fields.vshl (r : NodeRec) : Laws.Fields.Statement (.vshl r) :=
  ⟨Nat.le_of_ble_eq_true rfl, Nat.le_of_ble_eq_true rfl, fun _ => rfl⟩

theorem Laws.Fields.vshr (r : NodeRec) : Laws.Fields.Statement (.vshr r) :=
  ⟨Nat.le_of_ble_eq_true rfl, Nat.le_of_ble_eq_true rfl, fun _ => rfl⟩

theorem Laws.Fields.vcmp (r : NodeRec) : Laws.Fields.Statement (.vcmp r) :=
  ⟨Nat.le_of_ble_eq_true rfl, Nat.le_of_ble_eq_true rfl, fun _ => rfl⟩

theorem Laws.Fields.vsel (r : NodeRec) : Laws.Fields.Statement (.vsel r) :=
  ⟨Nat.le_of_ble_eq_true rfl, Nat.le_of_ble_eq_true rfl, fun _ => rfl⟩

theorem Laws.Fields.vabs (r : NodeRec) : Laws.Fields.Statement (.vabs r) :=
  ⟨Nat.le_of_ble_eq_true rfl, Nat.le_of_ble_eq_true rfl, fun _ => rfl⟩

theorem Laws.Fields.vdot4 (r : NodeRec) : Laws.Fields.Statement (.vdot4 r) :=
  ⟨Nat.le_of_ble_eq_true rfl, Nat.le_of_ble_eq_true rfl, fun _ => rfl⟩

theorem Laws.Fields.vpopc (r : NodeRec) : Laws.Fields.Statement (.vpopc r) :=
  ⟨Nat.le_of_ble_eq_true rfl, Nat.le_of_ble_eq_true rfl, fun _ => rfl⟩

theorem Laws.Fields.vperm (r : NodeRec) : Laws.Fields.Statement (.vperm r) :=
  ⟨Nat.le_of_ble_eq_true rfl, Nat.le_of_ble_eq_true rfl, fun _ => rfl⟩

theorem Laws.Fields.vslide (r : NodeRec) : Laws.Fields.Statement (.vslide r) :=
  ⟨Nat.le_of_ble_eq_true rfl, Nat.le_of_ble_eq_true rfl, fun _ => rfl⟩

theorem Laws.Fields.vpack (r : NodeRec) : Laws.Fields.Statement (.vpack r) :=
  ⟨Nat.le_of_ble_eq_true rfl, Nat.le_of_ble_eq_true rfl, fun _ => rfl⟩

theorem Laws.Fields.vunpk (r : NodeRec) : Laws.Fields.Statement (.vunpk r) :=
  ⟨Nat.le_of_ble_eq_true rfl, Nat.le_of_ble_eq_true rfl, fun _ => rfl⟩

theorem Laws.Fields.vred (r : NodeRec) : Laws.Fields.Statement (.vred r) :=
  ⟨Nat.le_of_ble_eq_true rfl, Nat.le_of_ble_eq_true rfl, fun _ => rfl⟩

theorem Laws.Fields.vscan (r : NodeRec) : Laws.Fields.Statement (.vscan r) :=
  ⟨Nat.le_of_ble_eq_true rfl, Nat.le_of_ble_eq_true rfl, fun _ => rfl⟩

theorem Laws.Fields.vins (r : NodeRec) : Laws.Fields.Statement (.vins r) :=
  ⟨Nat.le_of_ble_eq_true rfl, Nat.le_of_ble_eq_true rfl, fun _ => rfl⟩

theorem Laws.Fields.vmask (r : NodeRec) : Laws.Fields.Statement (.vmask r) :=
  ⟨Nat.le_of_ble_eq_true rfl, Nat.le_of_ble_eq_true rfl, fun _ => rfl⟩

theorem Laws.Fields.viota (r : NodeRec) : Laws.Fields.Statement (.viota r) :=
  ⟨Nat.le_of_ble_eq_true rfl, Nat.le_of_ble_eq_true rfl, fun _ => rfl⟩

theorem Laws.Fields.vfadd (r : NodeRec) : Laws.Fields.Statement (.vfadd r) :=
  ⟨Nat.le_of_ble_eq_true rfl, Nat.le_of_ble_eq_true rfl, fun _ => rfl⟩

theorem Laws.Fields.vfsub (r : NodeRec) : Laws.Fields.Statement (.vfsub r) :=
  ⟨Nat.le_of_ble_eq_true rfl, Nat.le_of_ble_eq_true rfl, fun _ => rfl⟩

theorem Laws.Fields.vfmul (r : NodeRec) : Laws.Fields.Statement (.vfmul r) :=
  ⟨Nat.le_of_ble_eq_true rfl, Nat.le_of_ble_eq_true rfl, fun _ => rfl⟩

theorem Laws.Fields.vfma (r : NodeRec) : Laws.Fields.Statement (.vfma r) :=
  ⟨Nat.le_of_ble_eq_true rfl, Nat.le_of_ble_eq_true rfl, fun _ => rfl⟩

theorem Laws.Fields.vfmin (r : NodeRec) : Laws.Fields.Statement (.vfmin r) :=
  ⟨Nat.le_of_ble_eq_true rfl, Nat.le_of_ble_eq_true rfl, fun _ => rfl⟩

theorem Laws.Fields.vfmax (r : NodeRec) : Laws.Fields.Statement (.vfmax r) :=
  ⟨Nat.le_of_ble_eq_true rfl, Nat.le_of_ble_eq_true rfl, fun _ => rfl⟩

theorem Laws.Fields.vfabs (r : NodeRec) : Laws.Fields.Statement (.vfabs r) :=
  ⟨Nat.le_of_ble_eq_true rfl, Nat.le_of_ble_eq_true rfl, fun _ => rfl⟩

theorem Laws.Fields.vfneg (r : NodeRec) : Laws.Fields.Statement (.vfneg r) :=
  ⟨Nat.le_of_ble_eq_true rfl, Nat.le_of_ble_eq_true rfl, fun _ => rfl⟩

theorem Laws.Fields.vfcmp (r : NodeRec) : Laws.Fields.Statement (.vfcmp r) :=
  ⟨Nat.le_of_ble_eq_true rfl, Nat.le_of_ble_eq_true rfl, fun _ => rfl⟩

theorem Laws.Fields.vfdiv (r : NodeRec) : Laws.Fields.Statement (.vfdiv r) :=
  ⟨Nat.le_of_ble_eq_true rfl, Nat.le_of_ble_eq_true rfl, fun _ => rfl⟩

theorem Laws.Fields.vfsqrt (r : NodeRec) : Laws.Fields.Statement (.vfsqrt r) :=
  ⟨Nat.le_of_ble_eq_true rfl, Nat.le_of_ble_eq_true rfl, fun _ => rfl⟩

theorem Laws.Fields.vfrcp (r : NodeRec) : Laws.Fields.Statement (.vfrcp r) :=
  ⟨Nat.le_of_ble_eq_true rfl, Nat.le_of_ble_eq_true rfl, fun _ => rfl⟩

theorem Laws.Fields.vfrsq (r : NodeRec) : Laws.Fields.Statement (.vfrsq r) :=
  ⟨Nat.le_of_ble_eq_true rfl, Nat.le_of_ble_eq_true rfl, fun _ => rfl⟩

theorem Laws.Fields.vfexp2 (r : NodeRec) : Laws.Fields.Statement (.vfexp2 r) :=
  ⟨Nat.le_of_ble_eq_true rfl, Nat.le_of_ble_eq_true rfl, fun _ => rfl⟩

theorem Laws.Fields.vflog2 (r : NodeRec) : Laws.Fields.Statement (.vflog2 r) :=
  ⟨Nat.le_of_ble_eq_true rfl, Nat.le_of_ble_eq_true rfl, fun _ => rfl⟩

theorem Laws.Fields.vfcls (r : NodeRec) : Laws.Fields.Statement (.vfcls r) :=
  ⟨Nat.le_of_ble_eq_true rfl, Nat.le_of_ble_eq_true rfl, fun _ => rfl⟩

theorem Laws.Fields.vcvt (r : NodeRec) : Laws.Fields.Statement (.vcvt r) :=
  ⟨Nat.le_of_ble_eq_true rfl, Nat.le_of_ble_eq_true rfl, fun _ => rfl⟩

theorem Laws.Fields.qcvt (r : NodeRec) : Laws.Fields.Statement (.qcvt r) :=
  ⟨Nat.le_of_ble_eq_true rfl, Nat.le_of_ble_eq_true rfl, fun _ => rfl⟩

theorem Laws.Fields.dqcvt (r : NodeRec) : Laws.Fields.Statement (.dqcvt r) :=
  ⟨Nat.le_of_ble_eq_true rfl, Nat.le_of_ble_eq_true rfl, fun _ => rfl⟩

theorem Laws.Fields.fcvt (r : NodeRec) : Laws.Fields.Statement (.fcvt r) :=
  ⟨Nat.le_of_ble_eq_true rfl, Nat.le_of_ble_eq_true rfl, fun _ => rfl⟩

theorem Laws.Fields.sfop (r : NodeRec) : Laws.Fields.Statement (.sfop r) :=
  ⟨Nat.le_of_ble_eq_true rfl, Nat.le_of_ble_eq_true rfl, fun _ => rfl⟩

theorem Laws.Fields.vrnd (r : NodeRec) : Laws.Fields.Statement (.vrnd r) :=
  ⟨Nat.le_of_ble_eq_true rfl, Nat.le_of_ble_eq_true rfl, fun _ => rfl⟩

theorem Laws.Fields.ld (r : NodeRec) : Laws.Fields.Statement (.ld r) :=
  ⟨Nat.le_of_ble_eq_true rfl, Nat.le_of_ble_eq_true rfl, fun _ => rfl⟩

theorem Laws.Fields.st (r : NodeRec) : Laws.Fields.Statement (.st r) :=
  ⟨Nat.le_of_ble_eq_true rfl, Nat.le_of_ble_eq_true rfl, fun _ => rfl⟩

theorem Laws.Fields.vld (r : NodeRec) : Laws.Fields.Statement (.vld r) :=
  ⟨Nat.le_of_ble_eq_true rfl, Nat.le_of_ble_eq_true rfl, fun _ => rfl⟩

theorem Laws.Fields.vst (r : NodeRec) : Laws.Fields.Statement (.vst r) :=
  ⟨Nat.le_of_ble_eq_true rfl, Nat.le_of_ble_eq_true rfl, fun _ => rfl⟩

theorem Laws.Fields.ldx (r : NodeRec) : Laws.Fields.Statement (.ldx r) :=
  ⟨Nat.le_of_ble_eq_true rfl, Nat.le_of_ble_eq_true rfl, fun _ => rfl⟩

theorem Laws.Fields.stx (r : NodeRec) : Laws.Fields.Statement (.stx r) :=
  ⟨Nat.le_of_ble_eq_true rfl, Nat.le_of_ble_eq_true rfl, fun _ => rfl⟩

theorem Laws.Fields.ldl (r : NodeRec) : Laws.Fields.Statement (.ldl r) :=
  ⟨Nat.le_of_ble_eq_true rfl, Nat.le_of_ble_eq_true rfl, fun _ => rfl⟩

theorem Laws.Fields.vldx (r : NodeRec) : Laws.Fields.Statement (.vldx r) :=
  ⟨Nat.le_of_ble_eq_true rfl, Nat.le_of_ble_eq_true rfl, fun _ => rfl⟩

theorem Laws.Fields.vstx (r : NodeRec) : Laws.Fields.Statement (.vstx r) :=
  ⟨Nat.le_of_ble_eq_true rfl, Nat.le_of_ble_eq_true rfl, fun _ => rfl⟩

theorem Laws.Fields.pref (r : NodeRec) : Laws.Fields.Statement (.pref r) :=
  ⟨Nat.le_of_ble_eq_true rfl, Nat.le_of_ble_eq_true rfl, fun _ => rfl⟩

theorem Laws.Fields.atom (r : NodeRec) : Laws.Fields.Statement (.atom r) :=
  ⟨Nat.le_of_ble_eq_true rfl, Nat.le_of_ble_eq_true rfl, fun _ => rfl⟩

theorem Laws.Fields.cas (r : NodeRec) : Laws.Fields.Statement (.cas r) :=
  ⟨Nat.le_of_ble_eq_true rfl, Nat.le_of_ble_eq_true rfl, fun _ => rfl⟩

theorem Laws.Fields.ild (r : NodeRec) : Laws.Fields.Statement (.ild r) :=
  ⟨Nat.le_of_ble_eq_true rfl, Nat.le_of_ble_eq_true rfl, fun _ => rfl⟩

theorem Laws.Fields.ist (r : NodeRec) : Laws.Fields.Statement (.ist r) :=
  ⟨Nat.le_of_ble_eq_true rfl, Nat.le_of_ble_eq_true rfl, fun _ => rfl⟩

theorem Laws.Fields.iclr (r : NodeRec) : Laws.Fields.Statement (.iclr r) :=
  ⟨Nat.le_of_ble_eq_true rfl, Nat.le_of_ble_eq_true rfl, fun _ => rfl⟩

theorem Laws.Fields.cmb (r : NodeRec) : Laws.Fields.Statement (.cmb r) :=
  ⟨Nat.le_of_ble_eq_true rfl, Nat.le_of_ble_eq_true rfl, fun _ => rfl⟩

theorem Laws.Fields.fence (r : NodeRec) : Laws.Fields.Statement (.fence r) :=
  ⟨Nat.le_of_ble_eq_true rfl, Nat.le_of_ble_eq_true rfl, fun _ => rfl⟩

theorem Laws.Fields.barArrive (r : NodeRec) : Laws.Fields.Statement (.barArrive r) := by
  refine ⟨Nat.le_of_ble_eq_true rfl, Nat.le_of_ble_eq_true rfl, fun h => ?_⟩
  exact congrArg some (if_pos h)

theorem Laws.Fields.barWait (r : NodeRec) : Laws.Fields.Statement (.barWait r) := by
  refine ⟨Nat.le_of_ble_eq_true rfl, Nat.le_of_ble_eq_true rfl, fun h => ?_⟩
  exact congrArg some (if_neg fun g => absurd ((eq_of_beq g).symm.trans (eq_of_beq h)) (by decide))

theorem Laws.Fields.publish (r : NodeRec) : Laws.Fields.Statement (.publish r) :=
  ⟨Nat.le_of_ble_eq_true rfl, Nat.le_of_ble_eq_true rfl, fun _ => rfl⟩

theorem Laws.Fields.shadow (r : NodeRec) : Laws.Fields.Statement (.shadow r) :=
  ⟨Nat.le_of_ble_eq_true rfl, Nat.le_of_ble_eq_true rfl, fun _ => rfl⟩

theorem Laws.Fields.rdgSt (r : NodeRec) : Laws.Fields.Statement (.rdgSt r) :=
  ⟨Nat.le_of_ble_eq_true rfl, Nat.le_of_ble_eq_true rfl, fun _ => rfl⟩

theorem Laws.Fields.rdgLd (r : NodeRec) : Laws.Fields.Statement (.rdgLd r) :=
  ⟨Nat.le_of_ble_eq_true rfl, Nat.le_of_ble_eq_true rfl, fun _ => rfl⟩

theorem Laws.Fields.rdgWait (r : NodeRec) : Laws.Fields.Statement (.rdgWait r) :=
  ⟨Nat.le_of_ble_eq_true rfl, Nat.le_of_ble_eq_true rfl, fun _ => rfl⟩

theorem Laws.Fields.tickRd (r : NodeRec) : Laws.Fields.Statement (.tickRd r) := by
  refine ⟨Nat.le_of_ble_eq_true rfl, Nat.le_of_ble_eq_true rfl, fun h => ?_⟩
  exact congrArg some (if_pos h)

theorem Laws.Fields.tickUntil (r : NodeRec) : Laws.Fields.Statement (.tickUntil r) := by
  refine ⟨Nat.le_of_ble_eq_true rfl, Nat.le_of_ble_eq_true rfl, fun h => ?_⟩
  exact congrArg some (if_neg fun g => absurd ((eq_of_beq g).symm.trans (eq_of_beq h)) (by decide))

theorem Laws.Fields.gateLoad (r : NodeRec) : Laws.Fields.Statement (.gateLoad r) :=
  ⟨Nat.le_of_ble_eq_true rfl, Nat.le_of_ble_eq_true rfl, fun _ => rfl⟩

theorem Laws.Fields.gateStore (r : NodeRec) : Laws.Fields.Statement (.gateStore r) :=
  ⟨Nat.le_of_ble_eq_true rfl, Nat.le_of_ble_eq_true rfl, fun _ => rfl⟩

theorem Laws.Fields.gateFeed (r : NodeRec) : Laws.Fields.Statement (.gateFeed r) :=
  ⟨Nat.le_of_ble_eq_true rfl, Nat.le_of_ble_eq_true rfl, fun _ => rfl⟩

theorem Laws.Fields.gateDrain (r : NodeRec) : Laws.Fields.Statement (.gateDrain r) :=
  ⟨Nat.le_of_ble_eq_true rfl, Nat.le_of_ble_eq_true rfl, fun _ => rfl⟩

theorem Laws.Fields.gateFence (r : NodeRec) : Laws.Fields.Statement (.gateFence r) :=
  ⟨Nat.le_of_ble_eq_true rfl, Nat.le_of_ble_eq_true rfl, fun _ => rfl⟩

theorem Laws.Fields.gateQry (r : NodeRec) : Laws.Fields.Statement (.gateQry r) :=
  ⟨Nat.le_of_ble_eq_true rfl, Nat.le_of_ble_eq_true rfl, fun _ => rfl⟩

theorem Laws.Fields.gateCancel (r : NodeRec) : Laws.Fields.Statement (.gateCancel r) :=
  ⟨Nat.le_of_ble_eq_true rfl, Nat.le_of_ble_eq_true rfl, fun _ => rfl⟩

theorem Laws.Fields.mxLdb (r : NodeRec) : Laws.Fields.Statement (.mxLdb r) :=
  ⟨Nat.le_of_ble_eq_true rfl, Nat.le_of_ble_eq_true rfl, fun _ => rfl⟩

theorem Laws.Fields.mxGather (r : NodeRec) : Laws.Fields.Statement (.mxGather r) :=
  ⟨Nat.le_of_ble_eq_true rfl, Nat.le_of_ble_eq_true rfl, fun _ => rfl⟩

theorem Laws.Fields.mxLda (r : NodeRec) : Laws.Fields.Statement (.mxLda r) :=
  ⟨Nat.le_of_ble_eq_true rfl, Nat.le_of_ble_eq_true rfl, fun _ => rfl⟩

theorem Laws.Fields.mxMma (r : NodeRec) : Laws.Fields.Statement (.mxMma r) :=
  ⟨Nat.le_of_ble_eq_true rfl, Nat.le_of_ble_eq_true rfl, fun _ => rfl⟩

theorem Laws.Fields.mxScale (r : NodeRec) : Laws.Fields.Statement (.mxScale r) :=
  ⟨Nat.le_of_ble_eq_true rfl, Nat.le_of_ble_eq_true rfl, fun _ => rfl⟩

theorem Laws.Fields.mxDrain (r : NodeRec) : Laws.Fields.Statement (.mxDrain r) :=
  ⟨Nat.le_of_ble_eq_true rfl, Nat.le_of_ble_eq_true rfl, fun _ => rfl⟩

theorem Laws.Fields.mxZero (r : NodeRec) : Laws.Fields.Statement (.mxZero r) :=
  ⟨Nat.le_of_ble_eq_true rfl, Nat.le_of_ble_eq_true rfl, fun _ => rfl⟩

theorem Laws.Fields.mxAddc (r : NodeRec) : Laws.Fields.Statement (.mxAddc r) :=
  ⟨Nat.le_of_ble_eq_true rfl, Nat.le_of_ble_eq_true rfl, fun _ => rfl⟩

theorem Laws.Fields.mxQry (r : NodeRec) : Laws.Fields.Statement (.mxQry r) :=
  ⟨Nat.le_of_ble_eq_true rfl, Nat.le_of_ble_eq_true rfl, fun _ => rfl⟩

theorem Laws.Fields.spawn (r : NodeRec) : Laws.Fields.Statement (.spawn r) :=
  ⟨Nat.le_of_ble_eq_true rfl, Nat.le_of_ble_eq_true rfl, fun _ => rfl⟩

theorem Laws.Fields.gainAdd (r : NodeRec) : Laws.Fields.Statement (.gainAdd r) :=
  ⟨Nat.le_of_ble_eq_true rfl, Nat.le_of_ble_eq_true rfl, fun _ => rfl⟩

theorem Laws.Fields.gainTake (r : NodeRec) : Laws.Fields.Statement (.gainTake r) :=
  ⟨Nat.le_of_ble_eq_true rfl, Nat.le_of_ble_eq_true rfl, fun _ => rfl⟩

theorem Laws.Fields.gainDone (r : NodeRec) : Laws.Fields.Statement (.gainDone r) :=
  ⟨Nat.le_of_ble_eq_true rfl, Nat.le_of_ble_eq_true rfl, fun _ => rfl⟩

theorem Laws.Fields.residRd (r : NodeRec) : Laws.Fields.Statement (.residRd r) :=
  ⟨Nat.le_of_ble_eq_true rfl, Nat.le_of_ble_eq_true rfl, fun _ => rfl⟩

theorem Laws.Fields.tolWr (r : NodeRec) : Laws.Fields.Statement (.tolWr r) :=
  ⟨Nat.le_of_ble_eq_true rfl, Nat.le_of_ble_eq_true rfl, fun _ => rfl⟩

theorem Laws.Fields.heapQ (r : NodeRec) : Laws.Fields.Statement (.heapQ r) :=
  ⟨Nat.le_of_ble_eq_true rfl, Nat.le_of_ble_eq_true rfl, fun _ => rfl⟩

theorem Laws.Fields.gainSet (r : NodeRec) : Laws.Fields.Statement (.gainSet r) :=
  ⟨Nat.le_of_ble_eq_true rfl, Nat.le_of_ble_eq_true rfl, fun _ => rfl⟩

theorem Laws.Fields.ctxNew (r : NodeRec) : Laws.Fields.Statement (.ctxNew r) :=
  ⟨Nat.le_of_ble_eq_true rfl, Nat.le_of_ble_eq_true rfl, fun _ => rfl⟩

theorem Laws.Fields.ctxGrant (r : NodeRec) : Laws.Fields.Statement (.ctxGrant r) :=
  ⟨Nat.le_of_ble_eq_true rfl, Nat.le_of_ble_eq_true rfl, fun _ => rfl⟩

theorem Laws.Fields.ctxRevoke (r : NodeRec) : Laws.Fields.Statement (.ctxRevoke r) :=
  ⟨Nat.le_of_ble_eq_true rfl, Nat.le_of_ble_eq_true rfl, fun _ => rfl⟩

theorem Laws.Fields.ctxRun (r : NodeRec) : Laws.Fields.Statement (.ctxRun r) :=
  ⟨Nat.le_of_ble_eq_true rfl, Nat.le_of_ble_eq_true rfl, fun _ => rfl⟩

theorem Laws.Fields.ctxStop (r : NodeRec) : Laws.Fields.Statement (.ctxStop r) :=
  ⟨Nat.le_of_ble_eq_true rfl, Nat.le_of_ble_eq_true rfl, fun _ => rfl⟩

theorem Laws.Fields.ctxDel (r : NodeRec) : Laws.Fields.Statement (.ctxDel r) :=
  ⟨Nat.le_of_ble_eq_true rfl, Nat.le_of_ble_eq_true rfl, fun _ => rfl⟩

theorem Laws.Fields.ctxRst (r : NodeRec) : Laws.Fields.Statement (.ctxRst r) :=
  ⟨Nat.le_of_ble_eq_true rfl, Nat.le_of_ble_eq_true rfl, fun _ => rfl⟩

theorem Laws.Fields.csrRd (r : NodeRec) : Laws.Fields.Statement (.csrRd r) :=
  ⟨Nat.le_of_ble_eq_true rfl, Nat.le_of_ble_eq_true rfl, fun _ => rfl⟩

theorem Laws.Fields.csrWr (r : NodeRec) : Laws.Fields.Statement (.csrWr r) :=
  ⟨Nat.le_of_ble_eq_true rfl, Nat.le_of_ble_eq_true rfl, fun _ => rfl⟩

theorem Laws.Fields.trap (r : NodeRec) : Laws.Fields.Statement (.trap r) :=
  ⟨Nat.le_of_ble_eq_true rfl, Nat.le_of_ble_eq_true rfl, fun _ => rfl⟩

theorem Laws.Fields.repair (r : NodeRec) : Laws.Fields.Statement (.repair r) :=
  ⟨Nat.le_of_ble_eq_true rfl, Nat.le_of_ble_eq_true rfl, fun _ => rfl⟩

theorem Laws.Fields.hostSig (r : NodeRec) : Laws.Fields.Statement (.hostSig r) :=
  ⟨Nat.le_of_ble_eq_true rfl, Nat.le_of_ble_eq_true rfl, fun _ => rfl⟩

theorem Laws.Fields.cfgLoad (r : NodeRec) : Laws.Fields.Statement (.cfgLoad r) :=
  ⟨Nat.le_of_ble_eq_true rfl, Nat.le_of_ble_eq_true rfl, fun _ => rfl⟩

theorem Laws.Fields.cfgFlip (r : NodeRec) : Laws.Fields.Statement (.cfgFlip r) :=
  ⟨Nat.le_of_ble_eq_true rfl, Nat.le_of_ble_eq_true rfl, fun _ => rfl⟩

theorem Laws.Fields.launch (r : NodeRec) : Laws.Fields.Statement (.launch r) :=
  ⟨Nat.le_of_ble_eq_true rfl, Nat.le_of_ble_eq_true rfl, fun _ => rfl⟩

theorem Laws.Fields.permit (r : NodeRec) : Laws.Fields.Statement (.permit r) :=
  ⟨Nat.le_of_ble_eq_true rfl, Nat.le_of_ble_eq_true rfl, fun _ => rfl⟩

theorem Laws.Fields.powerMeasure : Laws.Fields.Statement (.powerMeasure) :=
  ⟨Nat.le_of_ble_eq_true rfl, Nat.le_of_ble_eq_true rfl, rfl⟩

theorem Laws.Fields.timeSync : Laws.Fields.Statement (.timeSync) :=
  ⟨Nat.le_of_ble_eq_true rfl, Nat.le_of_ble_eq_true rfl, rfl⟩

theorem Laws.Fields.powerGood : Laws.Fields.Statement (.powerGood) :=
  ⟨Nat.le_of_ble_eq_true rfl, Nat.le_of_ble_eq_true rfl, rfl⟩

theorem Laws.Fields.wfence : Laws.Fields.Statement (.wfence) :=
  ⟨Nat.le_of_ble_eq_true rfl, Nat.le_of_ble_eq_true rfl, rfl⟩

theorem Laws.Fields.ctxCreate : Laws.Fields.Statement (.ctxCreate) :=
  ⟨Nat.le_of_ble_eq_true rfl, Nat.le_of_ble_eq_true rfl, rfl⟩

theorem Laws.Fields.ctxDelete : Laws.Fields.Statement (.ctxDelete) :=
  ⟨Nat.le_of_ble_eq_true rfl, Nat.le_of_ble_eq_true rfl, rfl⟩

theorem Laws.Fields.planePut : Laws.Fields.Statement (.planePut) :=
  ⟨Nat.le_of_ble_eq_true rfl, Nat.le_of_ble_eq_true rfl, rfl⟩

theorem Laws.Fields.launchMessage : Laws.Fields.Statement (.launchMessage) :=
  ⟨Nat.le_of_ble_eq_true rfl, Nat.le_of_ble_eq_true rfl, rfl⟩

theorem Laws.Fields.memCopyToDevice : Laws.Fields.Statement (.memCopyToDevice) :=
  ⟨Nat.le_of_ble_eq_true rfl, Nat.le_of_ble_eq_true rfl, rfl⟩

theorem Laws.Fields.memCopyToHost : Laws.Fields.Statement (.memCopyToHost) :=
  ⟨Nat.le_of_ble_eq_true rfl, Nat.le_of_ble_eq_true rfl, rfl⟩

theorem Laws.Fields.memCopyDevice : Laws.Fields.Statement (.memCopyDevice) :=
  ⟨Nat.le_of_ble_eq_true rfl, Nat.le_of_ble_eq_true rfl, rfl⟩

theorem Laws.Fields.checkpoint : Laws.Fields.Statement (.checkpoint) :=
  ⟨Nat.le_of_ble_eq_true rfl, Nat.le_of_ble_eq_true rfl, rfl⟩

theorem Laws.Fields.checkpointDebug : Laws.Fields.Statement (.checkpointDebug) :=
  ⟨Nat.le_of_ble_eq_true rfl, Nat.le_of_ble_eq_true rfl, rfl⟩

theorem Laws.Fields.restoreMessage : Laws.Fields.Statement (.restoreMessage) :=
  ⟨Nat.le_of_ble_eq_true rfl, Nat.le_of_ble_eq_true rfl, rfl⟩

theorem Laws.Fields.attestReport : Laws.Fields.Statement (.attestReport) :=
  ⟨Nat.le_of_ble_eq_true rfl, Nat.le_of_ble_eq_true rfl, rfl⟩

theorem Laws.Fields.attestChain : Laws.Fields.Statement (.attestChain) :=
  ⟨Nat.le_of_ble_eq_true rfl, Nat.le_of_ble_eq_true rfl, rfl⟩

theorem Laws.Fields.telemPower : Laws.Fields.Statement (.telemPower) :=
  ⟨Nat.le_of_ble_eq_true rfl, Nat.le_of_ble_eq_true rfl, rfl⟩

theorem Laws.Fields.telemTemperature : Laws.Fields.Statement (.telemTemperature) :=
  ⟨Nat.le_of_ble_eq_true rfl, Nat.le_of_ble_eq_true rfl, rfl⟩

theorem Laws.Fields.telemErrors : Laws.Fields.Statement (.telemErrors) :=
  ⟨Nat.le_of_ble_eq_true rfl, Nat.le_of_ble_eq_true rfl, rfl⟩

theorem Laws.Fields.telemSleep : Laws.Fields.Statement (.telemSleep) :=
  ⟨Nat.le_of_ble_eq_true rfl, Nat.le_of_ble_eq_true rfl, rfl⟩

theorem Laws.Fields.telemSync : Laws.Fields.Statement (.telemSync) :=
  ⟨Nat.le_of_ble_eq_true rfl, Nat.le_of_ble_eq_true rfl, rfl⟩

theorem Laws.Fields.resetStack : Laws.Fields.Statement (.resetStack) :=
  ⟨Nat.le_of_ble_eq_true rfl, Nat.le_of_ble_eq_true rfl, rfl⟩

theorem Laws.Fields.resetContext : Laws.Fields.Statement (.resetContext) :=
  ⟨Nat.le_of_ble_eq_true rfl, Nat.le_of_ble_eq_true rfl, rfl⟩

theorem Laws.Fields.epSend : Laws.Fields.Statement (.epSend) :=
  ⟨Nat.le_of_ble_eq_true rfl, Nat.le_of_ble_eq_true rfl, rfl⟩

theorem Laws.Fields.policyPowerLimit : Laws.Fields.Statement (.policyPowerLimit) :=
  ⟨Nat.le_of_ble_eq_true rfl, Nat.le_of_ble_eq_true rfl, rfl⟩

theorem Laws.Fields.policySleep : Laws.Fields.Statement (.policySleep) :=
  ⟨Nat.le_of_ble_eq_true rfl, Nat.le_of_ble_eq_true rfl, rfl⟩

theorem Laws.Fields.policySpareBanks : Laws.Fields.Statement (.policySpareBanks) :=
  ⟨Nat.le_of_ble_eq_true rfl, Nat.le_of_ble_eq_true rfl, rfl⟩

theorem Laws.Fields.policySignedPlanes : Laws.Fields.Statement (.policySignedPlanes) :=
  ⟨Nat.le_of_ble_eq_true rfl, Nat.le_of_ble_eq_true rfl, rfl⟩

theorem Laws.Fields.policyKeyInstall : Laws.Fields.Statement (.policyKeyInstall) :=
  ⟨Nat.le_of_ble_eq_true rfl, Nat.le_of_ble_eq_true rfl, rfl⟩

theorem Laws.Fields.hostLinkDown : Laws.Fields.Statement (.hostLinkDown) :=
  ⟨Nat.le_of_ble_eq_true rfl, Nat.le_of_ble_eq_true rfl, rfl⟩

end Sys2Proof
end

