-- ==== Sys2Proof/Laws/Tokens.lean ====
section
/-! SUPPORT. Sys2Proof/Laws/Tokens.lean: what sending does (Machine/Tokens.lean, Machine/Ops.lean), and what
the beginning of a wake does, once. -/

namespace Sys2Proof.Machine

/-! ### What a change of the own cast leaves -/

theorem State.cast?_modOwn (s : State) (g : Firing) (f : Cast → Cast) :
    (s.modOwn g f).cast? g.course.toNat g.bay g.ft.toNat = (s.cast? g.course.toNat g.bay g.ft.toNat).map f :=
  State.cast?_modCast s _ _ _ f

theorem State.modFrame_modFrame (s : State) (c b ft : Nat) (f h : Frame → Frame) :
    (s.modFrame c b ft f).modFrame c b ft h = s.modFrame c b ft (h ∘ f) := by
  unfold State.modFrame
  cases hs : s.frame? c b ft with
  | none => simp [hs]
  | some x =>
    simp only [State.frame?_setFrame]
    simp [State.setFrame, State.modBay]

theorem State.modOwn_modOwn (s : State) (g : Firing) (f h : Cast → Cast) :
    (s.modOwn g f).modOwn g h = s.modOwn g (h ∘ f) := by
  unfold State.modOwn State.modCast
  rw [State.modFrame_modFrame]
  congr 1
  funext x
  simp [Function.comp]

theorem State.modOwn_none (s : State) (g : Firing) (f : Cast → Cast)
    (h : s.frame? g.course.toNat g.bay g.ft.toNat = none) : s.modOwn g f = s := by
  simp [State.modOwn, State.modCast, State.modFrame, h]

/-- The block of a node does not depend on frames, nor on tokens in flight. -/
theorem State.blockOf_modOwn (s : State) (g : Firing) (f : Cast → Cast) (cx c el n : Nat) :
    (s.modOwn g f).blockOf cx c el n = s.blockOf cx c el n := by
  simp [State.blockOf, State.loadedAt, State.crs]

theorem State.frame?_modOwn_link (s : State) (g : Firing) (f : Cast → Cast) :
    ((s.modOwn g f).frame? g.course.toNat g.bay g.ft.toNat).map Frame.link = (s.frame? g.course.toNat g.bay g.ft.toNat).map Frame.link := by
  unfold State.modOwn State.modCast
  rw [State.frame?_modFrame]
  cases s.frame? g.course.toNat g.bay g.ft.toNat <;> simp

theorem isInternal_modOwn (s : State) (g : Firing) (f : Cast → Cast) (hf : ∀ k, (f k).block = k.block) (t : Transit) :
    isInternal (s.modOwn g f) g t = isInternal s g t := by
  unfold isInternal
  split
  · rfl
  · rw [State.cast?_modOwn]
    cases s.cast? g.course.toNat g.bay g.ft.toNat with
    | none => simp
    | some k =>
      simp only [Option.map_some]
      cases unitKind (destUnit t.tok.dest) <;> simp [State.blockOf_modOwn, hf]

@[simp] theorem State.inFlight_firing (s : State) (l : List Transit) : (s.inFlight l).firing = s.firing := rfl
@[simp] theorem State.inFlight_sideband (s : State) (l : List Transit) : (s.inFlight l).sideband = s.sideband := rfl
@[simp] theorem isInternal_inFlight (s : State) (g : Firing) (l : List Transit) (t : Transit) :
    isInternal (s.inFlight l) g t = isInternal s g t := rfl
@[simp] theorem State.linkOf_inFlight (s : State) (g : Firing) (l : List Transit) : (s.inFlight l).linkOf g = s.linkOf g := rfl
@[simp] theorem State.cast?_inFlight (s : State) (l : List Transit) (c b ft : Nat) : (s.inFlight l).cast? c b ft = s.cast? c b ft := rfl
@[simp] theorem State.inFlight_nil (s : State) : s.inFlight [] = s := by simp [State.inFlight]
@[simp] theorem State.inFlight_inFlight (s : State) (l m : List Transit) : (s.inFlight l).inFlight m = s.inFlight (l ++ m) := by
  simp [State.inFlight]

theorem State.inFlight_modOwn (s : State) (g : Firing) (f : Cast → Cast) (l : List Transit) :
    (s.modOwn g f).inFlight l = (s.inFlight l).modOwn g f := by
  unfold State.modOwn State.modCast State.modFrame State.frame?
  show _ = match lkp (s.bay g.course.toNat g.bay).frames g.ft.toNat with | some x => _ | none => _
  cases lkp (s.bay g.course.toNat g.bay).frames g.ft.toNat <;> rfl

@[simp] theorem Cast.hold_block (k : Cast) (l : List Transit) : (k.hold l).block = k.block := rfl
@[simp] theorem Cast.hold_hold (k : Cast) (l m : List Transit) : (k.hold l).hold m = k.hold (l ++ m) := by simp [Cast.hold]

theorem State.linkOf_modOwn (s : State) (g : Firing) (f : Cast → Cast) : (s.modOwn g f).linkOf g = s.linkOf g := by
  unfold State.linkOf
  split
  · simp [State.cru]
  · rw [State.frame?_modOwn_link]

theorem mkTok_modOwn (s : State) (g h : Firing) (f : Cast → Cast) (e : Bool) (stack course ft it : Nat) (d : BitVec 21) (pl : Bool) (v : Val) :
    mkTok (s.modOwn h f) g e stack course ft it d pl v = mkTok s g e stack course ft it d pl v := by
  simp [mkTok]

/-! ### Sending a list of tokens -/

@[simp] theorem leavesNow_inFlight (s : State) (l : List Transit) (t : Transit) : leavesNow (s.inFlight l) t = leavesNow s t := rfl

theorem leavesNow_modOwn (s : State) (f : Cast → Cast) (hf : ∀ k, (f k).block = k.block) (t : Transit) :
    leavesNow (s.modOwn s.firing f) t = leavesNow s t := by
  unfold leavesNow
  rw [State.modOwn_firing, isInternal_modOwn _ _ _ hf, State.cast?_modOwn]
  simp

@[simp] theorem afterSend_firing (s : State) (xs : List Transit) : (afterSend s xs).firing = s.firing := by
  unfold afterSend; split <;> simp

@[simp] theorem afterSend_sideband (s : State) (xs : List Transit) : (afterSend s xs).sideband = s.sideband := by
  unfold afterSend; split <;> simp

theorem leavesNow_afterSend (s : State) (xs : List Transit) (t : Transit) : leavesNow (afterSend s xs) t = leavesNow s t := by
  unfold afterSend
  split
  · simp
  · have := leavesNow_modOwn (s.inFlight (nowToks s xs)) (fun k => k.hold (heldToks s xs)) (fun _ => rfl) t
    simpa using this

theorem isInternal_afterSend (s : State) (xs : List Transit) (t : Transit) :
    isInternal (afterSend s xs) s.firing t = isInternal s s.firing t := by
  unfold afterSend
  split
  · simp
  · have := isInternal_modOwn (s.inFlight (nowToks s xs)) s.firing (fun k => k.hold (heldToks s xs)) (fun _ => rfl) t
    simpa using this

theorem leavesNow_afterSend_fun (s : State) (xs : List Transit) : leavesNow (afterSend s xs) = leavesNow s :=
  funext (leavesNow_afterSend s xs)

theorem linkOf_afterSend (s : State) (xs : List Transit) : (afterSend s xs).linkOf s.firing = s.linkOf s.firing := by
  unfold afterSend
  split
  · simp
  · rw [State.linkOf_modOwn, State.linkOf_inFlight]

theorem nowToks_afterSend (s : State) (xs ys : List Transit) : nowToks (afterSend s xs) ys = nowToks s ys := by
  unfold nowToks
  simp only [afterSend_firing, isInternal_afterSend, leavesNow_afterSend_fun]

theorem heldToks_afterSend (s : State) (xs ys : List Transit) : heldToks (afterSend s xs) ys = heldToks s ys := by
  unfold heldToks
  simp only [leavesNow_afterSend_fun]

theorem nowToks_append (s : State) (xs ys : List Transit) : nowToks s (xs ++ ys) = nowToks s xs ++ nowToks s ys := by
  simp [nowToks]

theorem heldToks_append (s : State) (xs ys : List Transit) : heldToks s (xs ++ ys) = heldToks s xs ++ heldToks s ys := by
  simp [heldToks]

theorem afterSend_def (s : State) (toks : List Transit) : afterSend s toks =
    if heldToks s toks = [] then s.inFlight (nowToks s toks)
    else (s.inFlight (nowToks s toks)).modOwn s.firing fun k => k.hold (heldToks s toks) := rfl

/-- Sending in two parts is sending at once. -/
theorem afterSend_afterSend (s : State) (xs ys : List Transit) : afterSend (afterSend s xs) ys = afterSend s (xs ++ ys) := by
  rw [afterSend_def (afterSend s xs) ys, afterSend_def s (xs ++ ys), nowToks_afterSend, heldToks_afterSend, afterSend_firing,
    nowToks_append, heldToks_append, afterSend_def s xs]
  by_cases hx : heldToks s xs = [] <;> by_cases hy : heldToks s ys = []
  · simp [hx, hy]
  · simp [hx, hy]
  · simp [hx, hy, State.inFlight_modOwn]
  · simp only [hx, hy, if_false, List.append_eq_nil_iff, and_false, State.inFlight_modOwn, State.inFlight_inFlight,
      State.modOwn_modOwn]
    congr 1
    funext k
    simp [Function.comp]

/-- A token sent is a list of one token sent. -/
theorem sendTok_eq (s : State) (t : Transit) (ht : t.internal = false) : sendTok s s.firing t = afterSend s [t] := by
  unfold sendTok afterSend nowToks heldToks leavesNow
  by_cases hi : isInternal s s.firing t = true
  · simp [hi, State.inFlight]
  · simp only [Bool.not_eq_true] at hi
    by_cases hc : s.firing.isCru = true
    · simp [hi, hc, ht, State.inFlight]
      cases t; simp_all
    · simp only [Bool.not_eq_true] at hc
      cases hk : s.cast? s.firing.course.toNat s.firing.bay s.firing.ft.toNat with
      | none => simp [hi, hc, ht, State.inFlight]; cases t; simp_all
      | some k => simp [hi, hc, Cast.hold]

@[simp] theorem afterSend_nil (s : State) : afterSend s [] = s := by
  simp [afterSend, nowToks, heldToks]

theorem sendTo_eq (s : State) (e : Bool) (stack course ft it : Nat) (d : BitVec 21) (pl : Bool) (v : Option Val) :
    sendTo s s.firing e stack course ft it d pl v = afterSend s (oneTok s e stack course ft it d pl v) := by
  unfold sendTo oneTok
  cases v with
  | none => simp
  | some x =>
    by_cases h : d = 0x1FFFFF#21
    · simp [h]
    · simp only [h, if_false]
      exact sendTok_eq s _ rfl

theorem oneTok_afterSend (s : State) (xs : List Transit) (e : Bool) (stack course ft it : Nat) (d : BitVec 21) (pl : Bool) (v : Option Val) :
    oneTok (afterSend s xs) e stack course ft it d pl v = oneTok s e stack course ft it d pl v := by
  unfold oneTok mkTok
  simp only [afterSend_firing, afterSend_sideband]

theorem oneTok_modOwn (s : State) (f : Cast → Cast) (e : Bool) (stack course ft it : Nat) (d : BitVec 21) (pl : Bool) (v : Option Val) :
    oneTok (s.modOwn s.firing f) e stack course ft it d pl v = oneTok s e stack course ft it d pl v := by
  unfold oneTok mkTok
  simp only [State.modOwn_firing, State.modOwn_sideband]

/-- Sending on both destinations, as one list. -/
theorem emitTagged_eq (s : State) (r : NodeRec) (e : Bool) (stack course ft it : Nat) (pl0 pl1 : Bool) (v0 v1 : Option Val) :
    emitTagged s r s.firing e stack course ft it pl0 pl1 v0 v1 = afterSend s (outTokens s r e stack course ft it pl0 pl1 v0 v1) := by
  unfold emitTagged outTokens
  by_cases h : r.tg = 3#2
  · simp only [h, if_true]
    exact sendTo_eq s e stack course ft it _ _ _
  · simp only [h, if_false]
    rw [sendTo_eq s e stack course ft it r.d0 pl0 v0]
    have := sendTo_eq (afterSend s (oneTok s e stack course ft it r.d0 pl0 v0)) e stack course ft it r.d1 pl1 v1
    rw [afterSend_firing, oneTok_afterSend] at this
    rw [this, afterSend_afterSend]

theorem addFlags_firing (s : State) (g : Firing) (f : Flags) : (addFlags s g f).firing = s.firing := by
  unfold addFlags; split <;> simp

theorem outTokens_addFlags (s : State) (f : Flags) (r : NodeRec) (e : Bool) (stack course ft it : Nat) (pl0 pl1 : Bool) (v0 v1 : Option Val) :
    outTokens (addFlags s s.firing f) r e stack course ft it pl0 pl1 v0 v1 = outTokens s r e stack course ft it pl0 pl1 v0 v1 := by
  unfold addFlags
  split
  · rfl
  · simp only [outTokens, State.modOwn_firing, State.tagLink, State.linkOf_modOwn, oneTok_modOwn]

/-- A node that only computes does what `computed` says. -/
theorem pureAt_eq (s : State) (r : NodeRec) (a : Args) (stack course : Nat) (pl0 pl1 : Bool) (v0 v1 : Option Val) (fl : Flags) :
    pureAt s r a stack course pl0 pl1 v0 v1 fl = computed s r a stack course pl0 pl1 v0 v1 fl := by
  unfold pureAt computed
  simp only []
  cases ht : tagTo s r s.firing course with
  | bad code => rfl
  | poisoned => rfl
  | ok c ft it =>
    simp only []
    have key : ∀ (v : Option Val), (v.map fun v => if s.firing.skip = true then (0#512, true) else (v.1, v.2 || a.p)) =
        (if s.firing.skip = true then v.map fun _ => (0#512, true) else v.map fun x => (x.1, x.2 || a.p)) := by
      intro v; cases v <;> split <;> simp_all
    simp only [key]
    split
    · rw [emitTagged_eq]
    · have := emitTagged_eq (addFlags s s.firing fl) r (a.e || s.eBit s.firing) stack c ft it pl0 pl1
        (if s.firing.skip = true then v0.map fun _ => (0#512, true) else v0.map fun x => (x.1, x.2 || a.p))
        (if s.firing.skip = true then v1.map fun _ => (0#512, true) else v1.map fun x => (x.1, x.2 || a.p))
      rw [addFlags_firing, outTokens_addFlags] at this
      rw [this]

theorem pureNode_eq (s : State) (r : NodeRec) (a : Args) (pl0 pl1 : Bool) (v0 v1 : Option Val) (fl : Flags) :
    pureNode s r a pl0 pl1 v0 v1 fl =
      computed s r a s.sideband.stackNo.toNat s.firing.course.toNat pl0 pl1 v0 v1 fl :=
  pureAt_eq s r a _ _ pl0 pl1 v0 v1 fl

theorem word64_eq (x : Nat) : word64 x = some ((BitVec.ofNat 64 x).setWidth 512, false) := by
  unfold word64
  congr 2
  apply BitVec.eq_of_toNat_eq
  rw [BitVec.toNat_setWidth, BitVec.toNat_ofNat, BitVec.toNat_ofNat]

/-- Sending by the firing at hand. -/
theorem emitVals_eq (s : State) (r : NodeRec) (e : Bool) (v0 v1 : Option Val) :
    emitVals s r s.firing e v0 v1 = sendsPair s r e v0 v1 := by
  unfold emitVals emitOn sendsPair
  cases tagOf s r s.firing with
  | ok c ft it => exact emitTagged_eq s r e _ c ft it r.pl r.pl v0 v1
  | poisoned => rfl
  | bad code => rfl

theorem emitData_eq (s : State) (r : NodeRec) (x : Payload) (p : Bool) :
    emitData s r s.firing x p = sendsPayload s r x p := emitVals_eq s r _ _ _

/-- emit of the result of an access by the firing at hand. -/
theorem emitAfter_eq (s : State) (r : NodeRec) (x : Payload) (p : Bool) (d : Nat) :
    emitAfter s r s.firing x p d = sendsAfter s r x p d := by
  unfold emitAfter sendsAfter
  rw [emitData_eq]

/-- emit of a control value by the firing at hand. -/
theorem emitWord_eq (s : State) (r : NodeRec) (x : Nat) (p : Bool) :
    emitWord s r s.firing x p = sendsValue s r (BitVec.ofNat 64 x) p := by
  unfold emitWord sendsValue sendsPayload
  rw [emitVals_eq]
  have h : (BitVec.ofNat 512 (x % 2 ^ 64), p) = ((BitVec.ofNat 64 x).setWidth 512, p) := by
    congr 1
    apply BitVec.eq_of_toNat_eq
    rw [BitVec.toNat_setWidth, BitVec.toNat_ofNat, BitVec.toNat_ofNat]
  rw [h]

/-- The same for a firing that the state's issue latch holds. -/
theorem emitWord_of (s : State) (r : NodeRec) (g : Firing) (x : Nat) (p : Bool) (hg : s.firing = g) :
    emitWord s r g x p = sendsValue s r (BitVec.ofNat 64 x) p := by subst hg; exact emitWord_eq s r x p

theorem emitData_of (s : State) (r : NodeRec) (g : Firing) (x : Payload) (p : Bool) (hg : s.firing = g) :
    emitData s r g x p = sendsPayload s r x p := by subst hg; exact emitData_eq s r x p

theorem emitVals_of (s : State) (r : NodeRec) (g : Firing) (e : Bool) (v0 v1 : Option Val) (hg : s.firing = g) :
    emitVals s r g e v0 v1 = sendsPair s r e v0 v1 := by subst hg; exact emitVals_eq s r e v0 v1

/-- A node acts: its tag can be formed, no SKIP names it, and no exception was seen. -/
theorem actWith_free {s : State} {r : NodeRec} {a : Args} (idle : Bool → Bool → State) (act : State → State)
    (h : actsFreely s r a) : actWith s r a idle act = act s := by
  obtain ⟨⟨c, ft, it, ht⟩, hs, he, hae, -⟩ := h
  simp [actWith, ht, hs, he, hae]

/-- The same for a node whose results share the record's plane. -/
theorem actNode_free {s : State} {r : NodeRec} {a : Args} (act : State → State) (h : actsFreely s r a) : actNode s r a act = act s :=
  actWith_free _ act h

/-- A node with one control result. -/
theorem ctlNode_eq (s : State) (r : NodeRec) (f : Args → Nat × Flags) :
    ctlNode s r f = sendsWord s r (BitVec.ofNat 64 (f (argsCtl s r s.firing)).1) (f (argsCtl s r s.firing)).2 := by
  unfold ctlNode sendsWord
  rw [pureNode_eq]
  simp only [word64_eq]

/-- A node with one data result. -/
theorem dataNode_eq (s : State) (r : NodeRec) (f : Args → Payload × Flags × Bool) :
    dataNode s r f = sendsData s r (f (argsData s r s.firing)).1 (f (argsData s r s.firing)).2.2 (f (argsData s r s.firing)).2.1 := by
  unfold dataNode sendsData
  rw [pureNode_eq]

/-! ### Sleeping courses (R345, R453) -/

theorem bumpGen_frame (s : State) (cx : Nat) : (bumpGen s cx).mem = s.mem ∧ (bumpGen s cx).cycles = s.cycles := by
  unfold bumpGen
  dsimp only
  split <;> exact ⟨rfl, rfl⟩

theorem touchLine_frame (s : State) (a : Nat) : (touchLine s a).mem = s.mem ∧ (touchLine s a).cycles = s.cycles := by
  unfold touchLine
  split
  · exact ⟨rfl, rfl⟩
  · exact bumpGen_frame _ _

/-- What is about to be written bumps generations; the bytes and the time stay. -/
theorem touchRange_frame (s : State) (lo n : Nat) : (touchRange s lo n).mem = s.mem ∧ (touchRange s lo n).cycles = s.cycles := by
  unfold touchRange
  generalize List.filter _ _ = l
  induction l generalizing s with
  | nil => exact ⟨rfl, rfl⟩
  | cons x xs ih =>
    have h := touchLine_frame s (64 * x)
    rw [List.foldl_cons, ← h.1, ← h.2]
    exact ih _

theorem touchRange_mem (s : State) (lo n : Nat) : (touchRange s lo n).mem = s.mem := (touchRange_frame s lo n).1

theorem touchRange_cycles (s : State) (lo n : Nat) : (touchRange s lo n).cycles = s.cycles := (touchRange_frame s lo n).2

/-- All that the beginning of a wake can change: nothing, or the course's wake, and from off its SRAM, which is zeroed. -/
theorem startWake_cases (s : State) (c : Nat) :
    startWake s c = s ∨
    ((s.crs c).power = .retention ∧
      startWake s c = s.modCrs c fun y => { y with waking := some (s.cycles + 2800, s.cycles + 2800) }) ∨
    ((s.crs c).power = .off ∧
      startWake s c = ({ touchRange s (nearPA c 0 0) (2 ^ 28) with
          mem := Memory.clear (touchRange s (nearPA c 0 0) (2 ^ 28)).mem (nearPA c 0 0) (2 ^ 28) } : State).modCrs c fun y =>
        { y with waking := some (s.cycles + 70000, s.cycles + 71024) }) := by
  by_cases hw : (s.crs c).waking.isSome
  · exact .inl (by simp [startWake, hw])
  · cases hp : (s.crs c).power with
    | awake => exact .inl (by simp [startWake, hw, hp])
    | retention => exact .inr (.inl ⟨rfl, by simp [startWake, hw, hp]⟩)
    | off => exact .inr (.inr ⟨rfl, by simp only [startWake, hw, hp]; simp [touchRange_cycles]⟩)

/-- Bytes that no sleeping course homes wake none. -/
theorem wakeAt_awake {s : State} {as : List Nat} (h : s.firstAsleep as = none) : wakeAt s as = s := by simp [wakeAt, h]

/-- The beginning of a wake keeps the form of memory. -/
theorem startWake_wf {s : State} (h : Memory.wf s.mem = true) (c : Nat) : Memory.wf (startWake s c).mem = true := by
  obtain e | ⟨-, e⟩ | ⟨-, e⟩ := startWake_cases s c <;> rw [e]
  · exact h
  · exact h
  · exact Memory.clear_wf (by rw [touchRange_mem]; exact h) _ _

end Sys2Proof.Machine
end

