-- ==== Sys2Proof/Tests/Slice0.lean ====
section
/-! SUPPORT. Sys2Proof/Tests/Slice0.lean: tests of the model against the spec's own words and examples, and witnesses: for
each statement of Certificates/Slice0/Obligations.lean with hypotheses, states and operands that meet them. -/

namespace Sys2Proof.Tests

open Sys2Proof Sys2Proof.Machine

set_option exponentiation.threshold 1024
set_option maxRecDepth 20000
set_option Elab.async false

/-! ### Small states -/

/-- A record: VAR, TY, AR, TG, PL, D0, D1, LIT. -/
def rec (var ty ar tg : Nat) (pl : Bool) (d0 d1 lit : Nat) : NodeRec :=
  ⟨BitVec.ofNat 4 var, BitVec.ofNat 4 ty, BitVec.ofNat 3 ar, BitVec.ofNat 2 tg, pl, BitVec.ofNat 21 d0, BitVec.ofNat 21 d1,
    BitVec.ofNat 32 lit⟩

/-- A record with no destination: VAR, TY, AR, LIT. -/
def rq (var ty ar lit : Nat) : NodeRec := rec var ty ar 0 false 0x1FFFFF 0x1FFFFF lit

/-- The latch of node 1 of element 0 of course 0, in frame 5 of context 1, with operands A, B and C. -/
def lat (a b c : Nat) : Firing :=
  { Firing.none with node := 1, cx := 1, ft := 5, it := 3, a := some (plain a), b := some (plain b), c := some (plain c) }

/-- A frame of context 1 with an empty live cast. -/
def fr : Frame :=
  { (default : Frame) with cx := 1, it := 3, link := { Link.root with lc := true }, cast := some (Cast.start 0 0) }

/-- A context of depth 1. -/
def cx1 : Ctx := { Ctx.fresh with depth := 1, runnable := true }

/-- After reset, with context 1, its frame 5 in bay 0 of course 0, and a latch. -/
def st (g : Firing) : State :=
  { ({ State.reset with ctxs := [(0, { Ctx.fresh with runnable := true }), (1, cx1)] } : State).setFrame 0 0 5 fr with firing := g }

/-! ### Well-formedness: an ill-formed record for each check (R132), and its code -/

theorem test_wf_accepts : (Instr.add (rq 0 7 1 0)).wellFormed = true := by decide
theorem test_wf_unassigned_op : recordFault 0x0D (rq 0 7 1 0) = some 1 := by decide
theorem test_wf_var_mask : recordFault 0x46 (rq 6 7 1 0) = some 2 := by decide
theorem test_wf_var_rule : recordFault 0x64 (rec 6 7 0 0 true 0x1FFFFF 0x1FFFFF 0) = some 2 := by decide
theorem test_wf_ar_mask : recordFault 0x30 (rq 0 7 0 0) = some 3 := by decide
theorem test_wf_ar_rule : recordFault 0xA7 (rq 1 15 1 0x140) = some 3 := by decide
theorem test_wf_ty_mask : recordFault 0x30 (rq 0 8 1 0) = some 4 := by decide
theorem test_wf_ty_rule : recordFault 0xA5 (rq 6 7 3 0) = some 4 := by decide
theorem test_wf_scope : recordFault 0xAA (rq 0 7 1 0) = some 5 := by decide
theorem test_wf_order_mask : recordFault 0x91 (rq 0 7 1 0x40) = some 6 := by decide
theorem test_wf_order_rule : recordFault 0xA6 (rq 1 15 0 0x40) = some 6 := by decide
theorem test_wf_tg_mask : recordFault 0x30 (rec 0 7 1 2 false 0x1FFFFF 0x1FFFFF 0) = some 7 := by decide
theorem test_wf_destination : recordFault 0x30 (rec 0 7 1 0 false 0x101800 0x1FFFFF 0) = some 7 := by decide
theorem test_wf_return_names_none : recordFault 0x30 (rec 0 7 1 3 false 0x100 0x1FFFFF 0) = some 7 := by decide
theorem test_wf_plane : recordFault 0x30 (rec 0 7 1 0 true 0x1FFFFF 0x1FFFFF 0) = some 8 := by decide
theorem test_wf_literal_value : recordFault 0x08 (rq 0 9 2 0x10000) = some 10 := by decide
theorem test_wf_literal_absent : recordFault 0x30 (rq 0 7 1 1) = some 10 := by decide
theorem test_wf_literal_mask : recordFault 0xB5 (rq 0 15 0 4) = some 10 := by decide
theorem test_wf_literal_own : recordFault 0x23 (rq 0 7 0 24) = some 10 := by decide
theorem test_wf_literal_offset : recordFault 0xA6 (rq 0 15 0 1) = some 6 := by decide
theorem test_wf_fence_offset : recordFault 0xA6 (rq 0 15 0 0x41) = some 10 := by decide
theorem test_wf_variant : (Instr.barArrive (rq 1 15 0 0x140)).wellFormed = false := by decide

theorem test_decode_plumbing :
    [0x010D0C2463A1010E00000000#104,
     0x020D07FFFFFFFFFF00000000#104,
     0x030D082463A1010E0000000A#104,
     0x040DA82463A1010E00000007#104,
     0x050D2C2463A1010E00000000#104,
     0x060D8C2463A1010E8000000B#104,
     0x070D6C2463A1010E00000000#104,
     0x080D8C2463A1010E8000000B#104,
     0x090D342463A1010E00000005#104,
     0x0A0D342463A1010E00001405#104,
     0x0B0D0C2463A1010E00000000#104,
     0x0C0D482463A1010E8000000B#104].map (fun w => (decodeStep w).toOption) =
    [.pass (rec 0 13 0 1 true 0x1231D 0x1010E 0x0),
     .sink (rec 0 13 0 0 true 0x1FFFFF 0x1FFFFF 0x0),
     .lit (rec 0 13 0 1 false 0x1231D 0x1010E 0xA),
     .src (rec 0 13 5 1 false 0x1231D 0x1010E 0x7),
     .steer (rec 0 13 1 1 true 0x1231D 0x1010E 0x0),
     .sel (rec 0 13 4 1 true 0x1231D 0x1010E 0x8000000B),
     .merge (rec 0 13 3 1 true 0x1231D 0x1010E 0x0),
     .join (rec 0 13 4 1 true 0x1231D 0x1010E 0x8000000B),
     .vert (rec 0 13 1 2 true 0x1231D 0x1010E 0x5),
     .eave (rec 0 13 1 2 true 0x1231D 0x1010E 0x1405),
     .repl (rec 0 13 0 1 true 0x1231D 0x1010E 0x0),
     .extr (rec 0 13 2 1 false 0x1231D 0x1010E 0x8000000B)].map some := by
  decide

theorem test_decode_tags_and_room :
    [0x1007082463A1010E00000000#104,
     0x1107482463A1010E8000000B#104,
     0x120D302463A1010E00000201#104,
     0x130D1BFFFFFFFFFF00000000#104,
     0x140D03FFFFFFFFFF00000000#104,
     0x150D282463A1010E00000000#104,
     0x1607482463A1010E8000000B#104,
     0x2017082463A1010E00000101#104,
     0x2107082463A1010E00020001#104,
     0x2207082463A1010E00000000#104,
     0x2307082463A1010E00000003#104,
     0x2407082463A1010E00000000#104,
     0x2507082463A1010E00000000#104,
     0x2607082463A1010E00000000#104,
     0x2707082463A1010E00000000#104,
     0x2807082463A1010E00000011#104].map (fun w => (decodeStep w).toOption) =
    [.tagget (rec 0 7 0 1 false 0x1231D 0x1010E 0x0),
     .tagset (rec 0 7 2 1 false 0x1231D 0x1010E 0x8000000B),
     .call (rec 0 13 1 2 false 0x1231D 0x1010E 0x201),
     .ret (rec 0 13 0 3 false 0x1FFFFF 0x1FFFFF 0x0),
     .exit (rec 0 13 0 0 false 0x1FFFFF 0x1FFFFF 0x0),
     .iter (rec 0 13 1 1 false 0x1231D 0x1010E 0x0),
     .strand (rec 0 7 2 1 false 0x1231D 0x1010E 0x8000000B),
     .allocFrm (rec 1 7 0 1 false 0x1231D 0x1010E 0x101),
     .allocBuf (rec 0 7 0 1 false 0x1231D 0x1010E 0x20001),
     .allocRdg (rec 0 7 0 1 false 0x1231D 0x1010E 0x0),
     .allocCru (rec 0 7 0 1 false 0x1231D 0x1010E 0x3),
     .freeFrm (rec 0 7 0 1 false 0x1231D 0x1010E 0x0),
     .freeBuf (rec 0 7 0 1 false 0x1231D 0x1010E 0x0),
     .use (rec 0 7 0 1 false 0x1231D 0x1010E 0x0),
     .freeRdg (rec 0 7 0 1 false 0x1231D 0x1010E 0x0),
     .poolq (rec 0 7 0 1 false 0x1231D 0x1010E 0x11)].map some := by
  decide

theorem test_decode_integers :
    [0x3007482463A1010E8000000B#104,
     0x3107482463A1010E8000000B#104,
     0x3207482463A1010E8000000B#104,
     0x3307482463A1010E8000000B#104,
     0x3407482463A1010E8000000B#104,
     0x3507482463A1010E8000000B#104,
     0x3607882463A1010E8000000B#104,
     0x3707082463A1010E00000000#104,
     0x3807082463A1010E00000000#104,
     0x3907482463A1010E8000000B#104,
     0x3A07482463A1010E8000000B#104,
     0x3B07482463A1010E8000000B#104,
     0x3C07482463A1010E8000000B#104,
     0x3D07482463A1010E8000000B#104,
     0x3E07082463A1010E00000000#104,
     0x3F07482463A1010E8000000B#104,
     0x4007482463A1010E8000000B#104,
     0x4107482463A1010E8000000B#104,
     0x4207482463A1010E8000000B#104,
     0x4307482463A1010E8000000B#104,
     0x4407082463A1010E00000000#104,
     0x4507082463A1010E00000000#104,
     0x4657482463A1010E8000000B#104,
     0x4767482463A1010E8000000B#104,
     0x4807482463A1010E8000000B#104,
     0x4907882463A1010E8000000B#104,
     0x4A27082463A1010E00000000#104,
     0x4B07482463A1010E8000000B#104,
     0x4C07882463A1010E8000000B#104].map (fun w => (decodeStep w).toOption) =
    [.add (rec 0 7 2 1 false 0x1231D 0x1010E 0x8000000B),
     .sub (rec 0 7 2 1 false 0x1231D 0x1010E 0x8000000B),
     .mul (rec 0 7 2 1 false 0x1231D 0x1010E 0x8000000B),
     .mulh (rec 0 7 2 1 false 0x1231D 0x1010E 0x8000000B),
     .div (rec 0 7 2 1 false 0x1231D 0x1010E 0x8000000B),
     .rem (rec 0 7 2 1 false 0x1231D 0x1010E 0x8000000B),
     .mad (rec 0 7 4 1 false 0x1231D 0x1010E 0x8000000B),
     .neg (rec 0 7 0 1 false 0x1231D 0x1010E 0x0),
     .abs (rec 0 7 0 1 false 0x1231D 0x1010E 0x0),
     .min (rec 0 7 2 1 false 0x1231D 0x1010E 0x8000000B),
     .max (rec 0 7 2 1 false 0x1231D 0x1010E 0x8000000B),
     .and (rec 0 7 2 1 false 0x1231D 0x1010E 0x8000000B),
     .or (rec 0 7 2 1 false 0x1231D 0x1010E 0x8000000B),
     .xor (rec 0 7 2 1 false 0x1231D 0x1010E 0x8000000B),
     .not (rec 0 7 0 1 false 0x1231D 0x1010E 0x0),
     .andn (rec 0 7 2 1 false 0x1231D 0x1010E 0x8000000B),
     .shl (rec 0 7 2 1 false 0x1231D 0x1010E 0x8000000B),
     .shr (rec 0 7 2 1 false 0x1231D 0x1010E 0x8000000B),
     .sar (rec 0 7 2 1 false 0x1231D 0x1010E 0x8000000B),
     .rol (rec 0 7 2 1 false 0x1231D 0x1010E 0x8000000B),
     .clz (rec 0 7 0 1 false 0x1231D 0x1010E 0x0),
     .pop (rec 0 7 0 1 false 0x1231D 0x1010E 0x0),
     .cmp (rec 5 7 2 1 false 0x1231D 0x1010E 0x8000000B),
     .lea (rec 6 7 2 1 false 0x1231D 0x1010E 0x8000000B),
     .bfx (rec 0 7 2 1 false 0x1231D 0x1010E 0x8000000B),
     .bfi (rec 0 7 4 1 false 0x1231D 0x1010E 0x8000000B),
     .ext (rec 2 7 0 1 false 0x1231D 0x1010E 0x0),
     .satadd (rec 0 7 2 1 false 0x1231D 0x1010E 0x8000000B),
     .clamp (rec 0 7 4 1 false 0x1231D 0x1010E 0x8000000B)].map some := by
  decide

theorem test_decode_vector_integers :
    [0x50174C2463A1010E8000000B#104,
     0x51174C2463A1010E8000000B#104,
     0x52174C2463A1010E8000000B#104,
     0x53078C2463A1010E8000000B#104,
     0x54074C2463A1010E8000000B#104,
     0x55074C2463A1010E8000000B#104,
     0x56074C2463A1010E8000000B#104,
     0x57074C2463A1010E8000000B#104,
     0x58074C2463A1010E8000000B#104,
     0x59074C2463A1010E8000000B#104,
     0x5A074C2463A1010E8000000B#104,
     0x5B574C2463A1010E8000000B#104,
     0x5C0C6C2463A1010E00000000#104,
     0x5D070C2463A1010E00000000#104,
     0x5E068C2463A1010E8000000B#104,
     0x5F070C2463A1010E00000000#104,
     0x600C2C2463A1010E00000000#104,
     0x611D2C2463A1010E00000003#104,
     0x62172C2463A1010E00000000#104,
     0x63160C2463A1010E00000000#104,
     0x646A0C2463A1010E00000000#104,
     0x656A0C2463A1010E00000000#104,
     0x660D8C2463A1010E8000000B#104,
     0x670C0C2463A1010E00000000#104,
     0x68074C2463A1010E8000000B#104].map (fun w => (decodeStep w).toOption) =
    [.vadd (rec 1 7 2 1 true 0x1231D 0x1010E 0x8000000B),
     .vsub (rec 1 7 2 1 true 0x1231D 0x1010E 0x8000000B),
     .vmul (rec 1 7 2 1 true 0x1231D 0x1010E 0x8000000B),
     .vmad (rec 0 7 4 1 true 0x1231D 0x1010E 0x8000000B),
     .vmin (rec 0 7 2 1 true 0x1231D 0x1010E 0x8000000B),
     .vmax (rec 0 7 2 1 true 0x1231D 0x1010E 0x8000000B),
     .vand (rec 0 7 2 1 true 0x1231D 0x1010E 0x8000000B),
     .vor (rec 0 7 2 1 true 0x1231D 0x1010E 0x8000000B),
     .vxor (rec 0 7 2 1 true 0x1231D 0x1010E 0x8000000B),
     .vshl (rec 0 7 2 1 true 0x1231D 0x1010E 0x8000000B),
     .vshr (rec 0 7 2 1 true 0x1231D 0x1010E 0x8000000B),
     .vcmp (rec 5 7 2 1 true 0x1231D 0x1010E 0x8000000B),
     .vsel (rec 0 12 3 1 true 0x1231D 0x1010E 0x0),
     .vabs (rec 0 7 0 1 true 0x1231D 0x1010E 0x0),
     .vdot4 (rec 0 6 4 1 true 0x1231D 0x1010E 0x8000000B),
     .vpopc (rec 0 7 0 1 true 0x1231D 0x1010E 0x0),
     .vperm (rec 0 12 1 1 true 0x1231D 0x1010E 0x0),
     .vslide (rec 1 13 1 1 true 0x1231D 0x1010E 0x3),
     .vpack (rec 1 7 1 1 true 0x1231D 0x1010E 0x0),
     .vunpk (rec 1 6 0 1 true 0x1231D 0x1010E 0x0),
     .vred (rec 6 10 0 1 true 0x1231D 0x1010E 0x0),
     .vscan (rec 6 10 0 1 true 0x1231D 0x1010E 0x0),
     .vins (rec 0 13 4 1 true 0x1231D 0x1010E 0x8000000B),
     .vmask (rec 0 12 0 1 true 0x1231D 0x1010E 0x0),
     .viota (rec 0 7 2 1 true 0x1231D 0x1010E 0x8000000B)].map some := by
  decide

theorem test_decode_vector_floats :
    [0x705A4C2463A1010E8000000B#104,
     0x715A4C2463A1010E8000000B#104,
     0x725A4C2463A1010E8000000B#104,
     0x735A8C2463A1010E8000000B#104,
     0x740A4C2463A1010E8000000B#104,
     0x750A4C2463A1010E8000000B#104,
     0x760A0C2463A1010E00000000#104,
     0x770A0C2463A1010E00000000#104,
     0x787A4C2463A1010E8000000B#104,
     0x795A4C2463A1010E8000000B#104,
     0x7A5A0C2463A1010E00000000#104,
     0x7B0A0C2463A1010E00000000#104,
     0x7C0A0C2463A1010E00000000#104,
     0x7D0A0C2463A1010E00000000#104,
     0x7E0A0C2463A1010E00000000#104,
     0x7F0A0C2463A1010E00000000#104,
     0x80DD6C2463A1010E00000800#104,
     0x81DD6C2463A1010E80000000#104,
     0x825A2C2463A1010E00000B00#104,
     0x83DD082463A1010E00000800#104,
     0x847A282463A1010E00000000#104,
     0x853A0C2463A1010E00000000#104].map (fun w => (decodeStep w).toOption) =
    [.vfadd (rec 5 10 2 1 true 0x1231D 0x1010E 0x8000000B),
     .vfsub (rec 5 10 2 1 true 0x1231D 0x1010E 0x8000000B),
     .vfmul (rec 5 10 2 1 true 0x1231D 0x1010E 0x8000000B),
     .vfma (rec 5 10 4 1 true 0x1231D 0x1010E 0x8000000B),
     .vfmin (rec 0 10 2 1 true 0x1231D 0x1010E 0x8000000B),
     .vfmax (rec 0 10 2 1 true 0x1231D 0x1010E 0x8000000B),
     .vfabs (rec 0 10 0 1 true 0x1231D 0x1010E 0x0),
     .vfneg (rec 0 10 0 1 true 0x1231D 0x1010E 0x0),
     .vfcmp (rec 7 10 2 1 true 0x1231D 0x1010E 0x8000000B),
     .vfdiv (rec 5 10 2 1 true 0x1231D 0x1010E 0x8000000B),
     .vfsqrt (rec 5 10 0 1 true 0x1231D 0x1010E 0x0),
     .vfrcp (rec 0 10 0 1 true 0x1231D 0x1010E 0x0),
     .vfrsq (rec 0 10 0 1 true 0x1231D 0x1010E 0x0),
     .vfexp2 (rec 0 10 0 1 true 0x1231D 0x1010E 0x0),
     .vflog2 (rec 0 10 0 1 true 0x1231D 0x1010E 0x0),
     .vfcls (rec 0 10 0 1 true 0x1231D 0x1010E 0x0),
     .vcvt (rec 13 13 3 1 true 0x1231D 0x1010E 0x800),
     .qcvt (rec 13 13 3 1 true 0x1231D 0x1010E 0x80000000),
     .dqcvt (rec 5 10 1 1 true 0x1231D 0x1010E 0xB00),
     .fcvt (rec 13 13 0 1 false 0x1231D 0x1010E 0x800),
     .sfop (rec 7 10 1 1 false 0x1231D 0x1010E 0x0),
     .vrnd (rec 3 10 0 1 true 0x1231D 0x1010E 0x0)].map some := by
  decide

theorem test_decode_memory_and_sync :
    [0x900C082463A1010E0A103643#104,
     0x910C282463A1010E0A103683#104,
     0x923D0C2463A1010E0A103643#104,
     0x933D2C2463A1010E0A103683#104,
     0x940C282463A1010E0A103643#104,
     0x950C682463A1010E0A103683#104,
     0x960C082463A1010E0A103643#104,
     0x973D2C2463A1010E0A103643#104,
     0x983D6C2463A1010E0A103683#104,
     0x990D082463A1010E0A103603#104,
     0xA078282463A1010E0A1036C3#104,
     0xA107682463A1010E0A1036C3#104,
     0xA20D082463BFFFFF0A103643#104,
     0xA30D282463A1010E0A103683#104,
     0xA40D082463A1010E0A103683#104,
     0xA5686C2463A1010E0A1036C3#104,
     0xA61D082463A1010E0A1036C0#104,
     0xA70D282463A1010E0A103583#104,
     0xA71D082463A1010E0A103543#104,
     0xA80D082463A1010E0A103683#104,
     0xA90D082463A1010E00000001#104,
     0xAA0D2C2463A1010E0A103483#104,
     0xAB0D0C2463A1010E0A103443#104,
     0xAC0D082463A1010E00000000#104,
     0xAD0D082463A1010E00000000#104,
     0xAD1D082463A1010E00000000#104].map (fun w => (decodeStep w).toOption) =
    [.ld (rec 0 12 0 1 false 0x1231D 0x1010E 0xA103643),
     .st (rec 0 12 1 1 false 0x1231D 0x1010E 0xA103683),
     .vld (rec 3 13 0 1 true 0x1231D 0x1010E 0xA103643),
     .vst (rec 3 13 1 1 true 0x1231D 0x1010E 0xA103683),
     .ldx (rec 0 12 1 1 false 0x1231D 0x1010E 0xA103643),
     .stx (rec 0 12 3 1 false 0x1231D 0x1010E 0xA103683),
     .ldl (rec 0 12 0 1 false 0x1231D 0x1010E 0xA103643),
     .vldx (rec 3 13 1 1 true 0x1231D 0x1010E 0xA103643),
     .vstx (rec 3 13 3 1 true 0x1231D 0x1010E 0xA103683),
     .pref (rec 0 13 0 1 false 0x1231D 0x1010E 0xA103603),
     .atom (rec 7 8 1 1 false 0x1231D 0x1010E 0xA1036C3),
     .cas (rec 0 7 3 1 false 0x1231D 0x1010E 0xA1036C3),
     .ild (rec 0 13 0 1 false 0x1231D 0x1FFFFF 0xA103643),
     .ist (rec 0 13 1 1 false 0x1231D 0x1010E 0xA103683),
     .iclr (rec 0 13 0 1 false 0x1231D 0x1010E 0xA103683),
     .cmb (rec 6 8 3 1 true 0x1231D 0x1010E 0xA1036C3),
     .fence (rec 1 13 0 1 false 0x1231D 0x1010E 0xA1036C0),
     .barArrive (rec 0 13 1 1 false 0x1231D 0x1010E 0xA103583),
     .barWait (rec 1 13 0 1 false 0x1231D 0x1010E 0xA103543),
     .publish (rec 0 13 0 1 false 0x1231D 0x1010E 0xA103683),
     .shadow (rec 0 13 0 1 false 0x1231D 0x1010E 0x1),
     .rdgSt (rec 0 13 1 1 true 0x1231D 0x1010E 0xA103483),
     .rdgLd (rec 0 13 0 1 true 0x1231D 0x1010E 0xA103443),
     .rdgWait (rec 0 13 0 1 false 0x1231D 0x1010E 0x0),
     .tickRd (rec 0 13 0 1 false 0x1231D 0x1010E 0x0),
     .tickUntil (rec 1 13 0 1 false 0x1231D 0x1010E 0x0)].map some := by
  decide

theorem test_decode_gates_and_crucibles :
    [0xB00D282463A1010E00000040#104,
     0xB10D282463A1010E00000040#104,
     0xB20D282463A1010E00000040#104,
     0xB30D082463A1010E00000040#104,
     0xB40D082463A1010E00000000#104,
     0xB50D082463A1010E00000002#104,
     0xB60D082463A1010E00000001#104,
     0xC01B002463A1010E00002000#104,
     0xC10B602463A1010E00000800#104,
     0xC20B202463A1010E00000800#104,
     0xC3FDC02463A1010E00000001#104,
     0xC40D002463A1010E00000000#104,
     0xC53C202463A1010E00000200#104,
     0xC63D002463A1010E00000000#104,
     0xC73A002463A1010E00000000#104,
     0xC80D002463A1010E00000004#104].map (fun w => (decodeStep w).toOption) =
    [.gateLoad (rec 0 13 1 1 false 0x1231D 0x1010E 0x40),
     .gateStore (rec 0 13 1 1 false 0x1231D 0x1010E 0x40),
     .gateFeed (rec 0 13 1 1 false 0x1231D 0x1010E 0x40),
     .gateDrain (rec 0 13 0 1 false 0x1231D 0x1010E 0x40),
     .gateFence (rec 0 13 0 1 false 0x1231D 0x1010E 0x0),
     .gateQry (rec 0 13 0 1 false 0x1231D 0x1010E 0x2),
     .gateCancel (rec 0 13 0 1 false 0x1231D 0x1010E 0x1),
     .mxLdb (rec 1 11 0 0 false 0x1231D 0x1010E 0x2000),
     .mxGather (rec 0 11 3 0 false 0x1231D 0x1010E 0x800),
     .mxLda (rec 0 11 1 0 false 0x1231D 0x1010E 0x800),
     .mxMma (rec 15 13 6 0 false 0x1231D 0x1010E 0x1),
     .mxScale (rec 0 13 0 0 false 0x1231D 0x1010E 0x0),
     .mxDrain (rec 3 12 1 0 false 0x1231D 0x1010E 0x200),
     .mxZero (rec 3 13 0 0 false 0x1231D 0x1010E 0x0),
     .mxAddc (rec 3 10 0 0 false 0x1231D 0x1010E 0x0),
     .mxQry (rec 0 13 0 0 false 0x1231D 0x1010E 0x4)].map some := by
  decide

theorem test_decode_heap_and_system :
    [0xD008282463A1010E00000000#104,
     0xD108482463A1010E8000000B#104,
     0xD20DA02463A1010E00000101#104,
     0xD308082463A1010E00000000#104,
     0xD403082463A1010E00000000#104,
     0xD503482463A1010E8000000B#104,
     0xD60D082463A1010E00000004#104,
     0xD708482463A1010E8000000B#104,
     0xE007082463A1010E00000000#104,
     0xE107682463A1010E00000000#104,
     0xE207682463A1010E00000000#104,
     0xE307082463A1010E00000000#104,
     0xE407082463A1010E00000000#104,
     0xE507082463A1010E00000000#104,
     0xE607082463A1010E00000000#104,
     0xE707082463A1010E0000000C#104,
     0xE807282463A1010E00000021#104,
     0xE907082463A1010E00010007#104,
     0xEA47082463A1010E00000000#104,
     0xEB07082463A1010E0000003F#104,
     0xEC07482463A1010E8000000B#104,
     0xED07082463A1010E00000000#104,
     0xEE07082463A1010E00000000#104,
     0xEF07482463A1010E8000000B#104].map (fun w => (decodeStep w).toOption) =
    [.spawn (rec 0 8 1 1 false 0x1231D 0x1010E 0x0),
     .gainAdd (rec 0 8 2 1 false 0x1231D 0x1010E 0x8000000B),
     .gainTake (rec 0 13 5 0 false 0x1231D 0x1010E 0x101),
     .gainDone (rec 0 8 0 1 false 0x1231D 0x1010E 0x0),
     .residRd (rec 0 3 0 1 false 0x1231D 0x1010E 0x0),
     .tolWr (rec 0 3 2 1 false 0x1231D 0x1010E 0x8000000B),
     .heapQ (rec 0 13 0 1 false 0x1231D 0x1010E 0x4),
     .gainSet (rec 0 8 2 1 false 0x1231D 0x1010E 0x8000000B),
     .ctxNew (rec 0 7 0 1 false 0x1231D 0x1010E 0x0),
     .ctxGrant (rec 0 7 3 1 false 0x1231D 0x1010E 0x0),
     .ctxRevoke (rec 0 7 3 1 false 0x1231D 0x1010E 0x0),
     .ctxRun (rec 0 7 0 1 false 0x1231D 0x1010E 0x0),
     .ctxStop (rec 0 7 0 1 false 0x1231D 0x1010E 0x0),
     .ctxDel (rec 0 7 0 1 false 0x1231D 0x1010E 0x0),
     .ctxRst (rec 0 7 0 1 false 0x1231D 0x1010E 0x0),
     .csrRd (rec 0 7 0 1 false 0x1231D 0x1010E 0xC),
     .csrWr (rec 0 7 1 1 false 0x1231D 0x1010E 0x21),
     .trap (rec 0 7 0 1 false 0x1231D 0x1010E 0x10007),
     .repair (rec 4 7 0 1 false 0x1231D 0x1010E 0x0),
     .hostSig (rec 0 7 0 1 false 0x1231D 0x1010E 0x3F),
     .cfgLoad (rec 0 7 2 1 false 0x1231D 0x1010E 0x8000000B),
     .cfgFlip (rec 0 7 0 1 false 0x1231D 0x1010E 0x0),
     .launch (rec 0 7 0 1 false 0x1231D 0x1010E 0x0),
     .permit (rec 0 7 2 1 false 0x1231D 0x1010E 0x8000000B)].map some := by
  decide

theorem test_decode_events1 :
    let e : EvArgs := ⟨9, 0x123, 0x456, 0x789A, 0xBCD, 0xE12345678⟩
    [0x0190123456789ABCDE12345678#104,
     0x0290123456789ABCDE12345678#104,
     0x0390123456789ABCDE12345678#104,
     0x0490123456789ABCDE12345678#104,
     0x0590123456789ABCDE12345678#104,
     0x0690123456789ABCDE12345678#104,
     0x0790123456789ABCDE12345678#104,
     0x0890123456789ABCDE12345678#104,
     0x0990123456789ABCDE12345678#104,
     0x0A90123456789ABCDE12345678#104,
     0x0B90123456789ABCDE12345678#104,
     0x0C90123456789ABCDE12345678#104,
     0x0D90123456789ABCDE12345678#104,
     0x0E90123456789ABCDE12345678#104,
     0x0F90123456789ABCDE12345678#104,
     0x1090123456789ABCDE12345678#104,
     0x1190123456789ABCDE12345678#104,
     0x1290123456789ABCDE12345678#104,
     0x1390123456789ABCDE12345678#104,
     0x1490123456789ABCDE12345678#104,
     0x1590123456789ABCDE12345678#104,
     0x1690123456789ABCDE12345678#104,
     0x1790123456789ABCDE12345678#104,
     0x1890123456789ABCDE12345678#104,
     0x1990123456789ABCDE12345678#104,
     0x1A90123456789ABCDE12345678#104,
     0x1B90123456789ABCDE12345678#104,
     0x1C90123456789ABCDE12345678#104,
     0x1D90123456789ABCDE12345678#104,
     0x1E90123456789ABCDE12345678#104,
     0x1F90123456789ABCDE12345678#104,
     0x2090123456789ABCDE12345678#104,
     0x2190123456789ABCDE12345678#104,
     0x2290123456789ABCDE12345678#104,
     0x2390123456789ABCDE12345678#104,
     0x2490123456789ABCDE12345678#104,
     0x2590123456789ABCDE12345678#104,
     0x2690123456789ABCDE12345678#104,
     0x2790123456789ABCDE12345678#104,
     0x2890123456789ABCDE12345678#104,
     0x2990123456789ABCDE12345678#104,
     0x2A90123456789ABCDE12345678#104,
     0x2B000000000000000000000000#104,
     0x2C90123456789ABCDE12345678#104].map (fun w => (decodeStep w).toOption) =
    [.tokenArrival e,
     .castCommit e,
     .castAbort e,
     .stall e,
     .compactionMoveDone e,
     .spillTimerExpiry e,
     .spillWriteAck e,
     .waveLoadPerform e,
     .walkComplete e,
     .walkerStart e,
     .cmbPartialArrival e,
     .cmbCellTimeout e,
     .barrierPhaseComplete e,
     .ridgeOccurrence e,
     .ridgeControlWord e,
     .ridgeMirrorApply e,
     .tickUntilExpiry e,
     .crucibleTokenArrival e,
     .crucibleOperationStart e,
     .permitHandout e,
     .burstEnd e,
     .gateStreamBind e,
     .gateFeedBeat e,
     .gateDrainBeat e,
     .gateStreamComplete e,
     .gateStreamFault e,
     .faultDelivery e,
     .verdictApply e,
     .kernelSelect e,
     .kernelStart e,
     .kernelCancel e,
     .gangStartTick e,
     .sourceInjection e,
     .kernelEnd e,
     .heapPop e,
     .sliceEnd e,
     .sweep e,
     .freeze e,
     .sliceResume e,
     .cfgFillComplete e,
     .pagePull e,
     .pullLost e,
     .powerMeasure,
     .permitStepLower e].map some := by
  decide

theorem test_decode_events2 :
    let e : EvArgs := ⟨9, 0x123, 0x456, 0x789A, 0xBCD, 0xE12345678⟩
    [0x2D90123456789ABCDE12345678#104,
     0x2E90123456789ABCDE12345678#104,
     0x2F90123456789ABCDE12345678#104,
     0x3090123456789ABCDE12345678#104,
     0x3190123456789ABCDE12345678#104,
     0x3290123456789ABCDE12345678#104,
     0x3390123456789ABCDE12345678#104,
     0x3490123456789ABCDE12345678#104,
     0x3590123456789ABCDE12345678#104,
     0x36000000000000000000000000#104,
     0x3790123456789ABCDE12345678#104,
     0x3890123456789ABCDE12345678#104,
     0x39000000000000000000000000#104,
     0x3A000000000000000000000000#104,
     0x3B000000000000000000000000#104,
     0x3C000000000000000000000000#104,
     0x3D000000000000000000000000#104,
     0x3E000000000000000000000000#104,
     0x3F000000000000000000000000#104,
     0x40000000000000000000000000#104,
     0x41000000000000000000000000#104,
     0x42000000000000000000000000#104,
     0x43000000000000000000000000#104,
     0x44000000000000000000000000#104,
     0x45000000000000000000000000#104,
     0x46000000000000000000000000#104,
     0x47000000000000000000000000#104,
     0x48000000000000000000000000#104,
     0x49000000000000000000000000#104,
     0x4A000000000000000000000000#104,
     0x4B000000000000000000000000#104,
     0x4C000000000000000000000000#104,
     0x4D000000000000000000000000#104,
     0x4E000000000000000000000000#104,
     0x4F000000000000000000000000#104,
     0x50000000000000000000000000#104,
     0x51000000000000000000000000#104,
     0x52000000000000000000000000#104,
     0x53000000000000000000000000#104,
     0x5490123456789ABCDE12345678#104,
     0x5590123456789ABCDE12345678#104,
     0x5690123456789ABCDE12345678#104,
     0x5790123456789ABCDE12345678#104,
     0x58000000000000000000000000#104,
     0x5990123456789ABCDE12345678#104].map (fun w => (decodeStep w).toOption) =
    [.permitStepRaise e,
     .courseRetentionEnter e,
     .courseOffEnter e,
     .courseWake e,
     .scrub e,
     .uncorrectableError e,
     .downpipeFail e,
     .courseFail e,
     .downpipeTestBeat e,
     .timeSync,
     .eaveFlitReplay e,
     .eaveLinkLoss e,
     .powerGood,
     .wfence,
     .ctxCreate,
     .ctxDelete,
     .planePut,
     .launchMessage,
     .memCopyToDevice,
     .memCopyToHost,
     .memCopyDevice,
     .checkpoint,
     .checkpointDebug,
     .restoreMessage,
     .attestReport,
     .attestChain,
     .telemPower,
     .telemTemperature,
     .telemErrors,
     .telemSleep,
     .telemSync,
     .resetStack,
     .resetContext,
     .epSend,
     .policyPowerLimit,
     .policySleep,
     .policySpareBanks,
     .policySignedPlanes,
     .policyKeyInstall,
     .restoreCopyDone e,
     .crucibleOperationComplete e,
     .sigDeliveryAck e,
     .hostWindowWrite e,
     .hostLinkDown,
     .permitFallDue e].map some := by
  decide

/-! ### Witnesses: states and operands that meet the hypotheses of the statements -/

/-- The node acts: its tag can be formed, nothing is skipped or poisoned. -/
theorem acts {s : State} {r : NodeRec} {a : Args} {c ft it : Nat} (h : tagOf s r s.firing = .ok c ft it) (h1 : s.firing.skip = false)
    (h2 : s.eBit s.firing = false) (h3 : a.e = false) (h4 : a.p = false) : actsFreely s r a :=
  ⟨⟨c, ft, it, h⟩, h1, h2, h3, h4⟩

theorem witness_IntegerArithmeticComputes : (rq 5 7 1 0).ty.toNat < 8 ∧ (rq 5 7 1 0).var.toNat < 6 := by decide

theorem witness_IntegerBitsShiftsAndFields : (rq 2 7 1 0).ty.toNat < 8 ∧ (rq 2 7 1 0).var.toNat < 3 := by decide

theorem witness_TokenPlumbingSends : (rq 0 7 5 0).ar.toNat = 5 := by decide

theorem witness_CourseStackAndLaneMoves_own : (st (lat 0 0 0)).holdsStack 1 0 = true ∧ 0 = (st (lat 0 0 0)).sideband.stackNo.toNat := by
  decide

theorem witness_CourseStackAndLaneMoves_absent :
    let s := st (lat 0 0 0)
    let r := rec 0 7 1 2 false 0x1FFFFF 0x1FFFFF 0x3FF
    let n := (r.lit.extractLsb' 0 10).toNat
    (s.holdsStack s.firing.cx.toNat n = false ∨ (n ∉ s.reach ∧ n ≠ s.sideband.stackNo.toNat)) ∧
      (argsPl s r s.firing).e = false ∧ s.eBit s.firing = false ∧ s.firing.skip = false := by
  decide

theorem witness_CourseStackAndLaneMoves_lane :
    let r := rq 0 13 1 0
    let w := laneBits r.ty.toNat
    (argsCtl (st (lat 0 127 0)) r (lat 0 127 0)).b.word < 512 / w ∧ 512 / w ≤ (argsCtl (st (lat 0 128 0)) r (lat 0 128 0)).b.word := by
  decide

/-- A second frame of the bay, with no cast. -/
def fr2 : Frame := { fr with link := Link.root, cast := none }

/-- The state with frame 6, which A names. -/
def stF : State := { ((st (lat (frameWord 0 0 0 3 6) 9 4)).setFrame 0 0 6 fr2) with firing := lat (frameWord 0 0 0 3 6) 9 4 }

theorem witness_TagAndCastInstructionsAct :
    let r := rq 0 7 1 0
    let w := frameRef (argsCtl stF r stF.firing).a.word
    stF.frame? 0 stF.firing.bay 5 = some fr ∧ actsFreely stF r (argsCtl stF r stF.firing) ∧
      w.kind = 0 ∧ w.course = 0 ∧ w.unit = stF.firing.bay ∧ stF.frame? 0 stF.firing.bay w.ft = some fr2 ∧
      fr2.cx = stF.firing.cx ∧ fr2.link.lc = false ∧ fr2.pres = 0#64 ∧ w.ft ≠ 5 ∧ fr.nv = false ∧ fr2.mv = false :=
  ⟨rfl, acts rfl rfl rfl rfl rfl, rfl, rfl, rfl, rfl, rfl, rfl, rfl, by decide, rfl, rfl⟩

theorem witness_FrameWordChecksTrap_bay :
    let s := st (lat (frameWord 0 0 1 3 6) 9 4)
    let r := rq 0 7 1 0
    actsFreely s r (argsCtl s r s.firing) ∧ (frameRef (argsCtl s r s.firing).a.word).unit ≠ s.firing.bay :=
  ⟨acts rfl rfl rfl rfl rfl, by decide⟩

theorem witness_FrameWordChecksTrap_free :
    let s := st (lat (frameWord 0 0 0 3 4095) 9 4)
    let r := rq 0 7 1 0
    let w := frameRef (argsCtl s r s.firing).a.word
    actsFreely s r (argsCtl s r s.firing) ∧ w.kind = 0 ∧ w.course = 0 ∧ w.unit = s.firing.bay ∧ s.frame? 0 s.firing.bay w.ft = none ∧
      ∀ f, s.frame? 0 s.firing.bay w.ft = some f → f.cx ≠ s.firing.cx :=
  ⟨acts rfl rfl rfl rfl rfl, rfl, rfl, rfl, rfl, fun f h => by cases (show none = some f from h)⟩

theorem witness_FrameWordChecksTrap_own :
    let s := st (lat (frameWord 0 0 0 3 5) 9 4)
    let r := rq 0 7 1 0
    let w := frameRef (argsCtl s r s.firing).a.word
    actsFreely s r (argsCtl s r s.firing) ∧ w.kind = 0 ∧ w.course = 0 ∧ w.unit = s.firing.bay ∧ s.frame? 0 s.firing.bay w.ft = some fr ∧
      fr.cx = s.firing.cx ∧ w.ft = s.firing.ft.toNat :=
  ⟨acts rfl rfl rfl rfl rfl, rfl, rfl, rfl, rfl, rfl, rfl⟩

/-- A pool of context 1: granules 0 to 63 of kind `kind` (0 FRM, 1 BUF). -/
def pl1 (kind : BitVec 2) : Pool := { (default : Pool) with kind := kind, cx := 1, size := 64 }

/-- A plane of context 1 on course 0: one block of element 0 with map 0. -/
def pln : Plane :=
  { (default : Plane) with
    units := [{ (default : Machine.PUnit) with course := 0, x := 0, y := 0 }], maps := [{ idx := 0, slots := 4, gran := 2, dmask := 0 }],
    blocks := [{ (default : PBlock) with maps := [0], nodes := [(0, 1)] }] }

/-- The state with a pool 0 and the plane loaded. -/
def stP (kind : BitVec 2) : State :=
  ((st (lat 7 9 4)).modBay 0 0 fun y => { y with pools := [(0, pl1 kind)], parts := [(0, { cx := 1, ftl := 0, fth := 15 })] }).modCrs 0
    fun y => { y with holder := some 1, loaded := [{ cx := 1, plane := 1, serial := 0, info := pln }] }

theorem witness_RoomRequestsAreGranted_frame :
    let s := stP 0
    let r := rq 0 7 0 0
    let p := pl1 0
    let w := nodeWaiter s 0x20 r 2 4 0 0 0 false
    actsFreely s r (argsCtl s r s.firing) ∧ s.pool? 0 s.firing.bay 0 = some p ∧ p.cx = 1 ∧ p.waiters = [] ∧ p.pseudo = none ∧ p.moving = [] ∧
      p.kind = 0#2 ∧ s.mapOf 1 0 s.firing.unit.toNat (r.lit.extractLsb' 8 8).toNat = some { idx := 0, slots := 4, gran := 2, dmask := 0 } ∧
      s.frame? 0 s.firing.bay 5 = some fr ∧ freeTag (s.bay 0 s.firing.bay) 1 = some 0 ∧
      (fitsAt (s.bay 0 s.firing.bay) 0 p 1 w).isSome = true :=
  ⟨acts rfl rfl rfl rfl rfl, rfl, rfl, rfl, rfl, rfl, rfl, rfl, rfl, rfl, by decide⟩

theorem witness_RoomRequestsAreGranted_buffer :
    let s := stP 1
    let r := rq 0 7 0 0x00400000
    let p := pl1 1
    let w := nodeWaiter s 0x21 r (r.lit.extractLsb' 16 16).toNat 0 0 0 (r.lit.extractLsb' 8 8).toNat false
    actsFreely s r (argsCtl s r s.firing) ∧ s.pool? 0 s.firing.bay 0 = some p ∧ p.kind = 1#2 ∧ freeEntry p = some 0 ∧
      (fitsAt (s.bay 0 s.firing.bay) 0 p 1 w).isSome = true :=
  ⟨acts rfl rfl rfl rfl rfl, rfl, rfl, rfl, by decide⟩

/-- Context 1 with holdings: a Ridge slot 9 at run time, and crucible 23. -/
def stH : State :=
  { st (lat 9 9 4) with
    slots := [(9, { cx := 1, state := .idle, users := 0, leaving := false })]
    ctxs := [(0, { Ctx.fresh with runnable := true }),
      (1, { cx1 with holds := [{ kind := 3, course := 0, p0 := 0x800000, p1 := 0 }, { kind := 4, course := 0, p0 := 9, p1 := 1 }] })] }

theorem witness_RoomRequestsAreGranted_slot :
    let r := rq 0 7 0 0
    actsFreely stH r (argsCtl stH r stH.firing) ∧ stH.rdgWaits = [] ∧ stH.idleSlot 1 = some 9 ∧ (st (lat 9 9 4)).runSlots 1 = [] :=
  ⟨acts rfl rfl rfl rfl rfl, rfl, rfl, rfl⟩

theorem witness_RoomRequestsAreGranted_crucible :
    let r := rq 0 7 0 23
    let n := (r.lit.extractLsb' 0 5).toNat
    actsFreely stH r (argsCtl stH r stH.firing) ∧ stH.holdsCru 1 0 n = true ∧ (stH.cru 0 n).granted = false ∧ (stH.cru 0 n).waiters = [] ∧
      stH.holdsCru 1 0 22 = false :=
  ⟨acts rfl rfl rfl rfl rfl, rfl, rfl, rfl, rfl⟩

/-- A buffer of 4 granules in pool 0 of bay 0, entry 0, generation 1, with its handle. -/
def buf : PEntry := { (default : PEntry) with v := true, gen := 1, base := 2, size := 4, uc := 1, cx := 1 }
def hnd (off : Nat) : Nat := handleWord 0 0 0 0 1 + off

/-- The state with that buffer. -/
def stB (g : Firing) : State :=
  { ((st g).modBay 0 0 fun y => { y with pools := [(0, { pl1 1 with pmap := [(0, buf)] })] }) with firing := g }

theorem witness_ReleasesAndPoolQueries_frame :
    let r := rq 0 7 0 0
    let w := frameRef (argsCtl stF r stF.firing).a.word
    actsFreely stF r (argsCtl stF r stF.firing) ∧ w.kind = 0 ∧ w.course = 0 ∧ w.unit = stF.firing.bay ∧ stF.frame? 0 stF.firing.bay w.ft = some fr2 ∧ fr2.cx = stF.firing.cx :=
  ⟨acts rfl rfl rfl rfl rfl, rfl, rfl, rfl, rfl, rfl⟩

theorem witness_ReleasesAndPoolQueries_buffer :
    let s := stB (lat (hnd 0) 9 4)
    let r := rq 0 7 0 0
    let x := (argsCtl s r s.firing).a.word
    actsFreely s r (argsCtl s r s.firing) ∧ x / 2 ^ 60 = 0xF ∧ s.handleEntry 1 x 0 = .ok buf :=
  ⟨acts rfl rfl rfl rfl rfl, rfl, rfl⟩

theorem witness_ReleasesAndPoolQueries_slot :
    let s := { stH with slots := [(9, { cx := 1, state := .granted, users := 0, leaving := false })] }
    let r := rq 0 7 0 0
    actsFreely s r (argsCtl s r s.firing) ∧ s.slotGranted 1 (argsCtl s r s.firing).a.word = true :=
  ⟨acts rfl rfl rfl rfl rfl, rfl⟩

theorem witness_ReleasesAndPoolQueries_pools :
    let s := stB (lat 7 9 4)
    (s.pool? 0 s.firing.bay 7 = none) ∧ s.pool? 0 s.firing.bay 0 = some { pl1 1 with pmap := [(0, buf)] } ∧
      ((rq 0 7 0 0x70).lit.extractLsb' 4 4).toNat = 7 ∧ ((rq 0 7 0 0xA0).lit.extractLsb' 4 4).toNat = 10 := by
  decide

theorem witness_ReleasesAndPoolQueries_foreign :
    let s := (stB (lat 7 9 4)).modBay 0 0 fun y => { y with pools := [(0, { pl1 1 with cx := 2 })] }
    s.pool? 0 s.firing.bay 0 = some { pl1 1 with cx := 2 } ∧ (2 : BitVec 12) ≠ s.firing.cx := by
  decide

/-- A translation of 64 KiB at 0x10000 to near memory of bay 0 at 0x80000, of class `cls`. -/
def tl (cls : Nat) : TlbEntry :=
  { cx := 1, va := 0x10000, size := 0x10000, base := 0x80000, bsize := 0x10000, boff := 0, cls := cls, w := true, dirty := true, gen := 0 }

/-- The state with it in the cache of bay 0. -/
def stM (cls : Nat) (g : Firing) : State := { ((st g).modBay 0 0 fun y => { y with tlb := [tl cls] }) with firing := g }

/-- Bytes 0x80000 + lo to 0x80000 + lo + n − 1. -/
def at8 (lo n : Nat) : List Nat := (List.range n).map fun i => 0x80000 + lo + i

theorem witness_LoadsReadMemory :
    let g := lat 0x1FFF8 9 4
    let s := stM 0 g
    let r := rq 0 7 0 0
    (0x90, Instr.ld r) ∈ [(0x90, Instr.ld r), (0x92, .vld r), (0x94, .ldx r), (0x96, .ldl r), (0x97, .vldx r)] ∧
      actsFreely s r (argsOf r.ar.toNat g 0) ∧ firingP g = false ∧ memAddr 0x90 r g 8 = .addr 0x1FFF8 ∧ waveCount s 0 0 < 1024 ∧
      s.access 0 g.bay 1 0x1FFF8 (memWidth 0x90 r) (memAlign 0x90 r) clsLoad false = .ok (at8 0xFFF8 8) false 0 ∧
      (∀ y ∈ at8 0xFFF8 8, s.unreachable y = false) ∧ s.cast? 0 g.bay 5 = some (Cast.start 0 0) ∧ (Cast.start 0 0).held = [] ∧
      loadReady (waveIn (s.usePages g 0x1FFF8 8) 0x90 r true false) g (litOwn r) = true :=
  ⟨by simp, acts rfl rfl rfl rfl rfl, rfl, rfl, by decide, rfl, by decide, rfl, rfl, rfl⟩

/-- R319 at the corners of its ranges: the own bay, the farthest bay of the farthest course, and the last far byte. -/
theorem witness_LoadsReadMemory_latency :
    let s := st (lat 0 0 0)
    s.accessDelay 0 0 (nearPA 0 0 (2 ^ 20 - 1)) 0 = 6 ∧ s.accessDelay 0 0 (nearPA 15 255 0) 0 = 20 + 32 + 24 ∧
      s.accessDelay 0 15 (128 * (2 ^ 13 - 16)) 4 = 20 + 17 ∧ s.accessDelay 0 0 (farBase + (farSize - 1)) 0 = 532 ∧
      s.atomDelay 0 0 (nearPA 0 0 0) = 8 := by
  decide

theorem witness_LoadsReadMemory_handle :
    let g := lat (hnd 56) 9 4
    let s := stB g
    let r := rq 0 7 0 0
    actsFreely s r (argsOf r.ar.toNat g 0) ∧ memAddr 0x96 r g 8 = .addr (hnd 56) ∧ (g.a.getD (plain 0)).word / 2 ^ 60 = 0xF ∧
      s.access 0 g.bay 1 (hnd 56) (memWidth 0x96 r) (memAlign 0x96 r) clsLoad false = .ok ((List.range 8).map fun i => 88 + i) false 0 ∧
      s.cast? 0 g.bay 5 = some (Cast.start 0 0) ∧ loadReady (waveIn (s.usePages g (hnd 56) 8) 0x96 r true false) g (litOwn r) = true :=
  ⟨acts rfl rfl rfl rfl rfl, rfl, rfl, rfl, rfl, rfl⟩

/-- A held store of OWN 1 to 0x10000, and a load of OWN 2 of the same bytes. -/
def hst : Pend := pendOf 0x91 (rq 0 4 1 0x02000000) (lat 0x10000 0xAB 4)
def fwd : State := (stM 0 (lat 0x10000 9 4)).modOwn (lat 0x10000 9 4) fun k => { k with held := [hst] }

theorem witness_LoadsForwardHeldWrites :
    let r := rq 0 4 0 0x04000000
    let g := lat 0x10000 9 4
    ∃ k, fwd.cast? 0 g.bay 5 = some k ∧ k.held = [hst] ∧ litOwn hst.r < litOwn r ∧ lkp (heldBytes fwd hst) 0x80000 = some 0xAB#8 ∧
      (at8 0 1)[0]? = some 0x80000 ∧ (loadBytes fwd r g (at8 0 1) 0)[0]? = some 0xAB#8 ∧ lkp (heldBytes fwd hst) 0x80001 = none :=
  ⟨_, rfl, rfl, by decide, rfl, rfl, rfl, rfl⟩

theorem witness_StoresAreHeld :
    let g := lat 0x1FFF8 9 4
    let s := stM 0 g
    let r := rq 0 7 1 0
    (0x91, Instr.st r) ∈ [(0x91, Instr.st r), (0x93, .vst r), (0x95, .stx r), (0x98, .vstx r)] ∧
      actsFreely s r (argsOf r.ar.toNat g 0) ∧ firingP g = false ∧ memAddr 0x91 r g (memWidth 0x91 r) = .addr 0x1FFF8 ∧ waveCount s 0 0 < 1024 ∧
      s.access 0 g.bay 1 0x1FFF8 (memWidth 0x91 r) (memAlign 0x91 r) clsStore true = .ok (at8 0xFFF8 8) false 0 ∧ (rq 0 7 0 0).ar.toNat = 0 :=
  ⟨by simp, acts rfl rfl rfl rfl rfl, rfl, rfl, by decide, rfl, rfl⟩

theorem witness_StoresAreHeld_indexed :
    let g := lat 0x10000 (7 + 8 * 2 ^ 32) 4
    let s := stM 0 g
    let r := rq 0 7 3 0
    memAddr 0x95 r g (memWidth 0x95 r) = .addr 0x10038 ∧
      s.access 0 g.bay 1 0x10038 (memWidth 0x95 r) (memAlign 0x95 r) clsStore true = .ok (at8 0x38 8) false 0 :=
  ⟨rfl, rfl⟩

/-- The buffer of the handle moves: the store is taken, and its write waits for the copy. -/
theorem witness_StoresAreHeld_moving :
    let g := lat (hnd 56) 9 4
    let s := (stB g).modBay 0 0 fun y => { y with pools := [(0, { pl1 1 with pmap := [(0, { buf with mv := true })] })] }
    let r := rq 0 7 1 0
    memAddr 0x91 r g (memWidth 0x91 r) = .addr (hnd 56) ∧
      s.access 0 g.bay 1 (hnd 56) (memWidth 0x91 r) (memAlign 0x91 r) clsStore true = .held :=
  ⟨rfl, rfl⟩

/-- The operand A is poisoned. -/
def poisoned (g : Firing) : Firing := { g with a := g.a.map fun o => { o with p := true } }

theorem witness_PerformedStoreFrame :
    let g := lat 0x1FFF8 9 4
    let s := stM 0 g
    let p := pendOf 0x91 (rq 0 7 1 0) g
    Memory.wf s.mem = true ∧ p.op = 0x91 ∧ memAddr p.op p.r p.fir (memWidth p.op p.r) = .addr 0x1FFF8 ∧ firingP p.fir = false ∧
      (∃ s', land s p.fir 0x1FFF8 (memWidth p.op p.r) (memAlign p.op p.r) clsStore = .at_ s' (at8 0xFFF8 8) ∧ s'.mem = s.mem) ∧
      (at8 0xFFF8 8).length = memWidth p.op p.r ∧ (at8 0xFFF8 8).Nodup ∧ firingP (poisoned g) = true :=
  ⟨rfl, rfl, rfl, rfl, ⟨_, rfl, rfl⟩, rfl, by decide, rfl⟩

theorem witness_AtomicsUpdateAtCommit :
    let g := lat 0x1FFF8 9 4
    let s := stM 0 g
    let r := rq 0 7 3 0
    actsFreely s r (argsOf r.ar.toNat g 0) ∧ firingP g = false ∧ waveCount s 0 g.bay < 1024 ∧ memAddr 0xA0 r g (ctlBytes r) = .addr 0x1FFF8 ∧
      memAddr 0xA1 r g (ctlBytes r) = .addr 0x1FFF8 ∧ s.access 0 g.bay 1 0x1FFF8 8 8 clsStore true = .ok (at8 0xFFF8 8) false 0 ∧
      ∃ s', land s g 0x1FFF8 (ctlBytes r) (ctlBytes r) clsStore = .at_ s' (at8 0xFFF8 8) :=
  ⟨acts rfl rfl rfl rfl rfl, rfl, by decide, rfl, rfl, rfl, ⟨_, rfl⟩⟩

/-- A structure word at 0x8FFF8, full. -/
def stS : State :=
  { stM 3 (lat 0x1FFF8 9 4) with
    stags := [(0x8FFF8, { full := true, res := false, wait := false, pool := 0, head := none, tail := none })] }

theorem witness_StructureWordsReadFillAndClear :
    let g := lat 0x1FFF8 9 4
    let r := rq 0 7 0 0
    actsFreely stS r (argsOf r.ar.toNat g 0) ∧ actsFreely stS r (argsOf 0 g 0) ∧ firingP g = false ∧ waveCount stS 0 g.bay < 1024 ∧
      stS.access 0 g.bay 1 (structAddr r g) 8 8 clsStruct false = .ok (at8 0xFFF8 8) false 3 ∧ homeOf 0x8FFF8 = (0, g.bay) ∧
      loadReady (waveMark (stS.usePages g (structAddr r g) 8) 0xA2 r true false) g (litOwn r) = true ∧
      ((waveMark (stS.usePages g (structAddr r g) 8) 0xA2 r true false).stag 0x8FFF8).full = true ∧
      stS.access 0 g.bay 1 (structAddr r g) 8 8 clsStruct true = .ok (at8 0xFFF8 8) false 3 ∧
      (∃ s', land stS g (structAddr r g) 8 8 clsStruct = .at_ s' (at8 0xFFF8 8) ∧ (s'.stag 0x8FFF8).full = true ∧ (s'.stag 0x8FFF8).res = false) ∧
      Memory.wf stS.mem = true ∧ (stS.stag 0).wait = false :=
  ⟨acts rfl rfl rfl rfl rfl, acts rfl rfl rfl rfl rfl, rfl, by decide, rfl, rfl, rfl, rfl, rfl, ⟨_, rfl, rfl, rfl⟩, rfl, rfl⟩

theorem witness_CombineFenceBarrierShadowAct_cmb :
    let g := lat 0x1FFFC 9 16
    let r := rq 6 8 3 0
    let s := stM 0 g
    actsFreely s r (argsOf 3 g 0) ∧ waveCount s 0 g.bay < 1024 ∧ 1 ≤ (g.c.getD (plain 0)).word ∧ (g.c.getD (plain 0)).word ≤ 16 ∧
      s.access 0 g.bay 1 (addrPlus (g.a.getD (plain 0)).word (litOff r * cmbBytes r)) (cmbBytes r) (cmbBytes r) clsStore true =
        .ok (at8 0xFFFC 4) false 0 :=
  ⟨acts rfl rfl rfl rfl rfl, by decide, by decide, by decide, rfl⟩

theorem witness_CombineFenceBarrierShadowAct_orders :
    litOrd (rq 0 15 0 0x40) = 1 ∧ litOrd (rq 0 15 0 0x80) = 2 ∧ litOrd (rq 0 15 0 0xC0) = 3 ∧ firingP (lat 0 65535 0) = false ∧
      ((lat 0 65535 0).b.getD (plain 0)).word % 2 ^ 16 ≠ 0 := by
  decide

theorem witness_CombineFenceBarrierShadowAct_phase :
    let g := lat 0 0 0
    let r := rq 1 15 0 0x140
    let s := (st g).setBarrier { cx := 1, scope := 1, num := 0, unit := 0, phase := 1, count := 0, arrivals := 0, due := [] }
    (s.barrier 1 (litScope r) (barNum r) (barUnit g (litScope r))).completed ((g.a.getD (plain 0)).low 16) = true := by
  decide

theorem witness_CombineFenceBarrierShadowAct_shadow :
    let g := lat 0x1FFFF 9 4
    let r := rq 0 15 0 0
    let s := stM 5 g
    addrKind (g.a.getD (plain 0)).word = .virt ∧ bitAt r.lit 0 = false ∧ s.access 0 g.bay 1 0x1FFFF 1 1 clsShadow false = .ok (at8 0xFFFF 1) false 5 ∧
      addrKind (addrPlus (g.a.getD (plain 0)).word (litOff r)) = .virt ∧
      s.access 0 g.bay 1 (addrPlus (g.a.getD (plain 0)).word (litOff r)) 1 1 clsShadow true = .ok (at8 0xFFFF 1) false 5 :=
  ⟨by decide, by decide, rfl, by decide, rfl⟩

theorem witness_BarrierArrivalsCount :
    let r := rq 0 15 1 0x300
    let g := lat 0 2 0
    let open1 := (st g).setBarrier { cx := 1, scope := 3, num := 0, unit := 0, phase := 7, count := 3, arrivals := 1, due := [] }
    firingP g = false ∧ litScope r < 4 ∧ ((st g).barrier 1 (litScope r) (barNum r) (barUnit g 3)).arrivals = 0 ∧
      (open1.barrier 1 (litScope r) (barNum r) (barUnit g 3)).arrivals ≠ 0 ∧ (open1.barrier 1 (litScope r) (barNum r) (barUnit g 3)).count ≠ 2 := by
  decide

/-- A granted Ridge slot 8191 of context 1. -/
def stR (g : Firing) : State := { st g with slots := [(8191, { cx := 1, state := .granted, users := 0, leaving := false })] }

theorem witness_RidgeAndTimeInstructionsAct_store :
    let g := lat 8191 9 4
    let r := rq 0 7 1 0x40F
    let s := stR g
    actsFreely s r (argsOf 1 g 0) ∧ actsFreely s r (argsOf 0 g 0) ∧ firingP g = false ∧ rdgOffOk r = true ∧ s.slotUsable 1 8191 = true ∧
      waveCount s 0 g.bay < 1024 ∧ loadReady (waveIn s 0xAB r true false) g (litOwn r) = true ∧ rdgOffOk (rq 0 7 1 0x410) = false ∧
      s.slotUsable 1 8190 = false :=
  ⟨acts rfl rfl rfl rfl rfl, acts rfl rfl rfl rfl rfl, rfl, rfl, rfl, by decide, rfl, rfl, rfl⟩

theorem witness_RidgeAndTimeInstructionsAct_wait :
    let s := { stR (lat (8 * 96) 0 0) with beat := 100, tick := 5 }
    8 * 96 / 8 ≤ s.beat + 1024 ∧ 8 * 96 / 8 + 4 ≤ s.beat ∧ (∀ y ∈ s.changes, 96 < y.beat) ∧ s.beat + 1024 < 8 * 1125 / 8 ∧
      (s.tick - 5#64).msb = false := by
  decide

theorem witness_RidgeAndTimeInstructionsAct_port :
    let s := stR (lat 8191 9 4)
    let w : RidgeWrite := { slot := 0, mask := 0, data := 0, cx := 1, str := 0, toks := [], beat := 0 }
    (s.crs 0).port.length < 256 ∧ ridgeHeld s 0 1 (s.strandOf (lat 8191 9 4)) = false ∧
      256 ≤ ((s.modCrs 0 fun y => { y with port := List.replicate 256 w }).crs 0).port.length := by
  decide


theorem witness_VectorIntegersWrapOrSaturate :
    (rq 1 7 1 0).ty.toNat < 8 ∧ (rq 1 7 1 0).var = 1#4 ∧ (rq 0 7 1 0).var ≠ 1#4 ∧
      (Instr.vmul (rq 1 7 1 0), fun p q : Int => p * q) ∈ [(Instr.vadd (rq 1 7 1 0), fun p q : Int => p + q),
        (.vsub (rq 1 7 1 0), fun p q => p - q), (.vmul (rq 1 7 1 0), fun p q => p * q)] :=
  ⟨by decide, by decide, by decide, by simp⟩

theorem witness_VectorBitsMasksAndShifts : (rq 5 7 1 0).ty.toNat < 8 ∧ (rq 5 7 1 0).var.toNat < 6 ∧ (rq 0 12 2 0).ty.toNat < 13 := by
  decide

theorem witness_VectorLanesMove :
    let g := lat 1 2 64
    let r := rq 1 4 3 0
    let b := argsCtl (st g) r g
    r.ty.toNat < 14 ∧ (rq 0 13 1 0).ty.toNat < 14 ∧ ((rq 0 2 3 0).ty = 2#4 ∨ (rq 0 2 3 0).ty = 6#4) ∧ tyWidth (rq 0 13 1 0).ty.toNat = 4 ∧
      tyWidth r.ty.toNat ≠ 4 ∧ (rq 0 4 1 0).var = 0#4 ∧ r.var ≠ 0#4 ∧ 512 / tyWidth r.ty.toNat ≤ b.c.word ∧
      (argsCtl (st (lat 1 2 63)) r (lat 1 2 63)).c.word < 512 / tyWidth r.ty.toNat ∧ 16 ≤ tyWidth (rq 1 5 1 0).ty.toNat ∧
      (rq 1 5 1 0).var = 1#4 ∧ tyWidth (rq 0 6 0 0).ty.toNat ≤ 32 := by
  decide

theorem witness_ReductionsAndScans :
    (rq 5 7 0 0).ty.toNat < 8 ∧ (rq 5 7 0 0).var.toNat < 6 ∧ 8 ≤ (rq 6 8 0 0).ty.toNat ∧ (rq 6 10 0 0).ty.toNat < 11 ∧
      (rq 6 10 0 0).var.toNat = 6 := by
  decide

theorem witness_VectorFloatsRoundOnce : 8 ≤ (rq 0 8 1 0).ty.toNat ∧ (rq 0 10 1 0).ty.toNat < 11 := by decide

theorem witness_VectorFloatsOrderAndClassify :
    8 ≤ (rq 7 8 1 0).ty.toNat ∧ (rq 7 8 1 0).ty.toNat < 11 ∧ (rq 7 8 1 0).var.toNat < 8 ∧ f32.decode 0x7FC00000 = FV.nan ∧
      FV.cmp (f32.decode 0x80000000) (f32.decode 0) = some .eq ∧ (f32.decode 0x80000000).isNeg = true ∧ (f32.decode 0).isNeg = false ∧
      FV.cmp (f32.decode 0x3F800000) (f32.decode 0x40000000) = some .lt := by
  decide

theorem witness_FloatSpecialResults :
    f32 ∈ [f32, f16, bf16] ∧ bf16 ∈ [f32, f16, bf16] ∧ f32.decode 0x7FC00000 = FV.nan ∧ (f32.decode 0x3F800000).finite = true ∧
      ¬ (f32.decode 0x3F800000).isZero = true ∧ (f32.decode 0x80000000).isZero = true ∧ f32.decode 0x7F800000 = FV.inf false ∧
      f32.decode 0xFF800000 = FV.inf true ∧ (f32.decode 0xBF800000).isNeg = true ∧ ¬ (f32.decode 0xBF800000).isZero = true := by
  decide

/-- m = 6, d = 1: between 1 × 4 and 2 × 4, half way. -/
theorem witness_RoundingChoosesByMode :
    6 % 2 ^ (1 + 1) ≠ 0 ∧ 2 * (6 % 2 ^ (1 + 1)) = 2 ^ (1 + 1) ∧ 2 * (5 % 2 ^ (1 + 1)) < 2 ^ (1 + 1) ∧ 2 ^ (1 + 1) < 2 * (7 % 2 ^ (1 + 1)) ∧
      8 % 2 ^ (1 + 1) = 0 ∧ 2 ^ 32 ≤ 6 % 4 * 2 ^ 32 / 4 + 2 ^ 31 ∧ ¬ 2 ^ 32 ≤ 6 % 4 * 2 ^ 32 / 4 + (2 ^ 31 - 1) ∧
      (lat 0 0 0).unit.toNat < 0x1000 := by
  decide

theorem witness_ConversionsConvertLanes :
    (rq 0 13 0 0xD00).ty.toNat < 14 ∧ ((rq 0 13 0 0xD00).lit.extractLsb' 8 4).toNat < 14 ∧ 11 ≤ (rq 0 13 3 0).ty.toNat ∧
      8 ≤ (rq 0 10 1 0xD00).ty.toNat ∧ (rq 0 10 1 0xD00).ty.toNat < 11 ∧ 11 ≤ ((rq 0 10 1 0xD00).lit.extractLsb' 8 4).toNat := by
  decide

/-- f32 to i8: a NaN, both infinities and, from i32, values at and beyond both bounds. -/
theorem witness_ConversionCorners :
    tyInt 8 = false ∧ tyInt 0 = true ∧ srcVal 8 0x7FC00000 = .nan ∧ srcVal 8 0xFF800000 = .inf true ∧ srcVal 8 0x7F800000 = .inf false ∧
      tyInt 2 = true ∧ tyMin 0 ≤ intVal 2 127 ∧ intVal 2 127 ≤ tyMax 0 ∧ tyMax 0 < intVal 2 128 ∧ intVal 2 0xFFFFFF7F < tyMin 0 ∧
      tyMin 0 ≤ intVal 2 0xFFFFFF80 ∧ ({ mode := 0, sat := true : Rounder }).sat = true := by
  decide

/-- f32 to e4m3 by mode 0: 448 is its largest value, 480 is beyond it, 2 to the power -10 is half of its least. -/
theorem witness_ConversionCorners_finite :
    let tooBig := fun (m : Nat) (e : Int) =>
      let f := tyFmt 11
      let q : Int := e + (bitLen m : Int) - (f.p : Int)
      let free := roundAt 0 0 false m e false q
      decide (f.maxM * 2 ^ (f.maxQ - q).toNat < free.1 * 2 ^ (q - f.maxQ).toNat)
    let ends := fun (c : Nat) => match srcVal 8 c with | .fin false m e => m != 0 && tooBig m e | _ => false
    let within := fun (c : Nat) => match srcVal 8 c with | .fin false m e => m != 0 && !(tooBig m e) | _ => false
    ends 0x43F00000 = true ∧ within 0x43E00000 = true ∧ within 0x3A800000 = true ∧ srcVal 8 0x80000000 = .fin true 0 (-149) ∧
      intFV (intVal 2 3) = .fin false 3 0 ∧ srcVal 13 8 = .nan ∧ srcVal 8 0x7FC00000 = .nan ∧ srcVal 8 0x3F800000 ≠ .nan := by
  decide +kernel

theorem witness_ScalarFloatComputes :
    8 ≤ (rq 7 8 1 0).ty.toNat ∧ (rq 7 10 1 0).ty.toNat < 11 ∧ (rq 7 8 1 0).var = 7#4 ∧ (rq 3 8 3 0).var = 3#4 ∧
      (rq 0 8 1 0x80000000).lit.extractLsb' 7 25 = 0x1000000#25 := by
  decide

/-- Tables of context 1 in near memory, whose leaf for its first 64 KiB page is the entry with words `leaf` and `alt`. -/
def ptMem (leaf alt : Nat) : List Host.Cell :=
  let m := [(0x40000, 2 ^ 63 + 0x50000), (0x50000, 2 ^ 63 + 0x60000), (0x60000, 2 ^ 63 + 0x70000), (0x70000, 2 ^ 63 + 0x80000), (0x80000, leaf), (0x80008, alt)]
  m.foldl (fun m e => Memory.set m e.1 8 e.2) []

/-- A far leaf, writable, its D set, at 2^40 + `a`. -/
def leafAt (a : Nat) : Nat := 2 ^ 63 + 2 ^ 62 + 1 * 2 ^ 59 + 2 ^ 58 + 2 ^ 57 + farBase + a

/-- The state with these tables, and a window over the first MiB of far memory. -/
def stV (leaf alt : Nat) (s : State) : State :=
  { (s.modCtx 1 fun x => { x with troot := 0x40000, holds := [{ kind := 2, course := 0, p0 := BitVec.ofNat 56 farBase, p1 := 16 + 2 ^ 32 }] }) with
    mem := ptMem leaf alt }

/-! Crucibles: crucible 3 of course 0. -/

/-- The latch of record 1 of crucible 3. -/
def latC (a b c : Nat) : Firing := { lat a b c with unit := 0x1003 }

/-- A buffer of 8 KiB, and the state whose crucible 3 is `x`. -/
def bufL : PEntry := { buf with size := 512 }
def stC (x : Crucible) (g : Firing) : State :=
  { ((st g).modBay 0 0 fun y => { y with pools := [(0, { pl1 1 with pmap := [(0, bufL)] })] }).setCru 0 3 x with firing := g }

/-- A crucible that holds one row of bf16 and a bank of bf16. -/
def cruX : Crucible :=
  { (default : Crucible) with ra := 1, aFmt := 10, aRows := [(0, 0x3F80)], b0 := { loaded := true, fmt := 10, cols := [(0, 0x3F80)] } }

theorem witness_CrucibleLoadsFillTheirLatches_bank :
    let r := rq 1 13 0 0x80000000
    let g := latC (hnd 0) 0 0
    let s := stC default g
    firingP g = false ∧ noMeta r = true ∧
      ∃ as lost cls, s.region g.cx.toNat g.aw (16 * elemBits 13 * 128) 64 clsLoad false false = .ok as lost cls :=
  ⟨rfl, by decide, ⟨_, _, _, rfl⟩⟩

theorem witness_CrucibleLoadsFillTheirLatches_metadata :
    let r := rq 0 13 0 0
    let g := latC (hnd 0) 0 0
    let s := stC default g
    noMeta r = false ∧ tyNarrow 13 = true ∧ ∃ as lost cls ms, readMeta s g 13 (addrPlus g.aw (metaOff r)) 512 = (.ok as lost cls, ms) :=
  ⟨by decide, by decide, ⟨_, _, _, _, rfl⟩⟩

theorem readRow_witness : let r := rq 0 13 1 0x80000000
    let g := latC (hnd 0) 1 1
    ∃ codes mask md lost, readRow (stC default g) g r 0 (hnd 0) (hnd 0) = .ok codes mask md lost :=
  ⟨_, _, _, _, rfl⟩

theorem witness_CrucibleLoadsFillTheirLatches_rows :
    let r := rq 0 13 1 0x80000000
    let g := latC (hnd 0) 1 1
    g.bw = 1 + 256 * 0 ∧ g.aw % 16 = 0 ∧ (∃ (codes : Nat → BitVec 2048) (mask : Nat → BitVec 128) (md : Nat → List Nat) (lost : Nat → Bool),
      ∀ i : Nat, i < 1 → readRow (stC default g) g r 0 (addrPlus g.aw (i * rowBytes 13 0)) (addrPlus g.aw (metaOff r + i * 4 * metaBytes 13)) =
        .ok (codes i) (mask i) (md i) (lost i)) ∧
      ∃ as lost cls, (stC default g).region g.cx.toNat (hnd 0) (rowBytes 13 2) 16 clsLoad false false = .ok as lost cls := by
  obtain ⟨c, m, d, l, h⟩ := readRow_witness
  exact ⟨rfl, rfl, ⟨fun _ => c, fun _ => m, fun _ => d, fun _ => l, fun i hi => by obtain rfl : i = 0 := (by omega); exact h⟩, ⟨_, _, _, rfl⟩⟩

theorem witness_CrucibleLoadsFillTheirLatches_gather :
    let r := rq 0 13 3 0x80000000
    let g := latC (hnd 0) 1 (0 + 2 ^ 32 * 112 + 2 ^ 40 * 2)
    let x := (stC default g).cruOf g
    let v := fun i => (laneV 32 (g.b.getD (plain 0)).val i).toNat
    g.cw = 0 + 2 ^ 32 * 112 + 2 ^ 40 * 2 ∧ g.aw % 16 = 0 ∧ (x.ra = 0 ∨ x.aFmt = r.ty ∧ x.aSparse.toNat = 2) ∧ (∀ i, i < 16 → ¬ v i < 0) ∧
      v 0 = 1 ∧ v 1 = 0 :=
  ⟨rfl, rfl, .inl rfl, fun _ _ => by omega, by decide, by decide⟩

theorem witness_CrucibleWordsScaleZeroAndQuery :
    let w := 127 * 2 ^ 23 + 2 * 2 ^ 30 + 3 * 2 ^ 16 + 0xFFFF
    let g := latC w 0 0
    let h := latC (hnd 0) 0 0
    let s := stC cruX h
    firingP g = false ∧ firingP (poisoned g) = true ∧ g.aw < 2 ^ 32 ∧ g.aw / 2 ^ 30 % 4 < 3 ∧ g.aw / 2 ^ 18 % 32 = 0 ∧
      (latC (2 ^ 32) 0 0).aw = 2 ^ 32 ∧ (latC 0xC0000000 0 0).aw / 2 ^ 30 % 4 = 3 ∧ (lkp (s.cruOf h).rows 0).getD 0 ≤ 128 ∧
      ((rq 0 7 5 3).lit.extractLsb' 0 4).toNat = 3 ∧ ((rq 0 7 5 4).lit.extractLsb' 0 4).toNat ≠ 3 ∧
      ∃ as lost cls, s.region h.cx.toNat h.aw (128 * (tyWidth 10 / 8)) 64 clsLoad false false = .ok as lost cls :=
  ⟨by decide, by decide, by decide, by decide, by decide, by decide, by decide, by decide, by decide, by decide, ⟨_, _, _, rfl⟩⟩

theorem witness_MmaChecksThenAsksForItsPermit_ready :
    let r := rq 0 10 5 0
    let g := latC 0 0 0
    let s := stC cruX g
    let x := s.cruOf g
    firingP g = false ∧ r.ar ≠ 6#3 ∧ x.ra ≠ 0 ∧ x.b0.loaded = true ∧ r.ty = x.aFmt ∧ (r.lit.extractLsb' 0 2).toNat = x.aSparse.toNat ∧
      tyNarrow x.aFmt.toNat = false ∧ tyNarrow x.b0.fmt.toNat = false := by
  decide

theorem witness_MmaChecksThenAsksForItsPermit_checks :
    let g : Firing := { latC 0 0 0 with s := some (plain (2 ^ 32)) }
    let h : Firing := { latC 0 0 0 with s := some (plain (2 ^ 32 - 1 - 2 ^ 30 - 31 * 2 ^ 18)) }
    firingP g = false ∧ (rq 0 10 6 0).ar = 6#3 ∧ 2 ^ 32 ≤ g.sw ∧ h.sw < 2 ^ 32 ∧ h.sw / 2 ^ 30 % 4 < 3 ∧ h.sw / 2 ^ 18 % 32 = 0 ∧
      ((stC default g).cruOf g).ra = 0 ∧ (rq 4 10 5 0).var.getLsbD 2 = true ∧ ((stC { cruX with b0 := default } g).cruOf g).b0.loaded = false ∧
      (rq 0 10 5 1).lit.extractLsb' 0 2 ≠ cruX.aSparse ∧ popByte (maskByte { cruX with aMasks := [(0, BitVec.ofNat 128 0x0F)] } 0 0) = 4 := by
  decide

theorem witness_BurstUpdatesItsAccumulator :
    cruX.ra ≤ 128 ∧ (rq 7 10 5 0).var.getLsbD 2 = true ∧ (rq 8 10 5 0).var.getLsbD 2 = false ∧ 1 + (rq 8 10 5 0).var.toNat / 8 = 2 := by
  decide

/-- A crucible whose accumulator 0 has one live row. -/
def cruD : Crucible := { cruX with rows := [(0, 1)] }

theorem drained {g : Firing} {x : Crucible} {n t p i : Nat} {l : List Region} {s : State}
    (h : (drainRows g x n t p l i (s, 0)).2.2 = none) : ∃ u f, drainRows g x n t p l i (s, 0) = (u, f, none) := by
  rw [← h]; exact ⟨_, _, rfl⟩

theorem drainRows_witness :
    (let s := stC cruD (latC 0 (hnd 0) 0)
     (drainRows (latC 0 (hnd 0) 0) cruD 0 8 0 (drainPlan s (latC 0 (hnd 0) 0) 8 0 1 0) 0 (s, 0)).2.2).isNone = true := by
  decide +kernel

theorem witness_DrainWritesItsRows :
    let r := rq 0 8 1 0
    let g := latC 0 (hnd 0) 0
    let s := stC cruD g
    firingP g = false ∧ firingP (poisoned g) = true ∧ (lkp (s.cruOf g).rows 0).getD 0 = 1 ∧ (lkp cruX.rows 0).getD 0 = 0 ∧ g.bw % 64 = 0 ∧
      (latC 0 63 0).bw % 64 ≠ 0 ∧ isHandle g.bw = true ∧ 8 ≤ r.ty.toNat ∧ r.ty.toNat < 13 ∧ addrKind (latC 0 (2 ^ 56) 0).bw = .bad ∧
      addrKind g.bw ≠ .bad ∧ addrKind (latC 0 63 0).bw ≠ .bad ∧ drainPull s g 512 = none ∧
      ∃ u f, drainRows g (s.cruOf g) 0 8 0 (drainPlan s g 8 0 1 0) 0 (s, 0) = (u, f, none) :=
  ⟨by decide, by decide, by decide, by decide, by decide, by decide, by decide, by decide, by decide, by decide, by decide, by decide, rfl,
    drained (Option.isNone_iff_eq_none.mp drainRows_witness)⟩

/-- One row of 512 bytes through a handle. -/
theorem witness_DrainWritesItsRows_handle :
    let g := latC 0 (hnd 0) 0
    let s := stC cruD g
    let at_ : Nat → List Nat := fun _ => bufBytes (addrPlus g.bw 0) bufL 512
    Memory.wf s.mem = true ∧ isHandle g.bw = true ∧
      (∀ row : Nat, row < 1 → isHandle (addrPlus g.bw (row * 0)) = true ∧ (∀ a ∈ at_ row, s.unreachable a = false) ∧
        s.region g.cx.toNat (addrPlus g.bw (row * 0)) (128 * (tyWidth 8 / 8)) 64 clsStore true true = .ok (at_ row) false 0) ∧
      (∀ i j : Nat, i < 1 → j < 1 → i ≠ j → ∀ a ∈ at_ i, a ∉ at_ j) :=
  ⟨rfl, rfl, fun row h => by obtain rfl : row = 0 := (by omega); exact ⟨by decide, by decide +kernel, rfl⟩, fun i j hi hj h => absurd (by omega) h⟩

/-- The same row in a far page. -/
theorem witness_DrainWritesItsRows_page :
    let g := latC 0 0 0
    let s := stV (leafAt 0) 0 (stC cruD g)
    isHandle g.bw = false ∧ drainPull s g 512 = none ∧ regionSplit s 1 (g.bw % 2 ^ 56) 512 = none ∧
      (drainRows g (s.cruOf g) 0 8 0 (drainPlan s g 8 0 1 0) 0 (s, 0)).2.2.isNone = true := by
  decide +kernel

/-- A row over two pages of two classes. -/
theorem witness_DrainWritesItsRows_split :
    let g := latC 0 0xFF00 0
    let s := stV (leafAt 0) 0 (stC cruD g)
    let s := { s with mem := Memory.set s.mem 0x80010 8 (leafAt 0x10000 + 2 * 2 ^ 59) }
    isHandle g.bw = false ∧ addrKind g.bw ≠ .bad ∧ g.bw % 64 = 0 ∧ drainPull s g 512 = none ∧
      regionSplit s 1 (g.bw % 2 ^ 56) 512 = some 0x10000 := by
  decide +kernel

/-! Gates: stream context 0 of bay 0. -/

theorem witness_GateRequestsWaitWithTheCast :
    let r := rq 0 15 1 0x00400001
    let g := lat (hnd 0) (hnd 0) 0
    let s := stB g
    actsFreely s r (argsOf r.ar.toNat g 0) ∧ actsFreely s r (argsOf 0 g 0) ∧ lkp (s.bay g.course.toNat g.bay).streams 1 = none ∧
      (0xB6, Instr.gateCancel r) ∈ [(0xB0, Instr.gateLoad r), (0xB1, .gateStore r), (0xB2, .gateFeed r), (0xB3, .gateDrain r),
        (0xB4, .gateFence r), (0xB6, .gateCancel r)] :=
  ⟨acts rfl rfl rfl rfl rfl, acts rfl rfl rfl rfl rfl, rfl, by simp⟩

/-- The request of a gate record, from the issue latch. -/
def gp (op : Nat) (g : Firing) : Pend := pendOf op (rec 0 15 1 0 false 0x4000 0x1FFFFF 1) g

/-- A pattern of `n` bytes in a row. -/
def bytesPat (n : Nat) : Pattern := { es := 1, dims := [(1, n)] }

/-- A stream of a gate record: `n` elements of one byte, `pos` of them moved. -/
def strm (op n pos : Nat) (g : Firing) : Stream :=
  { (default : Stream) with state := 2, pend := gp op g, pos := pos, count := n, pat := bytesPat n, order := 1 }

/-- The state with a buffer, a frame pool, a plane with two patterns, and `x` in stream context 0. -/
def stG (x : Option Stream) (g : Firing) : State :=
  let p := { pln with
    units := [{ (default : Machine.PUnit) with course := 0, x := 0, y := 0 }], pats := [bytesPat 64, bytesPat 128],
    blocks := [{ (default : PBlock) with maps := [0], nodes := [(0, 1)] }] }
  { ((st g).modBay 0 0 fun y => { y with
      pools := [(0, { pl1 1 with pmap := [(0, buf)] }), (1, pl1 0)], streams := (x.map fun z => (0, z)).toList, taken := 2 }).modCrs 0
      fun y => { y with holder := some 1, loaded := [{ cx := 1, plane := 1, serial := 0, info := p }] } with firing := g }

theorem witness_GateRequestsWaitWithTheCast_query :
    let g := lat (hnd 0) (hnd 0) 0
    let x := { strm 0xB3 64 0 g with pend := gp 0xB3 { g with cx := 2 } }
    let s := stG (some x) g
    lkp (s.bay 0 g.bay).streams 0 = some x ∧ x.pend.fir.cx ≠ g.cx ∧ (strm 0xB3 64 0 g).pend.fir.cx = g.cx ∧ (strm 0xB3 64 0 g).state < 4 ∧
      0xB0 ≤ (strm 0xB0 64 0 g).pend.op ∧ (strm 0xB3 64 0 g).pend.op < 0xB4 := by
  decide

theorem witness_GatesTakeAndMoveStreams_requests :
    let g := lat (hnd 0) (hnd 0) 0
    let z := strm 0xB0 64 0 g
    firingP g = false ∧ firingP (poisoned g) = true ∧ lkp ((stG none g).bay 0 0).streams 0 = none ∧ (lkp ((stG (some z) g).bay 0 0).streams 0).isSome ∧
      ((stG none g).bay 0 0).streams = [] ∧ ((stG none g).bay 0 0).fences = [] ∧ (gp 0xB3 g).op < 0xB4 ∧ (gp 0xB4 g).op = 0xB4 ∧
      (gp 0xB6 g).op = 0xB6 ∧ lkp ((stG (some z) g).bay 0 0).streams 0 = some z ∧ z.pend.fir.cx = g.cx ∧ (2 : BitVec 12) ≠ g.cx := by
  decide

/-- An event at course 0, unit 0, in context 1. -/
def ev (k aux : Nat) : EvArgs := { course := 0, unit := 0, ft := 5, k := BitVec.ofNat 16 k, cx := 1, aux := BitVec.ofNat 36 aux }

theorem witness_GatesTakeAndMoveStreams_bind :
    let g := lat (hnd 0) (hnd 0) 0
    let x := { strm 0xB0 0 0 g with state := 1 }
    let s := stG (some x) g
    lkp (s.bay 0 0).streams ((ev 0 0).k.toNat % 4) = some x ∧ x.state = 1 ∧ x.count = 0 ∧ (s.planeOf 1 0 0).isSome = true ∧
      (∃ pl, s.planeOf x.pend.fir.cx.toNat 0 x.pend.fir.unit.toNat = some pl ∧ pl.pats[gatePat x.pend.r]? = some (bytesPat 64)) ∧
      bindRegion s x = .ok ∧ bindRest s 0 0 x (bytesPat 64) = .ok ∧ bindRest s 0 0 x (bytesPat 65) = .bad kPROT 3 1 (hnd 0) ∧
      bindRegion s { x with pend := gp 0xB0 (lat (hnd 1) (hnd 0) 0) } = .bad kPROT 3 1 (hnd 1) :=
  ⟨rfl, rfl, rfl, rfl, ⟨_, rfl, rfl⟩, rfl, rfl, rfl, rfl⟩

theorem witness_GatesTakeAndMoveStreams_bind_feed :
    let g := lat (hnd 0) 1 0
    let x := { strm 0xB2 0 0 g with state := 1 }
    let s := stG (some x) g
    x.pend.op = 0xB2 ∧ bindRegion s x = .ok ∧ bindRest s 0 0 x (bytesPat 64) = .ok ∧ bindRest s 0 0 { x with pend := gp 0xB2 (lat (hnd 0) 0 0) } (bytesPat 64) = .bad kPROT 15 1 0 :=
  ⟨rfl, rfl, rfl, rfl⟩

theorem witness_GatesTakeAndMoveStreams_bind_empty :
    let g := lat (hnd 0) (hnd 0) 0
    let x := { strm 0xB0 0 0 g with state := 1 }
    let s := (stG (some x) g).modCrs 0 fun y => { y with
      loaded := y.loaded.map fun l => { l with info := { l.info with pats := [bytesPat 0, bytesPat 0] } } }
    (s.planeOf 1 0 0).bind (fun pl => pl.pats[gatePat x.pend.r]?) = some (bytesPat 0) ∧ (bytesPat 0).size = 0 ∧
      bindRegion s x = .ok ∧ bindRest s 0 0 x (bytesPat 0) = .ok :=
  ⟨rfl, rfl, rfl, rfl⟩

theorem beat_witness : let g := lat (hnd 0) 1 0
    let x := { strm 0xB2 64 0 g with frame := some 5 }
    (beatBytes (stG (some x) g) 0 x 0 64).2.2.isNone = true := by
  decide +kernel

theorem witness_GatesTakeAndMoveStreams_beat :
    let g := lat (hnd 0) 1 0
    let x := { strm 0xB2 64 0 g with frame := some 5 }
    let s := stG (some x) g
    lkp (s.bay 0 0).streams 0 = some x ∧ x.state ≠ 3 ∧ fenced (s.bay 0 0) x = false ∧ x.frame = some 5 ∧
      (∃ bs lost, beatBytes s 0 x x.beat 64 = (bs, lost, none)) ∧ x.beat + 1 = x.pat.beats := by
  have h := Option.isNone_iff_eq_none.mp beat_witness
  exact ⟨rfl, by decide, rfl, rfl, ⟨_, _, Prod.ext rfl (Prod.ext rfl h)⟩, rfl⟩

theorem witness_GatesTakeAndMoveStreams_moves :
    let g := lat (hnd 0) (hnd 0) 0
    let x := strm 0xB0 64 62 g
    let s := stG (some x) g
    lkp (s.bay 0 0).streams 0 = some x ∧ x.state = 2 ∧ fenced (s.bay 0 0) x = false ∧ x.count ≠ 0 ∧ x.pos + 1 < x.count ∧
      (strm 0xB1 64 64 g).count ≤ (strm 0xB1 64 64 g).pos ∧
      (match moveElem s 0 x x.pos with | .ok t _ => (t.bay 0 0).streams == (s.bay 0 0).streams | _ => false) = true ∧
      (let y := { strm 0xB0 65 64 g with pat := bytesPat 65 }
       moveElem (stG (some y) g) 0 y 64 = .bad kPROT 3 1 (hnd 64)) ∧
      (strm 0xB2 64 0 g).pat.beats ≤ ({ strm 0xB2 64 0 g with beat := 1 } : Stream).beat ∧
      (let z := { strm 0xB3 1 0 g with beats := [(0, 0)], doneEls := [0] }
       drainReady z = [] ∧ z.count ≤ z.doneEls.length ∧ z.pat.beats ≤ z.beats.length) :=
  ⟨rfl, rfl, rfl, by decide, by decide, by decide, by decide +kernel, rfl, by decide, by decide⟩

/-! The gain heap. -/

/-- The latch of record 1 of element 0, and the state of context 1 with 4 tasks in a far page, and a share of heap entries. -/
def stT (es : List HeapEntry) (g : Firing) : State :=
  { ((stV (leafAt 0) 0 (st g)).modCtx 1 fun x => { x with
      taskBase := 0, taskN := 4, thresh := 1, holds := x.holds ++ [{ kind := 6, course := 0, p0 := 2, p1 := 0 }] }).modCrs 0
      fun y => { y with holder := some 1, heap := { (default : Heap) with entries := es } } with firing := g }

theorem witness_HeapInstructionsAct_tasks :
    let r := rq 0 8 1 0
    let g := lat 3 0x3F800000 0
    let s := stT [] g
    let a := argsCtl s r g
    actsFreely s r a ∧ a.a.word % 2 ^ 32 < (s.ctx 1).taskN.toNat ∧ (s.ctx 1).taskN.toNat ≤ (argsCtl s r (lat 4 0 0)).a.word % 2 ^ 32 ∧
      (match s.cellRegion 1 3 with | .ok as _ _ => (s.firstAsleep as).isNone | _ => false) = true ∧ s.freeShare 1 0 6 = 2 ∧ heapUsed (s.crs 0).heap 1 < 2 ∧
      (s.crs 0).heap.waits = [] ∧ (stB g).freeShare 1 0 6 = 0 :=
  ⟨acts rfl rfl rfl rfl rfl, by decide, by decide, by decide +kernel, rfl, by decide, rfl, rfl⟩

/-- An entry of context 1: task 3 with gain 1.0. -/
def he : HeapEntry := { rv := false, cx := 1, key := 0x3F800000, task := 3 }

theorem witness_HeapInstructionsAct_queries :
    let g := lat 3 0 0
    let here := fun (s : State) => (s.crs 0).heap.entries.filter fun e => e.cx.toNat == 1 && !e.rv
    here (stT [] g) = [] ∧ here (stT [he] g) = [he] ∧ ((rq 0 15 5 4).lit.extractLsb' 0 4).toNat = 4 := by
  decide

theorem witness_HeapInstructionsAct_take :
    let r := rq 0 15 5 0
    let g := lat 0 0 0
    let s := stT [] g
    let t : TakeLatch := { cx := 1, serial := 0, link := Link.root, parked := false, frame := none }
    actsFreely s r (argsOf 5 g 0) ∧ lkp (s.elem 0 g.unit.toNat).takes g.takeKey = none ∧
      (lkp ((s.modElem 0 0 fun y => { y with takes := [(65, t)] }).elem 0 g.unit.toNat).takes g.takeKey).isSome = true :=
  ⟨acts rfl rfl rfl rfl rfl, rfl, rfl⟩

theorem witness_HeapChangesAndPops_changes :
    let g := lat 3 0x3F800000 0
    let s := stT [] g
    let run : TaskCell := { taken := 0, gain := 0, arg := 0, hr := false, crs := 0, st := 2 }
    firingP g = false ∧ firingP (poisoned g) = true ∧ waitingAt s 1 3 = none ∧ (∀ e ∈ s.courses, ∀ w ∈ e.2.heap.waits, w.cx ≠ g.cx) ∧
      s.taskCell 1 3 = some { taken := 0, gain := 0, arg := 0, hr := false, crs := 0, st := 0 } ∧
      (s.putTask 1 3 run).taskCell 1 3 = some run ∧ s.active 1 0 = false ∧ s.active 1 1 = true ∧ (s.ctx? 1).isSome = true ∧
      (gridQ (f32.decode 0x3F800000)).2 = 0 ∧ (gridQ (f32.decode 0)).2 = 0 ∧ heapEnded s 1 = false ∧ heapUsed (s.crs 0).heap 1 < s.freeShare 1 0 6 ∧
      f32.isNan 0x3F800000 = false := by
  decide +kernel

/-- A SPAWN's entry, and a change that waits for an entry while another waits. -/
theorem witness_HeapChangesAndPops_waits :
    let rv : HeapEntry := { rv := true, cx := 1, key := 0, task := 3 }
    let p := pendOf 0xD7 (rq 0 8 2 0) (lat 3 0x3F800000 0)
    let s := stT [rv] (lat 3 0x3F800000 0)
    let u := (stT [he, he] (lat 3 0x3F800000 0)).modCrs 0 fun y => { y with
      heap := { y.heap with waits := [{ cx := 1, task := 3, pend := p, change := true }], held := true } }
    heapEnded s 1 = false ∧ (s.crs 0).heap.waits = [] ∧ ((s.crs 0).heap.entries.find? fun e => e.rv && e.cx.toNat == 1) = some rv ∧
      waitingAt u 1 3 = some 0 ∧ changeNeeds u p = some 0 ∧ u.freeShare 1 0 6 ≤ heapUsed (u.crs 0).heap 1 ∧ (u.crs 0).heap.held = true := by
  decide +kernel

/-- An armed GAIN.TAKE of node 1 of element 0, whose frame 5 was granted. -/
def tk : TakeLatch := { cx := 1, serial := 0, link := Link.root, parked := false, frame := some (5, 0) }
def stA : State := (stT [he] (lat 0 0 0)).modElem 0 0 fun y => { y with takes := [(65, tk)] }

theorem witness_HeapChangesAndPops_pop :
    let h := (stA.crs 0).heap
    let popped := (modHeap stA 0 fun h => { h with entries := h.entries.erase he, pops := put h.pops 1 1, running := h.running ++ [(1, 3)] }).modFrame
      0 0 5 fun f => { f with it := 0 }
    nextTake stA (ev 0 0).course.toNat = some (0, 1, tk, 5, he) ∧
      popped.taskCell 1 3 = some { taken := 0, gain := 0, arg := 0, hr := false, crs := 0, st := 0 } ∧
      (stA.ring 1 1 0).head = (stA.ring 1 1 0).tail ∧ (∀ w ∈ h.waits, w.cx ≠ tk.cx) := by
  decide +kernel

/-! The system instructions. -/

/-- Context 2, a child of context 1, stopped. -/
def cx2 : Ctx := { Ctx.fresh with depth := 2, parent := 1, runnable := false }
def stK (g : Firing) : State := { st g with ctxs := [(0, { Ctx.fresh with runnable := true }), (1, cx1), (2, cx2)], firing := g }

theorem witness_PlateRequestsWaitAndAreAnswered_issue :
    let g := lat (2 ^ 13 + 2) 24 1024
    let s := stK g
    let r := rq 0 7 3 0
    let a := argsCtl s r g
    let z := argsCtl s r (lat (2 ^ 16) (2 ^ 20) 0)
    actsFreely s r a ∧ a.a.word < 2 ^ 16 ∧ 1 ≤ a.c.word ∧ a.c.word ≤ 1024 ∧ a.b.word < 2 ^ 20 ∧ a.b.word ≤ 24 ∧ 2 ^ 16 ≤ z.a.word ∧ 2 ^ 20 ≤ z.b.word ∧
      24 < z.b.word ∧ z.c.word = 0 ∧ 1024 < (argsCtl s r (lat 0 0 1025)).c.word :=
  ⟨acts rfl rfl rfl rfl rfl, by decide, by decide, by decide, by decide, by decide, by decide, by decide, by decide, by decide, by decide⟩

theorem witness_PlateRequestsWaitAndAreAnswered_answer :
    let g := lat (2 ^ 13 + 2) 0 0
    let s := stK g
    childOf s 1 (2 ^ 13 + 3) = none ∧ (∀ op ∈ [0xE1, 0xE2, 0xE3, 0xE4, 0xE5, 0xE6], platePull s (pendOf op (rq 0 7 3 0) g) = none) ∧ 2 = (g.a.getD (plain 0)).word % 4096 ∧ s.ctx? 2 = some cx2 ∧ cx2.parent = g.cx ∧
      cx2.depth.toNat = (g.a.getD (plain 0)).word / 2 ^ 12 % 8 ∧ cx2.runnable = false := by
  decide +kernel

theorem witness_SpecialRegistersRead :
    let g := lat 0x7FFF 0 0
    let s := stK g
    let r := rq 0 15 0 0x10F
    actsFreely s r (argsOf 0 g 0) ∧ actsFreely s (rq 0 15 1 0) (argsOf 1 g (BitVec.ofNat 512 (csrLit s g (rq 0 15 1 0)))) ∧ (argsOf 0 g 0).a.word < 2 ^ 15 ∧
      (r.lit.extractLsb' 0 12).toNat = 0x10F ∧ ((rq 0 15 0 0x008).lit.extractLsb' 0 12).toNat = 0x008 ∧
      ((rq 0 15 0 0x110).lit.extractLsb' 0 12).toNat = 0x110 ∧ 2 ^ 16 ≤ (argsOf 0 (lat (2 ^ 16) 0 0) 0).a.word :=
  ⟨acts rfl rfl rfl rfl rfl, acts rfl rfl rfl rfl rfl, by decide, by decide, by decide, by decide, by decide⟩

theorem witness_SpecialRegisterReadsBack :
    let g := lat 0 0x1F 0
    let s := stK g
    let b := fun (r : NodeRec) => argsOf r.ar.toNat g (BitVec.ofNat 512 (csrLit s g r))
    (∀ r ∈ [rq 0 15 1 0x008, rq 0 15 1 0x00C, rq 0 15 1 0x100, rq 0 15 1 0x10F], (b r).a.word < 2 ^ 15 ∧
      csrBad s 1 (r.lit.extractLsb' 0 12).toNat (b r).b.word = false) ∧
      actsFreely s (rq 0 15 1 0x10F) (b (rq 0 15 1 0x10F)) ∧ (s.ctx? 1).isSome = true ∧ g.unit.toNat < 0x1000 ∧ s.savedAt 1 0 0 = none ∧
      (g.c.map Opnd.p).getD false = false ∧ (g.s.map Opnd.p).getD false = false :=
  ⟨by decide +kernel, acts rfl rfl rfl rfl rfl, rfl, by decide, rfl, rfl, rfl⟩

theorem witness_TrapRepairAndSignalAct :
    let g := lat 7 0 0
    let s := stK g
    let r := rq 0 15 0 0x1003F
    actsFreely s r (argsOf 0 g 0) ∧ r.lit.getLsbD 16 = true ∧ (rq 0 15 0 0xFFFF).lit.getLsbD 16 = false ∧ s.holdsEndpoint 1 63 = false ∧
      (s.modCtx 1 fun x => { x with holds := [{ kind := 8, course := 0, p0 := 0, p1 := 2 ^ 63 }] }).holdsEndpoint 1 63 = true :=
  ⟨acts rfl rfl rfl rfl rfl, by decide, by decide, by decide, by decide⟩

/-! Tokens: node 1 of element 0 holds a record with two slots. -/

/-- A token of context 1 for a destination, in frame 5 and iteration 3, from outside the frame's cast. -/
def tokTo (dest : Nat) (it : Nat) (pl : Bool) : Transit :=
  { (default : Transit) with tok := { pl := pl, p := false, e := false, cx := 1, ft := 5, it := BitVec.ofNat 16 it, dest := BitVec.ofNat 21 dest, val := 9 } }

/-- The state with the record `op` of AR 1 at node 1, whose ports A and B have the slots 1 and 2, the frame `f`, and `t` on its way. -/
def stW (op : Nat) (f : Frame) (t : Transit) : State :=
  let s := (stP 0).setFrame 0 0 5 f
  { s.modElem 0 0 fun y => { y with active := { recs := [(1, recWord op (rq 0 7 1 0))], nst := [(1, 0x8281)], setting := 0 } } with
    transit := [t], sideband := { phase := 7, ready := true, frozen := false, stackNo := 0 } }

/-- The frame with no cast; with a cast of block 0 of plane 1; with slot 2 present. -/
def fr0 : Frame := { fr with cast := none, link := Link.root }
def frB (pres : BitVec 64) : Frame := { fr with cast := some (Cast.start 0x20000 0), pres := pres }

theorem witness_TokensArriveAndMatch_rejected :
    let t := tokTo 4 3 false
    pickTransit (stW 0x30 fr0 t) 0 = some t ∧ unitKind (destUnit t.tok.dest) = .elem 0 ∧ t.stack = (stW 0x30 fr0 t).sideband.stackNo ∧
      { t with stack := 1 }.stack ≠ (stW 0x30 fr0 t).sideband.stackNo ∧ courseUp (stW 0x30 fr0 t) 0 = true ∧
      inputBusy (stW 0x30 fr0 t) t 0 = false ∧ t.due ≤ (stW 0x30 fr0 t).cycles ∧ (stW 0x30 fr0 t).cycles < { t with due := 9 }.due ∧
      inputBusy ((stW 0x30 fr0 t).modElem 0 0 fun y => { y with input := [t] }) t 0 = true ∧
      (((stW 0x30 fr0 t).bay 0 0).parts.any fun q => q.2.cx == t.tok.cx && decide (q.2.ftl.toNat ≤ 5) && decide (5 ≤ q.2.fth.toNat)) = true ∧
      (((stW 0x30 fr0 t).bay 0 0).parts.any fun q => q.2.cx == t.tok.cx && decide (q.2.ftl.toNat ≤ 16) && decide (16 ≤ q.2.fth.toNat)) = false ∧
      (stW 0x30 fr0 t).frame? 0 0 15 = none ∧ ((stW 0x30 fr0 t).bay 0 0).killed.contains 15 = false ∧ fr0.it ≠ (tokTo 4 4 false).tok.it ∧
      recOp ((stW 0 fr0 t).record 1 0 0 1) = 0 ∧ recOp ((stW 0x30 fr0 t).record 1 0 0 1) ≠ 0 ∧
      ((stW 0x30 fr0 t).portByte 1 0 0 1 0 / 64 % 2 == 1) ≠ (tokTo 4 3 true).tok.pl ∧ (stW 0x30 fr0 t).portSlot 1 0 0 1 0 = some 1 ∧
      (frB 2).present 1 = true ∧ 2 ∉ arPorts (bitsAt ((stW 0x30 fr0 t).record 1 0 0 1) 77 3) ∧
      ((stW 0x30 fr0 t).portSlot 1 0 0 1 2).all (fun i => !(fr0.present i)) = true := by
  decide +kernel

theorem witness_TokensArriveAndMatch_matched :
    let t := tokTo 4 3 false
    let s := stW 0x30 fr0 t
    fr0.it = t.tok.it ∧ fr0.killing = false ∧ { fr0 with killing := true }.killing = true ∧ fr0.cast = none ∧ t.after = [] ∧
      recOp (s.record 1 0 0 1) ≠ 0 ∧ recOp (s.record 1 0 0 1) ≠ 7 ∧ (s.portByte 1 0 0 1 0 / 64 % 2 == 1) = t.tok.pl ∧
      0 ∈ arPorts (bitsAt (s.record 1 0 0 1) 77 3) ∧ fr0.sp = false ∧ fr0.mv = false ∧ fr0.cx = t.tok.cx ∧ fr0.present 1 = false ∧
      s.blockOf 1 0 0 1 = some 0x20000 ∧ fr0.cast = none ∧ (frB 0).cast = some (Cast.start 0x20000 0) ∧ (Cast.start 0x20000 0).block = 0x20000 ∧
      (frB 0).present 2 = false ∧ (frB 4).present 2 = true ∧ s.portSlot 1 0 0 1 1 = some 2 ∧ ({ fr with waiting := [(0x20000, 7)] } : Frame).waiting.any (fun w => w.1 == 0x20000) = true ∧
      { Cast.start 0x20000 0 with aborted := true }.aborted = true ∧
      (Cast.start 0 0).block ≠ 0x20000 := by
  decide +kernel

/-- Crucible 3 with a record of AR 1 at node 1, held by context 1. -/
def stWC (x : Crucible) : State :=
  let s := stW 0x30 fr0 (tokTo (0x1003 * 256 + 5) 3 false)
  { (s.modCtx 1 fun y => { y with holds := [{ kind := 3, course := 0, p0 := 0xFFFFFF, p1 := 0 }] }).setCru 0 3
      { x with granted := true, cx := 1, it := 3, active := [(1, recWord 0xC1 (rq 0 10 1 0))] } with firing := Firing.none }

theorem witness_TokensArriveAndMatch_crucible :
    let t := tokTo (0x1003 * 256 + 5) 3 true
    let f := tokTo (0x1003 * 256 + 5) 3 false
    let s := { stWC default with transit := [t] }
    let w := (s.cru 0 3).record 1
    pickTransit s 0 = some t ∧ t.due ≤ s.cycles ∧ unitKind (destUnit t.tok.dest) = .cru 3 ∧ t.tok.ft ≠ 0 ∧ s.holdsCru 1 0 3 = true ∧ (stW 0x30 fr0 f).holdsCru 1 0 3 = false ∧
      (s.cru 0 3).granted = true ∧ (s.cru 0 3).it = t.tok.it ∧ recOp w ≠ 0 ∧ 1 ∈ arPorts (bitsAt w 77 3) ∧ t.tok.pl = (recOp w == 0xC1) ∧
      lkp (s.cru 0 3).slots (1 * 4 + 1) = none ∧ lkp (s.cru 0 3).slots (1 * 4 + 0) = none ∧
      (lkp (({ s.cru 0 3 with slots := [(4, plain 0)] } : Crucible).slots) (1 * 4 + 0)).isSome = true ∧ (0 : BitVec 12) = 0#12 ∧
      arPorts (bitsAt w 77 3) = [0, 1] ∧ (∀ q ∈ (s.cru 0 3).ops, q.cyc ≠ s.cycles) := by
  decide +kernel

theorem witness_TokensArriveAndMatch_gate :
    let t := tokTo (0x1100 * 256) 2 true
    let x := strm 0xB3 128 0 { lat (hnd 0) 0 0 with it := 1 }
    let s := { stG (some x) (lat 0 0 0) with transit := [t] }
    pickTransit s 0 = some t ∧ unitKind (destUnit t.tok.dest) = .gate 0 ∧ lkp (s.bay 0 0).streams 0 = some x ∧ x.pend.op = 0xB3 ∧
      x.pend.fir.cx = t.tok.cx ∧ destPort t.tok.dest = 0 ∧ t.tok.pl = true ∧ x.count ≠ 0 ∧ (t.tok.it - x.pend.fir.it).toNat < x.pat.beats ∧
      x.pat.beats ≤ ((tokTo 0 3 true).tok.it - x.pend.fir.it).toNat ∧ lkp x.beats 1 = none ∧
      (lkp ({ x with beats := [(1, 0)] } : Stream).beats 1).isSome = true ∧ lkp (s.bay 0 0).streams 1 = none := by
  decide +kernel

/-! Casts. -/

theorem witness_CastsCommit_empty :
    let k := { Cast.start 0x20000 0 with exited := true }
    let f := { frB 2 with cast := some k }
    let t := { stW 0x30 f (tokTo 4 3 false) with transit := [] }
    t.frame? 0 (ev 0 0).unit.toNat 5 = some f ∧ f.cast = some k ∧ mayCommit t 0 0 5 = true ∧ k.committing = false ∧ k.suspended = none ∧
      k.held = [] ∧ k.plate = [] ∧ k.after = [] ∧ k.effects = [] ∧ f.cs = false ∧ f.endFree = false ∧ f.waiting = [] ∧ t.released = [] ∧
      f.atBay = [] ∧ t.heapKernel 1 = none ∧ t.dooms = [] ∧ strandUnapplied t 0 1 k.strand = false ∧ changesWait t 0 0 5 = false ∧
      (t.ctx? 1).isSome = true ∧ (∀ x ∈ k.out, x.due ≤ t.cycles) := by
  decide +kernel

/-- A commit whose result is on its way from a far home. -/
theorem witness_CastsCommit_result :
    let k := { Cast.start 0 0 with committing := true, out := [{ tokTo 0 3 true with due := 546 }] }
    let s := (stM 0 (lat 0x10000 9 4)).modOwn (lat 0x10000 9 4) fun _ => k
    (s.frame? 0 0 5).bind Frame.cast = some k ∧ k.suspended = none ∧ k.held = [] ∧ ∃ t ∈ k.out, s.cycles < t.due := by
  decide

theorem witness_CastsCommit_waits :
    let s := stR (lat 8191 9 4)
    let p := pendOf 0xAA (rq 0 7 1 0) (lat 8191 9 4)
    let w : RidgeWrite := { slot := 0, mask := 0, data := 0, cx := 1, str := 0, toks := [], beat := 0 }
    let t := s.modCrs 0 fun y => { y with port := List.replicate 256 w }
    performHeld t p = .waits ∧ relHeld t p = false ∧ strandCells t p.fir = false ∧
      strandCells { t with cells := [{ (default : Cell) with cx := 1, parts := [{ (default : Partial) with str := 0, acq := true, ft := 5, it := p.fir.it }] }] } p.fir = true :=
  ⟨rfl, rfl, by decide +kernel, by decide +kernel⟩

/-- A release whose strand has a Ridge write on its way, that no mirror shows yet. -/
theorem witness_CastsCommit_release :
    let p := pendOf 0x91 (rq 0 7 1 0x80) (lat 0x10000 9 4)
    let w : RidgeWrite := { slot := 0, mask := 0, data := 0, cx := 1, str := 0, toks := [], beat := 0 }
    let k := { Cast.start 0 0 with committing := true, held := [p] }
    let s := ((stM 0 (lat 0x10000 9 4)).modOwn (lat 0x10000 9 4) fun _ => k).modCrs 0 fun y => { y with port := [w] }
    (s.frame? 0 0 5).bind Frame.cast = some k ∧ k.suspended = none ∧ litOrd p.r = 2 ∧ suppressed p = false ∧ p.op = 0x91 ∧
      strandUnapplied s 0 p.fir.cx (s.strandOf p.fir) = true ∧ strandCells s p.fir = false ∧ { k with held := [] }.held = [] ∧
      strandUnapplied s 0 1 k.strand = true := by
  decide

/-- A change of the heap whose commit meets the cycle of a pop. -/
theorem witness_CastsCommit_pop :
    let p := pendOf 0xD1 (rq 0 7 1 0) (lat 5 0 4)
    let k := { Cast.start 0 0 with committing := true, effects := [p] }
    let s := ((stM 0 (lat 5 0 4)).modOwn (lat 5 0 4) fun _ => k).modCrs 0 fun y => { y with heap := { y.heap with popped := 1 } }
    (s.frame? 0 0 5).bind Frame.cast = some k ∧ k.suspended = none ∧ k.held = [] ∧ k.after = [] ∧
      (s.crs 0).heap.popped = s.cycles + 1 ∧ p ∈ k.effects ∧ p.op = 0xD1 := by
  decide

theorem witness_CastsCommit_home :
    ∃ kind code o x, performHeld (stM 0 (lat 0x30000 9 4)) (pendOf 0x91 (rq 0 7 1 0) (lat 0x30000 9 4)) = .home kind code o x :=
  ⟨_, _, _, _, rfl⟩

/-- A load of the wave that waits for its turn. -/
def ldw : WaveEntry := { own := 0, pred := 0, succ := 0, load := true, performed := false, pend := pendOf 0x90 (rq 0 7 0 0) (lat 0x10000 0 0) }
def stL : State := (stM 0 (lat 0x10000 9 4)).modOwn (lat 0 0 0) fun k => { k with wave := [ldw] }

theorem witness_CastsCommit_load :
    ∃ k, stL.cast? 0 0 5 = some k ∧ k.wave = [ldw] ∧ ldw.load = true ∧ ldw.performed = false ∧ ldw.pend ∉ k.waits ∧
      Pick.fire ldw.pend ∉ stL.agenda ∧ ldw.pend ∉ walkingOf stL 0 0 5 ∧ loadReady stL ldw.pend.fir ldw.own = true :=
  ⟨_, rfl, rfl, rfl, rfl, by simp; decide, by decide, by decide, rfl⟩

/-! Exceptions. -/

/-- A frame whose cast has seen a fault. -/
def frE : Frame := { fr with link := { fr.link with e := true }, cast := some { Cast.start 0 0 with fault := some (1, FaultRec.zero) } }

theorem witness_ExceptionsAreTaken_fault :
    let s := st (lat 0 0 0)
    s.frame? 0 0 5 = some fr ∧ fr.cast = some (Cast.start 0 0) ∧ (lat 0 0 0).isCru = false ∧ (lat 0 0 0).bay = 0 ∧
      (∀ q ∈ (s.bay 0 0).pools, q.2.waiters = []) ∧ (∀ w ∈ s.rdgWaits, w.2.fir.inFrame 0 0 5 = false) ∧
      (∀ x ∈ s.crucibles, ∀ w ∈ x.2.waiters, w.2.fir.inFrame 0 0 5 = false) := by
  decide

theorem witness_ExceptionsAreTaken_abort :
    let s := (st (lat 0 0 0)).setFrame 0 0 5 frE
    let k := { Cast.start 0 0 with fault := some (1, FaultRec.zero) }
    s.frame? 0 0 5 = some frE ∧ frE.cast = some k ∧ frE.link.e = true ∧ k.aborted = false ∧ k.committing = false ∧ castQuiet s 0 0 5 true = true ∧
      k.fault = some (1, FaultRec.zero) ∧ k.linked = none ∧ k.gotFrames = [] ∧ k.gotBufs = [] ∧ k.gotCru = [] ∧ k.gotRdg = [] ∧ k.gotHeap = 0 ∧
      k.waits = [] ∧ s.heapKernel 1 = none ∧ s.released = [] := by
  decide +kernel

theorem witness_ExceptionsAreTaken_stall :
    let f := { frB 0 with cast := some { Cast.start 0x20000 0 with stall := 2 ^ 20 } }
    let s := { stW 0x30 f (tokTo 4 3 false) with transit := [] }
    s.frame? 0 0 5 = some f ∧ stallCounts s 0 0 5 f { Cast.start 0x20000 0 with stall := 2 ^ 20 } = true ∧ s.stallBound 1 = 2 ^ 20 ∧
      mayCommit s 0 0 5 = false := by
  decide +kernel

/-- A fault of the cast in frame 5, held by context 1. -/
def fe1 (site : Site) (answer : Option (BitVec 3)) (delivered : Bool) : FaultEntry :=
  { holder := 1, info := { FaultRec.zero with kind := 20, ocx := 1, seq := 1 }, site := site, entered := true, due := 0, delivered := delivered,
    answer := answer, settled := false }

def siteC : Site := .cast 0 0 5

theorem witness_FaultsAreDeliveredAndAnswered_delivery :
    let f := fe1 siteC none false
    let s := { (st (lat 0 0 0)).setFrame 0 0 5 frE with faults := [f] }
    (∀ x ∈ s.faults, x.holder.toNat = 1 → x.entered = true) ∧ nextDelivery s 1 = some f ∧ s.handlerOf 1 = none := by
  decide +kernel

/-- Context 1 with a handler at node 1 of an element of the Gutter bay 238, in a frame of pool 0 with map 0. -/
def stHd : State :=
  let u := elAt 238 0
  let p := { pln with
    units := [{ (default : Machine.PUnit) with course := 0, x := u % 64, y := u / 64 }]
    blocks := [{ (default : PBlock) with course := 0, bay := 238, maps := [0], nodes := [(u, 1)] }] }
  { (((st (lat 0 0 0)).modBay 0 238 fun y => { y with pools := [(0, pl1 0)] }).modCrs 0 fun y => { y with
      loaded := [{ cx := 1, plane := 1, serial := 0, info := p }] }).modCtx 1 fun x => { x with
      handler := BitVec.ofNat 64 (u * 256 + 4 + 2 ^ 25 + 2 ^ 52) } with
    faults := [fe1 siteC none false] }

theorem witness_FaultsAreDeliveredAndAnswered_handler :
    nextDelivery stHd 1 = some (fe1 siteC none false) ∧ stHd.handlerOf 1 = some (0, 238, 0, BitVec.ofNat 21 (elAt 238 0 * 256 + 4), 0) ∧
      stHd.mapOf 1 0 (elAt 238 0) 0 = some { idx := 0, slots := 4, gran := 2, dmask := 0 } := by
  decide +kernel

theorem witness_FaultsAreDeliveredAndAnswered_answers :
    let f := fun v : Nat => fe1 siteC (some (BitVec.ofNat 3 v)) true
    let s := fun v : Nat => { (st (lat 0 0 0)).setFrame 0 0 5 { frE with cast := some { Cast.start 0 0 with aborted := true } } with faults := [f v], courses := (stP 0).courses }
    (∀ v ∈ [0, 1, 3, 4], ((s v).faults.filter (answerDue (s v)))[0]? = some (f v) ∧ pendingAnswer (f v) = some v) ∧
      (s 1).frame? 0 0 5 = some { frE with cast := some { Cast.start 0 0 with aborted := true } } := by
  decide +kernel

theorem witness_FaultsAreDeliveredAndAnswered_home :
    let f := fe1 (.home 0 0 5) (some 0) true
    let k := { Cast.start 0 0 with suspended := some hst, committing := true, held := [hst] }
    let s := { (st (lat 0 0 0)).setFrame 0 0 5 { fr with cast := some k } with faults := [f], replay := [(0, hst)], courses := (stP 0).courses }
    (s.faults.filter (answerDue s))[0]? = some f ∧ pendingAnswer f = some 0 ∧ s.cast? 0 0 5 = some k ∧ k.suspended = some hst := by
  decide +kernel

/-! Rooms. -/

/-- A pool with a buffer in pool-map entry 0, in state `p`. -/
def stQ (p : Pool) : State := (st (lat 0 0 0)).modBay 0 0 fun y => { y with pools := [(0, p)] }
def plQ (e : PEntry) : Pool := { pl1 1 with pmap := [(0, e)] }

theorem witness_RoomEventsAct_copies :
    let e := { buf with mv := true }
    let p := { plQ e with moving := [.buf 0] }
    let z := { e with sp := true }
    let q := { plQ z with restoring := [(.buf 0, 8), (.buf 1, 16)] }
    (stQ p).pool? 0 ((ev 0 0).unit.toNat % 256) ((ev 0 0).k.toNat % 8) = some p ∧ lkp p.pmap 0 = some e ∧ e.v = true ∧ e.sp = false ∧ e.guard = false ∧
      e.freeing = false ∧ p.waiters = [] ∧ p.pseudo = none ∧ p.moving = [.buf 0] ∧ p.moveDue ≤ (stQ p).cycles ∧
      (stQ q).pool? 0 0 0 = some q ∧ q.restoring = [(.buf 0, 8), (.buf 1, 16)] ∧ lkp q.pmap 0 = some z ∧ z.v = true ∧ z.sp = true := by
  decide

/-- A request of `n` granules that waits. -/
def wt (n : Nat) : Waiter :=
  { party := .node, pend := pendOf 0x21 (rq 0 15 0 0) (lat 0 0 0), size := n, nslots := 0, dmask := 0, map := 0, cs := false, ovt := 0, uc := 0,
    guard := false }

/-- An ILD of frame 7. -/
def ild7 : Pend := pendOf 0xA2 (rq 0 7 0 0) { lat 0 0 0 with ft := 7 }

theorem witness_RoomEventsAct_timer :
    let p := { plQ { buf with hft := 6 } with waiters := [wt 64], anchored := true, timer := 64 }
    timerCounts (stQ p) 0 0 0 p = true ∧ 2 ^ (6 + p.sc.toNat) ≤ p.timer ∧ nextVictim (stQ p) 0 0 0 p = none ∧
      (let f := { fr0 with pool := 0, it := 3 }
       let q := { pl1 0 with waiters := [wt 64], anchored := true, timer := 64 }
       let s := (stQ q).setFrame 0 0 7 { f with cast := some { Cast.start 0 0 with waits := [ild7], wave := [{ ldw with pend := ild7, load := false }] }, size := 2 }
       timerCounts s 0 0 0 q = true ∧ nextVictim s 0 0 0 q = some (.frame 7)) := by
  decide +kernel

theorem witness_RoomEventsAct_spill :
    let p := { plQ { buf with mv := true, size := 1 } with spilling := some (.buf 0, 0, 7) }
    let s := stV (leafAt 0) 0 ((stQ p).modCtx 1 fun x => { x with rings := [(0, { base := 0, sz := 0, head := 0, tail := 80, written := 1 })] })
    s.pool? 0 0 0 = some p ∧ p.spillHeld = false ∧ p.spilling = some (.buf 0, 0, 7) ∧
      firstUnmapped s 1 16 31 2 = none ∧ (firstUnmapped (stQ p) 1 16 31 2).map Prod.fst = some 16 ∧
      (match ringPut s 1 0 0 16 (Memory.bytes s.mem (nearPA 0 0 32) 16) with | .ok _ => true | .error _ => false) = true := by
  decide +kernel

/-! Walks and pages. -/

/-- A walk of context 1 for its page 0, which `hst` waits for. -/
def wk (begun : Bool) : Walk := { cx := 1, page := 0, begun := begun, gen := 0, due := 0, users := [hst], guests := [] }
def stWk (w : Walk) : State := (st (lat 0 0 0)).modCrs 0 fun y => { y with holder := some 1, walks := [w] }

/-- The leaf of page 0 has M set, with the page's new home at 2^40 + 2^16 and its old one at `a`. -/
def stM1 (a : Nat) : State :=
  (stV (leafAt 0 - farBase + a + 2 ^ 15) (farBase + 2 ^ 16) (stWk (wk true)))

theorem witness_WalksAndPullsAct_walks :
    let s := stWk (wk false)
    let t := stV (leafAt 0) 0 (stWk (wk true))
    (s.crs 0).walks.find? (fun x => !x.begun) = some (wk false) ∧ ((s.crs 0).walks.filter Walk.begun).length < 64 ∧
      64 ≤ (((stWk (wk false)).modCrs 0 fun y => { y with walks := wk false :: List.replicate 64 (wk true) }).crs 0).walks.length - 1 ∧
      ((t.crs 0).walks.filter Walk.begun)[(ev 0 0).k.toNat]? = some (wk true) ∧ (t.crs 0).holder = some 1 ∧ (wk true).gen = (t.ctx 1).gen ∧
      (wk true).gen ≠ ((t.modCtx 1 fun x => { x with gen := 1 }).ctx 1).gen ∧
      (match (stM1 farBase).walk 1 0 with | .ok _ => false | .error x => x.pull.isSome) = true ∧
      (match t.walk 1 0 with | .ok o => o.cls != 3 && (t.firstAsleep (o.tags.map (64 * ·.1))).isNone | .error _ => false) = true ∧
      (match (stWk (wk true)).walk 1 0 with | .ok _ => false | .error x => x.pull.isNone) = true := by
  decide +kernel

theorem pullLines_some (f t size : Nat) : ∀ (n i : Nat) (s : State), ∃ v, pullLines 0 f t size n i s = some v
  | 0, _, s => ⟨s, rfl⟩
  | n + 1, i, s => by
    obtain ⟨v, h⟩ := pullLines_some f t size n (i + 1)
      (writeBytes s ((List.range 64).map fun j => (s.localPA (pageByte t size (64 * i)) + j,
        Memory.read s.mem (s.localPA (pageByte f size (64 * i)) + j))))
    exact ⟨v, by simpa [pullLines, pullLine, backingByte] using h⟩

theorem witness_WalksAndPullsAct_pull :
    let s := stM1 farBase
    (pullWalks s 0)[(ev 0 0).k.toNat]? = some (wk true) ∧ pullOf s (wk true) = some (1, 0x80000, farBase, farBase + 2 ^ 16, 2 ^ 16) ∧
      (s.ctx 1).parent.toNat = 0 ∧ s.unreachable (sourceByte s 0 farBase (2 ^ 16)) = false ∧ s.lostByte (sourceByte s 0 farBase (2 ^ 16)) = false ∧
      s.firstAsleep [sourceByte s 0 farBase (2 ^ 16), sourceByte s 0 (farBase + 2 ^ 16) (2 ^ 16)] = none ∧
      (let t := { s with lostPages := [{ pa := farBase, size := 2 ^ 16, snd := none, leaves := [] }] }
       t.lostByte (sourceByte t 0 farBase (2 ^ 16)) = true) ∧
      (let u := stM1 (2 ^ 55 + 3 * 2 ^ 45 + farBase)
       (pullOf u (wk true)).isSome = true ∧ u.unreachable (sourceByte u 0 (2 ^ 55 + 3 * 2 ^ 45 + farBase) (2 ^ 16)) = true) := by
  decide +kernel

theorem witness_WalksAndPullsAct_copy : ∃ v, pullLines 0 farBase (farBase + 2 ^ 16) (2 ^ 16) (2 ^ 16 / 64) 0 (stM1 farBase) = some v :=
  pullLines_some _ _ _ _ _ _

/-! Combining, barriers, time, the Ridge. -/

/-- A CMB of 2 partials at 0x1FFFC, which waits at its home; a cell of its key; a partial. -/
def cmb (n : Nat) : Pend := pendOf 0xA5 (rq 6 8 3 0) (lat 0x1FFFC 9 n)
def part : Partial := { it := 3, course := 0, unit := 0, node := 1, val := 9, p := false, ft := 5, own := 0, acq := false, str := 0 }
def cell (n : Nat) (parts : List Partial) : Cell :=
  { (default : Cell) with cx := 1, pa := 0x8FFFC, addr := 0x1FFFC, home := 0, var := 6, ty := 8, pl := false, n := n, parts := parts }
def stCmb (n : Nat) (cs : List Cell) : State := { stM 0 (lat 0 0 0) with cells := cs, cellWaits := [(0, cmb n, part)] }

theorem witness_CombineBarrierAndTickEventsAct_cells :
    let s := stCmb 2 [cell 2 []]
    s.cellWaits = [(0, cmb 2, part)] ∧ (ev 0 0).k = 0#16 ∧ partialPA s (cmb 2) = some 0x8FFFC ∧ partialN (cmb 2) = 2 ∧
      (∀ z ∈ (stCmb 2 []).cells, cellKey z (cmb 2) 0x8FFFC = false) ∧ ((stCmb 2 []).cells.filter fun z => z.home == cellHome 0x8FFFC).length < 64 ∧
      cellKey (cell 2 []) (cmb 2) 0x8FFFC = true ∧ (cell 2 []).parts.length + 1 < 2 ∧ 2 ≤ (cell 2 [part]).parts.length + 1 ∧ (cell 3 []).n ≠ 2 ∧
      cellKey (cell 3 []) (cmb 2) 0x8FFFC = true := by
  decide +kernel

theorem witness_CombineBarrierAndTickEventsAct_ends :
    let x := { cell 2 [part] with idle := 2 ^ 20 }
    let y : Barrier := { cx := 1, scope := 3, num := 0, unit := 0, phase := 1, count := 0, arrivals := 0, due := [(0, 7)] }
    let s := { stCmb 2 [x] with cellWaits := [], barriers := [y], cycles := 7, courses := (stP 0).courses }
    let w := pendOf 0xAD (rq 0 15 0 0) (lat 5 0 0)
    let t := { s with tick := 5 }.modOwn (lat 0 0 0) fun k => { k with waits := [w] }
    s.cells = [x] ∧ s.cellWaits = [] ∧ s.stallBound 1 ≤ x.idle ∧ y.due = [(0, 7)] ∧
      (s.barriers.filter fun z => z.scope != 4#3 && (z.due.head?.map fun d => decide (d.2 ≤ s.cycles)).getD false)[(ev 0 0).k.toNat]? = some y ∧
      t.cast? 0 0 5 = some { Cast.start 0 0 with waits := [w] } ∧ w.op = 0xAD ∧ (t.tick - (w.fir.a.getD (plain 0)).low 64).toNat < 2 ^ 63 ∧
      (t.crs w.fir.course.toNat).holder = some w.fir.cx ∧
      ¬ (({ t with tick := 4 } : State).tick - (w.fir.a.getD (plain 0)).low 64).toNat < 2 ^ 63 := by
  decide +kernel

/-- A write of the first 8 bytes of slot 8191, queued in beat 1. -/
def rw1 : RidgeWrite := { slot := 8191, mask := 0xFF, data := 0x0102030405060708, cx := 1, str := 0, toks := [], beat := 1 }
/-- A control word of a kind. -/
def cw (kind : Nat) : CtlWord := { word := BitVec.ofNat 64 (kind * 2 ^ 61 + 2 * 2 ^ 11), beat := 1, page := 0, cx := 1, str := 0, toks := [], note := none }

theorem witness_RidgeEventsAct_out :
    let s := { (st (lat 0 0 0)).modCrs 0 fun y => { y with port := [rw1] } with beat := 1023 }
    nextOccurrence s = some (1023, 8191) ∧ 1023 ≤ s.beat ∧ slotWinner s 8191 1023 = some 0 ∧
      (s.crs 0).port.filter (fun w => w.slot == 8191 && decide (w.beat + 3 ≤ 1023)) = [] ++ rw1 :: [] ∧ rw1.mask.getLsbD 7 = true ∧
      nextOccurrence { s with beat := 1022 } = some (1023, 8191) ∧ nextOccurrence (st (lat 0 0 0)) = none ∧ nextCtl s = none ∧
      (let t := fun k => { (st (lat 0 0 0)).modCrs 0 fun y => { y with ctl := [cw k] } with beat := 3 }
       nextCtl (t 1) = some (0, cw 1) ∧ nextCtl (t 2) = some (0, cw 2) ∧ ctlBeat (t 1) (cw 1) ≤ (t 1).beat ∧
         (t 1).guardNotes = [] ∧ ({ t 1 with beat := 2 } : State).beat < ctlBeat { t 1 with beat := 2 } (cw 1) ∧ ((t 2).crs 0).ctl = [cw 2] ∧
         (cw 1).word.toNat / 2 ^ 61 = 1 ∧ (cw 2).word.toNat / 2 ^ 61 ≠ 1 ∧ (cw 1).note = none) := by
  decide +kernel

theorem witness_RidgeEventsAct_mirror :
    let x : RidgeChange := { beat := 1, ch := 7, slot := 8191, mask := 0xFF, data := 7, src := 0, by_ := [(1, 0)], ctl := none }
    let y := { x with beat := 2, mask := 1 }
    let s := { st (lat 0 0 0) with changes := [y, x], beat := 6 }
    let c := fun k : Nat => { x with ctl := some (cw k), ch := 8 }
    Memory.wf s.ridge = true ∧ (∀ z ∈ s.changes, z.ch < 16 ∧ z.slot < 8192 ∧ (z.beat + 4 ≤ s.beat → z.ctl = none)) ∧
      x.beat + 4 ≤ s.beat ∧ x.mask.getLsbD (128 * 8191 + 1 - 128 * x.slot) = true ∧ y.mask.getLsbD (128 * 8191 + 1 - 128 * y.slot) = false ∧
      y.mask.getLsbD (128 * 8191 - 128 * y.slot) = true ∧ x.beat * 16 + x.ch < y.beat * 16 + y.ch ∧
      (∀ k ∈ [1, 2, 3], (c k).ctl = some (cw k) ∧ (cw k).word.toNat / 2 ^ 61 = k) ∧ s.rdgWaits = [] ∧
      (cw 3).word.toNat / 2 ^ 36 % 2 ^ 13 = 0 ∧ lkp s.slots 0 = none ∧
      lkp ({ s with slots := [(0, { cx := 0, state := .granted, users := 0, leaving := true })] } : State).slots 0 =
        some { cx := 0, state := .granted, users := 0, leaving := true } ∧
      (lkp ({ s with slots := [(0, { cx := 1, state := .granted, users := 0, leaving := true })] } : State).slots 0).map (fun z => decide (z.cx ≠ 0#12)) =
        some true := by
  decide

/-! Crucibles at work. -/

/-- An operation that waits to start, with an MX.MMA of bf16. -/
def opC (started wantPermit burst done : Bool) : CruOp :=
  { (default : CruOp) with pend := pendOf 0xC3 (rq 0 10 5 0) (latC 0 0 0), started := started, wantPermit := wantPermit, burst := burst, done := done }
def stO (o : CruOp) (permit ballast : Bool) : State :=
  { (st (lat 0 0 0)).setCru 0 3 { cruX with granted := true, cx := 1, ops := [o], permit := permit, ballast := ballast } with
    ctxs := [(0, { Ctx.fresh with runnable := true }), (1, { cx1 with holds := [{ kind := 5, course := 0, p0 := 24, p1 := 0 }] })], tick := 5000, cycles := 1 }
def evC : EvArgs := { ev 0 0 with unit := 3 }

theorem witness_CrucibleEventsAct_operations :
    let s := stO (opC false false false false) false false
    let x := s.cru 0 3
    x.ops[evC.k.toNat]? = some (opC false false false false) ∧ (opC false false false false).started = false ∧ 0 ∈ startable x s.cycles x.ops [] 0 ∧
      (let y := stO { opC false false false false with cyc := 9 } false false
       0 ∉ startable (y.cru 0 3) y.cycles (y.cru 0 3).ops [] 0) ∧
      (let y := stO (opC true false false false) false false
       cruWakes y (opC true false false false).pend = true) ∧
      (opC true false false false).started = true ∧ (opC true false false false).held = false ∧ Pick.fire (opC true false false false).pend ∉ s.agenda ∧
      (opC true false false true).done = true ∧
      (opC true false false true).pend.r.tg ≠ 3#2 ∧ (pendOf 0xC3 (rec 0 10 5 3 true 0x1FFFFF 0x1FFFFF 0) (latC 0 0 0)).r.tg = 3#2 ∧ evC.k = 0#16 := by
  decide +kernel

theorem witness_CrucibleEventsAct_permits :
    let s := stO (opC true true false false) false false
    let t := stO (opC true false true false) true false
    let u := (stO (opC true false true false) true true).modCrs 0 fun y => { y with lastFall := 3001 }
    permitsOut s 0 < 3 * (s.crs 0).step ∧ (s.crs 0).lastRise = 0 ∧ (∀ i, i < 3 → wantsPermit s 0 ((0 + i) % 24) = false) ∧
      wantsPermit s 0 ((0 + 3) % 24) = true ∧ (t.cru 0 3).permit = true ∧ (t.cru 0 3).ballast = false ∧
      (t.cru 0 3).ops.find? (fun q => q.burst) = some (opC true false true false) ∧ ¬ ((u.crs 0).lastFall = 0 ∨ (u.crs 0).lastFall + 2000 ≤ u.tick.toNat) ∧
      (opC true false true false).burstDue ≤ t.cycles ∧ t.cycles < { opC true false true false with burstDue := 99 }.burstDue ∧
      (s.cru 0 3).ops = [] ++ opC true true false false :: [] ∧ (opC true true false false).wantPermit = true ∧
      burstCycles cruX (opC true true false false).pend.r = 24 + 2 ∧ cruX.ra = 1 ∧ (t.crs 0).lastFall = 0 ∧ (u.cru 0 3).ballast = true ∧ (∀ i, i < 3 → (u.cru 0 i).ballast = false) := by
  decide +kernel

/-- R261: a burst of 128 dense rows of e4m3 takes 152 cycles; with both operands e2m1 or sparse it takes less. -/
theorem test_burst_cycles :
    let x := fun (f : BitVec 4) (sp : BitVec 2) => { cruX with ra := 128, aFmt := f, aSparse := sp, b0 := { loaded := true, fmt := f, cols := [] } }
    burstCycles (x 11 0) (rq 0 11 5 0) = 152 ∧ burstCycles (x 13 0) (rq 0 13 5 0) = 24 + 64 ∧ burstCycles (x 10 1) (rq 0 10 5 0) = 24 + 128 := by
  decide

/-! Kernels. -/

/-- Plane 1, which places nothing and has frame map 0. -/
def plE : Plane := { (default : Plane) with maps := [{ idx := 0, slots := 4, gran := 2, dmask := 0 }] }
/-- A kernel of context 1 in a state, on course 0 and bay 0, with pool 0. -/
def kern (st : KState) : Kernel := { (default : Kernel) with cx := 1, serial := 2, state := st, launch := { (default : LaunchRec) with cx := 1, plane := 1 } }
def stKn (ks : List Kernel) : State :=
  { (stP 0).modCrs 0 fun y => { y with loaded := [] } with kernels := ks, planes := [(1, plE)] }

theorem witness_KernelEventsAct_queued :
    let k := kern .waiting
    let s := stKn [k]
    (∀ x ∈ s.kernels, x.cx.toNat = 1 → x.state ≠ .selected) ∧ (s.heads 1).filter (headReady s) = [k] ∧
      (let b := { kern .ended with serial := 1, status := .killed }
       let c := { k with launch := { k.launch with strict := true, pre := [0x100000001] } }
       let t := stKn [b, c]
       (t.heads 1).find? (fun x => x.launch.strict && preFailed t x) = some c) := by
  decide +kernel

theorem witness_KernelEventsAct_starts :
    let k := kern .selected
    let s := stKn [k]
    s.kernels.find? (fun x => x.cx.toNat == 1 && x.state == .selected) = some k ∧ s.kernelPlane k = some plE ∧ holdsSlices s 1 plE = true ∧
      unitsFree s k plE = true ∧ dataPull s 1 plE = none ∧
      (let d := { plE with dats := [{ (default : PDat) with buf := false, va := 0, bytes := [7] }] }
       dataPull (stM1 farBase) 1 d = some 0) ∧ (match startKernel s k with | .ok _ => true | .error _ => false) = true ∧
      (match startKernel { s with planes := [(1, { plE with damaged := true })] } k with | .ok _ => false | .error e => e == (kCFGFETCH, 1)) = true := by
  decide +kernel

theorem witness_KernelEventsAct_gang :
    let k := { kern .starting with launch := { (kern .starting).launch with gn := 1, gid := 7, start := 5000 } }
    let s := { stKn [k] with readyWords := [(7, 0, 3000)] }
    s.kernels.find? (fun x => x.cx.toNat == 1 && x.state == .starting && x.launch.gn != 0 && x.tick == 0) = some k ∧ (ev 0 0).unit ≠ 1#16 ∧
      gangTick s k = some 5000 ∧ gangTick (stKn [k]) k = none ∧ gangWaits s 1 = [k] ∧ gangWaits s 1 = [] ++ k :: [] ∧
      ({ ev 1 0 with ft := 0, unit := 1 } : EvArgs).ft.toNat = ([] : List Kernel).length ∧
      (1 : Nat) ≠ s.sideband.stackNo.toNat ∧ 1 ∈ ({ s with reach := [1] } : State).reach ∧
      (∀ w ∈ s.readyWords, w.1 = k.launch.gid.toNat → w.2.1 ≠ 1) := by
  decide +kernel

theorem witness_KernelEventsAct_injected :
    let k := { kern .starting with frame := some 5 }
    let s := stKn [k]
    let r := { kern .running with info := some plE }
    s.kernels = [k] ∧ k.cx = (ev 0 0).cx ∧ k.state = .starting ∧ k.frame = some 5 ∧ (s.crs 0).holder = some k.cx ∧ (s.crs 0).sweeping = none ∧
      k.launch.gn = 0#11 ∧ s.frame? 0 0 5 = some fr ∧ (s.ctx? 1).isSome = true ∧
      (stKn [r]).kernels.find? (fun x => x.cx.toNat == 1 && x.state == .running && kernelQuiet (stKn [r]) x && (!x.heap || x.endToken)) = some r ∧
      r.frame = none := by
  decide +kernel

/-! Slices. -/

/-- A running kernel of a context, on course 0. -/
def kernR (cx : BitVec 12) : Kernel := { kern .running with cx := cx, info := some pln }
/-- Contexts 1 and 2 of depth 1 with a quantum, each with a running kernel; 1 holds course 0, its slice being over at 100. -/
def stS2 (ks : List Kernel) : State :=
  let x := { cx1 with quantum := 1000 }
  { (stP 0).modCrs 0 fun y => { y with sliceEnd := 100, sliceStart := 50 } with
    ctxs := [(0, { Ctx.fresh with runnable := true }), (1, x), (2, x)], kernels := ks, tick := 100 }

theorem witness_SliceEventsAct_ends :
    let s := stS2 [kernR 1]
    let t := chargeSlice s 0 1 (s.tick.toNat - (s.crs 0).sliceStart)
    let s2 := stS2 [kernR 1, kernR 2]
    let t2 := chargeSlice s2 0 1 (s2.tick.toNat - (s2.crs 0).sliceStart)
    (s.crs 0).holder = some 1 ∧ (s.crs 0).sweeping = none ∧ sliceOver s 0 1 = true ∧ stillContends t 0 1 = true ∧
      othersWait t 0 1 = false ∧ (s2.crs 0).holder = some 1 ∧ (s2.crs 0).sweeping = none ∧ sliceOver s2 0 1 = true ∧ othersWait t2 0 1 = true ∧
      pickHolder t2 0 8 0 = some 2 ∧
      sliceOver { s with tick := 99 } 0 1 = false := by
  decide +kernel

theorem witness_SliceEventsAct_sweeps :
    let s := (stS2 [kernR 1, kernR 2]).modCrs 0 fun y => { y with sweeping := some (1, 90, 2) }
    let free := (stS2 [kernR 2]).modCrs 0 fun y => { y with holder := none }
    (s.crs 0).sweeping = some (1, 90, 2) ∧ linkTokens s 0 1 = [] ∧ issuingOn s 0 1 = false ∧ (∀ x ∈ s.elements, x.2.input = []) ∧ (s.ctx? 1).isSome = true ∧
      90 + (s.ctx 1).floor ≤ ({ s with tick := BitVec.ofNat 64 (90 + (s.ctx 1).floor) } : State).tick.toNat ∧ s.tick.toNat < 90 + (s.ctx 1).floor ∧
      (free.crs 0).holder = none ∧ (free.crs 0).sweeping = none ∧ courseUp free 0 = true ∧ (free.crs 0).exchanged ≠ free.beat + 1 ∧
      nextHolder free 0 = some 2 ∧ (free.crs 0).kept = [] ∧ issuingOn (s.modCrs 0 fun y => { y with walks := [wk true] }) 0 1 = true ∧
      (let v : Saved := { (default : Saved) with cx := 2 }
       ({ free with saved := [v] } : State).saved.filter (fun v => v.cx.toNat == 2 && v.course.toNat == 0) = [v]) := by
  decide +kernel

/-- A fill of plane 1 for context 1. -/
def fil : Fill := { cx := 1, plane := 1, pend := pendOf 0xEC (rq 0 15 1 0) (lat 0 1 0), toks := [], str := 0, ready := true, held := false }
def stFi (p : Option Plane) : State :=
  { (stP 0).modCrs 0 fun y => { y with loaded := [], fill := some fil } with planes := (p.map fun x => (1, x)).toList }

theorem witness_SliceEventsAct_fills :
    let s := stFi (some plE)
    let bad := { plE with maps := [{ idx := 0, slots := 0, gran := 0, dmask := 0 }] }
    let clash := poolClash s 1 plE (unflipped s 1 0)
    (s.crs 0).fill = some fil ∧ fil.ready = true ∧ (s.crs 0).sweeping = none ∧ (s.crs 0).holder = some fil.cx ∧ lkp (stFi none).planes 1 = none ∧
      lkp s.planes 1 = some plE ∧ plE.damaged = false ∧ ({ plE with damaged := true } : Plane).damaged = true ∧ (bad.validateOn 0 (· == 0) clash).isSome = true ∧
      plE.validateOn 0 (· == 0) clash = none ∧ frameBreaks s 1 0 plE = false ∧ (flipPools s 1 0 (activePools s 1 0) plE).isSome = true ∧ (s.crs 0).fillNext = [] ∧
      frameBreaks (stP 0) 1 0 plE = true ∧
      (let q : PPool := { (default : PPool) with course := 0, bay := 2, w0 := 16 }
       let z := { plE with maps := [], pools := [q] }
       let t := stV (2 ^ 63 + 2 ^ 62 + 2 ^ 58 + 2 ^ 57 + 0x200000) 0 { stFi (some z) with ctxs := (stP 0).ctxs } |>.modCtx 1 fun x => { x with
         holds := [{ kind := 2, course := 0, p0 := 0x200000, p1 := 1 + 2 ^ 32 }] }
       z.validateOn 0 (· == 0) (fun _ => false) = none ∧ poolClash t 1 z (unflipped t 1 0) q = true ∧ z.units = [] ∧ z.blocks = [] ∧
         z.damaged = false) := by
  decide +kernel

/-! Power, memory errors, the pod. -/

theorem witness_PowerAndErrorEventsAct_steps :
    let s := { State.reset with telem := { State.reset.telem with temps := [(0, 106)], powers := [2000] } }
    let t := { (stO (opC true true false false) false false) with telem := { State.reset.telem with powers := [1000], lastRaise := 1 }, tick := 100001 }
    s.telem.lastLower = 0 ∧ 105 < tempOf s 0 ∧ (∀ k, k < 16 → k ≠ 0 → ¬ 105 < tempOf s k) ∧ overLimit s = true ∧
      (let u := { s with telem := { s.telem with temps := [] } }
       (∀ k, k < 16 → ¬ 105 < tempOf u k) ∧ (∀ k, k < 16 → k ≠ 0 → (u.crs k).step < (u.crs 0).step ∨ ((u.crs k).step = (u.crs 0).step ∧ 0 < k)) ∧ overLimit u = true) ∧
      t.telem.lastRaise + 100000 ≤ t.tick.toNat ∧ underLimit t = true ∧ (∀ k, k < 16 → tempOf t k ≤ 100) ∧ burstWaits t 0 = true ∧
      (∀ k, k < 16 → k ≠ 0 → burstWaits t k = false) ∧ (∀ k, k < 16 → (t.crs k).step ≤ 8) := by
  decide +kernel

theorem witness_PowerAndErrorEventsAct_sleep :
    let s := { State.reset with tick := 100000 }
    let r := { (State.reset.modCrs 0 fun y => { y with power := .retention, retainedAt := 0 }) with
      tick := 10000000, policy := { State.reset.policy with sleep := 2 } }
    courseQuiet s 0 = true ∧ courseNeeded s 0 = false ∧ (s.crs 0).power = .awake ∧ (s.crs 0).failed = false ∧ s.policy.sleep.getLsbD 0 = true ∧
      (s.crs 0).quietSince + 100000 ≤ s.tick.toNat ∧ courseQuiet r 0 = true ∧ courseNeeded r 0 = false ∧ (r.crs 0).power = .retention ∧
      r.policy.sleep.getLsbD 1 = true ∧ backedOn r 0 = false ∧ (r.crs 0).retainedAt + 10000000 ≤ r.tick.toNat ∧ (r.crs 0).waking = none ∧
      (let f := fun (p : Power) => State.reset.modCrs 0 fun y => { y with power := p, sweeping := some (1, 0, 0) }
       courseNeeded (f .retention) 0 = true ∧ ((f .retention).crs 0).power = .retention ∧ ((f .retention).crs 0).waking = none ∧
         courseNeeded (f .off) 0 = true ∧ ((f .off).crs 0).power = .off ∧ ((f .off).crs 0).waking = none ∧
         (let w := { (f .off) with cycles := 70000 }.modCrs 0 fun y => { y with waking := some (70000, 71024) }
          (w.crs 0).waking = some (70000, 71024) ∧ (w.crs 0).power = .off ∧ 70000 ≤ w.cycles ∧ caughtUp w (w.crs 0) = w.ridge ∧
            caughtUp (w.modCrs 0 fun y => { y with mirror := some [(0, 1)] }) ((w.modCrs 0 fun y => { y with mirror := some [(0, 1)] }).crs 0) ≠ w.ridge) ∧
         (let w := { (f .off) with cycles := 69999 }.modCrs 0 fun y => { y with waking := some (70000, 71024) }
          (w.crs 0).waking = some (70000, 71024) ∧ w.cycles < 70000)) ∧ 7 ≤ State.reset.sideband.phase.toNat := by
  decide +kernel

theorem witness_PowerAndErrorEventsAct_errors :
    let s := State.reset
    (ev 0 5).k = 0#16 ∧ (ev 1 0).k = 1#16 ∧ s.frame? 0 0 (ev 1 0).ft.toNat = none ∧ (ev 2 7).k = 2#16 ∧ (ev 3 0).k = 3#16 ∧ (s.crs 0).power ≠ .off ∧
      (ev 4 1).k = 4#16 ∧ lkp ({ s with planes := [(1, plE)] } : State).planes ((ev 4 1).aux.toNat % 2 ^ 16) = some plE ∧ (ev 5 0).k = 5#16 ∧
      (ev 5 (2 ^ 36 - 1)).aux.toNat < farSize ∧ 0 ∉ s.telem.failedPipes ∧ 0 ∈ ({ s.telem with failedPipes := [0] } : Telem).failedPipes ∧ (s.crs 0).failed = false := by
  decide +kernel

/-- R453: an access homed in the SRAM of a course in retention waits, and the course begins its wake of 2 µs. -/
theorem test_access_wakes_its_home :
    let s := { ((stM 0 (lat 0x80000 9 4)).modCrs 0 fun y => { y with power := .retention }) with cycles := 5, ctxs := [(0, Ctx.fresh)] }
    (callHome s 0 0x80000 8).crs 0 = { s.crs 0 with waking := some (2805, 2805) } ∧ s.firstAsleep (at8 0 8) = some 0 ∧
      ((stM 0 (lat 0 0 0)).firstAsleep (at8 0 8)) = none := by
  decide +kernel

/-! The host. -/

/-- A message, and the state in which it waits. -/
def msg (opc cx : Nat) (p0 p1 : Word) (pay : List Byte) : Msg :=
  { opc := BitVec.ofNat 8 opc, flags := 0, tag := 255, cx := BitVec.ofNat 16 cx, status := 0, p0 := p0, p1 := p1, payload := pay }
def words8 (l : List Nat) : List Byte := l.flatMap (leBytes 8)
def stMs (m : Msg) : State := { stKn [] with hostIn := [m] }

theorem taken_reset {m : Msg} (h : m.malformed = false) : msgTaken (stMs m) m [] := ⟨rfl, rfl, rfl, rfl, List.pairwise_singleton _ _, h⟩

theorem witness_HostMessagesAct_window :
    let s := { State.reset with windowIn := [(farSize - 8, words8 [7])], sigs := [{ cx := 1, ep := 63, val := 9 }] }
    s.windowIn = [(farSize - 8, words8 [7])] ∧ windowOk (farSize - 8) (words8 [7]).length = true ∧ s.linkUp = true ∧
      s.sigs.find? (fun y => y.ep == (ev 63 0).k.toNat) = some { cx := 1, ep := 63, val := 9 } ∧ (msg 2 4096 0 0 []).malformed = true ∧
      (msg 2 4095 0 0 []).malformed = false := by
  decide +kernel

/-- A creation record: nothing held, SBC 8. -/
def crec : List Nat := [0, 0, 8 * 2 ^ 43, 0, 0, 0, 0, 0]

theorem witness_HostMessagesAct_contexts :
    let m := msg 1 0 0 0 (words8 crec)
    let s0 := { stMs m with hostIn := [] }
    msgTaken (stMs m) m [] ∧ m.opc = 1#8 ∧ creationOf (wordsOf 8 m.payload) = some (0, 0, 0, 8, 0) ∧
      (match createChild s0 0 (wordsOf 8 m.payload) [] with | .ok _ => true | .error _ => false) = true ∧
      (match createChild s0 0 (wordsOf 8 m.payload) [{ kind := 5, course := 0, p0 := 24, p1 := 0 }, { kind := 5, course := 0, p0 := 1, p1 := 0 }] with
        | .ok _ => false | .error e => e.1 == kHOLDING) = true ∧
      depthOne s0 1 = true ∧ depthOne s0 9 = false :=
  ⟨taken_reset (by decide +kernel), rfl, by decide +kernel, by decide +kernel, by decide +kernel, by decide +kernel, by decide +kernel⟩

/-- An object with empty PLN, FRM and SYM sections. -/
def objBytes : List Byte :=
  leBytes 4 0x4F584345 ++ leBytes 4 2 ++ leBytes 4 3 ++ leBytes 4 192 ++ List.replicate 32 0 ++ leBytes 4 0x40 ++ List.replicate 12 0 ++
    (leBytes 4 0x204E4C50 ++ leBytes 4 128 ++ leBytes 4 0 ++ leBytes 4 0) ++ (leBytes 4 0x204D5246 ++ leBytes 4 128 ++ leBytes 4 16 ++ leBytes 4 0) ++
    (leBytes 4 0x204D5953 ++ leBytes 4 192 ++ leBytes 4 0 ++ leBytes 4 0) ++ List.replicate 80 0

theorem witness_HostMessagesAct_objects :
    let m := msg 3 0 0xFFFF 0 objBytes
    let s0 := { stMs m with hostIn := [] }
    m.malformed = false ∧ m.p0.toNat < 2 ^ 16 ∧ (match readObject s0 0xFFFF objBytes with | .ok p => !(putBreaks s0 0xFFFF p) | .error _ => false) = true ∧
      (match readObject s0 0xFFFF [] with | .ok _ => false | .error e => e == 4) = true ∧
      (s0.planes.map fun x => x.2.bytes).sum + 192 ≤ 2 ^ 34 ∧ putBreaks (stP 0) 1 plE = true := by
  decide +kernel

/-- A LAUNCH record of context 1: block 0 on course 0 and bay 0 of a plane, no arguments. -/
def lrec (plane : Nat) : List Nat := [2 ^ 48 + plane * 2 ^ 32 + 2 ^ 21, 0, 0, 0, 0, 0, 0, 0]

theorem witness_HostMessagesAct_launch :
    let m := msg 4 1 0 0 (words8 (lrec 1))
    let s0 := { stMs m with hostIn := [], planes := [(1, pln)] }
    m.malformed = false ∧ (s0.ctx? 1).isSome = true ∧ s0.ctx? 9 = none ∧ (wordsOf 8 m.payload).getD 0 0 / 2 ^ 48 % 2 ^ 12 = 1 ∧
      (match queueLaunch s0 (wordsOf 8 m.payload) [] true with | .ok _ => true | .error _ => false) = true ∧
      (match queueLaunch { s0 with kernels := List.replicate 64 (kern .queued) } (wordsOf 8 m.payload) [] true with
        | .ok _ => false | .error e => e == (kHOLDING, 6)) = true ∧
      (match queueLaunch s0 (lrec 2) [] true with | .ok _ => false | .error e => e == (kCFGFETCH, 0)) = true := by
  decide +kernel

/-- Context 1 with a structure page (class 3) at 0x200000, and endpoint 63. -/
def stEp (m : Msg) : State :=
  { stV (2 ^ 63 + 2 ^ 62 + 3 * 2 ^ 59 + 2 ^ 58 + 2 ^ 57 + 0x200000) 0 (stMs m) with
    ctxs := [(0, { Ctx.fresh with runnable := true }), (1, { cx1 with
      troot := 0x40000, holds := [{ kind := 2, course := 0, p0 := 0x200000, p1 := 1 + 2 ^ 32 }, { kind := 8, course := 0, p0 := 0, p1 := 2 ^ 63 }] })] }

theorem witness_HostMessagesAct_endpoint :
    let m := msg 11 1 63 9 (words8 [0xFFF8])
    let s0 := { stEp m with hostIn := [] }
    m.malformed = false ∧ m.payload.length = 8 ∧ m.p0.toNat < 64 ∧ (s0.ctx? 1).isSome = true ∧ (∀ c, c < 16 → s0.asleep c = false) ∧
      epPull s0 m = s0 ∧ s0.holdsEndpoint 1 63 = true ∧ s0.holdsEndpoint 1 62 = false ∧
      (match epWord s0 1 (fld m.payload 0 8) with | .ok a => a == 0x20FFF8 | .error _ => false) = true ∧
      (match epWord s0 1 0x10000 with | .ok _ => false | .error e => e == (kPAGE, 0)) = true ∧ (s0.stag 0x20FFF8).full = false ∧ (s0.stag 0x20FFF8).res = false ∧
      (({ s0 with stags := [(0x20FFF8, { full := true, res := false, wait := false, pool := 0, head := none, tail := none })] } : State).stag 0x20FFF8).full = true := by
  decide +kernel

/-- A MEM_COPY of 8 bytes of far memory by context 0. -/
def cpy (dir : Nat) : Msg := msg 5 0 (BitVec.ofNat 64 farBase) (BitVec.ofNat 64 farBase) (words8 [dir * 2 ^ 62 + 8])

theorem witness_HostMessagesAct_copies :
    (∀ d ∈ [0, 1, 2], (cpy d).malformed = false ∧ copyArgs (stMs (cpy d)) (cpy d) = some (d, 8) ∧ copyDir (cpy d) = d) ∧
      (∀ w, (match hostBytes (stMs (cpy 0)) 0 w farBase 8 with | .ok as => as.length == 8 | .error _ => false) = true) ∧
      (∀ c, c < 16 → (stMs (cpy 0)).asleep c = false) ∧ (∀ d ∈ [0, 1, 2], copyPull (stMs (cpy 0)) (cpy d) d 8 = stMs (cpy 0)) ∧
      (match hostBytes (stMs (cpy 0)) 0 true (2 ^ 54) 8 with | .ok _ => false | .error e => e == (kPAGE, 0, 2 ^ 54)) = true := by
  decide +kernel

/-- Two messages of one tag. -/
theorem witness_HostMessagesAct_repeat :
    let m := msg 9 0 4 0 []
    let s := { stKn [] with hostIn := [m, msg 1 0 0 0 []] }
    s.linkUp = true ∧ s.sideband.phase = 7#4 ∧ (msg 1 0 0 0 []).tag = m.tag ∧ m.opc = 9#8 ∧ m.p0 = 4 ∧ m.malformed = false ∧
      m.payload.length < 2 ^ 32 ∧ (msg 3 0 0 0 [0]).payload.length % 8 ≠ 0 := by
  decide +kernel

/-- Host memory has room for an image when its length is at most the capacity; no image has room in none. -/
theorem witness_HostMessagesAct_checkpoint (cap : Nat) (s : State) :
    let z := freezeAll s (capturedCxs s 1)
    (imageSize (captureOf z 1 (capturedCxs s 1) (capturedRanges z 1) (scanOut z)) ≤ cap → ∃ t n, checkpointAt s 1 true 0 cap = some (t, n)) ∧
      checkpointAt s 1 true 0 0 = none ∧ 0 < imageSize (debugCapture s (scanOut s)) := by
  refine ⟨fun h => ⟨_, _, by rw [checkpointAt, writeImage, if_neg (by omega)]; rfl⟩, ?_, by rw [imageSize]; omega⟩
  rw [checkpointAt, writeImage, if_pos (by rw [imageSize]; omega)]; rfl

/-- A capture with nothing in it, whose image is its 128 bytes of header and table and its digest. -/
def cap0 : Capture := { (default : Capture) with root := 0 }
def stIm : State := { State.reset with captures := [cap0], hostMem := Memory.putBytes [] 0 (imageOf 0 cap0) }

theorem body0_length : (imageBody 0 cap0).length = 128 := by decide +kernel

theorem image0 {i n : Nat} (h : i + n ≤ 128) : Memory.bytes stIm.hostMem i n = ((imageBody 0 cap0).drop i).take n := by
  have hl : (imageOf 0 cap0).length = 192 := by
    rw [imageOf, List.length_append, body0_length]; simp [digestBytes, leBytes]
  have := Memory.bytes_putBytes (m := []) rfl 0 (imageOf 0 cap0) (i := i) (n := n) (by omega)
  rw [Nat.zero_add] at this
  rw [show stIm.hostMem = Memory.putBytes [] 0 (imageOf 0 cap0) from rfl, this, imageOf,
    List.drop_append_of_le_length (by rw [body0_length]; omega), List.take_append_of_le_length (by rw [List.length_drop, body0_length]; omega)]

theorem witness_HostMessagesAct_restore :
    imageAt stIm 0 = some cap0 ∧ cap0.debug = false ∧ captureFits stIm cap0 = true ∧ imageAt State.reset 0 = none ∧
      captureFits stIm { cap0 with root := 1, ctxs := [(0, default)] } = false := by
  refine ⟨?_, rfl, by decide +kernel, by decide +kernel, by decide +kernel⟩
  have hd : Memory.bytes stIm.hostMem 128 64 = digestBytes (imageBody 0 cap0) := by
    have hl : (imageOf 0 cap0).length = 192 := by
      rw [imageOf, List.length_append, body0_length]; simp [digestBytes, leBytes]
    have := Memory.bytes_putBytes (m := []) rfl 0 (imageOf 0 cap0) (i := 128) (n := 64) (by omega)
    rw [show stIm.hostMem = Memory.putBytes [] 0 (imageOf 0 cap0) from rfl, this, imageOf, ← body0_length, List.drop_left]
    exact List.take_of_length_le (by simp [digestBytes, leBytes])
  have hb : Memory.bytes stIm.hostMem 0 128 = imageBody 0 cap0 := by
    rw [image0 (by omega), List.drop_zero]; exact List.take_of_length_le (by rw [body0_length])
  have w : ∀ i n, i + n ≤ 128 → fld (Memory.bytes stIm.hostMem (0 + i) n) 0 n = fld (((imageBody 0 cap0).drop i).take n) 0 n := by
    intro i n h; rw [Nat.zero_add, image0 h]
  have w1 : fld (((imageBody 0 cap0).drop 0x64).take 4) 0 4 = 128 := by decide +kernel
  have w2 : fld (((imageBody 0 cap0).drop 0x6C).take 4) 0 4 = 0 := by decide +kernel
  have w3 : fld (((imageBody 0 cap0).drop 0x44).take 4) 0 4 = 128 := by decide +kernel
  have w4 : fld (((imageBody 0 cap0).drop 0x48).take 4) 0 4 = 0 := by decide +kernel
  have w5 : fld (((imageBody 0 cap0).drop 0).take 4) 0 4 = 0x4B584345 := by decide +kernel
  simp only [imageAt, w _ _ (show 0x64 + 4 ≤ 128 by decide), w _ _ (show 0x6C + 4 ≤ 128 by decide), w _ _ (show 0x44 + 4 ≤ 128 by decide),
    w _ _ (show 0x48 + 4 ≤ 128 by decide), w _ _ (show 0 + 4 ≤ 128 by decide), w1, w2, w3, w4, w5, readRanges, pad64,
    Nat.zero_add, Nat.reduceAdd, Nat.reduceSub, Nat.reduceDiv, Nat.reduceMul, Nat.add_zero, hb, hd, bne_self_eq_false, Bool.or_self,
    Bool.false_eq_true, if_false]
  decide +kernel

theorem witness_HostMessagesAct_rest :
    (msg 8 0 0 0 (List.replicate 64 0)).malformed = false ∧ (msg 9 0 4 0 []).malformed = false ∧ (msg 9 0 5 0 []).malformed = false ∧
      (msg 12 0 0 600 []).malformed = false ∧ (msg 12 0 0 1800 []).malformed = false ∧ (msg 12 0 4 0 (List.replicate 512 0)).malformed = false ∧
      State.reset.policy.keys.length < 8 ∧ State.reset.created = false ∧ ({ State.reset with created := true } : State).created = true := by
  decide +kernel

/-! ### The step, the encoding, the whole machine -/

theorem witness_StepRunsTheDecodedInstruction_agenda :
    let w : BitVec 104 := encode .powerGood
    let s := { State.reset with agenda := [.event w] }
    s.agenda = .event w :: [] ∧ decodeStep w = .ok .powerGood ∧ decodeStep 0 = .error .emptySlot ∧ Instr.wellFormed .powerGood = true ∧
      State.reset.agenda = [] :=
  ⟨rfl, rfl, rfl, rfl, rfl⟩

/-- An element with node 1 ready and its operands present. -/
def stI : State :=
  { stW 0x30 { frB 6 with slots := [(1, plain 3), (2, plain 4)] } (tokTo 4 3 false) with transit := [] }.modElem 0 0 fun y => { y with
    ready := [{ cx := 1, ft := 5, it := 3, node := 1, arrived := none, waited := 0, cyc := 0, pl := false, born := 0 }] }

theorem witness_StepRunsTheDecodedInstruction_issue :
    ∃ w v, issueAt stI 0 0 = some (w, v) ∧ decodeRecord w = .ok (.add (rq 0 7 1 0)) :=
  ⟨_, _, rfl, rfl⟩

/-- Nothing prescribed: a change of the Ridge is due, or nothing is. -/
theorem witness_StepRunsTheDecodedInstruction_due :
    State.reset.agenda = [] ∧ dueMove State.reset = none ∧
      (dueMove { State.reset with beat := 5, changes := [{ beat := 1, ch := 8, slot := 0, mask := 0, data := 0, src := 16, by_ := [], ctl := none }] }).isSome = true := by
  decide +kernel

/-- A stack in bring-up makes its one move, and one that is FROZEN with no message makes none. -/
theorem witness_StepRunsTheDecodedInstruction_chosen :
    let s := { State.reset with sideband := { phase := 0, ready := false, frozen := false, stackNo := 0 } }
    let t := passTime s (stepCycles s)
    let z := { State.reset with sideband := { State.reset.sideband with frozen := true } }
    let u := passTime z (stepCycles z)
    dueMove s = none ∧ dueMove t = none ∧ choose t (candidates t) = some (eventOf .powerGood) ∧ dueMove z = none ∧ dueMove u = none ∧ choose u (candidates u) = none :=
  ⟨rfl, rfl, rfl, rfl, rfl, rfl⟩

theorem witness_StepRunsTheDecodedInstruction_bringUp :
    let s := { State.reset with sideband := { phase := 6, ready := false, frozen := false, stackNo := 0 }, cycles := readyBy }
    s.sideband.phase ≠ 7#4 ∧ s.sideband.phase ≠ 0#4 ∧ readyBy ≤ s.cycles ∧ s.agenda = [] := by
  decide

theorem witness_EncodeDecodeRoundTrip :
    Instr.wellFormed (.add (rec 0 7 1 0 false 0x4000 0x1FFFFF 0)) = true ∧
      Instr.wellFormed (.stall { course := 15, unit := 0xFFFF, ft := 0xFFF, k := 0xFFFF, cx := 0xFFF, aux := 0xFFFFFFFFF }) = true := by
  decide

theorem witness_StepKeepsMemoryCanonical : MemoryCanonical State.reset := ⟨rfl, rfl, rfl⟩

theorem witness_ResetStateHolds : msgTaken (stMs (msg 10 0 0 0 [])) (msg 10 0 0 0 []) [] := taken_reset (by decide)

theorem witness_ComputingNodesChangeNothingElse :
    let s := st (lat 3 4 0)
    instrOfOp 0x30 (rq 0 7 1 0) = some (.add (rq 0 7 1 0)) ∧ (∃ c ft it, tagOf s (rq 0 7 1 0) s.firing = .ok c ft it) ∧
      s.frame? s.firing.course.toNat s.firing.bay s.firing.ft.toNat = some fr ∧ (∃ t, exec (.add (rq 0 7 1 0)) s = .next t) :=
  ⟨rfl, ⟨_, _, _, rfl⟩, rfl, ⟨_, rfl⟩⟩

/-! ### One step, with results that the spec states -/

/-- A record with D0 = node 0 of element 64. -/
def r1 (var ty ar lit : Nat) (pl : Bool) : NodeRec := rec var ty ar 0 pl 0x4000 0x1FFFFF lit

/-- The value of the first outgoing token of the issuing cast, and the flags of the cast. -/
def sentBy (o : Host.Outcome State Fault Refusal) : Option (Nat × Nat) :=
  match o with
  | .next s => (s.cast? 0 0 5).bind fun k => k.out.head?.map fun t => (t.tok.val.toNat, k.flags.toNat)
  | _ => none

/-- The value of the first outgoing token alone. -/
def valueOf (o : Host.Outcome State Fault Refusal) : Option Nat := (sentBy o).map Prod.fst

/-- R134, R135: 127 + 1 of i8 wraps to −128 and is sign-extended through bit 63. -/
theorem test_add_wraps : sentBy (exec (.add (r1 0 0 1 0 false)) (st (lat 127 1 0))) = some (0xFFFFFFFFFFFFFF80, 0) := by decide +kernel

/-- R184: SHR on i8 0xFE by 1 gives 127, and SAR gives −1. -/
theorem test_shr_example : valueOf (exec (.shr (r1 0 0 1 0 false)) (st (lat 0xFE 1 0))) = some 127 := by decide +kernel
theorem test_sar_example : valueOf (exec (.sar (r1 0 0 1 0 false)) (st (lat 0xFE 1 0))) = some 0xFFFFFFFFFFFFFFFF := by decide +kernel

/-- R158: a zero divisor gives all ones and the flag IDZ; the minimum divided by −1 gives the minimum. -/
theorem test_div_by_zero : (sentBy (exec (.div (r1 0 4 1 0 false)) (st (lat 7 0 0)))).map (fun x => (x.1, x.2 == iDZ.toNat)) = some (0xFF, true) := by
  decide +kernel
theorem test_div_minimum : valueOf (exec (.div (r1 0 0 1 0 false)) (st (lat 0x80 0xFF 0))) = some 0xFFFFFFFFFFFFFF80 := by decide +kernel

/-- R183: SUB takes B from A, and REM takes the sign of the dividend. -/
theorem test_sub_order : valueOf (exec (.sub (r1 0 6 1 0 false)) (st (lat 5 7 0))) = some 0xFFFFFFFE := by decide +kernel
theorem test_rem_sign : valueOf (exec (.rem (r1 0 0 1 0 false)) (st (lat 0xF9 2 0))) = some 0xFFFFFFFFFFFFFFFF := by decide +kernel

/-- R185: 12 is not below 12 (CMP.lt), and −1 is below 0 as i8, not as n8. -/
theorem test_cmp_lt : valueOf (exec (.cmp (r1 2 0 1 0 false)) (st (lat 12 12 0))) = some 0 := by decide +kernel
theorem test_cmp_signs :
    valueOf (exec (.cmp (r1 2 0 1 0 false)) (st (lat 0xFF 0 0))) = some 1 ∧ valueOf (exec (.cmp (r1 2 4 1 0 false)) (st (lat 0xFF 0 0))) = some 0 := by
  decide +kernel

/-- R122: LIT = 0x8000_0002 reads K2. -/
theorem test_literal_k2 :
    valueOf (exec (.add (r1 0 6 2 0x80000002 false)) ((st (lat 5 0 0)).modElem 0 0 fun y => { y with k := [(2, 30)] })) = some 35 := by
  decide +kernel

/-- R161: STEER sends A on D0 when bit 0 of B is 1, and else on D1, which this record does not have. -/
theorem test_steer :
    valueOf (exec (.steer (r1 0 7 1 0 false)) (st (lat 9 1 0))) = some 9 ∧ valueOf (exec (.steer (r1 0 7 1 0 false)) (st (lat 9 2 0))) = none := by
  decide +kernel

/-- R200 and the note on literals: VFMAX with the literal +0.0 gives 0 for −1.0 and keeps 2.0. -/
theorem test_vfmax_relu :
    (valueOf (exec (.vfmax (r1 0 8 2 0 true)) (st (lat (0xBF800000 + 0x40000000 * 2 ^ 32) 0 0)))).map (fun v => (v % 2 ^ 32, v / 2 ^ 32 % 2 ^ 32)) =
      some (0, 0x40000000) := by
  decide +kernel

/-- R210: VRND.rz gives −0.0 for −0.75 and 2.0 for 2.5; VRND.rne gives 2.0 for 2.5 and 4.0 for 3.5. -/
theorem test_vrnd_examples :
    fIntegral f32 1 0xBF400000 = 0x80000000 ∧ fIntegral f32 1 0x40200000 = 0x40000000 ∧ fIntegral f32 0 0x40200000 = 0x40000000 ∧
      fIntegral f32 0 0x40600000 = 0x40800000 := by
  decide +kernel

/-- R208: SFOP.mul with LIT 0x3F00_0000 multiplies by 0.5. -/
theorem test_sfop_half : valueOf (exec (.sfop (r1 2 8 2 0x3F000000 false)) (st (lat 0x40400000 0 0))) = some 0x3FC00000 := by decide +kernel

/-- R138: 1.0 is 0x38 in e4m3, 64.0 is 0x68 and 5.0 is 0x4A. -/
theorem test_e4m3_examples :
    [0x3F800000, 0x42800000, 0x40A00000].map (fun c => (cvtLane 8 11 { mode := 0 } c).code) = [0x38, 0x68, 0x4A] := by
  decide +kernel

/-- R157: q(2^−6) is 2^26. -/
theorem test_grid_example : gridQ (f32.decode 0x3C800000) = (0x4000000, 0) := by decide +kernel

/-- R166, R125: TAGGET answers the context tag, in which IT stands above FT. -/
theorem test_tagget : valueOf (exec (.tagget (r1 0 7 0 0 false)) (st (lat 0 0 0))) = some (3 * 2 ^ 12 + 5) := by decide +kernel

/-- R288: CSR.RD of TIME (0x018) sends the pod time base; a number that is not listed faults with PROT 18. -/
theorem test_csr_time : valueOf (exec (.csrRd (r1 0 15 0 0x018 false)) { st (lat 0 0 0) with tick := 77 }) = some 77 := by decide +kernel
theorem test_csr_unlisted :
    (match exec (.csrRd (r1 0 15 0 0x7FF false)) (st (lat 0 0 0)) with
      | .next s => ((s.cast? 0 0 5).bind Cast.fault).map fun x => (x.2.kind.toNat, x.2.aux.toNat)
      | _ => none) = some (2, 18) := by
  decide +kernel

/-- R291: a hard TRAP is a fault of kind 20 with its code and A as data. -/
theorem test_trap :
    (match exec (.trap (r1 0 15 0 0x1234 false)) (st (lat 99 0 0)) with
      | .next s => ((s.cast? 0 0 5).bind Cast.fault).map fun x => (x.2.kind.toNat, x.2.aux.toNat, x.2.data0.toNat)
      | _ => none) = some (20, 0x1234, 99) := by
  decide +kernel

/-- R218 and R219: the bytes of a performed store lie in memory, least significant first. -/
theorem test_store_bytes :
    (match performStore (stM 0 (lat 0x10000 0 0)) (pendOf 0x91 (rq 0 5 1 0) (lat 0x10000 0xABCD 0)) with
      | .done s => s.mem
      | _ => []) = [(0x80000, 0xCD), (0x80001, 0xAB)] := by
  decide +kernel

/-- R225: ATOM.add on a full byte wraps, and memory takes the sum. -/
theorem test_atom_add :
    (match performAtomic { stM 0 (lat 0x10000 2 0) with mem := [(0x80000, 0xFF)] } (pendOf 0xA0 (rq 0 4 1 0) (lat 0x10000 2 0)) with
      | .done s => s.mem
      | _ => []) = [(0x80000, 1)] := by
  decide +kernel

/-- R454: POWER_GOOD leads from phase 6 to READY. -/
theorem test_power_good :
    (match exec .powerGood { State.reset with sideband := { phase := 6, ready := false, frozen := false, stackNo := 0 } } with
      | .next s => (s.sideband.phase.toNat, s.sideband.ready)
      | _ => (0, false)) = (7, true) := by
  decide +kernel

/-- R448: a power limit of 599 W is refused with BAD_MSG, and 600 W stands. -/
theorem test_power_limit :
    (match exec .policyPowerLimit (stMs (msg 12 0 0 599 [])) with | .next s => (s.policy.power, s.hostOut.map fun m => m.status.toNat) | _ => (0, [])) = (1800, [1]) ∧
      (match exec .policyPowerLimit (stMs (msg 12 0 0 600 [])) with | .next s => (s.policy.power, s.hostOut.map fun m => m.status.toNat) | _ => (0, [])) = (600, [0]) := by
  decide +kernel

/-- A step fetches the word that stands next: HOST_LINK_DOWN placed after reset runs. -/
theorem test_step_fetches :
    (match step (State.reset.withFetchWord 104 (encode .hostLinkDown).toNat) with | .next s => s.linkUp | _ => true) = false := by
  decide +kernel

end Sys2Proof.Tests
end

section
/-! PROOF. The checks of a frame word at TAGSET, ITER, STRAND and FREE.FRM (R43, R166, R170, R172, R179). -/

namespace Sys2Proof.Machine

/-! ### The rows that a context's frame words reach (R43, R125) -/

theorem State.ownFrame?_eq_none {s : State} {cx : BitVec 12} {c b ft : Nat}
    (h : ∀ f, s.frame? c b ft = some f → f.cx ≠ cx) : s.ownFrame? cx c b ft = none := by
  simpa [State.ownFrame?, Option.filter_eq_none_iff] using h

theorem State.ownFrame?_eq_some {s : State} {cx : BitVec 12} {c b ft : Nat} {f : Frame}
    (h : s.frame? c b ft = some f) (hcx : f.cx = cx) : s.ownFrame? cx c b ft = some f := by
  simp [State.ownFrame?, h, hcx]

theorem inOwnBay_iff (g : Firing) (w : FrameRef) :
    inOwnBay g w = true ↔ w.kind = 0 ∧ w.course = g.course.toNat ∧ w.unit = g.bay := by
  simp [inOwnBay, and_assoc]

theorem inOwnBay_eq_false {g : Firing} {w : FrameRef} (h : w.kind ≠ 0 ∨ w.course ≠ g.course.toNat ∨ w.unit ≠ g.bay) :
    inOwnBay g w = false := by
  rw [← Bool.not_eq_true, inOwnBay_iff]
  tauto

/-- No operand is poisoned when their union is not. -/
theorem argsCtl_a_p {s : State} {r : NodeRec} {g : Firing} (h : (argsCtl s r g).p = false) : (argsCtl s r g).a.p = false := by
  simp only [argsCtl, argsOf, Bool.or_eq_false_iff] at h ⊢
  obtain ⟨⟨⟨ha, -⟩, -⟩, -⟩ := h
  exact ha

/-! ### A frame instruction that acts (R166, R170, R172, R179) -/

section
variable {s : State} {r : NodeRec} (h : actsFreely s r (argsCtl s r s.firing))
include h

/-- TAGSET, ITER, STRAND and FREE.FRM check their frame word in the same two steps: its bay, then its row. -/
theorem frameInstr_checks {i : Instr} (hi : i ∈ [Instr.tagset r, .iter r, .strand r, .freeFrm r]) :
    (inOwnBay s.firing (frameRef (argsCtl s r s.firing).a.word) = false → exec i s = .next (fault s s.firing kTAG 7)) ∧
    (inOwnBay s.firing (frameRef (argsCtl s r s.firing).a.word) = true →
      s.ownFrame? s.firing.cx s.firing.course.toNat s.firing.bay (frameRef (argsCtl s r s.firing).a.word).ft = none →
      exec i s = .next (fault s s.firing kTAG 1)) := by
  have ⟨_, _, _, _, hp⟩ := h
  have hap := argsCtl_a_p hp
  simp only [List.mem_cons, List.not_mem_nil, or_false] at hi
  rcases hi with rfl | rfl | rfl | rfl
  · exact ⟨fun hw => by simp [exec, execTagset, actNode_free _ h, hp, hw],
      fun hw hf => by simp [exec, execTagset, actNode_free _ h, hp, hw, hf]⟩
  · exact ⟨fun hw => by simp [exec, execIter, actNode_free _ h, hap, hw],
      fun hw hf => by simp [exec, execIter, actNode_free _ h, hap, hw, hf]⟩
  · exact ⟨fun hw => by simp [exec, execStrand, actNode_free _ h, hp, hw],
      fun hw hf => by simp [exec, execStrand, actNode_free _ h, hp, hw, hf]⟩
  · exact ⟨fun hw => by simp [exec, execFreeFrm, actNode_free _ h, hp, hw],
      fun hw hf => by simp [exec, execFreeFrm, actNode_free _ h, hp, hw, hf]⟩

/-- TAGSET and ITER take no frame that is the own one, has a live cast or holds a token. -/
theorem frameInstr_inUse {i : Instr} {f own : Frame} (hi : i = .tagset r ∨ i = .iter r)
    (hw : inOwnBay s.firing (frameRef (argsCtl s r s.firing).a.word) = true)
    (hf : s.ownFrame? s.firing.cx s.firing.course.toNat s.firing.bay (frameRef (argsCtl s r s.firing).a.word).ft = some f)
    (hown : s.frame? s.firing.course.toNat s.firing.bay s.firing.ft.toNat = some own)
    (hu : (frameRef (argsCtl s r s.firing).a.word).ft = s.firing.ft.toNat ∨ f.link.lc = true ∨ f.pres ≠ 0#64) :
    exec i s = .next (fault s s.firing kTAG 8) := by
  have ⟨_, _, _, _, hp⟩ := h
  have hap := argsCtl_a_p hp
  rcases hi with rfl | rfl
  · have hb : (f.link.lc || f.pres != 0 || (frameRef (argsCtl s r s.firing).a.word).ft == s.firing.ft.toNat) = true := by
      rcases hu with hu | hu | hu <;> simp [hu]
    simp only [exec, execTagset, actNode_free _ h, hp, hw, hf, hb]
    rfl
  · have hb : (own.nv || (frameRef (argsCtl s r s.firing).a.word).ft == s.firing.ft.toNat || f.link.lc || f.pres != 0) = true := by
      rcases hu with hu | hu | hu <;> simp [hu]
    simp only [exec, execIter, actNode_free _ h, hap, hw, hf, hown, hb]
    rfl
end

/-- Settles O6, by the two checks that the four instructions share (`frameInstr_checks`) and the third of TAGSET and ITER. -/
theorem frameWordChecksTrap : Obligations.FrameWordChecksTrap := by
  unfold Obligations.FrameWordChecksTrap
  intro r s i hi g c a w h
  obtain ⟨hbay, hrow⟩ := frameInstr_checks h hi
  refine ⟨fun hw => hbay (inOwnBay_eq_false hw), ?_, ?_⟩
  · intro hk hc hu hf
    exact hrow ((inOwnBay_iff _ _).mpr ⟨hk, hc, hu⟩) (State.ownFrame?_eq_none hf)
  · intro f own hi' hk hc hu hf hcx hown huse
    exact frameInstr_inUse h hi' ((inOwnBay_iff _ _).mpr ⟨hk, hc, hu⟩) (State.ownFrame?_eq_some hf hcx) hown huse

end Sys2Proof.Machine
end

section
/-! PROOF. Arrivals at barriers (R44, R236, R237). -/

namespace Sys2Proof.Machine

/-! ### Barriers (R236, R237) -/

@[simp] theorem pendOf_r (op : Nat) (r : NodeRec) (g : Firing) : (pendOf op r g).r = r := recFields_recWord op r
@[simp] theorem pendOf_fir (op : Nat) (r : NodeRec) (g : Firing) : (pendOf op r g).fir = g := rfl

/-- The delays of R44, by the scope field of a barrier. -/
theorem barrierDelay_toNat (x : BitVec 3) :
    barrierDelay x.toNat = if x = 1 then 4 else if x = 2 then 24 else if x = 3 then 48 else if x = 5 then 1260 else 0 := by
  revert x; decide

/-- The phase that an arrival joins, as a value. -/
theorem word64_phase (x : BitVec 16) : word64 x.toNat = some ((x.setWidth 512 : Payload), false) := by
  rw [word64_eq, BitVec.ofNat_toNat, BitVec.setWidth_setWidth (by decide)]

/-- An arrival, its cases written out: the first of a phase gives the count. -/
theorem Barrier.arrive_eq (x : Barrier) (n now : Nat) : x.arrive n now =
    (x.phase, !(x.arrivals == 0) && x.count != n,
      if (if x.arrivals = 0 then n else x.count) ≤ x.arrivals + 1 then
        { x with phase := x.phase + 1, count := 0, arrivals := 0, due := x.due ++ [(x.phase, now + barrierDelay x.scope.toNat)] }
      else { x with count := if x.arrivals = 0 then n else x.count, arrivals := x.arrivals + 1 }) := by
  by_cases h : x.arrivals = 0 <;> simp [Barrier.arrive, h]

/-- A held arrival off the Ridge, performed: the barrier takes it, the notes of its strand are reported, and a count that
differs makes a record. -/
theorem performArrive_near {s : State} {r : NodeRec} {g : Firing} (hp : firingP g = false) (hs : litScope r ≠ 4)
    {ph : BitVec 16} {differs : Bool} {y : Barrier}
    (ha : (s.barrier g.cx (litScope r) (barNum r) (barUnit g (litScope r))).arrive ((g.b.getD (plain 0)).word % 2 ^ 16) s.cycles =
      (ph, differs, y)) :
    performArrive s (pendOf 0xA7 r g) =
      let u := strandGuards (s.setBarrier y) g.cx (s.strandOf g)
      .done (emitVals (if differs then softRec u (countRec u r g) (u.inFaultFrame g)
        (some (g.course, BitVec.ofNat 8 g.bay, g.ft)) else u) r g false (word64 ph.toNat) (word64 ph.toNat)) := by
  simp only [performArrive, pendOf_r, pendOf_fir, hp, Bool.false_eq_true, if_false, if_neg hs]
  rw [ha]

/-- Settles O16: the barrier that an arrival leaves is `Barrier.arrive_eq`, and what it sends is `performArrive_near`. -/
theorem barrierArrivalsCount : Obligations.BarrierArrivalsCount := by
  unfold Obligations.BarrierArrivalsCount
  intro s r g scope x n count delay y u v hp hs
  have harr : x.arrive n s.cycles = (x.phase, !(x.arrivals == 0) && x.count != n, y) := by
    rw [Barrier.arrive_eq, barrierDelay_toNat]
  have hrun := performArrive_near hp hs harr
  rw [word64_phase] at hrun
  constructor
  · intro h
    have hsame : (!(x.arrivals == 0) && x.count != n) = false := by rcases h with h | h <;> simp [h]
    rw [hrun, hsame]
    rfl
  · intro h0 hn
    have hdiff : (!(x.arrivals == 0) && x.count != n) = true := by simp [h0, hn]
    rw [hrun, hdiff]
    rfl

end Sys2Proof.Machine
end

section
/-! PROOF. What a node that only computes leaves as it is (R13, R25, R145). -/

namespace Sys2Proof.Machine

/-! ### What a change of a frame leaves -/

theorem State.bay_of_key (s : State) {c b c' b' : Nat} (h : c * 256 + b = c' * 256 + b') : s.bay c b = s.bay c' b' := by
  unfold State.bay; rw [h]

theorem State.bay_setFrame_other (s : State) {c b c' b' : Nat} (ft : Nat) (x : Frame) (h : c' * 256 + b' ≠ c * 256 + b) :
    (s.setFrame c b ft x).bay c' b' = s.bay c' b' := by
  simp [State.bay, State.setFrame, State.modBay, lkp_put_other _ _ h]

theorem State.bay_setFrame (s : State) (c b ft : Nat) (x : Frame) :
    (s.setFrame c b ft x).bay c b = { s.bay c b with frames := put (s.bay c b).frames ft x } := by
  simp [State.setFrame, State.modBay]

theorem State.frame?_setFrame_other (s : State) {c b ft c' b' ft' : Nat} (x : Frame)
    (h : c' * 256 + b' ≠ c * 256 + b ∨ ft' ≠ ft) : (s.setFrame c b ft x).frame? c' b' ft' = s.frame? c' b' ft' := by
  unfold State.frame?
  by_cases hk : c' * 256 + b' = c * 256 + b
  · rw [State.bay_of_key _ hk, State.bay_of_key s hk, State.bay_setFrame, lkp_put_other _ _ (h.resolve_left (· hk))]
  · rw [State.bay_setFrame_other _ _ _ hk]

/-- Changing a frame changes no more of its bay than the row. -/
theorem State.modFrame_rest (s : State) (c b ft : Nat) (f : Frame → Frame) :
    s.modFrame c b ft f = { s with bays := (s.modFrame c b ft f).bays } ∧
    (∀ c' b', { (s.modFrame c b ft f).bay c' b' with frames := [] } = { s.bay c' b' with frames := [] }) ∧
    (∀ c' b' ft', c' * 256 + b' ≠ c * 256 + b ∨ ft' ≠ ft → (s.modFrame c b ft f).frame? c' b' ft' = s.frame? c' b' ft') := by
  unfold State.modFrame
  cases s.frame? c b ft with
  | none => exact ⟨rfl, fun _ _ => rfl, fun _ _ _ _ => rfl⟩
  | some x =>
    refine ⟨rfl, fun c' b' => ?_, fun c' b' ft' h => State.frame?_setFrame_other s _ h⟩
    by_cases hk : c' * 256 + b' = c * 256 + b
    · rw [State.bay_of_key _ hk, State.bay_of_key s hk, State.bay_setFrame]
    · rw [State.bay_setFrame_other _ _ _ hk]

/-! ### Nodes that only compute (R13, R25, R145) -/

/-- Tokens and flags join a cast. -/
def Cast.grow (l : List Transit) (fl : Flags) (k : Cast) : Cast := { k with out := k.out ++ l, flags := k.flags ||| fl }

theorem addFlags_eq_grow (s : State) (fl : Flags) :
    addFlags s s.firing fl = s ∨ addFlags s s.firing fl = s.modOwn s.firing (Cast.grow [] fl) := by
  unfold addFlags
  split
  · exact .inl rfl
  · right; congr 1; funext k; simp [Cast.grow]

/-- What a node that only computes leaves, when its tag can be formed: tokens in flight, and its live cast with tokens and
flags more. -/
theorem computed_cases {s : State} {r : NodeRec} {a : Args} {stack : Nat} {pl0 pl1 : Bool} {v0 v1 : Option Val} {fl : Flags}
    (h : ∃ c ft it, tagOf s r s.firing = .ok c ft it) :
    ∃ l, computed s r a stack s.firing.course.toNat pl0 pl1 v0 v1 fl = s.inFlight l ∨
      ∃ o fl', computed s r a stack s.firing.course.toNat pl0 pl1 v0 v1 fl = (s.inFlight l).modOwn s.firing (Cast.grow o fl') := by
  obtain ⟨c, ft, it, ht⟩ := h
  simp only [computed, show tagTo s r s.firing s.firing.course.toNat = _ from ht]
  generalize outTokens s r _ _ _ _ _ _ _ _ _ = toks
  obtain ⟨u, hu, hcase⟩ : ∃ u, (if (a.e || s.eBit s.firing || s.firing.skip) = true then s else addFlags s s.firing fl) = u ∧
      (u = s ∨ u = s.modOwn s.firing (Cast.grow [] fl)) := by
    refine ⟨_, rfl, ?_⟩
    split
    · exact .inl rfl
    · exact addFlags_eq_grow s fl
  have hgrow : ∀ o, (fun k : Cast => k.hold o) = Cast.grow o 0 := fun o => by funext k; simp [Cast.hold, Cast.grow]
  refine ⟨nowToks u toks, ?_⟩
  rw [hu, afterSend_def, hgrow]
  rcases hcase with hc | hc <;> rw [hc]
  · split
    · exact .inl rfl
    · exact .inr ⟨_, _, rfl⟩
  · right
    split
    · exact ⟨[], fl, State.inFlight_modOwn ..⟩
    · refine ⟨heldToks (s.modOwn s.firing (Cast.grow [] fl)) toks, fl, ?_⟩
      rw [State.inFlight_modOwn, State.modOwn_firing, State.modOwn_modOwn]
      congr 1
      funext k
      simp [Cast.grow]

/-- The step of an instruction is that of a node that only computes. -/
def Computes (i : Instr) (r : NodeRec) (s : State) : Prop :=
  ∃ a pl0 pl1 v0 v1 fl, exec i s = .next (pureNode s r a pl0 pl1 v0 v1 fl)

theorem steer_computes (r : NodeRec) (s : State) : Computes (.steer r) r s := by
  unfold Computes exec execSteer
  dsimp only
  split <;> exact ⟨_, _, _, _, _, _, rfl⟩

theorem dqcvt_computes (r : NodeRec) (s : State) : Computes (.dqcvt r) r s := by
  unfold Computes exec execDqcvt
  dsimp only
  split <;> exact ⟨_, _, _, _, _, _, rfl⟩

theorem tokenInstr_computes {op : Nat} {r : NodeRec} {i : Instr} (s : State) (hi : instrOfOp op r = some i)
    (h : op = 0x01 ∨ (0x03 ≤ op ∧ op ≤ 0x08) ∨ op = 0x0B ∨ op = 0x0C ∨ op = 0x10) : Computes i r s := by
  rcases h with rfl | ⟨h1, h2⟩ | rfl | rfl | rfl
  · cases hi; exact ⟨_, _, _, _, _, _, rfl⟩
  · obtain h | rfl | h : op ≤ 0x04 ∨ op = 0x05 ∨ 0x06 ≤ op := by omega
    · interval_cases op <;> cases hi <;> exact ⟨_, _, _, _, _, _, rfl⟩
    · cases hi; exact steer_computes r s
    · interval_cases op <;> cases hi <;> exact ⟨_, _, _, _, _, _, rfl⟩
  all_goals cases hi; exact ⟨_, _, _, _, _, _, rfl⟩

theorem integer_computes {op : Nat} {r : NodeRec} {i : Instr} (s : State) (hi : instrOfOp op r = some i)
    (h1 : 0x30 ≤ op) (h2 : op ≤ 0x4F) : Computes i r s := by
  interval_cases op <;> cases hi <;> exact ⟨_, _, _, _, _, _, rfl⟩

theorem vector_computes {op : Nat} {r : NodeRec} {i : Instr} (s : State) (hi : instrOfOp op r = some i)
    (h1 : 0x50 ≤ op) (h2 : op ≤ 0x6F) : Computes i r s := by
  interval_cases op <;> cases hi <;> exact ⟨_, _, _, _, _, _, rfl⟩

theorem float_computes {op : Nat} {r : NodeRec} {i : Instr} (s : State) (hi : instrOfOp op r = some i)
    (h1 : 0x70 ≤ op) (h2 : op ≤ 0x85) : Computes i r s := by
  obtain h | rfl | h : op ≤ 0x81 ∨ op = 0x82 ∨ 0x83 ≤ op := by omega
  · interval_cases op <;> cases hi <;> exact ⟨_, _, _, _, _, _, rfl⟩
  · cases hi; exact dqcvt_computes r s
  · interval_cases op <;> cases hi <;> exact ⟨_, _, _, _, _, _, rfl⟩

/-- Settles O60: every listed instruction is a node that only computes, and `computed_cases` says what such a node leaves. -/
theorem computingNodesChangeNothingElse : Obligations.ComputingNodesChangeNothingElse := by
  unfold Obligations.ComputingNodesChangeNothingElse
  intro op r i s t hi hop htag ht key
  have hcomp : Computes i r s := by
    rcases (by omega : (op = 0x01 ∨ (0x03 ≤ op ∧ op ≤ 0x08) ∨ op = 0x0B ∨ op = 0x0C ∨ op = 0x10) ∨
      (0x30 ≤ op ∧ op ≤ 0x4F) ∨ (0x50 ≤ op ∧ op ≤ 0x6F) ∨ (0x70 ≤ op ∧ op ≤ 0x85)) with h | h | h | h
    · exact tokenInstr_computes s hi h
    · exact integer_computes s hi h.1 h.2
    · exact vector_computes s hi h.1 h.2
    · exact float_computes s hi h.1 h.2
  obtain ⟨a, pl0, pl1, v0, v1, fl, he⟩ := hcomp
  rw [pureNode_eq] at he
  have htc : t = computed s r a s.sideband.stackNo.toNat s.firing.course.toNat pl0 pl1 v0 v1 fl := by
    rw [ht] at he; injection he
  obtain ⟨l, h | ⟨o, fl', h⟩⟩ := computed_cases (a := a) (stack := s.sideband.stackNo.toNat) (pl0 := pl0) (pl1 := pl1)
    (v0 := v0) (v1 := v1) (fl := fl) htag <;> rw [htc, h]
  · exact ⟨rfl, ⟨l, rfl⟩, fun _ => rfl, fun _ _ => rfl, fun _ _ _ _ => rfl, fun f hf => .inl hf⟩
  · obtain ⟨hrest, hbays, hframes⟩ := State.modFrame_rest (s.inFlight l) s.firing.course.toNat s.firing.bay s.firing.ft.toNat
      fun x => { x with cast := x.cast.map (Cast.grow o fl') }
    refine ⟨?_, ⟨l, by simp [State.inFlight]⟩, fun a => by simp [State.inFlight], hbays, hframes, ?_⟩
    · refine hrest.trans ?_
      simp only [State.modOwn_transit]
      rfl
    · intro f hf
      have hown : ((s.inFlight l).modOwn s.firing (Cast.grow o fl')).frame? s.firing.course.toNat s.firing.bay s.firing.ft.toNat =
          some { f with cast := f.cast.map (Cast.grow o fl') } := by
        unfold State.modOwn State.modCast
        rw [State.frame?_modFrame, show (s.inFlight l).frame? _ _ _ = _ from hf]
        rfl
      cases hk : f.cast with
      | none => left; rw [hown, hk, Option.map_none, ← hk]
      | some k => exact .inr ⟨k, o, fl', rfl, by rw [hown, hk]; rfl⟩

end Sys2Proof.Machine
end

section
/-! PROOF. Taking a hard fault, the abort and the stall bound (R27, R29, R379). -/

namespace Sys2Proof.Machine

/-! ### Steps that find nothing to do -/

theorem foldl_eq_self {α β : Type} {f : β → α → β} {s : β} {l : List α} (h : ∀ x ∈ l, f s x = s) : l.foldl f s = s := by
  induction l with
  | nil => rfl
  | cons x xs ih =>
    rw [List.foldl_cons, h x (by simp)]
    exact ih fun y hy => h y (by simp [hy])

theorem lkp_mem {α : Type} {l : List (Nat × α)} {i : Nat} {v : α} (h : lkp l i = some v) : (i, v) ∈ l := by
  induction l with
  | nil => simp [lkp] at h
  | cons e l ih =>
    obtain ⟨k, w⟩ := e
    by_cases hk : k = i
    · simp_all [lkp]
    · exact List.mem_cons_of_mem _ (ih (by simpa [lkp, hk] using h))

/-- Frames are found by the bays alone. -/
theorem State.frame?_of_bays {s t : State} (h : t.bays = s.bays) (c b ft : Nat) : t.frame? c b ft = s.frame? c b ft := by
  simp only [State.frame?, State.bay, h]

/-- With nothing released no allocator is served. -/
theorem serveReleases_none {s : State} (h : s.released = []) : serveReleases s = s := by
  unfold serveReleases
  rw [h]
  cases s
  cases h
  rfl

theorem freeAll_none {s : State} (c b : Nat) (h : s.released = []) : freeAll s c b [] [] = s := serveReleases_none h

/-- A context without a heap kernel has no end test (R371). -/
theorem endTest_none {s : State} {cx : Nat} (h : s.heapKernel cx = none) : endTest s cx = s := by simp [endTest, h]

theorem withdrawPool_none {s : State} {c b : Nat} (h : ∀ q ∈ (s.bay c b).pools, q.2.waiters = []) (p : Nat) (f : Waiter → Bool) :
    withdrawPool s c b p f = s := by
  unfold withdrawPool
  cases hp : s.pool? c b p with
  | none => rfl
  | some q =>
    have hq : q.waiters = [] := h _ (lkp_mem hp)
    simp [hq]

theorem withdrawBay_none {s : State} {c b : Nat} (h : ∀ q ∈ (s.bay c b).pools, q.2.waiters = []) (f : Waiter → Bool) :
    withdrawBay s c b f = s :=
  foldl_eq_self fun p _ => withdrawPool_none h p f

theorem State.modFrame_pools (s : State) (c b ft : Nat) (f : Frame → Frame) (c' b' : Nat) :
    ((s.modFrame c b ft f).bay c' b').pools = (s.bay c' b').pools := by
  have h := congrArg Bay.pools ((State.modFrame_rest s c b ft f).2.1 c' b')
  exact h

/-- No node of a frame's cast is parked in any allocator's list. -/
def NoneParked (s : State) (c b ft : Nat) : Prop :=
  (∀ q ∈ (s.bay c b).pools, q.2.waiters = []) ∧ (∀ w ∈ s.rdgWaits, w.2.fir.inFrame c b ft = false) ∧
    ∀ x ∈ s.crucibles, ∀ w ∈ x.2.waiters, w.2.fir.inFrame c b ft = false

/-- Withdrawing the requests of a cast that has none parked touches no bay. -/
theorem withdrawCast_none {s : State} {c b ft : Nat} (h : NoneParked s c b ft) :
    ∃ cr rw cs, withdrawCast s c b ft = { s with crucibles := cr, rdgWaits := rw, courses := cs } := by
  obtain ⟨hpool, hrdg, hcru⟩ := h
  unfold withdrawCast
  extract_lets mine lists cru freed s1 s2 s3 drop s4 s5
  have hlists : ∀ l ∈ lists, (l.any fun w => mine w.2) = false := by
    intro l hl
    rw [List.any_eq_false]
    intro w hw
    rcases List.mem_cons.mp hl with rfl | hl
    · simp [mine, hrdg w hw]
    · obtain ⟨x, hx, rfl⟩ := List.mem_map.mp hl
      simp [mine, hcru x (List.mem_filter.mp hx).1 w hw]
  have h2 : s2 = s1 := if_neg (by simp [freed, hlists _ (List.mem_cons_self ..)])
  have h3 : s3 = s2 := foldl_eq_self fun l hl => by rw [hlists l hl]; rfl
  have hb : s5.bays = s.bays := by show s3.bays = _; rw [h3, h2]
  have h5 : ∀ q ∈ (s5.bay c b).pools, q.2.waiters = [] := by
    rwa [State.bay, hb]
  rw [withdrawBay_none h5]
  refine ⟨cru, s1.rdgWaits, s5.courses, ?_⟩
  simp only [s5, s4, h3, h2]
  rfl

/-! ### Taking a hard fault (R27) -/

/-- The frame once its cast has taken a hard fault: E is set, and the first fault is kept. -/
def Frame.faulted (f : Frame) (k : Cast) (x : BitVec 12 × FaultRec) : Frame :=
  { f with link := { f.link with e := true }, cast := some { k with fault := some (k.fault.getD x) } }

theorem hardFault_none_parked {s : State} {g : Firing} {f : Frame} {k : Cast} (kind code owner : Nat) (upd : FaultRec → FaultRec)
    (hg : g.isCru = false) (hf : s.frame? g.course.toNat g.bay g.ft.toNat = some f) (hk : f.cast = some k)
    (h : NoneParked s g.course.toNat g.bay g.ft.toNat) :
    (hardFault s g kind code owner upd).frame? g.course.toNat g.bay g.ft.toNat =
        some (f.faulted k (BitVec.ofNat 12 owner, upd (recOf s g kind sCAST code false))) ∧
      (hardFault s g kind code owner upd).mem = s.mem ∧ (hardFault s g kind code owner upd).transit = s.transit := by
  unfold hardFault
  simp only [hg, Bool.false_eq_true, if_false]
  generalize hm : s.modFrame g.course.toNat g.bay g.ft.toNat _ = u
  have hu : u.frame? g.course.toNat g.bay g.ft.toNat =
      some (f.faulted k (BitVec.ofNat 12 owner, upd (recOf s g kind sCAST code false))) := by
    rw [← hm, State.frame?_modFrame, hf]
    cases hfa : k.fault <;> simp [Frame.faulted, hk, hfa]
  have hnone : NoneParked u g.course.toNat g.bay g.ft.toNat := by
    obtain ⟨hp, hr, hc⟩ := h
    refine ⟨?_, ?_, ?_⟩ <;> rw [← hm]
    · rwa [State.modFrame_pools]
    · rwa [State.modFrame_rdgWaits]
    · rwa [State.modFrame_crucibles]
  obtain ⟨cr, rw', cs, hw⟩ := withdrawCast_none hnone
  rw [hw]
  exact ⟨hu, by rw [← hm, State.modFrame_mem], by rw [← hm, State.modFrame_transit]⟩

/-! ### The abort (R27) -/

theorem foldl_modElem (c : Nat) (f : Element → Element) (l : List Nat) (s : State) :
    ∃ els, l.foldl (fun s el => s.modElem c el f) s = { s with elements := els } := by
  induction l generalizing s with
  | nil => exact ⟨s.elements, rfl⟩
  | cons el l ih => exact (ih (s.modElem c el f)).imp fun els h => by rw [List.foldl_cons, h]; rfl

/-- What an abort clears of ready and pending nodes stands in elements and save areas. -/
theorem clearReady_eq (s : State) (c b ft : Nat) :
    ∃ sv els, clearReady s c b ft = { s with saved := sv, elements := els } := by
  unfold clearReady
  exact ⟨_, (foldl_modElem c _ (bayElems b) _).imp fun els h => h⟩

theorem voidReaders_none {s : State} {c b ft : Nat} {k : Cast} (hk : s.cast? c b ft = some k) (h : k.waits = []) :
    voidReaders s c b ft = s := by
  simp [voidReaders, hk, listedIlds, h]

/-- A cast as its abort leaves it. -/
def Cast.abortedRest (k : Cast) : Cast := { Cast.start k.block k.strand with aborted := true, injected := k.injected }

/-- The abort of a cast to which nothing was granted: it is emptied, and its fault filed. -/
theorem abortCast_bare {s : State} {c b ft : Nat} {f : Frame} {k : Cast} {owner : BitVec 12} {rc : FaultRec}
    (hf : s.frame? c b ft = some f) (hk : f.cast = some k) (hfault : k.fault = some (owner, rc)) (hl : k.linked = none)
    (hgf : k.gotFrames = []) (hgb : k.gotBufs = []) (hgc : k.gotCru = []) (hgr : k.gotRdg = []) (hgh : k.gotHeap = 0)
    (hw : k.waits = []) (hh : s.heapKernel f.cx.toNat = none) (hr : s.released = []) :
    abortCast s c b ft f k = fileFault ((clearReady s c b ft).modCast c b ft Cast.abortedRest) owner.toNat f.faultSeq.isSome rc
      (.cast (BitVec.ofNat 4 c) (BitVec.ofNat 8 b) (BitVec.ofNat 12 ft)) := by
  have hcast : s.cast? c b ft = some k := by simp [State.cast?, hf, hk]
  obtain ⟨sv, els, hclear⟩ := clearReady_eq s c b ft
  unfold abortCast
  simp only [voidReaders_none hcast hw, hl, hgc, hgr, hgh, hgf, hgb, hfault, List.foldl_nil, List.range_zero, List.map_nil]
  rw [endTest_none (by rw [hclear]; exact hh), freeAll_none _ _ (by rw [State.modCast_released, hclear]; exact hr)]
  rfl

theorem execCastAbort_of {e : EvArgs} {s : State} {f : Frame} {k : Cast}
    (hf : s.frame? e.course.toNat (e.unit.toNat % 256) e.ft.toNat = some f) (hk : f.cast = some k) (he : f.link.e = true)
    (ha : k.aborted = false) (hc : k.committing = false)
    (hq : castQuiet s e.course.toNat (e.unit.toNat % 256) e.ft.toNat true = true) :
    exec (.castAbort e) s = .next (abortCast s e.course.toNat (e.unit.toNat % 256) e.ft.toNat f k) := by
  simp [exec, execCastAbort, hf, hk, he, ha, hc, hq]

/-! ### The stall bound (R29) -/

theorem execStall_of {e : EvArgs} {s : State} {f : Frame} {k : Cast}
    (hf : s.frame? e.course.toNat (e.unit.toNat % 256) e.ft.toNat = some f) (hk : f.cast = some k)
    (hs : stallCounts s e.course.toNat (e.unit.toNat % 256) e.ft.toNat f k = true)
    (hm : mayCommit s e.course.toNat (e.unit.toNat % 256) e.ft.toNat = false) (hb : s.stallBound f.cx.toNat ≤ k.stall) :
    let node := (s.blockNodes f.cx.toNat e.course.toNat k.block).headD (elAt (e.unit.toNat % 256) 0, 0)
    exec (.stall e) s = .next (fault s { Firing.none with
      course := e.course, unit := BitVec.ofNat 13 node.1, node := BitVec.ofNat 6 node.2, cx := f.cx, ft := e.ft, it := f.it } kSTALL 0) := by
  simp [exec, execStall, hf, hk, hs, hm, hb, frameFiring]

/-- Settles O44: the three parts are `hardFault_none_parked`, `abortCast_bare` and `execStall_of`. -/
theorem exceptionsAreTaken : Obligations.ExceptionsAreTaken := by
  unfold Obligations.ExceptionsAreTaken
  intro e s f k c b ft node hf hk
  refine ⟨?_, ?_, execStall_of hf hk⟩
  · intro g kind code owner upd hg hgc hgb hgf hp hr hc
    have hgf' : s.frame? g.course.toNat g.bay g.ft.toNat = some f := by rw [hgc, hgb, hgf]; exact hf
    have hnone : NoneParked s g.course.toNat g.bay g.ft.toNat := by rw [hgc, hgb, hgf]; exact ⟨hp, hr, hc⟩
    obtain ⟨hv, hmem, htr⟩ := hardFault_none_parked kind code owner upd hg hgf' hk hnone
    rw [hgc, hgb, hgf] at hv
    exact ⟨_, _, hv, rfl, rfl, rfl, rfl, rfl, rfl, rfl, hmem, htr⟩
  · intro owner rc he ha hcm hq hfault hl hgf hgb hgc hgr hgh hw hh hrel
    obtain ⟨sv, els, hclear⟩ := clearReady_eq s c b ft
    have hframe : ((clearReady s c b ft).modCast c b ft Cast.abortedRest).frame? c b ft =
        some { f with cast := some k.abortedRest } := by
      rw [State.modCast, State.frame?_modFrame, hclear, show State.frame? { s with saved := sv, elements := els } c b ft = _ from hf]
      simp [hk]
    refine ⟨_, _, ?_, hframe, rfl, rfl, rfl, rfl, ?_, ?_, ?_⟩
    · rw [execCastAbort_of hf hk he ha hcm hq, abortCast_bare hf hk hfault hl hgf hgb hgc hgr hgh hw hh hrel]
      simp [c, ft]
    all_goals simp [hclear]

end Sys2Proof.Machine
end

section
/-! PROOF. The commit of a cast (R26, R215, R226). -/

namespace Sys2Proof.Machine

/-! ### Steps that keep every frame -/

theorem lkp_map {α β : Type} (g : α → β) (l : List (Nat × α)) (i : Nat) :
    lkp (l.map fun e => (e.1, g e.2)) i = (lkp l i).map g := by
  induction l with
  | nil => rfl
  | cons e l ih => simp only [List.map_cons, lkp, ih]; split <;> rfl

/-- What changes in every bay and leaves its frames alone changes no frame. -/
theorem State.frame?_map_bays (s : State) (g : Bay → Bay) (hg : ∀ y, (g y).frames = y.frames) (c b ft : Nat) :
    State.frame? { s with bays := s.bays.map fun e => (e.1, g e.2) } c b ft = s.frame? c b ft := by
  unfold State.frame? State.bay
  rw [show (State.bays { s with bays := s.bays.map fun e => (e.1, g e.2) }) = s.bays.map fun e => (e.1, g e.2) from rfl, lkp_map]
  cases lkp s.bays (c * 256 + b) with
  | none => rfl
  | some y => simp [hg]

theorem bumpGen_frame? (s : State) (cx c b ft : Nat) : (bumpGen s cx).frame? c b ft = s.frame? c b ft := by
  unfold bumpGen
  extract_lets hit zero s1
  split
  · rfl
  · exact State.frame?_map_bays s1 (fun y => { y with tlb := y.tlb.filter fun t => !(zero.contains t.cx.toNat) }) (fun _ => rfl) c b ft

theorem touchLine_frame? (s : State) (a c b ft : Nat) : (touchLine s a).frame? c b ft = s.frame? c b ft := by
  unfold touchLine
  split
  · rfl
  · exact bumpGen_frame? s _ c b ft

theorem touchRange_frame? (s : State) (lo n c b ft : Nat) : (touchRange s lo n).frame? c b ft = s.frame? c b ft := by
  unfold touchRange
  generalize List.filter _ _ = l
  induction l generalizing s with
  | nil => rfl
  | cons x xs ih => exact (ih _).trans (touchLine_frame? s _ c b ft)

theorem startWake_frame? (s : State) (d c b ft : Nat) : (startWake s d).frame? c b ft = s.frame? c b ft := by
  obtain e | ⟨-, e⟩ | ⟨-, e⟩ := startWake_cases s d <;> rw [e]
  · rfl
  · exact touchRange_frame? s _ _ c b ft

theorem callHome_frame? (s : State) (cx x n c b ft : Nat) : (callHome s cx x n).frame? c b ft = s.frame? c b ft := by
  unfold callHome
  generalize List.filter _ _ = l
  induction l generalizing s with
  | nil => rfl
  | cons y ys ih => exact (ih _).trans (startWake_frame? s y c b ft)

theorem callHeld_frame? (s : State) (p : Pend) (c b ft : Nat) : (callHeld s p).frame? c b ft = s.frame? c b ft := by
  unfold callHeld
  split
  · exact callHome_frame? ..
  · rfl

theorem enterFault_bays (s : State) (h : Nat) (rc : FaultRec) (site : Site) : (enterFault s h rc site).bays = s.bays := by
  unfold enterFault
  split
  · simp
  · split <;> simp

theorem fileFault_bays (s : State) (owner : Nat) (ff : Bool) (rc : FaultRec) (site : Site) :
    (fileFault s owner ff rc site).bays = s.bays :=
  enterFault_bays ..

/-- A suspended commit keeps its writes. -/
theorem suspendWrite_frame? {s : State} {c b ft : Nat} {f : Frame} {k : Cast} (p : Pend) (kind code o x : Nat)
    (hf : s.frame? c b ft = some f) (hk : f.cast = some k) :
    (suspendWrite s c b ft p kind code o x).frame? c b ft = some { f with cast := some { k with suspended := some p } } := by
  unfold suspendWrite
  rw [State.frame?_of_bays (fileFault_bays ..)]
  show (s.modCast c b ft _).frame? c b ft = _
  rw [State.modCast, State.frame?_modFrame, hf, Option.map_some, hk, Option.map_some]

/-! ### The writes of a commit (R26 step 1) -/

theorem runHeld_nil {s : State} {c b ft : Nat} {k : Cast} (n : Nat) (hk : s.cast? c b ft = some k) (h : k.held = []) :
    runHeld c b ft n s = s := by
  cases n with
  | zero => rfl
  | succ n => simp [runHeld, hk, h]

/-! The first held write decides how far a run of a commit comes. -/

section
variable {s : State} {c b ft : Nat} {k : Cast} {p : Pend} {ps : List Pend} (n : Nat)
  (hk : s.cast? c b ft = some k) (h : k.held = p :: ps)
include hk h

theorem runHeld_cells (hc : strandCells s p.fir = true) : runHeld c b ft (n + 1) s = s := by
  simp [runHeld, hk, h, hc]

theorem runHeld_waits (hc : strandCells s p.fir = false) (hw : performHeld s p = .waits) :
    runHeld c b ft (n + 1) s = if relHeld s p then s else callHeld s p := by
  simp [runHeld, hk, h, hc, hw]

theorem runHeld_home {kind code o x : Nat} (hc : strandCells s p.fir = false) (hw : performHeld s p = .home kind code o x) :
    runHeld c b ft (n + 1) s = suspendWrite s c b ft p kind code o x := by
  simp [runHeld, hk, h, hc, hw]
end

theorem runAfter_nil {s : State} {c b ft : Nat} {k : Cast} (n : Nat) (hk : s.cast? c b ft = some k) (h : k.after = []) :
    runAfter c b ft n s = s := by
  cases n with
  | zero => rfl
  | succ n => simp [runAfter, hk, h, sortBy]

/-- A held record with release, which acts off the Ridge, waits for the Ridge writes of its strand (R322). -/
theorem relHeld_of {s : State} {p : Pend} (hop : p.op ∈ [0x91, 0x93, 0x95, 0x98, 0xA0, 0xA1, 0xA3, 0xA4, 0xA5, 0xA6])
    (hord : litOrd p.r = 2 ∨ litOrd p.r = 3) (hs : suppressed p = false)
    (hu : strandUnapplied s p.fir.course.toNat p.fir.cx (s.strandOf p.fir) = true) : relHeld s p = true := by
  have hr : (p.op == 0xA9 || p.op == 0xAA || ((p.op == 0xA7 || p.op == 0xA8) && litScope p.r == 4)) = false := by
    revert hop; generalize p.op = op; intro hop
    simp only [List.mem_cons, List.not_mem_nil, or_false] at hop
    rcases hop with rfl | rfl | rfl | rfl | rfl | rfl | rfl | rfl | rfl | rfl <;> rfl
  have ho : (litOrd p.r == 2 || litOrd p.r == 3) = true := by simpa using hord
  simp only [relHeld, hr, hs, ho, hu, Bool.not_false, Bool.and_self]

theorem performHeld_waits {s : State} {p : Pend} (h : relHeld s p = true) : performHeld s p = .waits := by
  simp [performHeld, h]

/-! ### Runs of a commit (R26) -/

theorem State.cast?_of_frame? {s : State} {c b ft : Nat} {f : Frame} {k : Cast} (hf : s.frame? c b ft = some f)
    (hk : f.cast = some k) : s.cast? c b ft = some k := by
  simp [State.cast?, hf, hk]

/-- After its writes, a run of a commit has held some of them still, or waits for its strand's Ridge writes or for a result. -/
def commitStays (s : State) (c : Nat) (f : Frame) (k : Cast) : Bool :=
  !k.held.isEmpty || strandUnapplied s c f.cx k.strand || resultsDue s k

section
variable {s : State} {c b ft : Nat} {k : Cast} (hk : s.cast? c b ft = some k) (hs : k.suspended = none)
include hk hs

/-- A run of a commit ends where its writes have come, when it stays there. -/
theorem runCommit_stays {u : State} {f' : Frame} {k' : Cast} (hu : runHeld c b ft (k.held.length + 1) s = u)
    (hf' : u.frame? c b ft = some f') (hk' : f'.cast = some k') (h : commitStays u c f' k' = true) :
    runCommit s c b ft = serveReleases u := by
  unfold commitStays at h
  simp only [runCommit, hk, hs, hu, hf', hk', h]
  rfl

/-- A commit that has made its writes and its requests goes on with step 2. -/
theorem runCommit_finishes {f : Frame} (hf : s.frame? c b ft = some f) (hfk : f.cast = some k) (hheld : k.held = [])
    (hafter : k.after = []) (h : commitStays s c f k = false) :
    runCommit s c b ft = serveReleases (finishCommit s c b ft k) := by
  unfold commitStays at h
  simp only [runCommit, hk, hs, runHeld_nil _ hk hheld, hf, hfk, h, runAfter_nil _ hk hafter, hafter]
  rfl
end

theorem execCastCommit_committing {e : EvArgs} {s : State} {k : Cast}
    (hk : s.cast? e.course.toNat (e.unit.toNat % 256) e.ft.toNat = some k) (hc : k.committing = true) :
    exec (.castCommit e) s = .next (runCommit s e.course.toNat (e.unit.toNat % 256) e.ft.toNat) := by
  simp [exec, execCastCommit, hk, hc]

/-! ### A commit with nothing held (R26) -/

/-- A cast as its commit opens when it holds no write and no request. -/
def Cast.opened (k : Cast) : Cast := { k with committing := true, held := [], plate := [], out := k.out ++ [] }

theorem openCommit_bare {s : State} {c b ft : Nat} {k : Cast} (hh : k.held = []) (hp : k.plate = []) (ha : k.after = []) :
    openCommit s c b ft k = s.modCast c b ft Cast.opened := by
  simp only [openCommit, hh, hp, ha, badRepair, sortBy, List.foldl_nil, recheckAll, firstClash, List.find?_nil, Option.map_none,
    reserveWords, Option.getD_some]
  rfl

/-- Changing a cast changes bays alone. -/
theorem State.modCast_eq (s : State) (c b ft : Nat) (f : Cast → Cast) : ∃ bs, s.modCast c b ft f = { s with bays := bs } :=
  ⟨_, (State.modFrame_rest s c b ft _).1⟩

theorem setFlags_eq (s : State) (cx : Nat) (fl : Flags) : ∃ cs, setFlags s cx fl = { s with ctxs := cs } := by
  unfold setFlags State.modCtx
  split
  · exact ⟨s.ctxs, rfl⟩
  · split
    · exact ⟨_, rfl⟩
    · exact ⟨s.ctxs, rfl⟩

theorem setFlags_nflag {s : State} {cx : Nat} (fl : Flags) (h : (s.ctx? cx).isSome = true) :
    ((setFlags s cx fl).ctx cx).nflag = (s.ctx cx).nflag ||| fl := by
  obtain ⟨x, hx⟩ := Option.isSome_iff_exists.mp h
  have hx' : lkp s.ctxs cx = some x := hx
  unfold setFlags State.modCtx
  split
  · simp [*]
  · simp [hx', State.ctx]

/-- A frame after the commit of its cast: the block's slots are cleared, and LC and E with them (R26 step 4). -/
def Frame.committed (f : Frame) (is : List Nat) : Frame :=
  let m : Word := BitVec.ofNat 64 ((is.map fun i => 2 ^ i).sum)
  { f with pres := f.pres &&& ~~~m, inp := f.inp &&& ~~~m, slots := f.slots.filter (fun e => !(is.contains e.1)),
           link := { f.link with lc := false, e := false }, cast := none,
           arrivals := f.arrivals.filter (fun i => !(is.contains i)) }

theorem clearSlots_of {s : State} {c b ft : Nat} {f : Frame} (k : Cast) (hf : s.frame? c b ft = some f) :
    clearSlots s c b ft k = s.setFrame c b ft (f.committed (blockSlots s f.cx.toNat c k.block)) := by
  simp only [clearSlots, hf]
  rfl

/-- A frame at which no block and no token waits begins no cast. -/
theorem nextCast_none {s : State} {c b ft : Nat} {f : Frame} (hf : s.frame? c b ft = some f) (hw : f.waiting = [])
    (ha : f.atBay = []) : nextCast s c b ft = s.setFrame c b ft f := by
  have h : { f with atBay := [] } = f := by rw [← ha]
  have hn : nextCast s c b ft = releaseAtBay s c b ft := by simp only [nextCast, hf, hw, nextBlock]
  rw [hn, releaseAtBay, hf]
  show { s.setFrame c b ft { f with atBay := [] } with transit := f.atBay ++ s.transit } = _
  rw [h, ha]
  rfl

theorem doomsAt_none {s : State} (c b ft : Nat) (h : s.dooms = []) : doomsAt s c b ft = s := by
  unfold doomsAt
  simp only [h, List.filter_nil, runDooms]
  cases s
  cases h
  rfl

/-- What a commit sends, ordered after the acq partials that its cast comes after (R31). -/
def outOf (s : State) (c b ft : Nat) (f : Frame) (k : Cast) : List Transit :=
  k.out.map fun t => if ordersStrand s t then { t with after := strandAfter s c b ft f } else t

/-- Steps 3 to 5 of a commit that frees nothing and calls for nothing: its tokens and its flags go, and its slots are cleared. -/
theorem closeCommit_bare {s : State} {c b ft : Nat} {f : Frame} {k : Cast} (hf : s.frame? c b ft = some f) (hk : f.cast = some k)
    (hcs : f.cs = false) (hend : f.endFree = false) (hw : f.waiting = []) (ha : f.atBay = [])
    (hh : s.heapKernel f.cx.toNat = none) (hd : s.dooms = []) (hr : s.released = []) :
    ∃ u, closeCommit s c b ft f k = u ∧
      u.frame? c b ft = some (f.committed (blockSlots s f.cx.toNat c k.block)) ∧ u.mem = s.mem ∧ u.released = [] ∧
      u.transit = (releaseOut s (outOf s c b ft f k)).transit ∧ u.eaveOut = (releaseOut s (outOf s c b ft f k)).eaveOut ∧
      ((s.ctx? f.cx.toNat).isSome = true → (u.ctx f.cx.toNat).nflag = (s.ctx f.cx.toNat).nflag ||| k.flags) := by
  unfold closeCommit
  extract_lets cx s1 late out s2 s3 s4 s5 s6
  have h1 : s1 = s := endTest_none hh
  have hout : out = outOf s c b ft f k := by
    simp only [out, late, h1, State.cast?_of_frame? hf hk, Option.map_some, Option.getD_some, outOf]
  have h2 : s2 = releaseOut s (outOf s c b ft f k) := by simp only [s2, h1, hout]
  obtain ⟨cs, h3⟩ := setFlags_eq (releaseOut s (outOf s c b ft f k)) f.cx.toNat k.flags
  have hs3 : s3 = { releaseOut s (outOf s c b ft f k) with ctxs := cs } := by simp only [s3, h2, cx, h3]
  have hf3 : s3.frame? c b ft = some f := by rw [hs3]; exact hf
  have h4 : s4 = s3.setFrame c b ft (f.committed (blockSlots s f.cx.toNat c k.block)) := by
    rw [show blockSlots s f.cx.toNat c k.block = blockSlots s3 f.cx.toNat c k.block by rw [hs3]; rfl]
    exact clearSlots_of k hf3
  have hf5 : s5.frame? c b ft = some (f.committed (blockSlots s f.cx.toNat c k.block)) := by
    show s4.frame? c b ft = _
    rw [h4, State.frame?_setFrame]
  have h6 : s6 = s5.setFrame c b ft (f.committed (blockSlots s f.cx.toNat c k.block)) := by
    rw [← nextCast_none hf5 hw ha]
    simp only [s6, hf5]
    simp [Frame.committed, hcs, hend]
  have hr6 : s6.released = [] := by rw [h6]; show s4.released = []; rw [h4, hs3]; exact hr
  have hd6 : s6.dooms = [] := by rw [h6]; show s4.dooms = []; rw [h4, hs3]; exact hd
  refine ⟨s6, by rw [serveReleases_none hr6, doomsAt_none _ _ _ hd6], by rw [h6, State.frame?_setFrame], ?_, hr6, ?_, ?_, ?_⟩
  · rw [h6]; show s4.mem = _; rw [h4, hs3]; rfl
  · rw [h6]; show s4.transit = _; rw [h4, hs3]; rfl
  · rw [h6]; show s4.eaveOut = _; rw [h4, hs3]; rfl
  · intro hc
    have hn := setFlags_nflag (s := releaseOut s (outOf s c b ft f k)) k.flags hc
    rw [h3] at hn
    rw [h6]; show (s4.ctx _).nflag = _; rw [h4, hs3]; exact hn

theorem State.frame?_modCast {s : State} {c b ft : Nat} {f : Frame} {k : Cast} (h : Cast → Cast)
    (hf : s.frame? c b ft = some f) (hk : f.cast = some k) :
    (s.modCast c b ft h).frame? c b ft = some { f with cast := some (h k) } := by
  rw [State.modCast, State.frame?_modFrame, hf, Option.map_some, hk, Option.map_some]

theorem finishCommit_bare {s : State} {c b ft : Nat} {f : Frame} {k : Cast} (hf : s.frame? c b ft = some f)
    (hk : f.cast = some k) (he : k.effects = []) (hc : changesWait s c b ft = false) :
    ∃ bs, finishCommit s c b ft k = closeCommit { s with bays := bs } c b ft f k ∧
      State.frame? { s with bays := bs } c b ft = some f := by
  have hp : afterPop s c k = false := by simp [afterPop, he]
  obtain ⟨bs, hbs⟩ := State.modCast_eq s c b ft fun k => { k with effects := [] }
  have hf2 : State.frame? { s with bays := bs } c b ft = some f := by
    rw [← hbs, State.frame?_modCast _ hf hk]
    have hk' : { k with effects := [] } = k := by rw [← he]
    rw [hk', ← hk]
  have hc2 : changesWait { s with bays := bs } c b ft = false := hc
  refine ⟨bs, ?_, hf2⟩
  simp only [finishCommit, hp, hc, he, inEffectOrder, sortBy, List.filter_nil, List.foldl_nil, List.append_nil, runEffects, hbs,
    hf2, hk, hc2, Bool.or_self, Bool.false_eq_true, if_false]

/-- A cast that holds nothing and applies nothing may commit, on its own and with its tokens all done (R26). -/
structure Bare (s : State) (c b ft : Nat) (f : Frame) (k : Cast) : Prop where
  frame : s.frame? c b ft = some f
  cast : f.cast = some k
  held : k.held = []
  after : k.after = []
  effects : k.effects = []
  suspended : k.suspended = none
  cs : f.cs = false
  endFree : f.endFree = false
  waiting : f.waiting = []
  atBay : f.atBay = []
  heap : s.heapKernel f.cx.toNat = none
  dooms : s.dooms = []
  released : s.released = []
  unapplied : strandUnapplied s c f.cx k.strand = false
  changes : changesWait s c b ft = false
  due : ∀ t ∈ k.out, t.due ≤ s.cycles

theorem Bare.commitStays {s : State} {c b ft : Nat} {f : Frame} {k : Cast} (h : Bare s c b ft f k) :
    commitStays s c f k = false := by
  have hd : resultsDue s k = false := by
    rw [resultsDue, List.any_eq_false]; intro t ht; simpa using h.due t ht
  simp [Machine.commitStays, h.held, h.unapplied, hd]

/-- The run of such a commit, from its opening to its end. -/
theorem Bare.runCommit {s : State} {c b ft : Nat} {f : Frame} {k : Cast} (h : Bare s c b ft f k) :
    ∃ u, runCommit s c b ft = u ∧
      u.frame? c b ft = some (f.committed (blockSlots s f.cx.toNat c k.block)) ∧ u.mem = s.mem ∧
      u.transit = (releaseOut s (outOf s c b ft f k)).transit ∧ u.eaveOut = (releaseOut s (outOf s c b ft f k)).eaveOut ∧
      ((s.ctx? f.cx.toNat).isSome = true → (u.ctx f.cx.toNat).nflag = (s.ctx f.cx.toNat).nflag ||| k.flags) := by
  obtain ⟨bs, hfin, hf2⟩ := finishCommit_bare h.frame h.cast h.effects h.changes
  obtain ⟨u, hu, hframe, hmem, hrel, htr, heo, hfl⟩ :=
    closeCommit_bare hf2 h.cast h.cs h.endFree h.waiting h.atBay h.heap h.dooms h.released
  refine ⟨u, ?_, hframe, hmem, htr, heo, hfl⟩
  rw [runCommit_finishes (State.cast?_of_frame? h.frame h.cast) h.suspended h.frame h.cast h.held h.after h.commitStays, hfin, hu,
    serveReleases_none hrel]

/-- The commit begins: the cast stays bare. -/
theorem Bare.opened {s : State} {c b ft : Nat} {f : Frame} {k : Cast} (h : Bare s c b ft f k) :
    ∃ bs, s.modCast c b ft Cast.opened = { s with bays := bs } ∧
      Bare { s with bays := bs } c b ft { f with cast := some k.opened } k.opened := by
  obtain ⟨bs, hbs⟩ := State.modCast_eq s c b ft Cast.opened
  refine ⟨bs, hbs, { h with frame := ?_, cast := rfl, held := rfl, due := ?_ }⟩
  · rw [← hbs, State.frame?_modCast _ h.frame h.cast]
  · intro t ht
    exact h.due t (by simpa [Cast.opened] using ht)

theorem execCastCommit_bare {e : EvArgs} {s : State} {f : Frame} {k : Cast}
    (h : Bare s e.course.toNat (e.unit.toNat % 256) e.ft.toNat f k) (hp : k.plate = []) (hc : k.committing = false)
    (hm : mayCommit s e.course.toNat (e.unit.toNat % 256) e.ft.toNat = true) :
    exec (.castCommit e) s =
      .next (runCommit (s.modCast e.course.toNat (e.unit.toNat % 256) e.ft.toNat Cast.opened)
        e.course.toNat (e.unit.toNat % 256) e.ft.toNat) := by
  have hk := State.cast?_of_frame? h.frame h.cast
  simp only [exec, execCastCommit, hk, hc, hm, openCommit_bare h.held hp h.after, State.cast?_modCast, Option.map_some,
    Cast.opened]
  rfl

/-- Changes of the heap in the cycle of a pop wait (R368). -/
theorem afterPop_of {s : State} {c : Nat} {k : Cast} {p : Pend} (hpop : (s.crs c).heap.popped = s.cycles + 1) (hp : p ∈ k.effects)
    (hop : p.op = 0xD0 ∨ p.op = 0xD1 ∨ p.op = 0xD3 ∨ p.op = 0xD7) : afterPop s c k = true := by
  have hany : (k.effects.any fun p => [0xD0, 0xD1, 0xD3, 0xD7].contains p.op) = true :=
    List.any_eq_true.mpr ⟨p, hp, by rcases hop with h | h | h | h <;> rw [h] <;> rfl⟩
  rw [afterPop, hpop, hany, beq_self_eq_true, Bool.and_self]

/-- A load at the head of the wave buffer that is ready acts again (R215). -/
theorem execWaveLoadPerform_first {e : EvArgs} {s : State} {k : Cast} {w : WaveEntry} {ws : List WaveEntry}
    (hk : s.cast? e.course.toNat (e.unit.toNat % 256) e.ft.toNat = some k) (hwave : k.wave = w :: ws) (hload : w.load = true)
    (hperf : w.performed = false) (hwaits : w.pend ∉ k.waits) (hag : Pick.fire w.pend ∉ s.agenda)
    (hwalk : w.pend ∉ walkingOf s e.course.toNat (e.unit.toNat % 256) e.ft.toNat)
    (hready : loadReady s w.pend.fir w.own = true) :
    exec (.waveLoadPerform e) s = .next { s with agenda := s.agenda ++ [.fire w.pend] } := by
  have hfind : ∀ p : WaveEntry → Bool, p w = true → k.wave.find? p = some w := fun p hp => by
    rw [hwave, List.find?_cons_of_pos hp]
  simp only [exec, execWaveLoadPerform, hk]
  rw [hfind _ (by simp [hload, hperf, hwaits, hag, hwalk, hready])]

/-- Settles O43: `Bare.runCommit` for the commit with nothing held, `runCommit_stays` for one that waits. -/
theorem castsCommit : Obligations.CastsCommit := by
  unfold Obligations.CastsCommit
  intro e s f k c b ft cx here mask leaves out runs hf hk
  have hcast := State.cast?_of_frame? hf hk
  refine ⟨?_, ?_, ?_, ?_, ?_⟩
  · intro hm hcm hsu hheld hplate hafter heff hcs hend hw ha hh hd hr hun hch hdue
    have hb : Bare s c b ft f k := ⟨hf, hk, hheld, hafter, heff, hsu, hcs, hend, hw, ha, hh, hd, hr, hun, hch, hdue⟩
    obtain ⟨bs, hbs, hb1⟩ := hb.opened
    obtain ⟨u, hu, hframe, hmem, htr, heo, hfl⟩ := hb1.runCommit
    have hout : outOf { s with bays := bs } c b ft { f with cast := some k.opened } k.opened = k.out.map leaves := by
      simp only [outOf, Cast.opened, List.append_nil]
      rfl
    rw [hout] at htr heo
    refine ⟨u, _, ?_, hframe, rfl, rfl, rfl, rfl, rfl, rfl, hmem, htr, heo, hfl⟩
    rw [execCastCommit_bare hb hplate hcm hm]
    exact congrArg _ (hbs ▸ hu)
  · intro hcm hsu p ps hheld
    have hrun : ∀ {u f' k'}, runHeld c b ft (k.held.length + 1) s = u → u.frame? c b ft = some f' → f'.cast = some k' →
        k'.held = k.held → runs u := by
      intro u f' k' hu hf' hk' hh
      have hstay : commitStays u c f' k' = true := by simp [commitStays, hh, hheld]
      simp only [runs]
      rw [execCastCommit_committing hcast hcm, runCommit_stays hcast hsu hu hf' hk' hstay]
    refine ⟨fun hc => ?_, fun hc hrel hw => ?_, fun hord hsup hop hun => ?_, fun kind code o x hc hw => ?_⟩
    · exact hrun (runHeld_cells _ hcast hheld hc) hf hk rfl
    · refine hrun (u := callHeld s p) ?_ ((callHeld_frame? ..).trans hf) hk rfl
      rw [runHeld_waits _ hcast hheld hc hw, hrel]; rfl
    · have hrel := relHeld_of hop hord hsup hun
      refine hrun ?_ hf hk rfl
      cases hc : strandCells s p.fir with
      | true => exact runHeld_cells _ hcast hheld hc
      | false => rw [runHeld_waits _ hcast hheld hc (performHeld_waits hrel), hrel]; rfl
    · exact hrun (runHeld_home _ hcast hheld hc hw) (suspendWrite_frame? p kind code o x hf hk) rfl rfl
  · intro hcm hsu hheld hor
    have hstay : commitStays s c f k = true := by
      rcases hor with h | ⟨t, ht, hd⟩
      · simp [commitStays, h]
      · have : resultsDue s k = true := List.any_eq_true.mpr ⟨t, ht, by simpa using hd⟩
        simp [commitStays, this]
    simp only [runs]
    rw [execCastCommit_committing hcast hcm, runCommit_stays hcast hsu (runHeld_nil _ hcast hheld) hf hk hstay]
  · intro hcm hsu hheld hafter hpop ⟨p, hp, hop⟩
    have hap := afterPop_of hpop hp hop
    simp only [runs]
    rw [execCastCommit_committing hcast hcm]
    cases hstay : commitStays s c f k with
    | true => rw [runCommit_stays hcast hsu (runHeld_nil _ hcast hheld) hf hk hstay]
    | false =>
      rw [runCommit_finishes hcast hsu hf hk hheld hafter hstay]
      simp [finishCommit, hap]
  · intro w ws hwave hload hperf hwaits hag hwalk hready
    exact execWaveLoadPerform_first hcast hwave hload hperf hwaits hag hwalk hready

end Sys2Proof.Machine
end

section
/-! PROOF. The arrival of tokens (R21 to R23, R33, R250, R251, R271, R319, R388). -/

namespace Sys2Proof.Machine

/-! ### A token written into its slot (R22) -/

/-- A frame with a token in a slot, ordered after the acq partials that the token comes after. -/
def Frame.filled (t : Transit) (i : Nat) (f : Frame) : Frame :=
  { f with
    slots := put f.slots i t.tok.opnd, pres := f.pres ||| BitVec.ofNat 64 (2 ^ i)
    inp := if t.internal then f.inp else f.inp ||| BitVec.ofNat 64 (2 ^ i), arrivals := i :: f.arrivals.filter (· != i)
    after := if t.after = [] then f.after else (f.after ++ t.after).eraseDups }

/-- A token's frame, ordered so before it is matched. -/
def State.ordered (s : State) (c b ft : Nat) (t : Transit) : State :=
  if t.after.isEmpty then s else s.modFrame c b ft fun f => { f with after := (f.after ++ t.after).eraseDups }

theorem State.modFrame_of {s : State} {c b ft : Nat} {f : Frame} (hf : s.frame? c b ft = some f) (h : Frame → Frame) :
    s.modFrame c b ft h = s.setFrame c b ft (h f) := by
  simp only [State.modFrame, hf]

theorem State.setFrame_setFrame (s : State) (c b ft : Nat) (x y : Frame) :
    (s.setFrame c b ft x).setFrame c b ft y = s.setFrame c b ft y := by
  simp [State.setFrame, State.modBay]

theorem setSlot_of {s : State} {c b ft : Nat} {f : Frame} (hf : s.frame? c b ft = some f) (hsp : f.sp = false) (i : Nat)
    (o : Opnd) : setSlot s c b ft i o = s.setFrame c b ft { f with slots := put f.slots i o } := by
  simp [setSlot, hf, imageSlotPut, hsp]

theorem writeSlot_of {s : State} {c b ft : Nat} {f : Frame} (hf : s.frame? c b ft = some f) (hsp : f.sp = false) (i : Nat)
    (t : Transit) : writeSlot s c b ft i t = s.setFrame c b ft
      { f with slots := put f.slots i t.tok.opnd, pres := f.pres ||| BitVec.ofNat 64 (2 ^ i),
               arrivals := i :: f.arrivals.filter (· != i), inp := if t.internal then f.inp else f.inp ||| BitVec.ofNat 64 (2 ^ i) } := by
  simp only [writeSlot, setSlot_of hf hsp, State.frame?_setFrame, hsp, Bool.false_eq_true, if_false,
    State.modFrame_of (State.frame?_setFrame s c b ft _), State.setFrame_setFrame]

theorem writeSlot_ordered {s : State} {c b ft : Nat} {f : Frame} (hf : s.frame? c b ft = some f) (hsp : f.sp = false) (i : Nat)
    (t : Transit) : writeSlot (s.ordered c b ft t) c b ft i t = s.modFrame c b ft (Frame.filled t i) := by
  rw [State.modFrame_of hf]
  by_cases ha : t.after = []
  · rw [State.ordered, if_pos (by simp [ha]), writeSlot_of hf hsp]
    simp only [Frame.filled, ha, if_true]
  · rw [State.ordered, if_neg (by simpa using ha), State.modFrame_of hf,
      writeSlot_of (f := { f with after := (f.after ++ t.after).eraseDups }) (State.frame?_setFrame ..) hsp,
      State.setFrame_setFrame]
    simp only [Frame.filled, ha, if_false]

/-! ### The checks of R21 -/

/-- A partition entry of its context covers a token's frame. -/
def covers (s : State) (t : Transit) (el : Nat) : Bool :=
  (s.bay t.course.toNat (elBay el)).parts.any fun q =>
    q.2.cx == t.tok.cx && decide (q.2.ftl.toNat ≤ t.tok.ft.toNat) && decide (t.tok.ft.toNat ≤ q.2.fth.toNat)

theorem State.portSlot_any (s : State) (cx c el node port : Nat) (f : Nat → Bool) :
    (decide (s.portByte cx c el node port / 128 = 1) && f (s.portByte cx c el node port % 64)) =
      (s.portSlot cx c el node port).any f := by
  unfold State.portSlot
  dsimp only
  split <;> simp [*]

section
variable {s : State} {t : Transit} {el : Nat}

theorem arrivalCheck_uncovered (h : covers s t el = false) : arrivalCheck s t el = .error (kTAG, 0) := by
  unfold covers at h
  simp only [arrivalCheck, h, Bool.not_false, if_true]

theorem arrivalCheck_noRow (h : covers s t el = true) (hf : s.frame? t.course.toNat (elBay el) t.tok.ft.toNat = none) :
    arrivalCheck s t el = .error (kTAG, 1) := by
  unfold covers at h
  simp only [arrivalCheck, h, hf]
  rfl

/-- The checks on the row and on the record, in R21's order. -/
theorem arrivalCheck_row {f : Frame} (h : covers s t el = true)
    (hf : s.frame? t.course.toNat (elBay el) t.tok.ft.toNat = some f) :
    let cx := t.tok.cx.toNat
    let c := t.course.toNat
    let node := destNode t.tok.dest
    let port := destPort t.tok.dest
    arrivalCheck s t el =
      if f.it ≠ t.tok.it then .error (kTAG, 2)
      else if recOp (s.record cx c el node) = 0 then .error (kEMPTY, 0)
      else if (s.portByte cx c el node port / 64 % 2 == 1) ≠ t.tok.pl then .error (kTAG, 4)
      else if (s.portSlot cx c el node port).any f.present = true then .error (kTAG, 3)
      else if port ∉ arPorts (bitsAt (s.record cx c el node) 77 3) then .error (kTAG, 12)
      else .ok f := by
  unfold covers at h
  simp only [arrivalCheck, h, hf, State.portSlot_any, bne_iff_ne, Bool.not_true, Bool.false_eq_true, if_false,
    Bool.not_eq_eq_eq_not, List.contains_eq_mem, decide_eq_false_iff_not]

theorem arriveElem_rejected {kind code : Nat} (h : arrivalCheck s t el = .error (kind, code)) (hk : ¬ (kind = kTAG ∧ code = 1)) :
    arriveElem s t el = rejectToken s t kind code := by
  simp only [arriveElem, h, failToken]
  rw [if_neg fun h => hk ⟨h.1, h.2.1⟩]

theorem arriveElem_noRow (h : arrivalCheck s t el = .error (kTAG, 1)) :
    arriveElem s t el =
      if (s.bay t.course.toNat (elBay el)).killed.contains t.tok.ft.toNat = true then s else rejectToken s t kTAG 1 := by
  simp only [arriveElem, h, failToken, true_and]

theorem arriveElem_matched {f : Frame} (h : arrivalCheck s t el = .ok f) :
    arriveElem s t el = (matchToken s t el f).getD (s.modElem t.course.toNat el fun x => { x with input := x.input ++ [t] }) := by
  simp only [arriveElem, h]
  cases matchToken s t el f <;> rfl
end

/-! ### Matching (R22, R23) -/

/-- A token for a frame that a KILL_STRAND has freed goes without a trace (R388). -/
theorem matchToken_killing {s : State} {t : Transit} {el : Nat} {f : Frame} (hk : f.killing = true) (hc : f.cast = none)
    (ha : t.after = []) : matchToken s t el f = some s := by
  simp [matchToken, hk, hc, ha]

theorem State.ordered_eq (s : State) (c b ft : Nat) (t : Transit) : ∃ bs, s.ordered c b ft t = { s with bays := bs } := by
  unfold State.ordered
  split
  · exact ⟨s.bays, rfl⟩
  · exact ⟨_, (State.modFrame_rest s c b ft _).1⟩

/-- A completion of a token's node, now. -/
def State.entryOf (s : State) (t : Transit) (f : Frame) : Ready :=
  s.completion f.cx t.tok.ft f.it (BitVec.ofNat 6 (destNode t.tok.dest)) none t.tok.pl

section
variable {s : State} {t : Transit} {el : Nat} {f : Frame} {i n : Nat}
  (hf : s.frame? t.course.toNat (elBay el) t.tok.ft.toNat = some f) (hsp : f.sp = false) (hmv : f.mv = false)
  (hkill : f.killing = false) (hslot : s.portSlot f.cx.toNat t.course.toNat el (destNode t.tok.dest) (destPort t.tok.dest) = some i)
  (hblk : s.blockOf f.cx.toNat t.course.toNat el (destNode t.tok.dest) = some n)
include hf hsp hmv hkill hslot hblk

/-- A token for the live cast's block completes its node, or waits in its slot. -/
theorem matchToken_live {k : Cast} (hop : recOp (s.record f.cx.toNat t.course.toNat el (destNode t.tok.dest)) ≠ 7)
    (hk : f.cast = some k) (hn : k.block = n) :
    matchToken s t el f =
      let u := s.modFrame t.course.toNat (elBay el) t.tok.ft.toNat (Frame.filled t i)
      if (completeOn s t.course.toNat el (destNode t.tok.dest) (destPort t.tok.dest) f && !k.aborted) = true
      then enqueueAt u t.course.toNat el (s.entryOf t f) true else some u := by
  have hw := writeSlot_ordered hf hsp i t
  obtain ⟨bs, hbs⟩ := State.ordered_eq s t.course.toNat (elBay el) t.tok.ft.toNat t
  have hmerge : (recOp (s.record f.cx.toNat t.course.toNat el (destNode t.tok.dest)) == 0x07) = false := by simpa using hop
  simp only [matchToken, hk, hblk, hn, hslot, hkill, hsp, hmv, hmerge, beq_self_eq_true, Bool.true_or, if_true, Bool.false_eq_true,
    if_false, Option.isNone_some, Bool.or_self]
  rw [← State.ordered, hw, hbs]
  rfl

/-- A token for another block waits for the end of the live cast (R23). -/
theorem matchToken_other {k : Cast} (hk : f.cast = some k) (hn : k.block ≠ n) :
    matchToken s t el f = some (s.modFrame t.course.toNat (elBay el) t.tok.ft.toNat fun f =>
      { Frame.filled t i f with waiting := if f.waiting.any (fun w => w.1 == n) then f.waiting else f.waiting ++ [(n, s.cycles)] }) := by
  have hne : (k.block == n) = false := by simpa using hn
  have hne' : (some k.block == some n) = false := by simpa using hn
  simp only [matchToken, hk, hblk, hslot, hkill, hsp, hmv, hne, hne', Bool.false_or, Bool.false_eq_true, if_false]
  rw [← State.ordered]
  cases ha : f.waiting.any (fun w => w.1 == n) with
  | true =>
    rw [if_pos rfl, writeSlot_ordered hf hsp, State.modFrame_of hf, State.modFrame_of hf]
    simp only [ha, if_true]
    rfl
  | false =>
    rw [if_neg (by simp), State.modFrame_of hf, State.modFrame_of hf,
      writeSlot_ordered (f := { f with waiting := f.waiting ++ [(n, s.cycles)] }) (State.frame?_setFrame ..) hsp,
      State.modFrame_of (State.frame?_setFrame ..), State.setFrame_setFrame]
    simp only [ha]
    rfl

/-- A token for a block of a frame without a live cast begins the block's cast (R25). -/
theorem matchToken_begins (hk : f.cast = none) :
    matchToken s t el f = some (beginCast (s.modFrame t.course.toNat (elBay el) t.tok.ft.toNat (Frame.filled t i))
      t.course.toNat (elBay el) t.tok.ft.toNat n) := by
  have hw := writeSlot_ordered hf hsp i t
  simp only [matchToken, hk, hblk, hslot, hkill, hsp, hmv, Bool.false_eq_true, if_false]
  rw [← State.ordered, hw]
end

/-! ### The note of an arrival (R33) -/

section
variable (s : State) (t : Transit) (el : Nat)

/-- It stands in the element, whose records stay. -/
theorem bankOf_noteArrival (cx : Nat) : (noteArrival s t el).bankOf cx t.course.toNat el = s.bankOf cx t.course.toNat el := by
  have hact : ((noteArrival s t el).elem t.course.toNat el).active = (s.elem t.course.toNat el).active := by
    unfold noteArrival State.modElem
    rw [State.elem_setElem]
    split <;> rfl
  unfold State.bankOf
  rw [hact]
  rfl

theorem record_noteArrival (cx node : Nat) :
    (noteArrival s t el).record cx t.course.toNat el node = s.record cx t.course.toNat el node := by
  simp only [State.record, bankOf_noteArrival]

theorem portByte_noteArrival (cx node port : Nat) :
    (noteArrival s t el).portByte cx t.course.toNat el node port = s.portByte cx t.course.toNat el node port := by
  simp only [State.portByte, bankOf_noteArrival]

theorem portSlot_noteArrival (cx node port : Nat) :
    (noteArrival s t el).portSlot cx t.course.toNat el node port = s.portSlot cx t.course.toNat el node port := by
  simp only [State.portSlot, portByte_noteArrival]
end

/-- The checks of R21 look past the note. -/
theorem arrivalCheck_noteArrival {s : State} {t : Transit} {el : Nat} {f : Frame} (h : covers s t el = true)
    (hf : s.frame? t.course.toNat (elBay el) t.tok.ft.toNat = some f) (hit : f.it = t.tok.it) :
    let cx := t.tok.cx.toNat
    let c := t.course.toNat
    let node := destNode t.tok.dest
    let port := destPort t.tok.dest
    arrivalCheck (noteArrival s t el) t el =
      if recOp (s.record cx c el node) = 0 then .error (kEMPTY, 0)
      else if (s.portByte cx c el node port / 64 % 2 == 1) ≠ t.tok.pl then .error (kTAG, 4)
      else if (s.portSlot cx c el node port).any f.present = true then .error (kTAG, 3)
      else if port ∉ arPorts (bitsAt (s.record cx c el node) 77 3) then .error (kTAG, 12)
      else .ok f := by
  intro cx c node port
  rw [arrivalCheck_row (s := noteArrival s t el) h hf, if_neg (not_not.mpr hit), record_noteArrival, portByte_noteArrival,
    portSlot_noteArrival]

/-- A node that is no MERGE is complete when every other port that it names is present (R22). -/
theorem completeOn_of {s : State} {c el node port : Nat} {f : Frame} (h : recOp (s.record f.cx.toNat c el node) ≠ 7) :
    completeOn s c el node port f = (arPorts (bitsAt (s.record f.cx.toNat c el node) 77 3)).all fun p => p == port ||
      match s.portSlot f.cx.toNat c el node p with | some i => f.present i | none => false := by
  have h7 : (recOp (s.record f.cx.toNat c el node) == 0x07) = false := by simpa using h
  unfold completeOn
  exact (congrArg (· || _) h7).trans (Bool.false_or _)

theorem completeOn_noteArrival (s : State) (t : Transit) (el node port : Nat) {f : Frame} (hcx : f.cx = t.tok.cx) :
    completeOn (noteArrival s t el) t.course.toNat el node port f = completeOn s t.course.toNat el node port f := by
  simp only [completeOn, hcx, record_noteArrival, portSlot_noteArrival]

section
variable {s : State} {t : Transit} {el : Nat} {f : Frame} {i n : Nat}
  (hf : s.frame? t.course.toNat (elBay el) t.tok.ft.toNat = some f) (hcx : f.cx = t.tok.cx) (hsp : f.sp = false)
  (hmv : f.mv = false) (hkill : f.killing = false)
  (hslot : s.portSlot t.tok.cx.toNat t.course.toNat el (destNode t.tok.dest) (destPort t.tok.dest) = some i)
  (hblk : s.blockOf t.tok.cx.toNat t.course.toNat el (destNode t.tok.dest) = some n)
include hf hcx hsp hmv hkill hslot hblk

/-- The three ends of a token's match, once its arrival is noted. -/
theorem matchToken_noteArrival :
    let seen := noteArrival s t el
    let c := t.course.toNat
    let b := elBay el
    let ft := t.tok.ft.toNat
    let u := seen.modFrame c b ft (Frame.filled t i)
    (∀ k, f.cast = some k → k.block = n → recOp (s.record t.tok.cx.toNat c el (destNode t.tok.dest)) ≠ 7 →
      matchToken seen t el f =
        if (completeOn s c el (destNode t.tok.dest) (destPort t.tok.dest) f && !k.aborted) = true
        then enqueueAt u c el (seen.entryOf t f) true else some u) ∧
    (∀ k, f.cast = some k → k.block ≠ n → matchToken seen t el f = some (seen.modFrame c b ft fun f =>
      { Frame.filled t i f with
        waiting := if f.waiting.any (fun w => w.1 == n) then f.waiting else f.waiting ++ [(n, seen.cycles)] })) ∧
    (f.cast = none → matchToken seen t el f = some (beginCast u c b ft n)) := by
  intro seen c b ft u
  have hcxn : f.cx.toNat = t.tok.cx.toNat := congrArg BitVec.toNat hcx
  have hslot' : seen.portSlot f.cx.toNat c el (destNode t.tok.dest) (destPort t.tok.dest) = some i := by
    rw [hcxn]; exact (portSlot_noteArrival ..).trans hslot
  have hblk' : seen.blockOf f.cx.toNat c el (destNode t.tok.dest) = some n := by rw [hcxn]; exact hblk
  refine ⟨fun k hk hn hop => ?_, fun k hk hn => matchToken_other (s := seen) hf hsp hmv hkill hslot' hblk' hk hn,
    fun hk => matchToken_begins (s := seen) hf hsp hmv hkill hslot' hblk' hk⟩
  have hop' : recOp (seen.record f.cx.toNat c el (destNode t.tok.dest)) ≠ 7 := by
    rw [hcxn, show seen.record _ c el _ = _ from record_noteArrival ..]; exact hop
  rw [matchToken_live (s := seen) hf hsp hmv hkill hslot' hblk' hop' hk hn,
    show completeOn seen _ el _ _ f = _ from completeOn_noteArrival s t el _ _ hcx]
end

/-! ### TOKEN_ARRIVAL (R21, R319) -/

section
variable {e : EvArgs} {s : State} {t : Transit} {el : Nat} (hp : pickTransit s e.k.toNat = some t)
include hp

theorem execTokenArrival_early (hd : s.cycles < t.due) : exec (.tokenArrival e) s = .next s := by
  simp only [exec, execTokenArrival, hp, hd, if_true]

variable (hd : t.due ≤ s.cycles)
include hd

theorem execTokenArrival_away (hs : t.stack ≠ s.sideband.stackNo) :
    exec (.tokenArrival e) s = .next { s with transit := s.transit.erase t, eaveOut := s.eaveOut ++ [t] } := by
  simp [exec, execTokenArrival, hp, Nat.not_lt.mpr hd, hs]

/-- A token that is due at an element of a course that works waits while the element is busy, and else reaches it. -/
theorem execTokenArrival_elem (hu : unitKind (destUnit t.tok.dest) = .elem el) (hs : t.stack = s.sideband.stackNo)
    (hup : courseUp s t.course.toNat = true) :
    exec (.tokenArrival e) s = .next (if inputBusy s t el then s
      else arriveElem (noteArrival { s with transit := s.transit.erase t } t el) t el) := by
  simp only [exec, execTokenArrival, hp, Nat.not_lt.mpr hd, if_false, hs, bne_self_eq_false, hup, hu, Bool.not_true,
    Bool.false_eq_true]
end

/-! ### Crucibles (R250, R251) -/

theorem acceptOp_length (o : CruOp) (l : List CruOp) : (acceptOp o l).length = l.length + 1 := by
  induction l with
  | nil => rfl
  | cons q qs ih => unfold acceptOp; split <;> simp [ih]

theorem mem_acceptOp (o : CruOp) (l : List CruOp) : o ∈ acceptOp o l := by
  induction l with
  | nil => simp [acceptOp]
  | cons q qs ih => unfold acceptOp; split <;> simp [ih]

/-- An operation that is the first of its cycle comes last. -/
theorem acceptOp_of_new {o : CruOp} {l : List CruOp} (h : ∀ q ∈ l, q.cyc ≠ o.cyc) : acceptOp o l = l ++ [o] := by
  induction l with
  | nil => rfl
  | cons q qs ih =>
    rw [acceptOp, if_neg fun hq => h q (by simp) hq.1, ih fun x hx => h x (by simp [hx]), List.cons_append]

/-- What a firing of a crucible record does: one operation more, with the operands that met at its ports. -/
theorem fireCru_accepts (s : State) (c n node : Nat) : ∃ o : CruOp,
    ((fireCru s c n node).cru c n).accepted = (s.cru c n).accepted + 1 ∧
    ((fireCru s c n node).cru c n).ops.length = (s.cru c n).ops.length + 1 ∧
    o ∈ ((fireCru s c n node).cru c n).ops ∧ o.pend.word = (s.cru c n).record node ∧ o.done = false ∧
    ((∀ q ∈ (s.cru c n).ops, q.cyc ≠ s.cycles) → ((fireCru s c n node).cru c n).ops.getLast? = some o) ∧
    o.pend.fir.cx = (s.cru c n).cx ∧ o.pend.fir.a = lkp (s.cru c n).slots (node * 4) ∧ (fireCru s c n node).mem = s.mem := by
  unfold fireCru
  extract_lets x port g p at_ now fresh o u
  have hcru : (if now then { u with agenda := u.agenda ++ [Pick.fire p] } else u).cru c n = u.cru c n := by split <;> rfl
  have hmem : (if now then { u with agenda := u.agenda ++ [Pick.fire p] } else u).mem = s.mem := by split <;> rfl
  have hfresh : ∀ q, (fresh q).cyc = q.cyc := fun q => by simp only [fresh]; split <;> rfl
  rw [hcru, hmem, State.cru_setCru]
  refine ⟨{ o with started := now }, rfl, ?_, mem_acceptOp .., rfl, rfl, ?_, rfl, rfl, rfl⟩
  · rw [acceptOp_length, List.length_map]
  · intro h
    rw [acceptOp_of_new, List.getLast?_concat]
    intro q hq
    obtain ⟨r, hr, rfl⟩ := List.mem_map.mp hq
    rw [hfresh]
    exact h r hr

theorem cruArrivalBad_unheld {s : State} {t : Transit} {n : Nat} (h : s.holdsCru t.tok.cx.toNat t.course.toNat n = false) :
    cruArrivalBad s t n = some (kTAG, 0) := by
  simp only [cruArrivalBad, h, Bool.not_false, if_true]

theorem cruArrivalBad_none {s : State} {t : Transit} {n : Nat} (hh : s.holdsCru t.tok.cx.toNat t.course.toNat n = true)
    (hg : (s.cru t.course.toNat n).granted = true) (hcx : (s.cru t.course.toNat n).cx = t.tok.cx) (hft : t.tok.ft = 0#12)
    (hit : (s.cru t.course.toNat n).it = t.tok.it)
    (hop : recOp ((s.cru t.course.toNat n).record (destNode t.tok.dest)) ≠ 0)
    (hport : destPort t.tok.dest ∈ arPorts (bitsAt ((s.cru t.course.toNat n).record (destNode t.tok.dest)) 77 3))
    (hpl : t.tok.pl = decide (recOp ((s.cru t.course.toNat n).record (destNode t.tok.dest)) = 0xC1 ∧ destPort t.tok.dest = 1))
    (hfree : lkp (s.cru t.course.toNat n).slots (destNode t.tok.dest * 4 + destPort t.tok.dest) = none) :
    cruArrivalBad s t n = none := by
  have hplane : cruPlane ((s.cru t.course.toNat n).record (destNode t.tok.dest)) (destPort t.tok.dest) = t.tok.pl := by
    rw [hpl, cruPlane, Bool.decide_and]; rfl
  simp [cruArrivalBad, hh, hg, hcx, hft, hit, hop, hport, hplane, hfree]

/-- With one port filled, a record is ready when its others are (R251). -/
theorem cruReady_put {x : Crucible} {node port : Nat} (o : Opnd) :
    cruReady { x with slots := put x.slots (node * 4 + port) o } node = true ↔
      ∀ p ∈ arPorts (bitsAt (x.record node) 77 3), p ≠ port → (lkp x.slots (node * 4 + p)).isSome = true := by
  have hlkp : ∀ p, (lkp (put x.slots (node * 4 + port) o) (node * 4 + p)).isSome = true ↔
      (p ≠ port → (lkp x.slots (node * 4 + p)).isSome = true) := by
    intro p
    by_cases hp : p = port
    · simp [hp]
    · rw [lkp_put_other _ _ (by omega)]
      simp [hp]
  rw [cruReady, List.all_eq_true]
  exact forall₂_congr fun p _ => hlkp p

section
variable {e : EvArgs} {s : State} {t : Transit} {n : Nat} (hp : pickTransit s e.k.toNat = some t) (hd : t.due ≤ s.cycles)
  (hs : t.stack = s.sideband.stackNo) (hup : courseUp s t.course.toNat = true)
include hp hd hs hup

theorem execCrucibleTokenArrival_rejected (hu : unitKind (destUnit t.tok.dest) = .cru n) {kind code : Nat}
    (hbad : cruArrivalBad s t n = some (kind, code)) :
    exec (.crucibleTokenArrival e) s = .next (rejectToken { s with transit := s.transit.erase t } t kind code) := by
  simp [exec, execCrucibleTokenArrival, hp, Nat.not_lt.mpr hd, hs, hup, hu, hbad]

/-- A token that passes the checks fills its port, and the record fires when its ports are filled. -/
theorem execCrucibleTokenArrival_filled (hu : unitKind (destUnit t.tok.dest) = .cru n) (hbad : cruArrivalBad s t n = none) :
    let out := State.modCru { s with transit := s.transit.erase t } t.course.toNat n fun x =>
      { x with slots := put x.slots (destNode t.tok.dest * 4 + destPort t.tok.dest) t.tok.opnd }
    exec (.crucibleTokenArrival e) s = .next (if cruReady (out.cru t.course.toNat n) (destNode t.tok.dest) = true
      then fireCru out t.course.toNat n (destNode t.tok.dest) else out) := by
  simp [exec, execCrucibleTokenArrival, hp, Nat.not_lt.mpr hd, hs, hup, hu, hbad]

/-- With its other ports filled the record fires, with the operands that met. -/
theorem execCrucibleTokenArrival_fires {x : Crucible} (hu : unitKind (destUnit t.tok.dest) = .cru n)
    (hx : s.cru t.course.toNat n = x) (hbad : cruArrivalBad s t n = none)
    (hall : ∀ p ∈ arPorts (bitsAt (x.record (destNode t.tok.dest)) 77 3), p ≠ destPort t.tok.dest →
      (lkp x.slots (destNode t.tok.dest * 4 + p)).isSome = true) :
    ∃ u o, exec (.crucibleTokenArrival e) s = .next u ∧ (u.cru t.course.toNat n).accepted = x.accepted + 1 ∧
      (u.cru t.course.toNat n).ops.length = x.ops.length + 1 ∧ o ∈ (u.cru t.course.toNat n).ops ∧
      o.pend.word = x.record (destNode t.tok.dest) ∧ o.done = false ∧
      ((∀ q ∈ x.ops, q.cyc ≠ s.cycles) → (u.cru t.course.toNat n).ops.getLast? = some o) ∧ o.pend.fir.cx = x.cx ∧
      o.pend.fir.a = lkp (put x.slots (destNode t.tok.dest * 4 + destPort t.tok.dest) t.tok.opnd) (destNode t.tok.dest * 4) ∧
      u.mem = s.mem := by
  have hgo := execCrucibleTokenArrival_filled hp hd hs hup hu hbad
  extract_lets out at hgo
  have hout : out.cru t.course.toNat n =
      { x with slots := put x.slots (destNode t.tok.dest * 4 + destPort t.tok.dest) t.tok.opnd } := by
    rw [← hx]; exact State.cru_setCru ..
  have hready : cruReady (out.cru t.course.toNat n) (destNode t.tok.dest) = true := by
    rw [hout]; exact (cruReady_put _).mpr hall
  rw [if_pos hready] at hgo
  obtain ⟨o, hacc, hlen, hmem, hword, hdone, hlast, hocx, ha, hm⟩ :=
    fireCru_accepts out t.course.toNat n (destNode t.tok.dest)
  rw [hout] at hacc hlen hword hlast hocx ha
  exact ⟨_, o, hgo, hacc, hlen, hmem, hword, hdone, hlast, hocx, ha, hm⟩

/-- With another port empty the record waits. -/
theorem execCrucibleTokenArrival_waits {x : Crucible} (hu : unitKind (destUnit t.tok.dest) = .cru n)
    (hx : s.cru t.course.toNat n = x) (hbad : cruArrivalBad s t n = none) {p : Nat}
    (hp' : p ∈ arPorts (bitsAt (x.record (destNode t.tok.dest)) 77 3)) (hne : p ≠ destPort t.tok.dest)
    (hnone : lkp x.slots (destNode t.tok.dest * 4 + p) = none) :
    exec (.crucibleTokenArrival e) s =
      .next (State.modCru { s with transit := s.transit.erase t } t.course.toNat n fun x =>
        { x with slots := put x.slots (destNode t.tok.dest * 4 + destPort t.tok.dest) t.tok.opnd }) := by
  have hgo := execCrucibleTokenArrival_filled hp hd hs hup hu hbad
  extract_lets out at hgo
  have hout : out.cru t.course.toNat n =
      { x with slots := put x.slots (destNode t.tok.dest * 4 + destPort t.tok.dest) t.tok.opnd } := by
    rw [← hx]; exact State.cru_setCru ..
  rw [hgo, if_neg]
  rw [hout, cruReady_put]
  intro hall
  have := hall p hp' hne
  rw [hnone] at this
  cases this

/-! ### Drains (R271) -/

theorem execGateDrainBeat_rejected (hu : unitKind (destUnit t.tok.dest) = .gate n) {code : Nat}
    (hf : drainFate s t n = .error code) :
    exec (.gateDrainBeat e) s = .next (rejectToken { s with transit := s.transit.erase t } t kTAG code) := by
  simp [exec, execGateDrainBeat, hp, Nat.not_lt.mpr hd, hs, hup, hu, hf]

theorem execGateDrainBeat_taken (hu : unitKind (destUnit t.tok.dest) = .gate n) {sc k : Nat} (hf : drainFate s t n = .ok (sc, k)) :
    exec (.gateDrainBeat e) s = .next (modStream { s with transit := s.transit.erase t } t.course.toNat n sc fun x =>
      { x with beats := put x.beats k t.tok.val, poisoned := x.poisoned || t.tok.p }) := by
  simp [exec, execGateDrainBeat, hp, Nat.not_lt.mpr hd, hs, hup, hu, hf]
end

theorem drainFate_none {s : State} {t : Transit} {b : Nat} (h : lkp (s.bay t.course.toNat b).streams (destNode t.tok.dest) = none) :
    drainFate s t b = .error 10 := by
  simp only [drainFate, h]

/-- A beat of a bound drain, by the distance of its IT. -/
theorem drainFate_bound {s : State} {t : Transit} {b : Nat} {st : Stream}
    (h : lkp (s.bay t.course.toNat b).streams (destNode t.tok.dest) = some st) (hop : st.pend.op = 0xB3)
    (hcx : st.pend.fir.cx = t.tok.cx) (hport : destPort t.tok.dest = 0) (hpl : t.tok.pl = true) (hcount : st.count ≠ 0) :
    drainFate s t b = if st.pat.beats ≤ (t.tok.it - st.pend.fir.it).toNat then .error 11
      else if (lkp st.beats (t.tok.it - st.pend.fir.it).toNat).isSome = true then .error 3
      else .ok (destNode t.tok.dest, (t.tok.it - st.pend.fir.it).toNat) := by
  have hk : (t.tok.it.toNat + 65536 - st.pend.fir.it.toNat) % 65536 = (t.tok.it - st.pend.fir.it).toNat := by
    have := st.pend.fir.it.isLt
    rw [BitVec.toNat_sub]
    congr 1
    omega
  have hpat : drainPattern s t.course.toNat st = some st.pat := if_pos hcount
  simp only [drainFate, h, hop, hcx, hport, hpl, hpat, hk, ne_eq, not_true_eq_false, or_self, if_false, Bool.not_true,
    Bool.false_eq_true]

theorem modStream_of {s : State} {c b sc : Nat} {st : Stream} (h : lkp (s.bay c b).streams sc = some st) (f : Stream → Stream) :
    modStream s c b sc f = s.modBay c b fun y => { y with streams := put y.streams sc (f st) } := by
  simp only [modStream, State.modBay, h]

/-- Settles O42: at an element by `arrivalCheck_row` and the three ends of `matchToken`, at a crucible by `fireCru_accepts`, at a
gate by `drainFate_bound`. -/
theorem tokensArriveAndMatch : Obligations.TokensArriveAndMatch := by
  unfold Obligations.TokensArriveAndMatch
  constructor
  · intro e s t el out seen c b ft cx node port w covered row held plane slot goes hp hu
    refine ⟨execTokenArrival_early hp, fun hd => ⟨execTokenArrival_away hp hd, ?_, ?_⟩⟩
    · intro hs hup hbusy
      show exec (.tokenArrival e) s = _
      rw [execTokenArrival_elem hp hd hu hs hup, if_pos hbusy]
    intro hs hup hbusy
    have hgo : goes = .next (arriveElem seen t el) := by
      show exec (.tokenArrival e) s = _
      rw [execTokenArrival_elem hp hd hu hs hup, if_neg (by simp [hbusy])]
    have hbad : ∀ kind code, arrivalCheck seen t el = .error (kind, code) → ¬ (kind = kTAG ∧ code = 1) →
        goes = .next (rejectToken seen t kind code) := fun kind code h hk => by rw [hgo, arriveElem_rejected h hk]
    refine ⟨fun hcov => hbad _ _ (arrivalCheck_uncovered hcov) (by decide), ?_, ?_, ?_, ?_⟩
    · intro hcov hrow hkl
      rw [hgo, arriveElem_noRow (s := seen) (arrivalCheck_noRow hcov hrow)]
      exact congrArg _ (if_neg (Bool.eq_false_iff.mp hkl))
    · intro hcov hrow hkl
      rw [hgo, arriveElem_noRow (s := seen) (arrivalCheck_noRow hcov hrow)]
      exact congrArg _ (if_pos hkl)
    · intro f hcov hrow hit
      exact hbad _ _ ((arrivalCheck_row (s := seen) hcov hrow).trans (if_pos hit)) (by decide)
    · intro f hcov hrow hit
      have hchk : arrivalCheck seen t el =
          if recOp w = 0 then .error (kEMPTY, 0)
          else if plane ≠ t.tok.pl then .error (kTAG, 4)
          else if slot.any f.present = true then .error (kTAG, 3)
          else if port ∉ arPorts (bitsAt w 77 3) then .error (kTAG, 12)
          else .ok f := arrivalCheck_noteArrival (s := out) hcov hrow hit
      have hheld : ∀ i, held i = f.present i := fun i => by simp only [held, hrow, Option.map_some, Option.getD_some]
      have hany : slot.all (fun i => !(held i)) = true → slot.any f.present = false := by
        intro h
        cases hsl : slot with
        | none => rfl
        | some i => simpa [hsl, hheld] using h
      have hok : recOp w ≠ 0 → plane = t.tok.pl → port ∈ arPorts (bitsAt w 77 3) → slot.any f.present = false →
          goes = .next ((matchToken seen t el f).getD
            (seen.modElem c el fun x => { x with input := x.input ++ [t] })) := by
        intro hop hpl hport hfree
        rw [if_neg hop, if_neg (by simp [hpl]), if_neg (by simp [hfree]), if_neg (by simp [hport])] at hchk
        rw [hgo, arriveElem_matched hchk]
      refine ⟨?_, ?_, ?_, ?_, ?_, ?_⟩
      · intro hop
        exact hbad _ _ (hchk.trans (if_pos hop)) (by decide)
      · intro hop hpl
        exact hbad _ _ (hchk.trans ((if_neg hop).trans (if_pos hpl))) (by decide)
      · intro hop hpl i hsl hh
        have hfull : slot.any f.present = true := by rw [hsl]; exact (hheld i).symm.trans hh
        exact hbad _ _ (hchk.trans ((if_neg hop).trans ((if_neg (not_not.mpr hpl)).trans (if_pos hfull)))) (by decide)
      · intro hop hpl hall hport
        have hfree : ¬ slot.any f.present = true := by rw [hany hall]; simp
        exact hbad _ _ (hchk.trans ((if_neg hop).trans ((if_neg (not_not.mpr hpl)).trans ((if_neg hfree).trans (if_pos hport)))))
          (by decide)
      · intro hop hpl hport hall hkl hc ha
        rw [hok hop hpl hport (hany hall), matchToken_killing hkl hc ha]
        rfl
      · intro hop hop7 hpl hport hsp hmv hkl hcx i n hsl hh hblk bit fill written entry done
        rw [hok hop hpl hport (by rw [hsl]; exact (hheld i).symm.trans hh)]
        have hdone : completeOn s c el node port f = done := by
          have h := completeOn_of (s := s) (c := c) (el := el) (node := node) (port := port) (f := f) (by rw [hcx]; exact hop7)
          rw [hcx] at h
          exact h
        obtain ⟨hlive, hother, hbegins⟩ := matchToken_noteArrival (s := out) hrow hcx hsp hmv hkl hsl hblk
        have hlive : ∀ k, f.cast = some k → k.block = n → matchToken seen t el f =
            if (done && !k.aborted) = true then enqueueAt written c el entry true else some written :=
          fun k hk hn => hdone ▸ hlive k hk hn hop7
        refine ⟨?_, ?_, ?_, ?_, ?_⟩
        · intro k hk hn hd
          rw [hlive k hk hn, hd]; rfl
        · intro k hk hn hab
          rw [hlive k hk hn, hab, Bool.not_true, Bool.and_false]; rfl
        · intro k hk hn hab hd
          rw [hlive k hk hn, hab, hd]; rfl
        · intro k hk hn
          rw [show matchToken seen t el f = _ from hother k hk hn]; rfl
        · intro hk
          rw [show matchToken seen t el f = _ from hbegins hk]; rfl
  · intro e s t n x st out c node port w sc far next hp hd hs hup
    refine ⟨fun hu hx => ⟨?_, ?_⟩, fun hu => ⟨?_, ?_⟩⟩
    · intro hh
      exact execCrucibleTokenArrival_rejected hp hd hs hup hu (cruArrivalBad_unheld hh)
    · intro hh hg hcx hft hit hop hport hpl hfree
      have hbad : cruArrivalBad s t n = none := by
        subst hx; exact cruArrivalBad_none hh hg hcx hft hit hop hport hpl hfree
      refine ⟨fun ⟨p, hp', hne, hnone⟩ => execCrucibleTokenArrival_waits hp hd hs hup hu hx hbad hp' hne hnone, fun hall => ?_⟩
      obtain ⟨u, o, hgo, hacc, hlen, hmem, hword, hdone, hlast, hocx, ha, hm⟩ :=
        execCrucibleTokenArrival_fires hp hd hs hup hu hx hbad hall
      refine ⟨u, o, hgo, hacc, hlen, hmem, hword, hdone, hlast, hocx, fun h0 => ?_, fun h0 => ?_, hm⟩
      · rw [ha, show destPort t.tok.dest = 0 from h0, Nat.add_zero, lkp_put_same]
      · rw [ha, lkp_put_other _ _ (Nat.ne_of_lt (Nat.lt_add_of_pos_right (Nat.pos_of_ne_zero h0)))]
    · intro hsc
      exact execGateDrainBeat_rejected hp hd hs hup hu (drainFate_none hsc)
    · intro hsc hop hcx hport hpl hcount
      have hfate := drainFate_bound hsc hop hcx hport hpl hcount
      refine ⟨?_, ?_, ?_⟩
      · intro h
        exact execGateDrainBeat_rejected hp hd hs hup hu (hfate.trans (if_pos h))
      · intro h hb
        rw [if_neg (Nat.not_le.mpr h), if_pos hb] at hfate
        exact execGateDrainBeat_rejected hp hd hs hup hu hfate
      · intro h hb
        rw [if_neg (Nat.not_le.mpr h), if_neg (by rw [hb]; simp)] at hfate
        exact (execGateDrainBeat_taken hp hd hs hup hu hfate).trans (congrArg _ (modStream_of (s := out) hsc _))

end Sys2Proof.Machine
end

section
/-! PROOF. The rooms of a bay: what a change of a frame, a pool or a cast leaves of the frames and the pools, and the grant of
room, Ridge slots and crucibles (R56, R81, R82, R175 to R178). -/

namespace Sys2Proof.Machine

/-! ### Pools and frames, each after a change of the other -/

theorem State.bay_modBay (s : State) (c b : Nat) (f : Bay → Bay) : (s.modBay c b f).bay c b = f (s.bay c b) :=
  State.bay_setBay ..

theorem State.bay_modBay_other (s : State) {c b c' b' : Nat} (f : Bay → Bay) (h : c' * 256 + b' ≠ c * 256 + b) :
    (s.modBay c b f).bay c' b' = s.bay c' b' := by
  simp [State.bay, State.modBay, lkp_put_other _ _ h]

theorem State.pools_modBay (s : State) (c b : Nat) {f : Bay → Bay} (hf : ∀ y, (f y).pools = y.pools) (c' b' : Nat) :
    ((s.modBay c b f).bay c' b').pools = (s.bay c' b').pools := by
  by_cases h : c' * 256 + b' = c * 256 + b
  · rw [State.bay_of_key _ h, State.bay_of_key s h, State.bay_modBay, hf]
  · rw [State.bay_modBay_other _ _ h]

theorem State.frames_modBay (s : State) (c b : Nat) {f : Bay → Bay} (hf : ∀ y, (f y).frames = y.frames) (c' b' : Nat) :
    ((s.modBay c b f).bay c' b').frames = (s.bay c' b').frames := by
  by_cases h : c' * 256 + b' = c * 256 + b
  · rw [State.bay_of_key _ h, State.bay_of_key s h, State.bay_modBay, hf]
  · rw [State.bay_modBay_other _ _ h]

@[simp] theorem State.setFrame_pools (s : State) (c b ft : Nat) (x : Frame) (c' b' : Nat) :
    ((s.setFrame c b ft x).bay c' b').pools = (s.bay c' b').pools :=
  State.pools_modBay s c b (f := fun y => { y with frames := put y.frames ft x }) (fun _ => rfl) c' b'

@[simp] theorem State.modOwn_pools (s : State) (g : Firing) (f : Cast → Cast) (c b : Nat) :
    ((s.modOwn g f).bay c b).pools = (s.bay c b).pools :=
  State.modFrame_pools ..

@[simp] theorem State.modPool_frames (s : State) (c b pid : Nat) (f : Pool → Pool) (c' b' : Nat) :
    ((s.modPool c b pid f).bay c' b').frames = (s.bay c' b').frames :=
  State.frames_modBay s c b (fun y => by cases lkp y.pools pid <;> rfl) c' b'

theorem State.pool?_of_pools {s u : State} {c b : Nat} (h : (u.bay c b).pools = (s.bay c b).pools) (pid : Nat) :
    u.pool? c b pid = s.pool? c b pid := by
  simp only [State.pool?, h]

theorem State.frame?_of_frames {s u : State} {c b : Nat} (h : (u.bay c b).frames = (s.bay c b).frames) (ft : Nat) :
    u.frame? c b ft = s.frame? c b ft := by
  simp only [State.frame?, h]

theorem State.frame?_modPool (s : State) (c b pid : Nat) (f : Pool → Pool) (c' b' ft : Nat) :
    (s.modPool c b pid f).frame? c' b' ft = s.frame? c' b' ft :=
  State.frame?_of_frames (State.modPool_frames ..) ft

theorem State.pool?_modPool (s : State) (c b pid : Nat) (f : Pool → Pool) :
    (s.modPool c b pid f).pool? c b pid = (s.pool? c b pid).map f := by
  unfold State.modPool State.pool?
  rw [State.bay_modBay]
  cases h : lkp (s.bay c b).pools pid with
  | none => exact h
  | some p => exact lkp_put_same ..

theorem State.modPool_of {s : State} {c b pid : Nat} {p : Pool} (h : s.pool? c b pid = some p) (f : Pool → Pool) :
    s.modPool c b pid f = s.modBay c b fun y => { y with pools := put y.pools pid (f p) } := by
  have h' : lkp (s.bay c b).pools pid = some p := h
  simp only [State.modPool, State.modBay, h']

theorem State.modPool_modPool (s : State) (c b pid : Nat) (f h : Pool → Pool) :
    (s.modPool c b pid f).modPool c b pid h = s.modPool c b pid (h ∘ f) := by
  cases hp : s.pool? c b pid with
  | none =>
    have hp' : lkp (s.bay c b).pools pid = none := hp
    simp [State.modPool, State.modBay, hp']
  | some p =>
    rw [State.modPool_of (p := f p) (by rw [State.pool?_modPool, hp]; rfl), State.modPool_of hp, State.modPool_of hp]
    simp [State.modBay]

/-! ### Sending, by any firing -/

/-- What a firing's sending leaves: every pool, and every frame but its own. -/
structure OnlyOwn (g : Firing) (s u : State) : Prop where
  pools : ∀ c b, (u.bay c b).pools = (s.bay c b).pools
  frames : ∀ c b ft, c * 256 + b ≠ g.course.toNat * 256 + g.bay ∨ ft ≠ g.ft.toNat → u.frame? c b ft = s.frame? c b ft

section
variable {g : Firing} {s t u : State}

theorem OnlyOwn.of_bays (h : u.bays = s.bays) : OnlyOwn g s u :=
  ⟨fun c b => by simp only [State.bay, h], fun c b ft _ => State.frame?_of_bays h c b ft⟩

theorem OnlyOwn.trans (h : OnlyOwn g s t) (k : OnlyOwn g t u) : OnlyOwn g s u :=
  ⟨fun c b => (k.pools c b).trans (h.pools c b), fun c b ft hne => (k.frames c b ft hne).trans (h.frames c b ft hne)⟩

theorem OnlyOwn.modOwn (f : Cast → Cast) : OnlyOwn g s (s.modOwn g f) :=
  ⟨State.modOwn_pools s g f, (State.modFrame_rest s _ _ _ _).2.2⟩

theorem sendTok_onlyOwn (t : Transit) : OnlyOwn g s (sendTok s g t) := by
  unfold sendTok
  split
  · exact .of_bays rfl
  · split
    · exact .of_bays rfl
    · split
      · exact .modOwn _
      · exact .of_bays rfl

theorem sendTo_onlyOwn (e : Bool) (stack course ft it : Nat) (d : BitVec 21) (pl : Bool) (v : Option Val) :
    OnlyOwn g s (sendTo s g e stack course ft it d pl v) := by
  unfold sendTo
  split
  · exact .of_bays rfl
  · split
    · exact .of_bays rfl
    · exact sendTok_onlyOwn _

theorem emitTagged_onlyOwn (r : NodeRec) (e : Bool) (stack course ft it : Nat) (pl0 pl1 : Bool) (v0 v1 : Option Val) :
    OnlyOwn g s (emitTagged s r g e stack course ft it pl0 pl1 v0 v1) := by
  unfold emitTagged
  split
  · exact sendTo_onlyOwn ..
  · exact (sendTo_onlyOwn ..).trans (sendTo_onlyOwn ..)

theorem emitWord_onlyOwn (r : NodeRec) (x : Nat) (p : Bool) : OnlyOwn g s (emitWord s r g x p) := by
  unfold emitWord emitVals emitOn
  split
  · exact emitTagged_onlyOwn ..
  · exact .of_bays rfl
end

/-! ### A pool's list (R56 to R63) -/

/-- What the allocator serves of a pool: its list, the restore that heads it, and the moves that are left. -/
def Pool.queue (p : Pool) : List Waiter × Option AllocId × List AllocId := (p.waiters, p.pseudo, p.moving)

def State.queue? (s : State) (c b pid : Nat) : Option (List Waiter × Option AllocId × List AllocId) :=
  (s.pool? c b pid).map Pool.queue

theorem State.queue?_of_pools {s u : State} {c b : Nat} (h : (u.bay c b).pools = (s.bay c b).pools) (pid : Nat) :
    u.queue? c b pid = s.queue? c b pid := by
  simp only [State.queue?, State.pool?_of_pools h]

theorem State.queue?_modPool (s : State) (c b pid : Nat) {f : Pool → Pool} (hf : ∀ q, (f q).queue = q.queue) :
    (s.modPool c b pid f).queue? c b pid = s.queue? c b pid := by
  rw [State.queue?, State.pool?_modPool, Option.map_map, State.queue?]
  congr 1
  exact funext hf

theorem State.queue?_of_bays {s u : State} (h : u.bays = s.bays) (c b pid : Nat) : u.queue? c b pid = s.queue? c b pid :=
  State.queue?_of_pools (by simp only [State.bay, h]) pid

theorem countGrant_queue? (s : State) (c b pid : Nat) : (countGrant s c b pid).queue? c b pid = s.queue? c b pid :=
  (State.queue?_modPool _ c b pid fun _ => by rfl).trans
    (State.queue?_of_pools (State.pools_modBay s c b (fun _ => by rfl) c b) pid)

theorem guardPut_bays (s : State) (c b n : Nat) (on : Bool) : (guardPut s c b n on).bays = s.bays := by
  unfold guardPut; split <;> rfl

theorem giveBackDef_queue? (s : State) (c b pid i : Nat) : (giveBackDef s c b pid i).queue? c b pid = s.queue? c b pid :=
  State.queue?_modPool _ _ _ _ fun _ => rfl

theorem listIld_queue? (s : State) (c b pid i base : Nat) (p : Pend) :
    (listIld s c b pid i base p).queue? c b pid = s.queue? c b pid := by
  unfold listIld
  extract_lets g r
  split
  · exact (State.queue?_of_bays rfl c b pid).trans (giveBackDef_queue? s c b pid i)
  · extract_lets t
    split
    · exact (State.queue?_of_pools ((emitWord_onlyOwn ..).pools c b) pid).trans
        ((State.queue?_of_pools (State.modOwn_pools ..) pid).trans (giveBackDef_queue? s c b pid i))
    · rename_i linked _ _ _
      refine (State.queue?_of_pools (State.modOwn_pools ..) pid).trans (State.queue?_of_bays ?_ c b pid)
      show linked.bays = s.bays
      simp only [linked]
      split <;> rfl

/-- A grant leaves the list that it was taken from. -/
theorem grantAt_queue? (s : State) (c b pid : Nat) (p : Pool) (w : Waiter) (base : Nat) :
    (grantAt s c b pid p w base).queue? c b pid = s.queue? c b pid := by
  unfold grantAt
  extract_lets y g cxN s1
  have h1 : s1.queue? c b pid = s.queue? c b pid := State.queue?_of_bays (guardPut_bays ..) c b pid
  have h2 : (countGrant s1 c b pid).queue? c b pid = s.queue? c b pid := (countGrant_queue? ..).trans h1
  have hframe : ∀ ft x, ((countGrant s1 c b pid).setFrame c b ft x).queue? c b pid = s.queue? c b pid := fun ft x =>
    (State.queue?_of_pools (State.setFrame_pools ..) pid).trans h2
  split
  · split
    · exact h1
    · extract_lets ftB s2 age
      split
      · exact (State.queue?_of_pools ((emitWord_onlyOwn ..).pools c b) pid).trans
          ((State.queue?_of_pools (State.modOwn_pools ..) pid).trans (hframe ..))
      · exact (State.queue?_of_pools (State.pools_modBay _ c b (fun _ => by rfl) c b) pid).trans (hframe ..)
      · exact (State.queue?_of_bays (State.modCrs_bays ..) c b pid).trans ((State.queue?_of_pools (State.setFrame_pools ..) pid).trans
          ((State.queue?_of_bays (State.modElem_bays ..) c b pid).trans h2))
      · exact (State.queue?_of_bays (s := State.setFrame ..) (by rfl) c b pid).trans (hframe ..)
      · extract_lets s3
        split
        · exact (State.queue?_of_bays (State.modCtx_bays ..) c b pid).trans (hframe ..)
        · exact hframe ..
  · split
    · exact h1
    · extract_lets old gen ent s2
      have h3 : s2.queue? c b pid = s.queue? c b pid := (State.queue?_modPool _ c b pid fun _ => by rfl).trans h2
      split
      · exact (State.queue?_of_pools ((emitWord_onlyOwn ..).pools c b) pid).trans
          ((State.queue?_of_pools (State.modOwn_pools ..) pid).trans h3)
      · exact (listIld_queue? ..).trans h3

/-! ### A pool with an empty list, which no restore heads, has nothing to serve -/

section
variable {s : State} {c b pid : Nat} {m : List AllocId} (h : s.queue? c b pid = some ([], none, m))
include h

theorem pool?_of_idle : ∃ q, s.pool? c b pid = some q ∧ q.waiters = [] ∧ q.pseudo = none := by
  obtain ⟨q, hq, he⟩ := Option.map_eq_some_iff.mp h
  simp only [Pool.queue, Prod.mk.injEq] at he
  exact ⟨q, hq, he.1, he.2.1⟩

theorem syncPool_idle : syncPool s c b pid = s := by
  obtain ⟨q, hq, hw, -⟩ := pool?_of_idle h
  simp only [syncPool, hq, hw, syncWaits]

theorem compactIfDue_idle : compactIfDue s c b pid = s := by
  obtain ⟨q, hq, hw, hp⟩ := pool?_of_idle h
  simp only [compactIfDue, hq, hw, hp]
  split <;> rfl

theorem scanGo_idle (n : Nat) : scanGo c b pid n s = s := by
  obtain ⟨q, hq, hw, hp⟩ := pool?_of_idle h
  cases n with
  | zero => rfl
  | succ n =>
    simp only [scanGo, hq, hw, firstFit]
    split <;> rfl

theorem scanPool_idle : scanPool s c b pid = s := by
  obtain ⟨q, hq, -, -⟩ := pool?_of_idle h
  simp only [scanPool, hq, scanGo_idle h, compactIfDue_idle h, syncPool_idle h]

theorem serveHead_idle : serveHead s c b pid = s := by
  obtain ⟨q, hq, -, hp⟩ := pool?_of_idle h
  simp only [serveHead, hq, hp, Option.isSome_none, Bool.false_eq_true, if_false, scanPool_idle h]

/-- A request that comes to it and fits is granted at once (R56). -/
theorem joinPool_granted {p : Pool} {w : Waiter} {base : Nat} (hp : s.pool? c b pid = some p)
    (hfit : fitsAt (s.bay c b) pid p w.cx w = some base) : joinPool s c b pid w = grantAt s c b pid p w base := by
  obtain ⟨q, hq, hw, hn⟩ := pool?_of_idle h
  obtain rfl : q = p := Option.some.inj (hq.symm.trans hp)
  have hidle := (grantAt_queue? s c b pid q w base).trans h
  simp [joinPool, hp, hw, hn, hfit, compactIfDue_idle hidle, syncPool_idle hidle]
end

/-! ### What a node is granted (R56, R175, R176) -/

theorem State.ownLink_of {s u : State} {g : Firing} (hc : u.crucibles = s.crucibles)
    (hf : u.frame? g.course.toNat g.bay g.ft.toNat = s.frame? g.course.toNat g.bay g.ft.toNat) : u.ownLink g = s.ownLink g := by
  simp only [State.ownLink, State.strandOf, State.linkOf, State.cast?, State.cru, hc, hf]

theorem freeTag_free {y : Bay} {cx ft : Nat} (h : freeTag y cx = some ft) : lkp y.frames ft = none := by
  have := List.find?_some h
  simp only [Bool.and_eq_true, Option.isNone_iff_eq_none] at this
  exact this.1.2

theorem countGrant_frames (s : State) (c b pid c' b' : Nat) :
    ((countGrant s c b pid).bay c' b').frames = (s.bay c' b').frames := by
  rw [countGrant, State.modPool_frames, State.frames_modBay _ _ _ fun _ => by rfl]

/-- The row of a frame that a node is granted: it is new, and has the issuing frame's linkage. -/
theorem grantAt_frame {s : State} {g : Firing} {pid base ft : Nat} {p : Pool} {w : Waiter} {own : Frame} (hk : p.kind = 0#2)
    (hw : w.party = .node) (hg : w.pend.fir = g) (hft : freeTag (s.bay g.course.toNat g.bay) g.cx.toNat = some ft)
    (hown : s.frame? g.course.toNat g.bay g.ft.toNat = some own) :
    (grantAt s g.course.toNat g.bay pid p w base).frame? g.course.toNat g.bay ft =
      some (newFrame g.cx w pid base (s.bay g.course.toNat g.bay).grantAge g.it (s.ownLink g) own.faultSeq) := by
  have hne : ft ≠ g.ft.toNat := by
    rintro rfl
    rw [State.frame?, freeTag_free hft] at hown
    cases hown
  simp only [grantAt, hk, if_true, hw, hft, hg]
  generalize hs1 : guardPut s g.course.toNat g.bay (base + w.size) w.guard = s1
  have hb : s1.bays = s.bays := hs1 ▸ guardPut_bays ..
  have hc : s1.crucibles = s.crucibles := by rw [← hs1]; unfold guardPut; split <;> rfl
  have hrow : (countGrant s1 g.course.toNat g.bay pid).frame? g.course.toNat g.bay g.ft.toNat = some own :=
    (State.frame?_of_frames (countGrant_frames ..) _).trans ((State.frame?_of_bays hb ..).trans hown)
  rw [(emitWord_onlyOwn ..).frames _ _ _ (.inr hne), (OnlyOwn.modOwn _).frames _ _ _ (.inr hne), State.frame?_setFrame, hrow,
    State.ownLink_of (s := s) (u := countGrant s1 _ _ _) hc (hrow.trans hown.symm)]
  rfl

/-- The pool-map entry of a buffer that a node is granted: the lowest free one, its generation raised. -/
theorem grantAt_buf {s : State} {c b pid base i : Nat} {p : Pool} {w : Waiter} (hp : s.pool? c b pid = some p)
    (hk : p.kind = 1#2) (hi : freeEntry p = some i) :
    ∃ q e, (grantAt s c b pid p w base).pool? c b pid = some q ∧ lkp q.pmap i = some e ∧ e.v = true ∧ e.sp = false ∧
      e.mv = false ∧ e.ch = false ∧ e.gen = ((lkp p.pmap i).map PEntry.gen).getD 0 + 1 ∧ e.base = BitVec.ofNat 16 base ∧
      e.size = BitVec.ofNat 16 w.size ∧ e.uc = w.uc ∧ e.hft = w.pend.fir.ft := by
  have hk0 : p.kind ≠ 0#2 := by rw [hk]; decide
  have hp1 : (guardPut s c b (base + w.size) w.guard).pool? c b pid = some p :=
    (State.pool?_of_pools (by simp only [State.bay, guardPut_bays]) pid).trans hp
  simp only [grantAt, if_neg hk0, hi, if_pos hk]
  rw [State.pool?_of_pools ((emitWord_onlyOwn ..).pools c b), State.pool?_of_pools (State.modOwn_pools ..), State.pool?_modPool,
    countGrant, State.pool?_modPool, State.pool?_of_pools (State.pools_modBay _ c b (fun _ => by rfl) c b), hp1]
  refine ⟨_, _, rfl, lkp_put_same .., rfl, rfl, rfl, rfl, rfl, rfl, rfl, rfl, rfl⟩

/-! ### The instructions (R175 to R178) -/

theorem allocNode_free {s : State} {r : NodeRec} (act : State → State) (h : actsFreely s r (argsCtl s r s.firing)) :
    allocNode s r act = act s := by
  have ⟨_, _, _, _, hp⟩ := h
  simp [allocNode, actNode_free _ h, hp]

theorem bitsAt_eq {n : Nat} (x : BitVec n) (lo len : Nat) : bitsAt x lo len = (x.extractLsb' lo len).toNat := by
  simp [bitsAt, Nat.shiftRight_eq_div_pow]

/-! ### Ridge slots and crucibles (R81, R82) -/

theorem sendsValue_rdgWaits (s : State) (r : NodeRec) (x : BitVec 64) (p : Bool) : (sendsValue s r x p).rdgWaits = s.rdgWaits := by
  unfold sendsValue sendsPayload sendsPair
  split
  · unfold afterSend
    split
    · rfl
    · exact State.modOwn_rdgWaits ..
  · rfl

/-- The only request of the list is served, when its context has an idle slot. -/
theorem scanSlots_one {s : State} {r : NodeRec} {op k : Nat} (hk : s.idleSlot s.firing.cx.toNat = some k) (hw : s.rdgWaits = [])
    (t n : BitVec 21) :
    scanSlots { s with rdgTicket := n, rdgWaits := [(t, pendOf op r s.firing)] } = sendsValue
      ((setSlotState { s with rdgTicket := n } k .granted).modOwn s.firing fun q => { q with gotRdg := q.gotRdg ++ [k] })
      r (BitVec.ofNat 64 k) false := by
  have hk' : State.idleSlot { s with rdgTicket := n, rdgWaits := [(t, pendOf op r s.firing)] } s.firing.cx.toNat = some k := hk
  have hs : ({ s with rdgTicket := n, rdgWaits := [] } : State) = { s with rdgTicket := n } := by rw [← hw]
  have hgrant : grantSlot { s with rdgTicket := n } (pendOf op r s.firing) k = sendsValue
      ((setSlotState { s with rdgTicket := n } k .granted).modOwn s.firing fun q => { q with gotRdg := q.gotRdg ++ [k] })
      r (BitVec.ofNat 64 k) false := by
    rw [grantSlot, pendOf_r, pendOf_fir, emitWord_of]
    simp [setSlotState]
  have hserve : serveSlots [(t, pendOf op r s.firing)] { s with rdgTicket := n, rdgWaits := [(t, pendOf op r s.firing)] } =
      grantSlot { s with rdgTicket := n } (pendOf op r s.firing) k := by
    simp only [serveSlots, pendOf_fir, hk', bne_self_eq_false, Bool.false_eq_true, not_false_eq_true, List.filter_cons_of_neg,
      List.filter_nil, hs]
  have hnone : (grantSlot { s with rdgTicket := n } (pendOf op r s.firing) k).rdgWaits = [] := by
    rw [hgrant, sendsValue_rdgWaits, State.modOwn_rdgWaits]
    exact hw
  simp only [scanSlots, hserve]
  rw [hnone, hgrant]
  rfl

/-- The link of a firing is that of its frame or of its crucible, whatever list that has. -/
theorem State.ownLink_setCru {s : State} {c n : Nat} {x : Crucible} (hx : x.link = (s.cru c n).link) (g : Firing) :
    (s.setCru c n x).ownLink g = s.ownLink g := by
  have hlink : ∀ c' n', ((s.setCru c n x).cru c' n').link = (s.cru c' n').link := by
    intro c' n'
    by_cases hk : c' * 32 + n' = c * 32 + n
    · simp only [State.cru, State.setCru, hk, lkp_put_same]
      exact hx
    · simp only [State.cru, State.setCru, lkp_put_other _ _ hk]
  have hl : (s.setCru c n x).linkOf g = s.linkOf g := by
    unfold State.linkOf
    split
    · exact hlink ..
    · rfl
  simp only [State.ownLink, State.strandOf, hl]
  rfl

theorem State.setCru_setCru (s : State) (c n : Nat) (x y : Crucible) : (s.setCru c n x).setCru c n y = s.setCru c n y := by
  simp [State.setCru]

/-- The only request of a free crucible is served, when its context holds the crucible. -/
theorem scanCru_one {s : State} {c n : Nat} {y : Crucible} {t : BitVec 21} {p : Pend} (hg : y.granted = false)
    (hw : y.waiters = [(t, p)]) (hh : s.holdsCru p.fir.cx.toNat c n = true) :
    scanCru (s.setCru c n y) c n = grantCru (s.setCru c n { y with waiters := [] }) c n p := by
  have hh' : (s.setCru c n y).holdsCru p.fir.cx.toNat c n = true := hh
  simp [scanCru, hg, hw, hh', syncTickets, State.setCru_setCru]

/-- What a crucible's grant to the firing at hand does. -/
theorem grantCru_eq {s : State} {r : NodeRec} {op c n : Nat} {x : Crucible} (hx : x.link = (s.cru c n).link) :
    grantCru (s.setCru c n x) c n (pendOf op r s.firing) = sendsValue
      ((s.setCru c n (x.grant s.firing.cx s.firing.it (s.ownLink s.firing))).modOwn s.firing fun q =>
        { q with gotCru := q.gotCru ++ [n] }) r (BitVec.ofNat 64 (frameWord 1 c n s.firing.it.toNat 0)) false := by
  simp only [grantCru, pendOf_r, pendOf_fir, State.modCru, State.cru_setCru, State.setCru_setCru, State.ownLink_setCru hx]
  exact emitWord_of _ _ _ _ _ (by simp)

section
variable {s : State} {r : NodeRec} (h : actsFreely s r (argsCtl s r s.firing))
include h

section
variable {p : Pool} {base : Nat} (hp : s.pool? s.firing.course.toNat s.firing.bay (bitsAt r.lit 0 3) = some p)
  (hcx : p.cx = s.firing.cx) (hq : p.queue = ([], none, []))
include hp hcx hq

theorem execAllocFrm_granted {m : PMap}
    (hm : s.mapOf s.firing.cx.toNat s.firing.course.toNat s.firing.unit.toNat (bitsAt r.lit 8 8) = some m) :
    let w := nodeWaiter s 0x20 r m.gran m.slots m.dmask (bitsAt r.lit 8 8) 0 (r.var == 1#4)
    fitsAt (s.bay s.firing.course.toNat s.firing.bay) (bitsAt r.lit 0 3) p s.firing.cx.toNat w = some base →
    exec (.allocFrm r) s = .next (grantAt s s.firing.course.toNat s.firing.bay (bitsAt r.lit 0 3) p w base) := by
  intro w hfit
  have hqueue : s.queue? s.firing.course.toNat s.firing.bay (bitsAt r.lit 0 3) = some ([], none, []) := by
    rw [State.queue?, hp, Option.map_some, hq]
  simp only [exec, execAllocFrm, allocNode_free _ h, ownPool, hp, hcx, beq_self_eq_true, if_true, hm]
  rw [joinPool_granted hqueue hp hfit]

theorem execAllocBuf_granted :
    let w := nodeWaiter s 0x21 r (bitsAt r.lit 16 16) 0 0 0 (bitsAt r.lit 8 8) false
    fitsAt (s.bay s.firing.course.toNat s.firing.bay) (bitsAt r.lit 0 3) p s.firing.cx.toNat w = some base →
    exec (.allocBuf r) s = .next (grantAt s s.firing.course.toNat s.firing.bay (bitsAt r.lit 0 3) p w base) := by
  intro w hfit
  have hqueue : s.queue? s.firing.course.toNat s.firing.bay (bitsAt r.lit 0 3) = some ([], none, []) := by
    rw [State.queue?, hp, Option.map_some, hq]
  simp only [exec, execAllocBuf, allocNode_free _ h, ownPool, hp, hcx, beq_self_eq_true, if_true]
  rw [joinPool_granted hqueue hp hfit]
end

theorem execAllocRdg_unheld (hn : s.runSlots s.firing.cx.toNat = []) :
    exec (.allocRdg r) s = .next (fault s s.firing kHOLDING 2) := by
  simp [exec, execAllocRdg, allocNode_free _ h, hn]

theorem execAllocCru_unheld (hn : s.holdsCru s.firing.cx.toNat s.firing.course.toNat (bitsAt r.lit 0 5) = false) :
    exec (.allocCru r) s = .next (fault s s.firing kHOLDING 2) := by
  simp [exec, execAllocCru, allocNode_free _ h, hn]

/-- With nobody waiting, the lowest idle slot is granted (R81). -/
theorem execAllocRdg_granted {k : Nat} (hw : s.rdgWaits = []) (hk : s.idleSlot s.firing.cx.toNat = some k) :
    exec (.allocRdg r) s = .next (sendsValue
      ((setSlotState { s with rdgTicket := s.rdgTicket + 1 } k .granted).modOwn s.firing fun q => { q with gotRdg := q.gotRdg ++ [k] })
      r (BitVec.ofNat 64 k) false) := by
  have hheld : s.runSlots s.firing.cx.toNat ≠ [] := by
    intro hr
    rw [State.idleSlot, hr] at hk
    cases hk
  have hrun : exec (.allocRdg r) s =
      .next (scanSlots { s with rdgTicket := s.rdgTicket + 1, rdgWaits := [(s.rdgTicket, pendOf 0x22 r s.firing)] }) := by
    simp [exec, execAllocRdg, allocNode_free _ h, hheld, hw]
  rw [hrun, scanSlots_one hk hw]

/-- With nobody waiting, a free crucible of the context is granted (R82). -/
theorem execAllocCru_granted {x : Crucible} (hn : s.holdsCru s.firing.cx.toNat s.firing.course.toNat (bitsAt r.lit 0 5) = true)
    (hx : s.cru s.firing.course.toNat (bitsAt r.lit 0 5) = x) (hg : x.granted = false) (hw : x.waiters = []) :
    exec (.allocCru r) s = .next (sendsValue ((s.setCru s.firing.course.toNat (bitsAt r.lit 0 5)
        (Crucible.grant { x with ticket := x.ticket + 1 } s.firing.cx s.firing.it (s.ownLink s.firing))).modOwn s.firing fun q =>
          { q with gotCru := q.gotCru ++ [bitsAt r.lit 0 5] })
      r (BitVec.ofNat 64 (frameWord 1 s.firing.course.toNat (bitsAt r.lit 0 5) s.firing.it.toNat 0)) false) := by
  have hs : ({ x with ticket := x.ticket + 1, waiters := [] } : Crucible) = { x with ticket := x.ticket + 1 } := by rw [← hw]
  have hrun : exec (.allocCru r) s = .next (scanCru (s.setCru s.firing.course.toNat (bitsAt r.lit 0 5)
      { x with ticket := x.ticket + 1, waiters := [(x.ticket, pendOf 0x23 r s.firing)] }) s.firing.course.toNat (bitsAt r.lit 0 5)) := by
    simp [exec, execAllocCru, allocNode_free _ h, hn, hx, hw, State.modCru]
  rw [hrun, scanCru_one (y := { x with ticket := x.ticket + 1, waiters := _ }) hg rfl hn, hs, grantCru_eq (by rw [← hx])]
end

/-- Settles O7: in a pool by `joinPool_granted`, `grantAt_frame` and `grantAt_buf`, of Ridge slots and crucibles by
`scanSlots_one` and `scanCru_one`. -/
theorem roomRequestsAreGranted : Obligations.RoomRequestsAreGranted := by
  unfold Obligations.RoomRequestsAreGranted
  simp only [← bitsAt_eq]
  refine ⟨?_, ?_⟩
  · intro r s p base h hp hcx hw hn hm
    have hq : p.queue = ([], none, []) := by rw [Pool.queue, hw, hn, hm]
    refine ⟨fun m own ft hk hmap hown hft hfit => ?_, fun i hk hi hfit => ?_⟩
    · refine ⟨execAllocFrm_granted h hp hcx hq hmap hfit, _, grantAt_frame hk rfl (pendOf_fir ..) hft hown, ?_⟩
      simp only [newFrame, nodeWaiter, and_self]
    · obtain ⟨q, e, hq', he, hv, hsp, hmv, hch, hgen, hbase, hsize, huc, hhft⟩ := grantAt_buf hp hk hi
        (w := nodeWaiter s 0x21 r (bitsAt r.lit 16 16) 0 0 0 (bitsAt r.lit 8 8) false) (base := base)
      refine ⟨execAllocBuf_granted h hp hcx hq hfit, q, e, hq', he, hv, hsp, hmv, hch, hgen, hbase, ?_, ?_, hhft⟩
      · rw [hsize]; simp only [nodeWaiter, bitsAt_eq, BitVec.ofNat_toNat, BitVec.setWidth_eq]
      · rw [huc]; simp only [nodeWaiter, bitsAt_eq, BitVec.ofNat_toNat, BitVec.setWidth_eq]
  · intro r s h
    exact ⟨fun k hw hk => execAllocRdg_granted h hw hk, execAllocRdg_unheld h,
      fun hn hg hw => execAllocCru_granted h hn rfl hg hw, execAllocCru_unheld h⟩

end Sys2Proof.Machine
end

section
/-! PROOF. A store to a page of which a bank has no backing (R219, R396, R397). -/

namespace Sys2Proof.Machine

/-! ### A bay whose cache holds a page that has lost a bank -/

/-- A page of class 0 of context 1, at 0x1_0000, whose backing is bank 8 of bay 0 of course 0. -/
def bankPage : TlbEntry where
  cx := 1
  va := 0x10000
  size := 0x10000
  base := 0x80000
  bsize := 0x10000
  boff := 0
  cls := 0
  w := true
  dirty := true
  gen := 0

/-- The mark of that page once its bank has failed with no spare bank free: its backing has moved to none (R396). -/
def bankLost : LostPage where
  pa := 0x80000
  size := 0x10000
  leaves := []
  gone := [8]

/-- The reset state with the page in the bay's cache, and marked. -/
def lostBankState : State :=
  { State.reset with
    bays := [(0, { Bay.empty with tlb := [bankPage] })]
    lostPages := [bankLost] }

/-- ST.n8 of 0xAB at the first byte of the page, by element 0 of bay 0 for context 1. -/
def storeToLost : Pend where
  word := recWord 0x91 { var := 0, ty := 4, ar := 3, tg := 0, pl := false, d0 := 0x1FFFFF, d1 := 0x1FFFFF, lit := 0 }
  fir := { Firing.none with cx := 1, a := some (plain 0x10000), b := some (plain 0xAB) }

/-! ### Its store -/

theorem memAddr_storeToLost :
    memAddr storeToLost.op storeToLost.r storeToLost.fir (memWidth storeToLost.op storeToLost.r) = .addr 0x10000 := by
  decide +kernel

/-- The store lands: its address is that of the page's first byte, and nothing of memory changes on the way. -/
theorem land_storeToLost :
    (match land lostBankState storeToLost.fir 0x10000 (memWidth storeToLost.op storeToLost.r)
        (memAlign storeToLost.op storeToLost.r) clsStore with
      | .at_ s as => s.mem == lostBankState.mem && as == [0x80000]
      | _ => false) = true := by
  decide +kernel

/-- Performed, it leaves memory as it was: the byte has nowhere to go. -/
theorem performStore_storeToLost :
    (match performStore lostBankState storeToLost with
      | .done s => Memory.read s.mem 0x80000 == 0
      | _ => false) = true := by
  decide +kernel

/-- Refutes O12: the bank under the address has no backing, so the byte 0xAB that the store has there is not written (R396). -/
theorem not_performedStoreFrame : ¬ Obligations.PerformedStoreFrame := by
  unfold Obligations.PerformedStoreFrame
  intro h
  have hland := land_storeToLost
  have hdone := performStore_storeToLost
  split at hland
  case h_1 s' as hl =>
    simp only [Bool.and_eq_true, beq_iff_eq] at hland
    obtain ⟨hmem, rfl⟩ := hland
    obtain ⟨-, hwrites⟩ := h lostBankState s' s' storeToLost 0x10000 [0x80000] (by decide) (.inl (by decide +kernel)) memAddr_storeToLost
    obtain ⟨u, hu, hbytes, -⟩ := hwrites (by decide) hl hmem (by decide +kernel) (by decide)
    have hread := hbytes 0 0x80000 rfl
    rw [hu] at hdone
    simp only [beq_iff_eq] at hdone
    rw [hdone] at hread
    exact absurd hread (by decide +kernel)
  case h_2 => cases hland

end Sys2Proof.Machine
end

section
/-! PROOF. Walkers, the ends of walks, and page pulls (R317, R318, R414, R432, R433). -/

namespace Sys2Proof.Machine

/-! ### A walker (R317) -/

section
variable {e : EvArgs} {s : State} {w : Walk}

theorem execWalkerStart_starts (h : (s.crs e.course.toNat).walks.find? (fun x => !x.begun) = some w)
    (hfree : ((s.crs e.course.toNat).walks.filter Walk.begun).length < 64) :
    exec (.walkerStart e) s = .next (s.modCrs e.course.toNat fun y => { y with
      walks := y.walks.map fun x => if x = w then startWalk s e.course.toNat w else x }) := by
  simp only [exec, execWalkerStart, h, if_neg (Nat.not_le.mpr hfree), beq_iff_eq]

theorem execWalkerStart_waits (h : (s.crs e.course.toNat).walks.find? (fun x => !x.begun) = some w)
    (hfull : 64 ≤ ((s.crs e.course.toNat).walks.filter Walk.begun).length) : exec (.walkerStart e) s = .next s := by
  simp only [exec, execWalkerStart, h, if_pos hfull]

/-! ### The end of a walk (R317, R318, R414) -/

section
variable (hw : ((s.crs e.course.toNat).walks.filter Walk.begun)[e.k.toNat]? = some w)
include hw

theorem execWalkComplete_early (hd : s.cycles < w.due) : exec (.walkComplete e) s = .next s := by
  simp [exec, execWalkComplete, hw, hd]

variable (hh : (s.crs e.course.toNat).holder = some w.cx) (hd : w.due ≤ s.cycles)
include hh hd

/-- A generation that has moved: the walk begins again (R414). -/
theorem execWalkComplete_again (hg : w.gen ≠ (s.ctx w.cx.toNat).gen) :
    exec (.walkComplete e) s = .next (s.modCrs e.course.toNat fun y => { y with
      walks := y.walks.map fun x => if x = w then startWalk s e.course.toNat w else x }) := by
  simp [exec, execWalkComplete, hw, hh, Nat.not_lt.mpr hd, hg]

variable (hg : w.gen = (s.ctx w.cx.toNat).gen)
include hg

/-- A walk that meets a leaf marked M waits for its page (R432). -/
theorem execWalkComplete_pulls {x : XErr} (hx : s.walk w.cx.toNat (w.page * 2 ^ 16) = .error x) (hp : x.pull.isSome = true) :
    exec (.walkComplete e) s = .next s := by
  simp only [exec, execWalkComplete, hw, hh, Option.map_some, Option.getD_some, beq_self_eq_true, Bool.not_true, Nat.not_lt.mpr hd,
    decide_false, Bool.or_self, Bool.false_eq_true, if_false, hg, bne_self_eq_false, hx, hp, if_true]

/-- A walk that fails gives its fault to every access that waits for it (R318). -/
theorem execWalkComplete_fails {x : XErr} (hx : s.walk w.cx.toNat (w.page * 2 ^ 16) = .error x) (hp : x.pull = none) :
    exec (.walkComplete e) s = .next (w.users.foldl (fun s p => walkFault s p x.kind x.code x.owner (w.page * 2 ^ 16))
      (s.modCrs e.course.toNat fun y => { y with walks := y.walks.erase w })) := by
  simp only [exec, execWalkComplete, hw, hh, Option.map_some, Option.getD_some, beq_self_eq_true, Bool.not_true, Nat.not_lt.mpr hd,
    decide_false, Bool.or_self, Bool.false_eq_true, if_false, hg, bne_self_eq_false, hx, hp, Option.isSome_none]

/-- A walk that ends well fills the caches of its bays, and its accesses act again. -/
theorem execWalkComplete_ends {o : XOk} (ho : s.walk w.cx.toNat (w.page * 2 ^ 16) = .ok o)
    (ha : s.firstAsleep (o.tags.map (64 * ·.1)) = none) :
    exec (.walkComplete e) s = .next (wakeUsers
      ((w.users.map Pend.fir ++ w.guests.filter fun g => !g.isCru).map Firing.bay |>.eraseDups.foldl
        (fun s b => install s e.course.toNat b w.cx.toNat (w.page * 2 ^ 16) o)
        (s.modCrs e.course.toNat fun y => { y with walks := y.walks.erase w })) w.users) := by
  simp only [exec, execWalkComplete, hw, hh, Option.map_some, Option.getD_some, beq_self_eq_true, Bool.not_true, Nat.not_lt.mpr hd,
    decide_false, Bool.or_self, Bool.false_eq_true, if_false, hg, bne_self_eq_false, ho, ha, Option.isSome_none]
end
end

/-! ### A page brought into a bay's cache (R316) -/

theorem tagLines_eq (s : State) (l : List (Nat × Nat)) : ∃ lt, tagLines s l = { s with lineTags := lt } := by
  induction l generalizing s with
  | nil => exact ⟨s.lineTags, rfl⟩
  | cons x l ih =>
    obtain ⟨lt, h⟩ := ih { s with lineTags := put s.lineTags x.1 _ }
    exact ⟨lt, h⟩

/-- A page that holds no structure words is brought in by its entry and by the tags of the lines that its walk read. -/
theorem install_eq (s : State) (c b cx va : Nat) {o : XOk} (h : o.cls ≠ 3) :
    ∃ lt bs, install s c b cx va o = { s with lineTags := lt, bays := bs } := by
  obtain ⟨lt, ht⟩ := tagLines_eq s o.tags
  refine ⟨lt, (install s c b cx va o).bays, ?_⟩
  simp only [install, if_neg fun hc => h (And.left hc), ht]
  rfl

theorem foldl_install_eq (c cx va : Nat) {o : XOk} (h : o.cls ≠ 3) (l : List Nat) (s : State) :
    ∃ lt bs, l.foldl (fun s b => install s c b cx va o) s = { s with lineTags := lt, bays := bs } := by
  induction l generalizing s with
  | nil => exact ⟨s.lineTags, s.bays, rfl⟩
  | cons b l ih =>
    obtain ⟨lt, bs, hb⟩ := install_eq s c b cx va h
    rw [List.foldl_cons, hb]
    exact ih _

/-! ### Pulls (R432, R433) -/

section
variable {e : EvArgs} {s : State} {w : Walk} {owner entry src dst size : Nat}
  (hw : (pullWalks s e.course.toNat)[e.k.toNat]? = some w) (hq : pullOf s w = some (owner, entry, src, dst, size))
include hw hq

/-- A page whose source is within reach, whole and awake is copied, and its leaf rewritten. -/
theorem execPagePull_pulls {v : State} (hr : s.unreachable (sourceByte s (s.ctx owner).parent.toNat src size) = false)
    (hl : s.lostByte (sourceByte s (s.ctx owner).parent.toNat src size) = false)
    (ha : s.firstAsleep [sourceByte s (s.ctx owner).parent.toNat src size, sourceByte s (s.ctx owner).parent.toNat dst size] = none)
    (hv : pullLines (s.ctx owner).parent.toNat src dst size (size / 64) 0 s = some v) :
    exec (.pagePull e) s = .next (rewriteLeaf v owner entry dst) := by
  simp [exec, execPagePull, hw, hq, pullSource, pullNow, pullCode, hr, hl, ha, hv]

/-- A lost pull: the walks of every course that wait for the same page are lost with its code. -/
theorem execPullLost_lost {code : Nat}
    (hc : pullCode s (sourceByte s (s.ctx owner).parent.toNat src size) e.aux.toNat = some code) :
    exec (.pullLost e) s = .next ((List.range 16).foldl (fun t d =>
      ((pullWalks t d).filter fun x => ((pullOf s x).map fun q => (q.1, q.2.1)) == some (owner, entry)).foldl
        (fun t x => walkLost code owner t d x) t) s) := by
  simp only [exec, execPullLost, hw, hq, pullSource, hc]
end

/-- Settles O47: each clause is the step of its event, `execWalkComplete_ends` with `foldl_install_eq` the one of a walk that
ends well. -/
theorem walksAndPullsAct : Obligations.WalksAndPullsAct := by
  unfold Obligations.WalksAndPullsAct
  intro e s w c begun wave va gone failed lost page
  refine ⟨fun _ _ _ _ _ => rfl, fun h => ⟨execWalkerStart_starts h, execWalkerStart_waits h⟩, execWalkComplete_early, ?_,
    execWalkComplete_again, ?_⟩
  · intro hw hh hd hg
    refine ⟨fun o ho hcls ha => ?_, fun x hx hp => execWalkComplete_fails hw hh hd hg hx hp,
      fun x hx hp => execWalkComplete_pulls hw hh hd hg hx hp⟩
    obtain ⟨lt, bs, hinst⟩ := foldl_install_eq c w.cx.toNat va hcls
      ((w.users.map Pend.fir ++ w.guests.filter fun g => !g.isCru).map Firing.bay).eraseDups gone
    refine ⟨_, execWalkComplete_ends hw hh hd hg ho ha, ?_⟩
    rw [hinst]
    refine ⟨rfl, ?_, rfl, rfl⟩
    show (gone.crs c).walks = _
    rw [State.crs_modCrs]
  · intro owner entry src dst size hw hq up a
    refine ⟨fun v hr hl ha hv => execPagePull_pulls hw hq hr hl ha hv, fun hr => ?_, fun hr hl => ?_, fun hr hl hx => ?_⟩
    all_goals refine execPullLost_lost hw hq ?_
    · exact if_pos hr
    · simp only [pullCode, up, a, hr, hl]; rfl
    · simp [pullCode, up, a, hr, hl, hx]

end Sys2Proof.Machine
end

section
/-! PROOF. What the stack's own writes leave of the rooms: frames, pools, and tokens in flight (R66, R70, R415, R432, R453). -/

namespace Sys2Proof.Machine

/-- Every frame and every pool is as it was, and the tokens in flight are. -/
structure KeepsRoom (s u : State) : Prop where
  frames : ∀ c b, (u.bay c b).frames = (s.bay c b).frames
  pools : ∀ c b, (u.bay c b).pools = (s.bay c b).pools
  transit : u.transit = s.transit

/-! ### The relation -/

section
variable {s t u : State}

theorem KeepsRoom.of_bays (hb : u.bays = s.bays) (ht : u.transit = s.transit) : KeepsRoom s u :=
  ⟨fun c b => by simp only [State.bay, hb], fun c b => by simp only [State.bay, hb], ht⟩

theorem KeepsRoom.refl (s : State) : KeepsRoom s s := .of_bays rfl rfl

theorem KeepsRoom.trans (h : KeepsRoom s t) (k : KeepsRoom t u) : KeepsRoom s u :=
  ⟨fun c b => (k.frames c b).trans (h.frames c b), fun c b => (k.pools c b).trans (h.pools c b), k.transit.trans h.transit⟩

theorem KeepsRoom.foldl {α : Type} {f : State → α → State} (hf : ∀ s x, KeepsRoom s (f s x)) (l : List α) (s : State) :
    KeepsRoom s (l.foldl f s) := by
  induction l generalizing s with
  | nil => exact .refl s
  | cons x l ih => exact (hf s x).trans (ih _)

theorem KeepsRoom.frame? (h : KeepsRoom s u) (c b ft : Nat) : u.frame? c b ft = s.frame? c b ft :=
  State.frame?_of_frames (h.frames c b) ft

theorem KeepsRoom.pool? (h : KeepsRoom s u) (c b pid : Nat) : u.pool? c b pid = s.pool? c b pid :=
  State.pool?_of_pools (h.pools c b) pid

/-- What changes in every bay and leaves frames and pools alone. -/
theorem KeepsRoom.map_bays (s : State) (g : Bay → Bay) (hf : ∀ y, (g y).frames = y.frames) (hp : ∀ y, (g y).pools = y.pools) :
    KeepsRoom s { s with bays := s.bays.map fun e => (e.1, g e.2) } := by
  have hbay : ∀ c b, State.bay { s with bays := s.bays.map fun e => (e.1, g e.2) } c b =
      ((lkp s.bays (c * 256 + b)).map g).getD Bay.empty := fun c b => by rw [← lkp_map]; rfl
  refine ⟨fun c b => ?_, fun c b => ?_, rfl⟩ <;> rw [hbay, State.bay] <;> cases lkp s.bays (c * 256 + b)
  · rfl
  · exact hf _
  · rfl
  · exact hp _
end

/-! ### Writes and wakes (R415, R453) -/

theorem bumpGen_keepsRoom (s : State) (cx : Nat) : KeepsRoom s (bumpGen s cx) := by
  unfold bumpGen
  extract_lets hit zero s1
  split
  · exact .of_bays rfl rfl
  · exact (KeepsRoom.of_bays (s := s) (u := s1) rfl rfl).trans
      (.map_bays s1 (fun y => { y with tlb := y.tlb.filter fun t => !(zero.contains t.cx.toNat) }) (fun _ => rfl) fun _ => rfl)

theorem touchLine_keepsRoom (s : State) (a : Nat) : KeepsRoom s (touchLine s a) := by
  unfold touchLine
  split
  · exact .refl s
  · exact (bumpGen_keepsRoom s _).trans (.of_bays rfl rfl)

theorem touchRange_keepsRoom (s : State) (lo n : Nat) : KeepsRoom s (touchRange s lo n) :=
  .foldl (fun s _ => touchLine_keepsRoom s _) _ s

theorem resetShadow_keepsRoom (hit : Nat → Bool) (s : State) (line : Nat) : KeepsRoom s (resetShadow hit s line) := by
  unfold resetShadow
  split <;> exact .of_bays rfl rfl

theorem dropStruct_keepsRoom (s : State) : KeepsRoom s (dropStruct s) := by
  unfold dropStruct
  split <;> exact .of_bays rfl rfl

theorem writeBytes_keepsRoom (s : State) (l : List (Nat × Byte)) : KeepsRoom s (writeBytes s l) := by
  unfold writeBytes
  extract_lets lines hit edits s1 s2 s3
  have h1 : KeepsRoom s s1 := (KeepsRoom.foldl (resetShadow_keepsRoom hit) lines s).trans (.foldl (fun s _ => touchLine_keepsRoom s _) _ _)
  have h3 : KeepsRoom s s3 := (h1.trans (.of_bays (u := s2) rfl rfl)).trans (.foldl (resetShadow_keepsRoom hit) lines s2)
  split
  · exact h3.trans (dropStruct_keepsRoom s3)
  · exact h3

theorem startWake_keepsRoom (s : State) (c : Nat) : KeepsRoom s (startWake s c) := by
  obtain h | ⟨-, h⟩ | ⟨-, h⟩ := startWake_cases s c <;> rw [h]
  · exact .refl s
  · exact .of_bays rfl rfl
  · exact (touchRange_keepsRoom s _ _).trans (.of_bays rfl rfl)

theorem wakeAt_keepsRoom (s : State) (as : List Nat) : KeepsRoom s (wakeAt s as) := by
  unfold wakeAt
  split
  · exact .refl s
  · exact .foldl startWake_keepsRoom _ s

theorem dirtyRegion_keepsRoom (cx fuel va n : Nat) (s : State) : KeepsRoom s (dirtyRegion s cx fuel va n) := by
  induction fuel generalizing s va n with
  | zero => exact .refl s
  | succ fuel ih =>
    unfold dirtyRegion
    split
    · exact .refl s
    · split
      · exact .refl s
      · extract_lets k mem
        exact (KeepsRoom.of_bays (s := s) (u := { s with mem := mem }) rfl rfl).trans (ih ..)

/-! ### Pulls (R432) -/

theorem rewriteLeaf_keepsRoom (s : State) (owner entry alt : Nat) : KeepsRoom s (rewriteLeaf s owner entry alt) :=
  (writeBytes_keepsRoom s _).trans (bumpGen_keepsRoom _ owner)

theorem pullLines_keepsRoom {up src dst size n i : Nat} {s u : State} (h : pullLines up src dst size n i s = some u) :
    KeepsRoom s u := by
  induction n generalizing i s with
  | zero => cases h; exact .refl _
  | succ n ih =>
    obtain ⟨t, ht, hu⟩ := Option.bind_eq_some_iff.mp h
    unfold pullLine at ht
    split at ht
    · cases ht
      exact (writeBytes_keepsRoom s _).trans (ih hu)
    · cases ht

theorem pullNow_keepsRoom {s u : State} {owner : Nat} {q : Nat × Nat × Nat × Nat} (h : pullNow s owner q = some u) :
    KeepsRoom s u := by
  obtain ⟨entry, src, dst, size⟩ := q
  simp only [pullNow] at h
  split at h
  · cases h
  · obtain ⟨t, ht, rfl⟩ := Option.map_eq_some_iff.mp h
    exact (pullLines_keepsRoom ht).trans (rewriteLeaf_keepsRoom t _ _ _)

theorem pullPage_keepsRoom (cx va fuel : Nat) (s : State) : KeepsRoom s (pullPage s cx va fuel) := by
  induction fuel generalizing s with
  | zero => exact .refl s
  | succ fuel ih =>
    unfold pullPage
    split
    · exact .refl s
    · next x hx =>
      split
      · next t ht =>
        obtain ⟨q, -, hq⟩ := Option.bind_eq_some_iff.mp ht
        exact (pullNow_keepsRoom hq).trans (ih t)
      · exact .refl s

theorem pullRange_keepsRoom (cx fuel va n : Nat) (s : State) : KeepsRoom s (pullRange s cx fuel va n) := by
  induction fuel generalizing s va n with
  | zero => exact .refl s
  | succ fuel ih =>
    unfold pullRange
    split
    · exact .refl s
    · exact (pullPage_keepsRoom cx va 8 s).trans (ih _ _ _)

theorem reachBytes_keepsRoom (s : State) (cx va n : Nat) : KeepsRoom s (reachBytes s cx va n).1 := by
  unfold reachBytes
  split
  · exact .refl s
  · split
    · exact .refl s
    · exact pullRange_keepsRoom cx _ va n s

/-! ### Rings (R66, R67) -/

theorem ringPut_keepsRoom {s u : State} {cx sel c off : Nat} {bs : List Byte} (h : ringPut s cx sel c off bs = .ok u) :
    KeepsRoom s u := by
  unfold ringPut at h
  extract_lets va at h
  have hreach := reachBytes_keepsRoom s cx va bs.length
  split at h
  · cases h
  · next t as ht =>
    cases h
    rw [ht] at hreach
    exact hreach.trans ((dirtyRegion_keepsRoom cx _ va bs.length t).trans ((wakeAt_keepsRoom _ as).trans (writeBytes_keepsRoom _ _)))

theorem setRing_keepsRoom (s : State) (cx sel c : Nat) (r : Ring) : KeepsRoom s (setRing s cx sel c r) :=
  .of_bays (State.modCtx_bays ..) (State.modCtx_transit ..)

theorem ringAdvance_keepsRoom (cx sel c fuel : Nat) (s : State) : KeepsRoom s (ringAdvance cx sel c fuel s) := by
  induction fuel generalizing s with
  | zero => exact .refl s
  | succ fuel ih =>
    unfold ringAdvance
    extract_lets r h l len sz
    split
    · exact .refl s
    · split
      · exact (setRing_keepsRoom s cx sel c _).trans (ih _)
      · exact .refl s

theorem imageDone_keepsRoom (s : State) (cx c off : Nat) : KeepsRoom s (imageDone s cx c off) := by
  unfold imageDone
  extract_lets w s1
  have h1 : KeepsRoom s s1 := by
    unfold s1
    split
    · next t ht => exact ringPut_keepsRoom ht
    · exact .refl s
  exact h1.trans (ringAdvance_keepsRoom cx 0 c _ s1)

end Sys2Proof.Machine
end

section
/-! PROOF. The events of the bay allocator (R63 to R66, R68, R70, R74). -/

namespace Sys2Proof.Machine

/-- An event of the bay allocator names its course, bay and pool. -/
structure NamesPool (e : EvArgs) (c b pid : Nat) : Prop where
  course : e.course.toNat = c
  bay : e.unit.toNat % 256 = b
  pool : e.k.toNat % 8 = pid

/-! ### An allocation (R50, R54) -/

/-- One entry of a pool map changed, as the end of a copy does it. -/
def atEntry (i : Nat) (f : PEntry → PEntry) (m : List (Nat × PEntry)) : List (Nat × PEntry) :=
  m.map fun x => (x.1, if x.1 = i then f x.2 else x.2)

theorem lkp_atEntry (i : Nat) (f : PEntry → PEntry) (m : List (Nat × PEntry)) : lkp (atEntry i f m) i = (lkp m i).map f := by
  induction m with
  | nil => rfl
  | cons x m ih =>
    by_cases hx : x.1 = i
    · simp [atEntry, lkp, hx]
    · simpa [atEntry, lkp, hx] using ih

/-- The tokens that wait at the bay for a frame, let in. -/
def State.letIn (s : State) (c b ft : Nat) (f : Frame) : State :=
  { s.setFrame c b ft { f with atBay := [] } with transit := f.atBay ++ s.transit }

section
variable (s : State) (c b ft : Nat) (f : Frame)

@[simp] theorem State.letIn_mem : (s.letIn c b ft f).mem = s.mem := rfl
@[simp] theorem State.letIn_transit : (s.letIn c b ft f).transit = f.atBay ++ s.transit := rfl
@[simp] theorem State.letIn_pools : ((s.letIn c b ft f).bay c b).pools = (s.bay c b).pools := State.setFrame_pools ..
@[simp] theorem State.letIn_frame? : (s.letIn c b ft f).frame? c b ft = some { f with atBay := [] } := State.frame?_setFrame ..
end

section
variable {s : State} {c b pid : Nat}

theorem allocInfo_buf {p : Pool} {i : Nat} {en : PEntry} (hp : s.pool? c b pid = some p) (hi : lkp p.pmap i = some en)
    (hv : en.v = true) (hsp : en.sp = false) :
    allocInfo (s.bay c b) pid (.buf i) = some (en.base.toNat, en.size.toNat, en.guard, 1) := by
  have hp' : lkp (s.bay c b).pools pid = some p := hp
  simp [allocInfo, hp', hi, hv, hsp]

theorem allocInfo_frame {ft : BitVec 12} {f : Frame} (hf : s.frame? c b ft.toNat = some f) (hsp : f.sp = false) :
    allocInfo (s.bay c b) pid (.frame ft) = some (f.base.toNat, f.size, f.guard, alignOf f.dmask) := by
  have hf' : lkp (s.bay c b).frames ft.toNat = some f := hf
  simp [allocInfo, hf', hsp]

/-- An allocation without a guard granule has none to check (R393). -/
theorem guardOf_unguarded {id : AllocId} {base size al : Nat} (h : allocInfo (s.bay c b) pid id = some (base, size, false, al)) :
    guardOf s c b pid id = s := by
  simp only [guardOf, h, guardCheck, Bool.false_eq_true, if_false]

theorem dropFreed_kept {id : AllocId} (h : isFreeing s c b pid id = false) : dropFreed s c b pid id = s := by
  simp only [dropFreed, h, Bool.false_eq_true, if_false]

theorem isFreeing_buf {p : Pool} {i : Nat} {en : PEntry} (hp : s.pool? c b pid = some p) (hi : lkp p.pmap i = some en)
    (hf : en.freeing = false) : isFreeing s c b pid (.buf i) = false := by
  simp [isFreeing, hp, hi, hf]

theorem isFreeing_frame {ft : BitVec 12} {f : Frame} (hf : s.frame? c b ft.toNat = some f) (hfr : f.freeing = false) :
    isFreeing s c b pid (.frame ft) = false := by
  simp [isFreeing, hf, hfr]

/-- A buffer that stays: nothing of it is freed and no token waits for it. -/
theorem settled_buf {p : Pool} {i : Nat} {en : PEntry} (hp : s.pool? c b pid = some p) (hi : lkp p.pmap i = some en)
    (hf : en.freeing = false) : wakeMoved (dropFreed s c b pid (.buf i)) c b (.buf i) = s := by
  rw [dropFreed_kept (isFreeing_buf hp hi hf), wakeMoved]

/-- A frame that stays: the tokens that waited at the bay for it come back (R21, R68). -/
theorem settled_frame {ft : BitVec 12} {f : Frame} (hf : s.frame? c b ft.toNat = some f) (hfr : f.freeing = false) :
    wakeMoved (dropFreed s c b pid (.frame ft)) c b (.frame ft) = s.letIn c b ft.toNat f := by
  rw [dropFreed_kept (isFreeing_frame hf hfr), wakeMoved, releaseAtBay, hf, State.letIn]

theorem State.queue?_of {p : Pool} (hp : s.pool? c b pid = some p) (hw : p.waiters = []) (hn : p.pseudo = none) :
    s.queue? c b pid = some ([], none, p.moving) := by
  rw [State.queue?, hp, Option.map_some, Pool.queue, hw, hn]

/-! ### The head of a list of one (R62) -/

theorem unlist_queue? {q : Pool} {w : Waiter} (hq : s.pool? c b pid = some q) (hw : q.waiters = [w]) (hn : q.pseudo = none) :
    (unlist s c b pid 0).queue? c b pid = some ([], none, q.moving) := by
  rw [State.queue?, unlist, State.pool?_modPool, hq]
  simp [Pool.queue, hw, hn]

/-- The only request of a list is granted when it fits, and then nothing is left to serve. -/
theorem serveHead_grants {q : Pool} {w : Waiter} {base : Nat} (hq : s.pool? c b pid = some q) (hw : q.waiters = [w])
    (hn : q.pseudo = none) (hm : q.moving = []) (hfit : fitsAt (s.bay c b) pid q w.cx w = some base) :
    serveHead s c b pid = grantAt (unlist s c b pid 0) c b pid q w base := by
  have hidle := (grantAt_queue? (unlist s c b pid 0) c b pid q w base).trans (unlist_queue? hq hw hn)
  have hgo : scanGo c b pid 2 s = grantAt (unlist s c b pid 0) c b pid q w base := by
    rw [scanGo, hq]
    simp only [hn, hm, hw, firstFit, hfit, Option.isSome_none, List.isEmpty_nil, Bool.not_true, Bool.and_false, Bool.or_self,
      Bool.false_eq_true, if_false, if_true]
    exact scanGo_idle hidle 1
  simp only [serveHead, hq, hn, Option.isSome_none, Bool.false_eq_true, if_false, scanPool, hw, List.length_cons, List.length_nil,
    Nat.zero_add, Nat.reduceAdd, hgo, compactIfDue_idle hidle, syncPool_idle hidle]
end

/-! ### The next victim (R64, R65) -/

theorem timerCounts_short {s : State} {c b pid : Nat} {p : Pool} (h : timerCounts s c b pid p = true) :
    headShort s c b pid p = true ∧ p.spilling = none := by
  simp only [timerCounts, Bool.and_eq_true, Option.isNone_iff_eq_none] at h
  exact h.1

section
variable {s : State} {c b pid : Nat} {p : Pool} (hp : s.pool? c b pid = some p) (hc : timerCounts s c b pid p = true)
include hp hc

theorem spillNext_victim {id : AllocId} (hid : nextVictim s c b pid p = some id) :
    spillNext s c b pid = beginSpill s c b pid id := by
  obtain ⟨hshort, hsp⟩ := timerCounts_short hc
  simp only [spillNext, hp, hsp, hshort, hid, Option.isSome_none, Bool.not_true, Bool.or_self, Bool.false_eq_true, if_false]

theorem spillNext_none (hid : nextVictim s c b pid p = none) :
    spillNext s c b pid = s.modPool c b pid fun q => { q with timer := 0 } := by
  obtain ⟨hshort, hsp⟩ := timerCounts_short hc
  simp only [spillNext, hp, hsp, hshort, hid, Option.isSome_none, Bool.not_true, Bool.or_self, Bool.false_eq_true, if_false]
end

/-! ### The end of a copy (R63) -/

section
variable {e : EvArgs} {s : State} {c b pid : Nat} {p : Pool} (h : NamesPool e c b pid) (hp : s.pool? c b pid = some p)
include h hp

/-- The last copy of a compaction ends in its cycle. -/
theorem execCompactionMoveDone_last {id : AllocId} {base size al : Nat} (hm : p.moving = [id]) (hd : p.moveDue ≤ s.cycles)
    (hi : allocInfo (s.bay c b) pid id = some (base, size, false, al)) :
    exec (.compactionMoveDone e) s =
      .next (movedOn ((wakeMoved (dropFreed (landAt (moveBytes s c b base p.moveBase size) c b pid id p.moveBase) c b pid id) c b
        id).modPool c b pid fun q => { q with moving := [] }) c b pid) := by
  simp only [exec, execCompactionMoveDone, h.course, h.bay, h.pool, hp, hm, hi, if_neg (Nat.not_lt.mpr hd), guardOf_unguarded hi,
    Bool.toNat_false, Nat.add_zero, beginMove]

/-! ### Spilling (R64 to R66, R74) -/

theorem execSpillTimerExpiry_due (hc : timerCounts s c b pid p = true) (hd : 2 ^ (6 + p.sc.toNat) ≤ p.timer) :
    exec (.spillTimerExpiry e) s = .next (spillNext s c b pid) := by
  simp only [exec, execSpillTimerExpiry, h.course, h.bay, h.pool, hp, hc, Pool.bound, hd, decide_true, Bool.and_self, if_true]

section
variable {id : AllocId} {off base size al : Nat} {seq : BitVec 32} (hs : p.spilling = some (id, off, seq))
  (hheld : p.spillHeld = false) (hplaced : p.spillPlaced = true) (hi : allocInfo (s.bay c b) pid id = some (base, size, false, al))
include hs hheld hplaced hi

/-- A page of the image no longer stands: it holds the spill (R74). -/
theorem execSpillWriteAck_holds {a : Nat} {x : XErr} (hx : putImage s c b pid id off = .error (a, x)) :
    exec (.spillWriteAck e) s = .next (holdSpill s c b pid id (some (off, seq)) x a 0 0) := by
  simp [exec, execSpillWriteAck, h.course, h.bay, h.pool, hp, hs, hheld, hplaced, hi, guardOf_unguarded hi, hx]

/-- The image is written: the allocation is spilled, and a pool in which nobody waits has nothing more to serve. -/
theorem execSpillWriteAck_done {v u : State} (hv : putImage s c b pid id off = .ok v)
    (hu : wakeMoved (dropFreed ((spillAt v c b pid id off seq.toNat).modPool c b pid fun q =>
      { q with spilling := none, spillPlaced := false, spills := q.spills + 1,
               spilledForHead := q.spilledForHead || (q.pseudo.isNone && q.anchored) }) c b pid id) c b id = u)
    {m : List AllocId} (hq : u.queue? c b pid = some ([], none, m)) : exec (.spillWriteAck e) s = .next u := by
  obtain ⟨q, hpool, hw, hn⟩ := pool?_of_idle hq
  simp only [exec, execSpillWriteAck, h.course, h.bay, h.pool, hp, hs, hheld, hplaced, hi, Option.isSome_some,
    Option.isNone_some, Bool.not_true, Bool.false_and, Bool.false_eq_true, if_false, guardOf_unguarded hi, hv, hu, hpool,
    headShort, hn, hw, serveHead_idle hq]
end
end

/-! ### Restoring (R70) -/

theorem isSpilled_buf {s : State} {c b pid i : Nat} {p : Pool} {en : PEntry} (hp : s.pool? c b pid = some p)
    (hi : lkp p.pmap i = some en) (hv : en.v = true) (hsp : en.sp = true) : isSpilled s c b pid (.buf i) = true := by
  have hp' : lkp (s.bay c b).pools pid = some p := hp
  refine List.any_eq_true.mpr ⟨(.buf i, en.seq), List.mem_append_right _ ?_, beq_self_eq_true _⟩
  rw [hp']
  exact List.mem_map.mpr ⟨(i, en), List.mem_filter.mpr ⟨lkp_mem hi, by rw [hv, hsp]; rfl⟩, rfl⟩

theorem isSpilled_frame {s : State} {c b pid : Nat} {ft : BitVec 12} {f : Frame} (hf : s.frame? c b ft.toNat = some f)
    (hsp : f.sp = true) (hpool : f.pool.toNat = pid) : isSpilled s c b pid (.frame ft) = true := by
  refine List.any_eq_true.mpr ⟨(.frame ft, f.image.2), List.mem_append_left _ ?_, beq_self_eq_true _⟩
  exact List.mem_map.mpr ⟨(ft.toNat, f), List.mem_filter.mpr ⟨lkp_mem hf, by simp [hsp, hpool]⟩, by simp⟩

/-- The copy of an image ends: the allocation is back, its image done, and a pool in which nobody waits has nothing more to
serve. -/
theorem execRestoreCopyDone_done {e : EvArgs} {s t u : State} {c b pid : Nat} {p : Pool} {id : AllocId} {base : Nat}
    {rest : List (AllocId × Nat)} (h : NamesPool e c b pid) (hp : s.pool? c b pid = some p) (hr : p.restoring = (id, base) :: rest)
    (ht : s.modPool c b pid (fun q => { q with restoring := rest }) = t) (hsp : isSpilled t c b pid id = true)
    (hu : wakeMoved (dropFreed ((imageDone (endRestore t c b pid id base) (allocImage t c b pid id).1 c
      (allocImage t c b pid id).2).modPool c b pid fun q => { q with restores := q.restores + 1 }) c b pid id) c b id = u)
    {m : List AllocId} (hq : u.queue? c b pid = some ([], none, m)) : exec (.restoreCopyDone e) s = .next u := by
  simp only [exec, execRestoreCopyDone, h.course, h.bay, h.pool, hp, hr, ht, hsp, if_true, hu, scanPool_idle hq]

/-! ### Buffers, event by event -/

/-- A buffer of a pool that is neither guarded nor about to be freed. -/
structure PlainBuf (s : State) (c b pid : Nat) (p : Pool) (i : Nat) (en : PEntry) : Prop where
  pool : s.pool? c b pid = some p
  entry : lkp p.pmap i = some en
  v : en.v = true
  guard : en.guard = false
  freeing : en.freeing = false
  pseudo : p.pseudo = none

/-- A bay whose buffer has been copied down: its bytes, its base, and the compaction's end. -/
def movedBuf (s : State) (c b pid : Nat) (p : Pool) (i : Nat) (en : PEntry) : State :=
  (moveBytes s c b en.base.toNat p.moveBase en.size.toNat).modPool c b pid fun q =>
    { q with moving := [], pmap := atEntry i (fun y => { y with mv := false, base := BitVec.ofNat 16 p.moveBase }) q.pmap }

/-- A bay whose buffer has been copied back: its image's bytes, and its base. -/
def restoredBuf (t : State) (c b pid i : Nat) (en : PEntry) (base : Nat) : State :=
  let bs := ringGet t en.cx.toNat 0 c (en.img + 16) (16 * en.size.toNat)
  ({ t with mem := Memory.putBytes t.mem (nearPA c b (16 * base)) bs } : State).modPool c b pid fun q =>
    { q with pmap := put q.pmap i { en with sp := false, mv := false, base := BitVec.ofNat 16 base } }

theorem moveBytes_pool? (s : State) (c b x y n c' b' pid : Nat) : (moveBytes s c b x y n).pool? c' b' pid = s.pool? c' b' pid := rfl

theorem movedOn_last {s : State} {c b pid : Nat} {q : Pool} (hq : s.pool? c b pid = some q) (hm : q.moving = []) :
    movedOn s c b pid = serveHead s c b pid := by
  simp only [movedOn, hq, hm, List.isEmpty_nil, if_true]

section
variable {e : EvArgs} {s : State} {c b pid i : Nat} {p : Pool} {en : PEntry} (h : NamesPool e c b pid)
  (hb : PlainBuf s c b pid p i en)
include hb

theorem pool?_movedBuf : (movedBuf s c b pid p i en).pool? c b pid =
    some { p with moving := [], pmap := atEntry i (fun y => { y with mv := false, base := BitVec.ofNat 16 p.moveBase }) p.pmap } := by
  rw [movedBuf, State.pool?_modPool, moveBytes_pool?, hb.pool]
  rfl

theorem allocBytes_buf : allocBytes s c b pid (.buf i) = Memory.bytes s.mem (nearPA c b (16 * en.base.toNat)) (16 * en.size.toNat) := by
  simp only [allocBytes, hb.pool, Option.bind_some, hb.entry, hb.guard, Bool.toNat_false, Nat.add_zero]

theorem allocInfo_plainBuf (hsp : en.sp = false) :
    allocInfo (s.bay c b) pid (.buf i) = some (en.base.toNat, en.size.toNat, false, 1) :=
  (allocInfo_buf hb.pool hb.entry hb.v hsp).trans (by rw [hb.guard])

include h

/-- The last copy of a compaction, that of a buffer, ends. -/
theorem execCompactionMoveDone_buf (hsp : en.sp = false) (hm : p.moving = [.buf i]) (hd : p.moveDue ≤ s.cycles) :
    exec (.compactionMoveDone e) s = .next (serveHead (movedBuf s c b pid p i en) c b pid) := by
  have hi := allocInfo_plainBuf hb hsp
  have hland : (landAt (moveBytes s c b en.base.toNat p.moveBase en.size.toNat) c b pid (.buf i) p.moveBase).pool? c b pid =
      some { p with pmap := atEntry i (fun y => { y with mv := false, base := BitVec.ofNat 16 p.moveBase }) p.pmap } := by
    rw [landAt, State.pool?_modPool, moveBytes_pool?, hb.pool]
    rfl
  have hentry := (lkp_atEntry i (fun y => { y with mv := false, base := BitVec.ofNat 16 p.moveBase }) p.pmap).trans
    (congrArg _ hb.entry)
  rw [execCompactionMoveDone_last h hb.pool hm hd hi, settled_buf hland hentry hb.freeing, landAt, State.modPool_modPool]
  exact congrArg _ (movedOn_last (pool?_movedBuf hb) rfl)

/-- The image of a buffer stands: the buffer is spilled, at the image's place (R54, R66). -/
theorem execSpillWriteAck_buf {off : Nat} {seq : BitVec 32} {v : State} (hsp : en.sp = false) (hw : p.waiters = [])
    (hs : p.spilling = some (.buf i, off, seq)) (hheld : p.spillHeld = false) (hplaced : p.spillPlaced = true)
    (hv : putImage s c b pid (.buf i) off = .ok v) (hk : KeepsRoom s v) :
    exec (.spillWriteAck e) s = .next (v.modPool c b pid fun q => { q with
      spilling := none, spillPlaced := false, spills := q.spills + 1, spilledForHead := q.spilledForHead || (q.pseudo.isNone && q.anchored)
      pmap := atEntry i (fun y => { y with
        sp := true, mv := false, base := BitVec.ofNat 16 (off / 16), img := off, seq := seq.toNat }) q.pmap }) := by
  have hi := allocInfo_plainBuf hb hsp
  have hentry := (lkp_atEntry i (fun y => { y with
    sp := true, mv := false, base := BitVec.ofNat 16 (off / 16), img := off, seq := seq.toNat }) p.pmap).trans (congrArg _ hb.entry)
  have hpool := (hk.pool? c b pid).trans hb.pool
  refine execSpillWriteAck_done h hb.pool hs hheld hplaced hi hv ?_ (m := p.moving) ?_
  · rw [spillAt, State.modPool_modPool]
    exact settled_buf ((State.pool?_modPool ..).trans (congrArg _ hpool)) hentry hb.freeing
  · exact (State.queue?_modPool _ _ _ _ fun _ => by rfl).trans (State.queue?_of hpool hw hb.pseudo)

/-- The copy of a buffer's image ends: its bytes stand at its new base (R70). -/
theorem execRestoreCopyDone_buf {base : Nat} {rest : List (AllocId × Nat)} {t : State} (hsp : en.sp = true) (hw : p.waiters = [])
    (hr : p.restoring = (.buf i, base) :: rest) (ht : s.modPool c b pid (fun q => { q with restoring := rest }) = t) :
    exec (.restoreCopyDone e) s = .next ((imageDone (restoredBuf t c b pid i en base) en.cx.toNat c en.img).modPool c b pid fun q =>
      { q with restores := q.restores + 1 }) := by
  have hpool : t.pool? c b pid = some { p with restoring := rest } := by
    rw [← ht, State.pool?_modPool, hb.pool]
    rfl
  have hend : endRestore t c b pid (.buf i) base = restoredBuf t c b pid i en base := by
    simp only [endRestore, hpool, Option.bind_some, hb.entry, hb.guard, Bool.toNat_false, Nat.add_zero, restoredBuf]
  have himage : allocImage t c b pid (.buf i) = (en.cx.toNat, en.img) := by
    simp only [allocImage, hpool, Option.bind_some, hb.entry, Option.map_some, Option.getD_some]
  have hback : (restoredBuf t c b pid i en base).pool? c b pid = some { p with
      restoring := rest, pmap := put p.pmap i { en with sp := false, mv := false, base := BitVec.ofNat 16 base } } :=
    (State.pool?_modPool ..).trans (congrArg _ hpool)
  have hdone := ((imageDone_keepsRoom (restoredBuf t c b pid i en base) en.cx.toNat c en.img).pool? c b pid).trans hback
  have hqueue := State.queue?_of hdone hw hb.pseudo
  refine execRestoreCopyDone_done h hb.pool hr ht (isSpilled_buf hpool hb.entry hb.v hsp) ?_ (m := p.moving) ?_
  · rw [himage, hend]
    exact settled_buf ((State.pool?_modPool ..).trans (congrArg _ hdone)) (lkp_put_same ..) hb.freeing
  · exact (State.queue?_modPool _ _ _ _ fun _ => by rfl).trans hqueue
end

/-! ### Frames, event by event -/

/-- A frame that is neither guarded nor about to be freed, in a bay with a pool where nobody waits and no restore is due. -/
structure PlainFrame (s : State) (c b pid : Nat) (p : Pool) (ft : BitVec 12) (f : Frame) : Prop where
  pool : s.pool? c b pid = some p
  row : s.frame? c b ft.toNat = some f
  guard : f.guard = false
  freeing : f.freeing = false
  waiters : p.waiters = []
  pseudo : p.pseudo = none

section
variable {e : EvArgs} {s : State} {c b pid : Nat} {p : Pool} {ft : BitVec 12} {f : Frame} (h : NamesPool e c b pid)
  (hf : PlainFrame s c b pid p ft f)
include hf

theorem allocInfo_plainFrame (hsp : f.sp = false) :
    allocInfo (s.bay c b) pid (.frame ft) = some (f.base.toNat, f.size, false, alignOf f.dmask) :=
  (allocInfo_frame hf.row hsp).trans (by rw [hf.guard])

include h

/-- A frame has been copied down: its bytes, its base, and the tokens that waited for it. -/
theorem execCompactionMoveDone_frame (hsp : f.sp = false) (hm : p.moving = [.frame ft]) (hd : p.moveDue ≤ s.cycles) :
    ∃ u, exec (.compactionMoveDone e) s = .next u ∧
      u.frame? c b ft.toNat = some { f with mv := false, base := BitVec.ofNat 16 p.moveBase, atBay := [] } ∧
      u.mem = (moveBytes s c b f.base.toNat p.moveBase f.size).mem ∧ u.transit = f.atBay ++ s.transit := by
  have hi := allocInfo_plainFrame hf hsp
  have hland : (landAt (moveBytes s c b f.base.toNat p.moveBase f.size) c b pid (.frame ft) p.moveBase).frame? c b ft.toNat =
      some { f with mv := false, base := BitVec.ofNat 16 p.moveBase } :=
    (State.frame?_modFrame ..).trans (congrArg _ hf.row)
  have hlast := execCompactionMoveDone_last h hf.pool hm hd hi
  rw [settled_frame hland hf.freeing] at hlast
  generalize hl : State.letIn _ c b ft.toNat _ = l at hlast
  have hpool : (l.modPool c b pid fun q => { q with moving := [] }).pool? c b pid = some { p with moving := [] } := by
    rw [State.pool?_modPool, ← hl, State.pool?_of_pools (State.letIn_pools ..), landAt, State.pool?_of_pools (State.modFrame_pools ..),
      moveBytes_pool?, hf.pool]
    rfl
  rw [movedOn_last hpool rfl, serveHead_idle (State.queue?_of hpool hf.waiters hf.pseudo)] at hlast
  refine ⟨_, hlast, ?_, ?_, ?_⟩
  · rw [State.frame?_modPool, ← hl, State.letIn_frame?]
  · rw [State.modPool_mem, ← hl, State.letIn_mem, landAt, State.modFrame_mem]
  · rw [State.modPool_transit, ← hl, State.letIn_transit, landAt, State.modFrame_transit]
    rfl

/-- The image of a frame stands: the frame is spilled, at the image's place, and the tokens that waited for it come back. -/
theorem execSpillWriteAck_frame {off : Nat} {seq : BitVec 32} {v : State} (hsp : f.sp = false)
    (hs : p.spilling = some (.frame ft, off, seq)) (hheld : p.spillHeld = false) (hplaced : p.spillPlaced = true)
    (hv : putImage s c b pid (.frame ft) off = .ok v) (hk : KeepsRoom s v) :
    ∃ u, exec (.spillWriteAck e) s = .next u ∧
      u.frame? c b ft.toNat = some { f with
        sp := true, mv := false, base := BitVec.ofNat 16 (off / 16), image := (off, seq.toNat), atBay := [] } ∧
      u.mem = v.mem ∧ u.transit = f.atBay ++ v.transit := by
  have hi := allocInfo_plainFrame hf hsp
  have hrow : (spillAt v c b pid (.frame ft) off seq.toNat).frame? c b ft.toNat = some { f with
      sp := true, mv := false, base := BitVec.ofNat 16 (off / 16), image := (off, seq.toNat) } :=
    (State.frame?_modFrame ..).trans (congrArg _ ((hk.frame? ..).trans hf.row))
  have hpool : (spillAt v c b pid (.frame ft) off seq.toNat).pool? c b pid = some p :=
    (State.pool?_of_pools (State.modFrame_pools ..) pid).trans ((hk.pool? ..).trans hf.pool)
  refine ⟨_, execSpillWriteAck_done h hf.pool hs hheld hplaced hi hv
    (settled_frame ((State.frame?_modPool ..).trans hrow) hf.freeing) (m := p.moving) ?_, State.letIn_frame? .., ?_, ?_⟩
  · exact (State.queue?_of_pools (State.letIn_pools ..) pid).trans
      ((State.queue?_modPool _ _ _ _ fun _ => by rfl).trans (State.queue?_of hpool hf.waiters hf.pseudo))
  · rw [State.letIn_mem, State.modPool_mem, spillAt, State.modFrame_mem]
  · rw [State.letIn_transit, State.modPool_transit, spillAt, State.modFrame_transit]

/-- A frame whose image has been copied back: its slots and its linkage. -/
def Frame.restored (f : Frame) (base : Nat) (slot : Nat → Nat) : Frame :=
  { f with sp := false, mv := false, arr := 0, base := BitVec.ofNat 16 base, link := linkOfWord (slot 0)
           slots := f.slots.map fun x => (x.1, { x.2 with val := BitVec.ofNat 512 (slot x.1) }) }

/-- The copy of a frame's image ends: its slots and its linkage are the image's, and the tokens that waited for it come back. -/
theorem execRestoreCopyDone_frame {base : Nat} {rest : List (AllocId × Nat)} {t : State} (hsp : f.sp = true)
    (hp : f.pool.toNat = pid) (hr : p.restoring = (.frame ft, base) :: rest)
    (ht : s.modPool c b pid (fun q => { q with restoring := rest }) = t) :
    ∃ u, exec (.restoreCopyDone e) s = .next u ∧
      u.frame? c b ft.toNat = some { f.restored base fun i =>
        leNat (ringGet t f.cx.toNat 0 c (f.image.1 + 16 + slotOff f.dmask i) (slotSize f.dmask i)) with atBay := [] } ∧
      u.transit = f.atBay ++ s.transit := by
  have hrow : t.frame? c b ft.toNat = some f := by rw [← ht, State.frame?_modPool, hf.row]
  have hpool : t.pool? c b pid = some { p with restoring := rest } := by
    rw [← ht, State.pool?_modPool, hf.pool]
    rfl
  have htransit : t.transit = s.transit := by rw [← ht, State.modPool_transit]
  have hend : endRestore t c b pid (.frame ft) base = t.setFrame c b ft.toNat (f.restored base fun i =>
      leNat (ringGet t f.cx.toNat 0 c (f.image.1 + 16 + slotOff f.dmask i) (slotSize f.dmask i))) := by
    simp only [endRestore, hrow, hf.guard, Bool.false_eq_true, if_false, Frame.restored]
  generalize hf' : Frame.restored f base _ = f' at hend ⊢
  have hstay : f'.freeing = f.freeing := by rw [← hf']; rfl
  have hbay : f'.atBay = f.atBay := by rw [← hf']; rfl
  have himage : allocImage t c b pid (.frame ft) = (f.cx.toNat, f.image.1) := by
    simp only [allocImage, hrow, Option.map_some, Option.getD_some]
  obtain ⟨v, hv, hk⟩ : ∃ v, imageDone (t.setFrame c b ft.toNat f') f.cx.toNat c f.image.1 = v ∧
      KeepsRoom (t.setFrame c b ft.toNat f') v := ⟨_, rfl, imageDone_keepsRoom ..⟩
  have hback : v.frame? c b ft.toNat = some f' := (hk.frame? ..).trans (State.frame?_setFrame ..)
  have hqueue := State.queue?_of ((hk.pool? ..).trans ((State.pool?_of_pools (State.setFrame_pools ..) pid).trans hpool))
    hf.waiters hf.pseudo
  refine ⟨(v.modPool c b pid fun q => { q with restores := q.restores + 1 }).letIn c b ft.toNat f',
    execRestoreCopyDone_done h hf.pool hr ht (isSpilled_frame hrow hsp hp) ?_ (m := p.moving) ?_, State.letIn_frame? .., ?_⟩
  · rw [himage, hend, hv]
    exact settled_frame ((State.frame?_modPool ..).trans hback) (hstay.trans hf.freeing)
  · exact (State.queue?_of_pools (State.letIn_pools ..) pid).trans ((State.queue?_modPool _ _ _ _ fun _ => by rfl).trans hqueue)
  · rw [State.letIn_transit, State.modPool_transit, hk.transit, State.setFrame_transit, htransit, hbay]
end

/-! ### The image's place (R66, R74) -/

section
variable {s : State} {c b pid off : Nat} {p : Pool} {id : AllocId} (hp : s.pool? c b pid = some p)
include hp

theorem putImage_ok {v : State}
    (hn : firstUnmapped s p.cx.toNat ((s.ring p.cx.toNat 0 c).base.toNat + off + 16)
      ((s.ring p.cx.toNat 0 c).base.toNat + off + 16 + (allocBytes s c b pid id).length - 1)
      ((allocBytes s c b pid id).length / 2 ^ 16 + 2) = none)
    (hv : ringPut s p.cx.toNat 0 c (off + 16) (allocBytes s c b pid id) = .ok v) : putImage s c b pid id off = .ok v := by
  simp only [putImage, hp, Option.map_some, Option.getD_some, hn, hv]

theorem putImage_stops {a : Nat} {x : XErr}
    (hx : firstUnmapped s p.cx.toNat ((s.ring p.cx.toNat 0 c).base.toNat + off + 16)
      ((s.ring p.cx.toNat 0 c).base.toNat + off + 16 + (allocBytes s c b pid id).length - 1)
      ((allocBytes s c b pid id).length / 2 ^ 16 + 2) = some (a, x)) : putImage s c b pid id off = .error (a, x) := by
  simp only [putImage, hp, Option.map_some, Option.getD_some, hx]
end

/-- Settles O46: buffers by the three `_buf` lemmas and frames by the three `_frame` lemmas; a write of the stack's own logic
keeps the rooms (`KeepsRoom`), so a pool with an empty list stays idle after each event. -/
theorem roomEventsAct : Obligations.RoomEventsAct := by
  unfold Obligations.RoomEventsAct
  intro e s v p i en c b pid byBuf bytes whole plainly moved ring hp
  have h : NamesPool e c b pid := ⟨rfl, rfl, rfl⟩
  have hbuf : whole → PlainBuf s c b pid p i en := fun ⟨hi, hv, hg, hf, hn⟩ => ⟨hp, hi, hv, hg, hf, hn⟩
  refine ⟨?_, ?_, ?_, ?_, ?_, ?_⟩
  · rintro ⟨hwhole, hw⟩ hsp hm hd
    have hb := hbuf hwhole
    rw [execCompactionMoveDone_buf h hb hsp hm hd, serveHead_idle (State.queue?_of (pool?_movedBuf hb) hw hb.pseudo)]
    rfl
  · intro w q at_ hwhole hw hsp hm hd hq hfit
    have hb := hbuf hwhole
    have hq' : movedBuf s c b pid p i en = moved := rfl
    have hqe := Option.some.inj ((pool?_movedBuf hb).symm.trans hq)
    rw [execCompactionMoveDone_buf h hb hsp hm hd, hq']
    exact congrArg _ (serveHead_grants hq (by rw [← hqe]; exact hw) (by rw [← hqe]; exact hb.pseudo) (by rw [← hqe]) hfit)
  · intro ft f hrow hg hfr hw hn image
    have hf : PlainFrame s c b pid p ft f := ⟨hp, hrow, hg, hfr, hw, hn⟩
    refine ⟨fun hsp hm hd => execCompactionMoveDone_frame h hf hsp hm hd, fun off seq hsp hs hheld hplaced hnone hv => ?_,
      fun base rest hsp hpool hr => execRestoreCopyDone_frame h hf hsp hpool hr rfl⟩
    exact execSpillWriteAck_frame h hf hsp hs hheld hplaced (putImage_ok hp hnone hv) (ringPut_keepsRoom hv)
  · intro hc hd
    have hrun := execSpillTimerExpiry_due h hp hc hd
    exact ⟨fun id hid => by rw [hrun, spillNext_victim hp hc hid], fun hid => by rw [hrun, spillNext_none hp hc hid]⟩
  · rintro off seq ⟨hwhole, hw⟩ hsp hs hheld hplaced at_ stops
    have hb := hbuf hwhole
    have hbytes : allocBytes s c b pid (.buf i) = bytes := allocBytes_buf hb
    refine ⟨fun hnone hv => ?_, fun a x hx => ?_⟩
    · exact execSpillWriteAck_buf h hb hsp hw hs hheld hplaced (putImage_ok hp (by rw [hbytes]; exact hnone) (by rw [hbytes]; exact hv))
        (ringPut_keepsRoom hv)
    · exact execSpillWriteAck_holds h hp hs hheld hplaced (allocInfo_plainBuf hb hsp) (putImage_stops hp (by rw [hbytes]; exact hx))
  · rintro base rest ⟨hwhole, hw⟩ hsp hr t image
    exact execRestoreCopyDone_buf h (hbuf hwhole) hsp hw hr rfl

end Sys2Proof.Machine
end

section
/-! PROOF. Step words: an instruction's number and fields name it, and nothing else is
read under them (R115, R128). -/

namespace Sys2Proof

/-! ### What a number and its fields name -/

/-- The lemmas of Laws/PerInstr.lean as one: BAR and TICK by their variant, every other constructor by computation. -/
theorem fields_name (i : Instr) : Laws.Fields.Statement i := by
  cases i
  case barArrive r => exact Laws.Fields.barArrive r
  case barWait r => exact Laws.Fields.barWait r
  case tickRd r => exact Laws.Fields.tickRd r
  case tickUntil r => exact Laws.Fields.tickUntil r
  all_goals exact ⟨Nat.le_of_ble_eq_true rfl, Nat.le_of_ble_eq_true rfl, by intros; rfl⟩

theorem instrOfOp_fields {i : Instr} {op : Nat} (ho : i.op = some op) :
    0 < op ∧ op < 256 ∧ (i.variantOk = true → instrOfOp op i.fields = some i) := by
  have h := fields_name i
  rwa [Laws.Fields.Statement, ho] at h

theorem eventOfNo_args {i : Instr} (ho : i.op = none) :
    0 < i.eventNo ∧ i.eventNo < 256 ∧ eventOfNo i.eventNo i.args = some i := by
  have h := fields_name i
  rwa [Laws.Fields.Statement, ho] at h

/-- The instruction has this OP and these fields, and is the variant that they name. -/
def IsRecord (op : Nat) (r : NodeRec) (i : Instr) : Prop := i.op = some op ∧ i.fields = r ∧ i.variantOk = true

/-- The event has this number and these operands. -/
def IsEvent (n : Nat) (e : EvArgs) (i : Instr) : Prop := i.op = none ∧ i.eventNo = n ∧ i.args = e

/-- An accepted record's VAR is in the mask of its OP. -/
theorem inMask_of_recordFault {op : Nat} {r : NodeRec} (h : recordFault op r = none) :
    ∃ o, opInfo op = some o ∧ inMask o.vars r.var.toNat = true := by
  unfold recordFault at h
  split at h
  · cases h
  next o ho =>
    refine ⟨o, ho, ?_⟩
    by_contra hm
    simp only [Bool.eq_false_iff.mpr hm, Bool.not_false, Bool.true_or, if_true, reduceCtorEq] at h

/-- The mask 0x3 of BAR and TICK leaves the variants 0 and 1. -/
theorem var_of_inMask_three {v : BitVec 4} (h : inMask 0x3 v.toNat = true) : v = 0#4 ∨ v = 1#4 := by
  revert v
  decide

/-- BAR and TICK (R236, R246): VAR chooses between two instructions. -/
theorem isRecord_ite {op : Nat} {r : NodeRec} {i j k : Instr} (h : (if r.var == 0#4 then j else k) = i)
    (hm : r.var = 0#4 ∨ r.var = 1#4) (hj : r.var = 0#4 → IsRecord op r j) (hk : r.var = 1#4 → IsRecord op r k) : IsRecord op r i := by
  subst h
  rcases hm with h0 | h1
  · rw [if_pos (by rw [h0]; rfl)]; exact hj h0
  · rw [if_neg (by rw [h1]; decide)]; exact hk h1

/-- R128: an accepted record is read as the instruction of its OP and fields. -/
theorem isRecord_of_instrOfOp {op : Nat} {r : NodeRec} {i : Instr} (hb : op < 256) (hf : recordFault op r = none)
    (h : instrOfOp op r = some i) : IsRecord op r i := by
  obtain ⟨o, ho, hm⟩ := inMask_of_recordFault hf
  obtain hr | rfl | ⟨hl, hr⟩ | rfl | hl : op ≤ 0xA6 ∨ op = 0xA7 ∨ (0xA8 ≤ op ∧ op ≤ 0xAC) ∨ op = 0xAD ∨ 0xAE ≤ op := by omega
  case inr.inl | inr.inr.inr.inl =>
    cases ho
    exact isRecord_ite (Option.some.inj h) (var_of_inMask_three hm) (fun hv => ⟨rfl, rfl, beq_iff_eq.mpr hv⟩)
      (fun hv => ⟨rfl, rfl, beq_iff_eq.mpr hv⟩)
  all_goals
    clear ho hm hf
    interval_cases op <;> cases h <;> exact ⟨rfl, rfl, rfl⟩

theorem isEvent_of_guard {n : Nat} {e : EvArgs} {i j : Instr} (h : (if e = default then some j else none) = some i)
    (hj : IsEvent n default j) : IsEvent n e i := by
  obtain ⟨rfl, hji⟩ := Option.ite_none_right_eq_some.mp h
  exact Option.some.inj hji ▸ hj

/-- An event word is read as the event of its class byte and operands, of which some take none. -/
theorem isEvent_of_eventOfNo {n : Nat} {e : EvArgs} {i : Instr} (hb : n < 256) (h : eventOfNo n e = some i) : IsEvent n e i := by
  by_cases hg : n = 43 ∨ n = 54 ∨ (57 ≤ n ∧ n ≤ 83) ∨ n = 88
  · obtain rfl | rfl | ⟨h1, h2⟩ | rfl := hg
    case inr.inr.inl => interval_cases n <;> exact isEvent_of_guard h ⟨rfl, rfl, rfl⟩
    all_goals exact isEvent_of_guard h ⟨rfl, rfl, rfl⟩
  · obtain h1 | ⟨h1, h2⟩ | ⟨h1, h2⟩ | ⟨h1, h2⟩ | h1 :
      n ≤ 42 ∨ (44 ≤ n ∧ n ≤ 53) ∨ (55 ≤ n ∧ n ≤ 56) ∨ (84 ≤ n ∧ n ≤ 87) ∨ 89 ≤ n := by omega
    all_goals
      clear hg
      interval_cases n <;> cases h <;> exact ⟨rfl, rfl, rfl⟩

/-! ### Record words (R115, R132) -/

theorem recOp_lt (w : BitVec 96) : recOp w < 256 := Nat.mod_lt _ (by decide)

theorem decodeRecord_recWord {i : Instr} {op : Nat} (ho : i.op = some op) (hw : i.wellFormed = true) :
    decodeRecord (recWord op i.fields) = .ok i := by
  obtain ⟨hpos, hlt, hi⟩ := instrOfOp_fields ho
  rw [Instr.wellFormed, ho] at hw
  obtain ⟨hv, hf⟩ := Bool.and_eq_true_iff.mp hw
  simp only [decodeRecord, recOp_recWord, recFields_recWord, Nat.mod_eq_of_lt hlt, if_neg hpos.ne',
    Option.isNone_iff_eq_none.mp hf, hi hv]

theorem isRecord_of_decodeRecord {w : BitVec 96} {i : Instr} (h : decodeRecord w = .ok i) :
    IsRecord (recOp w) (recFields w) i ∧ recordFault (recOp w) (recFields w) = none := by
  unfold decodeRecord at h
  dsimp only at h
  split at h
  · cases h
  · split at h
    · cases h
    next hf =>
      split at h
      next hi => cases h; exact ⟨isRecord_of_instrOfOp (recOp_lt w) hf hi, hf⟩
      · cases h

theorem wellFormed_of_isRecord {op : Nat} {r : NodeRec} {i : Instr} (h : IsRecord op r i) (hf : recordFault op r = none) :
    i.wellFormed = true := by
  obtain ⟨ho, hr, hv⟩ := h
  simp [Instr.wellFormed, ho, hr, hv, hf]

/-! ### Step words -/

theorem stepWord_eta (w : BitVec 104) : BitVec.ofNat 8 (bitsAt w 96 8) ++ w.extractLsb' 0 96 = w := by
  have := w.isLt
  apply BitVec.eq_of_toNat_eq
  simp only [toNat_append_add, bitsAt, BitVec.toNat_ofNat, BitVec.extractLsb'_toNat, Nat.shiftRight_eq_div_pow]
  omega

theorem decodeStep_record (b : BitVec 96) : decodeStep (0#8 ++ b) = decodeRecord b := by
  obtain ⟨hb, hc⟩ := stepWord_parts 0#8 b
  simp only [decodeStep, hb, hc]
  rfl

theorem decodeStep_event {n : Nat} {b : BitVec 96} {i : Instr} (h0 : 0 < n) (h1 : n < 256) (hi : eventOfNo n (evFields b) = some i) :
    decodeStep (BitVec.ofNat 8 n ++ b) = .ok i := by
  obtain ⟨hb, hc⟩ := stepWord_parts (BitVec.ofNat 8 n) b
  rw [BitVec.toNat_ofNat, Nat.mod_eq_of_lt h1] at hc
  simp only [decodeStep, hb, hc, if_neg h0.ne', hi]

theorem decodeStep_encode {i : Instr} (hw : i.wellFormed = true) : decodeStep (encode i) = .ok i := by
  unfold encode
  split
  next op ho => rw [decodeStep_record, decodeRecord_recWord ho hw]
  next ho =>
    obtain ⟨h0, h1, hi⟩ := eventOfNo_args ho
    exact decodeStep_event h0 h1 (by rw [evFields_evWord, hi])

/-- Nothing but its own word is read as a step. -/
theorem encode_of_decodeStep {w : BitVec 104} {i : Instr} (h : decodeStep w = .ok i) : i.wellFormed = true ∧ encode i = w := by
  have hw := stepWord_eta w
  unfold decodeStep at h
  dsimp only at h
  split at h
  next hc =>
    obtain ⟨hi, hf⟩ := isRecord_of_decodeRecord h
    obtain ⟨ho, hr, -⟩ := id hi
    refine ⟨wellFormed_of_isRecord hi hf, ?_⟩
    rw [hc] at hw
    simp only [encode, ho, hr, recWord_recFields]
    exact hw
  next hc =>
    split at h
    next j hj =>
      cases h
      obtain ⟨ho, hn, ha⟩ := isEvent_of_eventOfNo (Nat.mod_lt _ (by decide)) hj
      refine ⟨by simp only [Instr.wellFormed, ho], ?_⟩
      simp only [encode, ho, hn, ha, evWord_evFields]
      exact hw
    · cases h

/-! ### Byte strings (R101) -/

theorem stepWord_bytes : 256 ^ 13 = 2 ^ 104 := by norm_num

theorem encodeBytes_length (i : Instr) : (encodeBytes i).length = 13 := leBytes_length 13 _

theorem leNat_encodeBytes (i : Instr) : BitVec.ofNat 104 (leNat (encodeBytes i)) = encode i := by
  rw [encodeBytes, leNat_leBytes, stepWord_bytes, Nat.mod_eq_of_lt (encode i).isLt, BitVec.ofNat_toNat, BitVec.setWidth_eq]

theorem decodeBytes_encodeBytes {i : Instr} (hw : i.wellFormed = true) (rest : List Byte) :
    decodeBytes (encodeBytes i ++ rest) = .ok (i, rest) := by
  have hl := encodeBytes_length i
  have hlen : ¬ (encodeBytes i ++ rest).length < 13 := by rw [List.length_append]; omega
  rw [decodeBytes, if_neg hlen, List.take_left' hl, List.drop_left' hl, leNat_encodeBytes, decodeStep_encode hw]

theorem leNat_lt (l : List Byte) : leNat l < 256 ^ l.length := by
  induction l with
  | nil => exact Nat.one_pos
  | cons b l ih =>
    have := b.isLt
    rw [List.length_cons, Nat.pow_succ', leNat]
    omega

theorem encodeBytes_of_decodeBytes {bs rest : List Byte} {i : Instr} (h : decodeBytes bs = .ok (i, rest)) :
    i.wellFormed = true ∧ bs = encodeBytes i ++ rest := by
  unfold decodeBytes at h
  split at h
  · cases h
  next hlen =>
    split at h
    next j hj =>
      cases h
      obtain ⟨hwf, henc⟩ := encode_of_decodeStep hj
      have hl : (bs.take 13).length = 13 := by rw [List.length_take]; omega
      have hn := leNat_lt (bs.take 13)
      rw [hl, stepWord_bytes] at hn
      have hb : encodeBytes i = bs.take 13 := by
        rw [encodeBytes, henc, BitVec.toNat_ofNat, Nat.mod_eq_of_lt hn]
        conv_rhs => rw [← leBytes_leNat (bs.take 13), hl]
      exact ⟨hwf, by rw [hb, List.take_append_drop]⟩
    · cases h

theorem decodeTableWord_encode {i : Instr} (hw : i.wellFormed = true) : decodeTableWord 104 (encode i).toNat = some i := by
  have h := decodeBytes_encodeBytes hw []
  rw [List.append_nil, encodeBytes] at h
  rw [decodeTableWord, Nat.mod_eq_of_lt (encode i).isLt, h]

/-- Settles O57: the record and event words read their fields back (Laws/Decode.lean), and a number with its fields is read as
the one instruction that has them (`fields_name`, `isRecord_of_instrOfOp`, `isEvent_of_eventOfNo`). -/
theorem encodeDecodeRoundTrip : Obligations.EncodeDecodeRoundTrip := by
  unfold Obligations.EncodeDecodeRoundTrip
  exact ⟨fun _ hw => decodeStep_encode hw, fun _ _ h => encode_of_decodeStep h, fun _ rest hw => decodeBytes_encodeBytes hw rest,
    fun _ _ _ h => encodeBytes_of_decodeBytes h, fun _ hw => decodeTableWord_encode hw⟩

end Sys2Proof
end

section
/-! PROOF. Words of the example objects (spec/01_collatz_program.md, spec/05_perceptron_program.md). -/

namespace Sys2Proof

/-- Settles O56: the decoder evaluates each of the seven byte strings. -/
theorem decodesItsWords : Obligations.DecodesItsWords := by
  unfold Obligations.DecodesItsWords
  exact ⟨rfl, rfl, rfl, rfl, rfl, rfl, rfl⟩

end Sys2Proof
end

section
/-! PROOF. Slices, sweeps, resumption and the fill of shadow banks (R294, R421 to R430). -/

namespace Sys2Proof.Machine

/-! ### What changes banks and queues alone -/

/-- What a change of banks and queues of elements and crucibles leaves. -/
structure UnitsOnly (s u : State) : Prop where
  mem : u.mem = s.mem
  tick : u.tick = s.tick
  beat : u.beat = s.beat
  ctxs : u.ctxs = s.ctxs
  courses : u.courses = s.courses
  transit : u.transit = s.transit
  saved : u.saved = s.saved

theorem UnitsOnly.refl (s : State) : UnitsOnly s s := ⟨rfl, rfl, rfl, rfl, rfl, rfl, rfl⟩

theorem UnitsOnly.trans {s t u : State} (h : UnitsOnly s t) (k : UnitsOnly t u) : UnitsOnly s u :=
  ⟨k.mem.trans h.mem, k.tick.trans h.tick, k.beat.trans h.beat, k.ctxs.trans h.ctxs, k.courses.trans h.courses,
    k.transit.trans h.transit, k.saved.trans h.saved⟩

theorem UnitsOnly.foldl {α : Type} {f : State → α → State} (hf : ∀ s x, UnitsOnly s (f s x)) (l : List α) (s : State) :
    UnitsOnly s (l.foldl f s) := by
  induction l generalizing s with
  | nil => exact .refl s
  | cons x l ih => exact (hf s x).trans (ih _)

theorem UnitsOnly.crs {s u : State} (h : UnitsOnly s u) (c : Nat) : u.crs c = s.crs c := by rw [State.crs, h.courses, State.crs]

theorem modElem_unitsOnly (s : State) (c el : Nat) (f : Element → Element) : UnitsOnly s (s.modElem c el f) :=
  ⟨rfl, rfl, rfl, rfl, rfl, rfl, rfl⟩

theorem modCru_unitsOnly (s : State) (c n : Nat) (f : Crucible → Crucible) : UnitsOnly s (s.modCru c n f) :=
  ⟨rfl, rfl, rfl, rfl, rfl, rfl, rfl⟩

theorem fillNextHolder_unitsOnly (s : State) (c cx : Nat) : UnitsOnly s (fillNextHolder s c cx) :=
  (UnitsOnly.foldl (fun s _ => modElem_unitsOnly s _ _ _) _ s).trans (.foldl (fun s _ => modCru_unitsOnly s _ _ _) _ _)

theorem fillBanks_unitsOnly (s : State) (c : Nat) (p : Plane) : UnitsOnly s (fillBanks s c p) := by
  refine ((UnitsOnly.foldl (fun s _ => modElem_unitsOnly s _ _ _) _ s).trans (.foldl (fun s _ => modCru_unitsOnly s _ _ _) _ _)).trans
    (.foldl (fun s u => ?_) _ _)
  split
  · exact modCru_unitsOnly s _ _ _
  · exact modElem_unitsOnly s _ _ _

theorem loadElement_unitsOnly (s : State) (c : Nat) (v : Saved) : UnitsOnly s (loadElement s c v) := modElem_unitsOnly s _ _ _

/-! ### Completions that enter a queue (R33, R361) -/

/-- Frames, ready queues and the saved pending entries apart, a state is as it was: banks and constants of the elements, and
whose elements are saved, among it. -/
structure KeepsBanks (s u : State) : Prop where
  courses : u.courses = s.courses
  mem : u.mem = s.mem
  transit : u.transit = s.transit
  saved : ∀ v ∈ u.saved, ∃ w ∈ s.saved, w.cx = v.cx ∧ w.course = v.course
  active : ∀ c el, (u.elem c el).active = (s.elem c el).active
  k : ∀ c el, (u.elem c el).k = (s.elem c el).k

theorem KeepsBanks.trans {s t u : State} (h : KeepsBanks s t) (k : KeepsBanks t u) : KeepsBanks s u where
  courses := k.courses.trans h.courses
  mem := k.mem.trans h.mem
  transit := k.transit.trans h.transit
  saved v hv := by
    obtain ⟨w, hw, hwv⟩ := k.saved v hv
    obtain ⟨x, hx, hxw⟩ := h.saved w hw
    exact ⟨x, hx, hxw.1.trans hwv.1, hxw.2.trans hwv.2⟩
  active c el := (k.active c el).trans (h.active c el)
  k c el := (k.k c el).trans (h.k c el)

theorem KeepsBanks.refl (s : State) : KeepsBanks s s := ⟨rfl, rfl, rfl, fun v hv => ⟨v, hv, rfl, rfl⟩, fun _ _ => rfl, fun _ _ => rfl⟩

theorem KeepsBanks.foldl {α : Type} {f : State → α → State} (hf : ∀ s x, KeepsBanks s (f s x)) (l : List α) (s : State) :
    KeepsBanks s (l.foldl f s) := by
  induction l generalizing s with
  | nil => exact .refl s
  | cons x l ih => exact (hf s x).trans (ih _)

/-- A unit's place of the element list, written, reads there as written and elsewhere as before. -/
theorem State.elem_setElem_eq (s : State) (c el : Nat) (x : Element) (c' el' : Nat) :
    (s.setElem c el x).elem c' el' = if c' * 8192 + el' = c * 8192 + el then x else s.elem c' el' := by
  split
  next h => simp only [State.elem, h, State.setElem_elements, lkp_put_same, Option.getD_some]
  next h => simp only [State.elem, State.setElem_elements, lkp_put_other _ _ h]

theorem setElem_keepsBanks {s : State} {c el : Nat} {x : Element} (ha : x.active = (s.elem c el).active)
    (hk : x.k = (s.elem c el).k) : KeepsBanks s (s.setElem c el x) := by
  have hkey : ∀ {c' el'}, c' * 8192 + el' = c * 8192 + el → s.elem c' el' = s.elem c el := fun h => by rw [State.elem, h, State.elem]
  refine ⟨rfl, rfl, rfl, fun v hv => ⟨v, hv, rfl, rfl⟩, fun c' el' => ?_, fun c' el' => ?_⟩ <;>
    rw [State.elem_setElem_eq] <;> split
  next h => rw [ha, hkey h]
  · rfl
  next h => rw [hk, hkey h]
  · rfl

theorem enqueue_banks {x y : Element} {e : Ready} {b : Bool} (h : enqueue x e b = some y) : y.active = x.active ∧ y.k = x.k := by
  unfold enqueue at h
  split at h
  · cases h; exact ⟨rfl, rfl⟩
  · split at h
    · cases h; exact ⟨rfl, rfl⟩
    · cases h

theorem enqueueAt_keepsBanks {s u : State} {c el : Nat} {e : Ready} {b : Bool} (h : enqueueAt s c el e b = some u) : KeepsBanks s u := by
  unfold enqueueAt at h
  split at h
  · cases h
    refine ⟨rfl, rfl, rfl, fun v hv => ?_, fun _ _ => rfl, fun _ _ => rfl⟩
    obtain ⟨w, hw, rfl⟩ := List.mem_map.mp hv
    refine ⟨w, hw, ?_⟩
    split <;> exact ⟨rfl, rfl⟩
  · obtain ⟨x, hx, rfl⟩ := Option.map_eq_some_iff.mp h
    exact setElem_keepsBanks (enqueue_banks hx).1 (enqueue_banks hx).2

theorem enqueueHeld_keepsBanks (s : State) (c el : Nat) (e : Ready) : KeepsBanks s (enqueueHeld s c el e) := by
  unfold enqueueHeld
  cases h : enqueueAt s c el e true with
  | some u => exact enqueueAt_keepsBanks h
  | none => exact setElem_keepsBanks rfl rfl

theorem modFrame_keepsBanks (s : State) (c b ft : Nat) (f : Frame → Frame) : KeepsBanks s (s.modFrame c b ft f) :=
  ⟨by simp, by simp, by simp, fun v hv => ⟨v, by simpa using hv, rfl, rfl⟩, fun _ _ => by simp [State.elem], fun _ _ => by simp [State.elem]⟩

theorem injectSources_keepsBanks (s : State) (c ft : Nat) (f : Frame) (nodes : List (Nat × Nat)) :
    KeepsBanks s (injectSources s c ft f nodes) :=
  .foldl (fun s _ => enqueueHeld_keepsBanks s _ _ _) _ s

theorem injectOwed_keepsBanks (s : State) (c cx : Nat) : KeepsBanks s (injectOwed s c cx) := by
  refine .foldl (fun s y => .foldl (fun s e => ?_) _ s) _ s
  split
  · split
    · exact (modFrame_keepsBanks s _ _ _ _).trans (injectSources_keepsBanks _ _ _ _ _)
    · exact .refl s
  · exact .refl s

theorem KeepsBanks.crs {s u : State} (h : KeepsBanks s u) (c : Nat) : u.crs c = s.crs c := by rw [State.crs, h.courses, State.crs]

/-! ### The end of a slice (R421, R422) -/

theorem setPass_tick (s : State) (p x c : Nat) (v : BitVec 64) : (setPass s p x c v).tick = s.tick := State.modCtx_tick ..

theorem chargeSlice_tick (s : State) (c cx t : Nat) : (chargeSlice s c cx t).tick = s.tick := by
  have hraise : ∀ (s : State) (p x : Nat) (v : BitVec 64), (if (s.ctx x).weight.toNat = 0 then s else setPass s p x c v).tick = s.tick := by
    intro s p x v
    split
    · rfl
    · exact setPass_tick ..
  have hfold : ∀ (l : List Nat) (f : State → Nat → State), (∀ s x, (f s x).tick = s.tick) → ∀ s, (l.foldl f s).tick = s.tick := by
    intro l f hf
    induction l with
    | nil => exact fun _ => rfl
    | cons x l ih => exact fun s => (ih _).trans (hf s x)
  exact (hfold _ _ (fun s x => hraise s _ x _) _).trans (hraise s cx cx _)

theorem beginSweep_crs (s : State) (c : Nat) (h : BitVec 12) :
    ((beginSweep s c h).crs c).sweeping = some (h, s.tick.toNat, BitVec.ofNat 12 ((pickHolder s c 8 0).getD 0)) ∧
      ((beginSweep s c h).crs c).next = (pickHolder s c 8 0).map (BitVec.ofNat 12) := by
  have htick := (fillNextHolder_unitsOnly (discardFills s c h) c ((pickHolder s c 8 0).getD 0)).tick
  have htick' : (discardFills s c h).tick = s.tick := rfl
  simp only [beginSweep, State.crs_modCrs, htick, htick', and_self]

section
variable {e : EvArgs} {s : State} {cx : BitVec 12} (hh : (s.crs e.course.toNat).holder = some cx)
  (hs : (s.crs e.course.toNat).sweeping = none)
include hh hs

theorem execSliceEnd_early (hover : sliceOver s e.course.toNat cx.toNat = false) : execSliceEnd e s = .next s := by
  simp only [execSliceEnd, hh, hs, hover, Bool.false_eq_true, if_false]

section
variable (hover : sliceOver s e.course.toNat cx.toNat = true) {t : State}
  (ht : chargeSlice s e.course.toNat cx.toNat (s.tick.toNat - (s.crs e.course.toNat).sliceStart) = t)
include hover ht

theorem execSliceEnd_renews (hc : stillContends t e.course.toNat cx.toNat = true) (hw : othersWait t e.course.toNat cx.toNat = false) :
    execSliceEnd e s = .next (startSlice t e.course.toNat cx.toNat) := by
  simp only [execSliceEnd, hh, hs, hover, ht, hc, hw, Bool.not_false, Bool.and_self, if_true]

theorem execSliceEnd_sweeps (h : stillContends t e.course.toNat cx.toNat = false ∨ othersWait t e.course.toNat cx.toNat = true) :
    execSliceEnd e s = .next (beginSweep t e.course.toNat cx) := by
  have hn : (stillContends t e.course.toNat cx.toNat && !(othersWait t e.course.toNat cx.toNat)) = false := by
    rcases h with h | h
    · rw [h, Bool.false_and]
    · rw [h, Bool.not_true, Bool.and_false]
  simp only [execSliceEnd, hh, hs, hover, ht, hn, Bool.false_eq_true, if_true, if_false]
end
end

/-! ### Sweep and freeze (R426 to R428) -/

/-- No token waits at the input of an element. -/
def InputsEmpty (s : State) : Prop := ∀ c el, (s.elem c el).input = []

theorem inputsEmpty_of_elements {s : State} (h : ∀ x ∈ s.elements, x.2.input = []) : InputsEmpty s := by
  intro c el
  rw [State.elem]
  cases hl : lkp s.elements (c * 8192 + el) with
  | none => rfl
  | some x => exact h _ (lkp_mem hl)

theorem drainInput_empty {s : State} {c el : Nat} (h : (s.elem c el).input = []) (n : Nat) : drainInput c el n s = s := by
  cases n with
  | zero => rfl
  | succ n => simp [drainInput, h]

/-- A state after some elements were saved while no token waits at an input. -/
structure SavedOnly (s u : State) : Prop where
  inputs : InputsEmpty u
  mem : u.mem = s.mem
  ctxs : u.ctxs = s.ctxs
  tick : u.tick = s.tick

theorem saveElement_savedOnly {s : State} (h : InputsEmpty s) (c el : Nat) (cx : BitVec 12) : SavedOnly s (saveElement s c el cx) := by
  unfold saveElement
  extract_lets x mine owns rest v t
  split
  · exact ⟨h, rfl, rfl, rfl⟩
  · have ht : InputsEmpty { t with saved := t.saved ++ [v] } := by
      intro c' el'
      refine (congrArg Element.input (State.elem_setElem_eq s c el _ c' el')).trans ?_
      split
      · exact h c el
      · exact h c' el'
    rw [drainInput_empty (ht c el)]
    exact ⟨ht, rfl, rfl, rfl⟩

theorem saveCourse_savedOnly {s : State} (h : InputsEmpty s) (c : Nat) (cx : BitVec 12) : SavedOnly s (saveCourse s c cx) := by
  unfold saveCourse
  generalize ((s.elements.filter fun e => e.1 / 8192 == c).map fun e => e.1 % 8192) = l
  induction l generalizing s with
  | nil => exact ⟨h, rfl, rfl, rfl⟩
  | cons el l ih =>
    have h1 := saveElement_savedOnly h c el cx
    have h2 := ih h1.inputs
    exact ⟨h2.inputs, h2.mem.trans h1.mem, h2.ctxs.trans h1.ctxs, h2.tick.trans h1.tick⟩

theorem State.ctx_modCtx {s : State} {cx : Nat} (h : (s.ctx? cx).isSome = true) (f : Ctx → Ctx) :
    (s.modCtx cx f).ctx cx = f (s.ctx cx) := by
  obtain ⟨x, hx⟩ := Option.isSome_iff_exists.mp h
  rw [State.ctx?] at hx
  simp only [State.modCtx, State.ctx, hx, lkp_put_same, Option.getD_some]

theorem endSweep_crs (s : State) (c : Nat) (cx : BitVec 12) (start : Nat) :
    ((endSweep s c cx start).crs c).holder = none ∧ ((endSweep s c cx start).crs c).sweeping = none := by
  simp only [endSweep, State.crs_modCrs, and_self]

theorem endSweep_mem {s : State} (h : InputsEmpty s) (c : Nat) (cx : BitVec 12) (start : Nat) :
    (endSweep s c cx start).mem = s.mem := by
  simp only [endSweep, State.modCrs_mem, State.modCtx_mem, (saveCourse_savedOnly h c cx).mem]

theorem endSweep_saveTime {s : State} (h : InputsEmpty s) (c : Nat) {cx : BitVec 12} (hc : (s.ctx? cx.toNat).isSome = true) (start : Nat) :
    ((endSweep s c cx start).ctx cx.toNat).saveTime = max (s.ctx cx.toNat).saveTime (s.tick.toNat - start) := by
  obtain ⟨-, -, hctxs, htick⟩ := saveCourse_savedOnly h c cx
  have hc' : ((saveCourse s c cx).ctx? cx.toNat).isSome = true := by rw [State.ctx?, hctxs]; exact hc
  have hx : (saveCourse s c cx).ctx cx.toNat = s.ctx cx.toNat := by rw [State.ctx, hctxs, State.ctx]
  refine (congrArg Ctx.saveTime (State.ctx_modCtx hc' _)).trans ?_
  rw [hx, htick]

section
variable {e : EvArgs} {s : State} {cx next : BitVec 12} {start : Nat}
  (hs : (s.crs e.course.toNat).sweeping = some (cx, start, next))
include hs

theorem execSweep_done (ht : linkTokens s e.course.toNat cx = []) (hi : issuingOn s e.course.toNat cx = false) :
    execSweep e s = .next (endSweep s e.course.toNat cx start) := by
  simp only [execSweep, hs, ht, hi, List.isEmpty_nil, Bool.not_false, Bool.and_self, if_true]

theorem execSweep_waits (h : linkTokens s e.course.toNat cx ≠ [] ∨ issuingOn s e.course.toNat cx = true) :
    execSweep e s = .next s := by
  have hn : ((linkTokens s e.course.toNat cx).isEmpty && !(issuingOn s e.course.toNat cx)) = false := by
    rcases h with h | h
    · rw [List.isEmpty_eq_false_iff.mpr h, Bool.false_and]
    · rw [h, Bool.not_true, Bool.and_false]
  simp only [execSweep, hs, hn, Bool.false_eq_true, if_false]

theorem execFreeze_due (hd : start + (s.ctx cx.toNat).floor ≤ s.tick.toNat) :
    execFreeze e s = .next (endSweep
      (({ s with transit := s.transit.filter fun t => !((linkTokens s e.course.toNat cx).contains t) } : State).modCrs
        e.course.toNat fun y => { y with frozen := y.frozen ++ linkTokens s e.course.toNat cx }) e.course.toNat cx start) := by
  simp only [execFreeze, hs, if_pos hd]

theorem execFreeze_early (hd : s.tick.toNat < start + (s.ctx cx.toNat).floor) : execFreeze e s = .next s := by
  simp only [execFreeze, hs, if_neg (Nat.not_le.mpr hd)]
end

/-! ### Resumption (R429, R430) -/

/-- A resumption's effect beside the units: what the context saved there is taken up, and what its freeze captured is in flight. -/
structure Loads (s u : State) (c cx : Nat) : Prop where
  mem : u.mem = s.mem
  tick : u.tick = s.tick
  ctxs : u.ctxs = s.ctxs
  transit : u.transit = (s.crs c).frozen.filter (fun t => t.tok.cx.toNat == cx) ++ s.transit
  saved : u.saved = s.saved.filter fun v => !(v.cx.toNat == cx && v.course.toNat == c)
  exchanged : (u.crs c).exchanged = s.beat + 1

theorem loadCourse_loads (s : State) (c cx : Nat) : Loads s (loadCourse s c cx) c cx := by
  unfold loadCourse
  extract_lets mine vs t y back again v old w
  have ht : UnitsOnly { s with saved := s.saved.filter fun v => !(mine v) } t := .foldl (fun s v => loadElement_unitsOnly s c v) vs _
  have hw : UnitsOnly v w := by
    obtain ho | ⟨k, ho⟩ := Option.eq_none_or_eq_some old
    · simp only [w, ho]; exact .refl v
    · simp only [w, ho]; exact fillBanks_unitsOnly v c _
  have hback : back = (s.crs c).frozen.filter fun t => t.tok.cx.toNat == cx := congrArg (fun y => List.filter _ (Course.frozen y)) (ht.crs c)
  refine ⟨hw.mem.trans ht.mem, hw.tick.trans ht.tick, hw.ctxs.trans ht.ctxs, ?_, hw.saved.trans ht.saved, ?_⟩
  · rw [State.modCrs_transit, hw.transit, ← hback]
    exact congrArg (back ++ ·) ht.transit
  · rw [State.crs_modCrs]
    exact congrArg (· + 1) (hw.beat.trans ht.beat)

theorem refillReady_banks (n : Nat) (x : Element) : (refillReady n x).active = x.active ∧ (refillReady n x).k = x.k := by
  induction n generalizing x with
  | zero => exact ⟨rfl, rfl⟩
  | succ n ih =>
    unfold refillReady
    split
    · exact ⟨rfl, rfl⟩
    · split
      · exact ih _
      · exact ih _
      · exact ⟨rfl, rfl⟩

theorem loadElement_banks (s : State) (c : Nat) (v : Saved) :
    ((loadElement s c v).elem c v.el).active = v.bank ∧ ((loadElement s c v).elem c v.el).k = v.k := by
  simp only [loadElement, State.modElem, State.elem_setElem]
  exact refillReady_banks 64 _

/-- The one element that a context saved on a course stands there again, when no former plane of its was kept. -/
theorem loadCourse_banks {s : State} {c cx : Nat} {v : Saved}
    (hv : (s.saved.filter fun v => v.cx.toNat == cx && v.course.toNat == c) = [v]) (hk : (s.crs c).kept = []) :
    ((loadCourse s c cx).elem c v.el).active = v.bank ∧ ((loadCourse s c cx).elem c v.el).k = v.k := by
  unfold loadCourse
  extract_lets mine vs t y back again u old w
  have ht : t = loadElement { s with saved := s.saved.filter fun v => !(mine v) } c v := by
    unfold t vs mine
    rw [hv]
    rfl
  have hold : old = none := by
    have hy : y.kept = [] := by unfold y; rw [ht]; exact hk
    unfold old
    split
    · rw [hy]; rfl
    · rfl
  have hw : w = u := by unfold w; rw [hold]
  rw [hw]
  refine (?_ : (t.elem c v.el).active = v.bank ∧ (t.elem c v.el).k = v.k)
  rw [ht]
  exact loadElement_banks _ c v

theorem startSlice_keepsBanks (s : State) (c cx : Nat) : KeepsBanks (s.modCrs c fun y =>
    { y with holder := some (BitVec.ofNat 12 cx), sweeping := none, sliceStart := s.tick.toNat, sliceEnd := s.tick.toNat + effQuantum s cx })
    (startSlice s c cx) := injectOwed_keepsBanks _ c cx

theorem startSlice_crs (s : State) (c cx : Nat) : (startSlice s c cx).crs c =
    { s.crs c with holder := some (BitVec.ofNat 12 cx), sweeping := none, sliceStart := s.tick.toNat,
                   sliceEnd := s.tick.toNat + effQuantum s cx } := by
  rw [(startSlice_keepsBanks s c cx).crs, State.crs_modCrs]

theorem effQuantum_of_ctxs {s u : State} (h : u.ctxs = s.ctxs) (cx : Nat) : effQuantum u cx = effQuantum s cx := by
  simp only [effQuantum, State.ctx, h]

theorem execSliceResume_of {e : EvArgs} {s : State} {n : Nat} (hh : (s.crs e.course.toNat).holder = none)
    (hs : (s.crs e.course.toNat).sweeping = none) (hup : courseUp s e.course.toNat = true)
    (hx : (s.crs e.course.toNat).exchanged ≠ s.beat + 1) (hn : nextHolder s e.course.toNat = some n) :
    execSliceResume e s = .next (startSlice (loadCourse s e.course.toNat n) e.course.toNat n) := by
  simp only [execSliceResume, hh, hs, hup, hn, beq_eq_false_iff_ne.mpr hx, Option.isSome_none, Bool.not_true, Bool.or_self,
    Bool.false_eq_true, if_false]

/-! ### The end of a fill (R133, R294) -/

/-- A pool of the course that lies over one which stays in force is a reason to reject the plane. -/
theorem validateOn_clash {p : Plane} {me c : Nat} {clash : PPool → Bool} {q : PPool} (hq : q ∈ p.pools) (hc : q.course = c)
    (hclash : clash q = true) : ∃ x, p.validateOn me (· == c) clash = some x := by
  unfold Plane.validateOn
  split
  · exact ⟨_, rfl⟩
  · split
    · exact ⟨_, rfl⟩
    · split
      · exact ⟨_, rfl⟩
      · split
        · exact ⟨_, rfl⟩
        next hnone =>
          have := List.find?_eq_none.mp hnone q hq
          simp [hc, hclash] at this

/-- With nothing before its pools to reject, a plane's one clashing pool is what is named. -/
theorem validateOn_onePool {p : Plane} {me c : Nat} {clash : PPool → Bool} {q : PPool} (hc : q.course = c)
    (hclash : clash q = true) (hu : p.units = []) (hm : p.maps = []) (hb : p.blocks = []) (hp : p.pools = [q]) :
    p.validateOn me (· == c) clash = some (Illegal.ofPool q) := by
  simp [Plane.validateOn, hu, hm, hb, hp, hc, hclash]

/-- The state after a fill that is accepted, before the next one begins. -/
def fillDone (s : State) (c : Nat) (f : Fill) (p : Plane) : State :=
  sendLater ((fillBanks s c p).modCrs c fun y => { y with shadow := .complete f.cx f.plane p, former := false })
    f.toks (f.pend.fir.b.getD (plain 0)).word false

theorem sendLater_crs (s : State) (l : List Transit) (x : Nat) (p : Bool) (c : Nat) : (sendLater s l x p).crs c = s.crs c := rfl

theorem fillDone_spec (s : State) (c : Nat) (f : Fill) (p : Plane) :
    (fillDone s c f p).crs c = { s.crs c with shadow := .complete f.cx f.plane p, former := false } ∧
      (fillDone s c f p).mem = s.mem ∧ (fillDone s c f p).transit = s.transit ++ f.toks.map fun t => { t with
        tok := { t.tok with val := ((f.pend.fir.b.getD (plain 0)).low 64).setWidth 512, p := false } } := by
  have hu := fillBanks_unitsOnly s c p
  have hval : BitVec.ofNat 512 ((f.pend.fir.b.getD (plain 0)).word % 2 ^ 64) = ((f.pend.fir.b.getD (plain 0)).low 64).setWidth 512 := by
    rw [Opnd.low, ← BitVec.ofNat_toNat, BitVec.toNat_setWidth, Opnd.word, Nat.mod_mod]
  refine ⟨?_, ?_, ?_⟩
  · rw [fillDone, sendLater_crs, State.crs_modCrs, hu.crs]
  · exact hu.mem
  · rw [fillDone, sendLater, hval]
    exact congrArg (· ++ _) hu.transit

/-- The layouts of a context's frames and pools on a course allow a plane there (R295). -/
def FitsLayout (s : State) (cx c : Nat) (p : Plane) : Prop :=
  frameBreaks s cx c p = false ∧ (flipPools s cx c (activePools s cx c) p).isSome = true

theorem fitsLayout_iff (s : State) (cx c : Nat) (p : Plane) :
    FitsLayout s cx c p ↔ (frameBreaks s cx c p || (flipPools s cx c (activePools s cx c) p).isNone) = false := by
  simp [FitsLayout, Option.isSome_iff_ne_none]

section
variable {e : EvArgs} {s : State} {f : Fill} (hf : (s.crs e.course.toNat).fill = some f) (hr : f.ready = true)
  (hs : (s.crs e.course.toNat).sweeping = none) (hh : (s.crs e.course.toNat).holder = some f.cx)
include hf hr hs hh

theorem execCfgFillComplete_noPlane (hp : lkp s.planes f.plane.toNat = none) :
    execCfgFillComplete e s = .next (failFill s e.course.toNat f kCFGFETCH 0 none) := by
  simp [execCfgFillComplete, hf, hr, hs, hh, hp]

theorem execCfgFillComplete_damaged {p : Plane} (hp : lkp s.planes f.plane.toNat = some p) (hd : p.damaged = true) :
    execCfgFillComplete e s = .next (failFill s e.course.toNat f kCFGFETCH 1 none) := by
  simp [execCfgFillComplete, hf, hr, hs, hh, hp, hd]

theorem execCfgFillComplete_illegal {p : Plane} {x : Illegal} (hp : lkp s.planes f.plane.toNat = some p) (hd : p.damaged = false)
    (hx : p.validateOn s.sideband.stackNo.toNat (· == e.course.toNat)
      (poolClash s f.cx.toNat p (unflipped s f.cx.toNat e.course.toNat)) = some x) :
    execCfgFillComplete e s = .next (failFill s e.course.toNat f kCFGILL x.code (some x)) := by
  simp [execCfgFillComplete, hf, hr, hs, hh, hp, hd, hx]

section
variable {p : Plane} (hp : lkp s.planes f.plane.toNat = some p) (hd : p.damaged = false)
  (hx : p.validateOn s.sideband.stackNo.toNat (· == e.course.toNat)
    (poolClash s f.cx.toNat p (unflipped s f.cx.toNat e.course.toNat)) = none)
include hp hd hx

theorem execCfgFillComplete_layout (hn : ¬ FitsLayout s f.cx.toNat e.course.toNat p) :
    execCfgFillComplete e s = .next (failFill s e.course.toNat f kLAYOUT 0 none) := by
  have hb := Bool.eq_true_of_not_eq_false ((fitsLayout_iff s f.cx.toNat e.course.toNat p).not.mp hn)
  simp [execCfgFillComplete, hf, hr, hs, hh, hp, hd, hx, hb]

/-- A fill whose plane is accepted is done, and the next one begins, if there is one. -/
theorem execCfgFillComplete_done (hfit : FitsLayout s f.cx.toNat e.course.toNat p) :
    execCfgFillComplete e s = .next (
      if (s.crs e.course.toNat).fillNext.isEmpty then (fillDone s e.course.toNat f p).modCrs e.course.toNat fun y => { y with fill := none }
      else nextFill (fillDone s e.course.toNat f p) e.course.toNat) := by
  have hb := (fitsLayout_iff s f.cx.toNat e.course.toNat p).mp hfit
  have hnext : ((fillDone s e.course.toNat f p).crs e.course.toNat).fillNext = (s.crs e.course.toNat).fillNext := by
    rw [(fillDone_spec s e.course.toNat f p).1]
  rw [← hnext]
  simp [execCfgFillComplete, hf, hr, hs, hh, hp, hd, hx, hb, fillDone]
end
end

/-- Settles O52: each event by the lemmas of its step, and what a step leaves by `UnitsOnly`, `SavedOnly`, `Loads` and
`KeepsBanks`. -/
theorem sliceEventsAct : Obligations.SliceEventsAct := by
  unfold Obligations.SliceEventsAct
  intro e s cx start next f c y floor ts
  refine ⟨?_, fun hh hs hover => execSliceEnd_early hh hs hover, fun hs => ⟨fun ⟨h1, h2⟩ => execSweep_done hs h1 h2,
    fun h => execSweep_waits hs h, fun hd => execFreeze_due hs hd, fun hd => execFreeze_early hs hd⟩, ?_, ?_, ?_⟩
  · intro hh hs hover t
    have htick : t.tick = s.tick := chargeSlice_tick s c cx.toNat _
    refine ⟨fun ⟨h1, h2⟩ => execSliceEnd_renews hh hs hover rfl h1 h2, fun h => ⟨execSliceEnd_sweeps hh hs hover rfl h, ?_⟩⟩
    rw [← htick]
    exact beginSweep_crs t c cx
  · obtain ⟨hholder, hsweeping⟩ := endSweep_crs s c cx start
    exact ⟨hholder, hsweeping, fun h => ⟨endSweep_mem (inputsEmpty_of_elements h) c cx start,
      fun hc => endSweep_saveTime (inputsEmpty_of_elements h) c hc start⟩⟩
  · intro hh hs hup hx n hn u
    have hl := loadCourse_loads s c n
    have hk := startSlice_keepsBanks (loadCourse s c n) c n
    have hcrs := startSlice_crs (loadCourse s c n) c n
    refine ⟨execSliceResume_of hh hs hup hx hn, ?_, ?_, ?_, ?_, fun v hv => ?_, hk.mem.trans hl.mem, hk.transit.trans hl.transit,
      fun v hv hkept => ?_⟩
    · rw [hcrs]
    · rw [hcrs, hl.tick]
    · rw [hcrs, hl.tick, effQuantum_of_ctxs hl.ctxs]
    · rw [hcrs, hl.exchanged]
    · obtain ⟨w, hw, hcx, hco⟩ := hk.saved v hv
      have hw' : w ∈ (loadCourse s c n).saved := hw
      rw [hl.saved] at hw'
      rw [not_and_or]
      simpa [hcx, hco] using (List.mem_filter.mp hw').2
    · obtain ⟨hactive, hkk⟩ := loadCourse_banks hv hkept
      exact ⟨(hk.active c v.el).trans hactive, (hk.k c v.el).trans hkk⟩
  · intro hf hr hs hh
    refine ⟨fun hp => execCfgFillComplete_noPlane hf hr hs hh hp, ?_⟩
    intro p hp clash illegal fits done
    obtain ⟨hcrs, hmem, htransit⟩ := fillDone_spec s c f p
    refine ⟨fun hd => execCfgFillComplete_damaged hf hr hs hh hp hd, fun hd => ⟨fun x hx => execCfgFillComplete_illegal hf hr hs hh hp hd hx,
      fun q hq hc hcl => validateOn_clash hq hc hcl, fun q hq hc hcl hu hm hb hpools => validateOn_onePool hc hcl hu hm hb hpools,
      fun hx hn => ?_, fun hx hfits hnext => ?_, fun hx hfits hnext => ?_⟩, ?_, hmem, htransit⟩
    · exact execCfgFillComplete_layout hf hr hs hh hp hd hx hn
    · exact (execCfgFillComplete_done hf hr hs hh hp hd hx hfits).trans (congrArg _ (if_pos (List.isEmpty_iff.mpr hnext)))
    · exact (execCfgFillComplete_done hf hr hs hh hp hd hx hfits).trans (congrArg _ (if_neg (List.isEmpty_iff.not.mpr hnext)))
    · exact congrArg Course.shadow hcrs

end Sys2Proof.Machine
end

section
/-! PROOF. What leaves the clock and the sideband: sending, memory writes, pulls, the bay allocator's lists, faults, and the
beginning of a cast, so also the refilling of ready queues while time passes (R33). -/

namespace Sys2Proof.Machine

/-! ### The relation -/

/-- The clock and the sideband are as they were. -/
@[simp] abbrev KeepsClock (s u : State) : Prop := u.cycles = s.cycles ∧ u.sideband = s.sideband

theorem KeepsClock.trans {s t u : State} (h : KeepsClock s t) (k : KeepsClock t u) : KeepsClock s u :=
  ⟨k.1.trans h.1, k.2.trans h.2⟩

theorem foldl_clock {α : Type} {f : State → α → State} (hf : ∀ s x, KeepsClock s (f s x)) (l : List α) (s : State) :
    KeepsClock s (l.foldl f s) := by
  induction l generalizing s with
  | nil => exact ⟨rfl, rfl⟩
  | cons x l ih => exact KeepsClock.trans (hf s x) (ih _)

/-! ### Sending -/

theorem State.modFrame_clock (s : State) (c b ft : Nat) (f : Frame → Frame) : KeepsClock s (s.modFrame c b ft f) := by simp

@[simp] theorem sendTok_clock (s : State) (g : Firing) (t : Transit) : KeepsClock s (sendTok s g t) := by
  unfold sendTok
  split
  · exact ⟨rfl, rfl⟩
  · split
    · exact ⟨rfl, rfl⟩
    · split <;> simp

@[simp] theorem sendTo_clock (s : State) (g : Firing) (e : Bool) (stack course ft it : Nat) (d : BitVec 21) (pl : Bool) (v : Option Val) :
    KeepsClock s (sendTo s g e stack course ft it d pl v) := by
  unfold sendTo
  split
  · simp
  · split <;> simp

@[simp] theorem emitTagged_clock (s : State) (r : NodeRec) (g : Firing) (e : Bool) (stack course ft it : Nat) (pl0 pl1 : Bool)
    (v0 v1 : Option Val) : KeepsClock s (emitTagged s r g e stack course ft it pl0 pl1 v0 v1) := by
  unfold emitTagged
  split <;> simp

@[simp] theorem emitWord_clock (s : State) (r : NodeRec) (g : Firing) (x : Nat) (p : Bool) : KeepsClock s (emitWord s r g x p) := by
  unfold emitWord emitVals emitOn
  dsimp only
  split <;> simp

/-! ### Memory writes -/

@[simp] theorem bumpGen_clock (s : State) (cx : Nat) : KeepsClock s (bumpGen s cx) := by
  unfold bumpGen
  dsimp only
  split <;> exact ⟨rfl, rfl⟩

@[simp] theorem touchLine_clock (s : State) (a : Nat) : KeepsClock s (touchLine s a) := by
  unfold touchLine
  split <;> simp

@[simp] theorem touchRange_clock (s : State) (lo n : Nat) : KeepsClock s (touchRange s lo n) :=
  foldl_clock (fun s _ => touchLine_clock s _) _ s

@[simp] theorem resetShadow_clock (hit : Nat → Bool) (s : State) (line : Nat) : KeepsClock s (resetShadow hit s line) := by
  unfold resetShadow
  split <;> exact ⟨rfl, rfl⟩

@[simp] theorem dropStruct_clock (s : State) : KeepsClock s (dropStruct s) := by
  unfold dropStruct
  split <;> exact ⟨rfl, rfl⟩

@[simp] theorem writeBytes_clock (s : State) (l : List (Nat × Byte)) : KeepsClock s (writeBytes s l) := by
  unfold writeBytes
  extract_lets lines hit edits s1 s2 s3
  have h1 : KeepsClock s s1 := .trans (foldl_clock (resetShadow_clock hit) lines s) (foldl_clock (fun s _ => touchLine_clock s _) _ _)
  have h3 : KeepsClock s s3 := .trans h1 (foldl_clock (resetShadow_clock hit) lines s2)
  split
  · exact .trans h3 (dropStruct_clock s3)
  · exact h3

@[simp] theorem startWake_clock (s : State) (c : Nat) : KeepsClock s (startWake s c) := by
  obtain h | ⟨-, h⟩ | ⟨-, h⟩ := startWake_cases s c <;> simp [h]

@[simp] theorem wakeAt_clock (s : State) (as : List Nat) : KeepsClock s (wakeAt s as) := by
  unfold wakeAt
  split
  · simp
  · exact foldl_clock startWake_clock _ s

@[simp] theorem dirtyRegion_clock (cx fuel va n : Nat) (s : State) : KeepsClock s (dirtyRegion s cx fuel va n) := by
  induction fuel generalizing s va n with
  | zero => exact ⟨rfl, rfl⟩
  | succ fuel ih =>
    unfold dirtyRegion
    split
    · exact ⟨rfl, rfl⟩
    · split
      · exact ⟨rfl, rfl⟩
      · exact .trans (t := { s with mem := _ }) ⟨rfl, rfl⟩ (ih ..)

theorem pullLines_clock {up src dst size n i : Nat} {s u : State} (h : pullLines up src dst size n i s = some u) :
    KeepsClock s u := by
  induction n generalizing i s with
  | zero => cases h; exact ⟨rfl, rfl⟩
  | succ n ih =>
    obtain ⟨t, ht, hu⟩ := Option.bind_eq_some_iff.mp h
    unfold pullLine at ht
    split at ht
    · cases ht
      exact .trans (writeBytes_clock s _) (ih hu)
    · cases ht

theorem pullNow_clock {s u : State} {owner : Nat} {q : Nat × Nat × Nat × Nat} (h : pullNow s owner q = some u) : KeepsClock s u := by
  obtain ⟨entry, src, dst, size⟩ := q
  simp only [pullNow] at h
  split at h
  · cases h
  · obtain ⟨t, ht, rfl⟩ := Option.map_eq_some_iff.mp h
    exact .trans (pullLines_clock ht) (.trans (writeBytes_clock t _) (bumpGen_clock _ owner))

@[simp] theorem pullPage_clock (cx va fuel : Nat) (s : State) : KeepsClock s (pullPage s cx va fuel) := by
  induction fuel generalizing s with
  | zero => exact ⟨rfl, rfl⟩
  | succ fuel ih =>
    unfold pullPage
    split
    · exact ⟨rfl, rfl⟩
    · split
      next t ht =>
        obtain ⟨q, -, hq⟩ := Option.bind_eq_some_iff.mp ht
        exact .trans (pullNow_clock hq) (ih t)
      · exact ⟨rfl, rfl⟩

@[simp] theorem pullRange_clock (cx fuel va n : Nat) (s : State) : KeepsClock s (pullRange s cx fuel va n) := by
  induction fuel generalizing s va n with
  | zero => exact ⟨rfl, rfl⟩
  | succ fuel ih =>
    unfold pullRange
    split
    · exact ⟨rfl, rfl⟩
    · exact .trans (pullPage_clock cx va 8 s) (ih _ _ _)

theorem reachBytes_clock (s : State) (cx va n : Nat) : KeepsClock s (reachBytes s cx va n).1 := by
  unfold reachBytes
  split
  · exact ⟨rfl, rfl⟩
  · split
    · exact ⟨rfl, rfl⟩
    · exact pullRange_clock cx _ va n s

theorem ringPut_clock {s u : State} {cx sel c off : Nat} {bs : List Byte} (h : ringPut s cx sel c off bs = .ok u) : KeepsClock s u := by
  unfold ringPut at h
  extract_lets va at h
  have hreach := reachBytes_clock s cx va bs.length
  split at h
  · cases h
  next t as ht =>
    cases h
    rw [ht] at hreach
    exact .trans hreach (.trans (dirtyRegion_clock cx _ va bs.length t) (.trans (wakeAt_clock _ as) (writeBytes_clock _ _)))

@[simp] theorem setSlot_clock (s : State) (c b ft i : Nat) (o : Opnd) : KeepsClock s (setSlot s c b ft i o) := by
  unfold setSlot imageSlotPut
  split
  · exact ⟨rfl, rfl⟩
  · split
    · split
      next h => exact .trans (by simp) (ringPut_clock h)
      · simp
    · simp

/-! ### Room -/

@[simp] theorem modPool_clock (s : State) (c b p : Nat) (f : Pool → Pool) : KeepsClock s (s.modPool c b p f) := ⟨rfl, rfl⟩

@[simp] theorem guardPut_clock (s : State) (c b g : Nat) (on : Bool) : KeepsClock s (guardPut s c b g on) := by
  unfold guardPut
  split <;> exact ⟨rfl, rfl⟩

@[simp] theorem countGrant_clock (s : State) (c b pid : Nat) : KeepsClock s (countGrant s c b pid) := ⟨rfl, rfl⟩

@[simp] theorem giveBackDef_clock (s : State) (c b pid entry : Nat) : KeepsClock s (giveBackDef s c b pid entry) := ⟨rfl, rfl⟩

@[simp] theorem defPut_clock (s : State) (c b g ft it : Nat) (d : BitVec 21) (n : Option Nat) : KeepsClock s (defPut s c b g ft it d n) :=
  ⟨rfl, rfl⟩

@[simp] theorem listIld_clock (s : State) (c b pid entry base : Nat) (p : Pend) : KeepsClock s (listIld s c b pid entry base p) := by
  unfold listIld
  dsimp only
  split
  · exact ⟨rfl, rfl⟩
  · split
    · simp
    · split <;> simp

@[simp] theorem grantAt_clock (s : State) (c b pid : Nat) (p : Pool) (w : Waiter) (base : Nat) : KeepsClock s (grantAt s c b pid p w base) := by
  unfold grantAt
  dsimp only
  split
  · split
    · simp
    · split
      case h_5 => split <;> simp
      all_goals simp
  · split
    · simp
    · split <;> simp

@[simp] theorem unlist_clock (s : State) (c b pid i : Nat) : KeepsClock s (unlist s c b pid i) := ⟨rfl, rfl⟩

@[simp] theorem scanGo_clock (c b pid fuel : Nat) (s : State) : KeepsClock s (scanGo c b pid fuel s) := by
  induction fuel generalizing s with
  | zero => exact ⟨rfl, rfl⟩
  | succ fuel ih =>
    unfold scanGo
    split
    · exact ⟨rfl, rfl⟩
    · split
      · exact ⟨rfl, rfl⟩
      · split
        · exact ⟨rfl, rfl⟩
        · refine .trans ?_ (ih _)
          refine .trans ?_ (grantAt_clock ..)
          dsimp only
          split <;> simp

@[simp] theorem setMv_clock (s : State) (c b pid : Nat) (id : AllocId) (v : Bool) : KeepsClock s (setMv s c b pid id v) := by
  unfold setMv
  split <;> simp

@[simp] theorem beginMove_clock (s : State) (c b pid : Nat) (l : List AllocId) : KeepsClock s (beginMove s c b pid l) := by
  induction l with
  | nil => exact ⟨rfl, rfl⟩
  | cons id l ih =>
    unfold beginMove
    dsimp only
    split
    · split
      · simp
      · exact ih
    · exact ih

@[simp] theorem beginCompact_clock (s : State) (c b pid : Nat) (p : Pool) : KeepsClock s (beginCompact s c b pid p) := by
  unfold beginCompact
  dsimp only
  split
  · split <;> simp
  · simp

@[simp] theorem compactIfDue_clock (s : State) (c b pid : Nat) : KeepsClock s (compactIfDue s c b pid) := by
  unfold compactIfDue
  split
  · exact ⟨rfl, rfl⟩
  · dsimp only
    split
    · exact ⟨rfl, rfl⟩
    · split
      · split <;> simp
      · split
        · split <;> simp
        · exact ⟨rfl, rfl⟩

@[simp] theorem syncWaits_clock (s : State) (c b : Nat) (anchored : Bool) (l : List Waiter) : KeepsClock s (syncWaits s c b anchored l) := by
  induction l generalizing s anchored with
  | nil => exact ⟨rfl, rfl⟩
  | cons w l ih =>
    unfold syncWaits
    refine .trans ?_ (ih _ _)
    split
    · dsimp only
      split
      · split <;> simp
      · exact ⟨rfl, rfl⟩
    · exact ⟨rfl, rfl⟩

@[simp] theorem scanPool_clock (s : State) (c b pid : Nat) : KeepsClock s (scanPool s c b pid) := by
  unfold scanPool syncPool
  split
  · exact ⟨rfl, rfl⟩
  · split <;> simp

@[simp] theorem withdrawPool_clock (s : State) (c b pid : Nat) (f : Waiter → Bool) : KeepsClock s (withdrawPool s c b pid f) := by
  unfold withdrawPool
  split
  · exact ⟨rfl, rfl⟩
  · split <;> simp

@[simp] theorem withdrawBay_clock (s : State) (c b : Nat) (f : Waiter → Bool) : KeepsClock s (withdrawBay s c b f) :=
  foldl_clock (fun s p => withdrawPool_clock s c b p f) _ s

@[simp] theorem syncTickets_clock (l : List (BitVec 21 × Pend)) (s : State) : KeepsClock s (syncTickets l s) := by
  induction l generalizing s with
  | nil => exact ⟨rfl, rfl⟩
  | cons w l ih =>
    unfold syncTickets
    refine .trans ?_ (ih _)
    split <;> simp

@[simp] theorem grantSlot_clock (s : State) (p : Pend) (n : Nat) : KeepsClock s (grantSlot s p n) := by
  unfold grantSlot setSlotState
  simp

@[simp] theorem serveSlots_clock (l : List (BitVec 21 × Pend)) (s : State) : KeepsClock s (serveSlots l s) := by
  induction l generalizing s with
  | nil => exact ⟨rfl, rfl⟩
  | cons w l ih =>
    unfold serveSlots
    split
    · exact ⟨rfl, rfl⟩
    · refine .trans ?_ (ih _)
      simp

@[simp] theorem scanSlots_clock (s : State) : KeepsClock s (scanSlots s) :=
  .trans (serveSlots_clock _ s) (syncTickets_clock _ _)

@[simp] theorem withdrawCast_clock (s : State) (c b ft : Nat) : KeepsClock s (withdrawCast s c b ft) := by
  generalize hu : withdrawCast s c b ft = u
  unfold withdrawCast at hu
  extract_lets mine lists cru freed s1 s2 s3 drop s4 s5 at hu
  have h5 : KeepsClock s3 s5 := ⟨rfl, rfl⟩
  clear_value s5
  have h3 : KeepsClock s2 s3 := by
    refine foldl_clock (fun s l => ?_) lists s2
    split <;> simp
  clear_value s3
  have h2 : KeepsClock s s2 := by
    unfold s2
    split
    · exact scanSlots_clock s1
    · exact ⟨rfl, rfl⟩
  exact .trans (.trans h2 h3) (.trans h5 (hu ▸ withdrawBay_clock s5 c b _))

/-! ### Faults -/

@[simp] theorem enterFault_clock (s : State) (h : Nat) (rc : FaultRec) (site : Site) : KeepsClock s (enterFault s h rc site) := by
  unfold enterFault
  dsimp only
  split
  · simp
  · split <;> simp

@[simp] theorem fileFault_clock (s : State) (owner : Nat) (b : Bool) (rc : FaultRec) (site : Site) :
    KeepsClock s (fileFault s owner b rc site) := enterFault_clock ..

@[simp] theorem hardFault_clock (s : State) (g : Firing) (kind code owner : Nat) (upd : FaultRec → FaultRec) :
    KeepsClock s (hardFault s g kind code owner upd) := by
  unfold hardFault
  dsimp only
  split <;> simp

@[simp] theorem failToken_clock (s : State) (t : Transit) (el kind code : Nat) : KeepsClock s (failToken s t el kind code) := by
  unfold failToken rejectToken
  split
  · exact ⟨rfl, rfl⟩
  · dsimp only
    split <;> simp

/-! ### Casts -/

theorem enqueueAt_clock {s u : State} {c el : Nat} {e : Ready} {b : Bool} (h : enqueueAt s c el e b = some u) : KeepsClock s u := by
  unfold enqueueAt at h
  split at h
  · cases h; exact ⟨rfl, rfl⟩
  · obtain ⟨x, -, rfl⟩ := Option.map_eq_some_iff.mp h
    exact ⟨rfl, rfl⟩

@[simp] theorem enqueueHeld_clock (s : State) (c el : Nat) (e : Ready) : KeepsClock s (enqueueHeld s c el e) := by
  unfold enqueueHeld
  cases h : enqueueAt s c el e true with
  | some u => exact enqueueAt_clock h
  | none => exact ⟨rfl, rfl⟩

@[simp] theorem fireSlots_clock (c ft : Nat) (f : Frame) (l : List (Nat × Nat)) (s : State) : KeepsClock s (fireSlots s c ft f l) := by
  induction l generalizing s with
  | nil => exact ⟨rfl, rfl⟩
  | cons n l ih =>
    unfold fireSlots
    refine .trans ?_ (ih _)
    dsimp only
    split
    · refine foldl_clock (fun s p => ?_) _ s
      split
      · split <;> simp
      · exact ⟨rfl, rfl⟩
    · split <;> simp

@[simp] theorem injectCast_clock (s : State) (c b ft : Nat) (f : Frame) (nodes : List (Nat × Nat)) :
    KeepsClock s (injectCast s c b ft f nodes) := by
  unfold injectCast injectSources
  split
  · exact foldl_clock (fun s _ => enqueueHeld_clock s _ _ _) _ s
  · simp

@[simp] theorem beginCast_clock (s : State) (c b ft block : Nat) : KeepsClock s (beginCast s c b ft block) := by
  unfold beginCast startCast
  split
  · exact ⟨rfl, rfl⟩
  · split
    · exact ⟨rfl, rfl⟩
    · dsimp only
      split <;> simp

@[simp] theorem writeSlot_clock (s : State) (c b ft i : Nat) (t : Transit) : KeepsClock s (writeSlot s c b ft i t) := by
  unfold writeSlot
  dsimp only
  split
  · split <;> simp
  · simp

theorem clock_of_some {s v u : State} (h : KeepsClock s v) (hu : some v = some u) : KeepsClock s u := Option.some.inj hu ▸ h

theorem matchToken_clock {s u : State} {t : Transit} {el : Nat} {f : Frame} (h : matchToken s t el f = some u) : KeepsClock s u := by
  unfold matchToken at h
  extract_lets c b ft cx node port slot atBay blk merge s1 s2 done arr e at h
  have h1 : KeepsClock s s1 := by
    unfold s1
    split
    · split <;> simp
    · exact ⟨rfl, rfl⟩
  have h2 : KeepsClock s1 s2 := by
    unfold s2
    split <;> simp
  have hbay : KeepsClock s2 (atBay s2) := State.modFrame_clock ..
  have hslot : ∀ i, KeepsClock s2 (writeSlot s2 c b ft i t) := fun i => writeSlot_clock ..
  refine .trans (.trans h1 h2) ?_
  clear_value s2 slot blk
  split at h
  · exact clock_of_some ⟨rfl, rfl⟩ h
  · by_cases hw : (if f.sp then slot.isNone else f.mv) = true
    · exact clock_of_some hbay ((if_pos hw).symm.trans h)
    · replace h := (if_neg hw).symm.trans h
      split at h
      · split at h
        · split at h
          · split at h
            · exact .trans (hslot _) (enqueueAt_clock h)
            · exact clock_of_some (hslot _) h
          · split at h
            · exact clock_of_some hbay h
            · split at h
              · exact enqueueAt_clock h
              · exact clock_of_some ⟨rfl, rfl⟩ h
        · split at h
          · exact clock_of_some (hslot _) h
          · exact clock_of_some hbay h
      · split at h
        · exact clock_of_some ⟨rfl, rfl⟩ h
        · exact clock_of_some (.trans (hslot _) (beginCast_clock ..)) h
        · split at h
          · exact .trans (beginCast_clock ..) (enqueueAt_clock h)
          · exact clock_of_some (beginCast_clock ..) h

@[simp] theorem drainInput_clock (c el n : Nat) (s : State) : KeepsClock s (drainInput c el n s) := by
  induction n generalizing s with
  | zero => exact ⟨rfl, rfl⟩
  | succ n ih =>
    unfold drainInput
    dsimp only
    split
    next u hu =>
      obtain ⟨t, -, ht⟩ := List.exists_of_findSome?_eq_some hu
      refine .trans ?_ (ih u)
      split at ht
      · cases ht; simp
      · exact .trans (by simp) (matchToken_clock ht)
    · exact ⟨rfl, rfl⟩

/-! ### Time -/

theorem refillAll_clock (s : State) : KeepsClock s (refillAll s) := by
  refine foldl_clock (fun s e => ?_) _ s
  unfold refillElem
  simp

theorem renewPasses_clock (s : State) : KeepsClock s (renewPasses s) := by
  refine foldl_clock (fun s c => foldl_clock (fun s p => ?_) _ s) _ s
  unfold joinPasses dropPass setPass
  exact .trans (foldl_clock (fun s _ => by simp) _ s) (foldl_clock (fun s _ => by simp) _ _)

end Sys2Proof.Machine
end

section
/-! PROOF. The step (R133, R446, R454). -/

namespace Sys2Proof.Machine

/-! ### Time (R331, R446) -/

/-- Time that passes leaves the sideband, and the clock does not run backward. -/
theorem passTime_sideband (s : State) (dt : Nat) : (passTime s dt).sideband = s.sideband := by
  unfold passTime
  dsimp only
  split
  · rfl
  · exact (renewPasses_clock _).2.trans (refillAll_clock _).2

theorem passTime_cycles_le (s : State) (dt : Nat) : s.cycles ≤ (passTime s dt).cycles := by
  unfold passTime
  dsimp only
  split
  · exact Nat.le_refl _
  · rw [(renewPasses_clock _).1, (refillAll_clock _).1]
    exact Nat.le_add_right _ _

/-! ### Moves -/

/-- The outcome of a move: a step word's instruction, a record that an element issues or that acts again, or the Plate's work.
A word that decodes to nothing is refused, and a record that decodes to nothing does nothing (R133). -/
def MoveRuns (o : Host.Outcome State Fault Refusal) (p : Pick) (u : State) : Prop :=
  (∀ w, p = .event w →
    (∀ i, decodeStep w = .ok i → o = exec i u) ∧ (∀ err, decodeStep w = .error err → o = .refused .undecodable)) ∧
  (∀ c el, p = .issue c el →
    (∀ w v, issueAt u c.toNat el.toNat = some (w, v) →
      (∀ i, decodeRecord w = .ok i → o = exec i v) ∧ (∀ err, decodeRecord w = .error err → o = .next v)) ∧
    (issueAt u c.toNat el.toNat = none → o = .next u)) ∧
  (∀ q, p = .fire q →
    (∀ i, decodeRecord q.word = .ok i → o = exec i (refire u q)) ∧
    (∀ err, decodeRecord q.word = .error err → o = .next (refire u q))) ∧
  (∀ q, p = .plate q → o = .next (plateGo u q))

theorem runRecord_ok {w : BitVec 96} {i : Instr} (h : decodeRecord w = .ok i) (s : State) : runRecord w s = exec i s := by
  simp only [runRecord, h]

theorem runRecord_error {w : BitVec 96} {err : DecodeError} (h : decodeRecord w = .error err) (s : State) : runRecord w s = .next s := by
  simp only [runRecord, h]

theorem runPick_event {w : BitVec 104} {i : Instr} (h : decodeStep w = .ok i) (u : State) : runPick (.event w) u = exec i u := by
  simp only [runPick, h]

theorem runPick_eventOf {i : Instr} (h : i.wellFormed = true) (u : State) : runPick (eventOf i) u = exec i u :=
  runPick_event (decodeStep_encode h) u

theorem moveRuns_runPick (p : Pick) (u : State) : MoveRuns (runPick p u) p u := by
  refine ⟨?_, ?_, ?_, ?_⟩
  · rintro w rfl
    exact ⟨fun i h => runPick_event h u, fun err h => by simp only [runPick, h]⟩
  · rintro c el rfl
    refine ⟨fun w v h => ?_, fun h => by simp only [runPick, h]⟩
    have hrun : runPick (.issue c el) u = runRecord w v := by simp only [runPick, h]
    exact ⟨fun i hi => hrun.trans (runRecord_ok hi v), fun err he => hrun.trans (runRecord_error he v)⟩
  · rintro q rfl
    exact ⟨fun i hi => runRecord_ok hi _, fun err he => runRecord_error he _⟩
  · rintro q rfl
    rfl

/-! ### Which move a step makes -/

theorem step_agenda {s : State} {p : Pick} {rest : List Pick} (h : s.agenda = p :: rest) :
    step s = runPick p { s with agenda := rest } := by
  simp only [step, h]

section
variable {s : State} (ha : s.agenda = [])
include ha

theorem step_due {p : Pick} (h : dueMove s = some p) : step s = runPick p s := by
  simp only [step, ha, h]

theorem step_later (h : dueMove s = none) {p : Pick} (hp : dueMove (passTime s (stepCycles s)) = some p) :
    step s = runPick p (passTime s (stepCycles s)) := by
  simp only [step, ha, h, hp]

theorem step_free (h : dueMove s = none) (hp : dueMove (passTime s (stepCycles s)) = none) :
    step s = freeStep (passTime s (stepCycles s)) := by
  simp only [step, ha, h, hp]
end

theorem freeStep_some {t : State} {p : Pick} (h : choose t (candidates t) = some p) :
    freeStep t = runPick p (noteWaits t (candidates t) (choose t (candidates t))) := by
  simp only [freeStep, h]

theorem freeStep_none {t : State} (h : choose t (candidates t) = none) :
    freeStep t = .next (noteWaits t (candidates t) (choose t (candidates t))) := by
  simp only [freeStep, h]

/-! ### Bring-up (R454) -/

section
variable {s : State} (hb : s.sideband.phase ≠ 7#4)
include hb

theorem dueMove_bringUp (h0 : s.sideband.phase ≠ 0#4) (h : readyBy ≤ s.cycles) : dueMove s = some (eventOf .powerGood) := by
  simp [dueMove, hb, h0, h]

theorem dueMove_bringUp_none (h : s.sideband.phase = 0#4 ∨ s.cycles < readyBy) : dueMove s = none := by
  rcases h with h | h
  · simp [dueMove, h]
  · simp [dueMove, hb, Nat.not_le.mpr h]

theorem candidates_bringUp : candidates s = [eventOf .powerGood] := by
  simp [candidates, hb]

theorem freeStep_bringUp : freeStep s = exec .powerGood { s with waited := [] } := by
  have hc : choose s (candidates s) = some (eventOf .powerGood) := by rw [candidates_bringUp hb]; rfl
  have hw : noteWaits s (candidates s) (choose s (candidates s)) = { s with waited := [] } := by
    rw [hc, candidates_bringUp hb]
    simp [noteWaits]
  rw [freeStep_some hc, hw]
  exact runPick_eventOf rfl _
end

theorem step_bringUp {s : State} (ha : s.agenda = []) (hb : s.sideband.phase ≠ 7#4)
    (h : s.sideband.phase = 0#4 ∨ (passTime s (stepCycles s)).cycles < readyBy) :
    step s = exec .powerGood { passTime s (stepCycles s) with waited := [] } := by
  have hside := passTime_sideband s (stepCycles s)
  have hbt : (passTime s (stepCycles s)).sideband.phase ≠ 7#4 := by rwa [hside]
  have hs : dueMove s = none := dueMove_bringUp_none hb (h.imp_right (Nat.lt_of_le_of_lt (passTime_cycles_le s _)))
  have ht : dueMove (passTime s (stepCycles s)) = none := dueMove_bringUp_none hbt (by rwa [hside])
  rw [step_free ha hs ht, freeStep_bringUp hbt]

theorem step_bringUp_due {s : State} (ha : s.agenda = []) (hb : s.sideband.phase ≠ 7#4) (h0 : s.sideband.phase ≠ 0#4)
    (h : readyBy ≤ s.cycles) : step s = exec .powerGood s :=
  (step_due ha (dueMove_bringUp hb h0 h)).trans (runPick_eventOf rfl s)

/-- The step word placed for a fetch is the next to run. -/
theorem step_withFetchWord {s : State} {i : Instr} (hw : i.wellFormed = true) :
    step (s.withFetchWord 104 (encode i).toNat) = exec i s := by
  have hword : BitVec.ofNat 104 ((encode i).toNat % 2 ^ 104) = encode i := by
    rw [Nat.mod_eq_of_lt (encode i).isLt, BitVec.ofNat_toNat, BitVec.setWidth_eq]
  have hs : ({ s.withFetchWord 104 (encode i).toNat with agenda := s.agenda } : State) = s := rfl
  rw [step_agenda (p := eventOf i) (rest := s.agenda) (by rw [State.withFetchWord, hword]; rfl), hs]
  exact runPick_eventOf hw s

/-- Settles O55: which move a step makes is `step_agenda`, `step_due`, `step_later` and `step_free`, what the move does is
`moveRuns_runPick`, and bring-up is `step_bringUp`, since time that passes leaves the sideband. -/
theorem stepRunsTheDecodedInstruction : Obligations.StepRunsTheDecodedInstruction := by
  unfold Obligations.StepRunsTheDecodedInstruction
  intro s t m v runs
  have hruns : ∀ {p u}, step s = runPick p u → runs p u := fun {p u} h => by
    have := moveRuns_runPick p u
    rw [← h] at this
    exact this
  refine ⟨fun p rest h => hruns (step_agenda h), fun ha => ⟨fun p hp => hruns (step_due ha hp), fun hn => ⟨fun p hp =>
    hruns (step_later ha hn hp), fun hnt => ⟨fun hm => ?_, fun p hm => hruns ?_⟩⟩, fun hb => ⟨fun h => step_bringUp ha hb h,
    fun h0 h => step_bringUp_due ha hb h0 h⟩⟩, fun i hw _ => step_withFetchWord hw⟩
  · exact (step_free ha hn hnt).trans (freeStep_none hm)
  · exact (step_free ha hn hnt).trans (freeStep_some hm)

end Sys2Proof.Machine
end

section
/-! PROOF. The special results of the float functions (R149). -/

namespace Sys2Proof.Machine

/-! ### Decoded values by their kind -/

theorem FV.isZero_iff {v : FV} : v.isZero = true ↔ ∃ n e, v = .fin n 0 e := by
  cases v <;> simp [FV.isZero]

theorem FV.finite_iff {v : FV} : v.finite = true ↔ ∃ n m e, v = .fin n m e := by
  cases v <;> simp [FV.finite]

/-- A negative value that is no zero is −∞ or a negative magnitude. -/
theorem FV.neg_nonzero {v : FV} (hn : v.isNeg = true) (hz : ¬ v.isZero = true) :
    v = .inf true ∨ ∃ m e, m ≠ 0 ∧ v = .fin true m e := by
  cases v with
  | nan => cases hn
  | inf n => exact .inl (congrArg _ hn)
  | fin n m e => exact .inr ⟨m, e, fun h => hz (by simp [FV.isZero, h]), congrArg (fun b => FV.fin b m e) hn⟩

/-! ### Division (R149) -/

section
variable {f : Fmt} {k : Rounder} {a b : Nat}

theorem fDiv_nan (h : f.decode a = .nan ∨ f.decode b = .nan) : fDiv f k a b = ⟨f.nan, 0, false⟩ := by
  rcases h with h | h
  · simp [fDiv, h]
  · cases ha : f.decode a <;> simp [fDiv, h, ha]

theorem fDiv_inf_inf {p q : Bool} (ha : f.decode a = .inf p) (hb : f.decode b = .inf q) :
    fDiv f k a b = ⟨f.nan, fIV, false⟩ := by simp [fDiv, ha, hb]

theorem fDiv_fin_inf {x y : Bool} {m : Nat} {e : Int} (ha : f.decode a = .fin x m e) (hb : f.decode b = .inf y) :
    fDiv f k a b = ⟨f.pack (x != y) 0 f.qmin, 0, false⟩ := by simp [fDiv, ha, hb]

/-- A finite dividend over a zero: ∞ with FDZ, or NaN with FIV for a zero over a zero. -/
theorem fDiv_zero {x y : Bool} {m : Nat} {e g : Int} (ha : f.decode a = .fin x m e) (hb : f.decode b = .fin y 0 g) :
    fDiv f k a b = if m = 0 then ⟨f.nan, fIV, false⟩ else ⟨f.inf (x != y), fDZ, false⟩ := by simp [fDiv, ha, hb]

end

/-- The dividend of a reciprocal is 1. -/
theorem decode_one {f : Fmt} (hf : f ∈ [f32, f16, bf16]) :
    f.decode (f.pack false (2 ^ (f.p - 1)) (1 - (f.p : Int))) = .fin false (2 ^ (f.p - 1)) (1 - (f.p : Int)) := by
  simp only [List.mem_cons, List.not_mem_nil, or_false] at hf
  rcases hf with rfl | rfl | rfl <;> decide

/-! ### Functions of one operand (R149) -/

section
variable {f : Fmt} {k : Rounder} {a : Nat}

theorem unary_nan (h : f.decode a = .nan) : fSqrt f k a = ⟨f.nan, 0, false⟩ ∧ fRcp f k a = ⟨f.nan, 0, false⟩ ∧
    fRsq f k a = ⟨f.nan, 0, false⟩ ∧ fExp2 f k a = ⟨f.nan, 0, false⟩ ∧ fLog2 f k a = ⟨f.nan, 0, false⟩ :=
  ⟨by simp [fSqrt, h], fDiv_nan (.inr h), by simp [fRsq, h], by simp [fExp2, h], by simp [fLog2, h]⟩

theorem unary_zero (hf : f ∈ [f32, f16, bf16]) {n : Bool} {e : Int} (h : f.decode a = .fin n 0 e) :
    fSqrt f k a = ⟨f.pack n 0 f.qmin, 0, false⟩ ∧ fRcp f k a = ⟨f.inf n, fDZ, false⟩ ∧
    fRsq f k a = ⟨f.inf n, fDZ, false⟩ ∧ fLog2 f k a = ⟨f.inf true, fDZ, false⟩ := by
  refine ⟨by simp [fSqrt, h], ?_, by simp [fRsq, h], by simp [fLog2, h]⟩
  rw [fRcp, fDiv_zero (decode_one hf) h, if_neg (by positivity), Bool.false_bne]

theorem unary_negative (hn : (f.decode a).isNeg = true) (hz : ¬ (f.decode a).isZero = true) :
    fSqrt f k a = ⟨f.nan, fIV, false⟩ ∧ fRsq f k a = ⟨f.nan, fIV, false⟩ ∧ fLog2 f k a = ⟨f.nan, fIV, false⟩ := by
  rcases FV.neg_nonzero hn hz with h | ⟨m, e, hm, h⟩
  · simp [fSqrt, fRsq, fLog2, h]
  · simp [fSqrt, fRsq, fLog2, h, hm]

theorem unary_posInf (h : f.decode a = .inf false) : fSqrt f k a = ⟨f.inf false, 0, false⟩ ∧
    fRsq f k a = ⟨f.pack false 0 f.qmin, 0, false⟩ ∧ fExp2 f k a = ⟨f.inf false, 0, false⟩ ∧
    fLog2 f k a = ⟨f.inf false, 0, false⟩ := by
  simp [fSqrt, fRsq, fExp2, fLog2, h]

theorem fRcp_inf (hf : f ∈ [f32, f16, bf16]) {p : Bool} (h : f.decode a = .inf p) :
    fRcp f k a = ⟨f.pack p 0 f.qmin, 0, false⟩ := by
  rw [fRcp, fDiv_fin_inf (decode_one hf) h, Bool.false_bne]

end

/-- Settles O24, function by function, by the kind of the operand's value. -/
theorem floatSpecialResults : Obligations.FloatSpecialResults := by
  unfold Obligations.FloatSpecialResults
  intro k f hf zero res isZero finite neg
  refine ⟨fun a b h => fDiv_nan h, fun a b ha hna hb => ?_, fun a b ha hb => ?_, fun p q a b => fDiv_inf_inf,
    fun a => unary_nan, fun a ha => ?_, fun a => unary_negative, fun a => unary_posInf, fun p a => fRcp_inf hf,
    fun a h => by simp only [res, zero, fExp2, h]⟩
  · obtain ⟨x, m, e, ha⟩ := FV.finite_iff.mp ha
    obtain ⟨y, g, hb⟩ := FV.isZero_iff.mp hb
    have hm : m ≠ 0 := fun h => hna (by simp only [isZero, ha, FV.isZero, h, beq_self_eq_true])
    simp only [fDiv_zero ha hb, if_neg hm, res, neg, ha, hb, FV.isNeg]
  · obtain ⟨x, e, ha⟩ := FV.isZero_iff.mp ha
    obtain ⟨y, g, hb⟩ := FV.isZero_iff.mp hb
    simp only [fDiv_zero ha hb, if_pos, res]
  · obtain ⟨n, e, h⟩ := FV.isZero_iff.mp ha
    simpa only [zero, res, neg, h, FV.isNeg] using unary_zero hf h

end Sys2Proof.Machine
end

section
/-! PROOF. Which neighbour a rounding chooses, and the draw of stochastic rounding (R143, R144). -/

namespace Sys2Proof.Machine

/-! ### The choice between two neighbours (R143) -/

/-- Whether a mode chooses the upper neighbour of `t` when `rest` of `p` is discarded, nothing beyond it being lost. -/
def roundsUp (mode draw : Nat) (neg : Bool) (t rest p : Nat) : Bool :=
  match mode with
  | 0 => decide (p < 2 * rest) || (2 * rest == p && t % 2 == 1)
  | 1 => false
  | 2 => !neg
  | 3 => neg
  | 4 => t % 2 == 0
  | _ => decide (2 ^ 32 ≤ rest * 2 ^ 32 / p + draw)

section
variable {mode draw m : Nat} {neg : Bool} {e : Int}

/-- A unit at or below the magnitude's own keeps it. -/
theorem roundAt_below {st : Bool} {q : Int} (h : q ≤ e) :
    roundAt mode draw neg m e st q = (m * 2 ^ (e - q).toNat, st, false) := if_pos h

/-- Above it the unit discards the low bits of the magnitude. -/
theorem roundAt_above {q : Int} (h : e < q) :
    let p := 2 ^ (q - e).toNat
    roundAt mode draw neg m e false q = if m % p = 0 then (m / p, false, false)
      else (if roundsUp mode draw neg (m / p) (m % p) p then m / p + 1 else m / p, true,
        roundsUp mode draw neg (m / p) (m % p) p && mode != 4) := by
  intro p
  rw [roundAt, if_neg (by omega)]
  simp only [Bool.or_false, Bool.false_or]
  by_cases hr : m % p = 0
  · rw [if_pos (show (!(m % p != 0)) = true by simp [hr]), if_pos hr]
  · rw [if_neg (show ¬ (!(m % p != 0)) = true by simp [hr]), if_neg hr]
    rfl

end

/-- What `roundsUp` chooses, mode by mode. -/
theorem roundsUp_spec (mode draw : Nat) (neg : Bool) (t rest p : Nat) :
    let u := if roundsUp mode draw neg t rest p then t + 1 else t
    (u = t ∨ u = t + 1) ∧
    (mode = 0 → (2 * rest < p → u = t) ∧ (p < 2 * rest → u = t + 1) ∧ (2 * rest = p → u % 2 = 0)) ∧
    (mode = 1 → u = t) ∧
    (mode = 2 → u = if neg then t else t + 1) ∧
    (mode = 3 → u = if neg then t + 1 else t) ∧
    (mode = 4 → u % 2 = 1) ∧
    (mode = 5 → u = if 2 ^ 32 ≤ rest * 2 ^ 32 / p + draw then t + 1 else t) := by
  intro u
  refine ⟨by simp only [u]; split <;> simp, ?_, ?_, ?_, ?_, ?_, ?_⟩ <;> rintro rfl
  · have hu : u = if p < 2 * rest ∨ 2 * rest = p ∧ t % 2 = 1 then t + 1 else t := by simp [u, roundsUp]
    rw [hu]
    refine ⟨fun h => if_neg (by omega), fun h => if_pos (.inl h), fun h => ?_⟩
    split <;> omega
  · rfl
  · cases neg <;> rfl
  · rfl
  · have hu : u = if t % 2 = 0 then t + 1 else t := by simp [u, roundsUp]
    rw [hu]
    split <;> omega
  · simp only [u, roundsUp, decide_eq_true_eq]

/-! ### The draw of stochastic rounding (R144) -/

/-- mix (R144) on 64-bit words. -/
def mix64 (z : BitVec 64) : BitVec 64 :=
  let z := (z ^^^ (z >>> 30)) * 0xBF58476D1CE4E5B9#64
  let z := (z ^^^ (z >>> 27)) * 0x94D049BB133111EB#64
  z ^^^ (z >>> 31)

theorem xorShiftMul_toNat (z : BitVec 64) (c k : Nat) :
    (z.toNat ^^^ z.toNat / 2 ^ k) * c % 2 ^ 64 = ((z ^^^ z >>> k) * BitVec.ofNat 64 c).toNat := by
  rw [BitVec.toNat_mul, BitVec.toNat_xor, BitVec.toNat_ushiftRight, BitVec.toNat_ofNat, Nat.shiftRight_eq_div_pow, Nat.mul_mod_mod]

theorem srMix_toNat (z : BitVec 64) : srMix z.toNat = (mix64 z).toNat := by
  rw [mix64, srMix]
  simp only [Nat.mod_eq_of_lt z.isLt, xorShiftMul_toNat, BitVec.toNat_xor, BitVec.toNat_ushiftRight, Nat.shiftRight_eq_div_pow]

/-- The counter of a lane of an element (R144). -/
def drawCounter (it : BitVec 16) (course : BitVec 4) (unit : BitVec 13) (node : BitVec 6) (lane : Nat) (str : BitVec 11) :
    BitVec 64 :=
  it ++ course ++ unit.extractLsb' 6 6 ++ unit.extractLsb' 0 6 ++ node ++ BitVec.ofNat 7 lane ++ str ++ 0#8

/-- Its fields, each at its place. -/
theorem drawCounter_toNat (it : BitVec 16) (course : BitVec 4) {unit : BitVec 13} (node : BitVec 6) {lane : Nat} (str : BitVec 11)
    (hu : unit.toNat < 0x1000) (hl : lane < 128) : (drawCounter it course unit node lane str).toNat =
      it.toNat * 2 ^ 48 ||| course.toNat * 2 ^ 44 ||| unit.toNat / 64 * 2 ^ 38 ||| unit.toNat % 64 * 2 ^ 32 |||
        node.toNat * 2 ^ 26 ||| lane * 2 ^ 19 ||| str.toNat * 2 ^ 8 := by
  have hy : (unit.toNat >>> 6) % 2 ^ 6 = unit.toNat / 64 := by rw [Nat.shiftRight_eq_div_pow]; omega
  simp only [drawCounter, BitVec.toNat_append, BitVec.extractLsb'_toNat, hy, BitVec.toNat_ofNat, Nat.mod_eq_of_lt hl,
    Nat.shiftRight_zero, Nat.shiftLeft_or_distrib, ← Nat.shiftLeft_add, ← Nat.shiftLeft_eq]
  simp only [Nat.reduceAdd, Nat.reducePow, Nat.zero_mod, Nat.or_zero]

theorem srDraw_eq (seed : BitVec 64) (it : BitVec 16) (course : BitVec 4) {unit : BitVec 13} (node : BitVec 6) {lane : Nat}
    (str : BitVec 11) (hu : unit.toNat < 0x1000) (hl : lane < 128) :
    srDraw seed.toNat it.toNat course.toNat (unit.toNat / 64) (unit.toNat % 64) node.toNat lane str.toNat =
      (mix64 (drawCounter it course unit node lane str ^^^ mix64 seed) >>> 32).toNat := by
  rw [srDraw, ← drawCounter_toNat it course node str hu hl, Nat.mod_eq_of_lt (BitVec.isLt _), srMix_toNat, ← BitVec.toNat_xor,
    srMix_toNat, BitVec.toNat_ushiftRight, Nat.shiftRight_eq_div_pow]

/-- Under mode 5 a rounder carries the draw of its lane. -/
theorem rounderAt_sr (s : State) (g : Firing) (sat : Bool) (lane : Nat) : (rounderAt s g 5 sat lane).draw =
    srDraw (s.ctx g.cx.toNat).seed.toNat g.it.toNat g.course.toNat (g.unit.toNat / 64) (g.unit.toNat % 64) g.node.toNat lane
      (s.strandOf g).toNat := by
  simp only [rounderAt, if_true]

/-- Settles O25: `roundAt_above` gives the two neighbours and `roundsUp_spec` the choice; the draw is `srDraw_eq`. -/
theorem roundingChoosesByMode : Obligations.RoundingChoosesByMode := by
  unfold Obligations.RoundingChoosesByMode
  refine ⟨fun mode draw m d neg e => ?_, fun s g sat lane hu hl => ?_⟩
  · have hsh : (e + (d : Int) + 1 - e).toNat = d + 1 := by omega
    rw [roundAt_above (by omega), hsh]
    by_cases h : m % 2 ^ (d + 1) = 0
    · rw [if_pos h]
      exact ⟨fun _ => ⟨rfl, rfl⟩, fun hn => absurd h hn⟩
    · rw [if_neg h]
      exact ⟨fun h0 => absurd h0 h, fun _ => ⟨rfl, roundsUp_spec ..⟩⟩
  · intro mix ctr
    rw [rounderAt_sr, srDraw_eq _ g.it g.course g.node (s.strandOf g) hu hl]
    rfl

end Sys2Proof.Machine
end

section
/-! PROOF. Integer nodes as bit vectors: what they send, and the arithmetic, comparison and saturation of R158, R183, R185
and R187. -/

namespace Sys2Proof.Machine

/-! ### Integers of a type as bit vectors (R135) -/

theorem natMod_eq (x : Int) (w : Nat) : natMod x w = (BitVec.ofInt w x).toNat := (BitVec.toNat_ofInt x).symm

theorem signedVal_eq (w x : Nat) : signedVal w x = (BitVec.ofNat w x).toInt := by
  rw [BitVec.toInt_eq_toNat_cond, BitVec.toNat_ofNat, signedVal]

theorem wrapLane_eq (t : Nat) (x : Int) : wrapLane t x = (BitVec.ofInt (tyWidth t) x).toNat := natMod_eq x _

/-- The value of lane bits, wider bits being ignored. -/
theorem intVal_eq (t x : Nat) : intVal t x = valueIn (tySigned t) (BitVec.ofNat (tyWidth t) x) := by
  rw [intVal, valueIn, signedVal_eq, BitVec.toNat_ofNat]

theorem Opnd.int_eq (o : Opnd) (t : Nat) : o.int t = valueIn (tySigned t) (o.low (tyWidth t)) := by
  rw [Opnd.int, intVal_eq, BitVec.ofNat_toNat, Opnd.low]

/-- An exact result as a control payload is its low bits, extended. -/
theorem wrap64_eq (t : Nat) (x : Int) : BitVec.ofNat 64 (wrap64 t x) = extended t (BitVec.ofInt (tyWidth t) x) := by
  unfold wrap64 extended
  split
  · rw [natMod_eq, signedVal_eq, wrapLane_eq, BitVec.ofNat_toNat, BitVec.ofNat_toNat, BitVec.setWidth_eq, BitVec.setWidth_eq,
      BitVec.signExtend]
  · rw [wrapLane_eq, BitVec.ofNat_toNat]

theorem tyWidth_pos (t : Nat) : 0 < tyWidth t := by unfold tyWidth; split <;> decide

section
variable {w : Nat} {sg : Bool}

@[simp] theorem ofInt_valueIn (x : BitVec w) : BitVec.ofInt w (valueIn sg x) = x := by
  cases sg <;> simp [valueIn]

theorem valueIn_inj {x y : BitVec w} : valueIn sg x = valueIn sg y ↔ x = y :=
  ⟨fun h => by rw [← ofInt_valueIn (sg := sg) x, h, ofInt_valueIn], fun h => h ▸ rfl⟩

theorem valueIn_lt {x y : BitVec w} : valueIn sg x < valueIn sg y ↔ lessIn sg x y = true := by
  cases sg <;> simp [valueIn, lessIn, BitVec.slt, BitVec.ult]

theorem valueIn_le {x y : BitVec w} : valueIn sg x ≤ valueIn sg y ↔ lessIn sg y x = false := by
  rw [← Bool.not_eq_true, ← valueIn_lt, not_lt]

theorem valueIn_zero : valueIn sg 0#w = 0 := by cases sg <;> simp [valueIn]

theorem valueIn_eq_zero {x : BitVec w} : valueIn sg x = 0 ↔ x = 0#w := by rw [← valueIn_zero (sg := sg), valueIn_inj]

end

/-- The bounds of a type are those of its bits. -/
theorem tyMin_eq (t : Nat) : tyMin t = if tySigned t then -(2 ^ (tyWidth t - 1) : Int) else 0 := by simp [tyMin]

theorem tyMax_eq (t : Nat) :
    tyMax t = if tySigned t then (2 ^ (tyWidth t - 1) : Int) - 1 else (2 ^ tyWidth t : Int) - 1 := by simp [tyMax]

theorem valueIn_bounds (t : Nat) (x : BitVec (tyWidth t)) :
    tyMin t ≤ valueIn (tySigned t) x ∧ valueIn (tySigned t) x ≤ tyMax t := by
  rw [tyMin_eq, tyMax_eq]
  cases tySigned t
  · have hx : (x.toNat : Int) < 2 ^ tyWidth t := by exact_mod_cast x.isLt
    exact ⟨Int.natCast_nonneg _, Int.le_sub_one_of_lt hx⟩
  · exact ⟨BitVec.le_toInt x, Int.le_sub_one_of_lt BitVec.toInt_lt⟩

theorem tyMin_le_tyMax (t : Nat) : tyMin t ≤ tyMax t := (valueIn_bounds t 0#_).1.trans (valueIn_bounds t 0#_).2

/-- A value that a type holds is the value of its low bits. -/
theorem valueIn_ofInt {t : Nat} {z : Int} (h1 : tyMin t ≤ z) (h2 : z ≤ tyMax t) :
    valueIn (tySigned t) (BitVec.ofInt (tyWidth t) z) = z := by
  rw [tyMin_eq] at h1
  rw [tyMax_eq] at h2
  cases hs : tySigned t <;> rw [hs] at h1 h2
  · have hz : z < 2 ^ tyWidth t := Int.lt_of_le_sub_one h2
    show ((BitVec.ofInt (tyWidth t) z).toNat : Int) = z
    rw [BitVec.toNat_ofInt, Int.toNat_of_nonneg (Int.emod_nonneg _ (by positivity)), Nat.cast_pow, Nat.cast_ofNat,
      Int.emod_eq_of_lt h1 hz]
  · exact BitVec.toInt_ofInt_eq_self (tyWidth_pos t) h1 (Int.lt_of_le_sub_one h2)

/-- Saturation clamps, and sets SAT when that changes the value (R134). -/
theorem satInt_eq (t : Nat) (x : Int) :
    satInt t x = (max (tyMin t) (min (tyMax t) x), if tyMin t ≤ x ∧ x ≤ tyMax t then 0 else fSAT) := by
  have := tyMin_le_tyMax t
  unfold satInt
  split
  · rw [if_neg (by omega), min_eq_right (by omega), max_eq_left (by omega)]
  · split
    · rw [if_neg (by omega), min_eq_left (by omega), max_eq_right this]
    · rw [if_pos (by omega), min_eq_right (by omega), max_eq_right (by omega)]

/-! ### An integer node (R183) -/

section
variable {s : State} {r : NodeRec} {f : Int → Int → Int → Int × Flags} {v : Int × Flags}
  {y : BitVec (tyWidth r.ty.toNat)} {fl : Flags}

/-- An integer node sends the low bits of the exact result, extended. -/
theorem intNode_sends
    (h : f (valueIn (tySigned r.ty.toNat) ((argsCtl s r s.firing).a.low (tyWidth r.ty.toNat)))
        (valueIn (tySigned r.ty.toNat) ((argsCtl s r s.firing).b.low (tyWidth r.ty.toNat)))
        (valueIn (tySigned r.ty.toNat) ((argsCtl s r s.firing).c.low (tyWidth r.ty.toNat))) = v)
    (hy : BitVec.ofInt (tyWidth r.ty.toNat) v.1 = y) (hf : v.2 = fl) :
    intNode s r f = .next (sendsWord s r (extended r.ty.toNat y) fl) := by
  rw [intNode, ctlNode_eq]
  simp only [Opnd.int_eq, wrap64_eq, h, hy, hf]

end

/-! ### Exact results and their low bits (R158, R183) -/

section
variable {w : Nat}

theorem ofInt_sub (x y : Int) : BitVec.ofInt w (x - y) = BitVec.ofInt w x - BitVec.ofInt w y := by
  rw [Int.sub_eq_add_neg, BitVec.ofInt_add, BitVec.ofInt_neg, BitVec.sub_eq_add_neg]

theorem ofInt_pow_two (n : Nat) : BitVec.ofInt w ((2 ^ n : Nat) : Int) = BitVec.twoPow w n := by
  apply BitVec.eq_of_toNat_eq
  rw [BitVec.ofInt_natCast, BitVec.toNat_ofNat, BitVec.toNat_twoPow]

theorem ofInt_pow_width : BitVec.ofInt w ((2 ^ w : Nat) : Int) = 0#w := by
  apply BitVec.eq_of_toNat_eq
  rw [BitVec.ofInt_natCast, BitVec.toNat_ofNat, Nat.mod_self, BitVec.toNat_ofNat, Nat.zero_mod]

/-- The high half of a product's low 2w bits is the quotient by 2^w. -/
theorem extractLsb'_ofInt (x : Int) : (BitVec.ofInt (2 * w) x).extractLsb' w w = BitVec.ofInt w (x / ((2 ^ w : Nat) : Int)) := by
  apply BitVec.eq_of_toNat_eq
  have hx : x / ((2 ^ w : Nat) : Int) =
      x % ((2 ^ (2 * w) : Nat) : Int) / ((2 ^ w : Nat) : Int) + ((2 ^ w : Nat) : Int) * (x / ((2 ^ (2 * w) : Nat) : Int)) := by
    rw [← Int.add_mul_ediv_left _ _ (by positivity), ← mul_assoc, ← Nat.cast_mul, ← pow_add, ← two_mul w, Int.emod_add_mul_ediv]
  rw [BitVec.extractLsb'_toNat, BitVec.toNat_ofInt, BitVec.toNat_ofInt, hx, Int.add_mul_emod_self_left, Nat.shiftRight_eq_div_pow]
  have h0 := Int.emod_nonneg x (b := ((2 ^ (2 * w) : Nat) : Int)) (by positivity)
  lift x % ((2 ^ (2 * w) : Nat) : Int) to Nat using h0 with n
  rfl

theorem setWidth_eq_ofInt (v : Nat) (x : BitVec w) : x.setWidth v = BitVec.ofInt v (x.toNat : Int) := by
  rw [BitVec.ofInt_natCast, BitVec.ofNat_toNat]

/-- MULH: the high half of the product of the extended operands. -/
theorem ofInt_mulh (sg : Bool) (x y : BitVec w) :
    BitVec.ofInt w (valueIn sg x * valueIn sg y / ((2 ^ w : Nat) : Int)) =
      if sg then (x.signExtend (2 * w) * y.signExtend (2 * w)).extractLsb' w w
      else (x.setWidth (2 * w) * y.setWidth (2 * w)).extractLsb' w w := by
  cases sg
  · simp only [setWidth_eq_ofInt, ← BitVec.ofInt_mul, extractLsb'_ofInt]; rfl
  · simp only [BitVec.signExtend, ← BitVec.ofInt_mul, extractLsb'_ofInt]; rfl

theorem ofInt_tdiv (sg : Bool) (x y : BitVec w) :
    BitVec.ofInt w ((valueIn sg x).tdiv (valueIn sg y)) = if sg then x.sdiv y else x / y := by
  cases sg
  · show BitVec.ofInt w ((x.toNat : Int).tdiv (y.toNat : Int)) = x / y
    rw [← Int.ofNat_tdiv, BitVec.ofInt_natCast, BitVec.udiv_def]
  · apply BitVec.eq_of_toInt_eq
    rw [BitVec.toInt_ofInt]
    exact (BitVec.toInt_sdiv x y).symm

theorem ofInt_tmod (sg : Bool) (x y : BitVec w) :
    BitVec.ofInt w ((valueIn sg x).tmod (valueIn sg y)) = if sg then x.srem y else x % y := by
  cases sg
  · show BitVec.ofInt w ((x.toNat : Int).tmod (y.toNat : Int)) = x % y
    rw [← Int.ofNat_tmod, BitVec.ofInt_natCast, ← BitVec.toNat_umod, BitVec.ofNat_toNat, BitVec.setWidth_eq]
  · show BitVec.ofInt w (x.toInt.tmod y.toInt) = x.srem y
    rw [← BitVec.toInt_srem, BitVec.ofInt_toInt]

/-- The absolute value of a type: n types have no sign. -/
theorem ofInt_abs (sg : Bool) (x : BitVec w) :
    BitVec.ofInt w (if valueIn sg x < 0 then -valueIn sg x else valueIn sg x) = if sg && x.msb then -x else x := by
  have hneg : valueIn sg x < 0 ↔ (sg && x.msb) = true := by
    cases sg
    · simp [valueIn]
    · simp [valueIn, BitVec.msb_eq_toInt]
  simp only [hneg, apply_ite (BitVec.ofInt w), BitVec.ofInt_neg, ofInt_valueIn]

end

/-- The least value has no positive counterpart: −1 divides it into itself, modulo 2^w. -/
theorem ofInt_neg_tyMin (t : Nat) : BitVec.ofInt (tyWidth t) (-tyMin t) = BitVec.ofInt (tyWidth t) (tyMin t) := by
  have h2 : tyMin t = -tyMin t ∨ tyMin t + ((2 ^ tyWidth t : Nat) : Int) = -tyMin t := by
    rw [tyMin_eq]
    split
    · right
      have := tyWidth_pos t
      obtain ⟨n, hn⟩ : ∃ n, tyWidth t = n + 1 := ⟨tyWidth t - 1, by omega⟩
      rw [hn, Nat.add_sub_cancel]
      push_cast
      ring
    · exact .inl rfl
  rcases h2 with h | h <;> rw [← h]
  rw [BitVec.ofInt_add, ofInt_pow_width, BitVec.add_zero]

theorem ofInt_allOnes (t : Nat) : BitVec.ofInt (tyWidth t) (if tySigned t then -1 else tyMax t) = BitVec.allOnes (tyWidth t) := by
  rw [← BitVec.neg_one_eq_allOnes]
  cases hs : tySigned t
  · rw [if_neg Bool.false_ne_true, tyMax, hs, if_neg Bool.false_ne_true, ofInt_sub, ofInt_pow_width, BitVec.zero_sub]
    rfl
  · rw [if_pos rfl, BitVec.ofInt_neg]
    rfl

/-- DIV and REM (R158). -/
theorem intDiv_spec (t : Nat) (x y : BitVec (tyWidth t)) :
    let d := intDiv t (valueIn (tySigned t) x) (valueIn (tySigned t) y)
    BitVec.ofInt (tyWidth t) d.1 =
      (if y = 0#_ then BitVec.allOnes (tyWidth t) else if tySigned t then x.sdiv y else x / y) ∧
    BitVec.ofInt (tyWidth t) d.2.1 = (if y = 0#_ then x else if tySigned t then x.srem y else x % y) ∧
    d.2.2 = if y = 0#_ then iDZ else 0 := by
  unfold intDiv
  simp only [valueIn_eq_zero]
  by_cases hy : y = 0#_
  · simp only [hy, if_true, ofInt_allOnes, ofInt_valueIn, and_self]
  · rw [if_neg hy, if_neg hy, if_neg hy, if_neg hy, ← ofInt_tdiv, ← ofInt_tmod]
    split
    · rename_i h
      simp only [Bool.and_eq_true, beq_iff_eq] at h
      rw [h.1.2, h.2]
      simp [ofInt_neg_tyMin]
    · exact ⟨rfl, rfl, rfl⟩

/-! ### Comparison (R185) -/

/-- The order of two values, as their bits compare. -/
theorem relHolds_compare (sg : Bool) (v : Nat) {w : Nat} (x y : BitVec w) :
    relHolds v (compare (valueIn sg x) (valueIn sg y)) = relationIn sg v x y := by
  rcases lt_trichotomy (valueIn sg x) (valueIn sg y) with h | h | h
  · have hne : x ≠ y := fun he => by simp [he] at h
    have h' : lessIn sg y x = false := valueIn_le.mp h.le
    rw [compare_lt_iff_lt.mpr h]
    obtain _ | _ | _ | _ | _ | v := v <;> simp [relHolds, relationIn, bne, hne, valueIn_lt.mp h, h']
  · obtain rfl := valueIn_inj.mp h
    have h' : lessIn sg x x = false := valueIn_le.mp le_rfl
    rw [compare_eq_iff_eq.mpr rfl]
    obtain _ | _ | _ | _ | _ | v := v <;> simp [relHolds, relationIn, h']
  · have hne : x ≠ y := fun he => by simp [he] at h
    have h' : lessIn sg x y = false := valueIn_le.mp h.le
    rw [compare_gt_iff_gt.mpr h]
    obtain _ | _ | _ | _ | _ | v := v <;> simp [relHolds, relationIn, bne, hne, valueIn_lt.mp h, h']

/-- CMP sends 1 where the relation holds. -/
theorem execCmp_sends (r : NodeRec) (s : State) :
    exec (.cmp r) s = .next (sendsWord s r
      (if relationIn (tySigned r.ty.toNat) r.var.toNat ((argsCtl s r s.firing).a.low (tyWidth r.ty.toNat))
        ((argsCtl s r s.firing).b.low (tyWidth r.ty.toNat)) then 1#64 else 0#64) 0) := by
  show Host.Outcome.next (ctlNode s r _) = _
  rw [ctlNode_eq]
  simp only [Opnd.int_eq, relHolds_compare]
  congr 2
  cases relationIn _ _ _ _ <;> rfl

/-- Settles O1: each node sends the low bits of its exact result (`intNode_sends`), which are those of the same operation on
bit vectors. -/
theorem integerArithmeticComputes : Obligations.IntegerArithmeticComputes := by
  unfold Obligations.IntegerArithmeticComputes
  refine ⟨fun r s _ => ?_, fun r s _ => ?_⟩
  · intro t w a x y z
    have hdiv := intDiv_spec t x y
    refine ⟨show execAdd r s = _ from intNode_sends rfl ?_ rfl, show execSub r s = _ from intNode_sends rfl ?_ rfl,
      show execMul r s = _ from intNode_sends rfl ?_ rfl, show execMad r s = _ from intNode_sends rfl ?_ rfl,
      show execNeg r s = _ from intNode_sends rfl ?_ rfl, show execLea r s = _ from intNode_sends rfl ?_ rfl,
      show execMulh r s = _ from intNode_sends rfl (ofInt_mulh _ x y) rfl,
      show execDiv r s = _ from intNode_sends rfl hdiv.1 hdiv.2.2, show execRem r s = _ from intNode_sends rfl hdiv.2.1 hdiv.2.2⟩
    all_goals simp only [BitVec.ofInt_add, ofInt_sub, BitVec.ofInt_mul, BitVec.ofInt_neg, ofInt_valueIn, ofInt_pow_two,
      BitVec.mul_twoPow_eq_shiftLeft]; rfl
  · intro t w sg a x y z less val sum least most m c
    have hm : (if valueIn sg x < valueIn sg y then valueIn sg y else valueIn sg x) = valueIn sg m := by
      simp only [valueIn_lt, m, apply_ite (valueIn sg)]; rfl
    have hc : (if valueIn sg z < valueIn sg m then valueIn sg z else valueIn sg m) = valueIn sg c := by
      simp only [valueIn_lt, c, apply_ite (valueIn sg)]; rfl
    refine ⟨show execAbs r s = _ from intNode_sends rfl (ofInt_abs sg x) rfl, show execMin r s = _ from intNode_sends rfl ?_ rfl,
      show execMax r s = _ from intNode_sends rfl ?_ rfl, fun _ => execCmp_sends r s,
      show execSatadd r s = _ from intNode_sends (satInt_eq t sum) ?_ ?_, show execClamp r s = _ from intNode_sends rfl ?_ ?_⟩
    · simp only [valueIn_lt, apply_ite (BitVec.ofInt _), ofInt_valueIn]; rfl
    · simp only [valueIn_lt, apply_ite (BitVec.ofInt _), ofInt_valueIn]; rfl
    · simp only [tyMin_eq, tyMax_eq]; rfl
    · simp only [tyMin_eq, tyMax_eq]; rfl
    · dsimp only
      rw [hm, hc]
      exact ofInt_valueIn c
    · dsimp only
      rw [hm, hc]
      show flagIf (valueIn sg c != valueIn sg x) fSAT = _
      simp only [flagIf, bne_iff_ne, ne_eq, valueIn_inj, ite_not]

end Sys2Proof.Machine
end

section
/-! PROOF. The lanes of a payload, and the float nodes that work lane by lane (R188, R189, R199). -/

namespace Sys2Proof.Machine

/-! ### Lanes of a payload (R188) -/

theorem laneAt_eq (w : Nat) (x : Payload) (i : Nat) : laneAt w x i = (laneV w x i).toNat := by
  rw [laneAt, laneV, BitVec.extractLsb'_toNat, Nat.shiftRight_eq_div_pow]

theorem lanesNat_lane (w : Nat) (xs : List Nat) (i : Nat) : lanesNat w xs / 2 ^ (i * w) % 2 ^ w = xs.getD i 0 % 2 ^ w := by
  induction xs generalizing i with
  | nil => simp [lanesNat]
  | cons x xs ih =>
    cases i with
    | zero => simp [lanesNat]
    | succ i =>
      have hpos : 0 < 2 ^ w := by positivity
      rw [lanesNat, Nat.succ_mul, Nat.add_comm (i * w), pow_add, ← Nat.div_div_eq_div_mul, Nat.add_mul_div_left _ _ hpos,
        Nat.div_eq_of_lt (Nat.mod_lt _ hpos), Nat.zero_add, ih]
      rfl

/-- The low bits of a number that a wider field keeps. -/
theorem mod_pow_div_mod_pow (x : Nat) {n a w : Nat} (h : a + w ≤ n) : x % 2 ^ n / 2 ^ a % 2 ^ w = x / 2 ^ a % 2 ^ w := by
  obtain ⟨b, rfl⟩ := Nat.exists_eq_add_of_le (Nat.le_trans (Nat.le_add_right a w) h)
  rw [pow_add, Nat.mod_mul_right_div_self, Nat.mod_mod_of_dvd _ (Nat.pow_dvd_pow 2 (by omega))]

/-- A payload made of lanes has them. -/
theorem laneV_ofLanes {w : Nat} (xs : List Nat) {i : Nat} (hi : i < 512 / w) :
    laneV w (ofLanes w xs) i = BitVec.ofNat w (xs.getD i 0) := by
  have hw : i * w + w ≤ 512 := by
    rw [← Nat.succ_mul]
    exact Nat.le_trans (Nat.mul_le_mul_right w hi) (Nat.div_mul_le_self 512 w)
  apply BitVec.eq_of_toNat_eq
  rw [laneV, BitVec.extractLsb'_toNat, Nat.shiftRight_eq_div_pow, ofLanes, BitVec.toNat_ofNat, mod_pow_div_mod_pow (n := 512) _ hw,
    lanesNat_lane, BitVec.toNat_ofNat]

theorem sendsLanes_of_ofLanes {o : Host.Outcome State Fault Refusal} {s : State} {r : NodeRec} {w : Nat} {xs : List Nat}
    {f : Nat → BitVec w} {fl : Flags} (ho : o = .next (sendsData s r (ofLanes w xs) false fl))
    (hf : ∀ i, i < 512 / w → BitVec.ofNat w (xs.getD i 0) = f i) : sendsLanes o s r w f fl :=
  ⟨_, fun i hi => (laneV_ofLanes xs hi).trans (hf i hi), ho⟩

theorem orFlags_map_range (n : Nat) (f : Nat → Flags) : orFlags ((List.range n).map f) = lanesFlags n f := by
  rw [orFlags, lanesFlags, List.foldl_map]

theorem lanesFlags_zero (n : Nat) : lanesFlags n (fun _ => 0) = 0 := by
  rw [lanesFlags]
  induction List.range n with
  | nil => rfl
  | cons x xs ih => rw [List.foldl_cons]; exact ih

/-! ### Float nodes, lane by lane (R199) -/

section
variable {s : State} {r : NodeRec} {mode : Nat}

/-- The lanes of a float node are those of its function, with the flags of all lanes. -/
theorem vecFloat_sends (f : Rounder → Nat → Nat → Nat → Rounded) :
    sendsRounded (vecFloat s r mode f) s r (tyWidth r.ty.toNat) fun i =>
      f (rounderAt s s.firing mode true i) (laneV (tyWidth r.ty.toNat) (argsData s r s.firing).a.val i).toNat
        (laneV (tyWidth r.ty.toNat) (argsData s r s.firing).b.val i).toNat
        (laneV (tyWidth r.ty.toNat) (argsData s r s.firing).c.val i).toNat := by
  refine sendsLanes_of_ofLanes (xs := (List.range (512 / tyWidth r.ty.toNat)).map fun i => (f (rounderAt s s.firing mode true i)
    (laneAt (tyWidth r.ty.toNat) (argsData s r s.firing).a.val i) (laneAt (tyWidth r.ty.toNat) (argsData s r s.firing).b.val i)
    (laneAt (tyWidth r.ty.toNat) (argsData s r s.firing).c.val i)).code) ?_ fun i hi => ?_
  · rw [vecFloat, dataNode_eq]
    simp only [List.map_map, orFlags_map_range, laneAt_eq, laneBits]
    rfl
  · simp only [List.getD_eq_getElem?_getD, List.getElem?_map, List.getElem?_range hi, Option.map_some, Option.getD_some, laneAt_eq]

/-- A node whose lanes are bare codes sets no flag. -/
theorem vecFloat_sends_bare (f : Nat → Nat → Nat → Nat) :
    sendsLanes (vecFloat s r mode fun _ a b c => bare (f a b c)) s r (tyWidth r.ty.toNat) (fun i =>
      BitVec.ofNat (tyWidth r.ty.toNat) (f (laneV (tyWidth r.ty.toNat) (argsData s r s.firing).a.val i).toNat
        (laneV (tyWidth r.ty.toNat) (argsData s r s.firing).b.val i).toNat
        (laneV (tyWidth r.ty.toNat) (argsData s r s.firing).c.val i).toNat)) 0 := by
  have h := vecFloat_sends (s := s) (r := r) (mode := mode) fun _ a b c => bare (f a b c)
  rwa [sendsRounded, show (fun i => (_ : Rounded).flags) = fun _ => (0 : Flags) from rfl, lanesFlags_zero] at h

end

/-- Settles O22: each node is `vecFloat` of its function, which `vecFloat_sends` says lane by lane. -/
theorem vectorFloatsRoundOnce : Obligations.VectorFloatsRoundOnce := by
  unfold Obligations.VectorFloatsRoundOnce
  intro r s _ _ f w a x y z m k near once
  exact ⟨show sendsRounded (execVfadd r s) .. from vecFloat_sends _, show sendsRounded (execVfsub r s) .. from vecFloat_sends _,
    show sendsRounded (execVfmul r s) .. from vecFloat_sends _, show sendsRounded (execVfma r s) .. from vecFloat_sends _,
    show sendsRounded (execVfdiv r s) .. from vecFloat_sends _, show sendsRounded (execVfsqrt r s) .. from vecFloat_sends _,
    show sendsRounded (execVfrcp r s) .. from vecFloat_sends _, show sendsRounded (execVfrsq r s) .. from vecFloat_sends _,
    show sendsRounded (execVfexp2 r s) .. from vecFloat_sends _, show sendsRounded (execVflog2 r s) .. from vecFloat_sends _,
    show sendsLanes (execVrnd r s) .. from vecFloat_sends_bare _⟩

end Sys2Proof.Machine
end

section
/-! PROOF. Codes and the values that they decode to (R136 to R140), one rounding into a format (R137, R143), and
conversions (R146, R147). -/

namespace Sys2Proof.Machine

/-! ### Bits of a magnitude -/

theorem bitLen_bounds {m : Nat} (h : m ≠ 0) : 1 ≤ bitLen m ∧ 2 ^ (bitLen m - 1) ≤ m ∧ m < 2 ^ bitLen m := by
  rw [bitLen, if_neg h]
  exact ⟨Nat.le_add_left .., Nat.log2_self_le h, Nat.lt_log2_self⟩

/-! ### The two neighbours and their order (R143) -/

section
variable {mode draw m : Nat} {neg : Bool} {e q : Int}

theorem roundAt_neighbours (h : e < q) : (roundAt mode draw neg m e false q).1 = m / 2 ^ (q - e).toNat ∨
    (roundAt mode draw neg m e false q).1 = m / 2 ^ (q - e).toNat + 1 := by
  rw [roundAt_above h]
  split
  · exact .inl rfl
  · exact (roundsUp_spec mode draw neg _ _ _).1

/-- A rounding does not pass a multiple of its unit that the magnitude lies below … -/
theorem roundAt_le {b : Nat} (h : m * 2 ^ (e - q).toNat < b * 2 ^ (q - e).toNat) : (roundAt mode draw neg m e false q).1 ≤ b := by
  by_cases hq : q ≤ e
  · rw [roundAt_below hq]
    rw [Int.toNat_of_nonpos (Int.sub_nonpos_of_le hq), pow_zero, Nat.mul_one] at h
    exact h.le
  · rw [Int.toNat_of_nonpos (by omega : e - q ≤ 0), pow_zero, Nat.mul_one] at h
    have := Nat.div_lt_of_lt_mul (Nat.mul_comm b _ ▸ h)
    rcases roundAt_neighbours (mode := mode) (draw := draw) (m := m) (neg := neg) (by omega : e < q) with hu | hu <;> omega

/-- … nor one that it has reached. -/
theorem le_roundAt {b : Nat} (h : b * 2 ^ (q - e).toNat ≤ m * 2 ^ (e - q).toNat) : b ≤ (roundAt mode draw neg m e false q).1 := by
  by_cases hq : q ≤ e
  · rw [roundAt_below hq]
    rwa [Int.toNat_of_nonpos (Int.sub_nonpos_of_le hq), pow_zero, Nat.mul_one] at h
  · rw [Int.toNat_of_nonpos (by omega : e - q ≤ 0), pow_zero, Nat.mul_one] at h
    have := (Nat.le_div_iff_mul_le (by positivity)).mpr h
    rcases roundAt_neighbours (mode := mode) (draw := draw) (m := m) (neg := neg) (by omega : e < q) with hu | hu <;> omega

end

/-! ### Formats (R136 to R140) -/

/-- The largest exponent code of a finite value. -/
def Fmt.lastExp (f : Fmt) : Nat := if f.top = 0 then 2 ^ f.eb - 2 else 2 ^ f.eb - 1

theorem Fmt.maxQ_eq (f : Fmt) : f.maxQ = (f.lastExp : Int) - 1 + f.qmin := rfl

/-- What the codes of a format rest on: its finite values end below the codes of its infinities and NaN. -/
structure Fmt.Sound (f : Fmt) : Prop where
  p_pos : 1 ≤ f.p
  maxM_ge : 2 ^ (f.p - 1) ≤ f.maxM
  maxM_lt : f.maxM < 2 ^ f.p
  lastExp_pos : 1 ≤ f.lastExp
  lastExp_lt : f.lastExp < 2 ^ f.eb
  inf_free : f.top = 0 → f.lastExp < 2 ^ f.eb - 1
  nan_free : f.top = 1 → f.maxM < 2 ^ f.p - 1

theorem tyFmt_sound {t : Nat} (h8 : 8 ≤ t) (h14 : t < 14) : (tyFmt t).Sound := by
  interval_cases t <;> constructor <;> decide

section
variable {f : Fmt}

/-- What a code of given sign, exponent and fraction fields decodes to. -/
theorem Fmt.decode_fields (hp : 1 ≤ f.p) (neg : Bool) {ex fr : Nat} (hex : ex < 2 ^ f.eb) (hfr : fr < 2 ^ (f.p - 1)) :
    f.decode ((if neg then 2 ^ f.signPos else 0) + ex * 2 ^ (f.p - 1) + fr) =
      if f.top = 0 ∧ ex = 2 ^ f.eb - 1 then (if fr = 0 then .inf neg else .nan)
      else if f.top = 1 ∧ ex = 2 ^ f.eb - 1 ∧ fr = 2 ^ (f.p - 1) - 1 then .nan
      else if ex = 0 then .fin neg fr f.qmin
      else .fin neg (2 ^ (f.p - 1) + fr) (f.qmin + (ex : Int) - 1) := by
  have hsign : 2 ^ f.signPos = 2 ^ f.eb * 2 ^ (f.p - 1) := by rw [Fmt.signPos, ← pow_add]; congr 1; omega
  have hcode : (if neg then 2 ^ f.signPos else 0) + ex * 2 ^ (f.p - 1) + fr =
      fr + (ex + (if neg then 1 else 0) * 2 ^ f.eb) * 2 ^ (f.p - 1) := by
    rw [hsign]; split <;> ring
  have hlow := Nat.div_eq_of_lt hfr
  have hpos : 0 < 2 ^ (f.p - 1) := by positivity
  have hdiv : (fr + (ex + (if neg then 1 else 0) * 2 ^ f.eb) * 2 ^ (f.p - 1)) / 2 ^ (f.p - 1) =
      ex + (if neg then 1 else 0) * 2 ^ f.eb := by rw [Nat.add_mul_div_right _ _ hpos, hlow, Nat.zero_add]
  have hneg : ((fr + (ex + (if neg then 1 else 0) * 2 ^ f.eb) * 2 ^ (f.p - 1)) / 2 ^ f.signPos % 2 == 1) = neg := by
    rw [hsign, Nat.mul_comm (2 ^ f.eb), ← Nat.div_div_eq_div_mul, hdiv, Nat.add_mul_div_right _ _ (by positivity), Nat.div_eq_of_lt hex]
    cases neg <;> rfl
  rw [hcode, Fmt.decode]
  simp only [hneg, hdiv, Nat.add_mul_mod_self_right, Nat.mod_eq_of_lt hfr, Nat.mod_eq_of_lt hex]

theorem FV.cmp_self (neg : Bool) (m : Nat) (e : Int) : FV.cmp (.fin neg m e) (.fin neg m e) = some .eq := by
  simp [FV.cmp]

/-- A magnitude twice as large stands one exponent lower. -/
theorem FV.cmp_double (neg : Bool) (m : Nat) (e : Int) : FV.cmp (.fin neg m (e + 1)) (.fin neg (2 * m) e) = some .eq := by
  simp [FV.cmp, Nat.mul_comm]

theorem FV.cmp_zero (a b : Bool) (e g : Int) : FV.cmp (.fin a 0 e) (.fin b 0 g) = some .eq := by
  simp [FV.cmp]

/-- A subnormal code decodes to what was packed. -/
theorem Fmt.decode_pack_subnormal (hs : f.Sound) (neg : Bool) {t : Nat} (ht : t < 2 ^ (f.p - 1)) :
    f.decode (f.pack neg t f.qmin) = .fin (neg && !(f.top == 2 && t == 0)) t f.qmin := by
  have htop : 0 < 2 ^ f.eb - 1 := by have := hs.lastExp_pos; have := hs.lastExp_lt; omega
  have hlt : 2 ^ (f.p - 1) ≤ 2 ^ f.p := Nat.pow_le_pow_right (by decide) (Nat.sub_le ..)
  have hcode : f.pack neg t f.qmin = (if (neg && !(f.top == 2 && t == 0)) then 2 ^ f.signPos else 0) + 0 * 2 ^ (f.p - 1) + t := by
    rw [Fmt.pack, if_neg (by omega)]
    simp only [if_pos ht, Nat.zero_mul, Nat.add_zero]
  rw [hcode, Fmt.decode_fields hs.p_pos _ (by omega) ht, if_neg (by omega), if_neg (by omega), if_pos rfl]

/-- A normal code decodes to what was packed. -/
theorem Fmt.decode_pack_normal (hs : f.Sound) (neg : Bool) {t : Nat} {q : Int} (ht : 2 ^ (f.p - 1) ≤ t) (htp : t < 2 ^ f.p)
    (hq : f.qmin ≤ q) (hqm : q ≤ f.maxQ) (hnan : f.top = 1 → q = f.maxQ → t < 2 ^ f.p - 1) : f.decode (f.pack neg t q) = .fin neg t q := by
  have htwo : 2 ^ f.p = 2 * 2 ^ (f.p - 1) := by rw [← pow_succ']; congr 1; have := hs.p_pos; omega
  have hpos : 0 < 2 ^ (f.p - 1) := by positivity
  have hcode : f.pack neg t q =
      (if neg then 2 ^ f.signPos else 0) + (q - f.qmin + 1).toNat * 2 ^ (f.p - 1) + (t - 2 ^ (f.p - 1)) := by
    rw [Fmt.pack, if_neg (by omega)]
    have ht0 : (t == 0) = false := by simp; omega
    simp only [if_neg (Nat.not_lt.mpr ht), ht0, Bool.and_false, Bool.not_false, Bool.and_true]
  rw [Fmt.maxQ_eq] at hqm hnan
  have hex : (q - f.qmin + 1).toNat ≤ f.lastExp := by omega
  have hlast := hs.lastExp_lt
  have hinf := hs.inf_free
  rw [hcode, Fmt.decode_fields hs.p_pos neg (by omega) (by omega), if_neg (by omega), if_neg (by omega), if_neg (by omega),
    Nat.add_sub_cancel' ht]
  congr 1
  omega

/-- A multiple that needs one bit more is packed with the next exponent. -/
theorem Fmt.pack_carry (hp : 1 ≤ f.p) (neg : Bool) (q : Int) : f.pack neg (2 ^ f.p) q = f.pack neg (2 ^ (f.p - 1)) (q + 1) := by
  have hne : 2 ^ (f.p - 1) ≠ 2 ^ f.p := (Nat.pow_lt_pow_right (by decide) (by omega)).ne
  rw [Fmt.pack, if_pos rfl, Fmt.pack, if_neg hne]

/-- A rounded magnitude is no larger than the largest finite one. -/
def Fmt.fits (f : Fmt) (t : Nat) (q : Int) : Prop := t * 2 ^ (q - f.maxQ).toNat ≤ f.maxM * 2 ^ (f.maxQ - q).toNat

theorem Fmt.fits_of_carry (hs : f.Sound) {q : Int} (h : f.fits (2 ^ f.p) q) : q + 1 ≤ f.maxQ := by
  by_contra hq
  have := hs.maxM_lt
  rw [Fmt.fits, Int.toNat_of_nonpos (by omega : f.maxQ - q ≤ 0), pow_zero, Nat.mul_one] at h
  have := Nat.le_mul_of_pos_right (2 ^ f.p) (by positivity : 0 < 2 ^ (q - f.maxQ).toNat)
  omega

theorem Fmt.fits_of_normal (hs : f.Sound) {t : Nat} {q : Int} (ht : 2 ^ (f.p - 1) ≤ t) (h : f.fits t q) :
    q ≤ f.maxQ ∧ (q = f.maxQ → t ≤ f.maxM) := by
  refine ⟨?_, fun hq => by simpa [Fmt.fits, hq] using h⟩
  by_contra hq
  have htwo : 2 ^ f.p = 2 ^ (f.p - 1) * 2 := by rw [← pow_succ]; congr 1; have := hs.p_pos; omega
  have := hs.maxM_lt
  have hpow : 2 ^ 1 ≤ 2 ^ (q - f.maxQ).toNat := Nat.pow_le_pow_right (by decide) (by omega)
  rw [Fmt.fits, Int.toNat_of_nonpos (by omega : f.maxQ - q ≤ 0), pow_zero, Nat.mul_one] at h
  have := Nat.mul_le_mul ht hpow
  omega

/-- A packed value decodes to an equal one. -/
theorem Fmt.cmp_decode_pack (hs : f.Sound) (neg : Bool) {t : Nat} {q : Int} (hq : f.qmin ≤ q) (htp : t ≤ 2 ^ f.p)
    (hsub : t < 2 ^ (f.p - 1) → q = f.qmin) (hfit : f.fits t q) : FV.cmp (f.decode (f.pack neg t q)) (.fin neg t q) = some .eq := by
  have htwo : 2 ^ f.p = 2 * 2 ^ (f.p - 1) := by rw [← pow_succ']; congr 1; have := hs.p_pos; omega
  have hpos : 0 < 2 ^ (f.p - 1) := by positivity
  have hM := hs.maxM_lt
  have hnan := hs.nan_free
  rcases (by omega : t < 2 ^ (f.p - 1) ∨ (2 ^ (f.p - 1) ≤ t ∧ t < 2 ^ f.p) ∨ t = 2 ^ f.p) with ht | ⟨ht, htlt⟩ | rfl
  · obtain rfl := hsub ht
    rw [Fmt.decode_pack_subnormal hs neg ht]
    by_cases h0 : t = 0
    · subst h0; exact FV.cmp_zero ..
    · simp only [beq_false_of_ne h0, Bool.and_false, Bool.not_false, Bool.and_true, FV.cmp_self]
  · obtain ⟨hqm, htM⟩ := Fmt.fits_of_normal hs ht hfit
    rw [Fmt.decode_pack_normal hs neg ht htlt hq hqm fun h1 h2 => (htM h2).trans_lt (hnan h1)]
    exact FV.cmp_self ..
  · have hqm := Fmt.fits_of_carry hs hfit
    have hM2 := hs.maxM_ge
    rw [Fmt.pack_carry hs.p_pos, Fmt.decode_pack_normal hs neg le_rfl (by omega) (by omega) hqm (by omega), htwo]
    exact FV.cmp_double ..

/-! ### One rounding into a format (R137, R143) -/

/-- The unit of the last place of a magnitude in a format without bounds. -/
def Fmt.freeUnit (f : Fmt) (m : Nat) (e : Int) : Int := e + (bitLen m : Int) - (f.p : Int)

section
variable {mode draw m : Nat} {neg : Bool} {e : Int}

theorem roundAt_freeUnit (hp : 1 ≤ f.p) (hm : m ≠ 0) : 2 ^ (f.p - 1) ≤ (roundAt mode draw neg m e false (f.freeUnit m e)).1 ∧
    (roundAt mode draw neg m e false (f.freeUnit m e)).1 ≤ 2 ^ f.p := by
  obtain ⟨hb, hlo, hhi⟩ := bitLen_bounds hm
  constructor
  · apply le_roundAt
    calc 2 ^ (f.p - 1) * 2 ^ (f.freeUnit m e - e).toNat = 2 ^ (bitLen m - 1) * 2 ^ (e - f.freeUnit m e).toNat := by
          rw [← pow_add, ← pow_add]; congr 1; unfold Fmt.freeUnit; omega
      _ ≤ m * 2 ^ (e - f.freeUnit m e).toNat := Nat.mul_le_mul_right _ hlo
  · apply roundAt_le
    calc m * 2 ^ (e - f.freeUnit m e).toNat < 2 ^ bitLen m * 2 ^ (e - f.freeUnit m e).toNat :=
          Nat.mul_lt_mul_of_pos_right hhi (by positivity)
      _ = 2 ^ f.p * 2 ^ (f.freeUnit m e - e).toNat := by rw [← pow_add, ← pow_add]; congr 1; unfold Fmt.freeUnit; omega

/-- Below the least unit of the format the significand loses its top bit. -/
theorem roundAt_subnormal (hp : 1 ≤ f.p) (hm : m ≠ 0) {q : Int} (hq : f.freeUnit m e < q) :
    (roundAt mode draw neg m e false q).1 ≤ 2 ^ (f.p - 1) := by
  obtain ⟨-, -, hhi⟩ := bitLen_bounds hm
  apply roundAt_le
  calc m * 2 ^ (e - q).toNat < 2 ^ bitLen m * 2 ^ (e - q).toNat := Nat.mul_lt_mul_of_pos_right hhi (by positivity)
    _ ≤ 2 ^ (f.p - 1) * 2 ^ (q - e).toNat := by
      rw [← pow_add, ← pow_add]
      apply Nat.pow_le_pow_right (by decide)
      unfold Fmt.freeUnit at hq
      omega

end

/-- The magnitude rounded without bounds passes the largest finite one. -/
def Fmt.tooBig (f : Fmt) (k : Rounder) (neg : Bool) (m : Nat) (e : Int) : Prop :=
  ¬ f.fits (roundAt k.mode k.draw neg m e false (f.freeUnit m e)).1 (f.freeUnit m e)

/-- The rounding that a code holds: to the unit of its last place, or the least of the format. -/
def Fmt.last (f : Fmt) (k : Rounder) (neg : Bool) (m : Nat) (e : Int) : Nat × Bool × Bool :=
  roundAt k.mode k.draw neg m e false (max (f.freeUnit m e) f.qmin)

/-- The rounding without bounds lies below the least normal magnitude. -/
def Fmt.tiny (f : Fmt) (k : Rounder) (neg : Bool) (m : Nat) (e : Int) : Bool :=
  decide ((roundAt k.mode k.draw neg m e false (f.freeUnit m e)).1 * 2 ^ (f.freeUnit m e - f.qmin).toNat <
    2 ^ (f.p - 1) * 2 ^ (f.qmin - f.freeUnit m e).toNat)

section
variable {k : Rounder} {neg : Bool} {m : Nat} {e : Int}

theorem roundFin_zero : roundFin f k neg 0 e false = ⟨f.pack neg 0 f.qmin, 0, false⟩ := if_pos ⟨rfl, rfl⟩

/-- The comparison of `roundFin` with the largest finite magnitude, on integers, is `Fmt.fits`. -/
theorem compare_gt_iff_not_fits (t : Nat) (q : Int) :
    (compare (((t : Nat) : Int) * ((2 ^ (q - f.maxQ).toNat : Nat) : Int)) (((f.maxM : Nat) : Int) * ((2 ^ (f.maxQ - q).toNat : Nat) : Int)) ==
      .gt) = true ↔ ¬ f.fits t q := by
  rw [beq_iff_eq, compare_gt_iff_gt, Fmt.fits, ← Nat.cast_mul, ← Nat.cast_mul, Nat.cast_lt, Nat.not_le]

theorem roundFin_tooBig (hm : m ≠ 0) (h : f.tooBig k neg m e) :
    let o := overflowCode f k neg (roundAt k.mode k.draw neg m e false (f.freeUnit m e)).2.2
    roundFin f k neg m e false = ⟨o.1, o.2 ||| fOF ||| fNX, true⟩ := by
  rw [roundFin, if_neg (by simp [hm])]
  exact if_pos ((compare_gt_iff_not_fits _ _).mpr h)

theorem roundFin_fits (hm : m ≠ 0) (h : ¬ f.tooBig k neg m e) :
    roundFin f k neg m e false = ⟨f.pack neg (f.last k neg m e).1 (max (f.freeUnit m e) f.qmin),
      flagIf (f.last k neg m e).2.1 fNX ||| flagIf ((f.last k neg m e).2.1 && f.tiny k neg m e) fUF, false⟩ := by
  have hmax : (if f.freeUnit m e < f.qmin then f.qmin else f.freeUnit m e) = max (f.freeUnit m e) f.qmin := by
    split <;> omega
  rw [roundFin, if_neg (by simp [hm]), Fmt.last, ← hmax]
  exact if_neg ((compare_gt_iff_not_fits _ _).not.mpr h)

/-- What fits is packed into a code of the value that the rounding chose. -/
theorem cmp_decode_last (hs : f.Sound) (hm : m ≠ 0) (h : ¬ f.tooBig k neg m e) :
    FV.cmp (f.decode (f.pack neg (f.last k neg m e).1 (max (f.freeUnit m e) f.qmin)))
      (.fin neg (f.last k neg m e).1 (max (f.freeUnit m e) f.qmin)) = some .eq := by
  obtain ⟨hlo, hhi⟩ := roundAt_freeUnit (mode := k.mode) (draw := k.draw) (neg := neg) (e := e) hs.p_pos hm
  rcases Int.lt_or_le (f.freeUnit m e) f.qmin with hq | hq
  · have hle := roundAt_subnormal (mode := k.mode) (draw := k.draw) (neg := neg) hs.p_pos hm hq
    rw [Fmt.last, max_eq_right hq.le]
    refine Fmt.cmp_decode_pack hs neg le_rfl (hle.trans (Nat.pow_le_pow_right (by decide) (Nat.sub_le ..))) (fun _ => rfl) ?_
    have hmaxQ : f.qmin ≤ f.maxQ := by rw [Fmt.maxQ_eq]; have := hs.lastExp_pos; omega
    rw [Fmt.fits, Int.toNat_of_nonpos (by omega : f.qmin - f.maxQ ≤ 0), pow_zero, Nat.mul_one]
    exact (hle.trans hs.maxM_ge).trans (Nat.le_mul_of_pos_right _ (by positivity))
  · rw [Fmt.last, max_eq_left hq]
    exact Fmt.cmp_decode_pack hs neg hq hhi (fun hlt => absurd hlo (Nat.not_le.mpr hlt)) (not_not.mp h)

end

end

/-! ### The codes of narrow formats beyond their range (R147) -/

theorem tyInt_eq_false {t : Nat} : tyInt t = false ↔ 8 ≤ t := by simp [tyInt]

/-- The table of R147: what an overflow or an infinity leaves in a narrow format, with its own flags. -/
theorem narrowOver_spec {t : Nat} (h11 : 11 ≤ t) (h14 : t < 14) (sat neg : Bool) : narrowOver (tyFmt t) sat neg =
    if sat then (if t = 11 then (if neg then 0xFE else 0x7E) else if t = 12 then (if neg then 0xFB else 0x7B)
      else if neg then 15 else 7, fSAT)
    else (if t = 11 then 0x7F else if t = 12 then (if neg then 0xFC else 0x7C) else 8, if t = 13 then fIV else 0) := by
  interval_cases t <;> cases sat <;> cases neg <;> decide

theorem tyFmt_narrow {t : Nat} (h8 : 8 ≤ t) (h14 : t < 14) : (tyFmt t).narrow = decide (11 ≤ t) := by
  interval_cases t <;> decide

/-- An overflow of a wide format goes by the mode (R143). -/
theorem overflowCode_wide {t : Nat} (h8 : 8 ≤ t) (h11 : t < 11) (k : Rounder) (neg up : Bool) :
    overflowCode (tyFmt t) k neg up =
      (if k.mode = 0 ∨ (k.mode = 2 ∧ neg = false) ∨ (k.mode = 3 ∧ neg = true) ∨ (k.mode = 5 ∧ up = true) then (tyFmt t).inf neg
        else (tyFmt t).largest neg, 0) := by
  have hx : (tyFmt t == x37) = false := by interval_cases t <;> decide
  rw [overflowCode, tyFmt_narrow h8 (by omega), if_neg (by simp; omega), if_neg (by simp [hx])]
  obtain ⟨mode, draw, sat⟩ := k
  obtain _ | _ | _ | _ | _ | _ | mode := mode <;> cases neg <;> cases up <;> simp

/-- An overflow of a narrow format goes by its table (R147). -/
theorem overflowCode_narrow {t : Nat} (h11 : 11 ≤ t) (h14 : t < 14) (k : Rounder) (neg up : Bool) :
    overflowCode (tyFmt t) k neg up = narrowOver (tyFmt t) k.sat neg := by
  rw [overflowCode, tyFmt_narrow (by omega) h14, if_pos (by simp [h11])]

theorem roundFV_inf {t : Nat} (h8 : 8 ≤ t) (h14 : t < 14) (k : Rounder) (neg : Bool) : roundFV (tyFmt t) k (.inf neg) =
    if t < 11 then ⟨(tyFmt t).inf neg, 0, false⟩
    else ⟨(narrowOver (tyFmt t) k.sat neg).1, (narrowOver (tyFmt t) k.sat neg).2, false⟩ := by
  simp only [roundFV, tyFmt_narrow h8 h14, decide_eq_true_eq]
  split <;> rename_i h
  · rw [if_neg (by omega)]
  · rw [if_pos (by omega)]

/-! ### Conversions, by the kinds of source and target (R146, R204) -/

section
variable {src t code : Nat} {k : Rounder}

/-- Into another float type a value is rounded, whatever it comes from. -/
theorem cvtLane_float (hne : src ≠ t) (ht : 8 ≤ t) :
    cvtLane src t k code = roundFV (tyFmt t) k (if tyInt src then intFV (intVal src code) else srcVal src code) := by
  have hti := tyInt_eq_false.mpr ht
  unfold cvtLane
  by_cases hs : tyInt src = true
  · simp [hs, hti]
  · rw [if_neg hs, if_neg hs, if_neg hne, if_neg (by simp [hti])]

theorem cvtLane_float_int (hs : tyInt src = false) (ht : tyInt t = true) :
    cvtLane src t k code = ⟨wrapLane t (floatToInt t k (srcVal src code)).1, (floatToInt t k (srcVal src code)).2.1,
      (floatToInt t k (srcVal src code)).2.2⟩ := by
  have hne : src ≠ t := fun h => by rw [h, ht] at hs; cases hs
  simp [cvtLane, hs, ht, hne]

theorem cvtLane_int_int (hs : tyInt src = true) (ht : tyInt t = true) :
    cvtLane src t k code = ⟨wrapLane t (if k.sat then (satInt t (intVal src code)).1 else intVal src code),
      if k.sat then (satInt t (intVal src code)).2 else 0, (satInt t (intVal src code)).2 != 0⟩ := by
  simp [cvtLane, hs, ht]

/-- A value that an integer type holds is that of the lane it is wrapped into. -/
theorem intVal_wrapLane {x : Int} (h1 : tyMin t ≤ x) (h2 : x ≤ tyMax t) : intVal t (wrapLane t x) = x := by
  rw [intVal_eq, wrapLane_eq, BitVec.ofNat_toNat, BitVec.setWidth_eq, valueIn_ofInt h1 h2]

theorem intVal_wrapLane_clamp (x : Int) :
    intVal t (wrapLane t (max (tyMin t) (min (tyMax t) x))) = max (tyMin t) (min (tyMax t) x) :=
  intVal_wrapLane (le_max_left ..) (max_le (tyMin_le_tyMax t) (min_le_left ..))

/-- A finite value into an integer type: rounded, then clamped with FIV. -/
theorem floatToInt_fin (neg : Bool) (m : Nat) (e : Int) :
    let u := roundAt k.mode k.draw neg m e false 0
    let v : Int := if neg then -(u.1 : Int) else (u.1 : Int)
    (floatToInt t k (.fin neg m e)).1 = max (tyMin t) (min (tyMax t) v) ∧
      (floatToInt t k (.fin neg m e)).2.1 = if v < tyMin t ∨ tyMax t < v then fIV else flagIf u.2.1 fNX := by
  intro u v
  have hle := tyMin_le_tyMax t
  have hdef : floatToInt t k (.fin neg m e) = if v < tyMin t then (tyMin t, fIV, true)
    else if tyMax t < v then (tyMax t, fIV, true) else (v, flagIf u.2.1 fNX, false) := rfl
  rw [hdef]
  split
  · rename_i h
    exact ⟨by rw [min_eq_right (by omega), max_eq_left (by omega)], (if_pos (.inl h)).symm⟩
  · split
    · rename_i h
      exact ⟨by rw [min_eq_left (by omega), max_eq_right hle], (if_pos (.inr h)).symm⟩
    · exact ⟨by rw [min_eq_right (by omega), max_eq_right (by omega)], (if_neg (by omega)).symm⟩

/-- Decoding reads the bits of the format alone. -/
theorem decode_mod (h8 : 8 ≤ t) (h14 : t < 14) (x : Nat) : (tyFmt t).decode (x % 2 ^ tyWidth t) = (tyFmt t).decode x := by
  have hw : tyWidth t = (tyFmt t).signPos + 1 ∧ (tyFmt t).p - 1 + (tyFmt t).eb = (tyFmt t).signPos := by interval_cases t <;> decide
  obtain ⟨hw, hp⟩ := hw
  have hsign := mod_pow_div_mod_pow x (n := tyWidth t) (a := (tyFmt t).signPos) (w := 1) (by omega)
  have hex := mod_pow_div_mod_pow x (n := tyWidth t) (a := (tyFmt t).p - 1) (w := (tyFmt t).eb) (by omega)
  have hfr : x % 2 ^ tyWidth t % 2 ^ ((tyFmt t).p - 1) = x % 2 ^ ((tyFmt t).p - 1) :=
    Nat.mod_mod_of_dvd _ (Nat.pow_dvd_pow 2 (by omega))
  rw [pow_one] at hsign
  unfold Fmt.decode
  simp only [hsign, hex, hfr]

/-- A float type converted to itself. -/
theorem cvtLane_self (h8 : 8 ≤ t) (h14 : t < 14) : cvtLane t t k code =
    if t = 13 then ⟨code % 16, if code % 16 = 8 then fIV else 0, false⟩
    else if srcVal t code = .nan then ⟨(tyFmt t).nan, 0, false⟩ else ⟨code % 2 ^ tyWidth t, 0, false⟩ := by
  have hti := tyInt_eq_false.mpr h8
  rw [cvtLane, if_neg (by simp [hti]), if_pos rfl]
  by_cases h13 : t = 13
  · rw [if_pos h13, if_pos h13]; rfl
  · have hv : srcVal t code = (tyFmt t).decode code := by rw [srcVal, if_neg (fun h => h13 h.1), decode_mod h8 h14]
    rw [if_neg h13, if_neg h13, hv]
    simp only [Fmt.isNan, beq_iff_eq]
    rfl

end

/-- A zero in a float type, signed where the type has a negative zero. -/
theorem pack_zero {t : Nat} (h8 : 8 ≤ t) (h14 : t < 14) (neg : Bool) :
    (tyFmt t).pack neg 0 (tyFmt t).qmin = if neg = true ∧ t ≠ 13 then 2 ^ (tyFmt t).signPos else 0 := by
  interval_cases t <;> cases neg <;> decide

theorem tyFmt_top {t : Nat} (h8 : 8 ≤ t) (h14 : t < 14) : ((tyFmt t).top == 2) = decide (t = 13) := by
  interval_cases t <;> decide

/-! ### R146 and R147, clause by clause -/

section
variable {src t code : Nat} {k : Rounder} (ht : t < 14)
include ht

theorem cvtLane_nan (hne : src ≠ t) (hs : tyInt src = false) (hnan : srcVal src code = .nan) :
    (tyInt t = true → cvtLane src t k code = ⟨0, fIV, true⟩) ∧
    (tyInt t = false → (cvtLane src t k code).code = (tyFmt t).nan ∧
      (cvtLane src t k code).flags = if t = 13 then fIV else 0) := by
  constructor <;> intro hti
  · rw [cvtLane_float_int hs hti, hnan, floatToInt, wrapLane_eq, BitVec.ofInt_ofNat, BitVec.toNat_ofNat, Nat.zero_mod]
  · have h8 := tyInt_eq_false.mp hti
    rw [cvtLane_float hne h8, hs, hnan]
    simp [roundFV, flagIf, tyFmt_top h8 ht]

theorem cvtLane_inf (neg : Bool) (hne : src ≠ t) (hs : tyInt src = false) (hinf : srcVal src code = .inf neg) :
    (8 ≤ t → cvtLane src t k code = if t < 11 then ⟨(tyFmt t).inf neg, 0, false⟩
      else ⟨(narrowOver (tyFmt t) k.sat neg).1, (narrowOver (tyFmt t) k.sat neg).2, false⟩) ∧
    (tyInt t = true → (cvtLane src t k code).flags = fIV ∧
      intVal t (cvtLane src t k code).code = if neg then tyMin t else tyMax t) := by
  refine ⟨fun h8 => ?_, fun hti => ?_⟩
  · rw [cvtLane_float hne h8, hs, if_neg Bool.false_ne_true, hinf, roundFV_inf h8 ht]
  · rw [cvtLane_float_int hs hti, hinf]
    refine ⟨rfl, ?_⟩
    cases neg
    · exact intVal_wrapLane (tyMin_le_tyMax t) le_rfl
    · exact intVal_wrapLane le_rfl (tyMin_le_tyMax t)

/-- A finite value out of a float type's range (R143, R147). -/
theorem roundFin_overflows (h8 : 8 ≤ t) {neg : Bool} {m : Nat} {e : Int} (hm : m ≠ 0) (hbig : (tyFmt t).tooBig k neg m e) :
    let up := (roundAt k.mode k.draw neg m e false ((tyFmt t).freeUnit m e)).2.2
    let out := roundFin (tyFmt t) k neg m e false
    (t < 11 → out.flags = fOF ||| fNX ∧ out.code =
      if k.mode = 0 ∨ (k.mode = 2 ∧ neg = false) ∨ (k.mode = 3 ∧ neg = true) ∨ (k.mode = 5 ∧ up = true) then (tyFmt t).inf neg
      else (tyFmt t).largest neg) ∧
    (11 ≤ t → out.flags = (narrowOver (tyFmt t) k.sat neg).2 ||| fOF ||| fNX ∧ out.code = (narrowOver (tyFmt t) k.sat neg).1) := by
  intro up out
  have hout : out = ⟨(overflowCode (tyFmt t) k neg up).1, (overflowCode (tyFmt t) k neg up).2 ||| fOF ||| fNX, true⟩ :=
    roundFin_tooBig hm hbig
  rw [hout]
  refine ⟨fun h11 => ?_, fun h11 => ?_⟩
  · rw [overflowCode_wide h8 h11]; exact ⟨congrArg (· ||| fNX) (BitVec.zero_or (x := fOF)), rfl⟩
  · rw [overflowCode_narrow h11 ht]; exact ⟨rfl, rfl⟩

end

/-- Settles O27, kind by kind of source and target. -/
theorem conversionCorners : Obligations.ConversionCorners := by
  unfold Obligations.ConversionCorners
  intro src t code k _ ht out
  refine ⟨fun hne hs hnan => cvtLane_nan ht hne hs hnan, fun neg m e hne hti hv => ?_, fun neg m e hs hti hv => ?_,
    fun hst hti => ?_, fun neg hne hs hinf => ?_, fun hs hti => ?_⟩
  · intro f q free tooBig tiny last
    have h8 := tyInt_eq_false.mp hti
    have hout : out = roundFin f k neg m e false := (cvtLane_float hne h8).trans (by rw [hv]; rfl)
    have hbig : tooBig ↔ f.tooBig k neg m e := Nat.not_le.symm
    rw [hout]
    refine ⟨?_, fun hm hfit => ?_, fun hm hover => ?_⟩
    · rintro rfl
      rw [roundFin_zero, pack_zero h8 ht]
      exact ⟨rfl, rfl⟩
    · rw [hbig] at hfit
      rw [roundFin_fits hm hfit]
      refine ⟨cmp_decode_last (tyFmt_sound h8 ht) hm hfit, ?_⟩
      simp only [flagIf, Bool.and_eq_true, Fmt.tiny, decide_eq_true_eq]
      rfl
    · obtain ⟨hwide, hnarrow⟩ := roundFin_overflows ht h8 hm (hbig.mp hover)
      refine ⟨hwide, fun hsat h11 => ?_, fun hsat h11 => ?_⟩
      all_goals
        obtain ⟨hfl, hcode⟩ := hnarrow h11
        rw [hfl, hcode, narrowOver_spec h11 ht, hsat]
        exact ⟨rfl, rfl⟩
  · intro u v
    obtain ⟨hval, hfl⟩ := floatToInt_fin (t := t) (k := k) neg m e
    have hout := cvtLane_float_int (k := k) (code := code) hs hti
    rw [hv] at hout
    rw [show out = _ from hout]
    refine ⟨?_, hfl⟩
    dsimp only
    rw [hval]
    exact intVal_wrapLane_clamp v
  · subst hst
    have h8 := tyInt_eq_false.mp hti
    rw [show out = _ from cvtLane_self h8 ht]
    refine ⟨fun h13 => ?_, fun h13 hnan => ?_, fun h13 hnan => ?_⟩
    · rw [if_pos h13]; exact ⟨rfl, rfl⟩
    · rw [if_neg h13, if_pos hnan]; exact ⟨rfl, rfl⟩
    · rw [if_neg h13, if_neg hnan]; exact ⟨rfl, rfl⟩
  · obtain ⟨hfloat, hint⟩ := cvtLane_inf (k := k) ht neg hne hs hinf
    have hnarrow : 11 ≤ t → out = ⟨(narrowOver (tyFmt t) k.sat neg).1, (narrowOver (tyFmt t) k.sat neg).2, false⟩ := fun h11 =>
      (hfloat (by omega)).trans (if_neg (by omega))
    refine ⟨fun h8 h11 => (hfloat h8).trans (if_pos h11), fun h => ?_, fun h => ?_, fun h => ?_, hint⟩
    all_goals
      subst h
      rw [hnarrow (by decide), narrowOver_spec (by decide) ht]
      cases k.sat <;> rfl
  · rw [show out = _ from cvtLane_int_int hs hti, satInt_eq]
    dsimp only
    generalize intVal src code = v
    have hle := tyMin_le_tyMax t
    refine ⟨fun h1 h2 => ?_, fun hsat h => ?_, fun hsat h => ?_, fun hsat => ?_⟩
    · rw [min_eq_right h2, max_eq_right h1, if_pos (And.intro h1 h2)]
      simp only [ite_self]
      exact ⟨intVal_wrapLane h1 h2, trivial⟩
    · simp only [hsat, if_true]
      rw [min_eq_right (by omega), max_eq_left (by omega), if_neg (by omega)]
      exact ⟨intVal_wrapLane le_rfl hle, rfl⟩
    · simp only [hsat, if_true]
      rw [min_eq_left (by omega), max_eq_right hle, if_neg (by omega)]
      exact ⟨intVal_wrapLane hle le_rfl, rfl⟩
    · simp only [hsat, if_false, Bool.false_eq_true, and_true]
      rw [wrapLane, natMod, Int.toNat_of_nonneg (Int.emod_nonneg _ (by positivity)), Nat.cast_pow, Nat.cast_ofNat]

end Sys2Proof.Machine
end

section
/-! PROOF. The accumulators of a crucible and what a burst leaves in them (R150 to R155, R260). -/

namespace Sys2Proof.Machine

/-! ### Cells of an accumulator -/

theorem lkp_filter_key {α : Type} (p : Nat → Bool) (l : List (Nat × α)) (k : Nat) :
    lkp (l.filter fun e => p e.1) k = if p k then lkp l k else none := by
  induction l with
  | nil => simp [lkp]
  | cons e l ih =>
    obtain ⟨j, v⟩ := e
    rw [List.filter_cons]
    by_cases hj : j = k
    · subst hj
      by_cases hp : p j = true <;> simp_all [lkp]
    · by_cases hp : p j = true <;> simp_all [lkp]

/-- A cell of a list of accumulator cells; one that is not listed is +0. -/
def cellIn (acc : List (Nat × BitVec 37)) (n row j : Nat) : BitVec 37 := (lkp acc (n * 16384 + row * 128 + j)).getD 0

theorem cellIn_putAcc (acc : List (Nat × BitVec 37)) (v : BitVec 37) {n m row row' j j' : Nat} (hr : row < 128) (hr' : row' < 128)
    (hj : j < 128) (hj' : j' < 128) : cellIn (putAcc acc n row j v) m row' j' =
      if m = n ∧ row' = row ∧ j' = j then v else cellIn acc m row' j' := by
  unfold cellIn putAcc
  by_cases h : m = n ∧ row' = row ∧ j' = j
  · obtain ⟨rfl, rfl, rfl⟩ := h
    rw [if_pos (And.intro rfl (And.intro rfl rfl))]
    split
    · next hv => rw [lkp_del_same, hv]; rfl
    · rw [lkp_put_same]; rfl
  · have hne : m * 16384 + row' * 128 + j' ≠ n * 16384 + row * 128 + j := by omega
    rw [if_neg h]
    split
    · rw [lkp_del_other _ hne]
    · rw [lkp_put_other _ _ hne]

/-- A row written cell by cell. -/
theorem cellIn_putRow (acc : List (Nat × BitVec 37)) (v : Nat → BitVec 37) {n m row row' j' : Nat} (hr : row < 128) (hr' : row' < 128)
    (hj' : j' < 128) {k : Nat} (hk : k ≤ 128) :
    cellIn ((List.range k).foldl (fun acc j => putAcc acc n row j (v j)) acc) m row' j' =
      if m = n ∧ row' = row ∧ j' < k then v j' else cellIn acc m row' j' := by
  induction k with
  | zero => simp
  | succ k ih =>
    rw [List.range_succ, List.foldl_append, List.foldl_cons, List.foldl_nil, cellIn_putAcc _ _ hr hr' (by omega) hj', ih (by omega)]
    by_cases h : m = n ∧ row' = row ∧ j' = k
    · obtain ⟨rfl, rfl, rfl⟩ := h
      rw [if_pos ⟨rfl, rfl, rfl⟩, if_pos ⟨rfl, rfl, Nat.lt_succ_self _⟩]
    · rw [if_neg h]
      exact if_congr (by omega) rfl rfl

/-- Rows written one after another. -/
theorem cellIn_putRows (acc : List (Nat × BitVec 37)) (v : Nat → Nat → BitVec 37) {n m row' j' : Nat} (hr' : row' < 128)
    (hj' : j' < 128) {ra : Nat} (hra : ra ≤ 128) :
    cellIn ((List.range ra).foldl (fun acc row => (List.range 128).foldl (fun acc j => putAcc acc n row j (v row j)) acc) acc) m row' j' =
      if m = n ∧ row' < ra then v row' j' else cellIn acc m row' j' := by
  induction ra with
  | zero => simp
  | succ ra ih =>
    rw [List.range_succ (n := ra), List.foldl_append, List.foldl_cons, List.foldl_nil, cellIn_putRow _ _ (by omega) hr' hj' le_rfl, ih (by omega)]
    by_cases h : m = n ∧ row' = ra ∧ j' < 128
    · obtain ⟨rfl, rfl, h⟩ := h
      rw [if_pos ⟨rfl, rfl, h⟩, if_pos ⟨rfl, Nat.lt_succ_self _⟩]
    · rw [if_neg h]
      exact if_congr (by omega) rfl rfl

/-- Rows from one on are cleared. -/
theorem cellIn_clearAcc (acc : List (Nat × BitVec 37)) {n m row row' j' : Nat} (hr' : row' < 128) (hj' : j' < 128) :
    cellIn (clearAcc acc n row) m row' j' = if m = n ∧ row ≤ row' then 0 else cellIn acc m row' j' := by
  rw [cellIn, clearAcc, lkp_filter_key fun k => !(k / 16384 == n && decide (row ≤ k % 16384 / 128))]
  have hm : (m * 16384 + row' * 128 + j') / 16384 = m := by omega
  have hrow : (m * 16384 + row' * 128 + j') % 16384 / 128 = row' := by omega
  rw [hm, hrow]
  by_cases h : m = n ∧ row ≤ row'
  · rw [if_neg (by simp [h.1, h.2]), if_pos h]; rfl
  · rw [if_pos (by simpa [imp_iff_not_or] using h), if_neg h]; rfl

/-! ### The tree of sums (R151) -/

/-- Node i of level l of the fixed tree over some leaves. -/
def treeNode (leaf : Nat → FV) : Nat → Nat → FV
  | 0, i => leaf i
  | l + 1, i => roundX37 (FV.add 4 (treeNode leaf l (2 * i)) (treeNode leaf l (2 * i + 1))).1

theorem treeLevel_range (g : Nat → FV) (n : Nat) :
    treeLevel ((List.range (2 * n)).map g) = (List.range n).map fun i => roundX37 (FV.add 4 (g (2 * i)) (g (2 * i + 1))).1 := by
  induction n generalizing g with
  | zero => rfl
  | succ n ih =>
    rw [Nat.mul_succ, List.range_succ_eq_map, List.range_succ_eq_map, List.range_succ_eq_map]
    simp only [List.map_cons, List.map_map]
    rw [treeLevel]
    congr 1
    exact ih (g ∘ Nat.succ ∘ Nat.succ)

theorem treeLevel_treeNode (leaf : Nat → FV) (l n : Nat) :
    treeLevel ((List.range (2 * n)).map (treeNode leaf l)) = (List.range n).map (treeNode leaf (l + 1)) := treeLevel_range _ n

/-- The tree over 32 leaves ends in one node. -/
theorem treeSum_eq (leaf : Nat → FV) : treeSum ((List.range 32).map leaf) = treeNode leaf 5 0 := by
  have h := treeLevel_treeNode leaf
  have h0 : (List.range 32).map leaf = (List.range (2 * 16)).map (treeNode leaf 0) := rfl
  rw [treeSum, h0, h 0 16, h 1 8, h 2 4, h 3 2, h 4 1]
  rfl

/-! ### A scaled group (R151, R152, R155) -/

section
variable (x : Crucible) (b : BBank) (side row j : Nat) {q i : Nat}

theorem aValue_dense (hi : i < 32) (h : x.aSparse = 0) : (aValue x row (32 * q + i)).1 =
    elemVal (tyFmt x.aFmt.toNat) (scaleOf x x.aFmt.toNat 0 row q / 256) (codeAt ((lkp x.aRows row).getD 0) (32 * q + i)) := by
  rw [aValue, if_pos h, show (32 * q + i) / 32 = q by omega]

/-- An element that the mask does not keep is +0; a kept one stands at its place among those kept. -/
theorem aValue_sparse (hi : i < 32) (h : x.aSparse ≠ 0) : (aValue x row (32 * q + i)).1 =
    elemVal (tyFmt x.aFmt.toNat) (scaleOf x x.aFmt.toNat 0 row q / 256)
      (if maskByte x row ((32 * q + i) / 8) / 2 ^ ((32 * q + i) % 8) % 2 = 1 then
        codeAt ((lkp x.aRows row).getD 0) ((if x.aSparse = 1 then 4 else 2) * ((32 * q + i) / 8) +
          popByte (maskByte x row ((32 * q + i) / 8) % 2 ^ ((32 * q + i) % 8)))
      else 0) := by
  have hkept : keptOf x.aSparse.toNat = if x.aSparse = 1 then 4 else 2 := by
    revert h; generalize x.aSparse = sp; revert sp; decide
  rw [aValue, if_neg h, show (32 * q + i) / 32 = q by omega, hkept]
  dsimp only
  rcases Nat.mod_two_eq_zero_or_one (maskByte x row ((32 * q + i) / 8) / 2 ^ ((32 * q + i) % 8)) with hm | hm
  · rw [if_pos hm, if_neg (by omega)]
  · rw [if_neg (by omega), if_pos hm]

theorem bValue_eq (hi : i < 32) : bValue x b side j (32 * q + i) =
    elemVal (tyFmt b.fmt.toNat) (scaleOf x b.fmt.toNat side j q / 256) (codeAt ((lkp b.cols j).getD 0) (32 * q + i)) := by
  rw [bValue, show (32 * q + i) / 32 = q by omega]

/-- The product of element i of group q. -/
def groupLeaf (q i : Nat) : FV := (FV.mul (aValue x row (32 * q + i)).1 (bValue x b side j (32 * q + i))).1

/-- A group's sum: its tree, times the two scales; NaN when one of them is. -/
theorem groupSum_eq (q : Nat) : groupSum x b side row j q =
    if scaleOf x x.aFmt.toNat 0 row q % 256 = 255 ∨ scaleOf x b.fmt.toNat side j q % 256 = 255 then .nan
    else (treeNode (groupLeaf x b side row j q) 5 0).scale
      ((((scaleOf x x.aFmt.toNat 0 row q % 256 : Nat) : Int) - 127) + (((scaleOf x b.fmt.toNat side j q % 256 : Nat) : Int) - 127)) := by
  have hexp : ∀ s : Nat, scaleExp (s % 256) = if s % 256 = 255 then none else some (((s % 256 : Nat) : Int) - 127) := fun s => by
    rw [scaleExp, Nat.mod_mod]
  rw [groupSum, ← treeSum_eq, hexp, hexp]
  by_cases ha : scaleOf x x.aFmt.toNat 0 row q % 256 = 255
  · rw [if_pos ha, if_pos (Or.inl ha)]
  · by_cases hb : scaleOf x b.fmt.toNat side j q % 256 = 255
    · rw [if_neg ha, if_pos hb, if_pos (Or.inr hb)]
    · rw [if_neg ha, if_neg hb, if_neg (not_or_intro ha hb)]
      rfl

end

/-- Equal leaves make equal trees. -/
theorem treeNode_congr {f g : Nat → FV} {l i : Nat} (h : ∀ k, k < 2 ^ l * (i + 1) → f k = g k) : treeNode f l i = treeNode g l i := by
  induction l generalizing i with
  | zero => exact h i (by omega)
  | succ l ih =>
    have hpow : 2 ^ (l + 1) * (i + 1) = 2 ^ l * (2 * i + 1 + 1) := by ring
    rw [hpow] at h
    rw [treeNode, treeNode, ih fun k hk => h k (hk.trans_le (Nat.mul_le_mul_left _ (by omega))), ih h]

/-- A sparse operand gives the sums of the dense one that holds its kept elements at their mask positions, +0 elsewhere. -/
theorem groupSum_sparse {x y : Crucible} (b : BBank) (side row j : Nat) {q : Nat} (hq : q < 4) (hy : y.aSparse = 0)
    (hfmt : y.aFmt = x.aFmt) (hsc : y.scales = x.scales) (hx : x.aSparse ≠ 0)
    (hcodes : ∀ k, k < 128 → codeAt ((lkp y.aRows row).getD 0) k =
      if maskByte x row (k / 8) / 2 ^ (k % 8) % 2 = 1 then
        codeAt ((lkp x.aRows row).getD 0) ((if x.aSparse = 1 then 4 else 2) * (k / 8) + popByte (maskByte x row (k / 8) % 2 ^ (k % 8)))
      else 0) : groupSum y b side row j q = groupSum x b side row j q := by
  have hscale : ∀ t side j q, scaleOf y t side j q = scaleOf x t side j q := fun _ _ _ _ => by rw [scaleOf, scaleOf, hsc]
  have hleaf : ∀ i, i < 2 ^ 5 * (0 + 1) → groupLeaf y b side row j q i = groupLeaf x b side row j q i := fun i hi => by
    rw [groupLeaf, groupLeaf, aValue_dense y row hi hy, aValue_sparse x row hi hx, bValue_eq y b side j hi, bValue_eq x b side j hi,
      hscale, hscale, hfmt, hcodes _ (by omega)]
  rw [groupSum_eq, groupSum_eq, hscale, hscale, hfmt, treeNode_congr hleaf]

/-! ### The burst (R260) -/

theorem mmaSet_eq (r : NodeRec) : mmaSet r = r.var.getLsbD 2 := by
  rw [mmaSet, BitVec.getLsbD, Nat.testBit_eq_decide_div_mod_eq]
  rfl

/-- The accumulators with the cells of a burst written. -/
def mmaCells (x : Crucible) (r : NodeRec) : List (Nat × BitVec 37) :=
  (List.range x.ra).foldl (fun acc row => (List.range 128).foldl (fun acc j =>
    putAcc acc (mmaAcc r) row j (mmaCell x (mmaBank x r) (mmaSide r) row j (mmaSet r) (accCell x (mmaAcc r) row j))) acc) x.acc

/-- The set variant clears the rows that it does not write. -/
theorem mmaApply_acc (x : Crucible) (r : NodeRec) :
    (mmaApply x r).acc = if mmaSet r then clearAcc (mmaCells x r) (mmaAcc r) x.ra else mmaCells x r := by
  rw [mmaApply]
  split <;> rfl

/-- The cells that a burst leaves. -/
theorem accCell_mmaApply {x : Crucible} (r : NodeRec) (hra : x.ra ≤ 128) (m : Nat) {row j : Nat} (hr : row < 128) (hj : j < 128) :
    accCell (mmaApply x r) m row j =
      if m = mmaAcc r then
        if row < x.ra then mmaCell x (mmaBank x r) (mmaSide r) row j (mmaSet r) (accCell x (mmaAcc r) row j)
        else if mmaSet r then 0 else accCell x m row j
      else accCell x m row j := by
  have hput : cellIn (mmaCells x r) m row j =
      if m = mmaAcc r ∧ row < x.ra then mmaCell x (mmaBank x r) (mmaSide r) row j (mmaSet r) (accCell x (mmaAcc r) row j)
      else accCell x m row j := cellIn_putRows x.acc _ hr hj hra
  have hcell : accCell (mmaApply x r) m row j =
      if mmaSet r = true ∧ m = mmaAcc r ∧ x.ra ≤ row then 0 else cellIn (mmaCells x r) m row j := by
    rw [show accCell (mmaApply x r) m row j = cellIn (mmaApply x r).acc m row j from rfl, mmaApply_acc]
    by_cases hs : mmaSet r = true
    · rw [if_pos hs, cellIn_clearAcc _ hr hj]
      simp only [hs, true_and]
    · rw [if_neg hs, if_neg fun h => hs h.1]
  rw [hcell, hput]
  by_cases hm : m = mmaAcc r
  · by_cases hlt : row < x.ra
    · rw [if_neg (by omega), if_pos ⟨hm, hlt⟩, if_pos hm, if_pos hlt]
    · rw [if_neg (show ¬ (m = mmaAcc r ∧ row < x.ra) from fun h => hlt h.2), if_pos hm, if_neg hlt]
      exact if_congr (by simp only [hm, Nat.le_of_not_lt hlt, and_self, and_true]) rfl rfl
  · simp only [hm, false_and, and_false, if_false]

theorem rows_mmaApply (x : Crucible) (r : NodeRec) : (lkp (mmaApply x r).rows (mmaAcc r)).getD 0 =
    if mmaSet r then x.ra else max ((lkp x.rows (mmaAcc r)).getD 0) x.ra := by
  rw [mmaApply]
  split <;> rw [lkp_put_same] <;> rfl

/-- A burst changes accumulator cells and rows alone. -/
theorem mmaApply_frame (x : Crucible) (r : NodeRec) :
    mmaApply x r = { x with acc := (mmaApply x r).acc, rows := (mmaApply x r).rows } := by
  rw [mmaApply]
  split <;> rfl

/-- Settles O32: `groupSum_eq` and `groupSum_sparse` say what a group's sum is, `accCell_mmaApply` what the burst makes of it. -/
theorem burstUpdatesItsAccumulator : Obligations.BurstUpdatesItsAccumulator := by
  unfold Obligations.BurstUpdatesItsAccumulator
  intro x r hra n set side b odd plus ta tb scale
  have hset : mmaSet r = set := mmaSet_eq r
  have hframe := mmaApply_frame x r
  have hscale : ∀ row q, scale ta (row * 4 + q) = scaleOf x ta 0 row q := fun row q => by
    rw [scaleOf, scaleKey, Nat.zero_mul, Nat.zero_add]
  refine ⟨fun row j q hq => ?_, fun m row j _ hr hj => ?_, hset ▸ rows_mmaApply x r, by rw [hframe], by rw [hframe],
    by rw [hframe], by rw [hframe]⟩
  · dsimp only
    rw [hscale]
    refine ⟨fun hd => ⟨treeNode (groupLeaf x b side row j q), fun i hi => ?_, fun l i _ _ => rfl, groupSum_eq x b side row j q⟩,
      fun y hy hfmt hsc hx hcodes => groupSum_sparse b side row j hq hy hfmt hsc hx hcodes⟩
    rw [treeNode, groupLeaf, aValue_dense x row hi hd, bValue_eq x b side j hi]
    rfl
  · rw [accCell_mmaApply r hra m hr hj, hset]
    rfl

end Sys2Proof.Machine
end

section
/-! PROOF. A drain into a buffer of which the bank has no backing (R262, R396). -/

namespace Sys2Proof.Machine

/-! ### A buffer in a bank that is gone -/

/-- A buffer of 512 bytes of context 1, at byte 0x20 of bay 0 of course 0. -/
def goneBuffer : PEntry := { (default : PEntry) with v := true, gen := 1, base := 2, size := 32, uc := 1, cx := 1 }

/-- Its handle. -/
def goneHandle : Nat := handleWord 0 0 0 0 1

/-- MX.DRAIN of accumulator 0 as f32. -/
def drainRec : NodeRec := { var := 0, ty := 8, ar := 1, tg := 0, pl := false, d0 := 0x1FFFFF, d1 := 0x1FFFFF, lit := 0 }

/-- Its firing, by record 1 of crucible 3 for context 1, with the handle as B. -/
def drainFiring : Firing :=
  { Firing.none with unit := 0x1003, node := 1, cx := 1, a := some (plain 0), b := some (plain goneHandle) }

/-- The reset state with the buffer, the mark of a page whose bank, bank 0 of bay 0, has failed with no spare bank free (R396),
and crucible 3 with one live row, whose first cell is 1. -/
def goneBankState : State :=
  { State.reset with
    bays := [(0, { Bay.empty with pools := [(0, { (default : Pool) with kind := 1, cx := 1, size := 64, pmap := [(0, goneBuffer)] })] })]
    lostPages := [{ pa := 0, size := 0x10000, leaves := [], gone := [0] }]
    crucibles := [(3, { (default : Crucible) with rows := [(0, 1)], acc := [(0, BitVec.ofNat 37 (511 * 2 ^ 26))] })]
    firing := drainFiring }

/-- The addresses of its one row. -/
def goneBytes : List Nat := bufBytes goneHandle goneBuffer 512

/-! ### The drain -/

/-- The drain meets the checks of its operands: one live row, and a handle, aligned. -/
theorem goneBank_operands : Memory.wf goneBankState.mem = true ∧ firingP goneBankState.firing = false ∧
    (lkp (goneBankState.cruOf goneBankState.firing).rows (drainRec.var.toNat % 4)).getD 0 = 1 ∧
    goneBankState.firing.bw % 64 = 0 ∧ isHandle goneBankState.firing.bw = true := by
  decide +kernel

/-- The row lies in a readable part of the handle's buffer. -/
theorem goneBank_row : let x := addrPlus goneBankState.firing.bw (((0 : Nat) : Int) * (drainRec.lit.toNat : Int))
    isHandle x = true ∧ (∀ a ∈ goneBytes, goneBankState.unreachable a = false) ∧
    goneBankState.region goneBankState.firing.cx.toNat x (128 * (tyWidth drainRec.ty.toNat / 8)) 64 clsStore true true =
      .ok goneBytes false 0 := by
  decide +kernel

/-- The row's third byte is 0x80, of 1.0 as f32. -/
theorem drainRow_goneBank : goneBytes[2]? = some 0x22 ∧
    (drainRow (goneBankState.cruOf goneBankState.firing) (drainRec.var.toNat % 4) drainRec.ty.toNat 0).1[2]? = some 0x80#8 := by
  decide +kernel

/-- Once drained, the byte in memory is still 0: it has nowhere to go. -/
theorem execMxDrain_goneBank :
    (match exec (.mxDrain drainRec) goneBankState with
      | .next t => Memory.read t.mem 0x22 == 0
      | _ => false) = true := by
  decide +kernel

/-- Refutes O33: the bank under the handle's buffer has no backing, so the row's byte 0x80 is not written, though the row lies in a
readable part of the buffer (R396). -/
theorem not_drainWritesItsRows : ¬ Obligations.DrainWritesItsRows := by
  unfold Obligations.DrainWritesItsRows
  intro h
  obtain ⟨-, -, -, -, -, -, hhandle, -⟩ := h drainRec goneBankState
  obtain ⟨hwf, hp, hrows, hal, hh⟩ := goneBank_operands
  obtain ⟨hat, hbyte⟩ := drainRow_goneBank
  rw [hrows] at hhandle
  obtain ⟨u, f, hexec, -, hbytes, -⟩ := hhandle (fun _ => goneBytes) hwf hp one_ne_zero hal hh
    (fun row hr => by obtain rfl := Nat.lt_one_iff.mp hr; exact goneBank_row) (fun i j hi hj hij => absurd hij (by omega))
  have hread : Memory.read u.mem 0x22 = 0 := by
    have hdrain := execMxDrain_goneBank
    rw [hexec] at hdrain
    exact beq_iff_eq.mp hdrain
  have hwritten := hbytes 0 2 0x22 one_pos hat
  rw [hbyte, hread] at hwritten
  exact absurd hwritten (by decide)

end Sys2Proof.Machine
end

section
/-! PROOF. The events of crucibles: operations, permits and bursts (R251 to R254, R261, R452). -/

namespace Sys2Proof.Machine

/-! ### Permits (R261, R452) -/

/-- 2 µs have passed since a change of a course's permits, or none was made. -/
theorem changeDue_iff {s : State} {last : Nat} : changeDue s last = true ↔ last = 0 ∨ last + 2000 ≤ s.tick.toNat := by
  simp [changeDue]

/-- Charging the work done for a context leaves the courses and the time, so what permits may change. -/
theorem chargeEnergy_frame (s : State) (cx : Nat) :
    (chargeEnergy s cx).courses = s.courses ∧ (chargeEnergy s cx).tick = s.tick := by simp [chargeEnergy]

theorem chargeEnergy_crs (s : State) (cx c : Nat) : (chargeEnergy s cx).crs c = s.crs c := by
  rw [State.crs, (chargeEnergy_frame s cx).1, State.crs]

theorem returnPermit_due {s : State} {c : Nat} (n : Nat) (h : (s.crs c).lastFall = 0 ∨ (s.crs c).lastFall + 2000 ≤ s.tick.toNat) :
    returnPermit s c n = (s.modCru c n fun y => { y with permit := false, ballast := false }).modCrs c fun y =>
      { y with lastFall := max 1 s.tick.toNat } := if_pos (changeDue_iff.mpr h)

theorem returnPermit_ballast {s : State} {c : Nat} (n : Nat)
    (h : ¬ ((s.crs c).lastFall = 0 ∨ (s.crs c).lastFall + 2000 ≤ s.tick.toNat)) :
    returnPermit s c n = s.modCru c n fun y => { y with ballast := true } := if_neg (changeDue_iff.not.mpr h)

/-- The first of some numbers that satisfies a test. -/
theorem find?_range_first {n m : Nat} {p : Nat → Bool} (hm : m < n) (hp : p m = true) (hpre : ∀ i, i < m → p i = false) :
    (List.range n).find? p = some m := by
  rw [List.find?_range_eq_some]
  exact ⟨hp, List.mem_range.mpr hm, fun i hi => by simp [hpre i hi]⟩

/-- The burst begins with the first operation that waits for a permit. -/
theorem startBurst_first (x : Crucible) (now : Nat) {pre post : List CruOp} {q : CruOp} (hq : q.wantPermit = true)
    (hpre : ∀ y ∈ pre, y.wantPermit = false) : startBurst x now (pre ++ q :: post) =
      pre ++ { q with wantPermit := false, burst := true, burstDue := now + burstCycles x q.pend.r } :: post := by
  induction pre with
  | nil => exact if_pos hq
  | cons y pre ih =>
    rw [List.cons_append, startBurst, if_neg (by simp [hpre y (List.mem_cons_self ..)]),
      ih fun z hz => hpre z (List.mem_cons_of_mem _ hz), List.cons_append]

section
variable {e : EvArgs} {s : State}

/-- Under a change of the course, a crucible is what it was changed to. -/
theorem cru_modCrs_modCru (s : State) (c n : Nat) (f : Crucible → Crucible) (g : Course → Course) :
    ((s.modCru c n f).modCrs c g).cru c n = f (s.cru c n) := by
  rw [State.cru, State.modCrs_crucibles]
  exact State.cru_setCru s c n _

/-- A free permit stops at the first crucible downstream that waits. -/
theorem execPermitHandout_stops {m : Nat} (hfree : permitFree s e.course.toNat = true)
    (hpre : ∀ i, i < m → wantsPermit s e.course.toNat ((e.k.toNat + i) % 24) = false) (hm : m < 24)
    (hw : wantsPermit s e.course.toNat ((e.k.toNat + m) % 24) = true) : exec (.permitHandout e) s =
      .next ((s.modCru e.course.toNat ((e.k.toNat + m) % 24) fun x =>
        { x with permit := true, ballast := false, burstCx := x.cx, ops := startBurst x s.cycles x.ops }).modCrs e.course.toNat
          fun y => { y with lastRise := max 1 s.tick.toNat }) := by
  have hfind : ((List.range 24).map fun i => (e.k.toNat + i) % 24).find? (wantsPermit s e.course.toNat) =
      some ((e.k.toNat + m) % 24) := by
    rw [List.find?_map, find?_range_first (p := wantsPermit s e.course.toNat ∘ fun i => (e.k.toNat + i) % 24) hm hw hpre]
    rfl
  show execPermitHandout e s = _
  unfold execPermitHandout
  dsimp only
  rw [hfind, hfree]
  rfl

/-- Ballast is dropped once the fall is due, at the first crucible that runs it. -/
theorem execPermitFallDue_returns {m : Nat}
    (hdue : (s.crs e.course.toNat).lastFall = 0 ∨ (s.crs e.course.toNat).lastFall + 2000 ≤ s.tick.toNat) (hm : m < 24)
    (hb : (s.cru e.course.toNat m).ballast = true) (hpre : ∀ i, i < m → (s.cru e.course.toNat i).ballast = false) :
    exec (.permitFallDue e) s =
      .next (returnPermit (chargeEnergy s (s.cru e.course.toNat m).burstCx.toNat) e.course.toNat m) := by
  show execPermitFallDue e s = _
  unfold execPermitFallDue
  dsimp only
  rw [find?_range_first (p := fun n => (s.cru e.course.toNat n).ballast) hm hb hpre]
  exact congrArg _ (if_pos (changeDue_iff.mpr hdue))

/-! ### Bursts (R260, R261) -/

section
variable {o : CruOp} (hp : (s.cru e.course.toNat e.unit.toNat).permit = true)
  (hb : (s.cru e.course.toNat e.unit.toNat).ballast = false)
  (ho : (s.cru e.course.toNat e.unit.toNat).ops.find? (fun q => q.burst) = some o)
include hp hb ho

theorem execBurstEnd_eq : exec (.burstEnd e) s =
    .next (if s.cycles < o.burstDue then s else endBurst s e.course.toNat e.unit.toNat) := by
  show execBurstEnd e s = _
  simp [execBurstEnd, hp, hb, ho]

omit hp hb in
theorem endBurst_eq : endBurst s e.course.toNat e.unit.toNat =
    returnPermit (s.setCru e.course.toNat e.unit.toNat { mmaApply (s.cru e.course.toNat e.unit.toNat) o.pend.r with
      ops := (s.cru e.course.toNat e.unit.toNat).ops.map fun q =>
        if q.burst then { q with burst := false, done := true, result := 0 } else q }) e.course.toNat e.unit.toNat := by
  simp only [endBurst, ho]

end

end

/-! ### The time of a burst (R261) -/

/-- RA × c ÷ s, rounded up: c is ½, 1 or 2 by the formats, s is 1 or 2 by the sparsity. -/
theorem burstCycles_eq (x : Crucible) (r : NodeRec) :
    let d := if x.aSparse = 0 then 1 else 2
    burstCycles x r = 24 +
      (if x.aFmt = 13#4 ∧ (mmaBank x r).fmt = 13#4 then (x.ra + 2 * d - 1) / (2 * d)
      else if tyNarrow x.aFmt.toNat = true ∧ tyNarrow (mmaBank x r).fmt.toNat = true then (x.ra + d - 1) / d
      else (2 * x.ra + d - 1) / d) := by
  have h13 : ∀ f : BitVec 4, f.toNat = 13 ↔ f = 13#4 := by decide
  unfold burstCycles
  simp only [h13]
  congr 1
  by_cases h1 : x.aFmt = 13#4 ∧ (mmaBank x r).fmt = 13#4
  · simp only [if_pos h1]
    split <;> omega
  · by_cases h2 : tyNarrow x.aFmt.toNat = true ∧ tyNarrow (mmaBank x r).fmt.toNat = true
    · simp only [if_neg h1, if_pos h2]
      split <;> omega
    · simp only [if_neg h1, if_neg h2]
      split <;> omega

/-! ### Operations (R251 to R254) -/

section
variable {e : EvArgs} {s : State} {o : CruOp} (ho : (s.cru e.course.toNat e.unit.toNat).ops[e.k.toNat]? = some o)
include ho

/-- An operation that has not started does when no earlier one excludes it. -/
theorem execCrucibleOperationStart_new (hs : o.started = false) : exec (.crucibleOperationStart e) s =
    .next (if e.k.toNat ∈ startable (s.cru e.course.toNat e.unit.toNat) s.cycles (s.cru e.course.toNat e.unit.toNat).ops [] 0 then
        chargeEnergy { (s.modCru e.course.toNat e.unit.toNat fun y => { y with
          ops := y.ops.mapIdx fun j q => if j = e.k.toNat then { q with started := true } else q }) with
            agenda := s.agenda ++ [.fire o.pend] } o.pend.fir.cx.toNat
      else s) := by
  have hstuck : o.stuck = false := by simp [CruOp.stuck, hs]
  show execCrucibleOperationStart e s = _
  unfold execCrucibleOperationStart
  simp only [ho, hstuck, Bool.false_eq_true, if_false, List.contains_iff_mem]
  rfl

/-- One that waits acts again when that changes something. -/
theorem execCrucibleOperationStart_again (hs : o.started = true) (hd : o.done = false) (hh : o.held = false)
    (hw : o.wantPermit = false) (hb : o.burst = false) (ha : Pick.fire o.pend ∉ s.agenda) : exec (.crucibleOperationStart e) s =
      .next (if cruWakes s o.pend = true then { s with agenda := s.agenda ++ [.fire o.pend] } else s) := by
  have hstuck : o.stuck = true := by simp [CruOp.stuck, hs, hd, hh, hw, hb]
  have hnot : s.agenda.contains (.fire o.pend) = false := by simpa using ha
  show execCrucibleOperationStart e s = _
  unfold execCrucibleOperationStart
  simp only [ho, hstuck, hnot, if_true, Bool.false_or]
  cases cruWakes s o.pend <;> rfl

/-- A completion is sent by an operation that is done; one that frees the frame waits for those accepted before it. -/
theorem execCrucibleOperationComplete_eq : exec (.crucibleOperationComplete e) s =
    .next (if o.done = true ∧ (o.pend.r.tg ≠ 3#2 ∨ e.k.toNat = 0) then completeOp s e.course.toNat e.unit.toNat e.k.toNat o else s) := by
  show execCrucibleOperationComplete e s = _
  unfold execCrucibleOperationComplete
  simp only [ho, Bool.and_eq_true, Bool.or_eq_true, bne_iff_ne, beq_iff_eq]

end

/-- Settles O50, event by event. -/
theorem crucibleEventsAct : Obligations.CrucibleEventsAct := by
  unfold Obligations.CrucibleEventsAct
  intro e s o c n k x stop due back ended poured
  refine ⟨fun ho => ⟨fun hs hk => ?_, fun hs hk => ?_, fun hs hd hh hw hb ha => ⟨fun hwake => ?_, fun hwake => ?_⟩, fun hd htg => ?_,
    fun hno => ?_⟩, fun hout hrise m hstop => ?_, fun hp hb ho => ⟨fun hlt => ?_, fun hle hdue => ?_, fun hle hdue => ?_⟩,
    fun a b ha hab => ?_, fun hdue m hm hb hpre => ?_⟩
  · rw [execCrucibleOperationStart_new ho hs, if_pos hk]
  · rw [execCrucibleOperationStart_new ho hs, if_neg hk]
  · rw [execCrucibleOperationStart_again ho hs hd hh hw hb ha, if_pos hwake]
  · rw [execCrucibleOperationStart_again ho hs hd hh hw hb ha, if_neg (by simp [hwake])]
  · rw [execCrucibleOperationComplete_eq ho, if_pos ⟨hd, htg⟩]
    rfl
  · rw [execCrucibleOperationComplete_eq ho, if_neg]
    rintro ⟨hd, htg⟩
    rcases hno with h | ⟨h, hk⟩
    · rw [h] at hd; cases hd
    · exact htg.elim (· h) hk
  · obtain ⟨hpre, hm, hw⟩ := hstop
    have hfree : permitFree s c = true := by
      rw [permitFree, Bool.and_eq_true, decide_eq_true_eq, changeDue_iff]
      exact ⟨hout, hrise⟩
    refine ⟨_, execPermitHandout_stops hfree hpre hm hw, ?_⟩
    rw [cru_modCrs_modCru]
    refine ⟨rfl, rfl, rfl, fun pre q post hops hq hbefore => ?_, ?_, rfl⟩
    · show startBurst _ _ _ = _
      rw [hops, startBurst_first _ _ hq hbefore]
    · rw [State.crs_modCrs]
  · rw [execBurstEnd_eq hp hb ho, if_pos hlt]
  · rw [execBurstEnd_eq hp hb ho, if_neg (Nat.not_lt.mpr hle), endBurst_eq ho]
    exact congrArg _ (returnPermit_due n hdue)
  · rw [execBurstEnd_eq hp hb ho, if_neg (Nat.not_lt.mpr hle), endBurst_eq ho]
    exact congrArg _ (returnPermit_ballast n hdue)
  · have hd := burstCycles_eq x o.pend.r
    rw [hab, ha] at hd
    replace hd := Nat.add_left_cancel hd
    refine ⟨fun h1 h2 => by rw [hd, if_pos ⟨h1, h2⟩], fun h1 h2 h => by rw [hd, if_neg h, if_pos ⟨h1, h2⟩], fun hnot h => ?_⟩
    rw [hd, if_neg h, if_neg]
    rintro ⟨h1, h2⟩
    rcases hnot with h | h
    · exact Bool.noConfusion (h.symm.trans h1)
    · exact Bool.noConfusion (h.symm.trans h2)
  · rw [execPermitFallDue_returns hdue hm hb hpre]
    refine congrArg _ (returnPermit_due m ?_)
    rw [chargeEnergy_crs, (chargeEnergy_frame s _).2]
    exact hdue

end Sys2Proof.Machine
end

section
/-! PROOF. What the plumbing and the lane instructions send (R161 to R164). -/

namespace Sys2Proof.Machine

/-! ### Fields and operands as bit vectors (R5, R117, R134) -/

theorem bitAt_eq {n : Nat} (x : BitVec n) (i : Nat) : bitAt x i = x.getLsbD i := by
  rw [bitAt, bitsAt, BitVec.getLsbD, Nat.testBit_eq_decide_div_mod_eq, pow_one, beq_eq_decide]

/-- The 64 payload bits that an operand's number holds. -/
theorem Opnd.ofNat_word (o : Opnd) : BitVec.ofNat 64 o.word = o.low 64 :=
  BitVec.eq_of_toNat_eq (by rw [Opnd.word, Opnd.low, BitVec.toNat_ofNat, BitVec.toNat_setWidth, Nat.mod_mod])

/-! ### Plumbing (R161, R162) -/

section
variable {s : State} {r : NodeRec}

/-- A node whose values stand on the plane of its record passes them on. -/
theorem pureNode_passesOn (a : Args) (v0 v1 : Option Payload) :
    pureNode s r a r.pl r.pl (v0.map fun x => (x, false)) (v1.map fun x => (x, false)) 0 = passesOn s r a v0 v1 :=
  pureNode_eq ..

theorem passNode_eq (a : Args) (v : Payload) : passNode s r a v = passesOn s r a (some v) (some v) :=
  pureNode_passesOn a (some v) (some v)

/-- A control value on both destinations, as the operands of its record stand. -/
theorem pureNode_sendsWord (x : Nat) (fl : Flags) :
    pureNode s r (argsCtl s r s.firing) false false (word64 x) (word64 x) fl = sendsWord s r (BitVec.ofNat 64 x) fl := by
  rw [pureNode_eq, word64_eq]
  rfl

theorem execSteer_sends : exec (.steer r) s = .next (
    if (argsPl s r s.firing).b.val.getLsbD 0 then passesOn s r (argsPl s r s.firing) (some (argsPl s r s.firing).a.val) none
    else passesOn s r (argsPl s r s.firing) none (some (argsPl s r s.firing).a.val)) := by
  show execSteer r s = _
  rw [execSteer, bitAt_eq]
  split
  · exact congrArg _ (pureNode_passesOn _ (some _) none)
  · exact congrArg _ (pureNode_passesOn _ none (some _))

theorem execSel_sends : exec (.sel r) s = .next (
    if (argsPl s r s.firing).a.val.getLsbD 0 then
      passesOn s r (argsPl s r s.firing) (some (argsPl s r s.firing).c.val) (some (argsPl s r s.firing).c.val)
    else passesOn s r (argsPl s r s.firing) (some (argsPl s r s.firing).b.val) (some (argsPl s r s.firing).b.val)) := by
  show execSel r s = _
  rw [execSel, bitAt_eq, passNode_eq]
  split <;> rfl

theorem execJoin_sends : exec (.join r) s = .next (
    if r.ar = 1#3 ∨ r.ar = 2#3 then
      passesOn s r (argsPl s r s.firing) (some (argsPl s r s.firing).b.val) (some (argsPl s r s.firing).b.val)
    else passesOn s r (argsPl s r s.firing) (some (argsPl s r s.firing).c.val) (some (argsPl s r s.firing).c.val)) := by
  show execJoin r s = _
  rw [execJoin, passNode_eq]
  split <;> rfl

/-- The operand that came: the first of A, B and C that is there. -/
theorem execMerge_sends :
    let came := (s.firing.a.or (s.firing.b.or s.firing.c)).getD (plain 0)
    exec (.merge r) s =
      .next (passesOn s r ⟨came, plain 0, plain 0, plain 0, came.p, came.e⟩ (some came.val) (some came.val)) := by
  intro came
  show Host.Outcome.next (passNode s r _ _) = _
  rw [passNode_eq]
  cases ha : s.firing.a with
  | some x => simp [came, ha]
  | none =>
    cases hb : s.firing.b with
    | some x => simp [came, ha, hb]
    | none => cases hc : s.firing.c <;> simp [came, ha, hb, hc]

/-- A source has no operand, so its literal may stand where no port reads it. -/
theorem execSrc_sends (h : r.ar.toNat = 5) :
    exec (.src r) s = .next (sendsWord s r (BitVec.ofNat 64 (litCtl s s.firing r)) 0) := by
  have hargs : argsOf 5 s.firing 0 = argsCtl s r s.firing := by rw [argsCtl, h]; rfl
  show Host.Outcome.next (pureNode s r (argsOf 5 s.firing 0) false false _ _ 0) = _
  rw [hargs, pureNode_sendsWord]

end

/-- Settles O3, instruction by instruction: each passes an operand or a literal on, which `pureNode_eq` says in full. -/
theorem tokenPlumbingSends : Obligations.TokenPlumbingSends := by
  unfold Obligations.TokenPlumbingSends
  intro r s a lit came
  exact ⟨congrArg _ (passNode_eq ..), rfl, congrArg _ (pureNode_sendsWord ..), execSrc_sends, execSteer_sends, execSel_sends,
    execMerge_sends, execJoin_sends⟩

/-! ### Courses and stacks (R40, R41, R163) -/

section
variable {s : State} {r : NodeRec}

theorem offTarget_iff {g : Firing} {dest : Nat} : offTarget r g dest = true ↔
    r.tg = 2#2 ∧ (g.a.getD (plain 0)).p = false ∧ (frameRef (g.a.getD (plain 0)).word).course ≠ dest := by
  simp [offTarget, and_assoc]

variable {a : Args} {stack course : Nat} {v : Option Val}

/-- A frame word of another course than the target is a hard fault of a node that no SKIP verdict names. -/
theorem sendAcross_off (h : offTarget r s.firing course = true) (hs : s.firing.skip = false) :
    sendAcross s r a stack course v = fault s s.firing kTAG 7 := by
  rw [sendAcross, h, hs]
  rfl

theorem sendAcross_on (h : ¬ offTarget r s.firing course = true ∨ s.firing.skip = true) :
    sendAcross s r a stack course v = computed s r a stack course r.pl r.pl v v 0 := by
  rw [sendAcross, if_neg, pureAt_eq]
  rw [Bool.and_eq_true, Bool.not_eq_true']
  rintro ⟨ho, hs⟩
  rcases h with h | h
  · exact h ho
  · rw [hs] at h; cases h

/-- What VERT and EAVE send: A under RETURN, else B. -/
def crossVal (r : NodeRec) (a : Args) : Val := (if r.tg = 3#2 then a.a.val else a.b.val, false)

theorem execVert_eq : exec (.vert r) s = .next (sendAcross s r (argsPl s r s.firing) s.sideband.stackNo.toNat
    (r.lit.extractLsb' 0 4).toNat (some (crossVal r (argsPl s r s.firing)))) := by
  rw [← bitsAt_eq]
  rfl

/-- The stack is there: one that the pod reaches, or the own one. -/
theorem stackAbsent_eq_false {n : Nat} (h : n ∈ s.reach ∨ n = s.sideband.stackNo.toNat) :
    (!(s.reach.contains n) && n != s.sideband.stackNo.toNat) = false := by
  rcases h with h | h <;> simp [h]

theorem stackBarred_eq_true {cx n : Nat}
    (h : s.holdsStack cx n = false ∨ (n ∉ s.reach ∧ n ≠ s.sideband.stackNo.toNat)) :
    ((!(s.reach.contains n) && n != s.sideband.stackNo.toNat) || !(s.holdsStack cx n)) = true := by
  rcases h with h | ⟨h1, h2⟩
  · simp [h]
  · simp [h1, h2]

/-- An EAVE to a stack that is there and held sends. -/
theorem execEave_held (hh : s.holdsStack s.firing.cx.toNat (r.lit.extractLsb' 0 10).toNat = true)
    (hn : (r.lit.extractLsb' 0 10).toNat ∈ s.reach ∨ (r.lit.extractLsb' 0 10).toNat = s.sideband.stackNo.toNat) :
    exec (.eave r) s = .next (sendAcross s r (argsPl s r s.firing) (r.lit.extractLsb' 0 10).toNat
      (r.lit.extractLsb' 10 4).toNat (some (crossVal r (argsPl s r s.firing)))) := by
  show execEave r s = _
  simp only [execEave, bitsAt_eq, stackAbsent_eq_false hn, hh, Bool.not_true, Bool.or_self, Bool.false_and, Bool.false_eq_true,
    if_false]
  rfl

/-- An EAVE to a stack that is absent or not held faults, when it acts at all. -/
theorem execEave_fault (hn : s.holdsStack s.firing.cx.toNat (r.lit.extractLsb' 0 10).toNat = false ∨
      ((r.lit.extractLsb' 0 10).toNat ∉ s.reach ∧ (r.lit.extractLsb' 0 10).toNat ≠ s.sideband.stackNo.toNat))
    (ha : (argsPl s r s.firing).e = false) (he : s.eBit s.firing = false) (hs : s.firing.skip = false) :
    exec (.eave r) s = .next (fault s s.firing kHOLDING 2) := by
  show execEave r s = _
  simp only [execEave, bitsAt_eq, stackBarred_eq_true hn, ha, he, hs]
  rfl

end

/-! ### Lanes (R164, R188) -/

/-- Every lane of a splat is its value. -/
theorem laneAt_splat {w : Nat} (x : Nat) {i : Nat} (hi : i < 512 / w) : laneAt w (splat w x) i = x % 2 ^ w := by
  rw [laneAt_eq, splat, laneV_ofLanes _ hi, BitVec.toNat_ofNat, List.getD_eq_getElem?_getD, List.getElem?_replicate_of_lt hi]
  rfl

/-- A lane as a control payload of its type. -/
theorem ofNat_lane (t : Nat) (v : Payload) (j : Nat) :
    BitVec.ofNat 64 (if tySigned t then natMod (signedVal (laneBits t) (laneAt (laneBits t) v j)) 64 else laneAt (laneBits t) v j) =
      extended t ((v >>> (j * laneBits t)).setWidth (laneBits t)) := by
  have hl : (v >>> (j * laneBits t)).setWidth (laneBits t) = laneV (laneBits t) v j := by
    ext i hi
    simp [laneV]
  rw [hl, laneAt_eq, extended]
  split
  · rw [natMod_eq, signedVal_eq, BitVec.ofNat_toNat, BitVec.ofNat_toNat, BitVec.setWidth_eq, BitVec.setWidth_eq, BitVec.signExtend]
  · rw [BitVec.ofNat_toNat]

section
variable {s : State} {r : NodeRec}

theorem execExtr_lane (h : (argsCtl s r s.firing).b.word < 512 / laneBits r.ty.toNat) :
    exec (.extr r) s = .next (sendsWord s r (extended r.ty.toNat (((argsCtl s r s.firing).a.val >>>
      ((argsCtl s r s.firing).b.word * laneBits r.ty.toNat)).setWidth (laneBits r.ty.toNat))) 0) := by
  show execExtr r s = _
  simp only [execExtr, if_neg (Nat.not_le.mpr h), pureNode_sendsWord, ofNat_lane]

theorem execExtr_beyond (h : 512 / laneBits r.ty.toNat ≤ (argsCtl s r s.firing).b.word) :
    exec (.extr r) s = .next (computed s r (argsCtl s r s.firing) s.sideband.stackNo.toNat s.firing.course.toNat false false
      (some (0#512, true)) (some (0#512, true)) 0) := by
  show execExtr r s = _
  simp only [execExtr, if_pos h, pureNode_eq]

end

/-- Settles O4: VERT and EAVE by the two ends of `sendAcross`, REPL by the lanes of a splat, EXTR by its lane or the poisoned
zero. -/
theorem courseStackAndLaneMoves : Obligations.CourseStackAndLaneMoves := by
  unfold Obligations.CourseStackAndLaneMoves
  intro r s a v w n b x off below beyond
  have hoff : ∀ course, off course ↔ offTarget r s.firing course = true := fun _ => offTarget_iff.symm
  refine ⟨fun ho hs => ?_, fun ho => ?_, fun hh hn => ⟨fun ho hs => ?_, fun ho => ?_⟩, fun hn ha he hs => execEave_fault hn ha he hs,
    fun _ => ⟨splat w b.a.val.toNat, fun i hi => laneAt_splat _ hi, congrArg _ (pureNode_eq ..)⟩, fun _ => execExtr_lane,
    execExtr_beyond⟩
  · rw [execVert_eq, sendAcross_off ((hoff _).mp ho) hs]
  · rw [hoff] at ho
    rw [execVert_eq, sendAcross_on ho]
    rfl
  · rw [execEave_held hh hn, sendAcross_off ((hoff _).mp ho) hs]
  · rw [hoff] at ho
    rw [execEave_held hh hn, sendAcross_on ho]
    rfl

end Sys2Proof.Machine
end

section
/-! PROOF. What the tag, cast, release and pool instructions do at issue (R166 to R172, R178 to R181). -/

namespace Sys2Proof.Machine

/-! ### Effects held for the commit (R26) -/

@[simp] theorem holdEffect_firing (s : State) (op : Nat) (r : NodeRec) : (holdEffect s op r).firing = s.firing :=
  State.modOwn_firing ..

@[simp] theorem holdArgs_firing (s : State) (op : Nat) (r : NodeRec) (a : Args) : (holdArgs s op r a).firing = s.firing :=
  State.modOwn_firing ..

/-- An operand sent on in a state that has kept the issue latch. -/
theorem emitWord_opnd {s t : State} (r : NodeRec) (o : Opnd) (p : Bool) (h : t.firing = s.firing) :
    emitWord t r s.firing o.word p = sendsValue t r (o.low 64) p := by
  rw [emitWord_of t r _ _ p h, Opnd.ofNat_word]

/-- Sixteen bits set into a word at bit 12, by masks and by parts. -/
theorem insertBits_eq_append (x : BitVec 64) (y : BitVec 16) :
    (x &&& ~~~(((BitVec.allOnes 16).setWidth 64) <<< 12)) ||| (y.setWidth 64 <<< 12) =
      x.extractLsb' 28 36 ++ (y ++ x.extractLsb' 0 12) := by
  apply BitVec.eq_of_getLsbD_eq
  intro i hi
  simp only [BitVec.getLsbD_or, BitVec.getLsbD_and, BitVec.getLsbD_not, BitVec.getLsbD_shiftLeft, BitVec.getLsbD_setWidth,
    BitVec.getLsbD_allOnes, BitVec.getLsbD_append, BitVec.getLsbD_extractLsb']
  rcases Nat.lt_or_ge i 12 with h | h
  · simp [h, hi, show i < 28 by omega]
  · rcases Nat.lt_or_ge i 28 with h' | h'
    · simp [hi, h', Nat.not_lt.mpr h, show i - 12 < 16 by omega, show i - 12 < 64 by omega]
    · have hy : ¬ i - 12 < 16 := by omega
      simp [hi, hy, Nat.not_lt.mpr h, Nat.not_lt.mpr h', BitVec.getLsbD_of_ge y _ (Nat.not_lt.mp hy),
        show 28 + (i - 28) = i by omega, show i - 28 < 36 by omega]

/-- TAGSET's word: A with the low 16 bits of B as its IT (R125, R166). -/
theorem ofNat_withIt (a b : Opnd) :
    BitVec.ofNat 64 (a.word / 2 ^ 28 * 2 ^ 28 + b.word % 65536 * 2 ^ 12 + a.word % 4096) =
      ((a.low 64) &&& ~~~(0xFFFF000#64)) ||| (((b.low 16).setWidth 64) <<< 12) := by
  have hmask : 0xFFFF000#64 = ((BitVec.allOnes 16).setWidth 64) <<< 12 := by decide
  have ha : a.word < 2 ^ 64 := Nat.mod_lt _ (by positivity)
  rw [hmask, insertBits_eq_append, ← Opnd.ofNat_word]
  apply BitVec.eq_of_toNat_eq
  rw [toNat_append_add, toNat_append_add, BitVec.extractLsb'_toNat, BitVec.extractLsb'_toNat, Opnd.low, BitVec.toNat_setWidth,
    BitVec.toNat_ofNat, BitVec.toNat_ofNat, Nat.shiftRight_eq_div_pow, Nat.shiftRight_eq_div_pow]
  simp only [Opnd.word] at ha ⊢
  omega

/-! ### Tags and casts (R166 to R172) -/

section
variable {s : State} {r : NodeRec}

theorem execTagget_sends {own : Frame} (h : s.frame? s.firing.course.toNat s.firing.bay s.firing.ft.toNat = some own) :
    exec (.tagget r) s = .next (sendsWord s r (BitVec.ofNat 64
      (frameWord 0 s.firing.course.toNat s.firing.bay own.it.toNat s.firing.ft.toNat)) 0) := by
  show Host.Outcome.next (ctlNode s r _) = _
  simp only [ctlNode_eq, ownFrameWord, h, Option.map_some, Option.getD_some]

theorem execRet_sends : exec (.ret r) s = .next (sendsWord s r ((argsCtl s r s.firing).a.low 64) 0) := by
  show Host.Outcome.next (ctlNode s r _) = _
  rw [ctlNode_eq, Opnd.ofNat_word]

variable (h : actsFreely s r (argsCtl s r s.firing))
include h

theorem execCall_free :
    exec (.call r) s = .next (sendsValue (holdEffect s 0x12 r) r ((argsCtl s r s.firing).b.low 64) false) := by
  have ⟨_, _, _, _, hp⟩ := h
  show Host.Outcome.next (actNode s r _ _) = _
  rw [actNode_free _ h, hp, emitWord_opnd _ _ _ (holdEffect_firing ..)]

variable {f : Frame} (hw : inOwnBay s.firing (frameRef (argsCtl s r s.firing).a.word) = true)
  (hf : s.ownFrame? s.firing.cx s.firing.course.toNat s.firing.bay (frameRef (argsCtl s r s.firing).a.word).ft = some f)
include hw hf

theorem execStrand_free :
    exec (.strand r) s =
      .next (sendsValue (holdArgs s 0x16 r (argsCtl s r s.firing)) r ((argsCtl s r s.firing).a.low 64) false) := by
  have ⟨_, _, _, _, hp⟩ := h
  show Host.Outcome.next (actNode s r _ _) = _
  rw [actNode_free _ h]
  simp only [hp, hw, hf, Bool.not_true, Option.isNone_some, Bool.false_eq_true, if_false]
  rw [emitWord_opnd _ _ _ (holdArgs_firing ..)]

theorem execFreeFrm_free :
    exec (.freeFrm r) s = .next (sendsValue (holdEffect s 0x24 r) r ((argsCtl s r s.firing).a.low 64) false) := by
  have ⟨_, _, _, _, hp⟩ := h
  show Host.Outcome.next (actNode s r _ _) = _
  rw [actNode_free _ h]
  simp only [hp, hw, hf, Bool.not_true, Option.isNone_some, Bool.false_eq_true, if_false]
  rw [emitWord_opnd _ _ _ (holdEffect_firing ..)]

variable (hlc : f.link.lc = false) (hpres : f.pres = 0#64)
  (hother : (frameRef (argsCtl s r s.firing).a.word).ft ≠ s.firing.ft.toNat)
include hlc hpres hother

theorem execTagset_free :
    exec (.tagset r) s = .next (sendsValue (holdArgs s 0x11 r (argsCtl s r s.firing)) r
      ((((argsCtl s r s.firing).a.low 64) &&& ~~~(0xFFFF000#64)) |||
        ((((argsCtl s r s.firing).b.low 16).setWidth 64) <<< 12)) false) := by
  have ⟨_, _, _, _, hp⟩ := h
  have hfree : (f.link.lc || f.pres != 0 || (frameRef (argsCtl s r s.firing).a.word).ft == s.firing.ft.toNat) = false := by
    simp [hlc, hpres, hother]
  show Host.Outcome.next (actNode s r _ _) = _
  rw [actNode_free _ h]
  simp only [hp, hw, hf, hfree, Bool.not_true, Bool.false_eq_true, if_false]
  rw [emitWord_of _ _ _ _ _ (holdArgs_firing ..), ofNat_withIt]

/-- ITER links a free frame that does not move, from a frame that has no next one yet. -/
theorem execIter_free {own : Frame} (hown : s.frame? s.firing.course.toNat s.firing.bay s.firing.ft.toNat = some own)
    (hnv : own.nv = false) (hmv : f.mv = false) :
    let g := s.firing
    let c := g.course.toNat
    let w := frameRef (argsCtl s r g).a.word
    exec (.iter r) s = .next
      (let t := s.setFrame c g.bay w.ft { f with it := own.it + 1 }
       let t := t.modFrame c g.bay g.ft.toNat fun x => { x with nft := BitVec.ofNat 12 w.ft, nv := true }
       let t := t.modOwn g fun k => { k with linked := some (BitVec.ofNat 12 w.ft, f.it) }
       sendsValue t r ((argsCtl s r g).b.low 64) false) := by
  have ⟨_, _, _, _, hp⟩ := h
  have hap := argsCtl_a_p hp
  have hfree : (own.nv || (frameRef (argsCtl s r s.firing).a.word).ft == s.firing.ft.toNat || f.link.lc || f.pres != 0) = false := by
    simp [hnv, hlc, hpres, hother]
  intro g c w
  show Host.Outcome.next (actNode s r _ _) = _
  rw [actNode_free _ h]
  simp only [hp, hap, hw, hf, hown, hfree, hmv, Bool.not_true, Bool.false_eq_true, if_false]
  rw [emitWord_opnd (s := s) _ _ _ (by simp)]

end

/-- Settles O5, instruction by instruction, after the checks of the frame word (`inOwnBay_iff`, `State.ownFrame?_eq_some`). -/
theorem tagAndCastInstructionsAct : Obligations.TagAndCastInstructionsAct := by
  unfold Obligations.TagAndCastInstructionsAct
  intro r s own g c a w hown
  refine ⟨execTagget_sends hown, execRet_sends, rfl, fun h => ⟨execCall_free h, fun f hk hc hu hf hcx => ?_⟩⟩
  have hw : inOwnBay g w = true := (inOwnBay_iff g w).mpr ⟨hk, hc, hu⟩
  have hof := State.ownFrame?_eq_some hf hcx
  exact ⟨execStrand_free h hw hof, fun hlc hpres hother => ⟨execTagset_free h hw hof hlc hpres hother,
    fun hnv hmv => execIter_free h hw hof hlc hpres hother hown hnv hmv⟩⟩

/-! ### Releases (R178 to R180) -/

section
variable {s : State} {r : NodeRec} (h : actsFreely s r (argsCtl s r s.firing))
include h

/-- FREE.BUF and USE send a handle that R55 accepts, and hold their effect. -/
theorem bufNode_free (op : Nat) {e : PEntry} (hx : isHandle (argsCtl s r s.firing).a.word = true)
    (he : s.handleEntry s.firing.cx.toNat (argsCtl s r s.firing).a.word 0 = .ok e) :
    bufNode op r s = sendsValue (holdEffect s op r) r ((argsCtl s r s.firing).a.low 64) false := by
  have ⟨_, _, _, _, hp⟩ := h
  rw [bufNode, actNode_free _ h]
  simp only [hp, hx, he, Bool.not_true, Bool.false_eq_true, if_false]
  rw [emitWord_opnd _ _ _ (holdEffect_firing ..)]

theorem execFreeRdg_free (hg : s.slotGranted s.firing.cx.toNat (argsCtl s r s.firing).a.word = true) :
    exec (.freeRdg r) s = .next (sendsValue (holdEffect s 0x27 r) r ((argsCtl s r s.firing).a.low 64) false) := by
  have ⟨_, _, _, _, hp⟩ := h
  show Host.Outcome.next (actNode s r _ _) = _
  rw [actNode_free _ h]
  simp only [hp, hg, Bool.not_true, Bool.false_eq_true, if_false]
  rw [emitWord_opnd _ _ _ (holdEffect_firing ..)]

/-! ### POOLQ (R181) -/

theorem execPoolq_undeclared
    (hn : s.pool? s.firing.course.toNat s.firing.bay (r.lit.extractLsb' 0 3).toNat = none) :
    exec (.poolq r) s = .next (sendsValue s r 0#64 false) := by
  have ⟨_, _, _, _, hp⟩ := h
  show Host.Outcome.next (actNode s r _ _) = _
  rw [actNode_free _ h]
  simp only [bitsAt_eq, hn, hp, emitWord_eq]

variable {p : Pool} (hpool : s.pool? s.firing.course.toNat s.firing.bay (r.lit.extractLsb' 0 3).toNat = some p)
include hpool

theorem execPoolq_foreign (hcx : p.cx ≠ s.firing.cx) : exec (.poolq r) s = .next (fault s s.firing kHOLDING 2) := by
  show Host.Outcome.next (actNode s r _ _) = _
  rw [actNode_free _ h]
  simp only [bitsAt_eq, hpool, bne_iff_ne.mpr hcx, if_true]

theorem execPoolq_own (hcx : p.cx = s.firing.cx) :
    exec (.poolq r) s = .next (sendsValue s r (BitVec.ofNat 64 (poolqWord s s.firing.course.toNat s.firing.bay
      (r.lit.extractLsb' 0 3).toNat (r.lit.extractLsb' 4 4).toNat p)) false) := by
  have ⟨_, _, _, _, hp⟩ := h
  show Host.Outcome.next (actNode s r _ _) = _
  rw [actNode_free _ h]
  simp only [bitsAt_eq, hpool, hcx, hp, bne_self_eq_false, Bool.false_eq_true, if_false, emitWord_eq]

end

/-- The first eight words of POOLQ are the pool's counters. -/
theorem poolqWord_counter (s : State) (c b pid : Nat) {sel : Nat} (p : Pool) (h : sel < 8) :
    BitVec.ofNat 64 (poolqWord s c b pid sel p) =
      ([p.grants, p.releases, p.overtakes, p.anchors, p.compactions, p.spills, p.restores, p.intoSpilled].getD sel 0).setWidth 64 := by
  interval_cases sel <;> exact BitVec.ofNat_toNat ..

/-- Settles O8: the releases after their checks, POOLQ by the pool that its selector names. -/
theorem releasesAndPoolQueries : Obligations.ReleasesAndPoolQueries := by
  unfold Obligations.ReleasesAndPoolQueries
  intro r s g c a x w pid sel h
  refine ⟨fun hk hc hu ⟨f, hf, hcx⟩ => ?_, fun hx ⟨e, he⟩ => ?_, execFreeRdg_free h, execPoolq_undeclared h,
    fun p hp hcx => execPoolq_foreign h hp hcx, fun p hp hcx hsel => ?_, fun p hp hcx _ _ => execPoolq_own h hp hcx⟩
  · exact execFreeFrm_free h ((inOwnBay_iff g w).mpr ⟨hk, hc, hu⟩) (State.ownFrame?_eq_some hf hcx)
  · have hh : isHandle x = true := by rw [isHandle, hx]; rfl
    exact ⟨congrArg _ (bufNode_free h 0x25 hh he), congrArg _ (bufNode_free h 0x26 hh he)⟩
  · rw [execPoolq_own h hp hcx, poolqWord_counter _ _ _ _ p hsel]

end Sys2Proof.Machine
end

section
/-! PROOF. Bitwise, shift, count and bit-field nodes of the integer types (R183, R184, R186). -/

namespace Sys2Proof.Machine

/-! ### Low bits of an operand and of a result (R135, R183) -/

theorem tyWidth_le (t : Nat) : tyWidth t ≤ 64 := by unfold tyWidth; split <;> decide

theorem ofNat_mod_pow (w n : Nat) : BitVec.ofNat w (n % 2 ^ w) = BitVec.ofNat w n :=
  BitVec.eq_of_toNat_eq (by rw [BitVec.toNat_ofNat, BitVec.toNat_ofNat, Nat.mod_mod])

theorem Opnd.low_eq_ofNat (o : Opnd) {w : Nat} (h : w ≤ 64) : o.low w = BitVec.ofNat w o.word := by
  rw [← BitVec.setWidth_ofNat_of_le h, Opnd.ofNat_word, Opnd.low, Opnd.low, BitVec.setWidth_setWidth_of_le _ h]

theorem Opnd.low_toNat (o : Opnd) {w : Nat} (h : w ≤ 64) : (o.low w).toNat = o.word % 2 ^ w := by
  rw [Opnd.low_eq_ofNat o h, BitVec.toNat_ofNat]

/-- The low bits of an integer's low bits. -/
theorem setWidth_ofInt_of_le {v w : Nat} (h : v ≤ w) (z : Int) : (BitVec.ofInt w z).setWidth v = BitVec.ofInt v z := by
  have hdvd : ((2 ^ v : Nat) : Int) ∣ ((2 ^ w : Nat) : Int) := Int.natCast_dvd_natCast.mpr (Nat.pow_dvd_pow 2 h)
  apply BitVec.eq_of_toNat_eq
  rw [BitVec.toNat_setWidth, BitVec.toNat_ofInt, BitVec.toNat_ofInt, ← Int.emod_emod_of_dvd z hdvd]
  have h0 := Int.emod_nonneg z (b := ((2 ^ w : Nat) : Int)) (by positivity)
  lift z % ((2 ^ w : Nat) : Int) to Nat using h0 with n
  rfl

/-- Extension through bit 63 keeps the value that a type gives some bits. -/
theorem extended_eq_ofInt (t : Nat) {p : Nat} (x : BitVec p) : extended t x = BitVec.ofInt 64 (valueIn (tySigned t) x) := by
  unfold extended valueIn
  split
  · rfl
  · exact setWidth_eq_ofInt 64 x

theorem ofInt_valueIn_extended (t : Nat) {p : Nat} (x : BitVec p) :
    BitVec.ofInt (tyWidth t) (valueIn (tySigned t) x) = (extended t x).setWidth (tyWidth t) := by
  rw [extended_eq_ofInt, setWidth_ofInt_of_le (tyWidth_le t)]

section
variable {s : State} {r : NodeRec}

/-- A bitwise node sends the low bits of its result, extended. -/
theorem bitNode_sends {f : Nat → Nat → Nat → Nat} {y : BitVec (tyWidth r.ty.toNat)}
    (h : BitVec.ofNat (tyWidth r.ty.toNat) (f (tyWidth r.ty.toNat) ((argsCtl s r s.firing).a.low (tyWidth r.ty.toNat)).toNat
      (argsCtl s r s.firing).b.word) = y) :
    bitNode s r f = .next (sendsWord s r (extended r.ty.toNat y) 0) := by
  rw [bitNode, ctlNode_eq]
  simp only [wrap64_eq, ← Opnd.low_toNat _ (tyWidth_le _), BitVec.ofInt_natCast, ofNat_mod_pow, h]

end

/-! ### Logic and shifts (R183, R184) -/

section
variable {w : Nat} (x : BitVec w) (k : Nat)

theorem ofNat_and_toNat (y : Nat) : BitVec.ofNat w (x.toNat &&& y) = x &&& BitVec.ofNat w y := by
  rw [BitVec.ofNat_and, BitVec.ofNat_toNat, BitVec.setWidth_eq]

theorem ofNat_or_toNat (y : Nat) : BitVec.ofNat w (x.toNat ||| y) = x ||| BitVec.ofNat w y := by
  rw [BitVec.ofNat_or, BitVec.ofNat_toNat, BitVec.setWidth_eq]

theorem ofNat_xor_toNat (y : Nat) : BitVec.ofNat w (x.toNat ^^^ y) = x ^^^ BitVec.ofNat w y := by
  rw [BitVec.ofNat_xor, BitVec.ofNat_toNat, BitVec.setWidth_eq]

theorem ofNat_compl_toNat : BitVec.ofNat w (2 ^ w - 1 - x.toNat) = ~~~x := by
  rw [← BitVec.toNat_not, BitVec.ofNat_toNat, BitVec.setWidth_eq]

theorem ofNat_compl (n : Nat) : BitVec.ofNat w (2 ^ w - 1 - n % 2 ^ w) = ~~~BitVec.ofNat w n := by
  rw [← ofNat_compl_toNat, BitVec.toNat_ofNat]

theorem ofNat_mul_pow (n : Nat) : BitVec.ofNat w (n * 2 ^ k) = BitVec.ofNat w n <<< k := by
  rw [BitVec.ofNat_mul, ← BitVec.mul_twoPow_eq_shiftLeft, ← ofInt_pow_two, BitVec.ofInt_natCast]

theorem ofNat_shl : BitVec.ofNat w (if w ≤ k then 0 else x.toNat * 2 ^ k) = x <<< k := by
  split
  · rw [BitVec.shiftLeft_eq_zero ‹_›]
  · rw [ofNat_mul_pow, BitVec.ofNat_toNat, BitVec.setWidth_eq]

theorem ofNat_shr : BitVec.ofNat w (if w ≤ k then 0 else x.toNat / 2 ^ k) = x >>> k := by
  split
  · rw [BitVec.ushiftRight_eq_zero ‹_›]
  · rw [← Nat.shiftRight_eq_div_pow, ← BitVec.toNat_ushiftRight, BitVec.ofNat_toNat, BitVec.setWidth_eq]

/-- Shifting by the width or more leaves copies of the sign. -/
theorem sshiftRight_min : x.sshiftRight (min k w) = x.sshiftRight k := by
  rcases Nat.le_total k w with h | h
  · rw [Nat.min_eq_left h]
  · apply BitVec.eq_of_getLsbD_eq
    intro i hi
    rw [Nat.min_eq_right h, BitVec.getLsbD_sshiftRight, BitVec.getLsbD_sshiftRight, if_neg (by omega), if_neg (by omega)]

/-- An arithmetic shift divides the value and rounds down. -/
theorem toInt_div_pow : x.toInt / ((2 ^ k : Nat) : Int) = (x.sshiftRight k).toInt := by
  rw [BitVec.toInt_sshiftRight, Int.shiftRight_eq_div_pow]

theorem ofNat_sar : BitVec.ofNat w (sarBits w x.toNat k) = x.sshiftRight k := by
  rw [sarBits, natMod_eq, signedVal_eq, BitVec.ofNat_toNat, BitVec.ofNat_toNat, BitVec.setWidth_eq, BitVec.setWidth_eq,
    toInt_div_pow, BitVec.ofInt_toInt, sshiftRight_min]

/-- The two parts of a rotation share no bit. -/
theorem ofNat_rol (hw : 0 < w) : BitVec.ofNat w (rolBits w x.toNat k) = x.rotateLeft k := by
  have hr : k % w < w := Nat.mod_lt _ hw
  have hsplit : 2 ^ w = 2 ^ (w - k % w) * 2 ^ (k % w) := by rw [← pow_add, Nat.sub_add_cancel hr.le]
  have hlow : x.toNat / 2 ^ (w - k % w) < 2 ^ (k % w) := Nat.div_lt_of_lt_mul (hsplit ▸ x.isLt)
  apply BitVec.eq_of_toNat_eq
  rw [BitVec.toNat_rotateLeft, BitVec.toNat_ofNat, rolBits, Nat.shiftLeft_eq, Nat.shiftRight_eq_div_pow]
  conv_rhs => rw [hsplit, Nat.mul_mod_mul_right, ← Nat.shiftLeft_eq, ← Nat.shiftLeft_add_eq_or_of_lt hlow, Nat.shiftLeft_eq,
    ← Nat.mul_mod_mul_right, ← hsplit]
  apply Nat.mod_eq_of_lt
  rw [hsplit, Nat.mul_mod_mul_right]
  have hhigh : x.toNat % 2 ^ (w - k % w) + 1 ≤ 2 ^ (w - k % w) := Nat.mod_lt _ (by positivity)
  calc _ < (x.toNat % 2 ^ (w - k % w) + 1) * 2 ^ (k % w) := by rw [Nat.add_one_mul]; exact Nat.add_lt_add_left hlow _
    _ ≤ _ := Nat.mul_le_mul_right _ hhigh

end

/-! ### Counts (R183) -/

theorem lt_two_pow_bitLen (m : Nat) : m < 2 ^ bitLen m := by
  by_cases h : m = 0
  · subst h; decide
  · exact (bitLen_bounds h).2.2

section
variable {w : Nat} (x : BitVec w)

/-- The bits of a word above the length of its number are 0. -/
theorem getMsbD_above {i : Nat} (hi : i < w - bitLen x.toNat) : x.getMsbD i = false := by
  have hlt : x.toNat < 2 ^ (w - 1 - i) :=
    (lt_two_pow_bitLen x.toNat).trans_le (Nat.pow_le_pow_right (by decide) (by omega))
  rw [BitVec.getMsbD_eq_getLsbD, BitVec.getLsbD, Nat.testBit_lt_two_pow hlt, Bool.and_false]

/-- The highest bit of the number is 1. -/
theorem getMsbD_top (hi : w - bitLen x.toNat < w) : x.getMsbD (w - bitLen x.toNat) = true := by
  have h0 : x.toNat ≠ 0 := fun h => by simp [h, bitLen] at hi
  obtain ⟨h1, hlo, hhi⟩ := bitLen_bounds h0
  have hw : bitLen x.toNat - 1 < w := (Nat.pow_lt_pow_iff_right (by decide)).mp (hlo.trans_lt x.isLt)
  have htop : w - 1 - (w - bitLen x.toNat) = bitLen x.toNat - 1 := by omega
  rw [BitVec.getMsbD_eq_getLsbD, BitVec.getLsbD, htop, decide_eq_true hi, Bool.true_and]
  exact Nat.testBit_of_two_pow_le_and_two_pow_add_one_gt hlo (by rwa [Nat.sub_add_cancel h1])

theorem popBits_eq (n : Nat) : popBits x.toNat n = ((List.range n).filter fun i => x.getLsbD i).length := by
  induction n with
  | zero => rfl
  | succ n ih =>
    rw [popBits, ih, List.range_succ, List.filter_append, List.length_append]
    congr 1
    rw [List.filter_singleton, BitVec.getLsbD, Nat.testBit_eq_decide_div_mod_eq]
    rcases Nat.mod_two_eq_zero_or_one (x.toNat / 2 ^ n) with h | h <;> rw [h] <;> rfl

end

/-- A count of at most the width is a value of its type. -/
theorem extended_count {t n : Nat} (h8 : t < 8) (hn : n ≤ tyWidth t) :
    extended t (BitVec.ofNat (tyWidth t) n) = BitVec.ofNat 64 n := by
  have hrange : tyMin t ≤ 0 ∧ (tyWidth t : Int) ≤ tyMax t := by interval_cases t <;> decide
  rw [extended_eq_ofInt, ← BitVec.ofInt_natCast, valueIn_ofInt (by omega) (by omega), BitVec.ofInt_natCast]

/-! ### Bit fields (R186) -/

theorem ofNat_extPay (t : Nat) (o : Opnd) : BitVec.ofNat 64 (extPay t o) = extended t (o.low (tyWidth t)) := by
  rw [extPay, Opnd.int_eq, wrap64_eq, ofInt_valueIn]

section
variable (y : BitVec 64) {len : Nat} (hlen : len ≤ 64)

theorem getLsbD_lowMask (len i : Nat) : (BitVec.ofNat 64 (2 ^ len - 1)).getLsbD i = (decide (i < 64) && decide (i < len)) := by
  rw [BitVec.getLsbD_ofNat, Nat.testBit_two_pow_sub_one]

/-- A field of n bits extended by zeros is a mask. -/
theorem setWidth_field : (y.setWidth len).setWidth 64 = y &&& BitVec.ofNat 64 (2 ^ len - 1) := by
  apply BitVec.eq_of_getLsbD_eq
  intro i hi
  rw [BitVec.getLsbD_setWidth, BitVec.getLsbD_setWidth, BitVec.getLsbD_and, getLsbD_lowMask, decide_eq_true hi, Bool.true_and,
    Bool.true_and, Bool.and_comm]

include hlen

/-- A field extended by its sign is two shifts. -/
theorem signExtend_field (h0 : 0 < len) : (y.setWidth len).signExtend 64 =
    ((y &&& BitVec.ofNat 64 (2 ^ len - 1)) <<< (64 - len)).sshiftRight (64 - len) := by
  have hbit : ∀ j, j < len → ((y &&& BitVec.ofNat 64 (2 ^ len - 1)) <<< (64 - len)).getLsbD (64 - len + j) = y.getLsbD j := by
    intro j hj
    rw [BitVec.getLsbD_shiftLeft, BitVec.getLsbD_and, getLsbD_lowMask]
    simp [hj, show 64 - len + j < 64 by omega, show j < 64 by omega]
  have hmsb : ((y &&& BitVec.ofNat 64 (2 ^ len - 1)) <<< (64 - len)).msb = y.getLsbD (len - 1) := by
    rw [BitVec.msb_eq_getLsbD_last, ← hbit (len - 1) (by omega), show 64 - len + (len - 1) = 64 - 1 by omega]
  apply BitVec.eq_of_getLsbD_eq
  intro i hi
  rw [BitVec.getLsbD_signExtend, BitVec.getLsbD_sshiftRight, hmsb, BitVec.msb_eq_getLsbD_last, BitVec.getLsbD_setWidth,
    BitVec.getLsbD_setWidth]
  by_cases h : i < len
  · rw [if_pos h, if_pos (by omega), hbit i h]
    simp [h, hi]
  · simp [h, hi, h0, show ¬ 64 - len + i < 64 by omega]

/-- BFX's number is the value of the field in its type. -/
theorem bfx_value (sg : Bool) :
    (if len = 0 then (0 : Int) else if sg then signedVal len (natMod y.toInt len) else (natMod y.toInt len : Int)) =
      valueIn sg (y.setWidth len) := by
  have hfield : natMod y.toInt len = (y.setWidth len).toNat := by
    rw [natMod_eq, ← setWidth_ofInt_of_le hlen, BitVec.ofInt_toInt]
  rw [hfield, signedVal_eq, BitVec.ofNat_toNat, BitVec.setWidth_eq]
  split
  · subst len
    rw [BitVec.of_length_zero (x := y.setWidth 0), valueIn_zero]
  · rfl

/-- BFX's word: the field extended by its sign or by zeros. -/
theorem extended_field (t : Nat) : extended t (y.setWidth len) =
    if len = 0 then 0#64
    else if tySigned t then ((y &&& BitVec.ofNat 64 (2 ^ len - 1)) <<< (64 - len)).sshiftRight (64 - len)
    else y &&& BitVec.ofNat 64 (2 ^ len - 1) := by
  split
  · subst len
    rw [extended_eq_ofInt, BitVec.of_length_zero (x := y.setWidth 0), valueIn_zero]
    rfl
  · rw [extended, setWidth_field, signExtend_field y hlen (by omega)]

end

section
variable {s : State} {r : NodeRec}

theorem execClz_sends (h8 : r.ty.toNat < 8) :
    let x := (argsCtl s r s.firing).a.low (tyWidth r.ty.toNat)
    exec (.clz r) s = .next (sendsWord s r (BitVec.ofNat 64 (tyWidth r.ty.toNat - bitLen x.toNat)) 0) := by
  intro x
  rw [← extended_count h8 (Nat.sub_le ..)]
  exact show execClz r s = _ from bitNode_sends rfl

theorem execPop_sends (h8 : r.ty.toNat < 8) :
    let x := (argsCtl s r s.firing).a.low (tyWidth r.ty.toNat)
    exec (.pop r) s = .next (sendsWord s r
      (BitVec.ofNat 64 ((List.range (tyWidth r.ty.toNat)).filter fun i => x.getLsbD i).length) 0) := by
  intro x
  have hn : ((List.range (tyWidth r.ty.toNat)).filter fun i => x.getLsbD i).length ≤ tyWidth r.ty.toNat :=
    (List.length_filter_le ..).trans_eq List.length_range
  rw [← extended_count h8 hn, ← popBits_eq]
  exact show execPop r s = _ from bitNode_sends rfl

theorem execBfx_sends {lo len : Nat} (hlo : (argsCtl s r s.firing).b.word % 64 = lo)
    (hlen : min ((argsCtl s r s.firing).b.word / 64 % 128) 64 = len) :
    let e := extended r.ty.toNat ((argsCtl s r s.firing).a.low (tyWidth r.ty.toNat))
    exec (.bfx r) s = .next (sendsWord s r
      (extended r.ty.toNat ((extended r.ty.toNat ((e.sshiftRight lo).setWidth len)).setWidth (tyWidth r.ty.toNat))) 0) := by
  intro e
  have h64 : len ≤ 64 := hlen ▸ Nat.min_le_right ..
  show Host.Outcome.next (ctlNode s r _) = _
  rw [ctlNode_eq]
  simp only [hlo, hlen, signedVal_eq 64, ofNat_extPay, toInt_div_pow, bfx_value _ h64, wrap64_eq, ofInt_valueIn_extended]
  rfl

theorem execBfi_sends {lo len : Nat} (hlo : (argsCtl s r s.firing).c.word % 64 = lo)
    (hlen : min ((argsCtl s r s.firing).c.word / 64 % 128) 64 = len) :
    let m := BitVec.ofNat 64 (2 ^ len - 1) <<< lo
    exec (.bfi r) s = .next (sendsWord s r (extended r.ty.toNat (BitVec.setWidth (tyWidth r.ty.toNat)
      ((extended r.ty.toNat ((argsCtl s r s.firing).a.low (tyWidth r.ty.toNat)) &&& ~~~m) |||
        ((extended r.ty.toNat ((argsCtl s r s.firing).b.low (tyWidth r.ty.toNat)) <<< lo) &&& m)))) 0) := by
  intro m
  show Host.Outcome.next (ctlNode s r _) = _
  rw [ctlNode_eq]
  simp only [hlo, hlen, wrap64_eq, Int.ofNat_eq_natCast, BitVec.ofInt_natCast]
  rw [← BitVec.setWidth_ofNat_of_le (tyWidth_le _)]
  simp only [BitVec.ofNat_or, BitVec.ofNat_and, ofNat_compl, ofNat_mod_pow, ofNat_mul_pow, ofNat_extPay]
  rfl

theorem execExt_sends (hv : r.var.toNat < 3) :
    exec (.ext r) s = .next (sendsWord s r (extended r.ty.toNat
      ((extended r.ty.toNat ((argsCtl s r s.firing).a.low (8 * 2 ^ r.var.toNat))).setWidth (tyWidth r.ty.toNat))) 0) := by
  have hw : 8 * 2 ^ r.var.toNat ≤ 64 :=
    Nat.mul_le_mul_left 8 (Nat.pow_le_pow_right (n := 2) (by decide) (show r.var.toNat ≤ 3 by omega))
  show Host.Outcome.next (ctlNode s r _) = _
  rw [ctlNode_eq]
  simp only [← Opnd.low_toNat _ hw, signedVal_eq, BitVec.ofNat_toNat, BitVec.setWidth_eq, wrap64_eq]
  rw [← ofInt_valueIn_extended]
  rfl

end

/-- Settles O2: each node sends the low bits of its result (`bitNode_sends`), which are those of the bit vector's own operation;
a field is cut from and set into the extended payload. -/
theorem integerBitsShiftsAndFields : Obligations.IntegerBitsShiftsAndFields := by
  unfold Obligations.IntegerBitsShiftsAndFields
  refine ⟨fun r s _ => ?_, fun r s h8 => ?_⟩
  · intro t a x y k
    have hy : BitVec.ofNat (tyWidth t) k = y := (Opnd.low_eq_ofNat _ (tyWidth_le t)).symm
    refine ⟨show execAnd r s = _ from bitNode_sends ?_, show execOr r s = _ from bitNode_sends ?_,
      show execXor r s = _ from bitNode_sends ?_, show execNot r s = _ from bitNode_sends (ofNat_compl_toNat x),
      show execAndn r s = _ from bitNode_sends ?_, show execShl r s = _ from bitNode_sends (ofNat_shl x k),
      show execShr r s = _ from bitNode_sends (ofNat_shr x k), show execSar r s = _ from bitNode_sends (ofNat_sar x k),
      show execRol r s = _ from bitNode_sends (ofNat_rol x k (tyWidth_pos t))⟩
    · rw [ofNat_and_toNat, hy]
    · rw [ofNat_or_toNat, hy]
    · rw [ofNat_xor_toNat, hy]
    · rw [ofNat_and_toNat, ofNat_compl, hy]
  · intro t w sg a x e field
    exact ⟨⟨w - bitLen x.toNat, Nat.sub_le .., fun _ => getMsbD_above x, getMsbD_top x, execClz_sends h8⟩, execPop_sends h8,
      (execBfx_sends rfl rfl).trans (by rw [extended_field _ (Nat.min_le_right ..)]), execBfi_sends rfl rfl, execExt_sends⟩

end Sys2Proof.Machine
end

section
/-! PROOF. Data nodes that work lane by lane on integers and bits (R188, R189, R191, R197). -/

namespace Sys2Proof.Machine

/-! ### Lanes as bit vectors (R188) -/

theorem ofNat_toNat_self {w : Nat} (x : BitVec w) : BitVec.ofNat w x.toNat = x := by
  rw [BitVec.ofNat_toNat, BitVec.setWidth_eq]

theorem ofNat_laneAt (w : Nat) (x : Payload) (i : Nat) : BitVec.ofNat w (laneAt w x i) = laneV w x i := by
  rw [laneAt_eq, ofNat_toNat_self]

theorem intVal_lane {t w : Nat} (hw : tyWidth t = w) (x : Payload) (i : Nat) :
    intVal t (laneAt w x i) = valueIn (tySigned t) (laneV w x i) := by
  subst hw
  rw [intVal_eq, ofNat_laneAt]

theorem ofNat_wrapLane {t w : Nat} (hw : tyWidth t = w) (z : Int) : BitVec.ofNat w (wrapLane t z) = BitVec.ofInt w z := by
  subst hw
  rw [wrapLane_eq, ofNat_toNat_self]

theorem getD_map_range (f : Nat → Nat) (n i : Nat) : ((List.range n).map f).getD i 0 = if i < n then f i else 0 := by
  by_cases h : i < n <;> simp [h]

/-- Lanes of three payloads combined are the combinations of the lanes of each number. -/
theorem zip3_lanesOf {α : Type} (f : Nat → Nat → Nat → α) (w : Nat) (a b c : Payload) :
    zip3 f (lanesOf w a) (lanesOf w b) (lanesOf w c) =
      (List.range (512 / w)).map fun i => f (laneAt w a i) (laneAt w b i) (laneAt w c i) := by
  simp only [zip3, lanesOf, List.zip_map', List.map_map]
  rfl

/-! ### Flags of lanes (R189) -/

theorem lanesFlags_succ (n : Nat) (f : Nat → Flags) : lanesFlags (n + 1) f = lanesFlags n f ||| f n := by
  rw [lanesFlags, List.range_succ, List.foldl_append]
  rfl

/-- A flag that each lane sets unless it satisfies `p` is set unless all do. -/
theorem lanesFlags_unless (fl : Flags) (p : Nat → Prop) [DecidablePred p] : ∀ (n : Nat) [Decidable (∀ j, j < n → p j)],
    lanesFlags n (fun j => if p j then 0 else fl) = if ∀ j, j < n → p j then 0 else fl
  | 0, _ => (if_pos fun j hj => absurd hj (Nat.not_lt_zero j)).symm
  | n + 1, _ => by
    have hall : (∀ j, j < n + 1 → p j) ↔ (∀ j, j < n → p j) ∧ p n := Nat.forall_lt_succ_right
    rw [lanesFlags_succ, lanesFlags_unless fl p n]
    by_cases hn : p n
    · simp only [hall, hn, and_true, if_true]
      exact BitVec.or_zero
    · simp only [hall, hn, and_false, if_false]
      split
      · exact BitVec.zero_or
      · exact BitVec.or_self

/-! ### Data nodes, lane by lane (R189, R191) -/

/-- The lanes of the operands of a data node, as its type lays them out. -/
abbrev aLane (s : State) (r : NodeRec) : Nat → BitVec (tyWidth r.ty.toNat) :=
  laneV (tyWidth r.ty.toNat) (argsData s r s.firing).a.val
abbrev bLane (s : State) (r : NodeRec) : Nat → BitVec (tyWidth r.ty.toNat) :=
  laneV (tyWidth r.ty.toNat) (argsData s r s.firing).b.val
abbrev cLane (s : State) (r : NodeRec) : Nat → BitVec (tyWidth r.ty.toNat) :=
  laneV (tyWidth r.ty.toNat) (argsData s r s.firing).c.val

section
variable {s : State} {r : NodeRec}

/-- A data node whose payload is made of one number for each lane sends the low bits of those numbers. -/
theorem sendsLanes_of_map {o : Host.Outcome State Fault Refusal} {w : Nat} {f : Nat → Nat} {g : Nat → BitVec w} {fl : Flags}
    (ho : o = .next (sendsData s r (ofLanes w ((List.range (512 / w)).map f)) false fl))
    (hf : ∀ i, i < 512 / w → BitVec.ofNat w (f i) = g i) : sendsLanes o s r w g fl :=
  sendsLanes_of_ofLanes ho fun i hi => by rw [getD_map_range, if_pos hi, hf i hi]

/-- A node on raw lanes sends what its function gives for the lanes of each number, and sets no flag. -/
theorem vecBits_sends {f : Nat → Nat → Nat → Nat → Nat}
    (g : BitVec (tyWidth r.ty.toNat) → BitVec (tyWidth r.ty.toNat) → BitVec (tyWidth r.ty.toNat) → BitVec (tyWidth r.ty.toNat))
    (h : ∀ x y z, BitVec.ofNat (tyWidth r.ty.toNat) (f (tyWidth r.ty.toNat) x.toNat y.toNat z.toNat) = g x y z) :
    sendsLanes (vecBits s r f) s r (tyWidth r.ty.toNat) (fun j => g (aLane s r j) (bLane s r j) (cLane s r j)) 0 := by
  refine sendsLanes_of_map (f := fun j => f _ (aLane s r j).toNat (bLane s r j).toNat (cLane s r j).toNat) ?_ fun j _ => h _ _ _
  rw [vecBits, dataNode_eq]
  simp only [zip3_lanesOf, laneAt_eq, laneBits]

/-- A wrapping node sends the low bits of each lane's exact result, and sets no flag (R191). -/
theorem vecInt_wraps {f : Int → Int → Int → Int} {g : Nat → BitVec (tyWidth r.ty.toNat)}
    (h : ∀ j, BitVec.ofInt (tyWidth r.ty.toNat) (f (valueIn (tySigned r.ty.toNat) (aLane s r j))
      (valueIn (tySigned r.ty.toNat) (bLane s r j)) (valueIn (tySigned r.ty.toNat) (cLane s r j))) = g j) :
    sendsLanes (vecInt s r false f) s r (tyWidth r.ty.toNat) g 0 := by
  refine sendsLanes_of_map (f := fun j => wrapLane r.ty.toNat (f (valueIn (tySigned r.ty.toNat) (aLane s r j))
    (valueIn (tySigned r.ty.toNat) (bLane s r j)) (valueIn (tySigned r.ty.toNat) (cLane s r j)))) ?_
    fun j _ => (ofNat_wrapLane rfl _).trans (h j)
  rw [vecInt, dataNode_eq]
  simp only [zip3_lanesOf, List.map_map, orFlags_map_range, laneBits, intVal_lane rfl, Function.comp_def, Bool.false_eq_true, if_false,
    lanesFlags_zero]

/-- A saturating node clamps each lane's exact result, and sets SAT unless every lane holds its own (R191). -/
theorem vecInt_clamps {f : Int → Int → Int → Int} {e : Nat → Int}
    (h : ∀ j, f (valueIn (tySigned r.ty.toNat) (aLane s r j)) (valueIn (tySigned r.ty.toNat) (bLane s r j))
      (valueIn (tySigned r.ty.toNat) (cLane s r j)) = e j) :
    sendsLanes (vecInt s r true f) s r (tyWidth r.ty.toNat)
      (fun j => BitVec.ofInt (tyWidth r.ty.toNat) (max (tyMin r.ty.toNat) (min (tyMax r.ty.toNat) (e j))))
      (if ∀ j, j < 512 / tyWidth r.ty.toNat → tyMin r.ty.toNat ≤ e j ∧ e j ≤ tyMax r.ty.toNat then 0 else fSAT) := by
  refine sendsLanes_of_map (f := fun j => wrapLane r.ty.toNat (max (tyMin r.ty.toNat) (min (tyMax r.ty.toNat) (e j)))) ?_
    fun j _ => ofNat_wrapLane rfl _
  rw [vecInt, dataNode_eq, ← lanesFlags_unless]
  simp only [zip3_lanesOf, List.map_map, orFlags_map_range, laneBits, intVal_lane rfl, Function.comp_def, if_true, satInt_eq, h]

/-- VADD, VSUB and VMUL: VAR selects wrap or sat (R191). -/
theorem vecInt_wraps_or_clamps (f : Int → Int → Int) {o : Host.Outcome State Fault Refusal}
    (ho : o = vecInt s r (r.var == 1#4) fun a b _ => f a b) :
    let e := fun j => f (valueIn (tySigned r.ty.toNat) (aLane s r j)) (valueIn (tySigned r.ty.toNat) (bLane s r j))
    (r.var ≠ 1#4 → sendsLanes o s r (tyWidth r.ty.toNat) (fun j => BitVec.ofInt (tyWidth r.ty.toNat) (e j)) 0) ∧
    (r.var = 1#4 → sendsLanes o s r (tyWidth r.ty.toNat)
      (fun j => BitVec.ofInt (tyWidth r.ty.toNat) (max (tyMin r.ty.toNat) (min (tyMax r.ty.toNat) (e j))))
      (if ∀ j, j < 512 / tyWidth r.ty.toNat → tyMin r.ty.toNat ≤ e j ∧ e j ≤ tyMax r.ty.toNat then 0 else fSAT)) := by
  intro e
  constructor <;> intro hv
  · rw [ho, beq_false_of_ne hv]
    exact vecInt_wraps fun _ => rfl
  · rw [ho, hv, beq_self_eq_true]
    exact vecInt_clamps fun _ => rfl

end

/-- Settles O18: each node is `vecInt` of its exact result, whose low bits are those of the same operation on bit vectors. -/
theorem vectorIntegersWrapOrSaturate : Obligations.VectorIntegersWrapOrSaturate := by
  unfold Obligations.VectorIntegersWrapOrSaturate
  intro r s _ w sg a x y z least most
  refine ⟨fun i f hif => ?_, show sendsLanes (execVmad r s) .. from vecInt_wraps fun j => ?_,
    show sendsLanes (execVmin r s) .. from vecInt_wraps fun j => ?_, show sendsLanes (execVmax r s) .. from vecInt_wraps fun j => ?_,
    show sendsLanes (execVabs r s) .. from vecInt_wraps fun j => ofInt_abs sg (x j)⟩
  · have hmin : tyMin r.ty.toNat = least := tyMin_eq _
    have hmax : tyMax r.ty.toNat = most := tyMax_eq _
    rw [← hmin, ← hmax]
    simp only [List.mem_cons, Prod.mk.injEq, List.not_mem_nil, or_false] at hif
    rcases hif with ⟨rfl, rfl⟩ | ⟨rfl, rfl⟩ | ⟨rfl, rfl⟩ <;> exact vecInt_wraps_or_clamps _ rfl
  · rw [BitVec.ofInt_add, BitVec.ofInt_mul, ofInt_valueIn, ofInt_valueIn, ofInt_valueIn]
  · simp only [valueIn_lt, apply_ite (BitVec.ofInt _), ofInt_valueIn]; rfl
  · simp only [valueIn_lt, apply_ite (BitVec.ofInt _), ofInt_valueIn]; rfl

theorem ofNat_allOnes (w : Nat) : BitVec.ofNat w (2 ^ w - 1) = BitVec.allOnes w := by
  rw [← BitVec.toNat_allOnes, ofNat_toNat_self]

/-- A lane is true when any of its bits is 1 (R189). -/
theorem toNat_ne_zero {w : Nat} (x : BitVec w) : x.toNat ≠ 0 ↔ x ≠ 0#w := BitVec.toNat_ne_iff_ne (y := 0#w)

section
variable {s : State} {r : NodeRec}

/-- VCMP sends a mask of the lanes whose relation holds (R131, R191). -/
theorem execVcmp_sends : sendsLanes (exec (.vcmp r) s) s r (tyWidth r.ty.toNat)
    (fun j => if relationIn (tySigned r.ty.toNat) r.var.toNat (aLane s r j) (bLane s r j) then BitVec.allOnes (tyWidth r.ty.toNat)
      else 0#(tyWidth r.ty.toNat)) 0 := by
  show sendsLanes (execVcmp r s) ..
  unfold execVcmp
  refine vecBits_sends (fun p q _ => if relationIn (tySigned r.ty.toNat) r.var.toNat p q then BitVec.allOnes _ else 0#_)
    fun p q _ => ?_
  rw [intVal_eq, intVal_eq, ofNat_toNat_self, ofNat_toNat_self, relHolds_compare, apply_ite (BitVec.ofNat _), ofNat_allOnes]

/-- VMASK sends one bit for each lane, its truth (R197). -/
theorem execVmask_sends : sendsLanes (exec (.vmask r) s) s r 1
    (fun j => BitVec.ofBool (decide (j < 512 / tyWidth r.ty.toNat) && decide (aLane s r j ≠ 0#_))) 0 := by
  refine sendsLanes_of_ofLanes (xs := (List.range (512 / tyWidth r.ty.toNat)).map fun j => if (aLane s r j).toNat ≠ 0 then 1 else 0) ?_
    fun j _ => ?_
  · show Host.Outcome.next (dataNode s r _) = _
    rw [dataNode_eq]
    simp only [lanesOf, List.map_map, Function.comp_def, laneBits, laneAt_eq]
  · rw [getD_map_range]
    by_cases hj : j < 512 / tyWidth r.ty.toNat
    · by_cases hx : aLane s r j = 0#_ <;> simp [hj, hx, toNat_ne_zero]
    · simp [hj]

end

/-- Settles O19: each node is `vecBits` of a function on the numbers of its lanes, which is the same operation on bit vectors. -/
theorem vectorBitsMasksAndShifts : Obligations.VectorBitsMasksAndShifts := by
  unfold Obligations.VectorBitsMasksAndShifts
  intro r s w sg a x y z
  refine ⟨fun _ => ⟨?_, ?_, ?_, ?_, ?_, fun _ => ?_, ?_⟩, fun _ => ⟨?_, execVmask_sends⟩⟩
  · exact show sendsLanes (execVand r s) .. from vecBits_sends (fun p q _ => p &&& q) fun p q _ => by
      rw [ofNat_and_toNat, ofNat_toNat_self]
  · exact show sendsLanes (execVor r s) .. from vecBits_sends (fun p q _ => p ||| q) fun p q _ => by
      rw [ofNat_or_toNat, ofNat_toNat_self]
  · exact show sendsLanes (execVxor r s) .. from vecBits_sends (fun p q _ => p ^^^ q) fun p q _ => by
      rw [ofNat_xor_toNat, ofNat_toNat_self]
  · exact show sendsLanes (execVshl r s) .. from vecBits_sends (fun p q _ => p <<< q.toNat) fun p q _ => by
      rw [apply_ite (BitVec.ofNat _), ofNat_mod_pow, ← apply_ite (BitVec.ofNat _), ofNat_shl]
  · refine show sendsLanes (execVshr r s) .. from vecBits_sends
      (fun p q _ => if sg then p.sshiftRight q.toNat else p >>> q.toNat) fun p q _ => ?_
    rw [apply_ite (BitVec.ofNat w), ofNat_sar, ofNat_shr]
  · exact execVcmp_sends
  · exact show sendsLanes (execVpopc r s) .. from vecBits_sends
      (fun p _ _ => BitVec.ofNat w ((List.range w).filter fun k => p.getLsbD k).length) fun p _ _ => by rw [popBits_eq]
  · refine show sendsLanes (execVsel r s) .. from vecBits_sends (fun p q t => if p ≠ 0#w then t else q) fun p q t => ?_
    rw [apply_ite (BitVec.ofNat _), ofNat_toNat_self, ofNat_toNat_self]
    simp only [toNat_ne_zero]
    rfl

end Sys2Proof.Machine
end

section
/-! PROOF. Lane movement, packing and byte products (R192, R194, R195). -/

namespace Sys2Proof.Machine

/-! ### Lists of lanes (R188) -/

theorem map_range_append {α : Type} (f g : Nat → α) (n m : Nat) :
    (List.range n).map f ++ (List.range m).map g = (List.range (n + m)).map fun i => if i < n then f i else g (i - n) := by
  rw [List.range_add, List.map_append, List.map_map]
  congr 1
  · exact List.map_congr_left fun i hi => (if_pos (List.mem_range.mp hi)).symm
  · exact List.map_congr_left fun i _ => by simp

/-- The lanes of A, then those of B. -/
theorem lanesOf_append (w : Nat) (a b : Payload) : lanesOf w a ++ lanesOf w b =
    (List.range (2 * (512 / w))).map fun i => if i < 512 / w then laneAt w a i else laneAt w b (i - 512 / w) := by
  rw [lanesOf, lanesOf, map_range_append, two_mul]

section
variable {s : State} {r : NodeRec}

/-! ### Byte products (R192) -/

/-- The sum of four byte products, term by term. -/
theorem dot4_eq (bt : Nat) (a b : Payload) (i : Nat) (h8 : tyWidth bt = 8) :
    let p := fun j => valueIn (tySigned bt) (laneV 8 a (4 * i + j)) * valueIn (tySigned bt) (laneV 8 b (4 * i + j))
    dot4 bt a b i = p 0 + p 1 + p 2 + p 3 := by
  intro p
  have hp : ∀ j, intVal bt (laneAt 8 a (4 * i + j)) * intVal bt (laneAt 8 b (4 * i + j)) = p j := fun j => by
    rw [intVal_lane h8, intVal_lane h8]
  simp only [dot4, hp]
  show 0 + p 0 + p 1 + p 2 + p 3 = _
  rw [Int.zero_add]

theorem execVdot4_sends (hw : tyWidth r.ty.toNat = 32) :
    let a := argsData s r s.firing
    let p := fun i j => valueIn (tySigned r.ty.toNat) (laneV 8 a.a.val (4 * i + j)) *
      valueIn (tySigned r.ty.toNat) (laneV 8 a.b.val (4 * i + j))
    sendsLanes (exec (.vdot4 r) s) s r 32 (fun i => BitVec.ofInt 32 (valueIn (tySigned r.ty.toNat) (laneV 32 a.c.val i) +
      (p i 0 + p i 1 + p i 2 + p i 3))) 0 := by
  intro a p
  have hbt : ∀ sg : Bool, tyWidth (if sg then 0 else 4) = 8 ∧ tySigned (if sg then 0 else 4) = sg := by decide
  obtain ⟨h8, hsg⟩ := hbt (tySigned r.ty.toNat)
  refine show sendsLanes (.next (dataNode s r _)) .. from sendsLanes_of_map (congrArg _ (dataNode_eq ..)) fun i _ => ?_
  rw [ofNat_wrapLane hw, intVal_lane hw, dot4_eq _ _ _ _ h8, hsg]

/-! ### Lanes that move (R194) -/

theorem execVperm_sends : sendsLanes (exec (.vperm r) s) s r (tyWidth r.ty.toNat)
    (fun i => if (bLane s r i).toNat < 512 / tyWidth r.ty.toNat then aLane s r (bLane s r i).toNat else 0#_) 0 := by
  refine show sendsLanes (.next (dataNode s r _)) .. from sendsLanes_of_map
    (f := fun i => if (bLane s r i).toNat < 512 / tyWidth r.ty.toNat then
      laneAt (tyWidth r.ty.toNat) (argsData s r s.firing).a.val (bLane s r i).toNat else 0) ?_ fun i _ => ?_
  · rw [dataNode_eq]
    simp only [lanesOf, List.map_map, Function.comp_def, laneBits, laneAt_eq]
  · rw [apply_ite (BitVec.ofNat _), ofNat_laneAt]

theorem execVslide_up (hv : r.var = 0#4) :
    let k := (r.lit.extractLsb' 0 8).toNat
    sendsLanes (exec (.vslide r) s) s r (tyWidth r.ty.toNat) (fun i => if k ≤ i then aLane s r (i - k)
      else if r.ar == 1#3 then bLane s r (512 / tyWidth r.ty.toNat - k + i) else 0#_) 0 := by
  intro k
  refine show sendsLanes (.next (dataNode s r _)) .. from sendsLanes_of_map (congrArg _ (dataNode_eq ..)) fun i _ => ?_
  simp only [if_pos hv, apply_ite (BitVec.ofNat _), laneBits, ofNat_laneAt, bitsAt_eq]
  rfl

theorem execVslide_down (hv : r.var ≠ 0#4) :
    let k := (r.lit.extractLsb' 0 8).toNat
    sendsLanes (exec (.vslide r) s) s r (tyWidth r.ty.toNat) (fun i => if i + k < 512 / tyWidth r.ty.toNat then aLane s r (i + k)
      else if r.ar == 1#3 then bLane s r (i + k - 512 / tyWidth r.ty.toNat) else 0#_) 0 := by
  intro k
  refine show sendsLanes (.next (dataNode s r _)) .. from sendsLanes_of_map (congrArg _ (dataNode_eq ..)) fun i _ => ?_
  simp only [if_neg hv, apply_ite (BitVec.ofNat _), laneBits, ofNat_laneAt, bitsAt_eq]
  rfl

/-- A payload with one lane replaced. -/
theorem laneV_set (w : Nat) (x : Payload) (y j : Nat) {i : Nat} (hi : i < 512 / w) :
    laneV w (ofLanes w ((lanesOf w x).set j y)) i = if i = j then BitVec.ofNat w y else laneV w x i := by
  rw [laneV_ofLanes _ hi, List.getD_eq_getElem?_getD, List.getElem?_set, lanesOf, List.getElem?_map, List.getElem?_range hi]
  by_cases h : j = i
  · subst h; simp [hi]
  · simp [h, Ne.symm h, ofNat_laneAt]

/-- VINS beyond the last lane sends A poisoned. -/
theorem execVins_beyond (h : 512 / tyWidth r.ty.toNat ≤ (argsCtl s r s.firing).c.word) :
    let v := some ((argsCtl s r s.firing).a.val, true)
    exec (.vins r) s = .next (computed s r (argsCtl s r s.firing) s.sideband.stackNo.toNat s.firing.course.toNat true true v v 0) := by
  intro v
  show Host.Outcome.next (pureNode ..) = _
  rw [pureNode_eq]
  simp only [if_pos (show 512 / laneBits r.ty.toNat ≤ _ from h), v]

theorem execVins_within (h : (argsCtl s r s.firing).c.word < 512 / tyWidth r.ty.toNat) :
    let b := argsCtl s r s.firing
    let v := some (ofLanes (tyWidth r.ty.toNat) ((lanesOf (tyWidth r.ty.toNat) b.a.val).set b.c.word
      (b.b.val.toNat % 2 ^ tyWidth r.ty.toNat)), false)
    exec (.vins r) s = .next (computed s r b s.sideband.stackNo.toNat s.firing.course.toNat true true v v 0) := by
  intro b v
  show Host.Outcome.next (pureNode ..) = _
  rw [pureNode_eq]
  simp only [if_neg (show ¬ 512 / laneBits r.ty.toNat ≤ _ from Nat.not_le.mpr h)]
  rfl

theorem execViota_sends : sendsLanes (exec (.viota r) s) s r (tyWidth r.ty.toNat)
    (fun i => (if r.ar = 2#3 then bLane s r 0 else 0#_) + BitVec.ofNat _ i) 0 := by
  refine show sendsLanes (.next (dataNode s r _)) .. from sendsLanes_of_map (congrArg _ (dataNode_eq ..)) fun i _ => ?_
  rw [ofNat_wrapLane rfl, BitVec.ofInt_add, BitVec.ofInt_natCast, apply_ite (BitVec.ofInt _), laneBits, intVal_lane rfl, ofInt_valueIn]
  rfl

/-! ### Lanes of other widths (R195) -/

/-- The type of half the width has the same sign, and twice the lanes. -/
theorem halfTy_spec {t : Nat} (h8 : t < 8) (h16 : 16 ≤ tyWidth t) :
    tyWidth (halfTy t) = tyWidth t / 2 ∧ tySigned (halfTy t) = tySigned t ∧ 512 / (tyWidth t / 2) = 2 * (512 / tyWidth t) := by
  interval_cases t <;> revert h16 <;> decide

/-- The type of double the width has the same sign, and half the lanes. -/
theorem doubleTy_spec {t : Nat} (h8 : t < 8) (h32 : tyWidth t ≤ 32) :
    tyWidth (doubleTy t) = 2 * tyWidth t ∧ tySigned (doubleTy t) = tySigned t ∧ 512 / (2 * tyWidth t) = 512 / tyWidth t / 2 := by
  interval_cases t <;> revert h32 <;> decide

/-- The lanes of A, then those of B. -/
def abLane (s : State) (r : NodeRec) (i : Nat) : BitVec (tyWidth r.ty.toNat) :=
  if i < 512 / tyWidth r.ty.toNat then aLane s r i else bLane s r (i - 512 / tyWidth r.ty.toNat)

theorem lanesOf_append_abLane :
    lanesOf (tyWidth r.ty.toNat) (argsData s r s.firing).a.val ++ lanesOf (tyWidth r.ty.toNat) (argsData s r s.firing).b.val =
      (List.range (2 * (512 / tyWidth r.ty.toNat))).map fun i => (abLane s r i).toNat := by
  simp only [lanesOf_append, laneAt_eq, abLane, apply_ite BitVec.toNat]

theorem execVpack_wraps (h8 : r.ty.toNat < 8) (h16 : 16 ≤ tyWidth r.ty.toNat) (hv : r.var ≠ 1#4) :
    sendsLanes (exec (.vpack r) s) s r (tyWidth r.ty.toNat / 2) (fun i => (abLane s r i).setWidth _) 0 := by
  obtain ⟨-, -, hn⟩ := halfTy_spec h8 h16
  refine show sendsLanes (.next (dataNode s r _)) .. from sendsLanes_of_map
    (f := fun i => (abLane s r i).toNat % 2 ^ (tyWidth r.ty.toNat / 2)) ?_ fun i _ => ?_
  · rw [dataNode_eq]
    simp only [laneBits, lanesOf_append_abLane, List.map_map, Function.comp_def, if_neg hv, orFlags_map_range, lanesFlags_zero, hn]
  · rw [ofNat_mod_pow, BitVec.ofNat_toNat]

theorem execVpack_clamps (h8 : r.ty.toNat < 8) (h16 : 16 ≤ tyWidth r.ty.toNat) (hv : r.var = 1#4) :
    let h := halfTy r.ty.toNat
    let e := fun i => valueIn (tySigned r.ty.toNat) (abLane s r i)
    sendsLanes (exec (.vpack r) s) s r (tyWidth r.ty.toNat / 2) (fun i => BitVec.ofInt _ (max (tyMin h) (min (tyMax h) (e i))))
      (if ∀ i, i < 2 * (512 / tyWidth r.ty.toNat) → tyMin h ≤ e i ∧ e i ≤ tyMax h then 0 else fSAT) := by
  intro h e
  obtain ⟨hw, -, hn⟩ := halfTy_spec h8 h16
  refine show sendsLanes (.next (dataNode s r _)) .. from sendsLanes_of_map
    (f := fun i => wrapLane h (max (tyMin h) (min (tyMax h) (e i)))) ?_ fun i _ => ofNat_wrapLane hw _
  rw [dataNode_eq, ← lanesFlags_unless]
  simp only [laneBits, lanesOf_append_abLane, List.map_map, Function.comp_def, if_pos hv, orFlags_map_range, satInt_eq, hn, intVal_eq,
    ofNat_toNat_self]
  rfl

/-- The value of some bits in a wider type: extended by the sign or by zeros. -/
theorem ofInt_valueIn_extend (sg : Bool) {v : Nat} (w : Nat) (x : BitVec v) :
    BitVec.ofInt w (valueIn sg x) = if sg then x.signExtend w else x.setWidth w := by
  cases sg
  · exact (setWidth_eq_ofInt w x).symm
  · rfl

theorem execVunpk_sends (h8 : r.ty.toNat < 8) (h32 : tyWidth r.ty.toNat ≤ 32) :
    sendsLanes (exec (.vunpk r) s) s r (2 * tyWidth r.ty.toNat) (fun i =>
      let v := aLane s r (i + if r.var = 0#4 then 0 else 512 / tyWidth r.ty.toNat / 2)
      if tySigned r.ty.toNat then v.signExtend _ else v.setWidth _) 0 := by
  obtain ⟨hw, -, hn⟩ := doubleTy_spec h8 h32
  refine show sendsLanes (.next (dataNode s r _)) .. from sendsLanes_of_map (f := fun i => wrapLane (doubleTy r.ty.toNat)
    (intVal r.ty.toNat (laneAt (tyWidth r.ty.toNat) (argsData s r s.firing).a.val
      (i + if r.var = 0#4 then 0 else 512 / tyWidth r.ty.toNat / 2)))) ?_ fun i _ => ?_
  · rw [dataNode_eq, hn]
    rfl
  · rw [ofNat_wrapLane hw, intVal_lane rfl, ofInt_valueIn_extend]

end

/-- Settles O20, instruction by instruction: each lane of the result is read from the lanes that its line names. -/
theorem vectorLanesMove : Obligations.VectorLanesMove := by
  unfold Obligations.VectorLanesMove
  intro r s h14 w n sg a x y b k two
  refine ⟨fun h => ?_, fun _ => execVperm_sends, execVslide_up, execVslide_down, ⟨execVins_beyond, fun h => ?_⟩, fun h8 h16 => ?_,
    fun h8 h32 => ?_, fun _ => execViota_sends⟩
  · exact execVdot4_sends (by rcases h with h | h <;> rw [h] <;> rfl)
  · refine ⟨_, fun i hi => ?_, execVins_within h⟩
    rw [laneV_set _ _ _ _ hi, ofNat_mod_pow, BitVec.ofNat_toNat]
    rfl
  · obtain ⟨hw, hsg, -⟩ := halfTy_spec h8 h16
    intro h least most z
    have hmin : tyMin (halfTy r.ty.toNat) = least := by rw [tyMin_eq, hw, hsg]
    have hmax : tyMax (halfTy r.ty.toNat) = most := by rw [tyMax_eq, hw, hsg]
    rw [← hmin, ← hmax]
    exact ⟨execVpack_wraps h8 h16, execVpack_clamps h8 h16⟩
  · exact execVunpk_sends h8 h32

end Sys2Proof.Machine
end

section
/-! PROOF. Reductions and scans (R196). -/

namespace Sys2Proof.Machine

/-! ### Running results over lanes -/

/-- The running results of an operation over the values `x 0`, `x 1`, …, with the flags of every step so far. -/
def running (f : Nat → Nat → Nat × Flags) (x : Nat → Nat) : Nat → Nat × Flags
  | 0 => (x 0, 0)
  | i + 1 => ((f (running f x i).1 (x (i + 1))).1, (running f x i).2 ||| (f (running f x i).1 (x (i + 1))).2)

section
variable (f : Nat → Nat → Nat × Flags) (x : Nat → Nat)

/-- A scan that goes on behind value k. -/
theorem scanList_running (n k : Nat) : scanList f (running f x k).1 ((List.range n).map fun i => x (k + 1 + i)) =
    (List.range n).map fun i => f (running f x (k + i)).1 (x (k + i + 1)) := by
  induction n generalizing k with
  | zero => rfl
  | succ n ih =>
    rw [List.range_succ_eq_map, List.map_cons, List.map_cons, List.map_map, List.map_map, scanList]
    refine congrArg₂ List.cons rfl (Eq.trans ?_ ((ih (k + 1)).trans ?_))
    · exact congrArg (scanList f _) (List.map_congr_left fun i _ => congrArg x (by omega))
    · exact List.map_congr_left fun i _ => by rw [Function.comp, Nat.add_right_comm k 1 i]; rfl

theorem foldl_running (n : Nat) :
    ((List.range n).map fun i => x (i + 1)).foldl (fun a b => (f a b).1) (x 0) = (running f x n).1 := by
  induction n with
  | zero => rfl
  | succ n ih =>
    rw [List.range_succ, List.map_append, List.foldl_append, ih]
    rfl

theorem lanesFlags_running (n : Nat) : lanesFlags n (fun i => (f (running f x i).1 (x (i + 1))).2) = (running f x n).2 := by
  induction n with
  | zero => rfl
  | succ n ih => rw [lanesFlags_succ, ih]; rfl

end

theorem lanesOf_eq (w : Nat) (v : Payload) : lanesOf w v = (List.range (512 / w)).map fun i => (laneV w v i).toNat :=
  List.map_congr_left fun i _ => laneAt_eq w v i

/-- The lanes of a payload: the first, and those behind it. -/
theorem lanesOf_cons {w n : Nat} (hn : 512 / w = n + 1) (v : Payload) :
    lanesOf w v = (laneV w v 0).toNat :: (List.range n).map fun i => (laneV w v (i + 1)).toNat := by
  rw [lanesOf_eq, hn, List.range_succ_eq_map, List.map_cons, List.map_map]
  rfl

theorem lanes_pos (t : Nat) : 0 < 512 / tyWidth t :=
  Nat.div_pos ((tyWidth_le t).trans (by decide)) (tyWidth_pos t)

/-! ### Integer reductions (R131, R196) -/

/-- The integer operation of a reduction on bit vectors. -/
def redLane (v : Nat) (sg : Bool) {w : Nat} (a b : BitVec w) : BitVec w :=
  match v with
  | 0 => a + b
  | 1 => if lessIn sg b a then b else a
  | 2 => if lessIn sg a b then b else a
  | 3 => a &&& b
  | 4 => a ||| b
  | _ => a ^^^ b

theorem redOp_toNat (v t : Nat) (a b : BitVec (tyWidth t)) :
    redOp v t a.toNat b.toNat = (redLane v (tySigned t) a b).toNat := by
  have hval : ∀ p : BitVec (tyWidth t), intVal t p.toNat = valueIn (tySigned t) p := fun p => by
    rw [intVal_eq, ofNat_toNat_self]
  obtain _ | _ | _ | _ | _ | v := v <;> simp only [redOp, redLane, hval, valueIn_lt, apply_ite BitVec.toNat]
  · rw [wrapLane_eq, BitVec.ofInt_add, ofInt_valueIn, ofInt_valueIn]
  · exact (BitVec.toNat_and ..).symm
  · exact (BitVec.toNat_or ..).symm
  · exact (BitVec.toNat_xor ..).symm

/-- The reductions of lanes 0 to m. -/
def redLanes (v : Nat) (sg : Bool) {w : Nat} (x : Nat → BitVec w) : Nat → BitVec w
  | 0 => x 0
  | m + 1 => redLane v sg (redLanes v sg x m) (x (m + 1))

theorem running_redOp (v t : Nat) (x : Nat → BitVec (tyWidth t)) (m : Nat) :
    running (fun a b => (redOp v t a b, 0)) (fun i => (x i).toNat) m = ((redLanes v (tySigned t) x m).toNat, 0) := by
  induction m with
  | zero => rfl
  | succ m ih => rw [running, ih, redOp_toNat]; exact Prod.ext rfl BitVec.zero_or

section
variable {v : Nat} {sg : Bool} {w : Nat} {x : Nat → BitVec w}

theorem redLanes_eq_foldl {op : BitVec w → BitVec w → BitVec w} {z : BitVec w} (hop : ∀ a b, redLane v sg a b = op a b)
    (hz : ∀ a, op z a = a) (m : Nat) : redLanes v sg x m = ((List.range (m + 1)).map x).foldl op z := by
  induction m with
  | zero => exact (hz (x 0)).symm
  | succ m ih =>
    rw [List.range_succ, List.map_append, List.foldl_append, ← ih]
    exact hop _ _

/-- An operation that keeps the operand of the lesser key finds a lane of the least. -/
theorem redLanes_least (key : BitVec w → Int) (hop : ∀ a b, redLane v sg a b = if key b < key a then b else a) (m : Nat) :
    (∃ i, i ≤ m ∧ redLanes v sg x m = x i) ∧ ∀ i, i ≤ m → key (redLanes v sg x m) ≤ key (x i) := by
  induction m with
  | zero => exact ⟨⟨0, le_rfl, rfl⟩, fun i hi => by rw [Nat.le_zero.mp hi]; rfl⟩
  | succ m ih =>
    obtain ⟨⟨j, hj, hy⟩, hle⟩ := ih
    rw [redLanes, hop]
    split <;> rename_i h
    · exact ⟨⟨m + 1, le_rfl, rfl⟩, fun i hi => (Nat.le_succ_iff.mp hi).elim (fun hi => h.le.trans (hle i hi)) fun hi => by rw [hi]⟩
    · exact ⟨⟨j, hj.trans (Nat.le_succ m), hy⟩,
        fun i hi => (Nat.le_succ_iff.mp hi).elim (hle i) fun hi => by rw [hi]; exact not_lt.mp h⟩

theorem redLanes_and (m k : Nat) : (redLanes 3 sg x m).getLsbD k = true ↔ ∀ i, i ≤ m → (x i).getLsbD k = true := by
  induction m with
  | zero => simp [redLanes]
  | succ m ih => simp only [redLanes, redLane, BitVec.getLsbD_and, Bool.and_eq_true, ih, Nat.le_succ_iff, or_imp, forall_and, forall_eq]

theorem redLanes_or (m k : Nat) : (redLanes 4 sg x m).getLsbD k = true ↔ ∃ i, i ≤ m ∧ (x i).getLsbD k = true := by
  induction m with
  | zero => simp [redLanes]
  | succ m ih =>
    simp only [redLanes, redLane, BitVec.getLsbD_or, Bool.or_eq_true, ih, Nat.le_succ_iff, or_and_right, exists_or, exists_eq_left]

/-- The running result of VAR 0 to 5 is the reduction. -/
theorem isReduction_redLanes (hv : v < 6) (m : Nat) : isReduction v sg x m (redLanes v sg x m) := by
  interval_cases v
  · exact redLanes_eq_foldl (fun _ _ => rfl) BitVec.zero_add m
  · obtain ⟨hex, hle⟩ := redLanes_least (v := 1) (sg := sg) (x := x) (valueIn sg) (fun a b => by simp only [redLane, valueIn_lt]) m
    exact ⟨hex, fun i hi => valueIn_le.mp (hle i hi)⟩
  · obtain ⟨hex, hle⟩ := redLanes_least (v := 2) (sg := sg) (x := x) (fun p => -valueIn sg p)
      (fun a b => by simp only [redLane, neg_lt_neg_iff, valueIn_lt]) m
    exact ⟨hex, fun i hi => valueIn_le.mp (neg_le_neg_iff.mp (hle i hi))⟩
  · exact fun k _ => redLanes_and m k
  · exact fun k _ => redLanes_or m k
  · exact redLanes_eq_foldl (op := (· ^^^ ·)) (fun _ _ => rfl) (fun _ => BitVec.zero_xor) m

end

/-! ### Sums in their fixed order (R196) -/

/-- One addition of `fadd`, rounded rne. -/
def faddStep (f : Fmt) (a b : Nat) : Nat × Flags := ((fAdd f ⟨0, 0, true⟩ a b).code, (fAdd f ⟨0, 0, true⟩ a b).flags)

theorem running_faddStep (f : Fmt) (x : Nat → Nat) (i : Nat) : running (faddStep f) x i = runSum f x i := by
  induction i with
  | zero => rfl
  | succ i ih => rw [running, ih]; rfl

theorem faddLevel_range (f : Fmt) (g : Nat → Nat) (m : Nat) : faddLevel f ((List.range (2 * m)).map g) =
    (List.range m).map fun i => faddStep f (g (2 * i)) (g (2 * i + 1)) := by
  induction m generalizing g with
  | zero => rfl
  | succ m ih =>
    rw [Nat.mul_succ, List.range_succ_eq_map, List.range_succ_eq_map, List.range_succ_eq_map]
    simp only [List.map_cons, List.map_map, faddLevel]
    exact congrArg _ (ih fun i => g (i + 2))

/-- The flags of a level join those of the lanes below it, pair by pair. -/
theorem lanesFlags_pairs (F G : Nat → Flags) (m : Nat) :
    lanesFlags (2 * m) F ||| lanesFlags m G = lanesFlags m fun i => F (2 * i) ||| F (2 * i + 1) ||| G i := by
  induction m with
  | zero => exact BitVec.zero_or
  | succ m ih =>
    rw [Nat.mul_succ, lanesFlags_succ, lanesFlags_succ, lanesFlags_succ, lanesFlags_succ, ← ih]
    ac_rfl

/-- The tree from level l on, with the flags of the lanes below. -/
theorem faddTree_pairSum (f : Fmt) (x : Nat → Nat) (k l : Nat) :
    faddTree f k ((List.range (2 ^ k)).map fun i => (pairSum f x l i).1) (lanesFlags (2 ^ k) fun i => (pairSum f x l i).2) =
      pairSum f x (l + k) 0 := by
  induction k generalizing l with
  | zero => exact Prod.ext rfl BitVec.zero_or
  | succ k ih =>
    rw [pow_succ', faddTree]
    simp only [faddLevel_range, List.map_map, orFlags_map_range, Function.comp_def]
    rw [lanesFlags_pairs, ← Nat.add_assoc, Nat.add_right_comm, ← ih (l + 1)]
    rfl

/-! ### Reductions of a payload's lanes -/

theorem foldl_lanesOf (v t : Nat) (x : Payload) :
    (lanesOf (tyWidth t) x).tail.foldl (redOp v t) ((lanesOf (tyWidth t) x).headD 0) =
      (redLanes v (tySigned t) (laneV (tyWidth t) x) (512 / tyWidth t - 1)).toNat := by
  obtain ⟨n, hn⟩ := Nat.exists_eq_succ_of_ne_zero (lanes_pos t).ne'
  rw [lanesOf_cons hn, hn]
  exact (foldl_running (fun a b => (redOp v t a b, 0)) (fun i => (laneV (tyWidth t) x i).toNat) n).trans
    (congrArg Prod.fst (running_redOp v t _ n))

theorem faddTree_lanesOf (f : Fmt) {w : Nat} (hpow : 2 ^ Nat.log2 (512 / w) = 512 / w) (x : Payload) :
    faddTree f (Nat.log2 (512 / w)) (lanesOf w x) 0 = pairSum f (fun i => (laneV w x i).toNat) (Nat.log2 (512 / w)) 0 := by
  have htree := faddTree_pairSum f (fun i => (laneV w x i).toNat) (Nat.log2 (512 / w)) 0
  simp only [pairSum, lanesFlags_zero, hpow, Nat.zero_add] at htree
  rw [← htree, lanesOf_eq]

/-- A scan of a payload's lanes gives their running results and the flags of all steps. -/
theorem scanList_lanesOf (f : Nat → Nat → Nat × Flags) (t : Nat) (x : Payload) :
    let xs := lanesOf (tyWidth t) x
    let l := scanList f (xs.headD 0) xs.tail
    let y := running f fun i => (laneV (tyWidth t) x i).toNat
    xs.headD 0 :: l.map Prod.fst = (List.range (512 / tyWidth t)).map (fun i => (y i).1) ∧
      orFlags (l.map Prod.snd) = (y (512 / tyWidth t - 1)).2 := by
  intro xs l y
  obtain ⟨n, hn⟩ := Nat.exists_eq_succ_of_ne_zero (lanes_pos t).ne'
  have hl : l = (List.range n).map fun i => f (y i).1 (laneV (tyWidth t) x (i + 1)).toNat := by
    have h := scanList_running f (fun i => (laneV (tyWidth t) x i).toNat) n 0
    simp only [Nat.zero_add, Nat.add_comm 1] at h
    simp only [l, xs, lanesOf_cons hn]
    exact h
  rw [hl, hn, List.map_map, List.map_map]
  constructor
  · rw [List.range_succ_eq_map, List.map_cons, List.map_map]
    simp only [xs, lanesOf_cons hn]
    rfl
  · exact (orFlags_map_range ..).trans (lanesFlags_running f _ n)

/-! ### VRED and VSCAN -/

section
variable {s : State} {r : NodeRec}

/-- A payload of one lane has zeros elsewhere. -/
theorem sendsLanes_single {o : Host.Outcome State Fault Refusal} {w y : Nat} {fl : Flags}
    (ho : o = .next (sendsData s r (ofLanes w [y]) false fl)) :
    sendsLanes o s r w (fun i => if i = 0 then BitVec.ofNat w y else 0#w) fl :=
  sendsLanes_of_ofLanes ho fun i _ => by cases i <;> rfl

theorem execVred_int (hv : r.var ≠ 6#4) : sendsLanes (exec (.vred r) s) s r (tyWidth r.ty.toNat)
    (fun i => if i = 0 then redLanes r.var.toNat (tySigned r.ty.toNat) (aLane s r) (512 / tyWidth r.ty.toNat - 1) else 0#_) 0 := by
  rw [← ofNat_toNat_self (redLanes ..), ← foldl_lanesOf]
  refine show sendsLanes (.next (dataNode s r _)) .. from sendsLanes_single ?_
  rw [dataNode_eq, if_neg hv]
  rfl

theorem execVred_fadd (hv : r.var = 6#4) (h8 : 8 ≤ r.ty.toNat) (h11 : r.ty.toNat < 11) :
    let sum := pairSum (tyFmt r.ty.toNat) (fun i => (aLane s r i).toNat) (Nat.log2 (512 / tyWidth r.ty.toNat)) 0
    sendsLanes (exec (.vred r) s) s r (tyWidth r.ty.toNat) (fun i => if i = 0 then BitVec.ofNat _ sum.1 else 0#_) sum.2 := by
  have hpow : 2 ^ Nat.log2 (512 / tyWidth r.ty.toNat) = 512 / tyWidth r.ty.toNat := by
    generalize r.ty.toNat = t at h8 h11
    interval_cases t <;> decide
  rw [← faddTree_lanesOf _ hpow]
  refine show sendsLanes (.next (dataNode s r _)) .. from sendsLanes_single ?_
  rw [dataNode_eq, if_pos hv]
  rfl

/-- VSCAN sends the running results of its step, with the flags of all. -/
theorem execVscan_running {f : Nat → Nat → Nat × Flags} (hf : ∀ a b, f a b =
      if r.var = 6#4 then faddStep (tyFmt r.ty.toNat) a b else (redOp r.var.toNat r.ty.toNat a b, 0)) :
    let y := running f fun i => (aLane s r i).toNat
    sendsLanes (exec (.vscan r) s) s r (tyWidth r.ty.toNat) (fun i => BitVec.ofNat _ (y i).1)
      (y (512 / tyWidth r.ty.toNat - 1)).2 := by
  intro y
  obtain ⟨hcodes, hflags⟩ := scanList_lanesOf f r.ty.toNat (argsData s r s.firing).a.val
  refine show sendsLanes (.next (dataNode s r _)) .. from sendsLanes_of_map (f := fun i => (y i).1) ?_ fun _ _ => rfl
  obtain rfl : f = _ := funext fun a => funext (hf a)
  rw [dataNode_eq, ← hcodes, ← hflags]
  rfl

end

/-- Settles O21: both nodes run through the lanes of A in order, VRED.fadd level by level; `isReduction_redLanes` says what the
integer results are. -/
theorem reductionsAndScans : Obligations.ReductionsAndScans := by
  unfold Obligations.ReductionsAndScans
  intro r s t w n x v
  refine ⟨fun _ hv => ?_, fun h8 h11 hv => ?_⟩
  · have hne : r.var ≠ 6#4 := fun h => by simp [v, h] at hv
    have hscan := execVscan_running (s := s) (r := r) fun a b => (if_neg hne).symm
    simp only [running_redOp, ofNat_toNat_self] at hscan
    exact ⟨⟨_, isReduction_redLanes hv _, execVred_int hne⟩, ⟨_, fun i _ => isReduction_redLanes hv i, hscan⟩⟩
  · have hv6 : r.var = 6#4 := BitVec.eq_of_toNat_eq hv
    have hscan := execVscan_running (s := s) (r := r) fun a b => (if_pos hv6).symm
    simp only [running_faddStep] at hscan
    exact ⟨execVred_fadd hv6 h8 h11, hscan⟩

end Sys2Proof.Machine
end

section
/-! PROOF. The order, the sign and the class of float lanes (R200 to R202). -/

namespace Sys2Proof.Machine

/-! ### The order of decoded values (R200, R201) -/

theorem FV.cmp_eq_none {a b : FV} : FV.cmp a b = none ↔ a = .nan ∨ b = .nan := by
  cases a <;> cases b <;> simp [FV.cmp]

theorem FV.cmp_swap (a b : FV) : FV.cmp b a = (FV.cmp a b).map Ordering.swap := by
  cases a with
  | nan => cases b <;> rfl
  | inf x =>
    cases b with
    | nan => rfl
    | inf y => cases x <;> cases y <;> rfl
    | fin y m e => cases x <;> rfl
  | fin x m e =>
    cases b with
    | nan => rfl
    | inf y => cases y <;> rfl
    | fin y n g =>
      have hmin : (if g < e then g else e) = if e < g then e else g := by split <;> split <;> omega
      simp only [FV.cmp, hmin, Option.map_some]
      exact congrArg some Std.OrientedOrd.eq_swap

/-- The order of R200: −0 stands below +0. -/
def FV.less (a b : FV) : Prop :=
  FV.cmp a b = some .lt ∨ FV.cmp a b = some .eq ∧ a.isNeg = true ∧ b.isNeg = false

section
variable {f : Fmt} {a b : Nat}

theorem minMaxOrd_eq_none : minMaxOrd f a b = none ↔ f.decode a = .nan ∨ f.decode b = .nan := by
  rw [← FV.cmp_eq_none, minMaxOrd]
  split <;> simp_all

theorem minMaxOrd_eq_some (ha : ¬ f.decode a = .nan) (hb : ¬ f.decode b = .nan) : ∃ o, minMaxOrd f a b = some o :=
  Option.ne_none_iff_exists'.mp fun h => (minMaxOrd_eq_none.mp h).elim ha hb

theorem minMaxOrd_eq_lt : minMaxOrd f a b = some .lt ↔ (f.decode a).less (f.decode b) := by
  rw [minMaxOrd, FV.less]
  split <;> rename_i h
  · rw [h]; cases (f.decode a).isNeg <;> cases (f.decode b).isNeg <;> decide
  · simp_all

theorem minMaxOrd_eq_gt : minMaxOrd f a b = some .gt ↔ (f.decode b).less (f.decode a) := by
  rw [minMaxOrd, FV.less, FV.cmp_swap (f.decode a)]
  split <;> rename_i h
  · rw [h]; cases (f.decode a).isNeg <;> cases (f.decode b).isNeg <;> decide
  · cases hc : FV.cmp (f.decode a) (f.decode b) with
    | none => simp
    | some o => cases o <;> simp_all

/-- VFMIN's lane: the canonical NaN for a NaN, B where B is less, else A (R200). -/
theorem fMin_spec : (f.decode a = .nan ∨ f.decode b = .nan → fMin f a b = f.nan) ∧
    (¬ f.decode a = .nan → ¬ f.decode b = .nan → ((f.decode b).less (f.decode a) → fMin f a b = b) ∧
      (¬ (f.decode b).less (f.decode a) → fMin f a b = a)) := by
  rw [← minMaxOrd_eq_none, ← minMaxOrd_eq_gt, fMin]
  refine ⟨fun h => by rw [h], fun ha hb => ?_⟩
  obtain ⟨o, ho⟩ := minMaxOrd_eq_some ha hb
  rw [ho]
  cases o <;> simp

theorem fMax_spec : (f.decode a = .nan ∨ f.decode b = .nan → fMax f a b = f.nan) ∧
    (¬ f.decode a = .nan → ¬ f.decode b = .nan → ((f.decode a).less (f.decode b) → fMax f a b = b) ∧
      (¬ (f.decode a).less (f.decode b) → fMax f a b = a)) := by
  rw [← minMaxOrd_eq_none, ← minMaxOrd_eq_lt, fMax]
  refine ⟨fun h => by rw [h], fun ha hb => ?_⟩
  obtain ⟨o, ho⟩ := minMaxOrd_eq_some ha hb
  rw [ho]
  cases o <;> simp

theorem fMin_lt {n : Nat} (hnan : f.nan < n) (ha : a < n) (hb : b < n) : fMin f a b < n := by
  unfold fMin
  split <;> assumption

theorem fMax_lt {n : Nat} (hnan : f.nan < n) (ha : a < n) (hb : b < n) : fMax f a b < n := by
  unfold fMax
  split <;> assumption

end

/-! ### Comparison (R201) -/

/-- The relations of VFCMP's VAR. -/
def FV.related (v : Nat) (a b : FV) : Prop :=
  match v with
  | 0 => FV.cmp a b = some .eq
  | 1 => ¬ FV.cmp a b = some .eq
  | 2 => FV.cmp a b = some .lt
  | 3 => FV.cmp a b = some .lt ∨ FV.cmp a b = some .eq
  | 4 => FV.cmp b a = some .lt
  | 5 => FV.cmp b a = some .lt ∨ FV.cmp a b = some .eq
  | 6 => a = .nan ∨ b = .nan
  | _ => ¬ a = .nan ∧ ¬ b = .nan

theorem fRel_iff {v : Nat} (hv : v < 8) (a b : FV) : fRel v (FV.cmp a b) = true ↔ FV.related v a b := by
  have hnan : (a = .nan ∨ b = .nan) ↔ FV.cmp a b = none := FV.cmp_eq_none.symm
  have hnum : (¬ a = .nan ∧ ¬ b = .nan) ↔ FV.cmp a b ≠ none := by rw [← not_or, hnan]
  unfold FV.related
  rw [FV.cmp_swap a b, hnan, hnum]
  cases FV.cmp a b with
  | none => interval_cases v <;> simp [fRel]
  | some o => cases o <;> interval_cases v <;> simp [fRel, relHolds]

/-! ### The sign bit (R200) -/

section
variable {w : Nat} (x : BitVec w)

theorem ofNat_clearSign : (BitVec.ofNat w (x.toNat % 2 ^ (w - 1))).msb = false ∧
    ∀ k, k < w - 1 → (BitVec.ofNat w (x.toNat % 2 ^ (w - 1))).getLsbD k = x.getLsbD k := by
  refine ⟨?_, fun k hk => ?_⟩
  · rw [BitVec.msb_eq_getLsbD_last, BitVec.getLsbD_ofNat, Nat.testBit_mod_two_pow, decide_eq_false (lt_irrefl _), Bool.false_and,
      Bool.and_false]
  · rw [BitVec.getLsbD_ofNat, Nat.testBit_mod_two_pow, decide_eq_true hk, decide_eq_true (by omega : k < w), Bool.true_and,
      Bool.true_and]
    rfl

theorem ofNat_flipSign (hw : 0 < w) : (BitVec.ofNat w (x.toNat ^^^ 2 ^ (w - 1))).msb = !x.msb ∧
    ∀ k, k < w - 1 → (BitVec.ofNat w (x.toNat ^^^ 2 ^ (w - 1))).getLsbD k = x.getLsbD k := by
  refine ⟨?_, fun k hk => ?_⟩
  · rw [BitVec.msb_eq_getLsbD_last, BitVec.msb_eq_getLsbD_last, BitVec.getLsbD_ofNat, Nat.testBit_xor, Nat.testBit_two_pow_self,
      decide_eq_true (by omega : w - 1 < w), Bool.true_and, Bool.xor_true]
    rfl
  · rw [BitVec.getLsbD_ofNat, Nat.testBit_xor, Nat.testBit_two_pow_of_ne (by omega), Bool.xor_false,
      decide_eq_true (by omega : k < w), Bool.true_and]
    rfl

end

/-- The canonical NaN and the sign bit of a lane of a wide float type. -/
theorem tyFmt_lane {t : Nat} (h8 : 8 ≤ t) (h11 : t < 11) :
    (tyFmt t).nan < 2 ^ tyWidth t ∧ (tyFmt t).signPos = tyWidth t - 1 := by
  interval_cases t <;> decide

theorem Fmt.isNan_iff {f : Fmt} {a : Nat} : f.isNan a = true ↔ f.decode a = .nan := by
  rw [Fmt.isNan, beq_iff_eq]

/-! ### VFABS and VFNEG (R200) -/

section
variable {f : Fmt} {w : Nat} (x : BitVec w) (hnan : f.nan < 2 ^ w)
include hnan

theorem toNat_ofNat_nan : (BitVec.ofNat w f.nan).toNat = f.nan := by rw [BitVec.toNat_ofNat, Nat.mod_eq_of_lt hnan]

/-- A lane's absolute value and its negation, bit by bit. -/
theorem signLanes_spec (hsign : f.signPos = w - 1) (hw : 0 < w) :
    let u := BitVec.ofNat w (if f.isNan x.toNat then f.nan else x.toNat % 2 ^ f.signPos)
    let v := BitVec.ofNat w (if f.isNan x.toNat then f.nan else x.toNat ^^^ 2 ^ f.signPos)
    (f.decode x.toNat = .nan → u.toNat = f.nan ∧ v.toNat = f.nan) ∧
    (¬ f.decode x.toNat = .nan → u.msb = false ∧ v.msb = !x.msb ∧
      ∀ k, k < w - 1 → u.getLsbD k = x.getLsbD k ∧ v.getLsbD k = x.getLsbD k) := by
  intro u v
  rw [← Fmt.isNan_iff]
  refine ⟨fun h => ?_, fun h => ?_⟩
  · simp only [u, v, if_pos h, toNat_ofNat_nan hnan, and_self]
  · simp only [u, v, if_neg h, hsign]
    obtain ⟨hu, hul⟩ := ofNat_clearSign x
    obtain ⟨hv, hvl⟩ := ofNat_flipSign x hw
    exact ⟨hu, hv, fun k hk => ⟨hul k hk, hvl k hk⟩⟩

end

section
variable {s : State} {r : NodeRec}

theorem execVfabs_sends :
    let f := tyFmt r.ty.toNat
    sendsLanes (exec (.vfabs r) s) s r (tyWidth r.ty.toNat) (fun i => BitVec.ofNat _
      (if f.isNan (aLane s r i).toNat then f.nan else (aLane s r i).toNat % 2 ^ f.signPos)) 0 := by
  show sendsLanes (execVfabs r s) ..
  unfold execVfabs
  exact vecFloat_sends_bare _

theorem execVfneg_sends :
    let f := tyFmt r.ty.toNat
    sendsLanes (exec (.vfneg r) s) s r (tyWidth r.ty.toNat) (fun i => BitVec.ofNat _
      (if f.isNan (aLane s r i).toNat then f.nan else (aLane s r i).toNat ^^^ 2 ^ f.signPos)) 0 := by
  show sendsLanes (execVfneg r s) ..
  unfold execVfneg
  exact vecFloat_sends_bare _

/-- VFCMP sends a mask of the lanes whose relation holds (R201). -/
theorem execVfcmp_sends :
    let f := tyFmt r.ty.toNat
    sendsLanes (exec (.vfcmp r) s) s r (tyWidth r.ty.toNat)
      (fun i => if fRel r.var.toNat (FV.cmp (f.decode (aLane s r i).toNat) (f.decode (bLane s r i).toNat)) then BitVec.allOnes _
        else 0#_) 0 := by
  intro f
  show sendsLanes (execVfcmp r s) ..
  unfold execVfcmp
  simp only [← ofNat_allOnes, ← apply_ite (BitVec.ofNat _)]
  exact vecFloat_sends_bare _

end

/-- Settles O23: each node is `vecFloat` of a function on codes; `fMin_spec`, `fMax_spec`, `signLanes_spec` and `fRel_iff` say what
those functions give. -/
theorem vectorFloatsOrderAndClassify : Obligations.VectorFloatsOrderAndClassify := by
  unfold Obligations.VectorFloatsOrderAndClassify
  intro r s h8 h11 f w a x y nan less eq lt holds
  obtain ⟨hnan, hsign⟩ : f.nan < 2 ^ w ∧ f.signPos = w - 1 := tyFmt_lane h8 h11
  refine ⟨⟨_, show sendsLanes (execVfmin r s) .. from vecFloat_sends_bare _, fun i _ => ?_⟩,
    ⟨_, show sendsLanes (execVfmax r s) .. from vecFloat_sends_bare _, fun i _ => ?_⟩,
    ⟨_, _, execVfabs_sends, execVfneg_sends, fun i _ => signLanes_spec (aLane s r i) hnan hsign (tyWidth_pos _)⟩,
    ⟨_, execVfcmp_sends, fun hv i _ => ?_⟩,
    show sendsLanes (execVfcls r s) .. from vecFloat_sends_bare _⟩
  · rw [BitVec.toNat_ofNat, Nat.mod_eq_of_lt (fMin_lt hnan (BitVec.isLt _) (BitVec.isLt _))]
    exact fMin_spec
  · rw [BitVec.toNat_ofNat, Nat.mod_eq_of_lt (fMax_lt hnan (BitVec.isLt _) (BitVec.isLt _))]
    exact fMax_spec
  · have hrel : fRel r.var.toNat (FV.cmp (f.decode (x i)) (f.decode (y i))) = true ↔ holds r.var.toNat (x i) (y i) := fRel_iff hv _ _
    rw [← hrel]
    exact ⟨fun h => if_pos h, fun h => if_neg h⟩

end Sys2Proof.Machine
end

section
/-! PROOF. Conversions of lanes, blocks and control values (R203 to R207). -/

namespace Sys2Proof.Machine

/-! ### Lists over lane numbers -/

theorem zipIdx_map_range {α : Type} (f : Nat → α) (n : Nat) :
    ((List.range n).map f).zipIdx = (List.range n).map fun i => (f i, i) :=
  List.ext_getElem (by simp) (by simp)

theorem take_map_range {α : Type} (f : Nat → α) (n m : Nat) : ((List.range n).map f).take m = (List.range (min n m)).map f := by
  rw [← List.map_take, List.take_range, Nat.min_comm]

theorem drop_map_range {α : Type} (f : Nat → α) (n m : Nat) :
    ((List.range (n + m)).map f).drop n = (List.range m).map fun i => f (n + i) := by
  rw [← List.map_drop, List.range_add, List.drop_left' List.length_range, List.map_map]
  rfl

theorem any_or_any {α : Type} (l : List α) (p q : α → Bool) : (l.any p || l.any q) = l.any fun x => p x || q x := by
  rw [Bool.eq_iff_iff]
  simp only [Bool.or_eq_true, List.any_eq_true, and_or_left, exists_or]

/-- A payload that holds one number for each of its first `n` lanes, and zeros behind them. -/
theorem laneV_ofLanes_map {w n : Nat} (f : Nat → Nat) {j : Nat} (hj : j < 512 / w) :
    laneV w (ofLanes w ((List.range n).map f)) j = if j < n then BitVec.ofNat w (f j) else 0#w := by
  rw [laneV_ofLanes _ hj, getD_map_range, apply_ite (BitVec.ofNat w)]

/-! ### VCVT (R204) -/

/-- The rounder of a lane: VAR[2:0] is its mode, VAR[3] selects sat or nsat. -/
def convRounder (s : State) (r : NodeRec) : Nat → Rounder := rounderAt s s.firing (r.var.toNat % 8) (decide (r.var.toNat < 8))

theorem varSat_eq (r : NodeRec) : varSat r = decide (r.var.toNat < 8) := by
  rw [varSat, beq_eq_decide]
  exact decide_eq_decide.mpr (by omega)

/-- The source lanes of A, then of B, then of C. -/
def srcLane (w : Nat) (a b c : Payload) (j : Nat) : Nat :=
  let n := 512 / w
  if j < n then (laneV w a j).toNat else if j < 2 * n then (laneV w b (j - n)).toNat else (laneV w c (j - 2 * n)).toNat

/-- How many operands AR names. -/
def srcCount (ar : BitVec 3) : Nat := if ar = 3#3 then 3 else if ar = 1#3 then 2 else 1

/-- The operands that AR names are as many lanes in a row. -/
theorem srcLanes_eq (ar : BitVec 3) (w : Nat) (a b c : Payload) :
    lanesOf w a ++ (if ar = 1#3 ∨ ar = 3#3 then lanesOf w b else []) ++ (if ar = 3#3 then lanesOf w c else []) =
      (List.range (srcCount ar * (512 / w))).map (srcLane w a b c) := by
  by_cases h3 : ar = 3#3
  · rw [if_pos (.inr h3), if_pos h3, srcCount, if_pos h3, lanesOf_append, lanesOf, map_range_append, Nat.succ_mul 2]
    refine List.map_congr_left fun j _ => ?_
    simp only [srcLane, laneAt_eq]
    by_cases h : j < 512 / w
    · rw [if_pos h, if_pos (by omega), if_pos h]
    · simp only [if_neg h]
  · by_cases h1 : ar = 1#3
    · rw [if_pos (.inl h1), if_neg h3, srcCount, if_neg h3, if_pos h1, List.append_nil, lanesOf_append]
      refine List.map_congr_left fun j hj => ?_
      simp only [srcLane, laneAt_eq, if_pos (List.mem_range.mp hj)]
    · rw [if_neg (not_or.mpr ⟨h1, h3⟩), if_neg h3, srcCount, if_neg h3, if_neg h1, List.append_nil, List.append_nil, Nat.one_mul,
        lanesOf_eq]
      exact List.map_congr_left fun j hj => (if_pos (List.mem_range.mp hj)).symm

section
variable {s : State} {r : NodeRec}

theorem execVcvt_sends {src lanes : Nat} {code : Nat → Nat} {out : Nat → Rounded} (hsrc : (r.lit.extractLsb' 8 4).toNat = src)
    (hlanes : min (srcCount r.ar * (512 / tyWidth src)) (512 / tyWidth r.ty.toNat) = lanes)
    (hcode : srcLane (tyWidth src) (argsData s r s.firing).a.val (argsData s r s.firing).b.val (argsData s r s.firing).c.val = code)
    (hout : ∀ j, cvtLane src r.ty.toNat (convRounder s r j) (code j) = out j) :
    exec (.vcvt r) s = .next (sendsData s r (ofLanes (tyWidth r.ty.toNat) ((List.range lanes).map fun j => (out j).code))
      (r.lit.getLsbD 31 && (List.range lanes).any fun j => (out j).ovf || nonFinite src (code j))
      (lanesFlags lanes fun j => (out j).flags)) := by
  show Host.Outcome.next (dataNode s r _) = _
  rw [dataNode_eq]
  simp only [bitsAt_eq, hsrc, bitAt_eq, varSat_eq, laneBits, srcLanes_eq, take_map_range, hlanes, hcode, zipIdx_map_range, List.map_map,
    Function.comp_def, List.any_map, orFlags_map_range, ← hout, convRounder]

/-! ### QCVT (R205) -/

/-- The 32 values of a block: lanes 0 to 15 of A, then of B. -/
def blockVal (a b : Payload) (j : Nat) : FV := f32.decode (if j < 16 then laneV 32 a j else laneV 32 b (j - 16)).toNat

theorem blockVals_eq (a b : Payload) : (lanesOf 32 a ++ lanesOf 32 b).map f32.decode = (List.range 32).map (blockVal a b) := by
  rw [lanesOf_append, List.map_map]
  refine List.map_congr_left fun j _ => ?_
  simp only [blockVal, apply_ite BitVec.toNat, ← laneAt_eq]
  rfl

theorem execQcvt_sends {v : Nat → FV} {given scale : Nat} {q : Nat → Rounded}
    (hv : blockVal (argsCtl s r s.firing).a.val (argsCtl s r s.firing).b.val = v)
    (hgiven : (if r.ar = 3#3 then (argsCtl s r s.firing).c.word else r.lit.toNat) % 256 = given)
    (hscale : (if given = 255 then autoScale r.ty.toNat ((List.range 32).map v) else given) = scale)
    (hq : ∀ j, roundFV (tyFmt r.ty.toNat) (convRounder s r j) ((v j).scale (127 - (scale : Int))) = q j) :
    let bad := r.lit.getLsbD 31 && (List.range 32).any fun j => !(v j).finite || (q j).ovf
    let spare := if (List.range 32).any fun j => (q j).code == 8 then 0x7F else 0
    exec (.qcvt r) s = .next (computed s r (argsCtl s r s.firing) s.sideband.stackNo.toNat s.firing.course.toNat true false
      (some (ofLanes (tyWidth r.ty.toNat) ((List.range 32).map fun j => (q j).code), bad))
      (some (BitVec.ofNat 512 (if r.ty.toNat = 13 then scale + 256 * spare else scale), bad)) (lanesFlags 32 fun j => (q j).flags)) := by
  intro bad spare
  show execQcvt r s = _
  unfold execQcvt
  simp only [pureNode_eq, blockVals_eq, hv, hgiven, hscale, bitAt_eq, varSat_eq, laneBits, zipIdx_map_range, List.map_map,
    Function.comp_def, List.any_map, any_or_any, orFlags_map_range, Nat.mul_comm 256, bad, spare, ← hq, convRounder]

/-! ### DQCVT (R206)

Under sr the values 16 to 31 draw as lanes 16 to 31 also where D1's token carries them (notes/assumptions/131.md, the model's
choice). -/

theorem execDqcvt_sends {src : Nat} {q : Nat → Rounded} (hsrc : (r.lit.extractLsb' 8 4).toNat = src)
    (hq : ∀ j, roundFV (tyFmt r.ty.toNat) (rounderAt s s.firing (r.var.toNat % 8) true j)
      ((elemVal (tyFmt src) ((argsCtl s r s.firing).b.word / 256 % 256)
        (laneV (tyWidth src) (argsCtl s r s.firing).a.val j).toNat).scaled ((argsCtl s r s.firing).b.word % 256)) = q j)
    (h8 : 8 ≤ r.ty.toNat) (h11 : r.ty.toNat < 11) :
    let w := tyWidth r.ty.toNat
    let half := fun (g : Nat → Nat) => some (ofLanes w ((List.range (512 / w)).map fun j => (q (g j)).code), false)
    exec (.dqcvt r) s = .next (computed s r (argsCtl s r s.firing) s.sideband.stackNo.toNat s.firing.course.toNat true true
      (half id) (half fun j => if r.ty.toNat = 8 then 16 + j else j) (lanesFlags 32 fun j => (q j).flags)) := by
  intro w half
  have hw : r.ty.toNat ≠ 8 → tyWidth r.ty.toNat = 16 := fun hne => by
    rcases (by omega : r.ty.toNat = 9 ∨ r.ty.toNat = 10) with h | h <;> rw [h] <;> rfl
  show execDqcvt r s = _
  unfold execDqcvt
  simp only [pureNode_eq, bitsAt_eq, hsrc, laneBits, laneAt_eq, hq, List.map_map, Function.comp_def, orFlags_map_range]
  by_cases ht : r.ty.toNat = 8
  · have hw32 : w = 32 := by simp only [w, ht]; rfl
    simp only [half, hw32, if_pos ht, take_map_range, drop_map_range _ 16 16]
    rfl
  · simp only [half, w, hw ht, if_neg ht]
    rfl

/-! ### FCVT (R207) -/

theorem execFcvt_sends {src : Nat} {q : Rounded} (hsrc : (r.lit.extractLsb' 8 4).toNat = src)
    (hq : cvtLane src r.ty.toNat (convRounder s r 0) ((argsCtl s r s.firing).a.low (tyWidth src)).toNat = q) :
    exec (.fcvt r) s = .next (sendsWord s r (if r.ty.toNat < 8 then
      extended r.ty.toNat (BitVec.ofNat (tyWidth r.ty.toNat) q.code) else BitVec.ofNat 64 q.code) q.flags) := by
  show Host.Outcome.next (ctlNode s r _) = _
  rw [ctlNode_eq]
  simp only [bitsAt_eq, hsrc, varSat_eq, ← Opnd.low_toNat _ (tyWidth_le _), apply_ite (BitVec.ofNat 64), wrap64_eq, intVal_eq,
    ofInt_valueIn, tyInt, decide_eq_true_eq, ← hq, convRounder]

end

/-- Settles O26, instruction by instruction: each converts lane by lane through `cvtLane` or `roundFV`, and fills what is left
with zeros. -/
theorem conversionsConvertLanes : Obligations.ConversionsConvertLanes := by
  unfold Obligations.ConversionsConvertLanes
  intro r s t w src ws n a b m k nf ops code lanes out
  refine ⟨fun _ _ => ⟨_, fun j hj => laneV_ofLanes_map _ hj, execVcvt_sends rfl rfl rfl fun _ => rfl⟩, fun h11 h14 => ?_,
    fun h8 h11 _ _ => ?_, fun _ _ => execFcvt_sends rfl rfl⟩
  · intro v given scale q bad spare
    exact ⟨_, fun j hj => laneV_ofLanes_map _ hj, execQcvt_sends rfl rfl rfl fun _ => rfl⟩
  · intro near q
    exact ⟨_, _, fun j hj => ⟨(laneV_ofLanes_map _ hj).trans (if_pos hj), (laneV_ofLanes_map _ hj).trans (if_pos hj)⟩,
      execDqcvt_sends rfl (fun _ => rfl) h8 h11⟩

end Sys2Proof.Machine
end

section
/-! PROOF. Scalar floating point on the control plane (R208, R209). -/

namespace Sys2Proof.Machine

/-! ### The literal of SFOP (R209) -/

section
variable {s : State} {r : NodeRec}

/-- The literal as LIT's fields give it. -/
def sfopWord (s : State) (r : NodeRec) : BitVec 64 :=
  if r.lit.extractLsb' 7 25 = 0x1000000#25 then
    s.kReg s.firing.course.toNat s.firing.unit.toNat (r.lit.extractLsb' 3 4).toNat
  else if r.ty = 8#4 then ((r.lit >>> 3) <<< 3).setWidth 64 else (r.lit >>> 16).setWidth 64

theorem sfopLit_eq : sfopLit s s.firing r = (sfopWord s r).toNat := by
  have hsel : r.lit.toNat / 2 ^ 7 = 0x1000000 ↔ r.lit.extractLsb' 7 25 = 0x1000000#25 := by
    have := r.lit.isLt
    rw [← BitVec.toNat_inj, ← bitsAt_eq, bitsAt]
    simp only [BitVec.toNat_ofNat]
    omega
  have hk : r.lit.toNat / 8 % 16 = (r.lit.extractLsb' 3 4).toNat := by rw [← bitsAt_eq]; rfl
  have hty : r.ty.toNat = 8 ↔ r.ty = 8#4 := by rw [← BitVec.toNat_inj]; rfl
  rw [sfopLit, sfopWord]
  simp only [hsel, hk, hty, apply_ite BitVec.toNat]
  have := r.lit.isLt
  congr 2
  · simp [Nat.shiftLeft_eq, Nat.shiftRight_eq_div_pow]; omega
  · simp [Nat.shiftRight_eq_div_pow]; omega

theorem sfopArgs_eq : argsOf r.ar.toNat s.firing (BitVec.ofNat 512 (sfopLit s s.firing r)) =
    argsOf r.ar.toNat s.firing ((sfopWord s r).setWidth 512) := by
  rw [sfopLit_eq, BitVec.ofNat_toNat]

/-! ### SFOP (R208) -/

/-- The operation of a VAR on three codes. -/
def sfopResult (v : Nat) (f : Fmt) (k : Rounder) (x y z : Nat) : Rounded :=
  match v with
  | 0 => fAdd f k x y
  | 1 => fSub f k x y
  | 2 => fMul f k x y
  | 3 => fFma f k x y z
  | 4 => fDiv f k x y
  | 5 => fSqrt f k x
  | 6 => bare (fMin f x y)
  | _ => bare (fMax f x y)

theorem execSfop_sends :
    let w := tyWidth r.ty.toNat
    let a := argsOf r.ar.toNat s.firing ((sfopWord s r).setWidth 512)
    let q := sfopResult r.var.toNat (tyFmt r.ty.toNat) (rounderAt s s.firing (r.lit.extractLsb' 0 3).toNat true 0)
      (a.a.low w).toNat (a.b.low w).toNat (a.c.low w).toNat
    let v := some ((BitVec.ofNat 64 q.code).setWidth 512, false)
    exec (.sfop r) s = .next (computed s r a s.sideband.stackNo.toNat s.firing.course.toNat false false v v q.flags) := by
  intro w a q v
  show execSfop r s = _
  unfold execSfop
  simp only [sfopArgs_eq, pureNode_eq, word64_eq, bitsAt_eq, ← Opnd.low_toNat _ (tyWidth_le _)]
  rfl

end

/-- Settles O28: SFOP is `sfopResult` of its VAR on the codes of its operands. -/
theorem scalarFloatComputes : Obligations.ScalarFloatComputes := by
  unfold Obligations.ScalarFloatComputes
  intro r s _ _ f w g lit a k x y z gives
  have hgives : gives (sfopResult r.var.toNat f k x y z) := execSfop_sends
  refine ⟨?_, ?_, ?_, ?_, ?_, ?_, ?_, ?_⟩ <;> intro hv <;> rw [hv] at hgives <;> exact hgives

end Sys2Proof.Machine
end

section
/-! PROOF. Memory records at issue: the checks, the use of translations and the wave buffer (R212, R215, R316). -/

namespace Sys2Proof.Machine

/-! ### States that differ in bays alone -/

/-- Nothing but bays differs. -/
def BaysOnly (s u : State) : Prop := ∃ bs, u = { s with bays := bs }

section
variable {s t u : State}

theorem BaysOnly.refl (s : State) : BaysOnly s s := ⟨s.bays, rfl⟩

theorem BaysOnly.trans (h : BaysOnly s t) (k : BaysOnly t u) : BaysOnly s u := by
  obtain ⟨_, rfl⟩ := h
  obtain ⟨_, rfl⟩ := k
  exact ⟨_, rfl⟩

theorem BaysOnly.firing (h : BaysOnly s u) : u.firing = s.firing := by obtain ⟨_, rfl⟩ := h; rfl
theorem BaysOnly.mem (h : BaysOnly s u) : u.mem = s.mem := by obtain ⟨_, rfl⟩ := h; rfl

/-- What an access reads stands in no bay. -/
theorem BaysOnly.readAccess (h : BaysOnly s u) (c cx : Nat) (as : List Nat) (cls : Nat) :
    u.readAccess c cx as cls = s.readAccess c cx as cls := by obtain ⟨_, rfl⟩ := h; rfl
end

theorem modBay_baysOnly (s : State) (c b : Nat) (f : Bay → Bay) : BaysOnly s (s.modBay c b f) := ⟨_, rfl⟩
theorem modOwn_baysOnly (s : State) (g : Firing) (f : Cast → Cast) : BaysOnly s (s.modOwn g f) := State.modCast_eq ..

/-! ### The use of translations (R316) -/

theorem tlbUse_baysOnly (s : State) (c b cx va n : Nat) : BaysOnly s (tlbUse s c b cx va n) := by
  have hput : ∀ (t : State) (a : Nat), BaysOnly t (match t.tlbHit c b cx a with | some x => tlbPut t c b x | none => t) := by
    intro t a
    cases t.tlbHit c b cx a with
    | none => exact .refl t
    | some x => exact modBay_baysOnly ..
  exact (hput s _).trans (hput _ _)

theorem tlbPut_frame? (s : State) (c b : Nat) (t : TlbEntry) (c' b' ft : Nat) :
    (tlbPut s c b t).frame? c' b' ft = s.frame? c' b' ft := by
  apply State.frame?_of_frames
  apply State.frames_modBay
  exact fun _ => rfl

/-- The order of use of a bay's translations is no part of a frame. -/
theorem tlbUse_frame? (s : State) (c b cx va n c' b' ft : Nat) : (tlbUse s c b cx va n).frame? c' b' ft = s.frame? c' b' ft := by
  have hput : ∀ (t : State) (a : Nat),
      (match t.tlbHit c b cx a with | some x => tlbPut t c b x | none => t).frame? c' b' ft = t.frame? c' b' ft := by
    intro t a
    cases t.tlbHit c b cx a with
    | none => rfl
    | some x => exact tlbPut_frame? ..
  exact (hput _ _).trans (hput s _)

theorem usePages_baysOnly (s : State) (g : Firing) (x n : Nat) : BaysOnly s (s.usePages g x n) := by
  unfold State.usePages
  split
  · exact .refl s
  · exact tlbUse_baysOnly ..

@[simp] theorem usePages_frame? (s : State) (g : Firing) (x n c b ft : Nat) :
    (s.usePages g x n).frame? c b ft = s.frame? c b ft := by
  unfold State.usePages
  split
  · rfl
  · exact tlbUse_frame? ..

@[simp] theorem usePages_cast? (s : State) (g : Firing) (x n c b ft : Nat) :
    (s.usePages g x n).cast? c b ft = s.cast? c b ft := by
  simp only [State.cast?, usePages_frame?]

@[simp] theorem usePages_firing (s : State) (g : Firing) (x n : Nat) : (s.usePages g x n).firing = s.firing :=
  (usePages_baysOnly s g x n).firing

/-! ### The wave buffer (R215) -/

theorem waveIn_baysOnly (s : State) (op : Nat) (r : NodeRec) (load performed : Bool) :
    BaysOnly s (waveIn s op r load performed) := modOwn_baysOnly ..

theorem waveMark_baysOnly (s : State) (op : Nat) (r : NodeRec) (load performed : Bool) :
    BaysOnly s (waveMark s op r load performed) := (waveIn_baysOnly ..).trans (modOwn_baysOnly ..)

theorem holdWrite_baysOnly (s : State) (op : Nat) (r : NodeRec) : BaysOnly s (holdWrite s op r) :=
  (waveIn_baysOnly ..).trans (modOwn_baysOnly ..)

@[simp] theorem waveIn_firing (s : State) (op : Nat) (r : NodeRec) (load performed : Bool) :
    (waveIn s op r load performed).firing = s.firing := (waveIn_baysOnly ..).firing

@[simp] theorem waveMark_firing (s : State) (op : Nat) (r : NodeRec) (load performed : Bool) :
    (waveMark s op r load performed).firing = s.firing := (waveMark_baysOnly ..).firing

@[simp] theorem holdWrite_firing (s : State) (op : Nat) (r : NodeRec) : (holdWrite s op r).firing = s.firing :=
  (holdWrite_baysOnly ..).firing

/-- A record that enters the wave buffer leaves what its cast holds for the commit. -/
theorem waveIn_held (s : State) (op : Nat) (r : NodeRec) (load performed : Bool) :
    ((waveIn s op r load performed).cast? s.firing.course.toNat s.firing.bay s.firing.ft.toNat).map Cast.held =
      (s.cast? s.firing.course.toNat s.firing.bay s.firing.ft.toNat).map Cast.held := by
  unfold waveIn
  rw [State.cast?_modOwn, Option.map_map]
  congr 1
  funext k
  simp only [Function.comp_apply]
  split <;> rfl

/-! ### A record that acts -/

/-- A record acts when the wave buffer has room for it. -/
theorem waveNode_free {s : State} (op : Nat) (r : NodeRec) (act : State → State)
    (h : waveCount s s.firing.course.toNat s.firing.bay < 1024) : waveNode s op r act = act s := by
  unfold waveNode
  exact if_neg fun hfull => by omega

/-- A write that passes its checks. -/
theorem writeChecked_ok {s : State} {op x n al cls : Nat} {r : NodeRec} {as : List Nat} {lost : Bool} {k : Nat} (act : State → State)
    (h : s.access s.firing.course.toNat s.firing.bay s.firing.cx.toNat x n al cls true = .ok as lost k) :
    writeChecked s op r x n al cls act = act (s.usePages s.firing x n) := by
  simp only [writeChecked, h]

end Sys2Proof.Machine
end

section
/-! PROOF. What a load sends, and the held writes that it sees (R215, R218 to R221, R319). -/

namespace Sys2Proof.Machine

/-! ### The held write that a load sees (R215) -/

/-- The newest write so far that covers a byte, with its wave sequence, after one more held write. -/
def newerWrite (a : Nat) (m : Option (Nat × Byte)) (h : Nat × List (Nat × Byte)) : Option (Nat × Byte) :=
  match lkp h.2 a, m with
  | none, _ => m
  | some v, none => some (h.1, v)
  | some v, some (o, w) => if o < h.1 then some (h.1, v) else some (o, w)

theorem forwardByte_eq (s : State) (held : List (Nat × List (Nat × Byte))) (a : Nat) :
    forwardByte s held a = ((held.foldl (newerWrite a) none).map Prod.snd).getD (Memory.read s.mem a) := by
  have hfold : ∀ f, f = newerWrite a → (match held.foldl f none with | some (_, v) => v | none => Memory.read s.mem a) =
      ((held.foldl (newerWrite a) none).map Prod.snd).getD (Memory.read s.mem a) := by
    rintro _ rfl
    cases held.foldl (newerWrite a) none <;> rfl
  refine hfold _ ?_
  funext m h
  unfold newerWrite
  cases lkp h.2 a <;> cases m <;> rfl

section
variable {a : Nat} {held : List (Nat × List (Nat × Byte))} {m : Option (Nat × Byte)} {o : Nat} {v : Byte}

theorem foldl_newerWrite_uncovered (h : ∀ q ∈ held, lkp q.2 a = none) : held.foldl (newerWrite a) m = m :=
  foldl_eq_self fun q hq => by simp only [newerWrite, h q hq]

/-- The newest write found stays when no later one of the list is newer. -/
theorem foldl_newerWrite_newest (h : ∀ q ∈ held, lkp q.2 a ≠ none → q.1 ≤ o) :
    held.foldl (newerWrite a) (some (o, v)) = some (o, v) := by
  refine foldl_eq_self fun q hq => ?_
  cases hc : lkp q.2 a with
  | none => simp only [newerWrite, hc]
  | some w => simp only [newerWrite, hc, if_neg (Nat.not_lt.mpr (h q hq (by simp [hc])))]

/-- The write of the list that covers the byte and is newer than every other one is found. -/
theorem foldl_newerWrite_finds {bs : List (Nat × Byte)} (hmem : (o, bs) ∈ held) (hv : lkp bs a = some v)
    (hold : ∀ q ∈ held, lkp q.2 a ≠ none → q = (o, bs) ∨ q.1 < o) (hm : ∀ x ∈ m, x.1 < o ∨ x = (o, v)) :
    held.foldl (newerWrite a) m = some (o, v) := by
  induction held generalizing m with
  | nil => cases hmem
  | cons q held ih =>
    have hrest : ∀ q ∈ held, lkp q.2 a ≠ none → q = (o, bs) ∨ q.1 < o := fun x hx => hold x (.tail _ hx)
    rw [List.foldl_cons]
    by_cases hq : q = (o, bs)
    · -- the write itself: it is newer than what stood before it, and stays
      have hfound : newerWrite a m q = some (o, v) := by
        subst hq
        cases m with
        | none => simp only [newerWrite, hv]
        | some x =>
          obtain hx | rfl := hm x rfl
          · simp only [newerWrite, hv, if_pos hx]
          · simp only [newerWrite, hv, Nat.lt_irrefl, if_false]
      rw [hfound]
      refine foldl_newerWrite_newest fun x hx hc => ?_
      obtain rfl | hlt := hrest x hx hc
      · exact Nat.le_refl _
      · exact hlt.le
    · -- an older one, or one that does not cover the byte
      refine ih ((List.mem_cons.mp hmem).resolve_left (Ne.symm hq)) hrest ?_
      intro x hx
      cases hc : lkp q.2 a with
      | none =>
        simp only [newerWrite, hc] at hx
        exact hm x hx
      | some w =>
        have hlt : q.1 < o := (hold q (.head _) (by simp [hc])).resolve_left hq
        cases m with
        | none =>
          simp only [newerWrite, hc, Option.mem_def, Option.some.injEq] at hx
          exact .inl (hx ▸ hlt)
        | some y =>
          simp only [newerWrite, hc, Option.mem_def] at hx
          split at hx
          · exact .inl ((Option.some.inj hx) ▸ hlt)
          · exact hm x hx
end

/-- The held writes of a cast that come before a load in its wave, with the bytes that they would write (R215). -/
def earlierWrites (s : State) (k : Cast) (r : NodeRec) : List (Nat × List (Nat × Byte)) :=
  (k.held.filter fun p => decide (litOwn p.r < litOwn r)).map fun p => (litOwn p.r, heldBytes s p)

theorem mem_earlierWrites {s : State} {k : Cast} {r : NodeRec} {q : Nat × List (Nat × Byte)} :
    q ∈ earlierWrites s k r ↔ ∃ p ∈ k.held, litOwn p.r < litOwn r ∧ q = (litOwn p.r, heldBytes s p) := by
  simp only [earlierWrites, List.mem_map, List.mem_filter, decide_eq_true_eq, and_assoc]
  exact exists_congr fun p => and_congr_right fun _ => and_congr_right fun _ => eq_comm

theorem loadBytes_of {s : State} {r : NodeRec} {g : Firing} {k : Cast} (as : List Nat) (cls : Nat)
    (hk : s.cast? g.course.toNat g.bay g.ft.toNat = some k) : loadBytes s r g as cls =
      if cls = 4 then s.readAccess g.course.toNat g.cx.toNat as cls else as.map (forwardByte s (earlierWrites s k r)) := by
  simp only [loadBytes, hk]
  rfl

/-- Settles O10: of the held writes before the load, the newest that covers a byte gives it. -/
theorem loadsForwardHeldWrites : Obligations.LoadsForwardHeldWrites := by
  unfold Obligations.LoadsForwardHeldWrites
  intro s r g as cls k hk hcls j a v ha hv
  have hbyte : v = forwardByte s (earlierWrites s k r) a := by
    simpa [loadBytes_of as cls hk, hcls, ha, eq_comm] using hv
  rw [hbyte, forwardByte_eq]
  refine ⟨fun hnone => ?_, fun p hp hown hcov hnewest => ?_⟩
  · have huncovered : ∀ q ∈ earlierWrites s k r, lkp q.2 a = none := by
      intro q hq
      obtain ⟨p, hp, hown, rfl⟩ := mem_earlierWrites.mp hq
      exact hnone p hp hown
    rw [foldl_newerWrite_uncovered huncovered]
    rfl
  · obtain ⟨w, hw⟩ := Option.ne_none_iff_exists'.mp hcov
    have hold : ∀ q ∈ earlierWrites s k r, lkp q.2 a ≠ none → q = (litOwn p.r, heldBytes s p) ∨ q.1 < litOwn p.r := by
      intro q hq hc
      obtain ⟨p', hp', hown', rfl⟩ := mem_earlierWrites.mp hq
      by_cases heq : p' = p
      · exact .inl (by rw [heq])
      · exact .inr (hnewest p' hp' heq hown' hc)
    rw [foldl_newerWrite_finds (mem_earlierWrites.mpr ⟨p, hp, hown, rfl⟩) hw hold (by simp), hw]
    rfl

/-! ### What a load sends (R211, R218) -/

/-- With no held write, a load reads memory, or for a window the mirror. -/
theorem loadBytes_unheld {s : State} {r : NodeRec} {g : Firing} {k : Cast} (as : List Nat) (cls : Nat)
    (hk : s.cast? g.course.toNat g.bay g.ft.toNat = some k) (hh : k.held = []) : loadBytes s r g as cls =
      if cls = 4 then s.readAccess g.course.toNat g.cx.toNat as cls else as.map (Memory.read s.mem) := by
  rw [loadBytes_of as cls hk]
  simp only [earlierWrites, hh]
  rfl

theorem ofNat_512_eq {n : Nat} (h : n < 2 ^ 64) : BitVec.ofNat 512 n = (BitVec.ofNat 64 n).setWidth 512 := by
  apply BitVec.eq_of_toNat_eq
  rw [BitVec.toNat_setWidth, BitVec.toNat_ofNat, BitVec.toNat_ofNat, Nat.mod_eq_of_lt h]

theorem wrap64_lt (t : Nat) (x : Int) : wrap64 t x < 2 ^ 64 := by
  have hmod : ∀ (y : Int) (w : Nat), natMod y w < 2 ^ w := fun y w => by
    have : (0 : Int) < ((2 ^ w : Nat) : Int) := by positivity
    have := Int.emod_lt_of_pos y this
    unfold natMod
    omega
  unfold wrap64 wrapLane
  split
  · exact hmod _ _
  · exact (hmod _ _).trans_le (Nat.pow_le_pow_right two_pos (tyWidth_le t))

/-- An integer leaves a control-plane load extended, all else as its bytes stand (R218). -/
theorem loadValue_eq (op : Nat) (r : NodeRec) (bs : List Byte) : loadValue op r bs =
    if op ≠ 0x92 ∧ op ≠ 0x97 ∧ r.ty.toNat < 8 then
      (extended r.ty.toNat (BitVec.ofNat (tyWidth r.ty.toNat) (leNat bs))).setWidth 512
    else BitVec.ofNat 512 (leNat bs) := by
  have hint : BitVec.ofNat 512 (wrap64 r.ty.toNat (intVal r.ty.toNat (leNat bs))) =
      (extended r.ty.toNat (BitVec.ofNat (tyWidth r.ty.toNat) (leNat bs))).setWidth 512 := by
    rw [ofNat_512_eq (wrap64_lt _ _), wrap64_eq, intVal_eq, ofInt_valueIn]
  unfold loadValue
  by_cases hv : op = 0x92 ∨ op = 0x97
  · rw [if_pos hv, if_neg (by tauto)]
  · by_cases ht : r.ty.toNat < 8
    · simp [ht, tyInt, hint, not_or.mp hv]
    · simp [hv, ht, tyInt]

/-! ### A load that acts (R212, R215, R220, R221) -/

section
variable {op : Nat} {i : Instr} {r : NodeRec} {s : State}

theorem exec_load (hi : (op, i) ∈ [(0x90, Instr.ld r), (0x92, .vld r), (0x94, .ldx r), (0x96, .ldl r), (0x97, .vldx r)]) :
    exec i s = .next (loadNode op r s) := by
  simp only [List.mem_cons, Prod.mk.injEq, List.not_mem_nil, or_false] at hi
  rcases hi with ⟨rfl, rfl⟩ | ⟨rfl, rfl⟩ | ⟨rfl, rfl⟩ | ⟨rfl, rfl⟩ | ⟨rfl, rfl⟩ <;> rfl

theorem isHandle_of_top {x : Nat} (h : x / 2 ^ 60 = 0xF) : isHandle x = true := by rw [isHandle, h]; rfl

/-- A load that passes its checks acts. -/
theorem loadNode_passes {x cls : Nat} {as : List Nat} {lost : Bool} (hact : actsFreely s r (argsOf r.ar.toNat s.firing 0))
    (hp : firingP s.firing = false) (haddr : memAddr op r s.firing (memWidth op r) = .addr x)
    (hldl : op = 0x96 → (s.firing.a.getD (plain 0)).word / 2 ^ 60 = 0xF)
    (hroom : waveCount s s.firing.course.toNat s.firing.bay < 1024)
    (hacc : s.access s.firing.course.toNat s.firing.bay s.firing.cx.toNat x (memWidth op r) (memAlign op r) clsLoad false =
      .ok as lost cls)
    (hreach : ∀ y ∈ as, s.unreachable y = false) : loadNode op r s = loadAct op r x s as lost cls := by
  have hkind : ¬ (op = 0x96 ∧ isHandle (s.firing.a.getD (plain 0)).word = false) := fun h => by
    simp [isHandle_of_top (hldl h.1)] at h
  have hroute : as.any s.unreachable = false := by simpa using hreach
  unfold loadNode
  rw [actNode_free _ hact, waveNode_free _ _ _ hroom]
  simp only [hp, haddr, hkind, hacc, hroute, Bool.false_eq_true, if_false]

/-- A load whose turn in the wave has come is read, and sends what it reads. -/
theorem loadAct_ready {x cls : Nat} {as : List Nat} {lost : Bool} :
    let u := waveIn (s.usePages s.firing x (memWidth op r)) op r true false
    let t := waveIn u op r true true
    let t := if op = 0x96 then holdEffect t op r else t
    loadReady u s.firing (litOwn r) = true → loadAct op r x s as lost cls =
      sendsAfter t r (loadValue op r (loadBytes u r s.firing as cls)) lost
        (t.accessDelay s.firing.course.toNat s.firing.bay (as.headD 0) cls) := by
  intro u t t' hready
  have hfir : t'.firing = s.firing := by
    simp only [t', t, u]
    split <;> simp
  unfold loadAct
  simp only []
  rw [if_pos hready, ← emitAfter_eq, hfir]
end

/-! ### Latencies (R319) -/

theorem State.localPA_of_lt (s : State) {a : Nat} (h : a < 2 ^ 55) : s.localPA a = a := by
  have : isPodPA a = false := by rw [isPodPA, Nat.div_eq_of_lt h]; rfl
  simp [State.localPA, this]

theorem nearDelay_eq (c b hc hb : Nat) : nearDelay c b hc hb =
    let apart := fun (x y : Nat) => (x - y) + (y - x)
    let h := apart (b % 16) (hb % 16) + apart (b / 16) (hb / 16) + 2
    if hc = c ∧ hb = b then 6 else if hc = c then 20 + h else 20 + h + 24 := by
  unfold nearDelay
  simp only [eq_comm (a := c), eq_comm (a := b)]
  split
  · rfl
  · split <;> omega

section
variable (s : State) (c b : Nat) {hc hb off : Nat} (hcl : hc < 16) (hbl : hb < 256) (ho : off < 2 ^ 20)
include hcl hbl ho

theorem nearPA_home : nearPA hc hb off < 2 ^ 32 ∧ nearPA hc hb off / 2 ^ 28 % 16 = hc ∧ nearPA hc hb off / 2 ^ 20 % 256 = hb := by
  unfold nearPA
  omega

theorem accessDelay_near : s.accessDelay c b (nearPA hc hb off) 0 = nearDelay c b hc hb := by
  obtain ⟨hlt, hcourse, hbay⟩ := nearPA_home hcl hbl ho
  have hnear : isNearPA (nearPA hc hb off) = true := decide_eq_true hlt
  simp only [State.accessDelay, s.localPA_of_lt (hlt.trans (by norm_num)), hcourse, hbay, hnear, OfNat.zero_ne_ofNat,
    if_false, if_true]

theorem atomDelay_near : s.atomDelay c b (nearPA hc hb off) = nearDelay c b hc hb + 2 := by
  obtain ⟨hlt, -⟩ := nearPA_home hcl hbl ho
  have hnear : isNearPA (nearPA hc hb off) = true := decide_eq_true hlt
  simp only [State.atomDelay, s.localPA_of_lt (hlt.trans (by norm_num)), accessDelay_near s c b hcl hbl ho, hnear, if_true]
end

/-- A window entry is read in the bay of the accessing bay's row that holds it. -/
theorem accessDelay_window (s : State) (c b : Nat) {e : Nat} (he : e < 2 ^ 13) :
    s.accessDelay c b (128 * e) 4 = nearDelay c b c (e % 16 + b / 16 * 16) := by
  rw [State.accessDelay, s.localPA_of_lt (by omega), if_pos rfl, Nat.mul_div_cancel_left _ (by decide)]

theorem accessDelay_far (s : State) (c b : Nat) {d : Nat} (hd : d < farSize) :
    s.accessDelay c b (farBase + d) 0 = 532 ∧ s.atomDelay c b (farBase + d) = 546 := by
  have hlt : farBase + d < 2 ^ 55 := by
    unfold farBase
    unfold farSize at hd
    omega
  have hloc : s.localPA (farBase + d) = farBase + d := s.localPA_of_lt hlt
  have hnear : isNearPA (farBase + d) = false := decide_eq_false (by unfold farBase; omega)
  have hfar : isFarPA (farBase + d) = true := by simp [isFarPA, hd]
  simp [State.accessDelay, State.atomDelay, hloc, hnear, hfar]

/-- Settles O9: a load that passes its checks in its turn reads memory, as its cast holds no write, and its latency is that of its
home. -/
theorem loadsReadMemory : Obligations.LoadsReadMemory := by
  unfold Obligations.LoadsReadMemory
  refine ⟨?_, ?_⟩
  · intro r s op i x cls as lost k hi g c n u t t' bs hact hp haddr hldl hroom hacc hreach hk hh hready
    obtain ⟨k', hk', hh'⟩ : ∃ k', u.cast? c g.bay g.ft.toNat = some k' ∧ k'.held = [] := by
      have hheld := waveIn_held (s.usePages g x n) op r true false
      simp only [usePages_firing, usePages_cast?] at hheld
      rw [hk, Option.map_some, hh] at hheld
      exact Option.map_eq_some_iff.mp hheld
    have hu : BaysOnly s u := (usePages_baysOnly s g x n).trans (waveIn_baysOnly ..)
    have hbytes : loadBytes u r g as cls =
        if cls = 4 then s.readAccess c g.cx.toNat as cls else as.map (Memory.read s.mem) := by
      rw [loadBytes_unheld as cls hk' hh', hu.readAccess, hu.mem]
    rw [exec_load hi, loadNode_passes hact hp haddr hldl hroom hacc hreach, loadAct_ready hready, loadValue_eq, hbytes]
  · intro s c b hc hb off hcl hbl hhc hhb ho apart h near
    refine ⟨?_, ?_, fun e he => ?_, fun d hd => accessDelay_far s c b hd⟩
    · rw [accessDelay_near s c b hhc hhb ho, nearDelay_eq]
    · rw [atomDelay_near s c b hhc hhb ho, nearDelay_eq]
    · rw [accessDelay_window s c b he, nearDelay_eq]
      simp only [apart]
      have hrow : (e % 16 + b / 16 * 16) / 16 = b / 16 := by omega
      have hcol : (e % 16 + b / 16 * 16) % 16 = e % 16 := by omega
      have hbay : e % 16 + b / 16 * 16 = b ↔ e % 16 = b % 16 := by omega
      simp only [hrow, hcol, hbay, true_and, if_true]
      split
      · rfl
      · omega

end Sys2Proof.Machine
end

section
/-! PROOF. Atomics, combining, fences, barriers and shadow pages at issue, and the update of an atomic at its home (R224, R225,
R232, R235 to R241, R319). -/

namespace Sys2Proof.Machine

/-! ### Atomics (R224, R225) -/

theorem pendOf_op {op : Nat} (h : op < 256) (r : NodeRec) (g : Firing) : (pendOf op r g).op = op :=
  (recOp_recWord op r).trans (Nat.mod_eq_of_lt h)

/-- The truth of a comparison as a control value. -/
theorem word64_decide (p : Prop) [Decidable p] : word64 (decide p).toNat = some (if p then 1#512 else 0#512, false) := by
  by_cases h : p <;> simp [word64, h]

section
variable {r : NodeRec} {s : State}

/-- An atomic that passes its checks holds its update, and sends nothing. -/
theorem atomNode_holds {op x cls : Nat} {as : List Nat} {lost : Bool} (hact : actsFreely s r (argsOf r.ar.toNat s.firing 0))
    (hp : firingP s.firing = false) (hroom : waveCount s s.firing.course.toNat s.firing.bay < 1024)
    (haddr : memAddr op r s.firing (ctlBytes r) = .addr x)
    (hacc : s.access s.firing.course.toNat s.firing.bay s.firing.cx.toNat x (ctlBytes r) (ctlBytes r) clsStore true =
      .ok as lost cls) : atomNode op r s = holdWrite (s.usePages s.firing x (ctlBytes r)) op r := by
  unfold atomNode
  rw [actNode_free _ hact, waveNode_free _ _ _ hroom]
  simp only [hp, haddr, Bool.false_eq_true, if_false]
  exact writeChecked_ok _ hacc

variable {g : Firing} {x : Nat} {s' : State} {as : List Nat} (hp : firingP g = false)
  (hland : land s g x (ctlBytes r) (ctlBytes r) clsStore = .at_ s' as)
include hp hland

/-- ATOM at its home: f of the old value and B is written, and the old value leaves on both destinations. -/
theorem performAtomic_atom (haddr : memAddr 0xA0 r g (ctlBytes r) = .addr x) :
    let old := leNat (readBytes s' as)
    let v := word64 (extendTy r.ty.toNat old)
    let u := atomUpd r.ty.toNat r.var.toNat old (g.b.getD (plain 0)).word
    let t := setFlags (writeBytes s' (as.zip (leBytes (ctlBytes r) u.1))) g.cx.toNat u.2
    performAtomic s (pendOf 0xA0 r g) = .done (delaySince t (emitVals t r g false v v) g
      (s'.cycles + s'.atomDelay g.course.toNat g.bay (as.headD 0))) := by
  simp only [performAtomic, pendOf_op (show 0xA0 < 256 by decide), pendOf_r, pendOf_fir, haddr, hp, hland, Bool.false_eq_true,
    if_false, if_true]

/-- CAS at its home: C is written when the old value is B, and the old value leaves with the match. -/
theorem performAtomic_cas (haddr : memAddr 0xA1 r g (ctlBytes r) = .addr x) :
    let old := leNat (readBytes s' as)
    let hit := old = (g.b.getD (plain 0)).word % 2 ^ (8 * ctlBytes r)
    let t := if hit then writeBytes s' (as.zip (leBytes (ctlBytes r) (g.c.getD (plain 0)).word)) else s'
    performAtomic s (pendOf 0xA1 r g) = .done (delaySince t
      (emitVals t r g false (word64 (extendTy r.ty.toNat old)) (some (if hit then 1#512 else 0#512, false))) g
      (s'.cycles + s'.atomDelay g.course.toNat g.bay (as.headD 0))) := by
  simp only [performAtomic, pendOf_op (show 0xA1 < 256 by decide), pendOf_r, pendOf_fir, haddr, hp, hland, Bool.false_eq_true,
    if_false, if_neg (show ¬ 0xA1 = 0xA0 by decide), beq_eq_decide, decide_eq_true_eq, word64_decide]
end

/-- Settles O13: held at issue; at its home an atomic reads, updates and sends the old value. -/
theorem atomicsUpdateAtCommit : Obligations.AtomicsUpdateAtCommit := by
  unfold Obligations.AtomicsUpdateAtCommit
  intro r s x cls as lost g n
  refine ⟨fun hact hp hroom => ⟨fun haddr hacc => ?_, fun haddr hacc => ?_⟩, ?_⟩
  · exact congrArg _ (atomNode_holds hact hp hroom haddr hacc)
  · exact congrArg _ (atomNode_holds hact hp hroom haddr hacc)
  · intro s' as' hp haddr hland old b v hit sent
    refine ⟨?_, ?_⟩
    · rw [performAtomic_atom hp hland haddr, word64_eq]
    · rw [performAtomic_cas hp hland haddr, word64_eq]

/-! ### Operands A, B and C without marks -/

/-- Where A, B and C carry no mark, neither do the operands of a record that reads fewer of them. -/
theorem argsOf_three_unmarked {g : Firing} {l : Payload} (he : (argsOf 3 g l).e = false) (hp : (argsOf 3 g l).p = false) :
    (g.a.getD (plain 0)).p = false ∧ (g.b.getD (plain 0)).p = false ∧ (g.c.getD (plain 0)).p = false ∧
      ∀ ar, ar = 0 ∨ ar = 1 → (argsOf ar g l).e = false ∧ (argsOf ar g l).p = false := by
  simp only [argsOf, Nat.reduceEqDiff, ↓reduceIte, OfNat.ofNat_ne_one, or_self, or_false, or_true,
    Bool.or_eq_false_iff] at he hp
  obtain ⟨⟨⟨hae, hbe⟩, hce⟩, hse⟩ := he
  obtain ⟨⟨⟨hap, hbp⟩, hcp⟩, hsp⟩ := hp
  refine ⟨hap, hbp, hcp, ?_⟩
  rintro _ (rfl | rfl) <;> simp [argsOf, hae, hbe, hap, hbp, hse, hsp]

theorem actsFreely_fewer {s : State} {r : NodeRec} {l : Payload} (h : actsFreely s r (argsOf 3 s.firing l)) {ar : Nat}
    (har : ar = 0 ∨ ar = 1) : actsFreely s r (argsOf ar s.firing l) := by
  obtain ⟨htag, hskip, hbit, he, hp⟩ := h
  obtain ⟨-, -, -, hfew⟩ := argsOf_three_unmarked he hp
  exact ⟨htag, hskip, hbit, hfew ar har⟩

/-! ### Combining, fences, barriers and shadow pages at issue (R232, R235 to R241) -/

section
variable {r : NodeRec} {s : State}

section
variable (hact : actsFreely s r (argsOf 3 s.firing 0)) (hroom : waveCount s s.firing.course.toNat s.firing.bay < 1024)
include hact hroom

theorem execCmb_sends {cls : Nat} {as : List Nat} {lost : Bool} (h1 : 1 ≤ (s.firing.c.getD (plain 0)).word)
    (h16 : (s.firing.c.getD (plain 0)).word ≤ 16) :
    let x := addrPlus (s.firing.a.getD (plain 0)).word (litOff r * cmbBytes r)
    s.access s.firing.course.toNat s.firing.bay s.firing.cx.toNat x (cmbBytes r) (cmbBytes r) clsStore true = .ok as lost cls →
    exec (.cmb r) s = .next (sendsPayload (holdWrite (s.usePages s.firing x (cmbBytes r)) 0xA5 r) r
      (s.firing.b.getD (plain 0)).val false) := by
  intro x hacc
  have ⟨_, _, _, he, hp⟩ := hact
  obtain ⟨hap, hbp, hcp, -⟩ := argsOf_three_unmarked he hp
  have hcount : ¬ ((s.firing.c.getD (plain 0)).word / 2 ^ 5 ≠ 0 ∨ (s.firing.c.getD (plain 0)).word = 0 ∨
      16 < (s.firing.c.getD (plain 0)).word) := by omega
  show Host.Outcome.next (actNode s r _ _) = _
  rw [actNode_free _ hact, waveNode_free _ _ _ hroom]
  simp only [hap, hcp, Bool.or_self, Bool.false_eq_true, if_false, if_neg hcount]
  rw [writeChecked_ok _ hacc, emitData_of _ _ _ _ _ (by simp), hbp]

/-- FENCE: one with release stands among the held writes too. -/
theorem execFence_sends : exec (.fence r) s = .next (sendsValue
    (if litOrd r = 2 ∨ litOrd r = 3 then holdWrite s 0xA6 r else waveIn s 0xA6 r false true) r
    ((s.firing.a.getD (plain 0)).low 64) false) := by
  have hone := actsFreely_fewer hact (.inl rfl)
  have ⟨_, _, _, _, hmark⟩ := hone
  show Host.Outcome.next (actNode s r _ _) = _
  rw [actNode_free _ hone, waveNode_free _ _ _ hroom]
  simp only [Bool.or_eq_true, beq_iff_eq, hmark]
  rw [emitWord_opnd _ _ _ (by split <;> simp)]
  rfl

theorem execBarArrive_holds (hn : (s.firing.b.getD (plain 0)).word % 2 ^ 16 ≠ 0) :
    exec (.barArrive r) s = .next (holdWrite s 0xA7 r) := by
  have hzero : ((s.firing.b.getD (plain 0)).word % 2 ^ 16 == 0) = false := beq_eq_false_iff_ne.mpr hn
  show Host.Outcome.next (actNode s r _ _) = _
  rw [actNode_free _ (actsFreely_fewer hact (.inr rfl)), waveNode_free _ _ _ hroom]
  simp only [hzero, Bool.and_false, Bool.false_eq_true, if_false]

theorem execBarWait_passes
    (hdone : (s.barrier s.firing.cx (litScope r) (barNum r) (barUnit s.firing (litScope r))).completed
      ((s.firing.a.getD (plain 0)).low 16) = true) :
    exec (.barWait r) s =
      .next (sendsValue (waveMark s 0xA7 r false true) r ((s.firing.a.getD (plain 0)).low 64) false) := by
  have ⟨_, _, _, he, hp⟩ := hact
  obtain ⟨hap, -⟩ := argsOf_three_unmarked he hp
  rw [Opnd.low_eq_ofNat _ (by decide)] at hdone
  show Host.Outcome.next (actNode s r _ _) = _
  rw [actNode_free _ (actsFreely_fewer hact (.inl rfl)), waveNode_free _ _ _ hroom]
  simp only [hap, hdone, Bool.false_eq_true, if_false, if_true]
  rw [emitWord_opnd _ _ _ (waveMark_firing ..)]

theorem execPublish_sends {cls : Nat} {as : List Nat} {lost : Bool} :
    let y := addrPlus (s.firing.a.getD (plain 0)).word (litOff r)
    addrKind y = .virt →
    s.access s.firing.course.toNat s.firing.bay s.firing.cx.toNat y 1 1 clsShadow true = .ok as lost cls →
    exec (.publish r) s = .next (sendsValue (holdWrite (s.usePages s.firing y 1) 0xA8 r) r
      ((s.firing.a.getD (plain 0)).low 64) false) := by
  intro y hkind hacc
  have ⟨_, _, _, he, hp⟩ := hact
  obtain ⟨hap, -⟩ := argsOf_three_unmarked he hp
  show Host.Outcome.next (actNode s r _ _) = _
  rw [actNode_free _ (actsFreely_fewer hact (.inl rfl)), waveNode_free _ _ _ hroom]
  simp only [hap, Bool.false_eq_true, if_false, shadowChecked, if_true]
  rw [if_neg (by rw [hkind]; decide), hacc]
  simp only []
  rw [emitWord_opnd _ _ _ (by simp)]
end

/-- The address of a page's other copy, by parts and by masks. -/
theorem ofNat_alias (a : Opnd) :
    BitVec.ofNat 64 (0xE0 * 2 ^ 56 + a.word % 2 ^ 56) = 0xE000000000000000#64 ||| (a.low 56).setWidth 64 := by
  apply BitVec.eq_of_toNat_eq
  have hlow : a.word % 2 ^ 56 < 2 ^ 56 := Nat.mod_lt _ (by positivity)
  rw [BitVec.toNat_or, BitVec.toNat_setWidth, a.low_toNat (by decide), BitVec.toNat_ofNat, Nat.mod_eq_of_lt (by omega),
    Nat.mod_eq_of_lt (a := a.word % 2 ^ 56) (by omega), Nat.mul_comm, Nat.two_pow_add_eq_or_of_lt hlow]
  rfl

theorem execShadow_sends (hact : actsFreely s r (argsOf 3 s.firing 0)) {cls : Nat} {as : List Nat} {lost : Bool}
    (hkind : addrKind (s.firing.a.getD (plain 0)).word = .virt) (hcp : bitAt r.lit 0 = false)
    (hacc : s.access s.firing.course.toNat s.firing.bay s.firing.cx.toNat (s.firing.a.getD (plain 0)).word 1 1 clsShadow false =
      .ok as lost cls) :
    exec (.shadow r) s = .next (sendsValue (s.usePages s.firing (s.firing.a.getD (plain 0)).word 1) r
      (0xE000000000000000#64 ||| ((s.firing.a.getD (plain 0)).low 56).setWidth 64) false) := by
  have ⟨_, _, _, he, hp⟩ := hact
  obtain ⟨hap, -⟩ := argsOf_three_unmarked he hp
  show Host.Outcome.next (actNode s r _ _) = _
  rw [actNode_free _ (actsFreely_fewer hact (.inl rfl))]
  simp only [hap, hcp, Bool.false_eq_true, if_false, shadowChecked, if_neg (show ¬ 0xA9 = 0xA8 by decide)]
  rw [if_neg (by rw [hkind]; decide), hacc]
  simp only []
  rw [emitWord_of _ _ _ _ _ (usePages_firing ..), ofNat_alias]
end

/-- Settles O15: each of the six, where its operands are unmarked and its checks pass. -/
theorem combineFenceBarrierShadowAct : Obligations.CombineFenceBarrierShadowAct := by
  unfold Obligations.CombineFenceBarrierShadowAct
  intro r s as lost cls g c a b n e y bar hact hroom z
  exact ⟨fun h1 h16 hacc => execCmb_sends hact hroom h1 h16 hacc,
    fun hord => (execFence_sends hact hroom).trans (by rw [if_neg (by omega)]),
    fun hord => (execFence_sends hact hroom).trans (by rw [if_pos hord]),
    fun _ hn => execBarArrive_holds hact hroom hn,
    fun hdone => execBarWait_passes hact hroom hdone,
    fun hkind hcp hacc => execShadow_sends hact hkind hcp hacc,
    fun hkind hacc => execPublish_sends hact hroom hkind hacc⟩

end Sys2Proof.Machine
end

section
/-! PROOF. A re-firing verdict in a context's sweep, and the fill of a structure word whose bank has no backing (R230, R361, R388,
R396, R426). -/

namespace Sys2Proof.Machine

/-! ### A verdict in a sweep (R361, R388, R426) -/

/-- A cast whose sources a firing injected, aborted. -/
def sweptCast : Cast := { Cast.start 0 0 with aborted := true, injected := true }

/-- Its frame, of context 1. -/
def sweptFrame : Frame :=
  { (default : Frame) with cx := 1, link := { Link.root with e := true, lc := true }, cast := some sweptCast }

/-- The fault of the cast, which the handler of context 1 has answered with RETRY. -/
def sweptFault : FaultEntry where
  holder := 1
  info := { FaultRec.zero with kind := 20, ocx := 1, seq := 1 }
  site := .cast 0 0 5
  entered := true
  due := 0
  delivered := true
  answer := some 0
  settled := false

/-- The reset state with the cast in frame 5 of bay 0 of course 0, whose holder, context 1, is being swept off it. -/
def sweptState : State :=
  { State.reset with
    bays := [(0, { Bay.empty with frames := [(5, sweptFrame)] })]
    courses := [(0, { Course.empty with holder := some 1, sweeping := some (1, 0, 0) })]
    faults := [sweptFault] }

/-- The verdict is due, as context 1 still holds the course, and answers the fault of the cast. -/
theorem sweptFault_due : (sweptState.faults.filter (answerDue sweptState))[(default : EvArgs).k.toNat]? = some sweptFault ∧
    pendingAnswer sweptFault = some 0 ∧ sweptState.frame? 0 0 5 = some sweptFrame := by
  decide +kernel

/-- The re-fired cast is owed its injections: they wait for its context's next slice. -/
theorem execVerdictApply_swept :
    (match exec (.verdictApply default) sweptState with
      | .next t => (t.frame? 0 0 5).bind Frame.cast == some { Cast.start 0 0 with injected := true, owed := true }
      | _ => false) = true := by
  decide +kernel

/-- Refutes O45: RETRY in the sweep of its context re-fires an injected cast with its injections owed (R361), which is not the
cast as it begins. -/
theorem not_faultsAreDeliveredAndAnswered : ¬ Obligations.FaultsAreDeliveredAndAnswered := by
  unfold Obligations.FaultsAreDeliveredAndAnswered
  intro h
  obtain ⟨hdue, hanswer, hframe⟩ := sweptFault_due
  obtain ⟨-, hanswers⟩ := h default sweptState sweptFault
  obtain ⟨hrefires, -⟩ := hanswers hdue
  obtain ⟨u, f, hexec, hf, -, -, -, -, hcast, -⟩ := hrefires 0 0 0 5 sweptFrame sweptCast hanswer (by decide) rfl hframe rfl
  have howed := execVerdictApply_swept
  rw [hexec] at howed
  simp only [beq_iff_eq] at howed
  have hread : u.frame? 0 0 5 = some f := hf
  rw [hread, Option.bind_some, hcast] at howed
  exact absurd howed (by decide +kernel)

/-! ### A fill in a bank without backing (R230, R396) -/

/-- The word at 0x80000, of a bank that has no backing, is filled with 1 and reads 0. -/
theorem get_fillWord_lostBank : (lostBankState.stag 0x80000).wait = false ∧
    Memory.get (fillWord lostBankState 0x80000 1).mem 0x80000 8 = 0 := by
  decide +kernel

/-- IST with OFF = 0 and no destination. -/
def istRec : NodeRec := { var := 0, ty := 7, ar := 1, tg := 0, pl := false, d0 := 0x1FFFFF, d1 := 0x1FFFFF, lit := 0 }

theorem lostBank_actsFreely : ∀ ar ∈ [0, 1], actsFreely lostBankState istRec (argsOf ar lostBankState.firing 0) := by
  have hmarks : ∀ ar ∈ [0, 1], (argsOf ar lostBankState.firing 0).e = false ∧
      (argsOf ar lostBankState.firing 0).p = false := by decide +kernel
  have htag : tagOf lostBankState istRec lostBankState.firing = .ok 0 0 0 := by decide +kernel
  exact fun ar har => ⟨⟨0, 0, 0, htag⟩, by decide, by decide, hmarks ar har⟩

/-- Refutes O14: the bank under the word has no backing, so its fill writes nothing (R396). -/
theorem not_structureWordsReadFillAndClear : ¬ Obligations.StructureWordsReadFillAndClear := by
  unfold Obligations.StructureWordsReadFillAndClear
  intro h
  obtain ⟨hwait, hget⟩ := get_fillWord_lostBank
  obtain ⟨-, -, -, hfill⟩ := h istRec lostBankState [] false 0 (lostBank_actsFreely 1 (by decide))
    (lostBank_actsFreely 0 (by decide)) (by decide) (by decide)
  obtain ⟨-, -, hreads, -⟩ := hfill 0x80000 1 (by decide) (by decide) hwait
  rw [hget] at hreads
  exact absurd hreads (by decide)

end Sys2Proof.Machine
end

section
/-! PROOF. Combine cells, and the ends of the waits on phases and ticks (R233, R234, R236, R246). -/

namespace Sys2Proof.Machine

/-! ### What leaves the partials that wait for cells -/

@[simp] theorem enterFault_cellWaits (s : State) (h : Nat) (rc : FaultRec) (site : Site) :
    (enterFault s h rc site).cellWaits = s.cellWaits := by
  unfold enterFault
  split
  · simp
  · split <;> simp

@[simp] theorem fileFault_cellWaits (s : State) (owner : Nat) (b : Bool) (rc : FaultRec) (site : Site) :
    (fileFault s owner b rc site).cellWaits = s.cellWaits := enterFault_cellWaits ..

@[simp] theorem reflectFault_cellWaits (s : State) (h : Nat) (rc : FaultRec) (site : Site) :
    (reflectFault s h rc site).cellWaits = s.cellWaits := enterFault_cellWaits ..

/-- A soft record, under each of the four policies (R387). -/
@[simp] theorem softRec_cellWaits (s : State) (rc : FaultRec) (b : Bool) (place : Option (BitVec 4 × BitVec 8 × BitVec 12)) :
    (softRec s rc b place).cellWaits = s.cellWaits := by
  unfold softRec
  simp only []
  split
  · simp
  · split <;> simp
  · simp
  · simp

theorem foldl_cellWaits {α : Type} {f : State → α → State} (hf : ∀ s x, (f s x).cellWaits = s.cellWaits) (l : List α)
    (s : State) : (l.foldl f s).cellWaits = s.cellWaits := by
  induction l generalizing s with
  | nil => rfl
  | cons x l ih => exact (ih _).trans (hf s x)

theorem touchLine_cellWaits (s : State) (a : Nat) : (touchLine s a).cellWaits = s.cellWaits := by
  unfold touchLine bumpGen
  split
  · rfl
  · simp only []
    split <;> rfl

theorem resetShadow_cellWaits (hit : Nat → Bool) (s : State) (line : Nat) :
    (resetShadow hit s line).cellWaits = s.cellWaits := by
  unfold resetShadow
  split <;> rfl

@[simp] theorem writeBytes_cellWaits (s : State) (l : List (Nat × Byte)) : (writeBytes s l).cellWaits = s.cellWaits := by
  have hdrop : ∀ t : State, (dropStruct t).cellWaits = t.cellWaits := fun t => by unfold dropStruct; split <;> rfl
  unfold writeBytes
  extract_lets lines hit edits t u v
  have hv : v.cellWaits = s.cellWaits :=
    (foldl_cellWaits (resetShadow_cellWaits hit) lines u).trans
      ((foldl_cellWaits (fun s e => touchLine_cellWaits s _) _ _).trans (foldl_cellWaits (resetShadow_cellWaits hit) lines s))
  split
  · exact (hdrop v).trans hv
  · exact hv

theorem setFlags_cellWaits (s : State) (cx : Nat) (fl : Flags) : (setFlags s cx fl).cellWaits = s.cellWaits := by
  obtain ⟨_, h⟩ := setFlags_eq s cx fl
  rw [h]

/-- The release of a cell, by an update or by a POISON record. -/
theorem releaseCell_cellWaits (s : State) (x : Cell) : (releaseCell s x).cellWaits = s.cellWaits := by
  unfold releaseCell
  split
  · exact softRec_cellWaits ..
  · extract_lets t w n as
    split
    · rfl
    · exact (setFlags_cellWaits ..).trans (writeBytes_cellWaits ..)

/-! ### The arrival of a partial (R233) -/

/-- The cell that a partial opens. -/
def openedCell (p : Pend) (q : Partial) (pa : Nat) : Cell where
  cx := p.fir.cx
  pa := pa
  addr := BitVec.ofNat 64 (cmbAddr p)
  home := cellHome pa
  var := p.r.var
  ty := p.r.ty
  pl := p.r.pl
  n := partialN p
  parts := [q]
  idle := 0

section
variable {s : State} {p : Pend} {q : Partial} {pa : Nat}

/-- A partial finds no cell of its key, and room at its home: it opens one. -/
theorem joinCell_opens (hnone : ∀ z ∈ s.cells, cellKey z p pa = false) (hn : 1 < partialN p)
    (hroom : (s.cells.filter fun z => z.home == cellHome pa).length < 64) :
    joinCell s p q pa = some { s with cells := s.cells ++ [openedCell p q pa] } := by
  have hfind : s.cells.find? (fun x => cellKey x p pa) = none := List.find?_eq_none.mpr fun z hz => by simp [hnone z hz]
  simp only [joinCell, hfind, if_neg (Nat.not_le.mpr hroom), if_neg (Nat.ne_of_gt hn)]
  rfl

variable {x : Cell} (hx : s.cells = [x]) (hkey : cellKey x p pa = true)
include hx hkey

/-- A partial joins the cell of its key, which is not complete with it. -/
theorem joinCell_joins (hn : x.n = partialN p) (hlt : x.parts.length + 1 < partialN p) :
    joinCell s p q pa = some { s with cells := [{ x with parts := x.parts ++ [q], idle := 0 }] } := by
  simp [joinCell, hx, hkey, hn, hlt]

/-- A partial completes the cell of its key, which releases. -/
theorem joinCell_completes (hn : x.n = partialN p) (hge : partialN p ≤ x.parts.length + 1) :
    joinCell s p q pa = some (releaseCell { s with cells := [] } { x with parts := x.parts ++ [q], idle := 0 }) := by
  simp [joinCell, hx, hkey, hn, Nat.not_lt.mpr hge]

/-- A partial of another count does not join. -/
theorem joinCell_differs (hn : x.n ≠ partialN p) : joinCell s p q pa = none := by
  simp [joinCell, hx, hkey, hn]
end

/-- The state once a partial, the only one on its way, has reached its home: its write is performed. -/
def State.partialHome (s : State) (p : Pend) : State :=
  { s with cellWaits := [] }.modCast p.fir.course.toNat p.fir.bay p.fir.ft.toNat fun k => { k with held := k.held.erase p }

@[simp] theorem partialHome_cells (s : State) (p : Pend) : (s.partialHome p).cells = s.cells := State.modCast_cells ..
@[simp] theorem partialHome_mem (s : State) (p : Pend) : (s.partialHome p).mem = s.mem := State.modCast_mem ..
@[simp] theorem partialHome_cellWaits (s : State) (p : Pend) : (s.partialHome p).cellWaits = [] := State.modCast_cellWaits ..

theorem scanCells_none {u : State} (h : u.cellWaits = []) : scanCells u = u := by rw [scanCells, h]; rfl

section
variable {e : EvArgs} {s : State} {p : Pend} {q : Partial} {pa : Nat} (hw : s.cellWaits = [(0, p, q)]) (hk : e.k = 0#16)
include hw hk

/-- The only partial on its way is the one that arrives, and none is left. -/
theorem onlyPartial : (s.cellWaits.filter fun w => w.1 == 0)[e.k.toNat]? = some (0, p, q) ∧ s.cellWaits.erase (0, p, q) = [] := by
  rw [hw, hk]
  exact ⟨rfl, List.erase_cons_head ..⟩

variable (hpa : partialPA s p = some pa)
include hpa

/-- A partial that joins, opens or completes a cell is counted there. -/
theorem execCmbPartialArrival_joins {u : State} (hj : joinCell (s.partialHome p) p q pa = some u) (hu : u.cellWaits = []) :
    exec (.cmbPartialArrival e) s = .next u := by
  obtain ⟨hfirst, hgone⟩ := onlyPartial hw hk
  show execCmbPartialArrival e s = _
  unfold execCmbPartialArrival
  simp only [hfirst, hpa, hgone]
  split
  case h_1 v h =>
    obtain rfl : v = u := Option.some.inj (h.symm.trans hj)
    exact congrArg _ (scanCells_none hu)
  case h_2 h => exact absurd (h.symm.trans hj) (by simp)

/-- A partial that finds no place waits for one. -/
theorem execCmbPartialArrival_waits (hj : joinCell (s.partialHome p) p q pa = none) :
    exec (.cmbPartialArrival e) s = .next { s.partialHome p with cellWaits := [(pa + 1, p, q)] } := by
  obtain ⟨hfirst, hgone⟩ := onlyPartial hw hk
  show execCmbPartialArrival e s = _
  unfold execCmbPartialArrival
  simp only [hfirst, hpa, hgone]
  split
  case h_1 v h => exact absurd (h.symm.trans hj) (by simp)
  case h_2 h =>
    have hnone : (s.partialHome p).cellWaits ++ [(pa + 1, p, q)] = [(pa + 1, p, q)] := by rw [partialHome_cellWaits]; rfl
    exact congrArg (fun l => Host.Outcome.next { s.partialHome p with cellWaits := l }) hnone
end

/-! ### The time-out of a cell (R234) -/

/-- The only cell of a stack, at its bound, goes with a POISON record. -/
theorem execCmbCellTimeout_closes (e : EvArgs) {s : State} {x : Cell} (hx : s.cells = [x]) (hw : s.cellWaits = [])
    (hidle : s.stallBound x.cx.toNat ≤ x.idle) :
    exec (.cmbCellTimeout e) s = .next (softRec { s with cells := [] } { FaultRec.zero with
      kind := 11, site := 1, soft := true, ocx := x.cx, aux := 7, stack := s.sideband.stackNo, addr := x.addr } false none) := by
  have hfind : s.cells.find? (fun x => decide (s.stallBound x.cx.toNat ≤ x.idle)) = some x := by
    rw [hx]
    exact List.find?_cons_of_pos (decide_eq_true hidle)
  have hgone : s.cells.erase x = [] := by rw [hx]; exact List.erase_cons_head ..
  show execCmbCellTimeout e s = _
  unfold execCmbCellTimeout
  simp only [hfind, hgone]
  exact congrArg _ (scanCells_none ((softRec_cellWaits ..).trans hw))

/-! ### Waits that end (R236, R246) -/

/-- A cast without the waits that a test names; a frame and a bay whose casts are. -/
def Cast.without (f : Pend → Bool) (k : Cast) : Cast := { k with waits := k.waits.filter fun p => !(f p) }
def Frame.without (f : Pend → Bool) (x : Frame) : Frame := { x with cast := x.cast.map (Cast.without f) }
def Bay.without (f : Pend → Bool) (y : Bay) : Bay := { y with frames := y.frames.map fun e => (e.1, e.2.without f) }

theorem refireWaits_bays (s : State) (f : Pend → Bool) : (refireWaits s f).bays = s.bays.map fun y => (y.1, y.2.without f) := rfl

theorem refireWaits_frame? (s : State) (f : Pend → Bool) (c b ft : Nat) :
    (refireWaits s f).frame? c b ft = (s.frame? c b ft).map (Frame.without f) := by
  unfold State.frame? State.bay
  rw [refireWaits_bays, lkp_map]
  cases lkp s.bays (c * 256 + b) with
  | none => rfl
  | some y => exact lkp_map (Frame.without f) y.frames ft

/-- The waits that a test names leave their casts. -/
theorem refireWaits_cast? (s : State) (f : Pend → Bool) (c b ft : Nat) :
    (refireWaits s f).cast? c b ft = (s.cast? c b ft).map (Cast.without f) := by
  unfold State.cast?
  rw [refireWaits_frame?]
  cases s.frame? c b ft <;> rfl

theorem State.cast?_listed {s : State} {c b ft : Nat} {k : Cast} (h : s.cast? c b ft = some k) :
    ∃ y ∈ s.bays, ∃ x ∈ y.2.frames, x.2.cast = some k := by
  obtain ⟨x, hx, hxk⟩ := Option.bind_eq_some_iff.mp h
  unfold State.frame? State.bay at hx
  cases hy : lkp s.bays (c * 256 + b) with
  | none => rw [hy] at hx; cases hx
  | some y =>
    rw [hy] at hx
    exact ⟨_, lkp_mem hy, _, lkp_mem hx, hxk⟩

/-- A wait that a test names acts again. -/
theorem mem_refireWaits_agenda {s : State} {f : Pend → Bool} {c b ft : Nat} {k : Cast} {w : Pend}
    (hk : s.cast? c b ft = some k) (hw : w ∈ k.waits) (hf : f w = true) : Pick.fire w ∈ (refireWaits s f).agenda := by
  obtain ⟨y, hy, x, hx, hxk⟩ := State.cast?_listed hk
  refine List.mem_append_right _ (List.mem_map_of_mem (List.mem_flatMap.mpr ⟨y, hy, List.mem_flatMap.mpr ⟨x, hx, ?_⟩⟩))
  rw [hxk]
  exact List.mem_filter.mpr ⟨hw, hf⟩

theorem tickReached_iff (s : State) (o : Opnd) : tickReached s o.word = true ↔ (s.tick - o.low 64).toNat < 2 ^ 63 := by
  rw [tickReached, decide_eq_true_eq, BitVec.toNat_sub, o.low_toNat (by decide)]
  have : o.word % 2 ^ 64 < 2 ^ 64 := Nat.mod_lt _ (by positivity)
  rw [show s.tick.toNat + 2 ^ 64 - o.word % 2 ^ 64 = 2 ^ 64 - o.word % 2 ^ 64 + s.tick.toNat by omega]

/-- A TICK.until ends once its tick has come, while its context holds its course. -/
theorem tickEnds_iff {s : State} {w : Pend} (hop : w.op = 0xAD) : tickEnds s w = true ↔
    (s.tick - (w.fir.a.getD (plain 0)).low 64).toNat < 2 ^ 63 ∧ (s.crs w.fir.course.toNat).holder = some w.fir.cx := by
  have hholds : ((s.crs w.fir.course.toNat).holder.map fun h => h == w.fir.cx).getD false = true ↔
      (s.crs w.fir.course.toNat).holder = some w.fir.cx := by
    cases (s.crs w.fir.course.toNat).holder <;> simp
  rw [tickEnds, Bool.and_eq_true, Bool.and_eq_true, tickReached_iff, hholds]
  simp [hop]

/-- Settles O48: each event by the case that it meets. -/
theorem combineBarrierAndTickEventsAct : Obligations.CombineBarrierAndTickEventsAct := by
  unfold Obligations.CombineBarrierAndTickEventsAct
  intro e s p q x y g moved n with_
  refine ⟨fun hw hk pa hpa => ⟨fun hnone hn hroom => ?_, fun hx hkey hn hlt => ?_, fun hx hkey hn hge => ?_, fun hx hkey hn => ?_⟩,
    fun hx hw hidle => execCmbCellTimeout_closes e hx hw hidle, fun ph rest hdue hget => ?_, fun c b ft k w hk hw hop => ?_⟩
  · have hj := joinCell_opens (s := s.partialHome p) (q := q) (by simpa using hnone) hn (by simpa using hroom)
    exact ⟨_, openedCell p q pa, execCmbPartialArrival_joins hw hk hpa hj (by simp), by simp, rfl, rfl, rfl, rfl, rfl, rfl, rfl, by simp, by simp⟩
  · have hj := joinCell_joins (s := s.partialHome p) (q := q) (by simpa using hx) hkey hn hlt
    exact ⟨_, execCmbPartialArrival_joins hw hk hpa hj (by simp), rfl, by simp, by simp⟩
  · have hj := joinCell_completes (s := s.partialHome p) (q := q) (by simpa using hx) hkey hn hge
    exact execCmbPartialArrival_joins hw hk hpa hj ((releaseCell_cellWaits ..).trans (partialHome_cellWaits ..))
  · exact execCmbPartialArrival_waits hw hk hpa (joinCell_differs (by simpa using hx) hkey hn)
  · show execBarrierPhaseComplete e s = _
    unfold execBarrierPhaseComplete
    rw [hget]
    simp only [hdue, List.drop_succ_cons, List.drop_zero]
  · intro come
    have hends := tickEnds_iff (s := s) hop
    refine ⟨_, k.without (tickEnds s), rfl, by rw [refireWaits_cast?, hk]; rfl, rfl, fun h => ?_, fun h => ?_⟩
    · refine ⟨mem_refireWaits_agenda hk hw (hends.mpr h), fun hmem => ?_⟩
      have hkept := (List.mem_filter.mp hmem).2
      simp [hends.mpr h] at hkept
    · exact List.mem_filter.mpr ⟨hw, by simpa using fun ht => h (hends.mp ht)⟩

end Sys2Proof.Machine
end

section
/-! PROOF. MX.SCALE, MX.MMA, MX.ZERO, MX.ADDC and MX.QRY (R253, R259 to R264). -/

namespace Sys2Proof.Machine

/-! ### An operation at its crucible (R252, R253) -/

@[simp] theorem cruOf_modCruOf (s : State) (g : Firing) (f : Crucible → Crucible) : (modCruOf s g f).cruOf g = f (s.cruOf g) :=
  State.cru_setCru ..

theorem cruNode_acts {s : State} (act : State → State) (h : firingP s.firing = false) : cruNode s act = act s := by
  simp [cruNode, h]

theorem cruNode_poisoned {s : State} (act : State → State) (h : firingP s.firing = true) :
    cruNode s act = finishOp s s.firing 0 true := if_pos h

/-- An operation with a poisoned operand acts on nothing, and completes poisoned. -/
theorem exec_crucible_poisoned {s : State} (r : NodeRec) (h : firingP s.firing = true) :
    ∀ i ∈ [Instr.mxLdb r, .mxLda r, .mxGather r, .mxScale r, .mxMma r, .mxZero r, .mxAddc r, .mxQry r],
      exec i s = .next (finishOp s s.firing 0 true) := by
  have hnode := fun act => congrArg (Host.Outcome.next (φ := Fault) (ρ := Refusal)) (cruNode_poisoned act h)
  simp only [List.forall_mem_cons, List.not_mem_nil, false_imp_iff, implies_true, and_true]
  exact ⟨hnode _, hnode _, hnode _, hnode _, hnode _, hnode _, hnode _, hnode _⟩

/-! ### Scale words (R259) -/

theorem scaleWord_eq_some {w : Nat} (hlt : w < 2 ^ 32) (hside : w / 2 ^ 30 % 4 < 3) (hrsvd : w / 2 ^ 18 % 32 = 0) :
    scaleWord w = some (w / 2 ^ 30 % 4 * 512 + w / 2 ^ 23 % 128 * 4 + w / 2 ^ 16 % 4, BitVec.ofNat 16 w) :=
  if_neg (by rw [Nat.div_eq_of_lt hlt]; omega)

theorem scaleWord_eq_none {w : Nat} (h : 2 ^ 32 ≤ w ∨ w / 2 ^ 30 % 4 = 3 ∨ w / 2 ^ 18 % 32 ≠ 0) : scaleWord w = none :=
  if_pos (by omega)

section
variable {s : State} (r : NodeRec) (hp : firingP s.firing = false)
include hp

theorem execMxScale_writes {e : Nat × BitVec 16} (he : scaleWord s.firing.aw = some e) : exec (.mxScale r) s =
    .next (finishOp (modCruOf s s.firing fun x => { x with scales := put x.scales e.1 e.2 }) s.firing 0 false) := by
  refine congrArg Host.Outcome.next ((cruNode_acts _ hp).trans ?_)
  simp only [he]

theorem execMxScale_faults (he : scaleWord s.firing.aw = none) : exec (.mxScale r) s =
    .next (cruFault s s.firing kPROT 15 s.firing.cx.toNat 0 (s.firing.aw / 2 ^ 23 % 128)) := by
  refine congrArg Host.Outcome.next ((cruNode_acts _ hp).trans ?_)
  simp only [he]

/-! ### Accumulators and the status word (R263, R264) -/

theorem execMxZero_eq : exec (.mxZero r) s = .next (finishOp (modCruOf s s.firing fun x =>
    { x with acc := clearAcc x.acc (mmaAcc r) 0, rows := put x.rows (mmaAcc r) 0 }) s.firing 0 false) :=
  congrArg Host.Outcome.next (cruNode_acts _ hp)

theorem execMxAddc_reads {as : List Nat} {lost : Bool} {cls : Nat}
    (h : s.region s.firing.cx.toNat s.firing.aw (128 * (tyWidth r.ty.toNat / 8)) 64 clsLoad false false = .ok as lost cls) :
    exec (.mxAddc r) s = .next (finishOp (modCruOf s s.firing fun x => addcApply x (mmaAcc r) r.ty.toNat ((List.range 128).map fun j =>
      leNat (s.readRegion s.firing.course.toNat s.firing.cx.toNat as cls) / 2 ^ (tyWidth r.ty.toNat * j) % 2 ^ tyWidth r.ty.toNat))
      s.firing 0 lost) := by
  refine congrArg Host.Outcome.next ((cruNode_acts _ hp).trans ?_)
  simp only [h]

theorem execMxQry_eq : exec (.mxQry r) s = .next (finishOp
    (if bitsAt r.lit 0 4 = 3 then modCruOf s s.firing fun x => { x with gstat := 0 } else s) s.firing
    (mxqWord (s.cruOf s.firing) (bitsAt r.lit 0 4)) false) :=
  congrArg Host.Outcome.next (cruNode_acts _ hp)

end

theorem accCell_cleared (x : Crucible) (n m : Nat) {row j : Nat} (hr : row < 128) (hj : j < 128) (rows : List (Nat × Nat)) :
    accCell { x with acc := clearAcc x.acc n 0, rows := rows } m row j = if m = n then 0 else accCell x m row j :=
  (cellIn_clearAcc x.acc hr hj).trans (if_congr (by simp) rfl rfl)

/-- MX.ADDC adds its values to the cells of the live rows. -/
theorem accCell_addcApply (x : Crucible) (n t : Nat) (vs : List Nat) (hrows : (lkp x.rows n).getD 0 ≤ 128) (m : Nat) {row j : Nat}
    (hr : row < 128) (hj : j < 128) : accCell (addcApply x n t vs) m row j =
      if m = n ∧ row < (lkp x.rows n).getD 0 then
        BitVec.ofNat 37 (roundFV x37 { mode := 4 }
          (FV.add 4 (x37.decode (accCell x n row j).toNat) ((tyFmt t).decode (vs.getD j 0))).1).code
      else accCell x m row j :=
  cellIn_putRows x.acc (fun row j => BitVec.ofNat 37 (roundFV x37 { mode := 4 }
    (FV.add 4 (x37.decode (accCell x n row j).toNat) ((tyFmt t).decode (vs.getD j 0))).1).code) (n := n) (m := m) hr hj hrows

theorem sum_range_four (f : Nat → Nat) : ((List.range 4).map f).sum = f 0 + (f 1 + (f 2 + f 3)) := rfl

/-- The live rows of the four accumulators, a byte each. -/
theorem mxqWord_counts (x : Crucible) : mxqWord x 2 = (lkp x.rows 0).getD 0 + ((lkp x.rows 1).getD 0 * 2 ^ 8 +
    ((lkp x.rows 2).getD 0 * 2 ^ 16 + (lkp x.rows 3).getD 0 * 2 ^ 24)) := by
  have hsum : mxqWord x 2 = (lkp x.rows 0).getD 0 * 2 ^ (8 * 0) + _ := sum_range_four fun n => (lkp x.rows n).getD 0 * 2 ^ (8 * n)
  rw [hsum, Nat.mul_zero, Nat.pow_zero, Nat.mul_one]

theorem mxqWord_accepted (x : Crucible) {sel : Nat} (h0 : sel ≠ 0) (h1 : sel ≠ 1) (h2 : sel ≠ 2) (h3 : sel ≠ 3) :
    mxqWord x sel = x.accepted.toNat := by
  obtain ⟨k, rfl⟩ := Nat.exists_eq_add_of_le' (show 4 ≤ sel by omega)
  rfl

/-- Settles O30, operation by operation. -/
theorem crucibleWordsScaleZeroAndQuery : Obligations.CrucibleWordsScaleZeroAndQuery := by
  unfold Obligations.CrucibleWordsScaleZeroAndQuery
  intro r s g x a side n t w sel
  have hsel : bitsAt r.lit 0 4 = sel := bitsAt_eq r.lit 0 4
  refine ⟨fun hp => exec_crucible_poisoned r hp, fun hp =>
    ⟨fun hlt hside hrsvd => execMxScale_writes r hp (scaleWord_eq_some hlt hside hrsvd),
      fun hbad => execMxScale_faults r hp (scaleWord_eq_none hbad), ?_, fun as lost cls hreg hrows => ?_, fun hne => ?_, fun h3 => ?_⟩⟩
  · refine ⟨_, execMxZero_eq r hp, rfl, ?_, fun m row j _ hr hj => ?_⟩
    · rw [cruOf_modCruOf]
      exact lkp_put_same ..
    · rw [cruOf_modCruOf]
      exact accCell_cleared x n m hr hj _
  · intro v
    have hv : ∀ j, j < 128 → ((List.range 128).map v).getD j 0 = v j := fun j hj => (getD_map_range v 128 j).trans (if_pos hj)
    refine ⟨_, execMxAddc_reads r hp hreg, fun m row j _ hr hj => ?_⟩
    rw [cruOf_modCruOf, ← hv j hj]
    exact accCell_addcApply x n t _ hrows m hr hj
  · rw [execMxQry_eq r hp, hsel, if_neg hne]
    change Host.Outcome.next (finishOp s g (mxqWord x sel) false) = _
    clear_value sel x
    split
    next => rfl
    next => rfl
    next => rw [← mxqWord_counts x]
    next _ h0 h1 h2 => rw [mxqWord_accepted x h0 h1 h2 hne]
  · rw [execMxQry_eq r hp, hsel, if_pos h3, h3]
    rfl

/-! ### MX.MMA (R260, R261) -/

/-- The S word of an operation has been written already. -/
def opScaled (y : Crucible) (g : Firing) : Bool :=
  ((y.ops.find? fun o => o.pend.fir == g && o.started && !o.done).map CruOp.scaled).getD false

/-- The crucible once a scale word of an operation has been written, which happens once. -/
theorem mmaScaled_eq (y : Crucible) (r : NodeRec) (g : Firing)
    (h : r.ar = 6#3 → g.sw < 2 ^ 32 ∧ g.sw / 2 ^ 30 % 4 < 3 ∧ g.sw / 2 ^ 18 % 32 = 0) :
    mmaScaled y r g = some (if r.ar = 6#3 ∧ opScaled y g = false then
      { y with scales := put y.scales (g.sw / 2 ^ 30 % 4 * 512 + g.sw / 2 ^ 23 % 128 * 4 + g.sw / 2 ^ 16 % 4) (BitVec.ofNat 16 g.sw)
               ops := modFirstOp g (fun o => { o with scaled := true }) y.ops }
    else y) := by
  by_cases har : r.ar = 6#3
  · obtain ⟨hlt, hside, hrsvd⟩ := h har
    rw [mmaScaled, if_pos har, scaleWord_eq_some hlt hside hrsvd]
    change some (if opScaled y g = true then y else _) = _
    cases hs : opScaled y g <;> simp [har]
  · rw [mmaScaled, if_neg har, if_neg fun h => har h.1]

theorem mmaScaled_eq_none (y : Crucible) {r : NodeRec} {g : Firing} (har : r.ar = 6#3)
    (h : 2 ^ 32 ≤ g.sw ∨ g.sw / 2 ^ 30 % 4 = 3 ∨ g.sw / 2 ^ 18 % 32 ≠ 0) : mmaScaled y r g = none := by
  rw [mmaScaled, if_pos har, scaleWord_eq_none h]
  rfl

theorem keptOf_eq {sp : BitVec 2} (h : sp ≠ 0) : keptOf sp.toNat = if sp.toNat = 1 then 4 else 2 := by
  revert h; revert sp; decide

theorem badMask_eq_none {x : Crucible} (h : x.aSparse.toNat ≠ 0 → ∀ row q, row < x.ra → q < 16 →
    popByte (maskByte x row q) = if x.aSparse.toNat = 1 then 4 else 2) : badMask x = none := by
  by_cases h0 : x.aSparse = 0
  · rw [badMask, if_pos h0]
  · have hsp : x.aSparse.toNat ≠ 0 := fun e => h0 (BitVec.eq_of_toNat_eq e)
    rw [badMask, if_neg h0, List.find?_eq_none]
    intro row hrow
    rw [List.any_eq_true]
    rintro ⟨q, hq, hne⟩
    rw [h hsp row q (List.mem_range.mp hrow) (List.mem_range.mp hq), keptOf_eq h0] at hne
    simp at hne

theorem scalesReady_of {x : Crucible} {b : BBank} {side : Nat}
    (ha : tyNarrow x.aFmt.toNat = true → ∀ row k, row < x.ra → k < 4 → (lkp x.scales (row * 4 + k)).isSome = true)
    (hb : tyNarrow b.fmt.toNat = true → ∀ j k, j < 128 → k < 4 → (lkp x.scales (side * 512 + j * 4 + k)).isSome = true) :
    scalesReady x b side = true := by
  rw [scalesReady, Bool.and_eq_true, Bool.or_eq_true, Bool.or_eq_true, List.all_eq_true, List.all_eq_true]
  constructor
  · cases hn : tyNarrow x.aFmt.toNat
    · exact .inl rfl
    · refine .inr fun i hi => ?_
      have hlt := List.mem_range.mp hi
      have h := ha hn (i / 4) (i % 4) (by omega) (by omega)
      rwa [Nat.div_add_mod' i 4] at h
  · cases hn : tyNarrow b.fmt.toNat
    · exact .inl rfl
    · refine .inr fun i hi => ?_
      have hlt := List.mem_range.mp hi
      have h := hb hn (i / 4) (i % 4) (by omega) (by omega)
      rwa [Nat.add_assoc, Nat.div_add_mod' i 4] at h

section
variable {s : State} {r : NodeRec} {x : Crucible} (hp : firingP s.firing = false)
include hp

theorem execMxMma_badWord (hx : mmaScaled (s.cruOf s.firing) r s.firing = none) :
    exec (.mxMma r) s = .next (cruFault s s.firing kPROT 15 s.firing.cx.toNat 0 (s.firing.sw / 2 ^ 23 % 128)) := by
  refine congrArg Host.Outcome.next ((cruNode_acts _ hp).trans ?_)
  simp only [hx]

variable (hx : mmaScaled (s.cruOf s.firing) r s.firing = some x)
include hx

theorem execMxMma_empty (hra : x.ra = 0) : exec (.mxMma r) s = .next (finishOp
    (if mmaSet r then modCruOf (modCruOf s s.firing fun _ => x) s.firing fun x =>
      { x with acc := clearAcc x.acc (mmaAcc r) 0, rows := put x.rows (mmaAcc r) 0 }
    else modCruOf s s.firing fun _ => x) s.firing 0 false) := by
  refine congrArg Host.Outcome.next ((cruNode_acts _ hp).trans ?_)
  simp only [hx, if_pos hra]

theorem execMxMma_mismatch (hra : x.ra ≠ 0) (h : (mmaBank x r).loaded = false ∨ r.ty ≠ x.aFmt) :
    exec (.mxMma r) s = .next (cruFault s s.firing kPROT 13 s.firing.cx.toNat 0 0) := by
  refine congrArg Host.Outcome.next ((cruNode_acts _ hp).trans ?_)
  simp only [hx, if_neg hra]
  exact if_pos (by simpa using h)

section
variable (hra : x.ra ≠ 0) (hl : (mmaBank x r).loaded = true) (hty : r.ty = x.aFmt)
include hra hl hty

theorem execMxMma_sparsity (hsp : bitsAt r.lit 0 2 ≠ x.aSparse.toNat) :
    exec (.mxMma r) s = .next (cruFault s s.firing kSPARSE 1 s.firing.cx.toNat 0 0) := by
  refine congrArg Host.Outcome.next ((cruNode_acts _ hp).trans ?_)
  simp only [hx, if_neg hra, if_pos hsp]
  exact if_neg (by simp [hl, hty])

theorem execMxMma_ready (hsp : bitsAt r.lit 0 2 = x.aSparse.toNat) (hmask : badMask x = none)
    (hscales : scalesReady x (mmaBank x r) (mmaSide r) = true) : exec (.mxMma r) s =
      .next (modCruOf (modCruOf s s.firing fun _ => x) s.firing fun y =>
        { y with ops := modFirstOp s.firing (fun o => { o with wantPermit := true }) y.ops }) := by
  refine congrArg Host.Outcome.next ((cruNode_acts _ hp).trans ?_)
  simp only [hx, if_neg hra, hsp, ne_eq, not_true_eq_false, if_false, hmask, hscales, if_true]
  exact if_neg (by simp [hl, hty])

end

end

theorem mmaSide_eq (r : NodeRec) : mmaSide r = if r.var.toNat < 8 then 1 else 2 := by
  have := r.var.isLt
  rw [mmaSide]
  split <;> omega

theorem mmaBank_eq (x : Crucible) (r : NodeRec) : mmaBank x r = if r.var.toNat < 8 then x.b0 else x.b1 := by
  rw [mmaBank, mmaSide_eq]
  split <;> rfl

/-- Settles O31: `mmaScaled_eq` gives the crucible as the operation finds it, on which its checks are made in their order. -/
theorem mmaChecksThenAsksForItsPermit : Obligations.MmaChecksThenAsksForItsPermit := by
  unfold Obligations.MmaChecksThenAsksForItsPermit
  intro r s g word side y scaled x s1 n set b bside sp hp
  refine ⟨fun har hbad => execMxMma_badWord hp (mmaScaled_eq_none y har hbad), fun hword => ?_⟩
  have hx : mmaScaled y r g = some x := mmaScaled_eq y r g hword
  have hset : mmaSet r = set := mmaSet_eq r
  have hb : mmaBank x r = b := mmaBank_eq x r
  have hside : mmaSide r = bside := mmaSide_eq r
  have hlit := bitsAt_eq r.lit 0 2
  clear_value x b bside
  subst hb hside
  refine ⟨fun hra => ⟨_, execMxMma_empty hp hx hra, fun h => ?_, fun h => ?_⟩, fun hra h => execMxMma_mismatch hp hx hra h,
    fun hra hl hty hsp => execMxMma_sparsity hp hx hra hl hty (hlit ▸ hsp),
    fun hra hl hty hsp hmask ha hbank =>
      execMxMma_ready hp hx hra hl hty (hlit ▸ hsp) (badMask_eq_none hmask) (scalesReady_of ha hbank)⟩
  · rw [hset, h]
    rfl
  · rw [hset, h, if_pos rfl, cruOf_modCruOf, cruOf_modCruOf]
    exact ⟨lkp_put_same .., fun m row j _ hr hj => accCell_cleared x n m hr hj _⟩

end Sys2Proof.Machine
end

section
/-! PROOF. An MX.GATHER at a base address of no kind, whose lanes are all out of range (R212, R258). -/

namespace Sys2Proof.Machine

/-- The base address is looked at before any lane: one of no kind is a fault, also when no lane reads a row. -/
theorem execMxGather_badAddress {s : State} (r : NodeRec) {bound f sp : Nat} (hp : firingP s.firing = false)
    (hcw : s.firing.cw = bound + 2 ^ 32 * f + 2 ^ 40 * sp) (hbound : bound < 2 ^ 32) (hf : f ≤ 112) (hsp : sp < 3)
    (hra : (s.cruOf s.firing).ra = 0) (hbad : addrKind s.firing.aw = .bad) :
    exec (.mxGather r) s = .next (cruFault s s.firing kPROT 0 s.firing.cx.toNat s.firing.aw f) := by
  refine congrArg Host.Outcome.next ((cruNode_acts _ hp).trans ?_)
  have hfield : s.firing.cw / 2 ^ 32 % 128 = f := by omega
  dsimp only
  rw [hfield, if_neg (by omega), if_neg fun h => h.1 hra, if_pos hbad]

theorem finishOp_faults (s : State) (g : Firing) (res : Nat) (p : Bool) : (finishOp s g res p).faults = s.faults := rfl

/-- MX.GATHER as bf16. -/
def gatherRec : NodeRec := { var := 0, ty := 10, ar := 3, tg := 0, pl := false, d0 := 0x1FFFFF, d1 := 0x1FFFFF, lit := 0 }

/-- Its firing, by record 1 of crucible 3 for context 1: base address 2^56, 16 indices of 0, bound 0, first row 0. -/
def gatherFiring : Firing :=
  { Firing.none with unit := 0x1003, node := 1, cx := 1, a := some (plain (2 ^ 56)), b := some (plain 0), c := some (plain 0) }

/-- The reset state with the firing in its issue latch. -/
def gatherState : State := { State.reset with firing := gatherFiring }

/-- The operands, and the crucible, which holds no row. -/
theorem gatherState_operands : firingP gatherState.firing = false ∧ gatherState.firing.cw = 0 ∧ gatherState.firing.aw % 16 = 0 ∧
    addrKind gatherState.firing.aw = .bad ∧ (gatherState.cruOf gatherState.firing).ra = 0 := by
  decide +kernel

/-- The gather files a fault. -/
theorem execMxGather_gatherState : ∃ t, exec (.mxGather gatherRec) gatherState = .next t ∧ t.faults ≠ [] := by
  obtain ⟨hp, hcw, -, hbad, hra⟩ := gatherState_operands
  exact ⟨_, execMxGather_badAddress gatherRec (bound := 0) (f := 0) (sp := 0) hp hcw (by decide) (by decide) (by decide) hra hbad,
    by decide +kernel⟩

/-- Refutes O29: an MX.GATHER with its lanes all beyond the bound and its base at 2^56, no address, is PROT 0 and does not
complete. -/
theorem not_crucibleLoadsFillTheirLatches : ¬ Obligations.CrucibleLoadsFillTheirLatches := by
  unfold Obligations.CrucibleLoadsFillTheirLatches
  intro h
  obtain ⟨hp, hcw, hal, -, hra⟩ := gatherState_operands
  obtain ⟨-, -, hgather, -⟩ := h gatherRec gatherState hp
  obtain ⟨y, hexec, -⟩ := hgather 0 0 0 (fun _ => 0) (fun _ => 0) (fun _ => []) (fun _ => false) hcw (by decide) (by decide) (by decide)
    hal (.inl hra) fun i _ hi => absurd hi (Nat.not_lt_zero _)
  obtain ⟨t, ht, hfaults⟩ := execMxGather_gatherState
  rw [hexec] at ht
  refine hfaults ?_
  rw [← Host.Outcome.next.inj ht, finishOp_faults]
  rfl

end Sys2Proof.Machine
end

section
/-! PROOF. Gate records (R266, R267, R270). -/

namespace Sys2Proof.Machine

/-- A gate record that acts leaves its request with its cast, with the linkage of `gateLink`. -/
theorem gateNode_free {s : State} {r : NodeRec} (op : Nat) (h : actsFreely s r (argsOf r.ar.toNat s.firing 0)) : gateNode op r s =
    s.modOwn s.firing fun k => { k with after := k.after ++
      [{ pend := pendOf op r s.firing, link := gateLink s op s.firing, toks := laterToks s r s.firing (op != 0xB2) true }] } := by
  unfold gateNode
  exact actWith_free _ _ h

/-- Frame 5 of context 1, whose linkage names strand 0, with a cast that began in strand 1. -/
def strandFrame : Frame := { (default : Frame) with cx := 1, link := Link.root, cast := some (Cast.start 0 1) }

/-- The firing of a gate record in it. -/
def feedFiring : Firing := { Firing.none with node := 1, cx := 1, ft := 5 }

/-- The reset state with this frame in bay 0 of course 0, and the firing in its issue latch. -/
def strandState : State :=
  { State.reset with bays := [(0, { Bay.empty with frames := [(5, strandFrame)] })], firing := feedFiring }

/-- A GATE.FEED without a destination. -/
def feedRec : NodeRec := { var := 0, ty := 15, ar := 1, tg := 0, pl := false, d0 := 0x1FFFFF, d1 := 0x1FFFFF, lit := 0 }

theorem strandState_actsFreely : actsFreely strandState feedRec (argsOf feedRec.ar.toNat strandState.firing 0) := by
  have htag : tagOf strandState feedRec strandState.firing = .ok 0 5 0 := by decide +kernel
  exact ⟨⟨0, 5, 0, htag⟩, by decide +kernel, by decide +kernel, by decide +kernel, by decide +kernel⟩

/-- The frame's linkage and that of its cast differ in their strand. -/
theorem strandState_links : strandState.linkOf strandState.firing ≠ strandState.ownLink strandState.firing := by decide +kernel

theorem strandState_cast : strandState.cast? strandState.firing.course.toNat strandState.firing.bay strandState.firing.ft.toNat =
    some (Cast.start 0 1) := by decide +kernel

/-- Refutes O34: a GATE.FEED holds the linkage of its frame as it stands at issue (R270), whose strand its cast need not have. -/
theorem not_gateRequestsWaitWithTheCast : ¬ Obligations.GateRequestsWaitWithTheCast := by
  unfold Obligations.GateRequestsWaitWithTheCast
  intro h
  obtain ⟨hrequests, -⟩ := h feedRec strandState strandState_actsFreely
  have hclaim := hrequests 0xB2 (.gateFeed feedRec) (by simp)
  have hexec : exec (.gateFeed feedRec) strandState = .next (gateNode 0xB2 feedRec strandState) := rfl
  rw [hexec, gateNode_free _ strandState_actsFreely] at hclaim
  have hcasts := congrArg (fun t => t.cast? strandState.firing.course.toNat strandState.firing.bay strandState.firing.ft.toNat)
    (Host.Outcome.next.inj hclaim)
  simp only [State.cast?_modOwn, strandState_cast, Option.map_some, Option.some.injEq] at hcasts
  have hlinks := congrArg (fun k => k.after.map AfterReq.link) hcasts
  simp only [List.map_append, List.append_cancel_left_eq, List.map_cons, List.map_nil, List.cons.injEq, and_true] at hlinks
  exact strandState_links hlinks

end Sys2Proof.Machine
end

section
/-! PROOF. Gates: requests, binding, beats, elements and completions of streams (R267 to R275). -/

namespace Sys2Proof.Machine

/-! ### What a gate takes (R267, R272, R275) -/

/-- The stream of a request that a gate has just taken, with the bay's number for it. -/
def AfterReq.stream (q : AfterReq) (order : Nat) : Stream :=
  { state := 1, pend := q.pend, link := q.link, toks := q.toks, pos := 0, count := 0, pat := { es := 1, dims := [] }, beat := 0,
    parked := false, frame := none, skipped := [], beats := [], doneEls := [], poisoned := false, order := order, sels := [] }

/-- With no stream in the bay every fence completes. -/
theorem scanFences_noStreams {s : State} {c b : Nat} (h : (s.bay c b).streams = []) : scanFences s c b =
    (s.bay c b).fences.foldl (fun s f => sendLater s f.2.1 f.2.2.toNat false) (s.setBay c b { s.bay c b with fences := [] }) := by
  simp [scanFences, h]

section
variable {s : State} {q : AfterReq}

theorem takeRequest_poisoned (hp : firingP q.pend.fir = true) :
    takeRequest s q = some (sendLater (poisonRec s q.pend.fir 2) q.toks 0 true) := if_pos hp

variable (hp : firingP q.pend.fir = false)
include hp

theorem takeRequest_stream (hop : q.pend.op < 0xB4) : takeRequest s q =
    let y := s.bay q.pend.fir.course.toNat q.pend.fir.bay
    if (lkp y.streams (gateSc q.pend.op q.pend.r)).isSome then none
    else some (s.setBay q.pend.fir.course.toNat q.pend.fir.bay
      { y with streams := put y.streams (gateSc q.pend.op q.pend.r) (q.stream y.taken), taken := y.taken + 1 }) := by
  simp only [takeRequest, hp, Bool.false_eq_true, if_false, if_neg (show q.pend.op ≠ 0xB4 by omega),
    if_neg (show q.pend.op ≠ 0xB6 by omega)]
  rfl

theorem takeRequest_fence (hop : q.pend.op = 0xB4) : takeRequest s q =
    let y := s.bay q.pend.fir.course.toNat q.pend.fir.bay
    some (scanFences (s.setBay q.pend.fir.course.toNat q.pend.fir.bay
      { y with fences := y.fences ++ [(y.taken, q.toks, (q.pend.fir.a.getD (plain 0)).val.extractLsb' 0 64)], taken := y.taken + 1 })
      q.pend.fir.course.toNat q.pend.fir.bay) := by
  simp only [takeRequest, hp, Bool.false_eq_true, if_false, if_pos hop]

/-- A fence that finds no stream and no other fence completes at once. -/
theorem takeRequest_fence_alone (hop : q.pend.op = 0xB4) (hstr : (s.bay q.pend.fir.course.toNat q.pend.fir.bay).streams = [])
    (hfen : (s.bay q.pend.fir.course.toNat q.pend.fir.bay).fences = []) :
    ∃ t, takeRequest s q = some (sendLater t q.toks (q.pend.fir.a.getD (plain 0)).word false) ∧
      (t.bay q.pend.fir.course.toNat q.pend.fir.bay).taken = (s.bay q.pend.fir.course.toNat q.pend.fir.bay).taken + 1 := by
  have hword : ((q.pend.fir.a.getD (plain 0)).val.extractLsb' 0 64).toNat = (q.pend.fir.a.getD (plain 0)).word :=
    BitVec.extractLsb'_toNat ..
  rw [takeRequest_fence hp hop]
  dsimp only
  rw [scanFences_noStreams (by rw [State.bay_setBay]; exact hstr), State.bay_setBay, hfen, List.nil_append, List.foldl_cons,
    List.foldl_nil, hword]
  refine ⟨_, rfl, ?_⟩
  rw [State.bay_setBay]

section
variable (hop : q.pend.op = 0xB6)
include hop

theorem takeRequest_cancel {x : Stream}
    (hx : lkp (s.bay q.pend.fir.course.toNat q.pend.fir.bay).streams (gateSc q.pend.op q.pend.r) = some x) :
    takeRequest s q = some (if x.pend.fir.cx = q.pend.fir.cx then
      sendLater (cancelStream s q.pend.fir.course.toNat q.pend.fir.bay (gateSc q.pend.op q.pend.r) x) q.toks 1 false
    else sendLater s q.toks 0 false) := by
  simp only [takeRequest, hp, Bool.false_eq_true, if_false, if_neg (show q.pend.op ≠ 0xB4 by omega), if_pos hop, hx, beq_iff_eq]
  split <;> rfl

theorem takeRequest_cancel_none
    (hx : lkp (s.bay q.pend.fir.course.toNat q.pend.fir.bay).streams (gateSc q.pend.op q.pend.r) = none) :
    takeRequest s q = some (sendLater s q.toks 0 false) := by
  simp only [takeRequest, hp, Bool.false_eq_true, if_false, if_neg (show q.pend.op ≠ 0xB4 by omega), if_pos hop, hx]

end

end

/-! ### Binding (R268) -/

/-- A stream that has passed binding. -/
def Stream.bound (x : Stream) (s : State) (pat : Pattern) : Stream :=
  { x with state := 2, count := pat.size, pat := pat, sels := s.selectors }

section
variable {s : State} {c b sc : Nat} {x : Stream} (hx : lkp (s.bay c b).streams sc = some x)

section
variable {pl : Plane} {pat : Pattern} (hst : x.state = 1) (hcount : x.count = 0)
  (hpl : s.planeOf x.pend.fir.cx.toNat c x.pend.fir.unit.toNat = some pl) (hpat : pl.pats[gatePat x.pend.r]? = some pat)
include hx hst hcount hpl hpat

theorem bindStream_badRegion {kind code o a : Nat} (hreg : bindRegion s x = .bad kind code o a) :
    bindStream s c b sc = gateFault s c b sc x kind code o a 0 := by
  simp [bindStream, hx, hst, hcount, hpl, hpat, hreg]

theorem bindStream_badRest {kind code o a : Nat} (hreg : bindRegion s x = .ok) (hrest : bindRest s c b x pat = .bad kind code o a) :
    bindStream s c b sc = gateFault s c b sc x kind code o a 0 := by
  simp [bindStream, hx, hst, hcount, hpl, hpat, hreg, hrest]

theorem bindStream_binds (hreg : bindRegion s x = .ok) (hrest : bindRest s c b x pat = .ok) : bindStream s c b sc =
    let s' := modStream s c b sc fun _ => x.bound s pat
    if pat.size = 0 then freeStream (sendLater s' x.toks 0 false) c b sc
    else if x.pend.op = 0xB2 then askFrame s' c b sc (x.bound s pat) else s' := by
  simp [bindStream, hx, hst, hcount, hpl, hpat, hreg, hrest, Stream.bound]

end

/-! ### Beats of a feed (R270) -/

/-- A feed's stream after the beat of its granted frame. -/
def Stream.afterBeat (x : Stream) (lost : Bool) : Stream :=
  { x with beat := x.beat + 1, frame := none, pos := min x.count (64 * (x.beat + 1) / x.pat.es), state := 2,
           poisoned := x.poisoned || lost }

/-- The token of a beat has the issuing IT plus the beat's number. -/
theorem beatToken_eq (s : State) (c : Nat) (x : Stream) (ft : BitVec 12) (bs : List Byte) (lost : Bool) : beatToken s c x ft bs lost =
    { s with transit := s.transit ++ [mkTok s x.pend.fir false s.sideband.stackNo.toNat c ft.toNat
      (x.pend.fir.it + BitVec.ofNat 16 x.beat).toNat x.pend.r.d0 true (BitVec.ofNat 512 (leNat bs), lost)] } := by
  have hit : (x.pend.fir.it.toNat + x.beat) % 65536 = (x.pend.fir.it + BitVec.ofNat 16 x.beat).toNat := by simp
  rw [beatToken, hit]

include hx

theorem sendBeat_sends {ft : BitVec 12} {bs : List Byte} {lost : Bool} (hft : x.frame = some ft)
    (hbs : beatBytes s c x x.beat 64 = (bs, lost, none)) : sendBeat s c b sc =
      let s' := modStream (beatToken s c x ft bs lost) c b sc fun _ => x.afterBeat lost
      if x.beat + 1 < x.pat.beats then askFrame s' c b sc (x.afterBeat lost) else s' := by
  simp only [sendBeat, hx, hft, hbs, Stream.afterBeat]

/-! ### The end of a stream (R269 to R273) -/

/-- A stream that still has elements to move stays. -/
theorem endStream_stays (hop : x.pend.op = 0xB0 ∨ x.pend.op = 0xB1) (h : x.pos < x.count) : endStream s c b sc = s := by
  have hlt : ¬ x.count ≤ x.pos := by omega
  rcases hop with hop | hop <;> simp [endStream, hx, hop, hlt]

variable (hcount : x.count ≠ 0)
include hcount

theorem endStream_moved (hop : x.pend.op = 0xB0 ∨ x.pend.op = 0xB1) (h : x.count ≤ x.pos) :
    endStream s c b sc = freeStream (sendLater s x.toks x.moved x.poisoned) c b sc := by
  rcases hop with hop | hop <;> simp [endStream, hx, hop, hcount, h]

theorem endStream_fed (hop : x.pend.op = 0xB2) (h : x.pat.beats ≤ x.beat) :
    endStream s c b sc = freeStream (sendLater s x.toks x.moved x.poisoned) c b sc := by
  simp [endStream, hx, hop, hcount, h]

theorem endStream_drained (hop : x.pend.op = 0xB3) (hdone : x.count ≤ x.doneEls.length) (hbeats : x.pat.beats ≤ x.beats.length) :
    endStream s c b sc = freeStream (sendLater s x.toks x.count x.poisoned) c b sc := by
  simp [endStream, hx, hop, hcount, hdone, hbeats]

end

/-! ### Elements (R269) -/

/-- Elements that have all moved: none moves again. -/
theorem moveElems_done {s : State} {c b sc : Nat} {x : Stream} (hx : lkp (s.bay c b).streams sc = some x) (h : x.count ≤ x.pos)
    (n : Nat) : moveElems c b sc n s = s := by
  cases n with
  | zero => rfl
  | succ n => simp only [moveElems, hx, if_pos h]

/-- One element that can move does. -/
theorem moveElems_one {s t : State} {c b sc : Nat} {x : Stream} {lost : Bool} (hx : lkp (s.bay c b).streams sc = some x)
    (h : x.pos < x.count) (hmove : moveElem s c x x.pos = .ok t lost) :
    moveElems c b sc 1 s = modStream t c b sc fun y => { y with pos := y.pos + 1, poisoned := y.poisoned || lost } := by
  simp only [moveElems, hx, if_neg (Nat.not_le.mpr h), hmove]

/-- The stream that a change of it leaves in its context. -/
theorem lkp_modStream {s : State} {c b sc : Nat} {x : Stream} (hx : lkp (s.bay c b).streams sc = some x) (f : Stream → Stream) :
    lkp ((modStream s c b sc f).bay c b).streams sc = some (f x) := by
  rw [modStream_of hx]
  simp [State.modBay]

/-! ### Events -/

section
variable {e : EvArgs} {s : State} {x : Stream}
  (hx : lkp (s.bay e.course.toNat e.unit.toNat).streams (e.k.toNat % 4) = some x)
  (hf : fenced (s.bay e.course.toNat e.unit.toNat) x = false)
include hx hf

theorem execGateFeedBeat_eq (hst : x.state ≠ 3) :
    exec (.gateFeedBeat e) s = .next (sendBeat s e.course.toNat e.unit.toNat (e.k.toNat % 4)) := by
  show execGateFeedBeat e s = _
  simp [execGateFeedBeat, gateArgs, hx, hf, hst]

section
variable (hst : x.state = 2)
include hst

section
variable (hop : x.pend.op = 0xB0 ∨ x.pend.op = 0xB1)
include hop

theorem execGateStreamComplete_moves : exec (.gateStreamComplete e) s = .next (endStream
    (moveElems e.course.toNat e.unit.toNat (e.k.toNat % 4) e.aux.toNat s) e.course.toNat e.unit.toNat (e.k.toNat % 4)) := by
  show execGateStreamComplete e s = _
  rcases hop with hop | hop <;> simp [execGateStreamComplete, gateArgs, hx, hf, hst, hop]

/-- One element moves, and it is not the last. -/
theorem execGateStreamComplete_one {t : State} {lost : Bool} (hlt : x.pos + 1 < x.count) (haux : e.aux = 1#36)
    (hmove : moveElem s e.course.toNat x x.pos = .ok t lost)
    (hsame : (t.bay e.course.toNat e.unit.toNat).streams = (s.bay e.course.toNat e.unit.toNat).streams) :
    exec (.gateStreamComplete e) s = .next (modStream t e.course.toNat e.unit.toNat (e.k.toNat % 4) fun z =>
      { z with pos := z.pos + 1, poisoned := z.poisoned || lost }) := by
  have hnext := lkp_modStream (s := t) (hsame ▸ hx) fun z => { z with pos := z.pos + 1, poisoned := z.poisoned || lost }
  rw [execGateStreamComplete_moves hx hf hst hop, haux]
  exact congrArg _ ((congrArg (endStream · _ _ _) (moveElems_one hx (Nat.lt_of_succ_lt hlt) hmove)).trans (endStream_stays hnext hop hlt))

theorem execGateStreamFault_holds {kind code o a : Nat} (hlt : x.pos < x.count)
    (hbad : moveElem s e.course.toNat x x.pos = .bad kind code o a) : exec (.gateStreamFault e) s =
      .next (gateFault s e.course.toNat e.unit.toNat (e.k.toNat % 4) x kind code o a x.pos) := by
  have hcount : x.count ≠ 0 := by omega
  have hstop : streamStop s e.course.toNat e.unit.toNat (e.k.toNat % 4) = some (x, x.pos, .bad kind code o a) := by
    rcases hop with hop | hop <;> simp [streamStop, hx, hf, hst, hop, hcount, hlt, hbad]
  show execGateStreamFault e s = _
  simp only [execGateStreamFault, gateArgs, hstop]

end

theorem execGateStreamComplete_feed (hop : x.pend.op = 0xB2) :
    exec (.gateStreamComplete e) s = .next (endStream s e.course.toNat e.unit.toNat (e.k.toNat % 4)) := by
  show execGateStreamComplete e s = _
  simp [execGateStreamComplete, gateArgs, hx, hf, hst, hop]

theorem execGateStreamComplete_drain (hop : x.pend.op = 0xB3) (hready : drainReady x = []) :
    exec (.gateStreamComplete e) s = .next (endStream s e.course.toNat e.unit.toNat (e.k.toNat % 4)) := by
  show execGateStreamComplete e s = _
  simp [execGateStreamComplete, gateArgs, hx, hf, hst, hop, hready, drainElems]

end

end

/-- Settles O35: requests by `takeRequest_stream`, `takeRequest_fence` and `takeRequest_cancel`, streams event by event. -/
theorem gatesTakeAndMoveStreams : Obligations.GatesTakeAndMoveStreams := by
  unfold Obligations.GatesTakeAndMoveStreams
  constructor
  · intro s q g c b sc
    refine ⟨takeRequest_poisoned, fun hp hop => ⟨fun hbusy => ?_, fun hfree => ?_⟩, fun hp hop hstr hfen => ?_,
      fun hp hop => ⟨fun x hx hcx => ?_, fun hno => ?_⟩⟩
    · rw [takeRequest_stream hp hop]
      exact if_pos hbusy
    · refine ⟨_, q.stream (s.bay c b).taken, (takeRequest_stream hp hop).trans (if_neg (Option.not_isSome_iff_eq_none.mpr hfree)), ?_,
        rfl, rfl, rfl, rfl, rfl, ?_, rfl⟩
      · rw [State.bay_setBay]
        exact lkp_put_same ..
      · rw [State.bay_setBay]
    · exact takeRequest_fence_alone hp hop hstr hfen
    · rw [takeRequest_cancel hp hop hx, if_pos hcx]
    · rcases hno with hx | ⟨x, hx, hcx⟩
      · exact takeRequest_cancel_none hp hop hx
      · rw [takeRequest_cancel hp hop hx, if_neg hcx]
  · intro e s x c b sc y op held moved ends hx
    have hmoved : op ≠ 0xB3 → x.moved = moved := fun h => (if_neg h).trans (if_neg h).symm
    refine ⟨fun hst hcount pl pat hpl hpat => ?_, fun hst hf ft bs lost hft hbs => ?_, fun hst hf hcount =>
      ⟨fun hop => ⟨fun h => ?_, fun t lost hlt haux hmove hsame => execGateStreamComplete_one hx hf hst hop hlt haux hmove hsame,
        fun kind code o a hlt hbad => execGateStreamFault_holds hx hf hst hop hlt hbad⟩, fun hop h => ?_,
        fun hop hready hdone hbeats => ?_⟩⟩
    · have hexec : exec (.gateStreamBind e) s = .next (bindStream s c b sc) := rfl
      refine ⟨fun kind code o a hreg => ?_, fun kind code o a hreg hrest => ?_, fun hreg hrest => ?_⟩
      · rw [hexec, bindStream_badRegion hx hst hcount hpl hpat hreg]
      · rw [hexec, bindStream_badRest hx hst hcount hpl hpat hreg hrest]
      · rw [hexec, bindStream_binds hx hst hcount hpl hpat hreg hrest]
        exact ⟨fun h0 => congrArg _ (if_pos h0), fun h0 hop => congrArg _ ((if_neg h0).trans (if_neg hop)),
          fun h0 hop => congrArg _ ((if_neg h0).trans (if_pos hop))⟩
    · intro n it t z sent
      rw [execGateFeedBeat_eq hx hf hst, sendBeat_sends hx hft hbs, beatToken_eq]
      rfl
    · rw [execGateStreamComplete_moves hx hf hst hop, moveElems_done hx h, endStream_moved hx hcount hop h, hmoved (by omega)]
    · rw [execGateStreamComplete_feed hx hf hst hop, endStream_fed hx hcount hop h, hmoved (by omega)]
    · rw [execGateStreamComplete_drain hx hf hst hop hready, endStream_drained hx hcount hop hdone hbeats,
        show x.count = moved from (if_pos hop).symm]

end Sys2Proof.Machine
end

section
/-! PROOF. Special registers, traps, repairs and host signals (R288 to R293). -/

namespace Sys2Proof.Machine

/-! ### TRAP, REPAIR and HOST.SIG (R291 to R293) -/

@[simp] theorem holdAfter_firing (s : State) (op : Nat) (r : NodeRec) (toks : List Transit) :
    (holdAfter s op r toks).firing = s.firing := State.modOwn_firing ..

section
variable {s : State} {r : NodeRec} (h : actsFreely s r (argsOf 0 s.firing 0))
include h

theorem execTrap_hard (hb : r.lit.getLsbD 16 = false) : exec (.trap r) s =
    .next (hardFault s s.firing kTRAP (r.lit.extractLsb' 0 16).toNat s.firing.cx.toNat fun x =>
      { x with data0 := (argsOf 0 s.firing 0).a.low 64 }) := by
  show Host.Outcome.next (actNode s r _ _) = _
  rw [actNode_free _ h]
  simp only [bitAt_eq, hb, Bool.false_eq_true, if_false, bitsAt_eq, Opnd.ofNat_word]

theorem execTrap_soft (hb : r.lit.getLsbD 16 = true) :
    exec (.trap r) s = .next (sendsValue (holdEffect s 0xE9 r) r ((argsOf 0 s.firing 0).a.low 64) false) := by
  have ⟨_, _, _, _, hp⟩ := h
  show Host.Outcome.next (actNode s r _ _) = _
  rw [actNode_free _ h]
  simp only [bitAt_eq, hb, if_true, hp]
  rw [emitWord_opnd _ _ _ (holdEffect_firing ..)]

theorem execRepair_sends :
    exec (.repair r) s = .next (sendsValue (holdAfter s 0xEA r []) r ((argsOf 0 s.firing 0).a.low 64) false) := by
  have ⟨_, _, _, _, hp⟩ := h
  show Host.Outcome.next (actNode s r _ _) = _
  rw [actNode_free _ h]
  simp only [hp]
  rw [emitWord_opnd _ _ _ (holdAfter_firing ..)]

theorem execHostSig_held (he : s.holdsEndpoint s.firing.cx.toNat (r.lit.extractLsb' 0 6).toNat = true) :
    exec (.hostSig r) s = .next (holdAfter s 0xEB r (laterToks s r s.firing true true)) := by
  show Host.Outcome.next (actNode s r _ _) = _
  rw [actNode_free _ h]
  simp only [bitsAt_eq, he, if_true]

theorem execHostSig_unheld (he : s.holdsEndpoint s.firing.cx.toNat (r.lit.extractLsb' 0 6).toNat = false) :
    exec (.hostSig r) s = .next (fault s s.firing kHOLDING 2) := by
  show Host.Outcome.next (actNode s r _ _) = _
  rw [actNode_free _ h]
  simp only [bitsAt_eq, he, Bool.false_eq_true, if_false]

end

/-- Settles O41: TRAP by its bit 16, REPAIR as it stands, HOST.SIG by its endpoint. -/
theorem trapRepairAndSignalAct : Obligations.TrapRepairAndSignalAct := by
  unfold Obligations.TrapRepairAndSignalAct
  intro r s g a code after h
  exact ⟨execTrap_hard h, execTrap_soft h, execRepair_sends h, execHostSig_held h, execHostSig_unheld h⟩

/-! ### Contexts whose holdings and parents stay -/

/-- What a context holds and to whom it belongs does not hang on the fields that `f` changes. -/
structure KeepsShare (f : Ctx → Ctx) : Prop where
  parent : ∀ x, (f x).parent = x.parent
  holds : ∀ x, (f x).holds = x.holds

theorem State.ctx_modCtx_other (s : State) {cx n : Nat} (f : Ctx → Ctx) (h : n ≠ cx) : (s.modCtx cx f).ctx n = s.ctx n := by
  unfold State.modCtx
  split
  · exact congrArg (Option.getD · _) (lkp_put_other _ _ h)
  · rfl

/-- A field that `f` leaves is read as before, in every context. -/
theorem State.ctx_modCtx_field {α : Type} (s : State) (cx n : Nat) {f : Ctx → Ctx} (g : Ctx → α) (hf : ∀ x, g (f x) = g x) :
    g ((s.modCtx cx f).ctx n) = g (s.ctx n) := by
  by_cases hn : n = cx
  · subst hn
    unfold State.modCtx
    split
    · next x hx => simp [State.ctx, hx, hf]
    · rfl
  · rw [State.ctx_modCtx_other s f hn]

/-- The entries of a list that a predicate of the key and of a field picks out stay when an entry is put again that it does
not pick out. -/
theorem filter_put_of_not {α : Type} {p : Nat × α → Bool} {i : Nat} {x y : α} (hx : p (i, x) = false) (hy : p (i, y) = false)
    {l : List (Nat × α)} (hl : lkp l i = some x) : (put l i y).filter p = l.filter p := by
  induction l with
  | nil => cases hl
  | cons e l ih =>
    obtain ⟨k, w⟩ := e
    rw [lkp] at hl
    by_cases hik : i < k
    · simp [put, hik, hy]
    · by_cases hk : k = i
      · subst hk
        rw [if_pos rfl] at hl
        cases hl
        simp [put, hx, hy]
      · rw [if_neg hk] at hl
        simp [put, hik, Ne.symm hk, List.filter_cons, ih hl]

/-- A context that is its own parent has given its whole share away. -/
theorem State.freeShare_own_parent {t : State} {cx : Nat} {x : Ctx} (h0 : cx ≠ 0) (hx : t.ctx? cx = some x) (hp : x.parent.toNat = cx)
    (c kind : Nat) :
    t.freeShare cx c kind = 0 := by
  have hmem : (cx, x) ∈ t.ctxs.filter fun e => e.1 != 0 && e.2.parent.toNat == cx :=
    List.mem_filter.mpr ⟨lkp_mem hx, by simp [h0, hp]⟩
  have hle : t.shareOf cx c kind ≤ t.givenOf cx c kind :=
    List.single_le_sum (fun _ _ => Nat.zero_le _) _ (List.mem_map_of_mem (f := fun e => t.shareOf e.1 c kind) hmem)
  exact Nat.sub_eq_zero_of_le hle

section
variable {s : State} {cx : Nat} {f : Ctx → Ctx} (hf : KeepsShare f) (c kind : Nat)
include hf

theorem State.shareOf_modCtx (n : Nat) : (s.modCtx cx f).shareOf n c kind = s.shareOf n c kind := by
  simp only [State.shareOf, State.ctx_modCtx_field s cx n Ctx.holds hf.holds]

/-- A context's free share stays when a field is changed that no share hangs on. -/
theorem State.freeShare_modCtx : (s.modCtx cx f).freeShare cx c kind = s.freeShare cx c kind := by
  cases hx : lkp s.ctxs cx with
  | none => simp only [State.modCtx, hx]
  | some x =>
    by_cases hp : cx ≠ 0 ∧ x.parent.toNat = cx
    · have hx' : (s.modCtx cx f).ctx? cx = some (f x) := by simp [State.ctx?, State.modCtx, hx]
      rw [State.freeShare_own_parent hp.1 hx' (by rw [hf.parent, hp.2]), State.freeShare_own_parent hp.1 hx hp.2]
    · have hnot : ∀ y : Ctx, y.parent = x.parent → ((cx != 0) && (y.parent.toNat == cx)) = false := by
        rintro y hy
        rw [hy, Bool.eq_false_iff]
        simpa using hp
      have hctxs : (s.modCtx cx f).ctxs = put s.ctxs cx (f x) := by simp only [State.modCtx, hx]
      have hfilter := filter_put_of_not (p := fun e : Nat × Ctx => e.1 != 0 && e.2.parent.toNat == cx)
        (hnot x rfl) (hnot (f x) (hf.parent x)) hx
      simp only [State.freeShare, State.givenOf, State.shareOf_modCtx hf, hctxs, hfilter]
end

/-! ### What CSR.WR does to its context (R288, R290) -/

/-- The registers that a context may write and that stand in it, K registers apart. -/
def ctxRegs : List Nat := [0x008, 0x009, 0x00A, 0x00C, 0x020, 0x021, 0x022, 0x023, 0x024]

theorem mem_ctxRegs {n : Nat} : n ∈ ctxRegs ↔
    n = 0x008 ∨ n = 0x009 ∨ n = 0x00A ∨ n = 0x00C ∨ n = 0x020 ∨ n = 0x021 ∨ n = 0x022 ∨ n = 0x023 ∨ n = 0x024 := by
  simp [ctxRegs]

/-- A register of a context takes a value. -/
def Ctx.setReg (x : Ctx) (n v : Nat) : Ctx :=
  match n with
  | 0x008 => { x with faultPol := BitVec.ofNat 64 v }
  | 0x009 => { x with handler := BitVec.ofNat 64 v }
  | 0x00A => { x with seed := BitVec.ofNat 64 v }
  | 0x00B => { x with sbc := BitVec.ofNat 5 v }
  | 0x00C => { x with nflag := BitVec.ofNat 7 v }
  | 0x020 => { x with resid := BitVec.ofNat 96 (natMod (signedVal 64 v) 96) }
  | 0x021 => { x with tol := BitVec.ofNat 64 v }
  | 0x022 => { x with thresh := BitVec.ofNat 32 v }
  | 0x023 => { x with taskBase := BitVec.ofNat 64 v }
  | 0x024 => { x with taskN := BitVec.ofNat 32 v }
  | _ => x

theorem csrWrite_ctx (s : State) (g : Firing) (cx : Nat) {n : Nat} (v : Nat) (hn : n < 0x100) :
    csrWrite s g cx n v = s.modCtx cx fun x => x.setReg n v := by
  rw [csrWrite, if_neg (by omega)]
  rfl

theorem csrWrite_k {s : State} {g : Firing} (hs : s.savedAt g.cx.toNat g.course.toNat g.unit.toNat = none) (cx : Nat) {n : Nat}
    (v : Nat) (hn : 0x100 ≤ n) : csrWrite s g cx n v =
      s.modElem g.course.toNat g.unit.toNat fun x => { x with k := put x.k (n % 16) (BitVec.ofNat 64 v) } := by
  simp only [csrWrite, if_pos hn, hs, Option.isSome_none, Bool.false_eq_true, if_false]

/-- The registers that R290 lists. -/
theorem csrRights_listed {m : Nat} (h : csrRights m ≠ none) : m ∈ ctxRegs ∨
    m ∈ [0x000, 0x001, 0x002, 0x003, 0x00B, 0x010, 0x011, 0x012, 0x013, 0x014, 0x015, 0x018] ∨ (0x030 ≤ m ∧ m ≤ 0x037) ∨
    (0x100 ≤ m ∧ m ≤ 0x10F) := by
  by_contra hno
  simp only [ctxRegs, List.mem_cons, List.not_mem_nil, or_false, not_or] at hno
  refine h ?_
  unfold csrRights
  repeat rw [if_neg (by omega)]

theorem residInt_setReg (x : Ctx) (v : Nat) : residInt (x.setReg 0x020 v) = (BitVec.ofNat 64 v).toInt := by
  have h : BitVec.ofNat 96 (natMod (signedVal 64 v) 96) = (BitVec.ofNat 64 v).signExtend 96 := by
    rw [natMod_eq, signedVal_eq, BitVec.ofNat_toNat, BitVec.setWidth_eq, BitVec.signExtend]
  show signedVal 96 (BitVec.ofNat 96 (natMod (signedVal 64 v) 96)).toNat = _
  rw [h, signedVal_eq, BitVec.ofNat_toNat, BitVec.setWidth_eq, BitVec.toInt_signExtend_of_le (by decide)]

/-- RESID as a 64-bit register reads a value of 64 bits as it is (R157, R290). -/
theorem satInt_word (x : BitVec 64) : satInt 3 x.toInt = (x.toInt, 0) := by
  have h : tyMin 3 ≤ x.toInt ∧ x.toInt ≤ tyMax 3 := valueIn_bounds 3 x
  rw [satInt_eq, if_pos h, min_eq_right h.2, max_eq_right h.1]

theorem csrRead_resid (s : State) (g : Firing) (cx : Nat) : csrRead s g cx 0x020 =
    (natMod (satInt 3 (residInt (s.ctx cx))).1 64, (satInt 3 (residInt (s.ctx cx))).2) := rfl

/-- The value of a register that stands in its context. -/
def Ctx.reg (x : Ctx) (n : Nat) : Nat × Flags :=
  match n with
  | 0x008 => (x.faultPol.toNat, 0)
  | 0x009 => (x.handler.toNat, 0)
  | 0x00A => (x.seed.toNat, 0)
  | 0x00C => (x.nflag.toNat, 0)
  | 0x020 => (natMod (satInt 3 (residInt x)).1 64, (satInt 3 (residInt x)).2)
  | 0x021 => (x.tol.toNat, 0)
  | 0x022 => (x.thresh.toNat, 0)
  | 0x023 => (x.taskBase.toNat, 0)
  | _ => (x.taskN.toNat, 0)

/-- A context without the registers that CSR.WR changes. -/
def Ctx.fixed (x : Ctx) : Ctx :=
  { x with faultPol := 0, handler := 0, seed := 0, nflag := 0, resid := 0, tol := 0, thresh := 0, taskBase := 0, taskN := 0 }

theorem csrRead_reg (s : State) (g : Firing) (cx : Nat) {n : Nat} (hn : n ∈ ctxRegs) : csrRead s g cx n = (s.ctx cx).reg n := by
  obtain rfl | rfl | rfl | rfl | rfl | rfl | rfl | rfl | rfl := mem_ctxRegs.mp hn <;> rfl

section
variable {x : Ctx} {n v : Nat}

theorem Ctx.setReg_fixed (hn : n ∈ ctxRegs) : (x.setReg n v).fixed = x.fixed := by
  obtain rfl | rfl | rfl | rfl | rfl | rfl | rfl | rfl | rfl := mem_ctxRegs.mp hn <;> rfl

theorem Ctx.field_of_fixed {α : Type} {y : Ctx} (h : y.fixed = x.fixed) (p : Ctx → α) (hp : ∀ x, p x.fixed = p x) : p y = p x := by
  rw [← hp, h, hp]

theorem Ctx.reg_setReg_other {m : Nat} (hm : m ∈ ctxRegs) (hn : n ∈ ctxRegs) (h : m ≠ n) : (x.setReg n v).reg m = x.reg m := by
  obtain rfl | rfl | rfl | rfl | rfl | rfl | rfl | rfl | rfl := mem_ctxRegs.mp hn <;>
    obtain rfl | rfl | rfl | rfl | rfl | rfl | rfl | rfl | rfl := mem_ctxRegs.mp hm <;>
    simp_all [Ctx.reg, Ctx.setReg, residInt]

/-- A register that takes a value in its limits holds it. -/
theorem Ctx.reg_setReg_same {s : State} {cx : Nat} (hn : n ∈ ctxRegs) (hv : v < 2 ^ 64) (hok : csrBad s cx n v = false) :
    (x.setReg n v).reg n = (v, 0) := by
  have hword : (BitVec.ofNat 64 v).toNat = v := BitVec.toNat_ofNat v 64 ▸ Nat.mod_eq_of_lt hv
  have hbits : ∀ w, v / 2 ^ w = 0 → (BitVec.ofNat w v).toNat = v := fun w h => by
    rw [BitVec.toNat_ofNat, Nat.mod_eq_of_lt (Nat.lt_of_div_eq_zero (by positivity) h)]
  have hresid : (x.setReg 0x020 v).reg 0x020 = (v, 0) := by
    simp only [Ctx.reg, residInt_setReg, satInt_word, natMod_eq, BitVec.ofInt_toInt, hword]
  obtain rfl | rfl | rfl | rfl | rfl | rfl | rfl | rfl | rfl := mem_ctxRegs.mp hn
  · exact congrArg (·, 0) hword
  · exact congrArg (·, 0) hword
  · exact congrArg (·, 0) hword
  · exact congrArg (·, 0) (hbits 7 (bne_eq_false_iff_eq.mp hok))
  · exact hresid
  · exact congrArg (·, 0) hword
  · exact congrArg (·, 0) (hbits 32 (bne_eq_false_iff_eq.mp hok))
  · exact congrArg (·, 0) hword
  · exact congrArg (·, 0) (hbits 32 (bne_eq_false_iff_eq.mp hok))
end

/-- A state whose contexts agree with another's but for the registers that CSR.WR changes. -/
structure SameFixed (s u : State) (cx : Nat) : Prop where
  ctx : ∀ k, (u.ctx k).fixed = (s.ctx k).fixed
  share : ∀ c kind, u.freeShare cx c kind = s.freeShare cx c kind
  courses : u.courses = s.courses
  kernels : u.kernels = s.kernels
  bays : u.bays = s.bays
  faults : u.faults = s.faults
  tick : u.tick = s.tick

theorem setReg_sameFixed (s : State) (cx : Nat) {n : Nat} (v : Nat) (hn : n ∈ ctxRegs) :
    SameFixed s (s.modCtx cx fun x => x.setReg n v) cx where
  ctx k := State.ctx_modCtx_field s cx k Ctx.fixed fun _ => Ctx.setReg_fixed hn
  share := State.freeShare_modCtx ⟨fun _ => Ctx.field_of_fixed (Ctx.setReg_fixed hn) Ctx.parent fun _ => rfl,
    fun _ => Ctx.field_of_fixed (Ctx.setReg_fixed hn) Ctx.holds fun _ => rfl⟩
  courses := State.modCtx_courses ..
  kernels := State.modCtx_kernels ..
  bays := State.modCtx_bays ..
  faults := State.modCtx_faults ..
  tick := State.modCtx_tick ..

/-- The registers that no context writes to itself hang on nothing that CSR.WR changes. -/
theorem csrRead_of_sameFixed {s u : State} {cx m : Nat} (h : SameFixed s u cx) (g : Firing)
    (hm : m ∈ [0x000, 0x001, 0x002, 0x003, 0x00B, 0x010, 0x011, 0x012, 0x013, 0x014, 0x015, 0x018] ∨ (0x030 ≤ m ∧ m ≤ 0x037)) :
    csrRead u g cx m = csrRead s g cx m := by
  obtain ⟨hctx, hshare, hcourses, hkernels, hbays, hfaults, htick⟩ := h
  have hdepth : ∀ k, (u.ctx k).depth = (s.ctx k).depth := fun k => Ctx.field_of_fixed (hctx k) Ctx.depth fun _ => rfl
  have hparent := Ctx.field_of_fixed (hctx cx) Ctx.parent fun _ => rfl
  have hsbc := Ctx.field_of_fixed (hctx cx) Ctx.sbc fun _ => rfl
  have htimeG := Ctx.field_of_fixed (hctx cx) Ctx.timeG fun _ => rfl
  have htimeS := Ctx.field_of_fixed (hctx cx) Ctx.timeS fun _ => rfl
  have henergy := Ctx.field_of_fixed (hctx cx) Ctx.energy fun _ => rfl
  have hquantum := Ctx.field_of_fixed (hctx cx) Ctx.quantum fun _ => rfl
  have hfloor := Ctx.field_of_fixed (hctx cx) Ctx.floor fun _ => rfl
  have hrunnable := Ctx.field_of_fixed (hctx cx) Ctx.runnable fun _ => rfl
  have hrevoking := Ctx.field_of_fixed (hctx cx) Ctx.revoking fun _ => rfl
  have hpceil := Ctx.field_of_fixed (hctx cx) Ctx.pceil fun _ => rfl
  have hfrec := Ctx.field_of_fixed (hctx cx) Ctx.frec fun _ => rfl
  rcases hm with hm | ⟨hlo, hhi⟩
  · simp only [List.mem_cons, List.not_mem_nil, or_false] at hm
    obtain rfl | rfl | rfl | rfl | rfl | rfl | rfl | rfl | rfl | rfl | rfl | rfl := hm <;>
      simp only [csrRead, ctxWord, State.kernelAt, State.loadedAt, State.crs, hdepth, hparent, hsbc, htimeG, htimeS, henergy, hquantum,
        hfloor, hrunnable, hrevoking, hpceil, hshare, hcourses, hkernels, htick, Nat.reduceLeDiff, if_false]
  · simp only [csrRead, if_neg (show ¬ 0x100 ≤ m by omega), if_pos hlo, frecOf, State.frame?, State.bay, hbays, hfaults, hfrec]

section
variable {s : State} {g : Firing} {cx n v : Nat}

/-- A register of the context that is written reads its value, and the others of R290 read as before. -/
theorem csrRead_setReg (hn : n ∈ ctxRegs) (hcx : (s.ctx? cx).isSome = true) (hv : v < 2 ^ 64) (hok : csrBad s cx n v = false) :
    csrRead (s.modCtx cx fun x => x.setReg n v) g cx n = (v, 0) ∧
      ∀ m, csrRights m ≠ none → m ≠ n → csrRead (s.modCtx cx fun x => x.setReg n v) g cx m = csrRead s g cx m := by
  refine ⟨?_, fun m hm hne => ?_⟩
  · rw [csrRead_reg _ _ _ hn, State.ctx_modCtx hcx, Ctx.reg_setReg_same hn hv hok]
  · obtain hm | hm | hm | ⟨hlo, hhi⟩ := csrRights_listed hm
    · rw [csrRead_reg _ _ _ hm, csrRead_reg _ _ _ hm]
      exact State.ctx_modCtx_field s cx cx (Ctx.reg · m) fun x => Ctx.reg_setReg_other hm hn hne
    · exact csrRead_of_sameFixed (setReg_sameFixed s cx v hn) g (.inl hm)
    · exact csrRead_of_sameFixed (setReg_sameFixed s cx v hn) g (.inr hm)
    · simp only [csrRead, if_pos hlo, State.kReg, State.elem, State.modCtx_elements]

/-- A K register that is written reads its value, and the other registers of R290 read as before. -/
theorem csrRead_putK (hu : g.unit.toNat < 0x1000) (hn : 0x100 ≤ n ∧ n ≤ 0x10F) (hv : v < 2 ^ 64) :
    let t := s.modElem g.course.toNat g.unit.toNat fun x => { x with k := put x.k (n % 16) (BitVec.ofNat 64 v) }
    csrRead t g cx n = (v, 0) ∧ ∀ m, csrRights m ≠ none → m ≠ n → csrRead t g cx m = csrRead s g cx m := by
  intro t
  have helem : t.elem g.course.toNat g.unit.toNat =
      { s.elem g.course.toNat g.unit.toNat with k := put (s.elem g.course.toNat g.unit.toNat).k (n % 16) (BitVec.ofNat 64 v) } :=
    State.elem_setElem ..
  refine ⟨?_, fun m hm hne => ?_⟩
  · simp only [csrRead, if_pos hn.1, State.kReg, if_pos hu, helem, lkp_put_same, Option.getD_some, BitVec.toNat_ofNat,
      Nat.mod_eq_of_lt hv]
  · by_cases hk : 0x100 ≤ m
    · have hm16 : m % 16 ≠ n % 16 := by
        obtain hm | hm | hm | hm := csrRights_listed hm
        · have := mem_ctxRegs.mp hm; omega
        · simp only [List.mem_cons, List.not_mem_nil, or_false] at hm; omega
        · omega
        · omega
      simp only [csrRead, if_pos hk, State.kReg, if_pos hu, helem, lkp_put_other _ _ hm16]
    · unfold csrRead
      rw [if_neg hk, if_neg hk]
      rfl
end

/-! ### CSR.WR (R288, R289) -/

theorem csrTarget_own (s : State) (cx : Nat) {w : Nat} (h : w < 2 ^ 15) : csrTarget s cx w = .ok (cx, true) := by
  rw [csrTarget, if_neg (by omega), if_pos (by omega)]

/-- A context may write these of its registers. -/
theorem csrRights_writable {n : Nat} (h : n ∈ ctxRegs ∨ (0x100 ≤ n ∧ n ≤ 0x10F)) :
    ∃ sr ar aw, csrRights n = some (sr, true, ar, aw) := by
  rcases h with hn | ⟨hlo, hhi⟩
  · obtain rfl | rfl | rfl | rfl | rfl | rfl | rfl | rfl | rfl := mem_ctxRegs.mp hn <;> exact ⟨_, _, _, rfl⟩
  · interval_cases n <;> exact ⟨_, _, _, rfl⟩

section
variable {s : State} {r : NodeRec} {b : Args} (hb : b = argsOf r.ar.toNat s.firing (BitVec.ofNat 512 (csrLit s s.firing r)))
  (h : actsFreely s r b) (hown : b.a.word < 2 ^ 15)
include hb h hown

theorem execCsrWr_sends (hw : (r.lit.extractLsb' 0 12).toNat ∈ ctxRegs ∨
      (0x100 ≤ (r.lit.extractLsb' 0 12).toNat ∧ (r.lit.extractLsb' 0 12).toNat ≤ 0x10F))
    (hok : csrBad s s.firing.cx.toNat (r.lit.extractLsb' 0 12).toNat b.b.word = false) :
    exec (.csrWr r) s = .next (sendsValue (holdArgs s 0xE8 r b) r (b.b.low 64) false) := by
  obtain ⟨sr, ar, aw, hrights⟩ := csrRights_writable hw
  have ⟨_, _, _, _, hp⟩ := h
  subst hb
  show Host.Outcome.next (actNode s r _ _) = _
  rw [actNode_free _ h]
  simp only [hp, csrTarget_own _ _ hown, bitsAt_eq, hrights, hok, Bool.not_false, Bool.and_self, Bool.false_eq_true, if_false, if_true]
  rw [emitWord_opnd _ _ _ (holdArgs_firing ..)]

/-- At its commit an unmarked CSR.WR of the own context writes its register. -/
theorem commitCsr_own (hc : (s.firing.c.map Opnd.p).getD false = false) (hs : (s.firing.s.map Opnd.p).getD false = false) :
    let g' := { s.firing with a := some b.a, b := some b.b }
    commitCsr s (pendOf 0xE8 r g') = csrWrite s g' s.firing.cx.toNat (r.lit.extractLsb' 0 12).toNat b.b.word := by
  intro g'
  have ⟨_, _, _, _, hp⟩ := h
  have hmark : b.a.p = false ∧ b.b.p = false := by
    subst hb
    simp only [argsOf, Bool.or_eq_false_iff] at hp ⊢
    exact hp.1.1
  have hfp : firingP g' = false := by simp [firingP, g', hmark, hc, hs]
  simp only [commitCsr, pendOf_fir, pendOf_r, hfp, Bool.false_eq_true, if_false, bitsAt_eq]
  rw [show csrTarget s g'.cx.toNat (g'.a.getD (plain 0)).word = .ok (g'.cx.toNat, true) from csrTarget_own s _ hown]
  rfl
end

/-- Settles O40: at issue by `execCsrWr_sends`; performed, by where the register stands, in the context or in the element. -/
theorem specialRegisterReadsBack : Obligations.SpecialRegisterReadsBack := by
  unfold Obligations.SpecialRegisterReadsBack
  intro r s g b n cx v writable p h hown hw hok
  refine ⟨execCsrWr_sends rfl h hown hw hok, fun hcx hu hsaved hc hs => ?_⟩
  have hv : v < 2 ^ 64 := Nat.mod_lt _ (by positivity)
  have hcommit : commitCsr s p = csrWrite s p.fir cx n v := commitCsr_own rfl h hown hc hs
  rw [hcommit]
  rcases hw with hn | hn
  · have hlt : n < 0x100 := by
      have := mem_ctxRegs.mp hn
      omega
    rw [csrWrite_ctx _ _ _ _ hlt]
    exact csrRead_setReg hn hcx hv hok
  · rw [csrWrite_k (g := p.fir) hsaved _ _ hn.1]
    exact csrRead_putK hu hn hv

end Sys2Proof.Machine
end

section
/-! PROOF. The heap of a course, and what its change leaves of a context's tasks (R299, R300, R365, R369). -/

namespace Sys2Proof.Machine

/-! ### A course's heap -/

theorem State.freeShare_of_ctxs {s u : State} (h : u.ctxs = s.ctxs) (cx c kind : Nat) : u.freeShare cx c kind = s.freeShare cx c kind := by
  simp only [State.freeShare, State.givenOf, State.shareOf, State.ctx, h]

theorem crs_modHeap (s : State) (c : Nat) (f : Heap → Heap) :
    (modHeap s c f).crs c = { s.crs c with heap := f (s.crs c).heap } := State.crs_modCrs ..

@[simp] theorem heap_modHeap (s : State) (c : Nat) (f : Heap → Heap) : ((modHeap s c f).crs c).heap = f (s.crs c).heap :=
  congrArg Course.heap (crs_modHeap s c f)

theorem modHeap_modHeap (s : State) (c : Nat) (f g : Heap → Heap) :
    modHeap (modHeap s c f) c g = modHeap s c fun h => g (f h) := by
  simp [modHeap, State.modCrs, State.crs]

theorem modHeap_congr {s : State} {c : Nat} {f g : Heap → Heap} (h : f (s.crs c).heap = g (s.crs c).heap) :
    modHeap s c f = modHeap s c g := by
  simp only [modHeap, State.modCrs, h]

/-- What hangs on no heap is the same in every course. -/
theorem crs_modHeap_field {α : Type} (s : State) (c d : Nat) (f : Heap → Heap) (g : Course → α)
    (hg : ∀ (y : Course) (h : Heap), g { y with heap := h } = g y) : g ((modHeap s c f).crs d) = g (s.crs d) := by
  by_cases hd : d = c
  · subst hd; rw [crs_modHeap, hg]
  · exact congrArg (fun o => g (Option.getD o Course.empty)) (lkp_put_other _ _ hd)

/-! ### Task cells, whatever the heaps hold (R299, R300) -/

section
variable (s : State) (c : Nat) (f : Heap → Heap) (cx : Nat)

theorem xlate_modHeap (up : List Nat) (va depth : Nat) : xlate (modHeap s c f) up va depth = xlate s up va depth := by
  induction up generalizing va depth with
  | nil => rfl
  | cons k up ih =>
    unfold xlate
    simp only [ih]
    rfl

theorem walk_modHeap (va : Nat) : (modHeap s c f).walk cx va = s.walk cx va := by
  unfold State.walk
  simp only [xlate_modHeap]
  rfl

theorem regionPages_modHeap (fuel va n : Nat) : regionPages (modHeap s c f) cx fuel va n = regionPages s cx fuel va n := by
  induction fuel generalizing va n with
  | zero => rfl
  | succ fuel ih =>
    unfold regionPages
    simp only [walk_modHeap, ih]

theorem virtRegion_modHeap (cls : Nat) (write shadow one : Bool) (fuel va n : Nat) :
    virtRegion (modHeap s c f) cx cls write shadow one fuel va n = virtRegion s cx cls write shadow one fuel va n := by
  unfold virtRegion
  simp only [regionPages_modHeap]
  rfl

theorem cellRegion_modHeap (t : Nat) : (modHeap s c f).cellRegion cx t = s.cellRegion cx t := by
  unfold State.cellRegion State.regionAny
  simp only [virtRegion_modHeap]
  rfl

theorem readBytes_modHeap (as : List Nat) : readBytes (modHeap s c f) as = readBytes s as := by
  have hmirror : ∀ d, (modHeap s c f).mirrorOf d = s.mirrorOf d := fun d =>
    crs_modHeap_field s c d f (fun y => y.mirror.getD s.ridge) fun _ _ => rfl
  refine List.map_congr_left fun a _ => ?_
  simp only [State.byteAt, hmirror]
  rfl

theorem taskCell_modHeap (t : Nat) : (modHeap s c f).taskCell cx t = s.taskCell cx t := by
  unfold State.taskCell
  rw [cellRegion_modHeap]
  simp only [readBytes_modHeap]

theorem changeNeeds_modHeap (p : Pend) : changeNeeds (modHeap s c f) p = changeNeeds s p := by
  unfold changeNeeds
  simp only [taskCell_modHeap]
  rfl
end

/-! ### Reservations that wait (R302, R369) -/

/-- No reservation of a context waits at a course's heap. -/
def NoneWaits (s : State) (cx : BitVec 12) (c : Nat) : Prop := ∀ w ∈ (s.crs c).heap.waits, w.cx ≠ cx

theorem NoneWaits.of_heap {s u : State} {cx : BitVec 12} {c : Nat} (h : NoneWaits s cx c)
    (hu : (u.crs c).heap.waits = (s.crs c).heap.waits) : NoneWaits u cx c := by
  unfold NoneWaits
  rw [hu]
  exact h

theorem NoneWaits.find? {s : State} {cx : BitVec 12} {c : Nat} (h : NoneWaits s cx c) :
    ((s.crs c).heap.waits.find? fun w => w.cx.toNat == cx.toNat) = none :=
  List.find?_eq_none.mpr fun w hw => by simpa [← BitVec.toNat_inj] using h w hw

theorem serveHeap_none {s : State} {cx : BitVec 12} {c : Nat} (h : NoneWaits s cx c) (n : Nat) : serveHeap cx.toNat c n s = s := by
  cases n with
  | zero => rfl
  | succ n => simp only [serveHeap, h.find?]

section
variable {s : State} {c : Nat} {w : HeapWait}

/-- The first reservation of a context is granted where its share has room. -/
theorem serveHeap_grants {cx : Nat} (hw : ((s.crs c).heap.waits.find? fun w => w.cx.toNat == cx) = some w)
    (hneed : w.change = true → changeNeeds s w.pend = some c) (hroom : heapUsed (s.crs c).heap cx < s.freeShare cx c 6) (n : Nat) :
    serveHeap cx c (n + 1) s =
      serveHeap cx c n (grantEntry (modHeap s c fun h => { h with waits := h.waits.erase w }) c w) := by
  have hd : (if w.change then changeNeeds s w.pend else some c) = some c := by
    split
    · next h => exact hneed h
    · rfl
  simp only [serveHeap, hw, hd, ne_eq, not_true_eq_false, if_false, if_pos hroom]

/-- A reservation that comes to wait. -/
def waitsMore (s : State) (c : Nat) (w : HeapWait) : State := modHeap s c fun h => { h with waits := h.waits ++ [w] }

theorem waits_waitsMore : ((waitsMore s c w).crs c).heap.waits = (s.crs c).heap.waits ++ [w] :=
  congrArg Heap.waits (heap_modHeap ..)

/-- A reservation that waits alone is granted at once where the share has room, and nothing waits then. -/
theorem serveHeap_waitsMore (hn : NoneWaits s w.cx c) (hneed : w.change = true → changeNeeds s w.pend = some c)
    (hroom : heapUsed (s.crs c).heap w.cx.toNat < s.freeShare w.cx.toNat c 6) (n : Nat) :
    serveHeap w.cx.toNat c (n + 1) (waitsMore s c w) = serveHeap w.cx.toNat c n (grantEntry (modHeap s c id) c w) := by
  have hfirst : (((waitsMore s c w).crs c).heap.waits.find? fun x => x.cx.toNat == w.cx.toNat) = some w := by
    rw [waits_waitsMore, List.find?_append, hn.find?]
    simp
  have hused : heapUsed ((waitsMore s c w).crs c).heap w.cx.toNat = heapUsed (s.crs c).heap w.cx.toNat := by
    rw [waitsMore, heap_modHeap]
    rfl
  have hfresh : w ∉ (s.crs c).heap.waits := fun hw => hn w hw rfl
  have hgone : (modHeap (waitsMore s c w) c fun h => { h with waits := h.waits.erase w }) = modHeap s c id := by
    rw [waitsMore, modHeap_modHeap]
    refine modHeap_congr ?_
    simp [List.erase_append_right _ hfresh]
  rw [serveHeap_grants hfirst (fun h => (changeNeeds_modHeap ..).trans (hneed h)) (by rw [hused]; exact hroom), hgone]
end

end Sys2Proof.Machine
end

section
/-! PROOF. The gain-heap instructions at issue (R299 to R306, R368). -/

namespace Sys2Proof.Machine

/-! ### The order of keys (R304, R368) -/

/-- A decoded value in the order of the extended reals. -/
noncomputable def FV.rank (v : FV) : EReal :=
  match v with
  | .nan => ⊥
  | .inf neg => if neg then ⊥ else ⊤
  | .fin neg m e => (((m : ℝ) * 2 ^ e * (if neg then -1 else 1) : ℝ) : EReal)

/-- A magnitude over a lower power of two is the same number. -/
theorem scaled_pow (m : Nat) {e f : Int} (h : f ≤ e) : ((m * 2 ^ (e - f).toNat : Nat) : ℝ) * 2 ^ f = m * 2 ^ e := by
  have hexp : ((e - f).toNat : Int) + f = e := by omega
  rw [Nat.cast_mul, Nat.cast_pow, Nat.cast_ofNat, mul_assoc, ← zpow_natCast, ← zpow_add₀ two_ne_zero, hexp]

theorem FV.cmp_eq_lt_iff {a b : FV} (ha : a ≠ .nan) (hb : b ≠ .nan) : FV.cmp a b = some .lt ↔ a.rank < b.rank := by
  cases a with
  | nan => exact absurd rfl ha
  | inf p =>
    cases b with
    | nan => exact absurd rfl hb
    | inf q => cases p <;> cases q <;> simp [FV.cmp, FV.rank]
    | fin q n g => cases p <;> simp [FV.cmp, FV.rank, EReal.bot_lt_coe]
  | fin p m e =>
    cases b with
    | nan => exact absurd rfl hb
    | inf q => cases q <;> simp [FV.cmp, FV.rank, EReal.coe_lt_top]
    | fin q n g =>
      have hpow : (0 : ℝ) < 2 ^ (if e < g then e else g) := by positivity
      have hscale : ∀ (m : Nat) (p : Bool) (k : Int), (if e < g then e else g) ≤ k →
          ((((m * 2 ^ (k - if e < g then e else g).toNat : Nat) : Int) * (if p then -1 else 1) : Int) : ℝ) *
            2 ^ (if e < g then e else g) = m * 2 ^ k * (if p then -1 else 1) := by
        intro m p k hk
        rw [Int.cast_mul, Int.cast_natCast, mul_right_comm, scaled_pow m hk]
        cases p <;> simp
      simp only [FV.cmp, Option.some.injEq, compare_lt_iff_lt, FV.rank, EReal.coe_lt_coe_iff]
      rw [← hscale m p e (by split <;> omega), ← hscale n q g (by split <;> omega), mul_lt_mul_iff_left₀ hpow, Int.cast_lt]

/-- The number that a key stands for. -/
noncomputable def HeapEntry.rank (e : HeapEntry) : EReal := (f32.decode e.key.toNat).rank

theorem keyLt_iff {x y : HeapEntry} (hx : f32.decode x.key.toNat ≠ .nan) (hy : f32.decode y.key.toNat ≠ .nan) :
    keyLt x.key.toNat y.key.toNat = true ↔ x.rank < y.rank := by
  rw [keyLt, beq_iff_eq, FV.cmp_eq_lt_iff hx hy, HeapEntry.rank, HeapEntry.rank]

/-! ### The entry of greatest key (R304) -/

/-- The better of the best entry so far and one more. -/
def betterEntry (m : Option HeapEntry) (e : HeapEntry) : Option HeapEntry :=
  match m with
  | none => some e
  | some x => if keyLt x.key.toNat e.key.toNat then some e
      else if keyLt e.key.toNat x.key.toNat then some x
      else if e.task.toNat < x.task.toNat then some e else some x

/-- The better of two entries is one of them, and none of them stands above it. -/
theorem betterEntry_some {x e : HeapEntry} (hx : f32.decode x.key.toNat ≠ .nan) (he : f32.decode e.key.toNat ≠ .nan) :
    ∃ y, betterEntry (some x) e = some y ∧ (y = x ∨ y = e) ∧ x.rank ≤ y.rank ∧ e.rank ≤ y.rank := by
  have hxe := keyLt_iff hx he
  have hex := keyLt_iff he hx
  simp only [betterEntry]
  split
  · next hlt => exact ⟨e, rfl, .inr rfl, (hxe.mp hlt).le, le_rfl⟩
  · next hnot =>
    have hle : e.rank ≤ x.rank := not_lt.mp fun hlt => hnot (hxe.mpr hlt)
    split
    · exact ⟨x, rfl, .inl rfl, le_rfl, hle⟩
    · next hnot' =>
      have hge : x.rank ≤ e.rank := not_lt.mp fun hlt => hnot' (hex.mpr hlt)
      split
      · exact ⟨e, rfl, .inr rfl, hge, le_rfl⟩
      · exact ⟨x, rfl, .inl rfl, le_rfl, hle⟩

/-- The best of some entries whose keys are numbers is one of them, and none stands above it. -/
theorem foldl_betterEntry {l : List HeapEntry} (hl : ∀ q ∈ l, f32.decode q.key.toNat ≠ FV.nan) (hne : l ≠ []) :
    ∃ y ∈ l, l.foldl betterEntry none = some y ∧ ∀ q ∈ l, q.rank ≤ y.rank := by
  induction l using List.reverseRecOn with
  | nil => exact absurd rfl hne
  | append_singleton l e ih =>
    have he := hl e (by simp)
    rw [List.foldl_append, List.foldl_cons, List.foldl_nil]
    by_cases hnil : l = []
    · subst hnil
      exact ⟨e, by simp, rfl, by simp⟩
    · obtain ⟨x, hx, hfold, hmax⟩ := ih (fun q hq => hl q (by simp [hq])) hnil
      obtain ⟨y, hy, hor, hxy, hey⟩ := betterEntry_some (hl x (by simp [hx])) he
      refine ⟨y, ?_, by rw [hfold, hy], ?_⟩
      · rcases hor with rfl | rfl <;> simp [hx]
      · intro q hq
        rcases List.mem_append.mp hq with hq | hq
        · exact (hmax q hq).trans hxy
        · rw [List.mem_singleton.mp hq]; exact hey

theorem topEntry_of_numbers {h : Heap} {cx : Nat} (hnum : ∀ q ∈ resident h cx, f32.decode q.key.toNat ≠ FV.nan)
    (hne : resident h cx ≠ []) : ∃ e ∈ resident h cx, topEntry h cx = some e ∧
      ∀ q ∈ resident h cx, keyLt e.key.toNat q.key.toNat = false := by
  obtain ⟨e, he, htop, hmax⟩ := foldl_betterEntry hnum hne
  refine ⟨e, he, htop, fun q hq => ?_⟩
  rw [Bool.eq_false_iff, Ne, keyLt_iff (hnum e he) (hnum q hq)]
  exact not_lt.mpr (hmax q hq)

/-! ### HEAP.Q and RESID.RD (R306) -/

section
variable (s : State) (r : NodeRec)

theorem execHeapQ_sends : exec (.heapQ r) s = .next (sendsWord s r (BitVec.ofNat 64
    (heapqWord s s.firing.cx.toNat s.firing.course.toNat (r.lit.extractLsb' 0 4).toNat)) 0) := by
  show Host.Outcome.next (ctlNode s r _) = _
  rw [ctlNode_eq, bitsAt_eq]

theorem execResidRd_sends : exec (.residRd r) s =
    let resid := (s.ctx s.firing.cx.toNat).resid.toInt
    .next (sendsWord s r (BitVec.ofInt 64 (max (-(2 ^ 63)) (min (2 ^ 63 - 1) resid)))
      (if -(2 ^ 63) ≤ resid ∧ resid ≤ 2 ^ 63 - 1 then 0 else fSAT)) := by
  have hresid : residInt (s.ctx s.firing.cx.toNat) = (s.ctx s.firing.cx.toNat).resid.toInt := by
    rw [residInt, signedVal_eq, BitVec.ofNat_toNat, BitVec.setWidth_eq]
  have hmin : tyMin 3 = -(2 ^ 63) := rfl
  have hmax : tyMax 3 = 2 ^ 63 - 1 := rfl
  show Host.Outcome.next (ctlNode s r _) = _
  simp only [ctlNode_eq, hresid, satInt_eq, hmin, hmax, natMod_eq, BitVec.ofNat_toNat, BitVec.setWidth_eq]

end

/-! ### The entry of a SPAWN (R302) -/

/-- The entry that a SPAWN reserves (R302, R365). -/
def reservedEntry (cx : BitVec 12) (task : BitVec 32) : HeapEntry := { rv := true, cx := cx, key := 0, task := task }

theorem sendsValue_courses (s : State) (r : NodeRec) (x : BitVec 64) (p : Bool) : (sendsValue s r x p).courses = s.courses := by
  unfold sendsValue sendsPayload sendsPair
  split
  · unfold afterSend
    split
    · rfl
    · exact State.modOwn_courses ..
  · rfl

/-- A SPAWN that finds room, with nothing of its context waiting, gets its entry and sends A (R302). -/
theorem serveHeap_reserves {s : State} {c : Nat} {w : HeapWait} (hs : w.change = false) (hn : NoneWaits s w.cx c)
    (hroom : heapUsed (s.crs c).heap w.cx.toNat < s.freeShare w.cx.toNat c 6) (hf : s.firing = w.pend.fir) (n : Nat) :
    serveHeap w.cx.toNat c (n + 1) (waitsMore s c w) = sendsValue
      ((modHeap s c fun h => { h with entries := h.entries ++ [reservedEntry w.cx w.task] }).modOwn w.pend.fir
        fun k => { k with gotHeap := k.gotHeap + 1 }) w.pend.r ((w.pend.fir.a.getD (plain 0)).low 64) false := by
  have hgrant : grantEntry (modHeap s c id) c w = sendsValue
      ((modHeap s c fun h => { h with entries := h.entries ++ [reservedEntry w.cx w.task] }).modOwn w.pend.fir
        fun k => { k with gotHeap := k.gotHeap + 1 }) w.pend.r ((w.pend.fir.a.getD (plain 0)).low 64) false := by
    unfold grantEntry
    rw [if_neg (by rw [hs]; decide), modHeap_modHeap, ← Opnd.ofNat_word]
    exact emitWord_of _ _ _ _ _ ((State.modOwn_firing ..).trans hf)
  rw [serveHeap_waitsMore hn (fun h => absurd h (by rw [hs]; decide)) hroom, hgrant]
  refine serveHeap_none (hn.of_heap ?_) n
  have hcrs : ∀ u : State, ((sendsValue (u.modOwn w.pend.fir fun k => { k with gotHeap := k.gotHeap + 1 }) w.pend.r
      ((w.pend.fir.a.getD (plain 0)).low 64) false).crs c) = u.crs c := fun u => by
    rw [State.crs, sendsValue_courses, State.modOwn_courses, State.crs]
  rw [hcrs, heap_modHeap]

section
variable {s : State} {r : NodeRec} (h : actsFreely s r (argsCtl s r s.firing))
include h

/-! ### TOL.WR (R306) -/

theorem execTolWr_sends : exec (.tolWr r) s =
    .next (sendsValue (holdArgs s 0xD5 r (argsCtl s r s.firing)) r ((argsCtl s r s.firing).a.low 64) false) := by
  have ⟨_, _, _, _, hp⟩ := h
  show Host.Outcome.next (actNode s r _ _) = _
  rw [actNode_free _ h]
  simp only [hp]
  rw [emitWord_opnd _ _ _ (holdArgs_firing ..)]

/-! ### Changes and SPAWN at issue (R299, R301, R302) -/

section
variable {op : Nat} {poisoned act : State → Args → State}

/-- A task at or beyond TASKN is refused (R299). -/
theorem taskNode_beyond (ht : (s.ctx s.firing.cx.toNat).taskN.toNat ≤ (argsCtl s r s.firing).a.word % 2 ^ 32) :
    taskNode op r s poisoned act = fault s s.firing kPROT 16 := by
  have ⟨_, _, _, _, hp⟩ := h
  unfold taskNode
  rw [actNode_free _ h]
  simp only [hp, Bool.false_eq_true, if_false, if_pos ht]

/-- A task whose cell is at hand is acted on. -/
theorem taskNode_acts {as : List Nat} {lost : Bool} {cls : Nat}
    (ht : (argsCtl s r s.firing).a.word % 2 ^ 32 < (s.ctx s.firing.cx.toNat).taskN.toNat)
    (hcell : s.cellRegion s.firing.cx.toNat ((argsCtl s r s.firing).a.word % 2 ^ 32) = .ok as lost cls)
    (hawake : s.firstAsleep as = none) : taskNode op r s poisoned act = act s (argsCtl s r s.firing) := by
  have ⟨_, _, _, _, hp⟩ := h
  unfold taskNode
  rw [actNode_free _ h]
  simp only [hp, Bool.false_eq_true, if_false, if_neg (Nat.not_le.mpr ht), hcell, hawake, Option.isSome_none]

theorem changeNode_beyond (ht : (s.ctx s.firing.cx.toNat).taskN.toNat ≤ (argsCtl s r s.firing).a.word % 2 ^ 32) :
    changeNode op r s = fault s s.firing kPROT 16 := by
  rw [changeNode, taskNode_beyond h ht]

/-- GAIN.ADD, GAIN.SET and GAIN.DONE of a task whose cell is at hand. -/
theorem changeNode_sends {as : List Nat} {lost : Bool} {cls : Nat}
    (ht : (argsCtl s r s.firing).a.word % 2 ^ 32 < (s.ctx s.firing.cx.toNat).taskN.toNat)
    (hcell : s.cellRegion s.firing.cx.toNat ((argsCtl s r s.firing).a.word % 2 ^ 32) = .ok as lost cls)
    (hawake : s.firstAsleep as = none) :
    changeNode op r s = sendsValue (holdArgs s op r (argsCtl s r s.firing)) r ((argsCtl s r s.firing).a.low 64) false := by
  rw [changeNode, taskNode_acts h ht hcell hawake, emitWord_opnd _ _ _ (holdArgs_firing ..)]
end

/-- The reservation that a SPAWN of the firing at hand makes. -/
def spawnWait (s : State) (r : NodeRec) : HeapWait :=
  { cx := s.firing.cx, task := BitVec.ofNat 32 (argsCtl s r s.firing).a.word, pend := pendOf 0xD0 r s.firing, change := false }

section
variable {as : List Nat} {lost : Bool} {cls : Nat}
  (ht : (argsCtl s r s.firing).a.word % 2 ^ 32 < (s.ctx s.firing.cx.toNat).taskN.toNat)
  (hcell : s.cellRegion s.firing.cx.toNat ((argsCtl s r s.firing).a.word % 2 ^ 32) = .ok as lost cls)
  (hawake : s.firstAsleep as = none)
include ht hcell hawake

theorem execSpawn_unheld (hfree : s.freeShare s.firing.cx.toNat s.firing.course.toNat 6 = 0) :
    exec (.spawn r) s = .next (fault s s.firing kHOLDING 2) := by
  show Host.Outcome.next (taskNode 0xD0 r s _ _) = _
  rw [taskNode_acts h ht hcell hawake, if_pos hfree]

theorem execSpawn_waits (hfree : s.freeShare s.firing.cx.toNat s.firing.course.toNat 6 ≠ 0) :
    exec (.spawn r) s =
      let t := waitsMore (holdArgs s 0xD0 r (argsCtl s r s.firing)) s.firing.course.toNat (spawnWait s r)
      .next (serveHeap s.firing.cx.toNat s.firing.course.toNat ((t.crs s.firing.course.toNat).heap.waits.length + 1) t) := by
  show Host.Outcome.next (taskNode 0xD0 r s _ _) = _
  rw [taskNode_acts h ht hcell hawake, if_neg hfree]
  rfl

theorem execSpawn_reserves
    (hroom : heapUsed (s.crs s.firing.course.toNat).heap s.firing.cx.toNat < s.freeShare s.firing.cx.toNat s.firing.course.toNat 6)
    (hwaits : NoneWaits s s.firing.cx s.firing.course.toNat) :
    exec (.spawn r) s = .next (sendsValue ((modHeap (holdArgs s 0xD0 r (argsCtl s r s.firing)) s.firing.course.toNat fun h =>
        { h with entries := h.entries ++ [reservedEntry s.firing.cx (BitVec.ofNat 32 (argsCtl s r s.firing).a.word)] }).modOwn s.firing
      fun k => { k with gotHeap := k.gotHeap + 1 }) r ((s.firing.a.getD (plain 0)).low 64) false) := by
  have hcrs : (holdArgs s 0xD0 r (argsCtl s r s.firing)).crs s.firing.course.toNat = s.crs s.firing.course.toNat :=
    congrArg (fun l => (lkp l _).getD Course.empty) (State.modOwn_courses ..)
  have hshare : (holdArgs s 0xD0 r (argsCtl s r s.firing)).freeShare s.firing.cx.toNat s.firing.course.toNat 6 =
      s.freeShare s.firing.cx.toNat s.firing.course.toNat 6 := State.freeShare_of_ctxs (State.modOwn_ctxs ..) _ _ _
  rw [execSpawn_waits h ht hcell hawake (by omega)]
  have hres := serveHeap_reserves (s := holdArgs s 0xD0 r (argsCtl s r s.firing)) (w := spawnWait s r) (c := s.firing.course.toNat) rfl
    (hwaits.of_heap (by rw [hcrs])) (by rw [hcrs]; exact hshare ▸ hroom) (holdArgs_firing ..)
  simp only [spawnWait, pendOf_r, pendOf_fir] at hres ⊢
  exact congrArg _ (hres _)
end
end

/-! ### GAIN.TAKE (R304) -/

section
variable {s : State} {r : NodeRec} (h : actsFreely s r (argsOf 5 s.firing 0))
include h

theorem execGainTake_armed (ha : (lkp (s.elem s.firing.course.toNat s.firing.unit.toNat).takes s.firing.takeKey).isSome = true) :
    exec (.gainTake r) s = .next s := by
  show Host.Outcome.next (actNode s r _ _) = _
  rw [actNode_free _ h, if_pos ha]

/-- The latch that a GAIN.TAKE arms. -/
def armedTake (s : State) : TakeLatch :=
  { cx := s.firing.cx, serial := ((s.heapKernel s.firing.cx.toNat).map Kernel.serial).getD 0, link := s.ownLink s.firing,
    parked := false, frame := none }

theorem execGainTake_arms (ha : lkp (s.elem s.firing.course.toNat s.firing.unit.toNat).takes s.firing.takeKey = none) :
    exec (.gainTake r) s = .next (askTake (s.modElem s.firing.course.toNat s.firing.unit.toNat fun x =>
      { x with takes := put x.takes s.firing.takeKey (armedTake s) }) (pendOf 0xD2 r s.firing)) := by
  show Host.Outcome.next (actNode s r _ _) = _
  rw [actNode_free _ h, if_neg (by simp [ha])]
  rfl
end

/-- Settles O36: the queries by `topEntry_of_numbers`, changes and SPAWN after the checks of `taskNode`, GAIN.TAKE by its latch. -/
theorem heapInstructionsAct : Obligations.HeapInstructionsAct := by
  unfold Obligations.HeapInstructionsAct
  intro r s as lost cls g c cx a t resid changes h here sel sends
  have hq : ∀ v, BitVec.ofNat 64 (heapqWord s cx c sel) = v → sends v := fun v hv => (execHeapQ_sends s r).trans (by rw [← hv])
  have htop : ∀ e, sel = 1 → topEntry h cx = some e → sends (e.key.setWidth 64) := fun e hsel he =>
    hq _ (by rw [hsel]; simp only [heapqWord]; rw [he, Option.map_some, Option.getD_some, BitVec.ofNat_toNat])
  have hchanges : ∀ op i, (op, i) ∈ changes →
      op = 0xD1 ∧ i = .gainAdd r ∨ op = 0xD3 ∧ i = .gainDone r ∨ op = 0xD7 ∧ i = .gainSet r := fun op i hi => by
    simpa [changes] using hi
  have hfold : topEntry h cx = here.foldl betterEntry none := rfl
  refine ⟨fun hsel => hq _ (by rw [hsel]; rfl), fun hsel hnil => hq _ ?_, fun hsel e he => htop e hsel ?_,
    fun hsel hnum hne => ?_, fun hsel => hq _ (by rw [hsel]; rfl), fun hsel => hq _ ?_, fun hsel => hq _ (by rw [hsel]; rfl),
    execResidRd_sends s r, fun hact => ⟨execTolWr_sends hact, fun ht => ⟨?_, ?_⟩, fun ht hcell hawake => ⟨?_, ?_, ?_⟩⟩,
    fun hact => ⟨execGainTake_armed hact, fun ha => ?_⟩⟩
  · rw [hsel]
    simp only [heapqWord]
    rw [hfold, hnil]
    rfl
  · rw [hfold, he]
    rfl
  · obtain ⟨e, he, hetop, hmax⟩ := topEntry_of_numbers (h := h) (cx := cx) hnum hne
    exact ⟨e, he, htop e hsel hetop, hmax⟩
  · rw [hsel]
    exact BitVec.ofNat_toNat ..
  · exact congrArg _ (taskNode_beyond hact ht)
  · intro op i hi
    obtain ⟨rfl, rfl⟩ | ⟨rfl, rfl⟩ | ⟨rfl, rfl⟩ := hchanges op i hi <;> exact congrArg _ (changeNode_beyond hact ht)
  · intro op i hi
    obtain ⟨rfl, rfl⟩ | ⟨rfl, rfl⟩ | ⟨rfl, rfl⟩ := hchanges op i hi <;> exact congrArg _ (changeNode_sends hact ht hcell hawake)
  · exact execSpawn_unheld hact ht hcell hawake
  · exact fun hroom hwaits => execSpawn_reserves hact ht hcell hawake hroom hwaits
  · refine ⟨_, armedTake s, execGainTake_arms hact ha, ?_, rfl, rfl, rfl, rfl, rfl, rfl⟩
    rw [State.modElem, State.elem_setElem, lkp_put_same]

end Sys2Proof.Machine
end

section
/-! PROOF. Gain-heap changes and SPAWN at their commit, and the entries that wait (R300 to R303, R305, R306, R369, R390). -/

namespace Sys2Proof.Machine

/-! ### What the writing of a cell leaves (R300, R415, R416) -/

/-- Every course is as it was, and so is every ring of a context. -/
structure KeepsHeaps (s u : State) : Prop where
  courses : u.courses = s.courses
  rings : ∀ n, (u.ctx n).rings = (s.ctx n).rings

section
variable {s t u : State}

theorem KeepsHeaps.of_ctxs (hc : u.courses = s.courses) (hx : u.ctxs = s.ctxs) : KeepsHeaps s u :=
  ⟨hc, fun n => by rw [State.ctx, hx, State.ctx]⟩

theorem KeepsHeaps.refl (s : State) : KeepsHeaps s s := .of_ctxs rfl rfl

theorem KeepsHeaps.trans (h : KeepsHeaps s t) (k : KeepsHeaps t u) : KeepsHeaps s u :=
  ⟨k.courses.trans h.courses, fun n => (k.rings n).trans (h.rings n)⟩

theorem KeepsHeaps.foldl {α : Type} {f : State → α → State} (hf : ∀ s x, KeepsHeaps s (f s x)) (l : List α) (s : State) :
    KeepsHeaps s (l.foldl f s) := by
  induction l generalizing s with
  | nil => exact .refl s
  | cons x l ih => exact (hf s x).trans (ih _)
end

/-- A change of entries that leaves their keys is one of the values looked up. -/
theorem lkp_map_entries {α : Type} (f : Nat × α → Nat × α) (hf : ∀ e, (f e).1 = e.1) (l : List (Nat × α)) (i : Nat) :
    lkp (l.map f) i = (lkp l i).map fun v => (f (i, v)).2 := by
  induction l with
  | nil => rfl
  | cons e l ih =>
    obtain ⟨k, v⟩ := e
    rw [List.map_cons, ← Prod.eta (f (k, v)), hf, lkp, lkp, ih]
    split
    · next h => subst h; rfl
    · rfl

theorem bumpGen_keepsHeaps (s : State) (cx : Nat) : KeepsHeaps s (bumpGen s cx) := by
  unfold bumpGen
  extract_lets hit zero s1
  have h1 : KeepsHeaps s s1 := ⟨rfl, fun n => by
    rw [State.ctx, show s1.ctxs = _ from rfl, lkp_map_entries _ (fun e => by split <;> rfl), State.ctx]
    cases lkp s.ctxs n with
    | none => rfl
    | some x =>
      simp only [Option.map_some, Option.getD_some]
      split <;> rfl⟩
  split
  · exact h1
  · exact h1.trans (.of_ctxs rfl rfl)

theorem touchLine_keepsHeaps (s : State) (a : Nat) : KeepsHeaps s (touchLine s a) := by
  unfold touchLine
  split
  · exact .refl s
  · exact (bumpGen_keepsHeaps s _).trans (.of_ctxs rfl rfl)

theorem resetShadow_keepsHeaps (hit : Nat → Bool) (s : State) (line : Nat) : KeepsHeaps s (resetShadow hit s line) := by
  unfold resetShadow
  split <;> exact .of_ctxs rfl rfl

theorem dropStruct_keepsHeaps (s : State) : KeepsHeaps s (dropStruct s) := by
  unfold dropStruct
  split <;> exact .of_ctxs rfl rfl

theorem writeBytes_keepsHeaps (s : State) (l : List (Nat × Byte)) : KeepsHeaps s (writeBytes s l) := by
  unfold writeBytes
  extract_lets lines hit edits s1 s2 s3
  have h1 : KeepsHeaps s s1 := (KeepsHeaps.foldl (resetShadow_keepsHeaps hit) lines s).trans
    (.foldl (fun s _ => touchLine_keepsHeaps s _) _ _)
  have h3 : KeepsHeaps s s3 := (h1.trans (.of_ctxs (u := s2) rfl rfl)).trans (.foldl (resetShadow_keepsHeaps hit) lines s2)
  split
  · exact h3.trans (dropStruct_keepsHeaps s3)
  · exact h3

theorem dirtyRegion_keepsHeaps (cx fuel va n : Nat) (s : State) : KeepsHeaps s (dirtyRegion s cx fuel va n) := by
  induction fuel generalizing s va n with
  | zero => exact .refl s
  | succ fuel ih =>
    unfold dirtyRegion
    split
    · exact .refl s
    · split
      · exact .refl s
      · extract_lets k mem
        exact (KeepsHeaps.of_ctxs (s := s) (u := { s with mem := mem }) rfl rfl).trans (ih ..)

/-- A cell that is written leaves heaps, rooms and the clock alone. -/
theorem putTask_keeps (s : State) (cx t : Nat) (k : TaskCell) :
    KeepsHeaps s (s.putTask cx t k) ∧ KeepsRoom s (s.putTask cx t k) ∧ KeepsClock s (s.putTask cx t k) := by
  unfold State.putTask
  split
  · unfold State.writeRegion
    extract_lets x u
    have hu : KeepsHeaps s u ∧ KeepsRoom s u ∧ KeepsClock s u := by
      unfold u
      split
      · exact ⟨.refl s, .refl s, rfl, rfl⟩
      · exact ⟨dirtyRegion_keepsHeaps .., dirtyRegion_keepsRoom .., dirtyRegion_clock ..⟩
    obtain ⟨hheaps, hroom, hclock⟩ := hu
    exact ⟨hheaps.trans (writeBytes_keepsHeaps ..), hroom.trans (writeBytes_keepsRoom ..), hclock.trans (writeBytes_clock ..)⟩
  · exact ⟨.refl s, .refl s, rfl, rfl⟩

theorem putTask_courses (s : State) (cx t : Nat) (k : TaskCell) : (s.putTask cx t k).courses = s.courses :=
  (putTask_keeps s cx t k).1.courses

/-! ### What a change of RESID leaves (R157, R300) -/

/-- Courses and kernels, a context's free shares and its THRESH are as they were. -/
structure KeepsTerms (s u : State) (cx : Nat) : Prop where
  courses : u.courses = s.courses
  kernels : u.kernels = s.kernels
  share : ∀ c kind, u.freeShare cx c kind = s.freeShare cx c kind
  thresh : (u.ctx cx).thresh = (s.ctx cx).thresh

theorem KeepsTerms.active {s u : State} {cx : Nat} (h : KeepsTerms s u cx) (x : Nat) : u.active cx x = s.active cx x := by
  rw [State.active, h.thresh, State.active]

theorem KeepsTerms.ended {s u : State} {cx : Nat} (h : KeepsTerms s u cx) : heapEnded u cx = heapEnded s cx := by
  rw [heapEnded, State.heapKernel, h.kernels, heapEnded, State.heapKernel]

theorem KeepsTerms.trans {s t u : State} {cx : Nat} (h : KeepsTerms s t cx) (k : KeepsTerms t u cx) : KeepsTerms s u cx :=
  ⟨k.courses.trans h.courses, k.kernels.trans h.kernels, fun c kind => (k.share c kind).trans (h.share c kind), k.thresh.trans h.thresh⟩

theorem modCtx_keepsTerms (s : State) (cx : Nat) {f : Ctx → Ctx} (hf : KeepsShare f) (ht : ∀ x, (f x).thresh = x.thresh) :
    KeepsTerms s (s.modCtx cx f) cx :=
  ⟨State.modCtx_courses .., State.modCtx_kernels .., State.freeShare_modCtx hf, State.ctx_modCtx_field s cx cx Ctx.thresh ht⟩

theorem setFlags_keepsTerms (s : State) (cx : Nat) (fl : Flags) : KeepsTerms s (setFlags s cx fl) cx := by
  unfold setFlags
  split
  · exact ⟨rfl, rfl, fun _ _ => rfl, rfl⟩
  · exact modCtx_keepsTerms s cx ⟨fun _ => rfl, fun _ => rfl⟩ fun _ => rfl

theorem addResid_eq (s : State) (cx new old : Nat) : ∃ (f : Ctx → BitVec 96) (fl : Flags),
    addResid s cx new old = setFlags (s.modCtx cx fun x => { x with resid := f x }) cx fl := ⟨_, _, rfl⟩

theorem addResid_keepsTerms (s : State) (cx new old : Nat) : KeepsTerms s (addResid s cx new old) cx := by
  obtain ⟨f, fl, h⟩ := addResid_eq s cx new old
  rw [h]
  exact (modCtx_keepsTerms s cx (f := fun x => { x with resid := f x }) ⟨fun _ => rfl, fun _ => rfl⟩ fun _ => rfl).trans
    (setFlags_keepsTerms ..)

theorem setFlags_resid (s : State) (cx : Nat) (fl : Flags) : ((setFlags s cx fl).ctx cx).resid = (s.ctx cx).resid := by
  unfold setFlags
  split
  · rfl
  · exact State.ctx_modCtx_field s cx cx Ctx.resid fun _ => rfl

/-- RESID moves by the difference of the two gains on its grid. -/
theorem addResid_resid {s : State} {cx : Nat} (h : (s.ctx? cx).isSome = true) (new old : Nat) : ((addResid s cx new old).ctx cx).resid =
    (s.ctx cx).resid + BitVec.ofInt 96 ((gridQ (f32.decode new)).1 - (gridQ (f32.decode old)).1) := by
  have hsum : ∀ (x : BitVec 96) (a b : Int),
      BitVec.ofNat 96 (natMod (signedVal 96 x.toNat + a - b) 96) = x + BitVec.ofInt 96 (a - b) := by
    intro x a b
    rw [natMod_eq, signedVal_eq, BitVec.ofNat_toNat, BitVec.ofNat_toNat, BitVec.setWidth_eq, BitVec.setWidth_eq, Int.add_sub_assoc,
      BitVec.ofInt_add, BitVec.ofInt_toInt]
  unfold addResid
  rw [setFlags_resid, State.ctx_modCtx h]
  exact hsum _ _ _

/-! ### Heaps that lose a run and gain an entry (R302, R303, R305) -/

/-- A task's run on a course ends. -/
def stopRun (s : State) (c cx t : Nat) : State :=
  modHeap s c fun h => { h with running := h.running.filter fun r => !(r.1.toNat == cx && r.2.toNat == t) }

/-- A task is queued in a course's heap under a key. -/
def enqueueTask (s : State) (c cx t key : Nat) : State :=
  modHeap s c fun h => { h with entries := h.entries ++
    [{ rv := false, cx := BitVec.ofNat 12 cx, key := BitVec.ofNat 32 key, task := BitVec.ofNat 32 t }] }

section
variable {s u : State} {cx : BitVec 12} {c : Nat}

theorem NoneWaits.of_courses (h : NoneWaits s cx c) (hu : u.courses = s.courses) : NoneWaits u cx c :=
  h.of_heap (by rw [State.crs, hu, State.crs])

theorem NoneWaits.modHeap (h : NoneWaits s cx c) {f : Heap → Heap} (hf : ∀ h, (f h).waits = h.waits) : NoneWaits (modHeap s c f) cx c :=
  h.of_heap (by rw [heap_modHeap, hf])

theorem NoneWaits.putTask (h : NoneWaits s cx c) (n t : Nat) (k : TaskCell) : NoneWaits (s.putTask n t k) cx c :=
  h.of_courses (putTask_courses ..)

theorem NoneWaits.stopRun (h : NoneWaits s cx c) (n t : Nat) : NoneWaits (stopRun s c n t) cx c := h.modHeap fun _ => rfl

theorem NoneWaits.enqueueTask (h : NoneWaits s cx c) (n t key : Nat) : NoneWaits (enqueueTask s c n t key) cx c :=
  h.modHeap fun _ => rfl

theorem NoneWaits.addResid (h : NoneWaits s cx c) (n new old : Nat) : NoneWaits (addResid s n new old) cx c :=
  h.of_courses (addResid_keepsTerms ..).courses
end

/-! ### A cell that changes (R303, R305) -/

section
variable {s : State} {cx t new : Nat} {k : TaskCell}

/-- A task with room for its entry is queued. -/
theorem queueTask_room (hend : heapEnded s cx = false) (hroom : s.freeShare cx k.crs 6 ≠ 0) :
    queueTask s cx t k = enqueueTask (s.putTask cx t { k with st := 1, hr := true }) k.crs cx t k.gain := by
  unfold queueTask
  rw [if_neg (by simp [hend, hroom])]
  rfl

theorem setGain_running (hst : k.st = 2) :
    setGain s cx t new k = (addResid s cx new k.gain).putTask cx t { k with gain := new } := by
  simp only [setGain, hst]

/-- A task that is neither queued nor running stays so with a gain that is not active, and is queued with an active one. -/
theorem setGain_free (hst : k.st = 0 ∨ k.st = 3) : setGain s cx t new k =
    if s.active cx new then queueTask (addResid s cx new k.gain) cx t { k with gain := new }
    else (addResid s cx new k.gain).putTask cx t { k with gain := new } := by
  have hact := (addResid_keepsTerms s cx new k.gain).active new
  rcases hst with h | h <;> simp only [setGain, h, hact]

variable {p : Pend} (hp : changeTask p = (cx, t)) (hk : s.taskCell cx t = some k)
include hp hk

theorem applyTask_sets (hop : p.op = 0xD1 ∨ p.op = 0xD7) :
    applyTask s p = setGain (setFlags s cx (changeGain p k).2) cx t (changeGain p k).1 k := by
  have h3 : p.op ≠ 0xD3 := by omega
  have h0 : ¬ (p.op = 0xD0 ∧ k.st ≠ 1 ∧ k.st ≠ 2 ∧ gainNan (changeGain p k).1 = false) := by omega
  simp only [applyTask, hp, hk, if_neg h3, if_neg h0]

/-- GAIN.DONE of a task that does not run makes a record and changes nothing (R305). -/
theorem applyTask_notRunning (hop : p.op = 0xD3) (hst : k.st ≠ 2) : applyTask s p = softAt s p.fir kPROT 16 id := by
  simp only [applyTask, hp, hk, if_pos hop, if_pos hst]

/-- GAIN.DONE of a running task: TAKEN leaves RESID, the run ends, and an active gain queues the task again (R305). -/
theorem applyTask_done (hop : p.op = 0xD3) (hst : k.st = 2) : applyTask s p =
    if s.active cx k.gain then queueTask (stopRun (addResid s cx 0 k.taken) k.crs cx t) cx t { k with taken := 0 }
    else (stopRun (addResid s cx 0 k.taken) k.crs cx t).putTask cx t { k with taken := 0, st := 3 } := by
  have hgain : (changeGain p k).1 = k.gain := by
    simp only [changeGain, hop, Nat.reduceEqDiff, if_false, or_self]
  have hact : (stopRun (addResid s cx 0 k.taken) k.crs cx t).active cx k.gain = s.active cx k.gain :=
    (addResid_keepsTerms s cx 0 k.taken).active _
  rw [← hact]
  simp only [applyTask, hp, hk, if_pos hop, hst, ne_eq, not_true_eq_false, if_false, hgain]
  rfl

/-- The change lets its task be queued anew. -/
def changeFrees (p : Pend) (k : TaskCell) : Bool := if p.op = 0xD3 then k.st == 2 else k.st != 1 && k.st != 2

/-- Where a change, no SPAWN, needs an entry: in the heap of its task's course, for an active gain. -/
theorem changeNeeds_eq (hop : p.op ≠ 0xD0) : changeNeeds s p =
    if changeFrees p k && s.active cx (changeGain p k).1 && !(heapEnded s cx) && s.freeShare cx k.crs 6 != 0 then some k.crs else none := by
  simp only [changeNeeds, hp, hk, if_neg hop]
  rfl
end

/-! ### A change at its commit (R301, R303, R305, R390) -/

/-- The change as it waits at a heap. -/
def changeWait (p : Pend) : HeapWait :=
  { cx := p.fir.cx, task := BitVec.ofNat 32 (changeTask p).2, pend := p, change := true }

section
variable {s : State} {p : Pend}

theorem commitChange_poisoned (hp : firingP p.fir = true) : commitChange s p = poisonRec s p.fir 6 := by
  simp only [commitChange, hp, if_true]

variable (hp : firingP p.fir = false)
include hp

/-- A change that waits for nothing takes place, and what waits is then served. -/
theorem commitChange_now (hw : waitingAt s p.fir.cx.toNat (changeTask p).2 = none) (hn : changeNeeds s p = none) :
    commitChange s p = serveWaiting (applyTask s p) p.fir.cx.toNat := by
  simp only [changeTask] at hw
  simp only [commitChange, changeTask, hp, Bool.false_eq_true, if_false, hw, hn, Option.or_none]

theorem commitChange_waits {c : Nat} (h : (waitingAt s p.fir.cx.toNat (changeTask p).2).or (changeNeeds s p) = some c) :
    commitChange s p =
      serveHeap p.fir.cx.toNat c (((waitsMore s c (changeWait p)).crs c).heap.waits.length + 1) (waitsMore s c (changeWait p)) := by
  simp only [changeTask] at h
  simp only [commitChange, changeTask, hp, Bool.false_eq_true, if_false, h]
  rfl

/-- A change that needs an entry takes it where there is room, with nothing of its context waiting there. -/
theorem commitChange_enters {c : Nat} (hw : waitingAt s p.fir.cx.toNat (changeTask p).2 = none) (hn : changeNeeds s p = some c)
    (hnone : NoneWaits s p.fir.cx c) (hroom : heapUsed (s.crs c).heap p.fir.cx.toNat < s.freeShare p.fir.cx.toNat c 6)
    (hafter : NoneWaits (applyTask (modHeap s c id) p) p.fir.cx c) : commitChange s p = applyTask (modHeap s c id) p := by
  rw [commitChange_waits hp (by rw [hw, hn]; rfl)]
  exact (serveHeap_waitsMore (w := changeWait p) hnone (fun _ => hn) hroom _).trans (serveHeap_none hafter _)

/-- Behind a change that waits at its home for an entry, a change of the same context stays (R301; notes/assumptions/36.md). -/
theorem commitChange_stays {c : Nat} {w : HeapWait} (hw : waitingAt s p.fir.cx.toNat (changeTask p).2 = some c)
    (hfirst : ((s.crs c).heap.waits.find? fun w => w.cx.toNat == p.fir.cx.toNat) = some w) (hchange : w.change = true)
    (hneed : changeNeeds s w.pend = some c) (hfull : s.freeShare p.fir.cx.toNat c 6 ≤ heapUsed (s.crs c).heap p.fir.cx.toNat)
    (hheld : (s.crs c).heap.held = true) : commitChange s p = waitsMore s c (changeWait p) := by
  rw [commitChange_waits hp (by rw [hw]; rfl)]
  have hfirst' : (((waitsMore s c (changeWait p)).crs c).heap.waits.find? fun w => w.cx.toNat == p.fir.cx.toNat) = some w := by
    rw [waits_waitsMore, List.find?_append, hfirst]
    rfl
  have hneed' : changeNeeds (waitsMore s c (changeWait p)) w.pend = some c := (changeNeeds_modHeap ..).trans hneed
  have hfull' : ¬ heapUsed ((waitsMore s c (changeWait p)).crs c).heap p.fir.cx.toNat <
      (waitsMore s c (changeWait p)).freeShare p.fir.cx.toNat c 6 := by
    rw [waitsMore, heap_modHeap]
    exact Nat.not_lt.mpr hfull
  have hheld' : ((waitsMore s c (changeWait p)).crs c).heap.held = true := by rw [waitsMore, heap_modHeap]; exact hheld
  simp only [serveHeap, hfirst', hchange, hneed', hheld', if_true, ne_eq, not_true_eq_false, if_false, if_neg hfull']
end

/-- With nothing of a context waiting anywhere, nothing is served. -/
theorem serveWaiting_none {s : State} {cx : BitVec 12} (h : ∀ e ∈ s.courses, ∀ w ∈ e.2.heap.waits, w.cx ≠ cx) :
    serveWaiting s cx.toNat = s := by
  have hnil : (s.courses.filter fun e => e.2.heap.waits.any fun w => w.cx.toNat == cx.toNat) = [] :=
    List.filter_eq_nil_iff.mpr fun e he => by simpa [← BitVec.toNat_inj] using h e he
  rw [serveWaiting, hnil]
  rfl

/-! ### The commit of each change (R303, R305) -/

section
variable {s : State} {p : Pend} {k : TaskCell} (hp : firingP p.fir = false)
  (hk : s.taskCell p.fir.cx.toNat (changeTask p).2 = some k) (hw : waitingAt s p.fir.cx.toNat (changeTask p).2 = none)
include hp hk hw

/-- GAIN takes a value, RESID moves, and what waits is served. -/
def gainMoved (s : State) (cx t new : Nat) (k : TaskCell) : State :=
  serveWaiting ((addResid s cx new k.gain).putTask cx t { k with gain := new }) cx

theorem commitChange_running (hst : k.st = 2) (hop : p.op = 0xD1 ∨ p.op = 0xD7) : commitChange s p =
    gainMoved (setFlags s p.fir.cx.toNat (changeGain p k).2) p.fir.cx.toNat (changeTask p).2 (changeGain p k).1 k := by
  have hfree : changeFrees p k = false := by rw [changeFrees, if_neg (by omega), hst]; rfl
  have hneed : changeNeeds s p = none := by rw [changeNeeds_eq rfl hk (by omega), hfree]; rfl
  rw [commitChange_now hp hw hneed, applyTask_sets rfl hk hop, setGain_running hst]
  rfl

theorem commitChange_notRunning (hst : k.st ≠ 2) (hop : p.op = 0xD3) :
    commitChange s p = serveWaiting (softAt s p.fir kPROT 16 id) p.fir.cx.toNat := by
  have hfree : changeFrees p k = false := by rw [changeFrees, if_pos hop]; simpa using hst
  have hneed : changeNeeds s p = none := by rw [changeNeeds_eq rfl hk (by omega), hfree]; rfl
  rw [commitChange_now hp hw hneed, applyTask_notRunning rfl hk hop hst]

theorem commitChange_inactive (hst : k.st = 0 ∨ k.st = 3) (hop : p.op = 0xD7)
    (hact : s.active p.fir.cx.toNat (changeGain p k).1 = false) :
    commitChange s p = gainMoved s p.fir.cx.toNat (changeTask p).2 (changeGain p k).1 k := by
  have hneed : changeNeeds s p = none := by rw [changeNeeds_eq rfl hk (by omega), hact]; simp
  have hflags : setFlags s p.fir.cx.toNat (changeGain p k).2 = s := by simp [setFlags, changeGain, hop]
  rw [commitChange_now hp hw hneed, applyTask_sets rfl hk (.inr hop), setGain_free hst, hflags, hact]
  rfl

theorem commitChange_done (hst : k.st = 2) (hop : p.op = 0xD3) (hact : s.active p.fir.cx.toNat k.gain = false) :
    commitChange s p = serveWaiting ((stopRun (addResid s p.fir.cx.toNat 0 k.taken) k.crs p.fir.cx.toNat (changeTask p).2).putTask
      p.fir.cx.toNat (changeTask p).2 { k with taken := 0, st := 3 }) p.fir.cx.toNat := by
  have hgain : (changeGain p k).1 = k.gain := by simp [changeGain, hop]
  have hneed : changeNeeds s p = none := by rw [changeNeeds_eq rfl hk (by omega), hgain, hact]; simp
  rw [commitChange_now hp hw hneed, applyTask_done rfl hk hop hst, hact]
  rfl

section
variable (hend : heapEnded s p.fir.cx.toNat = false)
  (hroom : heapUsed (s.crs k.crs).heap p.fir.cx.toNat < s.freeShare p.fir.cx.toNat k.crs 6) (hnone : NoneWaits s p.fir.cx k.crs)
include hend hroom hnone

/-- GAIN.SET of a task that is neither queued nor running to an active gain queues it. -/
theorem commitChange_queues (hst : k.st = 0 ∨ k.st = 3) (hop : p.op = 0xD7)
    (hact : s.active p.fir.cx.toNat (changeGain p k).1 = true) : commitChange s p =
      enqueueTask ((addResid (modHeap s k.crs id) p.fir.cx.toNat (changeGain p k).1 k.gain).putTask p.fir.cx.toNat (changeTask p).2
        { k with gain := (changeGain p k).1, st := 1, hr := true }) k.crs p.fir.cx.toNat (changeTask p).2 (changeGain p k).1 := by
  have hfree : changeFrees p k = true := by
    rw [changeFrees, if_neg (by omega)]
    rcases hst with h | h <;> rw [h] <;> rfl
  have hneed : changeNeeds s p = some k.crs := by
    rw [changeNeeds_eq rfl hk (by omega), hfree, hact, hend, if_pos (by simpa using by omega)]
  have hflags : ∀ u, setFlags u p.fir.cx.toNat (changeGain p k).2 = u := fun u => by simp [setFlags, changeGain, hop]
  have hterms := addResid_keepsTerms (modHeap s k.crs id) p.fir.cx.toNat (changeGain p k).1 k.gain
  have happly : applyTask (modHeap s k.crs id) p = _ :=
    (applyTask_sets rfl ((taskCell_modHeap ..).trans hk) (.inr hop)).trans <| by
      rw [hflags, setGain_free hst, if_pos (show (modHeap s k.crs id).active p.fir.cx.toNat (changeGain p k).1 = true from hact),
        queueTask_room (hterms.ended.trans hend) (by rw [hterms.share]; exact Nat.ne_of_gt (Nat.zero_lt_of_lt hroom))]
  refine (commitChange_enters hp hw hneed hnone hroom ?_).trans happly
  rw [happly]
  exact (((hnone.modHeap fun _ => rfl).addResid _ _ _).putTask _ _ _).enqueueTask _ _ _

/-- GAIN.DONE of a running task with an active gain queues it again. -/
theorem commitChange_requeues (hst : k.st = 2) (hop : p.op = 0xD3) (hact : s.active p.fir.cx.toNat k.gain = true) :
    commitChange s p = enqueueTask ((stopRun (addResid (modHeap s k.crs id) p.fir.cx.toNat 0 k.taken) k.crs p.fir.cx.toNat
      (changeTask p).2).putTask p.fir.cx.toNat (changeTask p).2 { k with taken := 0, st := 1, hr := true }) k.crs p.fir.cx.toNat
      (changeTask p).2 k.gain := by
  have hfree : changeFrees p k = true := by rw [changeFrees, if_pos hop, hst]; rfl
  have hgain : (changeGain p k).1 = k.gain := by simp [changeGain, hop]
  have hneed : changeNeeds s p = some k.crs := by
    rw [changeNeeds_eq rfl hk (by omega), hfree, hgain, hact, hend, if_pos (by simpa using by omega)]
  have hterms := addResid_keepsTerms (modHeap s k.crs id) p.fir.cx.toNat 0 k.taken
  have happly : applyTask (modHeap s k.crs id) p = _ :=
    (applyTask_done rfl ((taskCell_modHeap ..).trans hk) hop hst).trans <| by
      rw [if_pos (show (modHeap s k.crs id).active p.fir.cx.toNat k.gain = true from hact),
        queueTask_room (s := stopRun _ _ _ _) (k := { k with taken := 0 }) (hterms.ended.trans hend)
          ((hterms.share ..).trans_ne (Nat.ne_of_gt (Nat.zero_lt_of_lt hroom)))]
  refine (commitChange_enters hp hw hneed hnone hroom ?_).trans happly
  rw [happly]
  exact ((((hnone.modHeap fun _ => rfl).addResid _ _ _).stopRun _ _).putTask _ _ _).enqueueTask _ _ _
end
end

end Sys2Proof.Machine
end

section
/-! PROOF. SPAWN at its commit, and the pop of a heap (R302, R304, R369, R371). -/

namespace Sys2Proof.Machine

/-! ### SPAWN at its commit (R302, R390) -/

section
variable {s : State} {p : Pend} {k : TaskCell}

theorem commitSpawn_poisoned (hp : firingP p.fir = true) : commitSpawn s p = poisonRec s p.fir 6 := by
  simp only [commitSpawn, hp, if_true]

/-- The gain that a SPAWN gives its task. -/
def spawnGain (p : Pend) : Nat := (p.fir.b.getD (plain 0)).word % 2 ^ 32

/-- A spawned task's cell is written, and RESID has moved. -/
def spawnCell (s : State) (p : Pend) (k : TaskCell) : State :=
  (addResid s p.fir.cx.toNat (spawnGain p) k.gain).putTask p.fir.cx.toNat (changeTask p).2
    { k with gain := spawnGain p, crs := p.fir.course.toNat, st := 1, hr := true }

/-- A reserved entry is filled with a spawned task. -/
def fillEntry (s : State) (p : Pend) (e : HeapEntry) : State :=
  modHeap s p.fir.course.toNat fun h => { h with entries := h.entries.erase e ++
    [{ rv := false, cx := p.fir.cx, key := BitVec.ofNat 32 (spawnGain p), task := BitVec.ofNat 32 (changeTask p).2 }] }

variable (hp : firingP p.fir = false) (hk : s.taskCell p.fir.cx.toNat (changeTask p).2 = some k)
  (hw : waitingAt s p.fir.cx.toNat (changeTask p).2 = none)
include hp hk hw

/-- SPAWN of a running task sets its gain and returns the entry. -/
theorem commitSpawn_running (hst : k.st = 2) : commitSpawn s p =
    unreserve (gainMoved s p.fir.cx.toNat (changeTask p).2 (spawnGain p) k) p.fir.cx.toNat p.fir.course.toNat := by
  have hrun : (gainNan (spawnGain p) || k.st == 1 || k.st == 2) = true := by rw [hst]; simp
  have hset : ¬ (gainNan (spawnGain p) && !(k.st == 1) && !(k.st == 2)) = true := by rw [hst]; simp
  simp only [changeTask] at hk hw
  simp only [spawnGain] at hrun hset
  simp only [commitSpawn, hp, hk, hw, Bool.false_eq_true, if_false, if_pos hrun, if_neg hset]
  rw [setGain_running hst]
  rfl

/-- SPAWN of a task that is neither queued nor running fills the entry that it reserved. -/
theorem commitSpawn_fills {e : HeapEntry} (hst : k.st = 0 ∨ k.st = 3) (hnan : f32.isNan (spawnGain p) = false)
    (hend : heapEnded s p.fir.cx.toNat = false) (hnone : NoneWaits s p.fir.cx p.fir.course.toNat)
    (he : ((s.crs p.fir.course.toNat).heap.entries.find? fun e => e.rv && e.cx.toNat == p.fir.cx.toNat) = some e) :
    commitSpawn s p = fillEntry (spawnCell s p k) p e := by
  have hrun : ¬ (gainNan (spawnGain p) || k.st == 1 || k.st == 2) = true := by
    rw [gainNan, hnan]
    rcases hst with h | h <;> rw [h] <;> decide
  have hend' : ¬ heapEnded (addResid s p.fir.cx.toNat (spawnGain p) k.gain) p.fir.cx.toNat = true := by
    rw [(addResid_keepsTerms ..).ended, hend]; decide
  have he' : ((((spawnCell s p k).crs p.fir.course.toNat).heap.entries.find? fun e => e.rv && e.cx.toNat == p.fir.cx.toNat)) = some e := by
    rw [State.crs, spawnCell, putTask_courses, (addResid_keepsTerms ..).courses]
    exact he
  have hnone' : NoneWaits (fillEntry (spawnCell s p k) p e) p.fir.cx p.fir.course.toNat :=
    ((hnone.addResid _ _ _).putTask _ _ _).modHeap fun _ => rfl
  refine Eq.trans ?_ (serveHeap_none hnone' (((fillEntry (spawnCell s p k) p e).crs p.fir.course.toNat).heap.waits.length + 1))
  simp only [changeTask] at hk hw
  simp only [spawnCell, spawnGain, changeTask] at hrun hend' he'
  simp only [commitSpawn, hp, hk, hw, Bool.false_eq_true, if_false, if_neg hrun, if_neg hend', he']
  rfl
end

/-! ### A unit of the share that is freed (R369), and the end test (R371) -/

/-- An empty ring has no records. -/
theorem heapRecords_empty {s : State} {cx c : Nat} (h : (s.ring cx 1 c).head = (s.ring cx 1 c).tail) : s.heapRecords cx c = [] := by
  have hzero : ringRecords (s.ring cx 1 c) = [] := by simp [ringRecords, h]
  rw [State.heapRecords, hzero, List.filterMap_nil]

theorem freedUnit_idle {s : State} {cx : BitVec 12} {c : Nat} (hring : (s.ring cx.toNat 1 c).head = (s.ring cx.toNat 1 c).tail)
    (hnone : NoneWaits s cx c) : freedUnit s cx.toNat c = s := by
  rw [freedUnit, heapRecords_empty hring]
  exact serveHeap_none hnone _

/-- A context with a task running on a course has not ended. -/
theorem endTest_running {s : State} {cx : BitVec 12} {task : BitVec 32} {c : Nat} (hc : c < 16)
    (h : (cx, task) ∈ (s.crs c).heap.running) :
    endTest s cx.toNat = s := by
  have hall : ((s.crs c).heap.running.all fun r => r.1.toNat != cx.toNat) = false :=
    List.all_eq_false.mpr ⟨_, h, by simp⟩
  have htasks : noTasks s cx.toNat = false :=
    List.all_eq_false.mpr ⟨c, List.mem_range.mpr hc, by simp [hall]⟩
  unfold endTest
  split
  · rfl
  · simp [htasks]

/-! ### The pop (R304) -/

theorem mkTok_sideband {s u : State} (h : u.sideband = s.sideband) (g : Firing) (e : Bool) (stack course ft it : Nat) (d : BitVec 21)
    (pl : Bool) (v : Val) : mkTok u g e stack course ft it d pl v = mkTok s g e stack course ft it d pl v := by
  rw [mkTok, h, mkTok]

/-- The IT of a context's next pop on a course: the low bits of its number of pops. -/
def popIt (s : State) (c cx : Nat) : BitVec 16 := ((lkp (s.crs c).heap.pops cx).getD 0).setWidth 16

/-- An entry leaves the heap, its task runs, the pop counts, and the frame takes its IT. -/
def popEntry (s : State) (c b : Nat) (t : TakeLatch) (ft : BitVec 12) (x : HeapEntry) : State :=
  (modHeap s c fun h => { h with
    entries := h.entries.erase x, pops := put h.pops t.cx.toNat ((lkp (s.crs c).heap.pops t.cx.toNat).getD 0 + 1),
    running := h.running ++ [(t.cx, x.task)], popped := s.cycles + 1 }).modFrame c b ft.toNat fun f => { f with it := popIt s c t.cx.toNat }

/-- The gain of a task that begins to run is TAKEN (R300, R304). -/
def takeGain (s : State) (cx task : Nat) : State :=
  match s.taskCell cx task with
  | some k => s.putTask cx task { k with taken := k.gain, gain := 0, st := 2, hr := false }
  | none => s

/-- The ARG of a task, 0 for one without a cell. -/
def taskArg (s : State) (cx task : Nat) : Nat := ((s.taskCell cx task).map TaskCell.arg).getD 0

/-- The token of a pop on a course for one destination. -/
def popToken (s : State) (g : Firing) (c : Nat) (d : BitVec 21) (v : Nat) : List Transit :=
  if d = 0x1FFFFF#21 then []
  else [mkTok s g false s.sideband.stackNo.toNat c g.ft.toNat g.it.toNat d false (BitVec.ofNat 512 v, false)]

theorem takeGain_keeps (s : State) (cx task : Nat) :
    KeepsHeaps s (takeGain s cx task) ∧ KeepsRoom s (takeGain s cx task) ∧ KeepsClock s (takeGain s cx task) := by
  unfold takeGain
  split
  · exact putTask_keeps ..
  · exact ⟨.refl s, .refl s, rfl, rfl⟩

/-- The latch that a pop of a course serves, as a firing. -/
def popFiring (c el node : Nat) (t : TakeLatch) (ft : BitVec 12) (it : BitVec 16) : Firing :=
  { Firing.none with course := BitVec.ofNat 4 c, unit := BitVec.ofNat 13 el, node := BitVec.ofNat 6 node, cx := t.cx, ft := ft, it := it }

theorem popFiring_course (c : BitVec 4) (el node : Nat) (t : TakeLatch) (ft : BitVec 12) (it : BitVec 16) :
    popFiring c.toNat el node t ft it =
      { Firing.none with course := c, unit := BitVec.ofNat 13 el, node := BitVec.ofNat 6 node, cx := t.cx, ft := ft, it := it } := by
  simp only [popFiring, BitVec.ofNat_toNat, BitVec.setWidth_eq]

/-- The two tokens of a pop are on their way, and the latch holds no frame. -/
def popSends (u : State) (c el : Nat) (t : TakeLatch) (key : Nat) (toks : List Transit) : State :=
  ({ u with transit := toks } : State).modElem c el fun y => { y with takes := put y.takes key { t with frame := none } }

/-- The state that a pop leaves before the freed unit of the share is given on. -/
def popSent (s : State) (c el node : Nat) (t : TakeLatch) (ft : BitVec 12) (x : HeapEntry) : State :=
  let g := popFiring c el node t ft (popIt s c t.cx.toNat)
  let r := recFields (s.record t.cx.toNat c el node)
  let popped := popEntry s c g.bay t ft x
  let u := takeGain popped t.cx.toNat x.task.toNat
  popSends u c el t g.takeKey
    (u.transit ++ popToken u g c r.d0 x.task.toNat ++ popToken u g c r.d1 (taskArg popped t.cx.toNat x.task.toNat))

theorem popEntry_keeps (s : State) (c b : Nat) (t : TakeLatch) (ft : BitVec 12) (x : HeapEntry) :
    (popEntry s c b t ft x).transit = s.transit ∧ (popEntry s c b t ft x).sideband = s.sideband ∧
      (popEntry s c b t ft x).ctxs = s.ctxs := by
  simp [popEntry, modHeap]

theorem heap_popEntry (s : State) (c b : Nat) (t : TakeLatch) (ft : BitVec 12) (x : HeapEntry) :
    ((popEntry s c b t ft x).crs c).heap.waits = (s.crs c).heap.waits ∧
      ((popEntry s c b t ft x).crs c).heap.running = (s.crs c).heap.running ++ [(t.cx, x.task)] := by
  unfold popEntry
  rw [show ∀ u : State, (u.modFrame c b ft.toNat fun f => { f with it := popIt s c t.cx.toNat }).crs c = u.crs c from
    fun u => by rw [State.crs, State.modFrame_courses, State.crs], heap_modHeap]
  exact ⟨rfl, rfl⟩

/-- The tokens of a pop carry the side band of the stack, which the pop leaves as it was. -/
theorem popSent_eq {s u : State} {c el node arg : Nat} {t : TakeLatch} {ft : BitVec 12} {x : HeapEntry} {g : Firing}
    (hg : popFiring c el node t ft (popIt s c t.cx.toNat) = g)
    (hu : takeGain (popEntry s c g.bay t ft x) t.cx.toNat x.task.toNat = u)
    (harg : taskArg (popEntry s c g.bay t ft x) t.cx.toNat x.task.toNat = arg) :
    let r := recFields (s.record t.cx.toNat c el node)
    popSent s c el node t ft x =
      popSends u c el t g.takeKey (s.transit ++ popToken s g c r.d0 x.task.toNat ++ popToken s g c r.d1 arg) := by
  intro r
  subst hg hu harg
  generalize hg : popFiring c el node t ft (popIt s c t.cx.toNat) = g
  obtain ⟨htransit, hside, -⟩ := popEntry_keeps s c g.bay t ft x
  obtain ⟨-, hroom, -, hside'⟩ := takeGain_keeps (popEntry s c g.bay t ft x) t.cx.toNat x.task.toNat
  have htok : ∀ d v, popToken (takeGain (popEntry s c g.bay t ft x) t.cx.toNat x.task.toNat) g c d v = popToken s g c d v := fun d v => by
    rw [popToken, hside', hside, mkTok_sideband (hside'.trans hside), popToken]
  rw [popSent, hg, ← htok, ← htok, ← htransit, ← hroom.transit]

section
variable {e : EvArgs} {s : State} {el node : Nat} {t : TakeLatch} {ft : BitVec 12} {x : HeapEntry}

theorem execHeapPop_pops (h : nextTake s e.course.toNat = some (el, node, t, ft, x)) :
    let g := popFiring e.course.toNat el node t 0 0
    let r := recFields (s.record t.cx.toNat e.course.toNat el node)
    let freed := endTest (freedUnit (popSent s e.course.toNat el node t ft x) t.cx.toNat e.course.toNat) t.cx.toNat
    exec (.heapPop e) s =
      .next (if (lkp (freed.elem e.course.toNat el).takes g.takeKey).isSome then askTake freed (pendOf 0xD2 r g) else freed) := by
  intro g r freed
  show execHeapPop e s = _
  unfold execHeapPop
  extract_lets c
  rw [show nextTake s c = _ from h]
  rfl

/-- The latch that a pop served is still there. -/
theorem latch_popSends (u : State) (c n : Nat) (t : TakeLatch) (key : Nat) (toks : List Transit) :
    (lkp ((popSends u c n t key toks).elem c n).takes key).isSome = true := by
  rw [popSends, State.modElem, State.elem_setElem, lkp_put_same]
  rfl

/-- What a pop leaves of the course's heap and of the context's ring: those that wait, the ring as it was, and the task runs. -/
theorem popSent_leaves (s : State) (c n node : Nat) (t : TakeLatch) (ft : BitVec 12) (x : HeapEntry) :
    (∀ d, (popSent s c n node t ft x).ring t.cx.toNat 1 d = s.ring t.cx.toNat 1 d) ∧
      ((popSent s c n node t ft x).crs c).heap.waits = (s.crs c).heap.waits ∧
      (t.cx, x.task) ∈ ((popSent s c n node t ft x).crs c).heap.running := by
  have hpopped := popEntry_keeps s c (popFiring c n node t ft (popIt s c t.cx.toNat)).bay t ft x
  have hheap := heap_popEntry s c (popFiring c n node t ft (popIt s c t.cx.toNat)).bay t ft x
  have htake := (takeGain_keeps (popEntry s c (popFiring c n node t ft (popIt s c t.cx.toNat)).bay t ft x) t.cx.toNat x.task.toNat).1
  obtain ⟨-, -, hctxs⟩ := hpopped
  obtain ⟨hwaits, hrunning⟩ := hheap
  have hctx : ((popSent s c n node t ft x).ctx t.cx.toNat).rings = (s.ctx t.cx.toNat).rings :=
    (htake.rings _).trans (by rw [State.ctx, hctxs, State.ctx])
  have hcrs : (popSent s c n node t ft x).crs c = (popEntry s c (popFiring c n node t ft (popIt s c t.cx.toNat)).bay t ft x).crs c := by
    rw [State.crs, popSent, popSends, State.modElem_courses, htake.courses, State.crs]
  refine ⟨fun d => by rw [State.ring, hctx, State.ring], by rw [hcrs, hwaits], ?_⟩
  rw [hcrs, hrunning]
  exact List.mem_append_right _ (List.mem_singleton.mpr rfl)

/-- With no record in the ring and nothing waiting, the freed unit goes to nobody, the run goes on, and the latch asks again. -/
theorem execHeapPop_idle (h : nextTake s e.course.toNat = some (el, node, t, ft, x))
    (hring : (s.ring t.cx.toNat 1 e.course.toNat).head = (s.ring t.cx.toNat 1 e.course.toNat).tail)
    (hnone : NoneWaits s t.cx e.course.toNat) :
    exec (.heapPop e) s = .next (askTake (popSent s e.course.toNat el node t ft x)
      (pendOf 0xD2 (recFields (s.record t.cx.toNat e.course.toNat el node)) (popFiring e.course.toNat el node t 0 0))) := by
  obtain ⟨hrings, hwaits, hrunning⟩ := popSent_leaves s e.course.toNat el node t ft x
  have hfreed : endTest (freedUnit (popSent s e.course.toNat el node t ft x) t.cx.toNat e.course.toNat) t.cx.toNat =
      popSent s e.course.toNat el node t ft x := by
    rw [freedUnit_idle (by rw [hrings, hring]) (hnone.of_heap hwaits), endTest_running e.course.isLt hrunning]
  rw [execHeapPop_pops h, hfreed]
  exact congrArg Host.Outcome.next (if_pos (latch_popSends ..))

/-- A pop ends as the state that it sends its tokens from requires, with the served latch's key and firing written out. -/
theorem execHeapPop_of_sent {sent : State} (hsent : popSent s e.course.toNat el node t ft x = sent)
    (h : nextTake s e.course.toNat = some (el, node, t, ft, x)) :
    let r := recFields (s.record t.cx.toNat e.course.toNat el node)
    let g := { Firing.none with course := e.course, unit := BitVec.ofNat 13 el, node := BitVec.ofNat 6 node, cx := t.cx }
    let freed := endTest (freedUnit sent t.cx.toNat e.course.toNat) t.cx.toNat
    (exec (.heapPop e) s = .next (if (lkp (freed.elem e.course.toNat el).takes (t.cx.toNat * 64 + node % 64)).isSome
      then askTake freed (pendOf 0xD2 r g) else freed)) ∧
    ((s.ring t.cx.toNat 1 e.course.toNat).head = (s.ring t.cx.toNat 1 e.course.toNat).tail → NoneWaits s t.cx e.course.toNat →
      exec (.heapPop e) s = .next (askTake sent (pendOf 0xD2 r g))) := by
  intro r g freed
  have hg : popFiring e.course.toNat el node t 0 0 = g := popFiring_course ..
  refine ⟨?_, fun hring hnone => ?_⟩
  · rw [execHeapPop_pops h, hg, hsent]
    rfl
  · rw [execHeapPop_idle h hring hnone, hg, hsent]
end

/-! ### The obligation -/

section
variable {s : State} {cx task : Nat} {k : TaskCell}

theorem takeGain_some (h : s.taskCell cx task = some k) :
    takeGain s cx task = s.putTask cx task { k with taken := k.gain, gain := 0, st := 2, hr := false } := by
  simp only [takeGain, h]

theorem takeGain_none (h : s.taskCell cx task = none) : takeGain s cx task = s := by
  simp only [takeGain, h]

theorem taskArg_some (h : s.taskCell cx task = some k) : taskArg s cx task = k.arg := by
  rw [taskArg, h]
  rfl

theorem taskArg_none (h : s.taskCell cx task = none) : taskArg s cx task = 0 := by
  rw [taskArg, h]
  rfl
end

section
variable {s : State} {p : Pend} {k : TaskCell}

theorem changeGain_add (h : p.op = 0xD1) : changeGain p k =
    ((fAdd f32 { mode := 0 } k.gain (spawnGain p)).code, (fAdd f32 { mode := 0 } k.gain (spawnGain p)).flags) := by
  simp only [changeGain, h]
  rfl

theorem changeGain_set (h : p.op = 0xD7) : changeGain p k = (spawnGain p, 0) := by
  simp [changeGain, h, spawnGain]

theorem commitTol_poisoned {g : Firing} (h : firingP g = true) : commitTol s g = poisonRec s g 6 := by
  simp only [commitTol, h, if_true]

theorem commitTol_writes {g : Firing} (h : firingP g = false) :
    commitTol s g = s.modCtx g.cx.toNat fun x => { x with tol := (g.b.getD (plain 0)).low 64 } := by
  simp only [commitTol, h, Bool.false_eq_true, if_false, Opnd.ofNat_word]
end

/-- Settles O37: each change and SPAWN at its commit, and the pop of a heap's top entry. -/
theorem heapChangesAndPops : Obligations.HeapChangesAndPops := by
  unfold Obligations.HeapChangesAndPops
  refine ⟨fun s p k => ?_, fun e s el node t ft x => ?_⟩
  · intro g cx t b q c moved stopped queued
    refine ⟨fun hp => ⟨commitChange_poisoned hp, commitSpawn_poisoned hp, commitTol_poisoned hp⟩, commitTol_writes,
      fun hp hk hw => ?_, fun d w hp hw hfirst hchange hneed hfull hheld => commitChange_stays hp hw hfirst hchange hneed hfull hheld,
      fun u => serveWaiting_none, fun new old h _ _ => addResid_resid h new old⟩
    refine ⟨fun hst hop => ?add, fun hst hop => ?set, commitChange_notRunning hp hk hw, fun hst hact hop => ?inactive,
      fun hst hact hop => commitChange_done hp hk hw hst hop hact, fun hend hroom hnone => ⟨fun hst hact hop => ?queues,
      fun hst hact hop => commitChange_requeues hp hk hw hend hroom hnone hst hop hact⟩, commitSpawn_running hp hk hw,
      fun e hst hnan hend hnone he => commitSpawn_fills hp hk hw hst hnan hend hnone he⟩
    case add =>
      rw [commitChange_running hp hk hw hst (.inl hop), changeGain_add hop]
      rfl
    case set =>
      rw [commitChange_running hp hk hw hst (.inr hop), changeGain_set hop]
      rfl
    case inactive =>
      rw [commitChange_inactive hp hk hw hst hop (by rw [changeGain_set hop]; exact hact), changeGain_set hop]
      rfl
    case queues =>
      rw [commitChange_queues hp hk hw hend hroom hnone hst hop (by rw [changeGain_set hop]; exact hact), changeGain_set hop]
      rfl
  · intro c cx h pops it r g key heap popped tok
    have hfiring := popFiring_course e.course el node t ft (popIt s c cx)
    cases hcell : popped.taskCell cx x.task.toNat with
    | some k => exact execHeapPop_of_sent (popSent_eq hfiring (takeGain_some hcell) (taskArg_some hcell))
    | none => exact execHeapPop_of_sent (popSent_eq hfiring (takeGain_none hcell) (taskArg_none hcell))

end Sys2Proof.Machine
end

section
/-! PROOF. The host's window, its sideband and its link (R437, R438, R442, R443). -/

namespace Sys2Proof.Machine

/-! ### Window writes (R437, R443) -/

/-- What every step of a fold keeps, the fold keeps. -/
theorem foldl_keeps {α β : Type} (p : State → β) {f : State → α → State} (hf : ∀ s x, p (f s x) = p s) (l : List α) (s : State) :
    p (l.foldl f s) = p s := by
  induction l generalizing s with
  | nil => rfl
  | cons x l ih => exact (ih _).trans (hf s x)

theorem touchLine_windowIn (s : State) (a : Nat) : (touchLine s a).windowIn = s.windowIn := by
  unfold touchLine bumpGen
  split
  · rfl
  · simp only []
    split <;> rfl

theorem resetShadow_windowIn (hit : Nat → Bool) (s : State) (line : Nat) : (resetShadow hit s line).windowIn = s.windowIn := by
  unfold resetShadow
  split <;> rfl

theorem writeBytes_windowIn (s : State) (l : List (Nat × Byte)) : (writeBytes s l).windowIn = s.windowIn := by
  have hdrop : ∀ t : State, (dropStruct t).windowIn = t.windowIn := fun t => by unfold dropStruct; split <;> rfl
  unfold writeBytes
  extract_lets lines hit edits t u v
  have ht : t.windowIn = s.windowIn :=
    (foldl_keeps State.windowIn (fun s e => touchLine_windowIn s _) _ _).trans
      (foldl_keeps State.windowIn (resetShadow_windowIn hit) lines s)
  have hv : v.windowIn = s.windowIn := (foldl_keeps State.windowIn (resetShadow_windowIn hit) lines u).trans ht
  split
  · exact (hdrop v).trans hv
  · exact hv

/-- A window write that the window carries is performed byte by byte in far memory. -/
theorem windowPut_ok (s : State) {w : Nat × List Byte} (h : windowOk w.1 w.2.length = true) :
    windowPut s w = writeBytes s ((List.range w.2.length).map (fun i => farBase + w.1 + i) |>.zip w.2) := if_pos h

theorem windowPut_windowIn (s : State) (w : Nat × List Byte) : (windowPut s w).windowIn = s.windowIn := by
  unfold windowPut
  split
  · exact writeBytes_windowIn ..
  · rfl

theorem windowPut_transit (s : State) (w : Nat × List Byte) : (windowPut s w).transit = s.transit := by
  unfold windowPut
  split
  · exact (writeBytes_keepsRoom ..).transit
  · rfl

theorem execHostWindowWrite_oldest (e : EvArgs) {s : State} {w : Nat × List Byte} {l : List (Nat × List Byte)}
    (hw : s.windowIn = w :: l) (hok : windowOk w.1 w.2.length = true) : exec (.hostWindowWrite e) s =
      .next (writeBytes { s with windowIn := l } ((List.range w.2.length).map (fun i => farBase + w.1 + i) |>.zip w.2)) := by
  show execHostWindowWrite e s = _
  simp only [execHostWindowWrite, hw, windowPut_ok _ hok]

/-- The state in which WFENCE performs the window writes: none is left, and the read has returned 0. -/
def State.fenced (s : State) : State := { s with windowIn := [], sidebandOut := s.sidebandOut ++ [0#64] }

theorem execWfence_eq (s : State) : exec .wfence s = .next (s.windowIn.foldl windowPut s.fenced) := rfl

theorem execWfence_performs (s : State) : ∃ u, exec .wfence s = .next u ∧ u.windowIn = [] ∧ u.transit = s.transit ∧
    ∀ w, s.windowIn = [w] → windowOk w.1 w.2.length = true →
      u = writeBytes s.fenced ((List.range w.2.length).map (fun i => farBase + w.1 + i) |>.zip w.2) := by
  refine ⟨_, execWfence_eq s, foldl_keeps State.windowIn windowPut_windowIn .., foldl_keeps State.transit windowPut_transit ..,
    fun w hw hok => ?_⟩
  rw [hw, List.foldl_cons, List.foldl_nil, windowPut_ok _ hok]

/-! ### The sideband (R437) -/

theorem sidebandWord_status (s : State) : (sidebandWord s 0x00).toNat =
    s.sideband.phase.toNat + s.sideband.ready.toNat * 16 + s.sideband.frozen.toNat * 32 := by
  have hphase := s.sideband.phase.isLt
  have hready := s.sideband.ready.toNat_le
  have hfrozen := s.sideband.frozen.toNat_le
  simp only [sidebandWord, BitVec.toNat_ofNat]
  omega

theorem sidebandWord_stackNo (s : State) : (sidebandWord s 0x10).toNat = s.sideband.stackNo.toNat := by
  have hstack := s.sideband.stackNo.isLt
  simp only [sidebandWord, BitVec.toNat_ofNat]
  omega

/-! ### A message on the link (R438) -/

/-- The first field of a header. -/
theorem fld_first (n x : Nat) (l : List Byte) : fld (leBytes n x ++ l) 0 n = x % 256 ^ n := by
  rw [fld, slice, List.drop_zero, List.take_left' (leBytes_length n x), leNat_leBytes]

/-- A field that stands behind another one. -/
theorem fld_behind {k o : Nat} (n x : Nat) (l : List Byte) (h : k ≤ o) : fld (leBytes k x ++ l) o n = fld l (o - k) n := by
  rw [fld, slice, List.drop_append, List.drop_of_length_le (by rw [leBytes_length]; exact h), leBytes_length, List.nil_append, fld,
    slice]

/-- What stands behind fields of a header. -/
theorem slice_behind {k o : Nat} (n x : Nat) (l : List Byte) (h : k ≤ o) : slice (leBytes k x ++ l) o n = slice l (o - k) n := by
  rw [slice, List.drop_append, List.drop_of_length_le (by rw [leBytes_length]; exact h), leBytes_length, List.nil_append, slice]

theorem Msg.ofBytes_bytes {m : Msg} (h : m.payload.length < 2 ^ 32) : Msg.ofBytes m.bytes = m := by
  have hlen : m.len % 256 ^ 4 = m.payload.length := Nat.mod_eq_of_lt h
  have hfield : ∀ {n} (x : BitVec (8 * n)), x.toNat % 256 ^ n = x.toNat := fun {n} x =>
    Nat.mod_eq_of_lt (by rw [show 256 = 2 ^ 8 from rfl, ← pow_mul]; exact x.isLt)
  simp only [Msg.ofBytes, Msg.bytes, List.append_assoc, fld_behind, slice_behind, Nat.reduceLeDiff, Nat.reduceSub, fld_first, hlen]
  rw [hfield (n := 1) m.opc, hfield (n := 1) m.flags, hfield (n := 2) m.tag, hfield (n := 2) m.cx, hfield (n := 2) m.status,
    hfield (n := 4) m.rsv, hfield (n := 8) m.p0, hfield (n := 8) m.p1]
  simp only [BitVec.ofNat_toNat, BitVec.setWidth_eq, slice, List.drop_zero, List.take_length]

theorem Msg.malformed_of {m : Msg} (h : m.payload.length % 8 ≠ 0 ∨ m.rsv ≠ 0 ∨ m.status ≠ 0 ∨ 256 ≤ m.tag.toNat) :
    m.malformed = true := by
  rcases h with h | h | h | h
  · simp [Msg.malformed, Msg.len, h]
  · simp [Msg.malformed, show ¬ m.rsv = 0#32 from h]
  · simp [Msg.malformed, show ¬ m.status = 0#16 from h]
  · simp [Msg.malformed, show 255 < m.tag.toNat from h]

/-! ### Signals and the link itself (R293, R442) -/

/-- The oldest SIG of an endpoint leaves the queue and is sent. -/
theorem execSigDeliveryAck_oldest (e : EvArgs) {s : State} {x : SigMsg} (hup : s.linkUp = true)
    (hx : s.sigs.find? (fun y => y.ep == e.k.toNat) = some x) :
    exec (.sigDeliveryAck e) s = .next (hostSend { s with sigs := s.sigs.erase x } 0x81 x.cx.toNat x.ep x.val.toNat) := by
  show execSigDeliveryAck e s = _
  simp only [execSigDeliveryAck, hup, hx, Bool.not_true, Bool.false_eq_true, if_false]

end Sys2Proof.Machine
end

section
/-! PROOF. What each message of the host does, and its refusals (R439 to R448, R455). -/

namespace Sys2Proof.Machine

/-! ### The message that is taken (R440, R441, R446) -/

/-- The state in which the first message acts: it has left the queue. -/
def State.took (s : State) (rest : List Msg) : State := { s with hostIn := rest }

/-- The words of a message's payload. -/
abbrev Msg.words (m : Msg) : List Nat := wordsOf (m.payload.length / 8) m.payload

theorem telemAct_answers {m : Msg} (hcx : m.cx = 0#16) (hp1 : m.p1 = 0) (hpay : m.payload = []) (ws : State → List Nat) (t : State) :
    telemAct ws t m = respond t m 0 0 0 ((ws t).flatMap (leBytes 8)) := by
  simp [telemAct, hcx, hp1, hpay, stOK]

section
variable {s : State} {m : Msg} {rest : List Msg}

/-- A message that R438 does not allow is refused by the step that takes it. -/
theorem hostEvent_malformed (f : Msg → Bool) (act : State → Msg → State) (hup : s.linkUp = true) (hphase : s.sideband.phase = 7#4)
    (hin : s.hostIn = m :: rest) (htags : (s.hostIn.map Msg.tag).Nodup) (hf : f m = true) (hbad : m.malformed = true) :
    hostEvent s f act = respond (s.took rest) m 1 0 0 [] := by
  unfold hostEvent
  simp [hup, hphase, refuseRepeats_nodup htags, hin, nextMsg, hf, hbad, refuse, stBadMsg, State.took]

/-- While FROZEN is set a message that R446 does not name is refused. -/
theorem hostEvent_frozen (f : Msg → Bool) (act : State → Msg → State) (hup : s.linkUp = true) (hphase : s.sideband.phase = 7#4)
    (hin : s.hostIn = m :: rest) (htags : (s.hostIn.map Msg.tag).Nodup) (hf : f m = true) (hok : m.malformed = false)
    (hfrozen : s.sideband.frozen = true) (hbusy : m.whileFrozen = false) :
    hostEvent s f act = respond (s.took rest) m 8 0 0 [] := by
  unfold hostEvent
  simp [hup, hphase, refuseRepeats_nodup htags, hin, nextMsg, hf, hok, hfrozen, hbusy, refuse, stBusy, State.took]

/-- Of two messages of one tag the second is refused, and the first acts. -/
theorem hostEvent_repeat {x : Msg} (f : Msg → Bool) (act : State → Msg → State) (hup : s.linkUp = true)
    (hphase : s.sideband.phase = 7#4) (hin : s.hostIn = [m, x]) (htag : x.tag = m.tag) (hf : f m = true) (hok : m.malformed = false)
    (hfree : m.whileFrozen = true) : hostEvent s f act = act (respond (s.took []) x 1 0 0 []) m := by
  unfold hostEvent
  simp [hup, hphase, refuseRepeats, splitTags, hin, htag, nextMsg, hf, hok, hfree, refuse, stBadMsg, State.took, respond]

/-- Of two TELEM messages of one tag the second is refused, and the first is answered. -/
theorem execTelemSync_repeat {x : Msg} (hup : s.linkUp = true) (hphase : s.sideband.phase = 7#4) (hin : s.hostIn = [m, x])
    (htag : x.tag = m.tag) (hop : m.opc = 9#8) (hp0 : m.p0 = 4) (hp1 : m.p1 = 0) (hcx : m.cx = 0#16) (hpay : m.payload = [])
    (hok : m.malformed = false) : exec .telemSync s = .next (respond (respond (s.took []) x 1 0 0 []) m 0 0 0
      ([s.telem.syncFlag.toNat, s.telem.master.toNat].flatMap (leBytes 8))) := by
  refine congrArg Host.Outcome.next ((hostEvent_repeat _ _ hup hphase hin htag ?_ hok ?_).trans ?_)
  · simp [opcIs, hop, hp0]
  · simp [Msg.whileFrozen, hop]
  · simp only [hop, hp0, telemAct_answers hcx hp1 hpay]
    rfl

variable (h : msgTaken s m rest)
include h

/-- The message acts in the state that it has left; nothing holds it. -/
theorem hostEvent_acts {f : Msg → Bool} {act : State → Msg → State} {hold : State → Msg → Option State} {u : State}
    (hf : f m = true) (hh : hold s m = none) (hu : act (s.took rest) m = u) :
    (Host.Outcome.next (hostEvent s f act hold) : Host.Outcome State Fault Refusal) = .next u := by
  rw [hostEvent_first h f act hold hf hh, ← hu]
  rfl

/-! ### Contexts (R287, R434, R439) -/

section
variable (hop : m.opc = 1#8) (hcx : m.cx = 0#16) (hp0 : m.p0 = 0) (hp1 : m.p1 = 0) {fs : Nat × Nat × Nat × Nat × Nat}
  (hrec : creationOf (m.words.take 8) = some fs) (hlen : m.words.length = 8 + 2 * fs.2.2.1)
include hop hcx hp0 hp1 hrec hlen

theorem execCtxCreate_creates {n : Nat} {t : State}
    (hnew : createChild (s.took rest) 0 (m.words.take 8) (entriesOf (m.words.drop 8)) = .ok (n, t)) :
    let v := t.modCtx n fun x =>
      { x with runnable := true, quantum := if x.holds.any (fun h => h.kind == 11#4) then x.quantum else 1000000 }
    exec .ctxCreate s = .next (respond { v with created := true } m 0 (ctxWord v n) 0 []) := by
  refine hostEvent_acts h (by simp [opcIs, hop]) rfl ?_
  simp [hrec, hcx, hp0, hp1, hlen, hnew, stOK]

theorem execCtxCreate_refuses {code : Nat}
    (hnew : createChild (s.took rest) 0 (m.words.take 8) (entriesOf (m.words.drop 8)) = .error (kHOLDING, code)) :
    exec .ctxCreate s = .next (respond (s.took rest) m 3 0 0 []) := by
  refine hostEvent_acts h (by simp [opcIs, hop]) rfl ?_
  simp [hrec, hcx, hp0, hp1, hlen, hnew, refuse, stHolding]
end

/-- CTX_DELETE and RESET of a context name one of depth 1. -/
theorem contextMessages_absent (habs : depthOne (s.took rest) m.cx.toNat = false) :
    (m.opc = 2#8 → exec .ctxDelete s = .next (respond (s.took rest) m 2 0 0 [])) ∧
      (m.opc = 10#8 → m.cx ≠ 0#16 → exec .resetContext s = .next (respond (s.took rest) m 2 0 0 [])) := by
  refine ⟨fun hop => hostEvent_acts h (by simp [opcIs, hop]) rfl ?_, fun hop hcx => hostEvent_acts h (by simp [opcIs, hop, hcx]) rfl ?_⟩
  · simp [habs, refuse, stNoContext]
  · simp [habs, refuse, stNoContext]

theorem contextMessages_act (hone : depthOne (s.took rest) m.cx.toNat = true) (hplain : plainMsg m = true) :
    (m.opc = 2#8 → exec .ctxDelete s = .next (respond (deleteCtx (s.took rest) m.cx.toNat) m 0 0 0 [])) ∧
      (m.opc = 10#8 → m.cx ≠ 0#16 → exec .resetContext s = .next (respond (resetCtx (s.took rest) m.cx.toNat) m 0 0 0 [])) := by
  refine ⟨fun hop => hostEvent_acts h (by simp [opcIs, hop]) rfl ?_, fun hop hcx => hostEvent_acts h (by simp [opcIs, hop, hcx]) rfl ?_⟩
  · simp [hone, hplain, stOK]
  · simp [hone, hplain, stOK]

/-! ### Planes and kernels (R114, R354, R439, R440) -/

/-- The bytes of the Thatch that the planes of other numbers take (R4). -/
def State.bytesBeside (s : State) (num : Nat) : Nat := ((s.planes.filter fun x => x.1 != num).map fun x => x.2.bytes).sum

section
variable (hop : m.opc = 3#8) (hcx : m.cx = 0#16) (hp0 : m.p0 ≠ 0) (hlt : m.p0.toNat < 2 ^ 16) (hp1 : m.p1 = 0)
include hop hcx hp0 hlt hp1

/-- A PLANE_PUT under a number of its own is what its object and the Thatch make it. -/
theorem execPlanePut_eq : exec .planePut s = .next (match readObject (s.took rest) m.p0.toNat m.payload with
    | .error st => respond (s.took rest) m st 0 0 []
    | .ok p =>
      if putBreaks (s.took rest) m.p0.toNat p then respond (s.took rest) m 13 0 0 []
      else if 2 ^ 34 < s.bytesBeside m.p0.toNat + p.bytes then
        respond (s.took rest) m 12 0 0 []
      else respond { s.took rest with planes := put s.planes m.p0.toNat p } m 0 m.p0.toNat 0 []) := by
  have hmod : m.p0.toNat % 2 ^ 16 = m.p0.toNat := Nat.mod_eq_of_lt hlt
  have hne : m.p0.toNat ≠ 0 := fun h0 => hp0 (BitVec.eq_of_toNat_eq h0)
  refine hostEvent_acts h (by simp [opcIs, hop]) rfl ?_
  simp only [hmod, hne, hcx, hp1, Nat.not_le.mpr hlt, if_false, bne_self_eq_false, decide_false]
  rfl

theorem execPlanePut_unread {st : Nat} (hobj : readObject (s.took rest) m.p0.toNat m.payload = .error st) :
    exec .planePut s = .next (respond (s.took rest) m st 0 0 []) := by
  rw [execPlanePut_eq h hop hcx hp0 hlt hp1, hobj]

variable {p : Plane} (hobj : readObject (s.took rest) m.p0.toNat m.payload = .ok p)
include hobj

theorem execPlanePut_breaks (hbreak : putBreaks (s.took rest) m.p0.toNat p = true) :
    exec .planePut s = .next (respond (s.took rest) m 13 0 0 []) := by
  rw [execPlanePut_eq h hop hcx hp0 hlt hp1, hobj]
  exact congrArg _ (if_pos hbreak)

variable (hkeep : putBreaks (s.took rest) m.p0.toNat p = false)
include hkeep

theorem execPlanePut_puts (hroom : s.bytesBeside m.p0.toNat + p.bytes ≤ 2 ^ 34) :
    exec .planePut s = .next (respond { s.took rest with planes := put s.planes m.p0.toNat p } m 0 m.p0.toNat 0 []) := by
  rw [execPlanePut_eq h hop hcx hp0 hlt hp1, hobj]
  exact congrArg _ ((if_neg (Bool.eq_false_iff.mp hkeep)).trans (if_neg (Nat.not_lt.mpr hroom)))

theorem execPlanePut_full (hfull : 2 ^ 34 < s.bytesBeside m.p0.toNat + p.bytes) :
    exec .planePut s = .next (respond (s.took rest) m 12 0 0 []) := by
  rw [execPlanePut_eq h hop hcx hp0 hlt hp1, hobj]
  exact congrArg _ ((if_neg (Bool.eq_false_iff.mp hkeep)).trans (if_pos hfull))
end

theorem execLaunchMessage_absent (hop : m.opc = 4#8) (habs : s.ctx? m.cx.toNat = none) :
    exec .launchMessage s = .next (respond (s.took rest) m 2 0 0 []) := by
  refine hostEvent_acts h (by simp [opcIs, hop]) rfl ?_
  simp [show (s.took rest).ctx? m.cx.toNat = none from habs, refuse, stNoContext]

/-- The answer to a well-formed LAUNCH, by what queueing its record gives. -/
def launchAnswer (t : State) (m : Msg) : Except (Nat × Nat) (Nat × State) → State
  | .ok (w, u) => respond u m 0 w 0 []
  | .error (kind, code) =>
    if kind = kHOLDING then respond t m (if code = 6 then 7 else 3) 0 0 []
    else if kind = kCFGFETCH then refuseFault t m kind code 0
    else respond t m 1 0 0 []

theorem execLaunchMessage_queues (hop : m.opc = 4#8) (hcx : m.cx ≠ 0#16) (hctx : (s.ctx? m.cx.toNat).isSome = true) (hp0 : m.p0 = 0)
    (hp1 : m.p1 = 0) (hlen : 8 ≤ m.words.length) (hown : m.words.getD 0 0 / 2 ^ 48 % 2 ^ 12 = m.cx.toNat)
    {x : Except (Nat × Nat) (Nat × State)} (hx : queueLaunch (s.took rest) (m.words.take 8) (m.words.drop 8) true = x) :
    exec .launchMessage s = .next (launchAnswer (s.took rest) m x) := by
  subst hx
  have hhas : ¬ (m.cx = 0 ∨ ((s.took rest).ctx? m.cx.toNat).isNone = true) := by
    have hsome : ((s.took rest).ctx? m.cx.toNat).isSome = true := hctx
    simp [Option.isNone_eq_false_iff.mpr hsome, hcx]
  refine hostEvent_acts h (by simp [opcIs, hop]) rfl ?_
  simp only [if_neg hhas, hp0, hp1, hown, Nat.not_lt.mpr hlen, bne_self_eq_false, decide_false, Bool.or_self, Bool.false_eq_true, if_false]
  rfl

/-! ### Reset of the stack (R439, R455) -/

theorem execResetStack_alone (hop : m.opc = 10#8) (hcx : m.cx = 0#16) (hplain : plainMsg m = true)
    (hkern : ∀ k ∈ s.kernels, k.fromHost = false) (hrest : rest = []) :
    exec .resetStack s = .next (respond (resetState (s.took rest)) m 0 0 0 []) := by
  subst hrest
  have hnone : (s.took []).kernels.filter (fun k => k.fromHost && k.state != .ended) = [] :=
    List.filter_eq_nil_iff.mpr fun k hk => by simp [hkern k hk]
  refine hostEvent_acts h (by simp [opcIs, hop, hcx]) rfl ?_
  simp only [hplain, Bool.not_true, Bool.false_eq_true, if_false, show (s.took []).hostIn = [] from rfl, List.foldl_nil, hnone]
  rfl

/-! ### Endpoints (R230, R439, R442, R453) -/

omit h in
theorem epRefused_unheld {t : State} (hlen : m.payload.length = 8) (hp0 : m.p0.toNat < 64)
    (hno : t.holdsEndpoint m.cx.toNat m.p0.toNat = false) : epRefused t m = some 3 := by
  simp [epRefused, hlen, Nat.not_le.mpr hp0, hno, stHolding]

theorem execEpSend_unheld (hop : m.opc = 11#8) (hlen : m.payload.length = 8) (hp0 : m.p0.toNat < 64)
    (hno : s.holdsEndpoint m.cx.toNat m.p0.toNat = false) : exec .epSend s = .next (respond (s.took rest) m 3 0 0 []) := by
  refine hostEvent_acts h (by simp [opcIs, hop]) ?_ ?_
  · simp [epHold, epRefused_unheld hlen hp0 hno]
  · simp only [epSend, epRefused_unheld (t := s.took rest) hlen hp0 hno]
    rfl

theorem execEpSend_awake (hop : m.opc = 11#8) (hawake : ∀ c, c < 16 → s.asleep c = false) :
    exec .epSend s = .next (epSend (s.took rest) m) :=
  hostEvent_acts h (by simp [opcIs, hop]) (epHold_awake hawake m) rfl

section
omit h
variable {t : State} (hlen : m.payload.length = 8) (hp0 : m.p0.toNat < 64) (hctx : (t.ctx? m.cx.toNat).isSome = true)
  (hheld : t.holdsEndpoint m.cx.toNat m.p0.toNat = true)
include hlen hp0 hctx hheld

theorem epRefused_none : epRefused t m = none := by
  simp [epRefused, hlen, Nat.not_le.mpr hp0, hheld, Option.isNone_eq_false_iff.mpr hctx]

/-- An EP_SEND whose word cannot be accessed is answered with the fault. -/
theorem epSend_faults {kind code : Nat} (hword : epWord (epPull t m) m.cx.toNat (fld m.payload 0 8) = .error (kind, code)) :
    epSend t m = refuseFault (epPull t m) m kind code (fld m.payload 0 8) := by
  simp only [epSend, epRefused_none hlen hp0 hctx hheld, hword]

variable {a : Nat} {o : XOk} (hword : epWord (epPull t m) m.cx.toNat (fld m.payload 0 8) = .ok a)
  (hwalk : (epPull t m).walk m.cx.toNat (fld m.payload 0 8) = .ok o)
  {u : State} (hu : install (epPull t m) (a / 2 ^ 28 % 16) (a / 2 ^ 20 % 256) m.cx.toNat (fld m.payload 0 8) o = u)
include hword hwalk hu

theorem epSend_full (hfull : (u.stag a).full = true ∨ (u.stag a).res = true) : epSend t m = respond u m 10 0 0 [] := by
  simp only [epSend, epRefused_none hlen hp0 hctx hheld, hword, hwalk, hu]
  exact if_pos (by simpa using hfull)

theorem epSend_fills (hempty : (u.stag a).full = false) (hfree : (u.stag a).res = false) :
    epSend t m = respond (serveReleases (fillWord (dirtyRegion u m.cx.toNat 1 (fld m.payload 0 8) 8) a m.p1.toNat)) m 0 0 0 [] := by
  simp only [epSend, epRefused_none hlen hp0 hctx hheld, hword, hwalk, hu]
  exact if_neg (by simp [hempty, hfree])
end

/-! ### Copies (R328, R432, R439) -/

/-- With the courses awake each of the three steps of MEM_COPY runs the copies of its DIR. -/
theorem execMemCopy_awake (hop : m.opc = 5#8) (hawake : ∀ c, c < 16 → s.asleep c = false) :
    (copyDir m = 0 → exec .memCopyToDevice s = .next (memCopy (s.took rest) m)) ∧
    (copyDir m = 1 → exec .memCopyToHost s = .next (memCopy (s.took rest) m)) ∧
    (copyDir m = 2 → exec .memCopyDevice s = .next (memCopy (s.took rest) m)) := by
  refine ⟨fun hd => hostEvent_acts h ?_ (copyHold_awake hawake m) rfl, fun hd => hostEvent_acts h ?_ (copyHold_awake hawake m) rfl,
    fun hd => hostEvent_acts h ?_ (copyHold_awake hawake m) rfl⟩ <;> simp [opcIs, hop, hd]

section
omit h
variable {t v : State} {n : Nat}

theorem memCopy_toDevice (hargs : copyArgs t m = some (0, n)) (hv : copyPull t m 0 n = v) {as : List Nat}
    (hdst : hostBytes v m.cx.toNat true m.p1.toNat n = .ok as) :
    memCopy t m = respond (hostWrite v m.cx.toNat m.p1.toNat as (Memory.bytes v.hostMem m.p0.toNat n)) m 0 0 0 [] := by
  simp only [memCopy, hargs, hv, if_true, hdst]
  rfl

theorem memCopy_toDevice_faults (hargs : copyArgs t m = some (0, n)) (hv : copyPull t m 0 n = v) {k c a : Nat}
    (hdst : hostBytes v m.cx.toNat true m.p1.toNat n = .error (k, c, a)) : memCopy t m = refuseFault v m k c a := by
  simp only [memCopy, hargs, hv, if_true, hdst]
  rfl

theorem memCopy_toHost (hargs : copyArgs t m = some (1, n)) (hv : copyPull t m 1 n = v) {as : List Nat}
    (hsrc : hostBytes v m.cx.toNat false m.p0.toNat n = .ok as) :
    memCopy t m = respond { v with hostMem := Memory.putBytes v.hostMem m.p1.toNat (readBytes v as) } m 0 0 0 [] := by
  simp only [memCopy, hargs, hv, hsrc]
  rfl

theorem memCopy_device (hargs : copyArgs t m = some (2, n)) (hv : copyPull t m 2 n = v) {as bs : List Nat}
    (hsrc : hostBytes v m.cx.toNat false m.p0.toNat n = .ok as) (hdst : hostBytes v m.cx.toNat true m.p1.toNat n = .ok bs) :
    memCopy t m = respond (hostWrite v m.cx.toNat m.p1.toNat bs (readBytes v as)) m 0 0 0 [] := by
  simp only [memCopy, hargs, hv, hsrc, hdst]
  rfl
end

/-! ### Checkpoints and their restoration (R444 to R446) -/

omit h in
theorem writeImage_small {t : State} {cp : Capture} {a cap : Nat} (hcap : cap < imageSize cp) : writeImage t cp a cap = none :=
  if_pos hcap

/-- The state once an image is written to the host, with its capture kept. -/
def State.imaged (t : State) (cp : Capture) (a : Nat) : State :=
  { t with fresh := t.fresh + 1, captures := t.captures.filter (fun c => c.scan != cp.scan) ++ [cp]
           hostMem := Memory.putBytes t.hostMem a (imageOf t.fresh cp) }

omit h in
theorem writeImage_fits {t : State} {cp : Capture} {a cap : Nat} (hcap : imageSize cp ≤ cap) :
    writeImage t cp a cap = some (t.imaged cp a) :=
  if_neg (Nat.not_lt.mpr hcap)

section
variable (hop : m.opc = 6#8) (hpay : m.payload = [])
include hop hpay

section
variable (hbit : bitAt m.flags 1 = false) (hctx : (s.ctx? m.cx.toNat).isSome = true)
include hbit hctx

theorem execCheckpoint_writes {t : State} {n : Nat}
    (hcap : checkpointAt (s.took rest) m.cx.toNat (bitAt m.flags 0) m.p0.toNat m.p1.toNat = some (t, n)) :
    exec .checkpoint s = .next (respond t m 0 n 0 []) := by
  have hsome : ((s.took rest).ctx? m.cx.toNat).isNone = false := Option.isNone_eq_false_iff.mpr hctx
  refine hostEvent_acts h (by simp [opcIs, hop, hbit]) rfl ?_
  simp only [hsome, hpay, List.isEmpty_nil, Bool.not_true, Bool.false_eq_true, if_false, hcap, stOK]

theorem execCheckpoint_full
    (hcap : checkpointAt (s.took rest) m.cx.toNat (bitAt m.flags 0) m.p0.toNat m.p1.toNat = none) :
    exec .checkpoint s = .next (respond (s.took rest) m 12 0 0 []) := by
  have hsome : ((s.took rest).ctx? m.cx.toNat).isNone = false := Option.isNone_eq_false_iff.mpr hctx
  refine hostEvent_acts h (by simp [opcIs, hop, hbit]) rfl ?_
  simp only [hsome, hpay, List.isEmpty_nil, Bool.not_true, Bool.false_eq_true, if_false, hcap, refuse, stNoSpace]
end

variable (hbit : bitAt m.flags 1 = true) (hcx : m.cx = 0#16)
include hbit hcx

theorem execCheckpointDebug_writes {cp : Capture} (hcp : debugCapture (s.took rest) (scanOut (s.took rest)) = cp)
    (hcap : imageSize cp ≤ m.p1.toNat) : ∃ u, exec .checkpointDebug s = .next u ∧ u.sideband.frozen = true ∧ u.mem = s.mem ∧
      u.hostMem = Memory.putBytes s.hostMem m.p0.toNat (imageOf s.fresh cp) ∧ u.bays = s.bays ∧ u.ctxs = s.ctxs := by
  let t := (s.took rest).imaged cp m.p0.toNat
  refine ⟨respond { t with sideband := { t.sideband with frozen := true } } m 0 (imageSize cp) 0 [],
    hostEvent_acts h (by simp [opcIs, hop, hbit]) rfl ?_, rfl, rfl,
    by simp only [respond, t, State.imaged, State.took], rfl, rfl⟩
  simp only [hcx, hpay, hcp, writeImage_fits hcap]
  rfl

theorem execCheckpointDebug_full {cp : Capture} (hcp : debugCapture (s.took rest) (scanOut (s.took rest)) = cp)
    (hcap : m.p1.toNat < imageSize cp) : exec .checkpointDebug s = .next (respond (s.took rest) m 12 0 0 []) := by
  refine hostEvent_acts h (by simp [opcIs, hop, hbit]) rfl ?_
  simp [hcx, hpay, hcp, writeImage_small hcap, refuse, stNoSpace]
end

section
variable (hop : m.opc = 7#8) (hcx : m.cx = 0#16) (hp1 : m.p1 = 0) (hpay : m.payload = [])
include hop hcx hp1 hpay

theorem execRestoreMessage_unread (himg : imageAt (s.took rest) m.p0.toNat = none) :
    exec .restoreMessage s = .next (respond (s.took rest) m 4 0 0 []) := by
  refine hostEvent_acts h (by simp [opcIs, hop]) rfl ?_
  simp [hcx, hp1, hpay, himg, refuse, stBadObject]

variable {k : Capture} (himg : imageAt (s.took rest) m.p0.toNat = some k) (hdebug : k.debug = false)
include himg hdebug

theorem execRestoreMessage_unfit (hfit : captureFits (s.took rest) k = false) :
    exec .restoreMessage s = .next (respond (s.took rest) m 3 0 0 []) := by
  refine hostEvent_acts h (by simp [opcIs, hop]) rfl ?_
  simp [hcx, hp1, hpay, himg, hdebug, hfit, refuse, stHolding]

theorem execRestoreMessage_restores (hfit : captureFits (s.took rest) k = true) : exec .restoreMessage s =
    .next (respond (restoreCapture (s.took rest) k) m 0 (ctxWord (restoreCapture (s.took rest) k) k.root.toNat) 0 []) := by
  refine hostEvent_acts h (by simp [opcIs, hop]) rfl ?_
  simp [hcx, hp1, hpay, himg, hdebug, hfit, stOK]
end

/-! ### Attestation (R447) -/

theorem execAttestReport_reports (hop : m.opc = 8#8) (hcx : m.cx = 0#16) (hp1 : m.p1 = 0) (hp0 : m.p0 = 0)
    (hlen : m.payload.length = 64) :
    exec .attestReport s = .next (respond { s.took rest with fresh := s.fresh + 1 } m 0 0 0
      (reportBody (s.took rest) m.payload ++
        (List.range 512).map fun i => (Config.rootSign (reportBody (s.took rest) m.payload) s.fresh).getD i 0#8)) := by
  refine hostEvent_acts h (by simp [opcIs, hop, hp0]) rfl ?_
  simp only [hcx, hp1, hlen, bne_self_eq_false]
  rfl

theorem execAttestChain_answers (hop : m.opc = 8#8) (hcx : m.cx = 0#16) (hp1 : m.p1 = 0) (hp0 : m.p0 = 1) (hpay : m.payload = []) :
    exec .attestChain s = .next (respond (s.took rest) m 0 0 0 chainBytes) := by
  refine hostEvent_acts h (by simp [opcIs, hop, hp0]) rfl ?_
  simp [hcx, hp1, hp0, hpay, stOK]

theorem execAttestChain_unknown (hop : m.opc = 8#8) (hp0 : 1 < m.p0.toNat) :
    exec .attestChain s = .next (respond (s.took rest) m 1 0 0 []) := by
  have hne : ∀ k : Word, k.toNat ≤ 1 → m.p0 ≠ k := fun k hk heq => by rw [heq] at hp0; omega
  refine hostEvent_acts h (by simp [opcIs, hop, show ¬ m.p0 = 0#64 from hne 0 (by decide)]) rfl ?_
  simp [show ¬ m.p0 = 1#64 from hne 1 (by decide), refuse, stBadMsg]

omit h in
theorem chainBytes_length : chainBytes.length % 8 = 0 := by
  rw [chainBytes, List.length_append, List.length_replicate]
  omega

/-! ### Telemetry (R452) -/

/-- A TELEM message of the stack is answered with the words of its selector. -/
theorem telem_answers (hcx : m.cx = 0#16) (hp1 : m.p1 = 0) (hpay : m.payload = []) {f : Msg → Bool} (hf : f m = true)
    (ws : State → List Nat) : (Host.Outcome.next (hostEvent s f (telemAct ws)) : Host.Outcome State Fault Refusal) =
      .next (respond (s.took rest) m 0 0 0 ((ws (s.took rest)).flatMap (leBytes 8))) :=
  hostEvent_acts h hf rfl (telemAct_answers hcx hp1 hpay ws _)

theorem execTelemSync_answers (hcx : m.cx = 0#16) (hp1 : m.p1 = 0) (hpay : m.payload = []) (hop : m.opc = 9#8) (hp0 : m.p0 = 4) :
    exec .telemSync s = .next (respond (s.took rest) m 0 0 0
      ([s.telem.syncFlag.toNat, s.telem.master.toNat].flatMap (leBytes 8))) := by
  refine hostEvent_acts h (by simp [opcIs, hop, hp0]) rfl ?_
  simp only [hop, hp0, telemAct_answers hcx hp1 hpay]
  rfl

theorem execTelemSync_unknown (hop : m.opc = 9#8) (hp0 : 4 < m.p0.toNat) : exec .telemSync s = .next (respond (s.took rest) m 1 0 0 []) := by
  have hne : ¬ m.p0 = 4#64 := fun heq => by rw [heq] at hp0; exact absurd hp0 (by decide)
  refine hostEvent_acts h (by simp [opcIs, hop, hp0.le]) rfl ?_
  simp [hne, refuse, stBadMsg]

/-! ### Policy (R448) -/

section
variable {f : Msg → Bool} (hf : f m = true) (ok : Msg → Bool) (set : Policy → Msg → Policy)
include hf

theorem policy_sets {early : Bool} (hearly : (early && s.created) = false) (hcx : m.cx = 0#16) (hok : ok m = true) :
    (Host.Outcome.next (hostEvent s f (policyAct early ok set)) : Host.Outcome State Fault Refusal) =
      .next (respond { s.took rest with policy := set s.policy m } m 0 0 0 []) := by
  refine hostEvent_acts h hf rfl ?_
  simp only [policyAct, show (early && (s.took rest).created) = false from hearly, hcx, hok]
  rfl

/-- A selector of the boot is refused after the first CTX_CREATE. -/
theorem policy_late (hmade : s.created = true) :
    (Host.Outcome.next (hostEvent s f (policyAct true ok set)) : Host.Outcome State Fault Refusal) =
      .next (respond (s.took rest) m 8 0 0 []) := by
  refine hostEvent_acts h hf rfl ?_
  simp only [policyAct, show (s.took rest).created = true from hmade]
  rfl

theorem policy_bad (hok : ok m = false) :
    (Host.Outcome.next (hostEvent s f (policyAct false ok set)) : Host.Outcome State Fault Refusal) =
      .next (respond (s.took rest) m 1 0 0 []) := by
  refine hostEvent_acts h hf rfl ?_
  simp [policyAct, hok, refuse, stBadMsg]
end

section
variable (hop : m.opc = 12#8)
include hop

theorem execPolicyPowerLimit_answers (hcx : m.cx = 0#16) (hp0 : m.p0 = 0) (hpay : m.payload = []) :
    (600 ≤ m.p1.toNat → m.p1.toNat ≤ 1800 → exec .policyPowerLimit s =
      .next (respond { s.took rest with policy := { s.policy with power := m.p1.toNat } } m 0 0 0 [])) ∧
    (m.p1.toNat < 600 ∨ 1800 < m.p1.toNat → exec .policyPowerLimit s = .next (respond (s.took rest) m 1 0 0 [])) := by
  have hf : (opcIs 12 m && m.p0 == 0) = true := by simp [opcIs, hop, hp0]
  refine ⟨fun hlo hhi => policy_sets h hf _ _ rfl hcx (by simp [hpay, hlo, hhi]), fun hout => policy_bad h hf _ _ ?_⟩
  rw [hpay, List.isEmpty_nil, Bool.true_and, Bool.and_eq_false_iff, decide_eq_false_iff_not, decide_eq_false_iff_not]
  omega

theorem execPolicySleep_sets (hcx : m.cx = 0#16) (hp0 : m.p0 = 1) (hpay : m.payload = []) (hlt : m.p1.toNat < 4) :
    exec .policySleep s = .next (respond { s.took rest with policy := { s.policy with sleep := m.p1.setWidth 2 } } m 0 0 0 []) := by
  rw [← BitVec.ofNat_toNat]
  exact policy_sets h (by simp [opcIs, hop, hp0]) _ _ rfl hcx (by simp [hpay, hlt])

/-- The three selectors of the boot are refused after the first CTX_CREATE. -/
theorem bootPolicy_late (hmade : s.created = true) :
    (m.p0 = 2 → exec .policySpareBanks s = .next (respond (s.took rest) m 8 0 0 [])) ∧
    (m.p0 = 3 → exec .policySignedPlanes s = .next (respond (s.took rest) m 8 0 0 [])) ∧
    (m.p0 = 4 → exec .policyKeyInstall s = .next (respond (s.took rest) m 8 0 0 [])) := by
  refine ⟨fun hp0 => policy_late h (by simp [opcIs, hop, hp0]) _ _ hmade, fun hp0 => policy_late h (by simp [opcIs, hop, hp0]) _ _ hmade,
    fun hp0 => hostEvent_acts h (by simp [opcIs, hop, hp0]) rfl ?_⟩
  simp only [hp0, policyAct, show (s.took rest).created = true from hmade]
  rfl

variable (hcx : m.cx = 0#16) (hnew : s.created = false)
include hcx hnew

theorem execPolicySpareBanks_sets (hp0 : m.p0 = 2) (hpay : m.payload = []) (hle : m.p1.toNat ≤ 4) : exec .policySpareBanks s =
    .next (respond { s.took rest with policy := { s.policy with spare := m.p1.toNat } } m 0 0 0 []) :=
  policy_sets h (by simp [opcIs, hop, hp0]) _ _ hnew hcx (by simp [hpay, hle])

theorem execPolicySignedPlanes_sets (hp0 : m.p0 = 3) (hpay : m.payload = []) (hlt : m.p1.toNat < 2) : exec .policySignedPlanes s =
    .next (respond { s.took rest with policy := { s.policy with signed := m.p1.toNat == 1 } } m 0 0 0 []) := by
  rw [show (m.p1.toNat == 1) = (m.p1 == 1) by rw [Bool.eq_iff_iff, beq_iff_eq, beq_iff_eq, ← BitVec.toNat_inj]; rfl]
  exact policy_sets h (by simp [opcIs, hop, hp0]) _ _ hnew hcx (by simp [hpay, hlt])

theorem execPolicyKeyInstall_sets (hp0 : m.p0 = 4) (hlen : m.payload.length = 512) (hroom : s.policy.keys.length < 8) :
    exec .policyKeyInstall s =
      .next (respond { s.took rest with policy := { s.policy with keys := s.policy.keys ++ [m.payload] } } m 0 0 0 []) := by
  refine hostEvent_acts h (by simp [opcIs, hop, hp0]) rfl ?_
  simp only [hp0, hlen, hcx, policyAct, show (s.took rest).created = false from hnew,
    show (s.took rest).policy.keys.length < 8 from hroom]
  rfl
end

end

/-- Settles O54: the window and the link clause by clause, each message by the lemmas of its step. -/
theorem hostMessagesAct : Obligations.HostMessagesAct := by
  unfold Obligations.HostMessagesAct
  refine ⟨fun e s m rest => ?_, fun s m rest => ?_⟩
  · intro s0 ok no bad cx ws plainly
    refine ⟨fun w l hw hok => execHostWindowWrite_oldest e hw hok, execWfence_performs s,
      ⟨sidebandWord_status s, sidebandWord_stackNo s⟩, Msg.ofBytes_bytes, Msg.malformed_of,
      fun hup x hx => ⟨_, _, execSigDeliveryAck_oldest e hup hx, rfl, rfl, rfl, ?_, ?_, rfl⟩, rfl, ?_, ?_, fun h => ?_⟩
    · exact BitVec.ofNat_toNat ..
    · exact (BitVec.ofNat_toNat ..).trans (BitVec.setWidth_eq _)
    · intro x hup hphase hin htag hop hp0 hp1 hcx hpay hok
      exact execTelemSync_repeat hup hphase hin htag hop hp0 hp1 hcx hpay hok
    · intro hup hphase hin htags
      refine ⟨fun hop hbad => ?_, fun hop hok hfrozen => ?_⟩
      · exact congrArg _ (hostEvent_malformed _ _ hup hphase hin htags (by simp [opcIs, hop]) hbad)
      · exact congrArg _ (hostEvent_frozen _ _ hup hphase hin htags (by simp [opcIs, hop]) hok hfrozen (by simp [Msg.whileFrozen, hop]))
    · refine ⟨?create, contextMessages_absent h, ?contexts, ?put, ?launch, ?reset, ?send⟩
      case create =>
        exact fun hop hcx hp0 hp1 fs hrec hlen => ⟨fun n t => execCtxCreate_creates h hop hcx hp0 hp1 hrec hlen,
          fun code => execCtxCreate_refuses h hop hcx hp0 hp1 hrec hlen⟩
      case contexts => exact fun hone ⟨hp0, hp1, hpay⟩ => contextMessages_act h hone (by simp [plainMsg, hp0, hp1, hpay])
      case put =>
        exact fun hop hcx hp0 hlt hp1 => ⟨fun st => execPlanePut_unread h hop hcx hp0 hlt hp1,
          fun p => execPlanePut_breaks h hop hcx hp0 hlt hp1, fun p hobj hkeep =>
            ⟨execPlanePut_puts h hop hcx hp0 hlt hp1 hobj hkeep, execPlanePut_full h hop hcx hp0 hlt hp1 hobj hkeep⟩⟩
      case launch =>
        refine fun hop => ⟨execLaunchMessage_absent h hop, fun hcx hctx hp0 hp1 hlen hown => ?_⟩
        have hq := fun {x} => execLaunchMessage_queues h hop hcx hctx hp0 hp1 hlen hown (x := x)
        exact ⟨fun w t => hq, hq, fun code => hq⟩
      case reset => exact fun hop hcx ⟨hp0, hp1, hpay⟩ => execResetStack_alone h hop hcx (by simp [plainMsg, hp0, hp1, hpay])
      case send =>
        intro hop hlen hp0 va v
        refine ⟨fun hctx hheld hawake => ?_, execEpSend_unheld h hop hlen hp0⟩
        rw [execEpSend_awake h hop hawake]
        refine ⟨fun kind code hw => congrArg _ (epSend_faults (t := s.took rest) hlen hp0 hctx hheld hw), fun a o hw hwalk => ?_⟩
        intro t
        exact ⟨fun hfull => congrArg _ (epSend_full (t := s.took rest) hlen hp0 hctx hheld hw hwalk rfl hfull),
          fun hempty hfree => congrArg _ (epSend_fills (t := s.took rest) hlen hp0 hctx hheld hw hwalk rfl hempty hfree)⟩
  · intro s0 ok no cx src dst plainly words course sleep policy h
    refine ⟨?copy, fun hop hpay => ⟨?checkpoint, ?debug⟩, ?restore, ?attest, ?telem, ?policy⟩
    case copy =>
      intro hop hawake n v
      obtain ⟨hto, hfrom, hdev⟩ := execMemCopy_awake h hop hawake
      exact ⟨fun hargs hd as hdst => (hto hd).trans (congrArg _ (memCopy_toDevice hargs rfl hdst)),
        fun hargs hd as hsrc => (hfrom hd).trans (congrArg _ (memCopy_toHost hargs rfl hsrc)),
        fun hargs hd as hsrc bs hdst => (hdev hd).trans (congrArg _ (memCopy_device hargs rfl hsrc hdst)),
        fun hargs hd k c a hdst => (hto hd).trans (congrArg _ (memCopy_toDevice_faults hargs rfl hdst))⟩
    case checkpoint =>
      intro hbit hctx
      have hb : bitAt m.flags 1 = false := by rw [bitAt_eq, hbit]
      exact ⟨fun t n => execCheckpoint_writes h hop hpay hb hctx, execCheckpoint_full h hop hpay hb hctx⟩
    case debug =>
      intro hbit hcx cp
      have hb : bitAt m.flags 1 = true := by rw [bitAt_eq, hbit]
      exact ⟨execCheckpointDebug_writes h hop hpay hb hcx rfl, execCheckpointDebug_full h hop hpay hb hcx rfl⟩
    case restore =>
      exact fun hop ⟨hcx, hp1, hpay⟩ => ⟨execRestoreMessage_unread h hop hcx hp1 hpay, fun k himg hdebug =>
        ⟨execRestoreMessage_unfit h hop hcx hp1 hpay himg hdebug, execRestoreMessage_restores h hop hcx hp1 hpay himg hdebug⟩⟩
    case attest =>
      exact fun hop hcx hp1 => ⟨fun hp0 hlen => ⟨_, _, execAttestReport_reports h hop hcx hp1 hp0 hlen, by simp, rfl⟩,
        fun hp0 hpay => ⟨execAttestChain_answers h hop hcx hp1 hp0 hpay, chainBytes_length⟩, execAttestChain_unknown h hop⟩
    case telem =>
      intro hop ⟨hcx, hp1, hpay⟩
      have hsel := fun {f : Msg → Bool} => telem_answers h hcx hp1 hpay (f := f)
      exact ⟨fun hp0 => hsel (by simp [opcIs, hop, hp0]) _, fun hp0 => hsel (by simp [opcIs, hop, hp0]) _,
        fun hp0 => hsel (by simp [opcIs, hop, hp0]) _, fun hp0 => hsel (by simp [opcIs, hop, hp0]) _,
        execTelemSync_answers h hcx hp1 hpay hop, execTelemSync_unknown h hop⟩
    case policy =>
      exact fun hop hcx => ⟨execPolicyPowerLimit_answers h hop hcx, execPolicySleep_sets h hop hcx, bootPolicy_late h hop,
        fun hnew => ⟨execPolicySpareBanks_sets h hop hcx hnew, execPolicySignedPlanes_sets h hop hcx hnew,
          execPolicyKeyInstall_sets h hop hcx hnew⟩⟩

end Sys2Proof.Machine
end

section
/-! PROOF. The Ridge: occurrences, control words, and the application of changes (R333, R337 to R342). -/

namespace Sys2Proof.Machine

/-! ### Tokens that wait with their casts (R26, R322) -/

/-- Tokens with a payload that is known. -/
def paid (ts : List Transit) (v : Nat) : List Transit :=
  ts.map fun t => { t with tok := { t.tok with val := BitVec.ofNat 512 (v % 2 ^ 64), p := false } }

section
variable {s : State} {g : Firing} {f : Frame} {k : Cast} (hf : s.frame? g.course.toNat g.bay g.ft.toNat = some f)
  (hcx : f.cx = g.cx) (hit : f.it = g.it) (hk : f.cast = some k) (hcom : k.committing = true)
include hf hcx hit hk hcom

/-- Tokens of a committing cast join its outgoing ones. -/
theorem outLater_committing (ts : List Transit) (v : Nat) :
    outLater s g ts v = s.modOwn g fun k => { k with out := k.out ++ paid ts v } := by
  simp [outLater, hf, hcx, hit, hk, hcom, paid]

theorem outLater_joins (ts : List Transit) (v : Nat) : (outLater s g ts v).transit = s.transit ∧ (outLater s g ts v).mem = s.mem ∧
    (outLater s g ts v).cast? g.course.toNat g.bay g.ft.toNat = some { k with out := k.out ++ paid ts v } := by
  have hcast : s.cast? g.course.toNat g.bay g.ft.toNat = some k := by rw [State.cast?, hf, Option.bind_some, hk]
  rw [outLater_committing hf hcx hit hk hcom]
  exact ⟨State.modOwn_transit .., State.modOwn_mem .., (State.cast?_modCast ..).trans (by rw [hcast]; rfl)⟩
end

/-! ### The merge of a course's writes (R338) -/

/-- The bits of the bytes that a mask of bytes names, below byte n. -/
def maskSum (mask : BitVec 128) (n : Nat) : Nat := ((List.range n).map fun i => if mask.getLsbD i then 255 * 2 ^ (8 * i) else 0).sum

theorem maskSum_succ (mask : BitVec 128) (n : Nat) :
    maskSum mask (n + 1) = 2 ^ (8 * n) * (if mask.getLsbD n then 255 else 0) + maskSum mask n := by
  rw [maskSum, List.range_succ, List.map_append, List.sum_append, List.map_singleton, List.sum_singleton, Nat.add_comm, maskSum]
  split <;> simp [Nat.mul_comm]

theorem maskSum_lt (mask : BitVec 128) (n : Nat) : maskSum mask n < 2 ^ (8 * n) := by
  induction n with
  | zero => exact Nat.one_pos
  | succ n ih =>
    have hle : (if mask.getLsbD n then 255 else 0) ≤ 255 := by split <;> omega
    have hmul := Nat.mul_le_mul_left (2 ^ (8 * n)) hle
    rw [maskSum_succ, show 8 * (n + 1) = 8 * n + 8 from rfl, pow_add]
    omega

/-- Bit j is set exactly in the bytes that the mask names. -/
theorem testBit_maskSum (mask : BitVec 128) (n j : Nat) : (maskSum mask n).testBit j = (decide (j < 8 * n) && mask.getLsbD (j / 8)) := by
  induction n with
  | zero => simp [maskSum]
  | succ n ih =>
    rw [maskSum_succ, Nat.testBit_two_pow_mul_add _ (maskSum_lt mask n)]
    split
    case isTrue h => rw [ih]; simp [h, show j < 8 * (n + 1) by omega]
    case isFalse h =>
      by_cases hj : j < 8 * (n + 1)
      · rw [show j / 8 = n by omega]
        cases mask.getLsbD n
        · simp
        · have hbit : Nat.testBit 255 (j - 8 * n) = true := by
            rw [show 255 = 2 ^ 8 - 1 from rfl, Nat.testBit_two_pow_sub_one]
            exact decide_eq_true (by omega)
          simp [hbit, hj]
      · have hbit : Nat.testBit (if mask.getLsbD n then 255 else 0) (j - 8 * n) = false := by
          refine Nat.testBit_lt_two_pow (i := j - 8 * n) (Nat.lt_of_lt_of_le (m := 2 ^ 8) (by split <;> decide) ?_)
          exact Nat.pow_le_pow_right (by decide) (by omega)
        simp [hbit, hj]

/-- One more write merged: its mask joins, and its bytes replace those before. -/
def mergeWrite (x : BitVec 128 × BitVec 1024) (w : RidgeWrite) : BitVec 128 × BitVec 1024 :=
  (x.1 ||| w.mask, (x.2 &&& ~~~(BitVec.ofNat 1024 (maskSum w.mask 128))) ||| (w.data &&& BitVec.ofNat 1024 (maskSum w.mask 128)))

theorem mergeWrites_eq_foldl (ws : List RidgeWrite) (x : BitVec 128 × BitVec 1024) : mergeWrites ws x = ws.foldl mergeWrite x := by
  induction ws generalizing x with
  | nil => rfl
  | cons w ws ih => exact ih (mergeWrite x w)

/-- Byte i after one more write: its own where its mask names it, else what stood there. -/
theorem byte_mergeWrite (x : BitVec 128 × BitVec 1024) (w : RidgeWrite) {i : Nat} (hi : i < 128) :
    (mergeWrite x w).2.extractLsb' (8 * i) 8 = if w.mask.getLsbD i then w.data.extractLsb' (8 * i) 8 else x.2.extractLsb' (8 * i) 8 := by
  have hfull : ∀ j, j < 8 → (BitVec.ofNat 1024 (maskSum w.mask 128)).getLsbD (8 * i + j) = w.mask.getLsbD i := fun j hj => by
    rw [BitVec.getLsbD_ofNat, testBit_maskSum, show (8 * i + j) / 8 = i by omega]
    simp [show 8 * i + j < 1024 by omega]
  refine BitVec.eq_of_getLsbD_eq fun j hj => ?_
  have hlt : 8 * i + j < 1024 := by omega
  simp only [mergeWrite, BitVec.getLsbD_extractLsb', BitVec.getLsbD_or, BitVec.getLsbD_and, BitVec.getLsbD_not, hfull j hj]
  split
  case isTrue h => simp [h, hj]
  case isFalse h => simp [h, hj, hlt]

/-- A byte is in the merged mask exactly when some write has it. -/
theorem mask_mergeWrites (ws : List RidgeWrite) (x : BitVec 128 × BitVec 1024) (i : Nat) :
    (ws.foldl mergeWrite x).1.getLsbD i = true ↔ x.1.getLsbD i = true ∨ ∃ w ∈ ws, w.mask.getLsbD i = true := by
  induction ws generalizing x with
  | nil => simp
  | cons w ws ih => simp [ih, mergeWrite, or_assoc]

/-- Writes without a byte leave it. -/
theorem byte_mergeWrites_unnamed {ws : List RidgeWrite} (x : BitVec 128 × BitVec 1024) {i : Nat} (hi : i < 128)
    (h : ∀ w ∈ ws, w.mask.getLsbD i = false) : (ws.foldl mergeWrite x).2.extractLsb' (8 * i) 8 = x.2.extractLsb' (8 * i) 8 := by
  induction ws generalizing x with
  | nil => rfl
  | cons w ws ih =>
    rw [List.foldl_cons, ih _ fun v hv => h v (List.mem_cons_of_mem _ hv), byte_mergeWrite x w hi,
      if_neg (by simp [h w List.mem_cons_self])]

/-- Of the writes that have a byte the last gives it. -/
theorem byte_mergeWrites_last {old new : List RidgeWrite} {w : RidgeWrite} (x : BitVec 128 × BitVec 1024) {i : Nat} (hi : i < 128)
    (hw : w.mask.getLsbD i = true) (hnew : ∀ v ∈ new, v.mask.getLsbD i = false) :
    ((old ++ w :: new).foldl mergeWrite x).2.extractLsb' (8 * i) 8 = w.data.extractLsb' (8 * i) 8 := by
  rw [List.foldl_append, List.foldl_cons, byte_mergeWrites_unnamed _ hi hnew, byte_mergeWrite _ w hi, if_pos hw]

/-! ### Occurrences and control words (R338, R340, R341) -/

/-- A recorded change stands last among the changes, and beside it only the journal moves. -/
theorem recordChange_leaves (s : State) (x : RidgeChange) : (recordChange s x).changes = s.changes ++ [x] ∧
    (recordChange s x).courses = s.courses ∧ (recordChange s x).ridge = s.ridge ∧ (recordChange s x).mem = s.mem ∧
      (recordChange s x).transit = s.transit := by
  unfold recordChange
  extract_lets j
  split
  · exact ⟨rfl, rfl, rfl, rfl, rfl⟩
  · split
    · exact ⟨rfl, rfl, rfl, rfl, rfl⟩
    · exact ⟨rfl, rfl, rfl, rfl, rfl⟩

/-- With no guard waiting a barrier's arrival leaves no record of one. -/
theorem strandGuards_none {s : State} (hg : s.guardNotes = []) (cx : BitVec 12) (str : BitVec 11) : strandGuards s cx str = s := by
  rw [strandGuards, hg]
  rfl

section
variable (e : EvArgs) {s : State}

theorem execRidgeOccurrence_none (h : nextOccurrence s = none) : exec (.ridgeOccurrence e) s = .next s := by
  show execRidgeOccurrence e s = _
  simp only [execRidgeOccurrence, h]

theorem execRidgeOccurrence_early {n slot : Nat} (h : nextOccurrence s = some (n, slot)) (hn : s.beat < n) :
    exec (.ridgeOccurrence e) s = .next s := by
  show execRidgeOccurrence e s = _
  simp only [execRidgeOccurrence, h, hn, if_true]

/-- The writes that an occurrence of a slot at beat n carries: those that meet its cut-off. -/
def goesAt (slot n : Nat) (w : RidgeWrite) : Bool := w.slot == slot && decide (w.beat + 3 ≤ n)

/-- The change that an occurrence of a slot at beat n makes of the writes of a course. -/
def carriedChange (n slot c : Nat) (ws : List RidgeWrite) : RidgeChange :=
  { beat := n, ch := slot % 8, slot := slot, mask := (ws.foldl mergeWrite (0, 0)).1, data := (ws.foldl mergeWrite (0, 0)).2
    src := BitVec.ofNat 5 c, by_ := ws.map fun w => (w.cx, w.str), ctl := none }

/-- The state in which a change is on its way, before the tokens of its writes are. -/
def carried (s : State) (n slot c : Nat) : State :=
  recordChange (s.modCrs c fun y => { y with port := y.port.filter fun w => !(goesAt slot n w) })
    (carriedChange n slot c ((s.crs c).port.filter (goesAt slot n)))

theorem execRidgeOccurrence_carries {n slot c : Nat} (h : nextOccurrence s = some (n, slot)) (hn : n ≤ s.beat)
    (hc : slotWinner s slot n = some c) : exec (.ridgeOccurrence e) s =
      .next (((s.crs c).port.filter (goesAt slot n)).foldl
        (fun t w => w.sender.elim t fun g => outLater t g w.toks (n * 8 + slot % 8)) (carried s n slot c)) := by
  show execRidgeOccurrence e s = _
  simp only [execRidgeOccurrence, h, Nat.not_lt.mpr hn, if_false, hc, mergeWrites_eq_foldl]
  rfl

theorem carried_leaves (s : State) (n slot c : Nat) :
    (carried s n slot c).changes = s.changes ++ [carriedChange n slot c ((s.crs c).port.filter (goesAt slot n))] ∧
      ((carried s n slot c).crs c).port = (s.crs c).port.filter (fun w => !(goesAt slot n w)) ∧
      (carried s n slot c).ridge = s.ridge ∧ (carried s n slot c).mem = s.mem ∧ (carried s n slot c).transit = s.transit := by
  obtain ⟨hchanges, hcourses, hrest⟩ :=
    recordChange_leaves (s.modCrs c fun y => { y with port := y.port.filter fun w => !(goesAt slot n w) })
      (carriedChange n slot c ((s.crs c).port.filter (goesAt slot n)))
  refine ⟨hchanges, ?_, hrest⟩
  rw [carried, State.crs, hcourses]
  exact congrArg Course.port (State.crs_modCrs s c _)

theorem execRidgeControlWord_none (h : nextCtl s = none) : exec (.ridgeControlWord e) s = .next s := by
  show execRidgeControlWord e s = _
  simp only [execRidgeControlWord, h]

theorem execRidgeControlWord_early {c : Nat} {w : CtlWord} (h : nextCtl s = some (c, w)) (hn : s.beat < ctlBeat s w) :
    exec (.ridgeControlWord e) s = .next s := by
  show execRidgeControlWord e s = _
  simp only [execRidgeControlWord, h, hn, if_true]

/-- The change that carries a control word of a course at a beat. -/
def ctlChange (n c : Nat) (w : CtlWord) : RidgeChange :=
  { beat := n, ch := 8, slot := 0, mask := 0, data := 0, src := BitVec.ofNat 5 c, by_ := [], ctl := some w }

/-- Once a control word's arrival is counted: its soft record when its count differs (R237). -/
def arrivalNoted (s : State) (w : CtlWord) (differs : Bool) : State :=
  match differs, w.note, w.sender with
  | true, some rc, some g => softRec s rc (s.inFaultFrame g) (some (g.course, BitVec.ofNat 8 g.bay, g.ft))
  | _, _, _ => s

section
variable {c : Nat} {w : CtlWord} {ws : List CtlWord} (h : nextCtl s = some (c, w)) (hn : ctlBeat s w ≤ s.beat)
  (hws : (s.crs c).ctl = w :: ws)
include hws

theorem modCrs_dropCtl : (s.modCrs c fun y => { y with ctl := y.ctl.drop 1 }) = s.modCrs c fun y => { y with ctl := ws } := by
  simp only [State.modCrs, hws, List.drop_one, List.tail_cons]

include h hn

theorem execRidgeControlWord_sends (hkind : w.word.toNat / 2 ^ 61 ≠ 1) : exec (.ridgeControlWord e) s =
    .next (recordChange (s.modCrs c fun y => { y with ctl := ws }) (ctlChange (ctlBeat s w) c w)) := by
  show execRidgeControlWord e s = _
  simp only [execRidgeControlWord, h, Nat.not_lt.mpr hn, if_false, if_neg hkind, modCrs_dropCtl hws]
  rfl

/-- An arrival is counted at the Plate and goes out with its phase, which its tokens carry. -/
theorem execRidgeControlWord_arrives (hkind : w.word.toNat / 2 ^ 61 = 1) (hg : s.guardNotes = []) {ph : BitVec 16} {differs : Bool}
    {bar : Barrier} (hbar : (s.barrier w.cx 4 (w.word.toNat / 2 ^ 43 % 64) 0).arrive (w.word.toNat / 2 ^ 11 % 2 ^ 16) s.cycles =
      (ph, differs, bar)) :
    exec (.ridgeControlWord e) s =
      let u := recordChange (arrivalNoted ((s.modCrs c fun y => { y with ctl := ws }).setBarrier bar) w differs)
        (ctlChange (ctlBeat s w) c { w with word := w.word ||| BitVec.ofNat 64 (ph.toNat * 2 ^ 27), toks := [] })
      .next (w.sender.elim u fun g => outLater u g w.toks ph.toNat) := by
  show execRidgeControlWord e s = _
  have hsame : (s.modCrs c fun y => { y with ctl := ws }).barrier w.cx 4 (w.word.toNat / 2 ^ 43 % 64) 0 =
      s.barrier w.cx 4 (w.word.toNat / 2 ^ 43 % 64) 0 := rfl
  have hguards : strandGuards ((s.modCrs c fun y => { y with ctl := ws }).setBarrier bar) w.cx w.str =
      (s.modCrs c fun y => { y with ctl := ws }).setBarrier bar := by
    refine strandGuards_none ?_ ..
    unfold State.setBarrier
    extract_lets same
    split <;> exact hg
  simp only [execRidgeControlWord, h, Nat.not_lt.mpr hn, if_false, if_pos hkind, modCrs_dropCtl hws, hsame, State.modCrs_cycles, hbar,
    hguards]
  rfl
end
end
end Sys2Proof.Machine
end

section
/-! PROOF. The application of the Ridge's changes (R333, R337, R341, R342), and the obligation of the Ridge's events. -/

namespace Sys2Proof.Machine

/-! ### The order of the changes (R333) -/

/-- The place of a change in the total order: its beat, then its channel. -/
def RidgeChange.place (x : RidgeChange) : Nat := x.beat * 16 + x.ch

theorem insertChange_perm (x : RidgeChange) (l : List RidgeChange) : (insertChange x l).Perm (x :: l) := by
  induction l with
  | nil => exact .refl _
  | cons y l ih =>
    unfold insertChange
    split
    · exact .refl _
    · exact (ih.cons y).trans (.swap x y l)

theorem insertChange_sorted {l : List RidgeChange} (x : RidgeChange) (h : l.Pairwise fun y z => y.place ≤ z.place) :
    (insertChange x l).Pairwise fun y z => y.place ≤ z.place := by
  induction l with
  | nil => exact List.pairwise_singleton _ x
  | cons y l ih =>
    obtain ⟨hy, hl⟩ := List.pairwise_cons.mp h
    unfold insertChange
    split
    case isTrue hlt =>
      have hxy : x.place ≤ y.place := Nat.le_of_lt hlt
      exact List.pairwise_cons.mpr ⟨List.forall_mem_cons.mpr ⟨hxy, fun z hz => hxy.trans (hy z hz)⟩, h⟩
    case isFalse hge =>
      have hyx : y.place ≤ x.place := Nat.le_of_not_lt hge
      refine List.pairwise_cons.mpr ⟨fun z hz => ?_, ih hl⟩
      obtain rfl | hz := List.mem_cons.mp ((insertChange_perm x l).mem_iff.mp hz)
      · exact hyx
      · exact hy z hz

/-- The changes in the total order. -/
def sortedChanges (l : List RidgeChange) : List RidgeChange := l.foldl (fun l x => insertChange x l) []

theorem foldl_insertChange (l acc : List RidgeChange) (h : acc.Pairwise fun y z => y.place ≤ z.place) :
    (l.foldl (fun l x => insertChange x l) acc).Pairwise (fun y z => y.place ≤ z.place) ∧
      ∀ x, x ∈ l.foldl (fun l x => insertChange x l) acc ↔ x ∈ l ∨ x ∈ acc := by
  induction l generalizing acc with
  | nil => exact ⟨h, by simp⟩
  | cons y l ih =>
    obtain ⟨hsort, hmem⟩ := ih _ (insertChange_sorted y h)
    refine ⟨hsort, fun x => ?_⟩
    rw [List.foldl_cons, hmem, (insertChange_perm y acc).mem_iff, List.mem_cons, List.mem_cons]
    tauto

theorem sortedChanges_sorted (l : List RidgeChange) : (sortedChanges l).Pairwise fun y z => y.place ≤ z.place :=
  (foldl_insertChange l [] .nil).1

theorem mem_sortedChanges {l : List RidgeChange} {x : RidgeChange} : x ∈ sortedChanges l ↔ x ∈ l := by
  simpa [sortedChanges] using (foldl_insertChange l [] .nil).2 x

/-- Four beats have passed since a change's beat. -/
def RidgeChange.due (now : Nat) (x : RidgeChange) : Bool := decide (x.beat + 4 ≤ now)

/-- In the total order the changes that are due stand before those that are not. -/
theorem due_first {l : List RidgeChange} (now : Nat) (hsort : l.Pairwise fun y z => y.place ≤ z.place) (hch : ∀ x ∈ l, x.ch < 16) :
    l = l.filter (RidgeChange.due now) ++ l.filter (fun x => !(x.due now)) := by
  induction l with
  | nil => rfl
  | cons x l ih =>
    obtain ⟨hx, hl⟩ := List.pairwise_cons.mp hsort
    obtain ⟨hchx, hchl⟩ := List.forall_mem_cons.mp hch
    cases hd : x.due now with
    | true => rw [List.filter_cons_of_pos hd, List.filter_cons_of_neg (by simp [hd]), List.cons_append, ← ih hl hchl]
    | false =>
      have hlate : ∀ y ∈ l, y.due now = false := fun y hy => by
        have hle := hx y hy
        have hy16 := hchl y hy
        simp only [RidgeChange.place] at hle
        simp only [RidgeChange.due, decide_eq_false_iff_not] at hd ⊢
        omega
      rw [List.filter_cons_of_neg (by simp [hd]), List.filter_cons_of_pos (by simp [hd]),
        List.filter_eq_nil_iff.mpr (fun y hy => by simp [hlate y hy]), List.nil_append,
        List.filter_eq_self.mpr fun y hy => by simp [hlate y hy]]

/-! ### The bytes of a change (R333) -/

/-- A change writes the byte at an address of the Ridge. -/
def RidgeChange.shows (x : RidgeChange) (a : Nat) : Prop :=
  128 * x.slot ≤ a ∧ a < 128 * x.slot + 128 ∧ x.mask.getLsbD (a - 128 * x.slot) = true

/-- The byte that a change has for an address. -/
def RidgeChange.byte (x : RidgeChange) (a : Nat) : Byte := x.data.extractLsb' (8 * (a - 128 * x.slot)) 8

/-- The first n bytes of a change written into an entry. -/
def applyFirst (m : List Host.Cell) (x : RidgeChange) (n : Nat) : List Host.Cell :=
  (List.range n).foldl (fun m i =>
    if x.mask.getLsbD i then Memory.write m (128 * x.slot + i) (x.data.extractLsb' (8 * i) 8) else m) m

theorem applyBytes_eq (m : List Host.Cell) (x : RidgeChange) : applyBytes m x = applyFirst m x 128 := rfl

theorem applyFirst_succ (m : List Host.Cell) (x : RidgeChange) (n : Nat) : applyFirst m x (n + 1) =
    if x.mask.getLsbD n then Memory.write (applyFirst m x n) (128 * x.slot + n) (x.data.extractLsb' (8 * n) 8) else applyFirst m x n := by
  rw [applyFirst, List.range_succ, List.foldl_append, List.foldl_cons, List.foldl_nil]
  rfl

theorem applyFirst_wf {m : List Host.Cell} (h : Memory.wf m = true) (x : RidgeChange) (n : Nat) : Memory.wf (applyFirst m x n) = true := by
  induction n with
  | zero => exact h
  | succ n ih =>
    rw [applyFirst_succ]
    split
    · exact Memory.write_wf ih _ _
    · exact ih

theorem read_applyFirst_other (m : List Host.Cell) {x : RidgeChange} {a : Nat} (n : Nat)
    (h : ∀ i, i < n → a = 128 * x.slot + i → x.mask.getLsbD i = false) : Memory.read (applyFirst m x n) a = Memory.read m a := by
  induction n with
  | zero => rfl
  | succ n ih =>
    have hprev := ih fun i hi => h i (Nat.lt_succ_of_lt hi)
    rw [applyFirst_succ]
    split
    case isTrue hm =>
      rw [Memory.read_write_other _ _ fun ha => ?_, hprev]
      exact absurd hm (by simp [h n (Nat.lt_succ_self n) ha])
    case isFalse => exact hprev

theorem read_applyFirst_same {m : List Host.Cell} (hwf : Memory.wf m = true) {x : RidgeChange} {i : Nat} (hm : x.mask.getLsbD i = true)
    {n : Nat} (hi : i < n) : Memory.read (applyFirst m x n) (128 * x.slot + i) = x.data.extractLsb' (8 * i) 8 := by
  induction n with
  | zero => exact absurd hi (Nat.not_lt_zero i)
  | succ n ih =>
    rw [applyFirst_succ]
    obtain hlt | rfl := Nat.lt_succ_iff_lt_or_eq.mp hi
    · split
      · rw [Memory.read_write_other _ _ (by omega), ih hlt]
      · exact ih hlt
    · rw [if_pos hm, Memory.read_write_same (applyFirst_wf hwf x i)]

theorem read_applyBytes_other (m : List Host.Cell) {x : RidgeChange} {a : Nat} (h : ¬ x.shows a) :
    Memory.read (applyBytes m x) a = Memory.read m a := by
  refine read_applyFirst_other m 128 fun i hi ha => ?_
  rw [← Bool.not_eq_true]
  intro hm
  exact h ⟨by omega, by omega, by rw [ha, Nat.add_sub_cancel_left]; exact hm⟩

theorem read_applyBytes_shown {m : List Host.Cell} (hwf : Memory.wf m = true) {x : RidgeChange} {a : Nat} (h : x.shows a) :
    Memory.read (applyBytes m x) a = x.byte a := by
  obtain ⟨hlo, hhi, hm⟩ := h
  have hread := read_applyFirst_same hwf hm (n := 128) (by omega)
  rwa [show 128 * x.slot + (a - 128 * x.slot) = a by omega] at hread

/-- Changes that have no byte for an address leave it. -/
theorem read_foldl_applyBytes_other {l : List RidgeChange} {a : Nat} (h : ∀ x ∈ l, ¬ x.shows a) (m : List Host.Cell) :
    Memory.read (l.foldl applyBytes m) a = Memory.read m a := by
  induction l generalizing m with
  | nil => rfl
  | cons x l ih =>
    obtain ⟨hx, hl⟩ := List.forall_mem_cons.mp h
    rw [List.foldl_cons, ih hl, read_applyBytes_other m hx]

/-- In the total order the last change that has a byte for an address gives it. -/
theorem read_foldl_applyBytes_last {l : List RidgeChange} (hsort : l.Pairwise fun y z => y.place ≤ z.place) {a : Nat} {x : RidgeChange}
    (hx : x ∈ l) (hshow : x.shows a) (hlast : ∀ y ∈ l, y.shows a → y = x ∨ y.place < x.place) {m : List Host.Cell}
    (hwf : Memory.wf m = true) : Memory.read (l.foldl applyBytes m) a = x.byte a := by
  induction l generalizing m with
  | nil => cases hx
  | cons y l ih =>
    obtain ⟨hy, hl⟩ := List.pairwise_cons.mp hsort
    by_cases hmem : x ∈ l
    · exact ih hl hmem (fun z hz => hlast z (List.mem_cons_of_mem _ hz)) (applyFirst_wf hwf y 128)
    · obtain rfl : x = y := (List.mem_cons.mp hx).resolve_right hmem
      have hnone : ∀ z ∈ l, ¬ z.shows a := fun z hz hza => by
        obtain rfl | hlt := hlast z (List.mem_cons_of_mem _ hz) hza
        · exact hmem hz
        · exact absurd (hy z hz) (Nat.not_le.mpr hlt)
      rw [List.foldl_cons, read_foldl_applyBytes_other hnone, read_applyBytes_shown hwf hshow]

/-! ### A beat applied (R333, R337, R341, R342) -/

theorem keepMirrors_eq (s : State) (x : RidgeChange) : ∃ cs, keepMirrors s x = { s with courses := cs } := by
  unfold keepMirrors
  split
  · exact ⟨s.courses, rfl⟩
  · exact ⟨_, rfl⟩

/-- Changes without a control word change the entries, and leave the list of those on their way. -/
theorem applyBeat_eq {l : List RidgeChange} (h : ∀ x ∈ l, x.ctl = none) (s : State) : ∃ cs, applyBeat l s =
    { s with changes := s.changes.drop l.length, ridge := l.foldl applyBytes s.ridge, courses := cs } := by
  induction l generalizing s with
  | nil => exact ⟨s.courses, rfl⟩
  | cons x l ih =>
    obtain ⟨hx, hl⟩ := List.forall_mem_cons.mp h
    obtain ⟨cs, hcs⟩ := keepMirrors_eq { s with changes := s.changes.drop 1 } x
    obtain ⟨cs', hcs'⟩ := ih hl { s with changes := s.changes.drop 1, ridge := applyBytes s.ridge x, courses := cs }
    refine ⟨cs', ?_⟩
    rw [applyBeat, hcs, applyChange, hx]
    simpa [List.drop_drop, Nat.add_comm] using hcs'

/-- The application of what is due leaves the state of its changes, with the waits that they end acting again. -/
theorem execRidgeMirrorApply_eq (e : EvArgs) (s : State) : ∃ f, exec (.ridgeMirrorApply e) s =
    .next (refireWaits (applyBeat ((sortedChanges s.changes).filter (RidgeChange.due s.beat))
      { s with changes := sortedChanges s.changes }) f) := ⟨_, rfl⟩

/-- With no control word due, the application leaves what is not due, and the entries with what is due written in its order. -/
theorem execRidgeMirrorApply_applies (e : EvArgs) {s : State}
    (hplain : ∀ x ∈ s.changes, x.ch < 16 ∧ (x.due s.beat = true → x.ctl = none)) : ∃ u, exec (.ridgeMirrorApply e) s = .next u ∧
      u.mem = s.mem ∧ u.transit = s.transit ∧ (∀ x, x ∈ u.changes ↔ x ∈ s.changes ∧ ¬ x.due s.beat = true) ∧
      u.ridge = ((sortedChanges s.changes).filter (RidgeChange.due s.beat)).foldl applyBytes s.ridge := by
  obtain ⟨f, hexec⟩ := execRidgeMirrorApply_eq e s
  have hnone : ∀ x ∈ (sortedChanges s.changes).filter (RidgeChange.due s.beat), x.ctl = none := fun x hx => by
    obtain ⟨hmem, hdue⟩ := List.mem_filter.mp hx
    exact (hplain x (mem_sortedChanges.mp hmem)).2 hdue
  obtain ⟨cs, happly⟩ := applyBeat_eq hnone { s with changes := sortedChanges s.changes }
  have hlate : (sortedChanges s.changes).drop ((sortedChanges s.changes).filter (RidgeChange.due s.beat)).length =
      (sortedChanges s.changes).filter fun x => !(x.due s.beat) := by
    have hsplit := due_first s.beat (sortedChanges_sorted s.changes) fun x hx => (hplain x (mem_sortedChanges.mp hx)).1
    exact (congrArg (List.drop _) hsplit).trans List.drop_left
  refine ⟨_, hexec, ?_⟩
  rw [happly]
  refine ⟨rfl, rfl, fun x => ?_, rfl⟩
  show x ∈ (sortedChanges s.changes).drop _ ↔ _
  rw [hlate, List.mem_filter, mem_sortedChanges, Bool.not_eq_true', Bool.not_eq_true]

/-! ### A control word that is alone (R337, R341, R342) -/

/-- A barrier's entry changes the barriers alone, and rests on them alone. -/
theorem setBarrier_leaves (s : State) (x : Barrier) : (s.setBarrier x).changes = s.changes ∧ (s.setBarrier x).ridge = s.ridge ∧
    ∀ u : State, u.barriers = s.barriers → (s.setBarrier x).barriers = (u.setBarrier x).barriers := by
  unfold State.setBarrier
  extract_lets same
  split
  case isTrue h => exact ⟨rfl, rfl, fun u hu => by rw [hu, if_pos h]⟩
  case isFalse h => exact ⟨rfl, rfl, fun u hu => by rw [hu, if_neg h]⟩

/-- A flip changes the selectors alone, and rests on them alone. -/
theorem flipSelector_leaves (s : State) (a : Nat) : (flipSelector s a).changes = s.changes ∧ (flipSelector s a).ridge = s.ridge ∧
    ∀ u : State, u.selectors = s.selectors → (flipSelector s a).selectors = (flipSelector u a).selectors := by
  unfold flipSelector
  split
  case isTrue h => exact ⟨rfl, rfl, fun u hu => by rw [hu, if_pos h]⟩
  case isFalse h => exact ⟨rfl, rfl, fun u hu => by rw [hu, if_neg h]⟩

/-- The state in which a change that is alone is applied: none is on its way, and the mirrors that stand apart have it. -/
def State.lastTaken (s : State) (cs : List (Nat × Course)) : State := { s with changes := [], courses := cs }

/-- A change that is alone and due is applied. -/
theorem execRidgeMirrorApply_alone (e : EvArgs) {s : State} {x : RidgeChange} (hx : s.changes = [x]) (hdue : x.due s.beat = true) :
    ∃ cs f, exec (.ridgeMirrorApply e) s = .next (refireWaits (applyChange (s.lastTaken cs) x) f) := by
  obtain ⟨f, hexec⟩ := execRidgeMirrorApply_eq e s
  obtain ⟨cs, hcs⟩ := keepMirrors_eq { s with changes := [] } x
  refine ⟨cs, f, ?_⟩
  rw [hexec, hx, show sortedChanges [x] = [x] from rfl, List.filter_cons_of_pos hdue, List.filter_nil]
  simp only [applyBeat, List.drop_one, List.tail_cons, hcs]
  rfl

section
variable (s : State) (cs : List (Nat × Course)) {x : RidgeChange} {w : CtlWord} (hw : x.ctl = some w)
include hw

/-- The last word of a phase completes it. -/
theorem applyChange_phase (hkind : w.word.toNat / 2 ^ 61 = 1) : applyChange (s.lastTaken cs) x =
    (s.lastTaken cs).setBarrier { s.barrier w.cx 4 (w.word.toNat / 2 ^ 43 % 64) 0 with
      due := (s.barrier w.cx 4 (w.word.toNat / 2 ^ 43 % 64) 0).due.filter fun d => d.1 != BitVec.ofNat 16 (w.word.toNat / 2 ^ 27) } := by
  simp only [applyChange, hw, hkind]
  rfl

theorem applyChange_flip (hkind : w.word.toNat / 2 ^ 61 = 2) :
    applyChange (s.lastTaken cs) x = flipSelector (s.lastTaken cs) w.page := by
  simp only [applyChange, hw, hkind]

/-- The state in which the slot of a zero entry is clear. -/
def State.zeroed (s : State) (slot : Nat) : State := { s with ridge := Memory.clear s.ridge (128 * slot) 128 }

theorem applyChange_zero (hkind : w.word.toNat / 2 ^ 61 = 3) : applyChange (s.lastTaken cs) x =
    dropSlot ((s.lastTaken cs).zeroed (w.word.toNat / 2 ^ 36 % 2 ^ 13)) (w.word.toNat / 2 ^ 36 % 2 ^ 13) := by
  simp only [applyChange, hw, hkind]
  rfl
end

section
variable {s : State} {slot : Nat}

theorem dropSlot_absent (h : lkp s.slots slot = none) : dropSlot s slot = s := by
  simp only [dropSlot, h]

theorem dropSlot_free {z : Slot} (h : lkp s.slots slot = some z) (hcx : z.cx = 0#12) :
    dropSlot s slot = { s with slots := del s.slots slot } := by
  simp only [dropSlot, h, hcx, if_true]

/-- With no request waiting, a slot that its context keeps is idle there. -/
theorem dropSlot_idle {z : Slot} (h : lkp s.slots slot = some z) (hcx : z.cx ≠ 0#12) (hwaits : s.rdgWaits = []) :
    dropSlot s slot = { s with slots := put s.slots slot { cx := z.cx, state := .idle, users := 0, leaving := false } } := by
  simp only [dropSlot, h, hcx, if_false, scanSlots, hwaits, serveSlots, syncTickets]

/-- With no request waiting, what becomes of a slot changes the slots alone. -/
theorem dropSlot_leaves (hwaits : s.rdgWaits = []) : (dropSlot s slot).changes = s.changes ∧ (dropSlot s slot).ridge = s.ridge := by
  cases h : lkp s.slots slot with
  | none => rw [dropSlot_absent h]; exact ⟨rfl, rfl⟩
  | some z =>
    by_cases hcx : z.cx = 0#12
    · rw [dropSlot_free h hcx]; exact ⟨rfl, rfl⟩
    · rw [dropSlot_idle h hcx hwaits]; exact ⟨rfl, rfl⟩
end

/-! ### The obligation -/

/-- Settles O49: occurrences by `mergeWrites`, control words as they go out, and the application of what is due in its total order. -/
theorem ridgeEventsAct : Obligations.RidgeEventsAct := by
  unfold Obligations.RidgeEventsAct
  intro e s due shows answers
  refine ⟨fun g f k toks v hf hcx hit hk hcom => outLater_joins hf hcx hit hk hcom toks v, execRidgeOccurrence_none e,
    fun n slot => execRidgeOccurrence_early e, ?occurrence, execRidgeControlWord_none e, fun c w => execRidgeControlWord_early e,
    fun c w ws h hn hws => ⟨execRidgeControlWord_sends e h hn hws, ?arrival⟩, ?application, ?control⟩
  case occurrence =>
    intro n slot c h hn hc goes ws
    obtain ⟨hchanges, hport, hridge, hmem, htransit⟩ := carried_leaves s n slot c
    refine ⟨carried s n slot c, _, execRidgeOccurrence_carries e h hn hc, hchanges, rfl, rfl, rfl, rfl, rfl, hport, hridge, hmem,
      fun i hi => ?_, fun i old w new hi hws hw hnew => ?_, htransit⟩
    · exact (mask_mergeWrites ws (0, 0) i).trans (by simp)
    · exact (congrArg (fun l => (l.foldl mergeWrite (0, 0)).2.extractLsb' (8 * i) 8) hws).trans (byte_mergeWrites_last _ hi hw hnew)
  case arrival =>
    intro hkind hg num
    rcases hbar : (s.barrier w.cx 4 num 0).arrive (w.word.toNat / 2 ^ 11 % 2 ^ 16) s.cycles with ⟨ph, differs, bar⟩
    exact execRidgeControlWord_arrives e h hn hws hkind hg hbar
  case application =>
    intro hwf hplain
    obtain ⟨u, hexec, hmem, htransit, hchanges, hridge⟩ := execRidgeMirrorApply_applies e fun x hx =>
      ⟨(hplain x hx).1, fun hd => (hplain x hx).2.2 (of_decide_eq_true hd)⟩
    have hdue : ∀ x, x ∈ (sortedChanges s.changes).filter (RidgeChange.due s.beat) ↔ x ∈ s.changes ∧ due x := fun x => by
      rw [List.mem_filter, mem_sortedChanges, RidgeChange.due, decide_eq_true_eq]
    refine ⟨u, hexec, hmem, htransit, fun x => ?_, fun a hnone => ?_, fun a x hx hd hshow hlast => ?_⟩
    · rw [hchanges, RidgeChange.due, decide_eq_true_eq]
    · rw [hridge]
      exact read_foldl_applyBytes_other (fun x hx => hnone x ((hdue x).mp hx).1 ((hdue x).mp hx).2) _
    · rw [hridge]
      exact read_foldl_applyBytes_last ((sortedChanges_sorted _).filter _) ((hdue x).mpr ⟨hx, hd⟩) hshow
        (fun y hy => hlast y ((hdue y).mp hy).1 ((hdue y).mp hy).2) hwf
  case control =>
    intro x w hx hdue hw kind num slot bar
    obtain ⟨cs, f, hexec⟩ := execRidgeMirrorApply_alone e hx (decide_eq_true hdue)
    refine ⟨_, hexec, fun hkind => ?_, fun hkind => ?_, fun hkind hwaits => ?_⟩
    · rw [applyChange_phase s cs hw hkind]
      obtain ⟨hchanges, hridge, hbar⟩ := setBarrier_leaves (s.lastTaken cs)
        { bar with due := bar.due.filter fun d => d.1 != BitVec.ofNat 16 (w.word.toNat / 2 ^ 27) }
      exact ⟨hchanges, hridge, hbar s rfl⟩
    · rw [applyChange_flip s cs hw hkind]
      obtain ⟨hchanges, hridge, hsel⟩ := flipSelector_leaves (s.lastTaken cs) w.page
      exact ⟨hchanges, hridge, hsel s rfl⟩
    · rw [applyChange_zero s cs hw hkind]
      obtain ⟨hchanges, hridge⟩ := dropSlot_leaves (s := (s.lastTaken cs).zeroed slot) (slot := slot) hwaits
      refine ⟨hchanges, hridge, fun hz => ?_, fun z hz hcx => ?_, fun z hz hcx => ?_⟩
      · rw [dropSlot_absent (s := (s.lastTaken cs).zeroed slot) hz]
        rfl
      · rw [dropSlot_free (s := (s.lastTaken cs).zeroed slot) hz hcx]
        rfl
      · rw [dropSlot_idle (s := (s.lastTaken cs).zeroed slot) hz hcx hwaits]
        rfl

end Sys2Proof.Machine
end

section
/-! PROOF. Ridge access and time: RDG.ST, RDG.LD, RDG.WAIT and TICK at issue, and a held RDG.ST at its port (R243 to R246, R337). -/

namespace Sys2Proof.Machine

/-! ### The bytes of a Ridge access (R243) -/

/-- The mask of `n` bytes from byte `lo` names those bytes. -/
theorem getLsbD_maskBits (lo n : Nat) {i : Nat} (hi : i < 128) :
    (maskBits lo n).getLsbD i = (decide (lo ≤ i) && decide (i < lo + n)) := by
  rw [maskBits, BitVec.getLsbD_ofNat, Nat.testBit_mul_two_pow, Nat.testBit_two_pow_sub_one]
  by_cases h : lo ≤ i
  · simp [hi, h, show i - lo < n ↔ i < lo + n by omega]
  · simp [h]

/-- Byte `lo + i` of a write of `n` bytes at byte `lo` of its entry is byte i of its value. -/
theorem byte_placedBytes (x : Payload) {lo n i : Nat} (hi : i < n) (hn : lo + n ≤ 128) :
    (BitVec.ofNat 1024 (x.toNat % 2 ^ (8 * n) * 2 ^ (8 * lo))).extractLsb' (8 * (lo + i)) 8 = x.extractLsb' (8 * i) 8 := by
  refine BitVec.eq_of_getLsbD_eq fun j hj => ?_
  have hbit : 8 * (lo + i) + j - 8 * lo = 8 * i + j := by omega
  rw [BitVec.getLsbD_extractLsb', BitVec.getLsbD_extractLsb', BitVec.getLsbD_ofNat, Nat.testBit_mul_two_pow, hbit,
    Nat.testBit_mod_two_pow, BitVec.testBit_toNat]
  simp [show 8 * (lo + i) + j < 1024 by omega, show 8 * lo ≤ 8 * (lo + i) + j by omega, show 8 * i + j < 8 * n by omega]

/-- An integer comes from the mirror extended, a code as its low bits (R135, R218). -/
theorem ofNat_extendTy (t v : Nat) : BitVec.ofNat 512 (extendTy t v) =
    if t < 8 then (extended t (BitVec.ofNat (tyWidth t) v)).setWidth 512 else BitVec.ofNat 512 (v % 2 ^ tyWidth t) := by
  by_cases h : t < 8
  · simp only [extendTy, tyInt, h, decide_true, if_true]
    rw [ofNat_512_eq (wrap64_lt _ _), wrap64_eq, intVal_eq, ofInt_valueIn]
  · simp [extendTy, tyInt, h]

/-! ### RDG.ST and RDG.LD at issue (R244, R245) -/

section
variable {r : NodeRec} {s : State}

section
variable (hp : firingP s.firing = false) (hroom : waveCount s s.firing.course.toNat s.firing.bay < 1024)
include hp hroom

/-- The checks of an RDG.ST in their order, and its token with its write held. -/
theorem execRdgSt_checks (hact : actsFreely s r (argsOf 1 s.firing 0)) :
    let x := (s.firing.a.getD (plain 0)).word
    exec (.rdgSt r) s = .next (
      if rdgOffOk r = false then memFault s r s.firing kPROT 3 s.firing.cx.toNat x
      else if s.slotUsable s.firing.cx.toNat x = false then memFault s r s.firing kHOLDING 2 s.firing.cx.toNat x
      else sendsPair (holdWrite s 0xAA r) r (s.eBit s.firing) (some ((s.firing.b.getD (plain 0)).val, false)) none) := by
  intro x
  show Host.Outcome.next (actWith s r _ _ _) = _
  rw [actWith_free _ _ hact, waveNode_free _ _ _ hroom]
  simp only [hp, Bool.false_eq_true, if_false, Bool.not_eq_true', emitVals_of _ _ _ _ _ _ (holdWrite_firing s 0xAA r)]
  rfl

/-- The checks of an RDG.LD in their order, and its entry of the wave buffer before it is performed. -/
theorem execRdgLd_checks (hact : actsFreely s r (argsOf 0 s.firing 0)) :
    let c := s.firing.course.toNat
    let x := (s.firing.a.getD (plain 0)).word
    let w := waveIn s 0xAB r true false
    let u := waveIn w 0xAB r true true
    let v := Memory.get (s.mirrorOf c) (128 * x + (rdgSpan r).1) (rdgSpan r).2
    exec (.rdgLd r) s = .next (
      if rdgOffOk r = false then memFault s r s.firing kPROT 3 s.firing.cx.toNat x
      else if s.slotUsable s.firing.cx.toNat x = false then memFault s r s.firing kHOLDING 2 s.firing.cx.toNat x
      else if loadReady w s.firing (litOwn r) then
        sendsAfter u r (BitVec.ofNat 512 (if r.pl then v else extendTy r.ty.toNat v)) false
          (u.accessDelay c s.firing.bay (128 * x) 4)
      else w) := by
  intro c x w u v
  obtain ⟨_, hw⟩ : BaysOnly s w := waveIn_baysOnly ..
  obtain ⟨_, hu⟩ : BaysOnly w u := waveIn_baysOnly ..
  have hmirror : v = Memory.get (w.mirrorOf c) (128 * x + (rdgSpan r).1) (rdgSpan r).2 := by rw [hw]; rfl
  have hdelay : w.accessDelay c s.firing.bay (128 * x) 4 = u.accessDelay c s.firing.bay (128 * x) 4 := by rw [hu]; rfl
  have hfir : u.firing = s.firing := by rw [hu, hw]
  show Host.Outcome.next (actNode s r _ _) = _
  rw [actNode_free _ hact, waveNode_free _ _ _ hroom]
  simp only [hp, Bool.false_eq_true, if_false, Bool.not_eq_true', ← emitAfter_eq, hfir, ← hdelay, hmirror]
  rfl
end

/-! ### Waits (R245, R246) -/

variable (hact : actsFreely s r (argsOf 0 s.firing 0))
include hact

theorem operandA_unmarked : (s.firing.a.getD (plain 0)).p = false := by
  obtain ⟨-, -, -, -, hmark⟩ := hact
  simpa [argsOf, plain] using hmark

/-- An RDG.WAIT beyond what the Ridge can have is a fault; one that every mirror has reached passes. -/
theorem execRdgWait_checks : exec (.rdgWait r) s = .next (
    if s.beat + 1024 < (s.firing.a.getD (plain 0)).word / 8 then
      hardFault s s.firing kPROT 20 s.firing.cx.toNat fun y => { y with addr := BitVec.ofNat 64 (s.firing.a.getD (plain 0)).word }
    else if mirrorHolds s (s.firing.a.getD (plain 0)).word then
      sendsValue s r ((s.firing.a.getD (plain 0)).low 64) false
    else waitAgain s 0xAC r) := by
  show Host.Outcome.next (actNode s r _ _) = _
  rw [actNode_free _ hact]
  simp only [operandA_unmarked hact, Bool.false_eq_true, if_false, emitWord_opnd r _ false (rfl : s.firing = s.firing)]

theorem execTickUntil_passes (ht : (s.tick - (s.firing.a.getD (plain 0)).low 64).msb = false) :
    exec (.tickUntil r) s = .next (sendsValue s r ((s.firing.a.getD (plain 0)).low 64) false) := by
  have hreached : tickReached s (s.firing.a.getD (plain 0)).word = true := by
    rw [tickReached_iff]
    have hhalf := BitVec.msb_eq_false_iff_two_mul_lt.mp ht
    omega
  show Host.Outcome.next (actNode s r _ _) = _
  rw [actNode_free _ hact]
  simp only [operandA_unmarked hact, hreached, Bool.false_eq_true, if_false, if_true,
    emitWord_opnd r _ false (rfl : s.firing = s.firing)]
end

/-! ### A held RDG.ST at its port (R244, R337 to R339) -/

/-- The write that an RDG.ST queues at its course's port. -/
def queuedWrite (s : State) (r : NodeRec) (g : Firing) : RidgeWrite where
  slot := (g.a.getD (plain 0)).word
  mask := maskBits (rdgSpan r).1 (rdgSpan r).2
  data := BitVec.ofNat 1024 ((g.b.getD (plain 0)).val.toNat % 2 ^ (8 * (rdgSpan r).2) * 2 ^ (8 * (rdgSpan r).1))
  cx := g.cx
  str := s.strandOf g
  toks := laterToks s r g false true
  beat := s.beat
  sender := some g

/-- A slot lost since the issue is a fault at its home; the write waits for its turn as a release and for room at the port. -/
theorem performRdgSt_checks {s : State} {r : NodeRec} {g : Firing} (hp : firingP g = false) : performRdgSt s (pendOf 0xAA r g) =
    if s.slotUsable g.cx.toNat (g.a.getD (plain 0)).word = false then
      .home kHOLDING 2 g.cx.toNat (g.a.getD (plain 0)).word
    else if litOrd r = 2 ∧ ridgeHeld s g.course.toNat g.cx (s.strandOf g) = true then .waits
    else if 256 ≤ (s.crs g.course.toNat).port.length then .waits
    else .done (s.modCrs g.course.toNat fun y => { y with port := y.port ++ [queuedWrite s r g] }) := by
  unfold performRdgSt
  simp only [pendOf_r, pendOf_fir, hp, Bool.false_eq_true, if_false, Bool.not_eq_true']
  rfl

/-! ### The obligation -/

/-- Settles O17: the checks of each record in their order, then the bytes of an access within its entry. -/
theorem ridgeAndTimeInstructionsAct : Obligations.RidgeAndTimeInstructionsAct := by
  unfold Obligations.RidgeAndTimeInstructionsAct
  intro r s g c a x b lo n v
  have hspan : rdgSpan r = (lo, n) := by
    simp only [rdgSpan, ctlBytes, lo, n]
    split <;> rfl
  refine ⟨congrArg _ ((ctlNode_eq s r _).trans (by rw [BitVec.ofNat_toNat, BitVec.setWidth_eq])), fun hst hld hp => ?issue,
    fun hp => ?port⟩
  case issue =>
    refine ⟨fun hoff hroom => ?_, fun hoff hslot hroom => ?_, fun hoff hslot hroom => ⟨?_, fun hready => ?_⟩,
      fun hnear hbeat hchanges => ?_, fun hfar => ?_, execTickUntil_passes hld⟩
    · exact ⟨(execRdgSt_checks hp hroom hst).trans (congrArg _ (if_pos hoff)),
        (execRdgLd_checks hp hroom hld).trans (congrArg _ (if_pos hoff))⟩
    · have hon := ne_false_of_eq_true hoff
      exact ⟨(execRdgSt_checks hp hroom hst).trans (congrArg _ ((if_neg hon).trans (if_pos hslot))),
        (execRdgLd_checks hp hroom hld).trans (congrArg _ ((if_neg hon).trans (if_pos hslot)))⟩
    · exact (execRdgSt_checks hp hroom hst).trans
        (congrArg _ ((if_neg (ne_false_of_eq_true hoff)).trans (if_neg (ne_false_of_eq_true hslot))))
    · refine (execRdgLd_checks hp hroom hld).trans (congrArg _ ((if_neg (ne_false_of_eq_true hoff)).trans
        ((if_neg (ne_false_of_eq_true hslot)).trans ((if_pos hready).trans ?_))))
      rw [hspan]
      congr 1
      split
      · rfl
      · exact ofNat_extendTy _ _
    · have hheld : mirrorHolds s x = true := by
        simpa [mirrorHolds, hbeat] using hchanges
      rw [execRdgWait_checks hld, if_neg (Nat.not_lt.mpr hnear), if_pos hheld]
    · rw [execRdgWait_checks hld, if_pos hfar]
  case port =>
    refine ⟨fun hslot => (performRdgSt_checks hp).trans (if_pos hslot), fun hslot hfull => ?_,
      fun hslot hroom hfree => ⟨queuedWrite s r g, ?_, rfl, rfl, rfl, rfl, fun i hi => ?_, fun i hi hn => ?_⟩⟩
    · rw [performRdgSt_checks hp, if_neg (ne_false_of_eq_true hslot), if_pos hfull, ite_self]
    · have hturn : ¬ (litOrd r = 2 ∧ ridgeHeld s c g.cx (s.strandOf g) = true) := fun h => by simp [hfree h.1] at h
      rw [performRdgSt_checks hp, if_neg (ne_false_of_eq_true hslot), if_neg hturn, if_neg (Nat.not_le.mpr hroom)]
    · rw [queuedWrite, hspan]
      exact getLsbD_maskBits lo n hi
    · rw [queuedWrite, hspan]
      exact byte_placedBytes b.val hi hn

end Sys2Proof.Machine
end

section
/-! PROOF. The power controller, the sleep of courses, the pod time base and bring-up (R345 to R347, R450 to R454). -/

namespace Sys2Proof.Machine

/-! ### Steps of the courses (R451) -/

theorem State.crs_modCrs_other (s : State) {c k : Nat} (f : Course → Course) (h : k ≠ c) : (s.modCrs c f).crs k = s.crs k := by
  rw [State.crs, State.modCrs_courses, lkp_put_other _ _ h, State.crs]

/-- The better of the best course so far and the next. -/
def betterCourse (f : Nat → Nat) (m : Option Nat) (c : Nat) : Option Nat :=
  match m with
  | none => some c
  | some x => if f x < f c then some c else some x

theorem bestCourse_eq_foldl (f : Nat → Nat) (cs : List Nat) : bestCourse f cs = cs.foldl (betterCourse f) none := rfl

/-- The best course is one of those looked at, or the one that stood before them. -/
theorem foldl_betterCourse_mem {f : Nat → Nat} {cs : List Nat} {m : Option Nat} {x : Nat}
    (h : cs.foldl (betterCourse f) m = some x) : x ∈ cs ∨ m = some x := by
  induction cs generalizing m with
  | nil => exact .inr h
  | cons k cs ih =>
    rcases ih h with hx | hx
    · exact .inl (List.mem_cons_of_mem _ hx)
    · cases m with
      | none => exact .inl (by simp_all [betterCourse])
      | some y =>
        simp only [betterCourse] at hx
        split at hx
        · exact .inl (by simp_all)
        · exact .inr hx

theorem foldl_betterCourse_keeps {f : Nat → Nat} {cs : List Nat} {c : Nat} (h : ∀ k ∈ cs, f k ≤ f c) :
    cs.foldl (betterCourse f) (some c) = some c := by
  induction cs with
  | nil => rfl
  | cons k cs ih =>
    rw [List.foldl_cons, betterCourse, if_neg (Nat.not_lt.mpr (h k List.mem_cons_self)),
      ih fun j hj => h j (List.mem_cons_of_mem _ hj)]

/-- Of courses in their order the best is that of greatest value, ties to the lower number. -/
theorem bestCourse_of {f : Nat → Nat} {cs : List Nat} {c : Nat} (hsort : cs.Pairwise (· < ·)) (hc : c ∈ cs)
    (hbest : ∀ k ∈ cs, k ≠ c → f k < f c ∨ (f k = f c ∧ c < k)) : bestCourse f cs = some c := by
  obtain ⟨pre, post, rfl⟩ := List.append_of_mem hc
  have hpre : ∀ k ∈ pre, f k < f c := fun k hk => by
    have hlt : k < c := (List.pairwise_append.mp hsort).2.2 k hk c List.mem_cons_self
    have := hbest k (List.mem_append_left _ hk) hlt.ne
    omega
  have hpost : ∀ k ∈ post, f k ≤ f c := fun k hk => by
    by_cases hkc : k = c
    · rw [hkc]
    · have := hbest k (List.mem_append_right _ (List.mem_cons_of_mem _ hk)) hkc
      omega
  have hstep : betterCourse f (pre.foldl (betterCourse f) none) c = some c := by
    cases hm : pre.foldl (betterCourse f) none with
    | none => rfl
    | some x =>
      obtain hx | hx := foldl_betterCourse_mem hm
      · exact if_pos (hpre x hx)
      · cases hx
  rw [bestCourse_eq_foldl, List.foldl_append, List.foldl_cons, hstep, foldl_betterCourse_keeps hpost]

theorem bestCourse_among {f : Nat → Nat} {p : Nat → Bool} {c : Nat} (hc : c < 16) (hp : p c = true)
    (hbest : ∀ k, k < 16 → k ≠ c → p k = true → f k < f c ∨ (f k = f c ∧ c < k)) :
    bestCourse f ((List.range 16).filter p) = some c := by
  refine bestCourse_of (List.pairwise_lt_range.filter _) (List.mem_filter.mpr ⟨List.mem_range.mpr hc, hp⟩) fun k hk hne => ?_
  obtain ⟨hlt, hpk⟩ := List.mem_filter.mp hk
  exact hbest k (List.mem_range.mp hlt) hne hpk

theorem since_iff {s : State} {last n : Nat} : since s last n = true ↔ last = 0 ∨ last + n ≤ s.tick.toNat := by
  simp [since]

section
variable (e : EvArgs) {s : State} {c : Nat} (hc : c < 16)
include hc

/-- The hottest course over 105 °C is the one whose step is lowered. -/
theorem lowerChoice_hot (hhot : 105 < tempOf s c)
    (hbest : ∀ k, k < 16 → k ≠ c → 105 < tempOf s k → tempOf s k < tempOf s c ∨ (tempOf s k = tempOf s c ∧ c < k)) :
    lowerChoice s = some c := by
  have hne : ((List.range 16).filter fun k => decide (105 < tempOf s k)).isEmpty = false := by
    rw [List.isEmpty_eq_false_iff_exists_mem]
    exact ⟨c, List.mem_filter.mpr ⟨List.mem_range.mpr hc, decide_eq_true hhot⟩⟩
  simp only [lowerChoice, hne, Bool.false_eq_true, if_false]
  exact bestCourse_among hc (decide_eq_true hhot) fun k hk hkc hpk => hbest k hk hkc (of_decide_eq_true hpk)

/-- With no course over 105 °C it is the one of highest step. -/
theorem lowerChoice_cool (hcool : ∀ k, k < 16 → ¬ 105 < tempOf s k)
    (hbest : ∀ k, k < 16 → k ≠ c → (s.crs k).step < (s.crs c).step ∨ ((s.crs k).step = (s.crs c).step ∧ c < k)) :
    lowerChoice s = some c := by
  have hnone : (List.range 16).filter (fun k => decide (105 < tempOf s k)) = [] :=
    List.filter_eq_nil_iff.mpr fun k hk => by simpa using hcool k (List.mem_range.mp hk)
  simp only [lowerChoice, hnone, List.isEmpty_nil, if_true]
  exact bestCourse_of List.pairwise_lt_range (List.mem_range.mpr hc) fun k hk => hbest k (List.mem_range.mp hk)

theorem execPermitStepLower_lowers (hsince : s.telem.lastLower = 0 ∨ s.telem.lastLower + 10000 ≤ s.tick.toNat)
    (hover : overLimit s = true ∨ 105 < tempOf s c) (hchoice : lowerChoice s = some c) : exec (.permitStepLower e) s = .next
      (({ s with telem := { s.telem with lastLower := max 1 s.tick.toNat } } : State).modCrs c fun y =>
        { y with step := y.step - 1 }) := by
  have hdue : (overLimit s || (List.range 16).any fun k => decide (105 < tempOf s k)) = true := by
    rw [Bool.or_eq_true, List.any_eq_true]
    exact hover.imp_right fun hhot => ⟨c, List.mem_range.mpr hc, decide_eq_true hhot⟩
  show execPermitStepLower e s = _
  simp only [execPermitStepLower, hdue, since_iff.mpr hsince, Bool.and_self, hchoice]

/-- The course of lowest step whose burst waits is the one that is raised. -/
theorem execPermitStepRaise_raises (hsince : s.telem.lastRaise = 0 ∨ s.telem.lastRaise + 100000 ≤ s.tick.toNat)
    (hunder : underLimit s = true) (hcool : ∀ k, k < 16 → tempOf s k ≤ 100) (hwaits : burstWaits s c = true)
    (hlowest : ∀ k, k < 16 → k ≠ c → burstWaits s k = true →
      (s.crs c).step < (s.crs k).step ∨ ((s.crs k).step = (s.crs c).step ∧ c < k))
    (hsteps : ∀ k, k < 16 → (s.crs k).step ≤ 8) : exec (.permitStepRaise e) s = .next
      (({ s with telem := { s.telem with lastRaise := max 1 s.tick.toNat } } : State).modCrs c fun y =>
        { y with step := min 8 (y.step + 1) }) := by
  have hall : ((List.range 16).all fun k => decide (tempOf s k ≤ 100)) = true :=
    List.all_eq_true.mpr fun k hk => decide_eq_true (hcool k (List.mem_range.mp hk))
  have hchoice : bestCourse (fun k => 8 - (s.crs k).step) ((List.range 16).filter (burstWaits s)) = some c :=
    bestCourse_among hc hwaits fun k hk hkc hw => by
      have := hlowest k hk hkc hw
      have := hsteps k hk
      have := hsteps c hc
      omega
  show execPermitStepRaise e s = _
  simp only [execPermitStepRaise, hunder, hall, since_iff.mpr hsince, Bool.and_self, hchoice]
end

/-! ### Sleep (R345 to R347, R453) -/

section
variable {e : EvArgs} {s : State}

theorem execCourseRetentionEnter_sleeps (hquiet : courseQuiet s e.course.toNat = true)
    (hneed : courseNeeded s e.course.toNat = false) (hpower : (s.crs e.course.toNat).power = .awake)
    (hwhole : (s.crs e.course.toNat).failed = false) (hpolicy : s.policy.sleep.getLsbD 0 = true)
    (hlong : (s.crs e.course.toNat).quietSince + 100000 ≤ s.tick.toNat) :
    exec (.courseRetentionEnter e) s =
      .next (s.modCrs e.course.toNat fun y => { y with power := .retention, retainedAt := s.tick.toNat }) := by
  show execCourseRetentionEnter e s = _
  simp [execCourseRetentionEnter, hquiet, hneed, hpower, hwhole, bitAt_eq, hpolicy, hlong]

theorem execCourseOffEnter_goesOff (hquiet : courseQuiet s e.course.toNat = true)
    (hneed : courseNeeded s e.course.toNat = false) (hpower : (s.crs e.course.toNat).power = .retention)
    (hwaking : (s.crs e.course.toNat).waking = none) (hpolicy : s.policy.sleep.getLsbD 1 = true)
    (hbacked : backedOn s e.course.toNat = false) (hlong : (s.crs e.course.toNat).retainedAt + 10000000 ≤ s.tick.toNat) :
    exec (.courseOffEnter e) s = .next ((beginJournal s).modCrs e.course.toNat fun y =>
        { y with power := .off, mirror := some s.ridge, lastBeat := s.beat - 4 }) := by
  show execCourseOffEnter e s = _
  simp [execCourseOffEnter, hquiet, hneed, hpower, hwaking, bitAt_eq, hpolicy, hbacked, hlong]

/-- The Plate's journal begins with what the mirrors have yet to apply, unless another course is off (R346). -/
theorem beginJournal_spec (s : State) : (beginJournal s).mem = s.mem ∧
    (journalling s = false → (beginJournal s).journal = s.changes) ∧
    (journalling s = true → (beginJournal s).journal = s.journal) := by
  unfold beginJournal
  split
  case isTrue h => exact ⟨rfl, fun hno => (ne_false_of_eq_true h hno).elim, fun _ => rfl⟩
  case isFalse h => exact ⟨rfl, fun _ => rfl, fun hyes => absurd hyes h⟩

theorem touchRange_crs (s : State) (lo n c : Nat) : (touchRange s lo n).crs c = s.crs c := by
  have h : KeepsHeaps s (touchRange s lo n) := .foldl (fun t _ => touchLine_keepsHeaps t _) _ s
  rw [State.crs, h.courses, State.crs]

theorem startWake_retention {c : Nat} (hwaking : (s.crs c).waking = none) (hpower : (s.crs c).power = .retention) :
    startWake s c = s.modCrs c fun y => { y with waking := some (s.cycles + 2800, s.cycles + 2800) } := by
  simp [startWake, hwaking, hpower]

/-- A wake from off takes 50 µs and at most 512 beats, and begins with the course's SRAM zero. -/
theorem startWake_off {c : Nat} (hwaking : (s.crs c).waking = none) (hpower : (s.crs c).power = .off) :
    (startWake s c).crs c = { s.crs c with waking := some (s.cycles + 70000, s.cycles + 71024) } ∧
      (startWake s c).mem = Memory.clear s.mem (nearPA c 0 0) (2 ^ 28) := by
  have h : startWake s c = ({ touchRange s (nearPA c 0 0) (2 ^ 28) with
      mem := Memory.clear (touchRange s (nearPA c 0 0) (2 ^ 28)).mem (nearPA c 0 0) (2 ^ 28) } : State).modCrs c fun y =>
        { y with waking := some (s.cycles + 70000, s.cycles + 71024) } := by
    simp only [startWake, hwaking, hpower, Option.isSome_none, Bool.false_eq_true, if_false]
    rw [← touchRange_cycles s (nearPA c 0 0) (2 ^ 28)]
  rw [h, State.crs_modCrs, State.modCrs_mem, touchRange_mem]
  exact ⟨congrArg (fun y : Course => { y with waking := some (s.cycles + 70000, s.cycles + 71024) }) (touchRange_crs s _ _ c), rfl⟩

theorem execCourseWake_begins (hwaking : (s.crs e.course.toNat).waking = none) (hneed : courseNeeded s e.course.toNat = true) :
    exec (.courseWake e) s = .next (startWake s e.course.toNat) := by
  show execCourseWake e s = _
  simp only [execCourseWake, hwaking, hneed, if_true]

theorem execCourseWake_waking {t d : Nat} (hwaking : (s.crs e.course.toNat).waking = some (t, d)) :
    exec (.courseWake e) s = .next (if t ≤ s.cycles then endWake s e.course.toNat else s) := by
  show execCourseWake e s = _
  simp only [execCourseWake, hwaking]

theorem crs_endWake (s : State) (c : Nat) : (endWake s c).crs c = { s.crs c with
    power := .awake
    mirror := if (s.crs c).power = .off ∧ caughtUp s (s.crs c) ≠ s.ridge then some (caughtUp s (s.crs c)) else none
    waking := none
    issueFrom := s.beat + 4
    quietSince := s.tick.toNat } := State.crs_modCrs ..
end

/-! ### Bring-up (R454) -/

/-- A stack that is up, or has not begun, enters phase 1. -/
theorem execPowerGood_enters {s : State} (h : s.sideband.phase.toNat = 0 ∨ 7 ≤ s.sideband.phase.toNat) :
    exec .powerGood s = .next (powerOn s) := by
  show execPowerGood s = _
  simp only [execPowerGood, if_pos h]

/-- A bring-up under way goes to its next phase, which leaves memory; the step to phase 6 takes the pod's routes and time. -/
theorem execPowerGood_advances {s : State} (h0 : 0 < s.sideband.phase.toNat) (h7 : s.sideband.phase.toNat < 7) :
    ∃ u, exec .powerGood s = .next u ∧
      u.sideband = { s.sideband with phase := BitVec.ofNat 4 (s.sideband.phase.toNat + 1), ready := s.sideband.phase.toNat == 6 } ∧
      u.mem = s.mem ∧ (s.sideband.phase.toNat = 5 → u.reach = Config.podReach ∧ u.tick = Config.podTick s.fresh) ∧
      (s.sideband.phase.toNat ≠ 5 → u.reach = s.reach ∧ u.tick = s.tick) := by
  show ∃ u, execPowerGood s = .next u ∧ _
  simp only [execPowerGood, if_neg (show ¬ (s.sideband.phase.toNat = 0 ∨ 7 ≤ s.sideband.phase.toNat) by omega)]
  split
  · next h5 => exact ⟨_, rfl, rfl, rfl, fun h => by omega, fun _ => ⟨rfl, rfl⟩⟩
  · next h6 => exact ⟨_, rfl, rfl, rfl, fun _ => ⟨rfl, rfl⟩, fun h => by omega⟩
  · next h6 => exact ⟨_, rfl, rfl, rfl, fun h => absurd (by omega) h6, fun _ => ⟨rfl, rfl⟩⟩

end Sys2Proof.Machine
end

section
/-! PROOF. Memory errors, downpipes, links and failed courses (R393 to R401, R449), and the obligation of power and errors. -/

namespace Sys2Proof.Machine

/-- A number noted in a list, once. -/
theorem mem_notedOnce (l : List Nat) (n : Nat) : n ∈ (if l.contains n then l else l ++ [n]) ∧
    ∀ k ∈ l, k ∈ (if l.contains n then l else l ++ [n]) := by
  split
  case isTrue h => exact ⟨List.contains_iff_mem.mp h, fun k hk => hk⟩
  case isFalse => exact ⟨List.mem_append_right _ List.mem_cons_self, fun k hk => List.mem_append_left _ hk⟩

/-! ### Scrubbing (R393, R395) -/

theorem guardCheck_eq (s : State) (c b g cx : Nat) (on : Bool) (ft : BitVec 12) (it : BitVec 16) (str : BitVec 11) :
    ∃ notes, guardCheck s c b g cx on ft it str = { s with guardNotes := notes } := by
  unfold guardCheck
  extract_lets bs noted
  split
  · split
    · exact ⟨s.guardNotes, rfl⟩
    · exact ⟨_, rfl⟩
  · exact ⟨s.guardNotes, rfl⟩

/-- The check of a guard granule leaves at most a note. -/
theorem guardOf_eq (s : State) (c b pid : Nat) (id : AllocId) : ∃ notes, guardOf s c b pid id = { s with guardNotes := notes } := by
  unfold guardOf
  split
  · exact guardCheck_eq ..
  · exact ⟨s.guardNotes, rfl⟩

theorem foldl_guardOf_eq (c b : Nat) (l : List (Nat × AllocId)) (s : State) :
    ∃ notes, l.foldl (fun (s : State) (a : Nat × AllocId) => guardOf s c b a.1 a.2) s = { s with guardNotes := notes } := by
  induction l generalizing s with
  | nil => exact ⟨s.guardNotes, rfl⟩
  | cons a l ih =>
    obtain ⟨notes, hs⟩ := guardOf_eq s c b a.1 a.2
    rw [List.foldl_cons, hs]
    exact ih _

/-- One more round of the scrubber, with the corrected errors that it met. -/
def State.scrubbedOnce (s : State) (corrected : Nat) : State :=
  { s with telem := { s.telem with scrubbed := s.telem.scrubbed + 1, corrected := s.telem.corrected + corrected } }

theorem crs_scrubbedOnce (s : State) (corrected c : Nat) : (s.scrubbedOnce corrected).crs c = s.crs c := rfl

section
variable {e : EvArgs} (s : State)

theorem execScrub_bay (h : e.unit.toNat / 256 = 0) : ∃ notes, exec (.scrub e) s = .next
    ((({ s with guardNotes := notes } : State).modBay e.course.toNat (e.unit.toNat % 256) fun y =>
      { y with lastScrub := s.tick.toNat }).scrubbedOnce e.aux.toNat) := by
  obtain ⟨notes, hnotes⟩ := foldl_guardOf_eq e.course.toNat (e.unit.toNat % 256)
    (bayAllocs (s.bay e.course.toNat (e.unit.toNat % 256))) s
  refine ⟨notes, ?_⟩
  show execScrub e s = _
  simp only [execScrub, h, hnotes]
  rfl

theorem execScrub_mirror (h : e.unit.toNat / 256 = 1) : exec (.scrub e) s = .next
    ((s.modCrs e.course.toNat fun y => { y with mirrorScrub := s.tick.toNat }).scrubbedOnce e.aux.toNat) := by
  show execScrub e s = _
  simp only [execScrub, h]
  rfl

theorem execScrub_thatch (h : 2 ≤ e.unit.toNat / 256) : exec (.scrub e) s = .next
    (({ s with telem := { s.telem with lastThatch := s.tick.toNat } } : State).scrubbedOnce e.aux.toNat) := by
  obtain ⟨n, hn⟩ := Nat.exists_eq_add_of_le' h
  show execScrub e s = _
  simp only [execScrub, hn]
  rfl
end

/-! ### Uncorrectable words (R396) -/

/-- The place that `k` names decides what an uncorrectable word costs. -/
theorem execUncorrectableError_of {e : EvArgs} {k : BitVec 16} (h : e.k = k) (s : State) :
    exec (.uncorrectableError e) s = exec (.uncorrectableError { e with k := k }) s := by rw [← h]

/-- A row without a frame is retired, and no more. -/
theorem loseFrame_absent {s : State} {c b ft : Nat} (h : s.frame? c b ft = none) : loseFrame s c b ft =
    s.modBay c b fun y => { y with retiredRows := if y.retiredRows.contains ft then y.retiredRows else y.retiredRows ++ [ft] } := by
  unfold loseFrame
  extract_lets t
  have hframe : t.frame? c b ft = none := by rw [State.frame?_of_frames (State.frames_modBay s c b (by intro y; rfl) c b), h]
  rw [hframe]

theorem lkp_damaged (l : List (Nat × Plane)) (n i : Nat) :
    lkp (l.map fun p => if p.1 = n then (p.1, { p.2 with damaged := true }) else p) i =
      if i = n then (lkp l i).map fun p => { p with damaged := true } else lkp l i := by
  rw [lkp_map_entries _ fun p => by split <;> rfl]
  by_cases h : i = n
  · simp only [h, if_true]
  · simp only [h, if_false, Option.map_id']

/-! ### Failed courses (R400) -/

/-- Where a course's contents stand, and what travels to it. -/
def State.contents (s : State) : List Host.Cell × List (Nat × Element) × List Transit × List (Nat × Course) :=
  (s.mem, s.elements, s.transit, s.courses)

theorem enterFault_contents (s : State) (h : Nat) (rc : FaultRec) (site : Site) : (enterFault s h rc site).contents = s.contents := by
  unfold enterFault
  extract_lets hb x rc' s'
  split
  · simp [State.contents, s']
  · split <;> simp [State.contents]

theorem dataLost_contents (s : State) (cx scope : Nat) (upd : FaultRec → FaultRec) :
    (dataLost s cx scope upd).contents = s.contents := by
  unfold dataLost notice
  split
  · rfl
  · extract_lets rc
    split
    · rfl
    · exact enterFault_contents ..

/-- After a course has failed its bay stores read 0, no element stands on it, and nothing travels to it. -/
theorem wipeCourse_contents (s : State) (c : Nat) :
    ∃ (m : List Host.Cell) (els : List (Nat × Element)) (ts : List Transit) (cs : List (Nat × Course)), (wipeCourse s c).contents =
    (Memory.clear m (nearPA c 0 0) (2 ^ 28), els.filter fun e => e.1 / 8192 != c, ts.filter fun t => t.course.toNat != c,
      put cs c { Course.empty with failed := true }) := ⟨_, _, _, _, rfl⟩

/-- The marks of its pages and the notices to its users leave what stands there. -/
theorem execCourseFail_contents (e : EvArgs) {s : State} (h : (s.crs e.course.toNat).failed = false) :
    ∃ u v, exec (.courseFail e) s = .next u ∧ u.contents = (wipeCourse v e.course.toNat).contents := by
  show ∃ u v, execCourseFail e s = .next u ∧ _
  simp only [execCourseFail, h, Bool.false_eq_true, if_false]
  refine ⟨_, (s.kernels.filter fun k => k.state != .ended && kernelOn s k e.course.toNat).foldl
    (fun s k => endKernel s k .killed 0 0) s, rfl, ?_⟩
  exact (foldl_keeps State.contents (fun t cx => dataLost_contents t cx 3 _) ..).trans
    (foldl_keeps State.contents (fun _ _ => by rfl) ..)

theorem read_clear {m : List Host.Cell} {a n x : Nat} (h1 : a ≤ x) (h2 : x < a + n) : Memory.read (Memory.clear m a n) x = 0#8 := by
  rw [Memory.read, Memory.clear, lkp_filter_key fun k => !(decide (a ≤ k) && decide (k < a + n))]
  simp [h1, h2]

/-- A failed course has lost its state, and nothing stands on it or travels to it. -/
theorem execCourseFail_fails (e : EvArgs) {s : State} (hwhole : (s.crs e.course.toNat).failed = false) :
    let c := e.course.toNat
    ∃ u, exec (.courseFail e) s = .next u ∧ (u.crs c).failed = true ∧ (u.crs c).holder = none ∧
      (∀ a, nearPA c 0 0 ≤ a → a < nearPA c 0 0 + 2 ^ 28 → Memory.read u.mem a = 0#8) ∧
      (∀ el ∈ u.elements, el.1 / 8192 ≠ c) ∧ ∀ t ∈ u.transit, t.course.toNat ≠ c := by
  intro c
  obtain ⟨u, v, hexec, hcontents⟩ := execCourseFail_contents e hwhole
  obtain ⟨m, els, ts, cs, hwipe⟩ := wipeCourse_contents v c
  obtain ⟨hmem, hels, hts, hcs⟩ : u.mem = _ ∧ u.elements = _ ∧ u.transit = _ ∧ u.courses = _ := by
    simpa only [State.contents, Prod.mk.injEq] using hcontents.trans hwipe
  have hcrs : u.crs c = { Course.empty with failed := true } := by rw [State.crs, hcs, lkp_put_same]; rfl
  refine ⟨u, hexec, by rw [hcrs], by rw [hcrs]; rfl, fun a h1 h2 => by rw [hmem, read_clear h1 h2], fun el hel => ?_,
    fun t ht => ?_⟩
  · rw [hels] at hel
    simpa using (List.mem_filter.mp hel).2
  · rw [hts] at ht
    simpa using (List.mem_filter.mp ht).2

/-! ### The obligation -/

/-- Settles O53: each event as its conditions let it act; of a failed course the wipe comes after all that could leave something on
it. -/
theorem powerAndErrorEventsAct : Obligations.PowerAndErrorEventsAct := by
  unfold Obligations.PowerAndErrorEventsAct
  refine ⟨fun e s => ?power, fun e s => ?errors⟩
  case power =>
    intro c y steps hot cool highest hottest lowest quiet p
    have hc : c < 16 := e.course.isLt
    refine ⟨⟨_, _, rfl, rfl, rfl, rfl, rfl⟩, fun hsince hwhich => ?lower, fun hsince hunder hcool hwaits hlow hsteps => ?raise,
      fun ⟨hquiet, hneed⟩ hpower hwhole hpolicy hlong =>
        execCourseRetentionEnter_sleeps hquiet hneed hpower hwhole hpolicy hlong,
      fun ⟨hquiet, hneed⟩ hpower hwaking hpolicy hbacked hlong => ?off,
      fun hneed hwaking => ⟨fun hpower => ?wakeRetention, fun hpower => ?wakeOff⟩,
      fun t d hwaking => ⟨fun hearly => ?early, fun hdue => ?awake⟩,
      ⟨_, rfl, le_max_left _ _, max_le (by decide) (min_le_left _ _), rfl, rfl⟩,
      fun hp => ⟨_, execPowerGood_enters hp, rfl, rfl, rfl, rfl⟩, fun h0 h7 => ?phase⟩
    case lower =>
      have hchoice : lowerChoice s = some c := by
        rcases hwhich with ⟨hhot, hbest⟩ | ⟨hcool, hbest, -⟩
        · exact lowerChoice_hot hc hhot hbest
        · exact lowerChoice_cool hc hcool hbest
      have hover : overLimit s = true ∨ 105 < tempOf s c := hwhich.elim (fun h => .inr h.1) fun h => .inl h.2.2
      refine ⟨_, execPermitStepLower_lowers e hc hsince hover hchoice, ?_, rfl,
        fun k hk => congrArg Course.step (State.crs_modCrs_other _ _ hk)⟩
      rw [State.crs_modCrs]
      rfl
    case raise =>
      refine ⟨_, execPermitStepRaise_raises e hc hsince hunder hcool hwaits hlow hsteps, ?_,
        fun k hk => congrArg Course.step (State.crs_modCrs_other _ _ hk)⟩
      rw [State.crs_modCrs]
      rfl
    case off =>
      obtain ⟨hmem, hjournal⟩ := beginJournal_spec s
      refine ⟨_, execCourseOffEnter_goesOff hquiet hneed hpower hwaking hpolicy hbacked hlong, ?_, ?_, ?_, hmem, hjournal⟩ <;>
        rw [State.crs_modCrs]
    case wakeRetention => rw [execCourseWake_begins hwaking hneed, startWake_retention hwaking hpower]
    case wakeOff =>
      obtain ⟨hcrs, hmem⟩ := startWake_off hwaking hpower
      refine ⟨_, execCourseWake_begins hwaking hneed, ?_, ?_, hmem⟩ <;> rw [hcrs]
      exact hpower
    case early => rw [execCourseWake_waking hwaking, if_neg (Nat.not_le.mpr hearly)]
    case awake =>
      refine ⟨_, (execCourseWake_waking hwaking).trans (congrArg _ (if_pos hdue)), ?_, ?_, ?_, rfl, fun h => ?_,
        fun h1 h2 => ?_⟩ <;> rw [crs_endWake]
      · exact if_neg fun hno => h.elim (absurd hno.1) hno.2
      · exact if_pos ⟨h1, h2⟩
    case phase =>
      obtain ⟨u, hexec, hside, hmem, hfive, hother⟩ := execPowerGood_advances h0 h7
      refine ⟨u, hexec, ?_, ?_, hmem, ?_, hfive, hother⟩ <;> rw [hside]
      · exact (BitVec.toNat_ofNat ..).trans (Nat.mod_eq_of_lt (by omega))
      · exact beq_iff_eq
  case errors =>
    intro c b x s1 pipe
    refine ⟨?scrub, fun hk => (execUncorrectableError_of hk s).trans rfl, fun hk hrow => ?row,
      fun hk => (execUncorrectableError_of hk s).trans rfl, fun hk hon => ?mirror, fun hk p hp => ?plane, fun hk hx => ?far,
      fun hpipe => ?drains, fun hpipe => ?drained, rfl, rfl, ?link, execCourseFail_fails e⟩
    case scrub =>
      obtain h | h | h : e.unit.toNat / 256 = 0 ∨ e.unit.toNat / 256 = 1 ∨ 2 ≤ e.unit.toNat / 256 := by omega
      · obtain ⟨notes, hexec⟩ := execScrub_bay s h
        exact ⟨_, hexec, rfl, rfl, rfl, fun _ => rfl, fun h' => by omega, fun h' => by omega⟩
      · refine ⟨_, execScrub_mirror s h, rfl, rfl, rfl, fun h' => by omega, fun _ => ⟨rfl, ?_⟩, fun h' => by omega⟩
        rw [crs_scrubbedOnce, State.crs_modCrs]
      · exact ⟨_, execScrub_thatch s h, rfl, rfl, rfl, fun h' => by omega, fun h' => by omega, fun _ => ⟨rfl, rfl⟩⟩
    case row =>
      refine ⟨_, (execUncorrectableError_of hk s).trans (congrArg Host.Outcome.next (loseFrame_absent (s := s1) hrow)), ?_, rfl,
        rfl⟩
      rw [State.bay_modBay]
      exact (mem_notedOnce _ _).1
    case mirror =>
      exact (execUncorrectableError_of hk s).trans (congrArg Host.Outcome.next (if_neg fun hoff => hon (beq_iff_eq.mp hoff)))
    case plane =>
      refine ⟨_, (execUncorrectableError_of hk s).trans rfl, ?_, fun n hn => ?_, rfl⟩
      · exact (lkp_damaged ..).trans ((if_pos rfl).trans (by rw [hp]; rfl))
      · exact (lkp_damaged ..).trans (if_neg hn)
    case far => exact (execUncorrectableError_of hk s).trans (congrArg Host.Outcome.next (if_pos hx))
    case link =>
      obtain ⟨hnew, hold⟩ := mem_notedOnce s.telem.lostLinks (e.unit.toNat % 16)
      exact ⟨_, rfl, rfl, rfl, rfl, rfl, hnew, hold⟩
    case drains => exact congrArg Host.Outcome.next (if_neg (by simpa using hpipe))
    case drained => exact congrArg Host.Outcome.next (if_pos (by simpa using hpipe))

end Sys2Proof.Machine
end

section
/-! PROOF. What keeps the memories in canonical form: the shapes of the model's operations, and the updates of State. -/

namespace Sys2Proof.Machine

section
variable {s t u : State}

/-- A change of other fields keeps the form of the memories. -/
theorem MemoryCanonical.upd
    {firing agenda stepCount waited fresh cycles tick beat bays elements crucibles courses ctxs kernels planes transit
      eaveOut readyOut sidebandOut faults dooms barriers cells cellWaits stags selectors lineTags lostPages structPages replay
      guardNotes plateWork migrated departed slots rdgWaits rdgTicket changes journal journalCut saved hostIn windowIn hostOut
      sigs linkUp sideband policy telem reach readyWords released created captures}
    (h : MemoryCanonical s) : MemoryCanonical
    ⟨firing, agenda, stepCount, waited, fresh, cycles, tick, beat, s.mem, bays, elements, crucibles, courses, ctxs, kernels,
      planes, transit, eaveOut, readyOut, sidebandOut, faults, dooms, barriers, cells, cellWaits, stags, selectors, lineTags,
      lostPages, structPages, replay, guardNotes, plateWork, migrated, departed, s.ridge, slots, rdgWaits, rdgTicket, changes,
      journal, journalCut, saved, hostIn, windowIn, hostOut, s.hostMem, sigs, linkUp, sideband, policy, telem, reach,
      readyWords, released, created, captures⟩ :=
  h

theorem MemoryCanonical.mem (h : MemoryCanonical s) : Memory.wf s.mem = true := h.1
theorem MemoryCanonical.hostMem (h : MemoryCanonical s) : Memory.wf s.hostMem = true := h.2.1
theorem MemoryCanonical.ridge (h : MemoryCanonical s) : Memory.wf s.ridge = true := h.2.2

/-- A change of one memory that keeps its form. -/
theorem MemoryCanonical.setMem
    {firing agenda stepCount waited fresh cycles tick beat mem bays elements crucibles courses ctxs kernels planes transit
      eaveOut readyOut sidebandOut faults dooms barriers cells cellWaits stags selectors lineTags lostPages structPages replay
      guardNotes plateWork migrated departed slots rdgWaits rdgTicket changes journal journalCut saved hostIn windowIn hostOut
      sigs linkUp sideband policy telem reach readyWords released created captures}
    (h : MemoryCanonical s) (hm : Memory.wf s.mem = true → Memory.wf mem = true) : MemoryCanonical
    ⟨firing, agenda, stepCount, waited, fresh, cycles, tick, beat, mem, bays, elements, crucibles, courses, ctxs, kernels,
      planes, transit, eaveOut, readyOut, sidebandOut, faults, dooms, barriers, cells, cellWaits, stags, selectors, lineTags,
      lostPages, structPages, replay, guardNotes, plateWork, migrated, departed, s.ridge, slots, rdgWaits, rdgTicket, changes,
      journal, journalCut, saved, hostIn, windowIn, hostOut, s.hostMem, sigs, linkUp, sideband, policy, telem, reach,
      readyWords, released, created, captures⟩ :=
  ⟨hm h.mem, h.hostMem, h.ridge⟩

theorem MemoryCanonical.setHostMem
    {firing agenda stepCount waited fresh cycles tick beat bays elements crucibles courses ctxs kernels planes transit
      eaveOut readyOut sidebandOut faults dooms barriers cells cellWaits stags selectors lineTags lostPages structPages replay
      guardNotes plateWork migrated departed slots rdgWaits rdgTicket changes journal journalCut saved hostIn windowIn hostOut
      hostMem sigs linkUp sideband policy telem reach readyWords released created captures}
    (h : MemoryCanonical s) (hm : Memory.wf s.hostMem = true → Memory.wf hostMem = true) : MemoryCanonical
    ⟨firing, agenda, stepCount, waited, fresh, cycles, tick, beat, s.mem, bays, elements, crucibles, courses, ctxs, kernels,
      planes, transit, eaveOut, readyOut, sidebandOut, faults, dooms, barriers, cells, cellWaits, stags, selectors, lineTags,
      lostPages, structPages, replay, guardNotes, plateWork, migrated, departed, s.ridge, slots, rdgWaits, rdgTicket, changes,
      journal, journalCut, saved, hostIn, windowIn, hostOut, hostMem, sigs, linkUp, sideband, policy, telem, reach,
      readyWords, released, created, captures⟩ :=
  ⟨h.mem, hm h.hostMem, h.ridge⟩

theorem MemoryCanonical.setRidge
    {firing agenda stepCount waited fresh cycles tick beat bays elements crucibles courses ctxs kernels planes transit
      eaveOut readyOut sidebandOut faults dooms barriers cells cellWaits stags selectors lineTags lostPages structPages replay
      guardNotes plateWork migrated departed ridge slots rdgWaits rdgTicket changes journal journalCut saved hostIn windowIn
      hostOut sigs linkUp sideband policy telem reach readyWords released created captures}
    (h : MemoryCanonical s) (hm : Memory.wf s.ridge = true → Memory.wf ridge = true) : MemoryCanonical
    ⟨firing, agenda, stepCount, waited, fresh, cycles, tick, beat, s.mem, bays, elements, crucibles, courses, ctxs, kernels,
      planes, transit, eaveOut, readyOut, sidebandOut, faults, dooms, barriers, cells, cellWaits, stags, selectors, lineTags,
      lostPages, structPages, replay, guardNotes, plateWork, migrated, departed, ridge, slots, rdgWaits, rdgTicket, changes,
      journal, journalCut, saved, hostIn, windowIn, hostOut, s.hostMem, sigs, linkUp, sideband, policy, telem, reach,
      readyWords, released, created, captures⟩ :=
  ⟨h.mem, h.hostMem, hm h.ridge⟩

theorem MemoryCanonical.ite {p : Prop} {_ : Decidable p} (hs : MemoryCanonical s) (ht : MemoryCanonical t) :
    MemoryCanonical (if p then s else t) := by
  split <;> assumption

theorem MemoryCanonical.foldl {α : Type} {f : State → α → State} {l : List α} (h : MemoryCanonical s)
    (hf : ∀ {s x}, MemoryCanonical s → MemoryCanonical (f s x)) : MemoryCanonical (l.foldl f s) := by
  induction l generalizing s with
  | nil => exact h
  | cons x l ih => exact ih (hf h)

theorem applyBytes_wf {m : List Host.Cell} {x : RidgeChange} (h : Memory.wf m = true) : Memory.wf (applyBytes m x) = true :=
  applyFirst_wf h x 128

/-- The state that an operation yields, when it yields one, is canonical. -/
def YieldsCanonical : Option State → Prop
  | some u => MemoryCanonical u
  | none => True

theorem YieldsCanonical.of_eq {o : Option State} (h : YieldsCanonical o) (e : o = some u) : MemoryCanonical u := by
  subst e
  exact h

theorem YieldsCanonical.of_result {α : Type} {f : α → Option State} {w v : α} (h : YieldsCanonical (f w)) (e : w = v)
    (hu : f v = some u) : MemoryCanonical u := by
  subst e
  exact h.of_eq hu

theorem YieldsCanonical.of_ok {ε : Type} {x : Except ε State} (h : YieldsCanonical x.toOption) (e : x = .ok u) :
    MemoryCanonical u := by
  subst e
  exact h

theorem YieldsCanonical.of_snd {ε α : Type} {x : Except ε (α × State)} {a : α}
    (h : YieldsCanonical (x.toOption.map Prod.snd)) (e : x = .ok (a, u)) : MemoryCanonical u := by
  subst e
  exact h

theorem YieldsCanonical.of_fst {α : Type} {x : Option (State × α)} {a : α} (h : YieldsCanonical (x.map Prod.fst))
    (e : x = some (u, a)) : MemoryCanonical u := by
  subst e
  exact h

theorem YieldsCanonical.of_pair {α : Type} {x : Option (α × State)} {a : α} (h : YieldsCanonical (x.map Prod.snd))
    (e : x = some (a, u)) : MemoryCanonical u := by
  subst e
  exact h

theorem YieldsCanonical.getD {o : Option State} (h : YieldsCanonical o) (hs : MemoryCanonical s) :
    MemoryCanonical (o.getD s) := by
  cases o with
  | none => exact hs
  | some u => exact h

theorem YieldsCanonical.map {α : Type} {f : α → State} {o : Option α} (h : ∀ {x}, MemoryCanonical (f x)) :
    YieldsCanonical (o.map f) := by
  cases o with
  | none => trivial
  | some x => exact h

theorem YieldsCanonical.ite {p : Prop} {_ : Decidable p} {o o' : Option State} (h : YieldsCanonical o)
    (h' : YieldsCanonical o') : YieldsCanonical (if p then o else o') := by
  split <;> assumption

theorem YieldsCanonical.map_of {f : State → State} {o : Option State} (h : YieldsCanonical o)
    (hf : ∀ {u}, MemoryCanonical u → MemoryCanonical (f u)) : YieldsCanonical (o.map f) := by
  cases o with
  | none => trivial
  | some u => exact hf h

theorem YieldsCanonical.bind {f : State → Option State} {o : Option State} (h : YieldsCanonical o)
    (hf : ∀ {u}, MemoryCanonical u → YieldsCanonical (f u)) : YieldsCanonical (o.bind f) := by
  cases o with
  | none => trivial
  | some u => exact hf h

theorem YieldsCanonical.bind_any {α : Type} {f : α → Option State} {o : Option α} (hf : ∀ {x}, YieldsCanonical (f x)) :
    YieldsCanonical (o.bind f) := by
  cases o with
  | none => trivial
  | some x => exact hf

theorem YieldsCanonical.foldl {α : Type} {f : Option State → α → Option State} {l : List α} {o : Option State}
    (h : YieldsCanonical o) (hf : ∀ {o x}, YieldsCanonical o → YieldsCanonical (f o x)) :
    YieldsCanonical (l.foldl f o) := by
  induction l generalizing o with
  | nil => exact h
  | cons x l ih => exact ih (hf h)

theorem MemoryCanonical.elim {α : Type} {f : α → State} {o : Option α} (h : MemoryCanonical s)
    (hf : ∀ {x}, MemoryCanonical (f x)) : MemoryCanonical (o.elim s f) := by
  cases o with
  | none => exact h
  | some x => exact hf

theorem MemoryCanonical.of_fst {α : Type} {x : State × α} {a : α} (h : MemoryCanonical x.1) (e : x = (u, a)) :
    MemoryCanonical u := by
  subst e
  exact h

theorem MemoryCanonical.of_snd {α : Type} {x : α × State} {a : α} (h : MemoryCanonical x.2) (e : x = (a, u)) :
    MemoryCanonical u := by
  subst e
  exact h

/-- The state that performing a held write gives. -/
def Written.state? : Written → Option State
  | .done s | .sent s => some s
  | _ => none

def Landed.state? : Landed → Option State
  | .at_ s _ | .lost s => some s
  | _ => none

def Rechecked.state? : Rechecked → Option State
  | .ok s | .waits s => some s
  | _ => none

def RecheckedAll.state? : RecheckedAll → Option State
  | .ok s | .waits s => some s
  | _ => none

def Moved.state? : Moved → Option State
  | .ok s _ => some s
  | _ => none

def PlateAns.state? : PlateAns → Option State
  | .done s _ | .waits s => some s
  | _ => none

/-- The next state, when a step has one, is canonical. -/
def OutcomeCanonical : Host.Outcome State Fault Refusal → Prop
  | .next u => MemoryCanonical u
  | _ => True
end

section
variable {s : State} {c b ft : Nat}

/-! ### The updates of State -/

theorem MemoryCanonical.setBay {x : Bay} (h : MemoryCanonical s) : MemoryCanonical (s.setBay c b x) := h.upd

theorem MemoryCanonical.modBay {f : Bay → Bay} (h : MemoryCanonical s) : MemoryCanonical (s.modBay c b f) := h.setBay

theorem MemoryCanonical.setElem {el : Nat} {x : Element} (h : MemoryCanonical s) : MemoryCanonical (s.setElem c el x) := h.upd

theorem MemoryCanonical.modElem {el : Nat} {f : Element → Element} (h : MemoryCanonical s) :
    MemoryCanonical (s.modElem c el f) :=
  h.setElem

theorem MemoryCanonical.setCru {n : Nat} {x : Crucible} (h : MemoryCanonical s) : MemoryCanonical (s.setCru c n x) := h.upd

theorem MemoryCanonical.modCru {n : Nat} {f : Crucible → Crucible} (h : MemoryCanonical s) : MemoryCanonical (s.modCru c n f) :=
  h.setCru

theorem MemoryCanonical.modCrs {f : Course → Course} (h : MemoryCanonical s) : MemoryCanonical (s.modCrs c f) := h.upd

theorem MemoryCanonical.modCtx {cx : Nat} {f : Ctx → Ctx} (h : MemoryCanonical s) : MemoryCanonical (s.modCtx cx f) := by
  unfold Machine.State.modCtx
  split
  · exact h.upd
  · exact h

theorem MemoryCanonical.setFrame {x : Frame} (h : MemoryCanonical s) : MemoryCanonical (s.setFrame c b ft x) := h.modBay

theorem MemoryCanonical.delFrame (h : MemoryCanonical s) : MemoryCanonical (s.delFrame c b ft) := h.modBay

theorem MemoryCanonical.modFrame {f : Frame → Frame} (h : MemoryCanonical s) : MemoryCanonical (s.modFrame c b ft f) := by
  unfold Machine.State.modFrame
  split
  · exact h.setFrame
  · exact h

theorem MemoryCanonical.modCast {f : Cast → Cast} (h : MemoryCanonical s) : MemoryCanonical (s.modCast c b ft f) := h.modFrame

theorem MemoryCanonical.modPool {p : Nat} {f : Pool → Pool} (h : MemoryCanonical s) : MemoryCanonical (s.modPool c b p f) :=
  h.modBay

theorem MemoryCanonical.modOwn {g : Firing} {f : Cast → Cast} (h : MemoryCanonical s) : MemoryCanonical (s.modOwn g f) :=
  h.modCast

end

end Sys2Proof.Machine
end

section
/-! PROOF. Sending and translation keep memory canonical (R21 to R25, R316, R415, R432). -/

namespace Sys2Proof.Machine

section
variable {s : State} {g : Firing} {cx va c n b fuel h' owner : Nat} {r : NodeRec} {e p : Bool} {v0 v1 : Option Val}
    {rc : FaultRec} {site : Site}

/-! ### Tokens and faults -/

theorem MemoryCanonical.sendTok {t : Transit} (h : MemoryCanonical s) : MemoryCanonical (sendTok s g t) := by
  unfold Machine.sendTok
  refine h.upd.ite (h.upd.ite ?_)
  split
  · exact h.modOwn
  · exact h.upd

theorem MemoryCanonical.sendTo {stack course ft it : Nat} {d : BitVec 21} {pl : Bool} {v : Option Val}
    (h : MemoryCanonical s) : MemoryCanonical (sendTo s g e stack course ft it d pl v) := by
  unfold Machine.sendTo
  split
  · exact h
  · exact h.ite h.sendTok

theorem MemoryCanonical.emitTagged {stack course ft it : Nat} {pl0 pl1 : Bool} (h : MemoryCanonical s) :
    MemoryCanonical (emitTagged s r g e stack course ft it pl0 pl1 v0 v1) :=
  h.sendTo.ite h.sendTo.sendTo

theorem MemoryCanonical.emitOn {pl0 pl1 : Bool} (h : MemoryCanonical s) : MemoryCanonical (emitOn s r g e pl0 pl1 v0 v1) := by
  unfold Machine.emitOn
  split
  · exact h.emitTagged
  · exact h

theorem MemoryCanonical.emitVals (h : MemoryCanonical s) : MemoryCanonical (emitVals s r g e v0 v1) := h.emitOn

theorem MemoryCanonical.emitPos (h : MemoryCanonical s) : MemoryCanonical (emitPos s r g e v0 v1) := h.emitOn

theorem MemoryCanonical.emitWord {x : Nat} (h : MemoryCanonical s) : MemoryCanonical (emitWord s r g x p) := h.emitVals

theorem MemoryCanonical.emitData {x : Payload} (h : MemoryCanonical s) : MemoryCanonical (emitData s r g x p) := h.emitVals

theorem MemoryCanonical.delaySince {s0 : State} {due : Nat} (h : MemoryCanonical s) : MemoryCanonical (delaySince s0 s g due) :=
  h.upd.modOwn

theorem MemoryCanonical.emitAfter {x : Payload} {d : Nat} (h : MemoryCanonical s) : MemoryCanonical (emitAfter s r g x p d) :=
  h.emitData.delaySince

theorem MemoryCanonical.noteVerdict {f : FaultEntry} {v : BitVec 3} (h : MemoryCanonical s) :
    MemoryCanonical (noteVerdict s f v) :=
  h.modCtx

theorem MemoryCanonical.enterFault (h : MemoryCanonical s) : MemoryCanonical (enterFault s h' rc site) :=
  h.modCtx.upd.ite (h.modCtx.ite h.upd)

theorem MemoryCanonical.admitFaults (h : MemoryCanonical s) : MemoryCanonical (admitFaults s h') := by
  unfold Machine.admitFaults
  split
  · exact h.upd.enterFault.ite h
  · exact h

theorem MemoryCanonical.fileFault {inFaultFrame : Bool} (h : MemoryCanonical s) :
    MemoryCanonical (fileFault s owner inFaultFrame rc site) := by
  unfold Machine.fileFault
  split
  · exact h.enterFault

theorem MemoryCanonical.reflectFault (h : MemoryCanonical s) : MemoryCanonical (reflectFault s h' rc site) := by
  unfold Machine.reflectFault
  split
  · exact h.enterFault

theorem MemoryCanonical.softRec {inFF : Bool} {place : Option (BitVec 4 × BitVec 8 × BitVec 12)}
    (h : MemoryCanonical s) : MemoryCanonical (softRec s rc inFF place) := by
  unfold Machine.softRec
  extract_lets cx x code s1 s2
  have h1 : MemoryCanonical s1 := h.fileFault
  have h2 : MemoryCanonical s2 := h.reflectFault
  clear_value code
  split
  · exact h.fileFault
  · exact h1.upd.ite h1
  · exact h2.upd
  · exact h.modCtx

theorem MemoryCanonical.softAt {kind code : Nat} {upd : FaultRec → FaultRec} (h : MemoryCanonical s) :
    MemoryCanonical (softAt s g kind code upd) :=
  h.softRec

theorem MemoryCanonical.poisonRec {aux : Nat} (h : MemoryCanonical s) : MemoryCanonical (poisonRec s g aux) := h.softAt

theorem MemoryCanonical.poisonMem {addr : Nat} (h : MemoryCanonical s) : MemoryCanonical (poisonMem s r g addr) := h.softAt

theorem MemoryCanonical.notice {kind aux : Nat} {upd : FaultRec → FaultRec} (h : MemoryCanonical s) :
    MemoryCanonical (notice s cx kind aux upd) :=
  h.ite (h.upd.ite h.fileFault)

/-! ### Translation, pulls and ranges -/

theorem MemoryCanonical.bumpGen (h : MemoryCanonical s) : MemoryCanonical (bumpGen s cx) := h.upd.ite h.upd.upd

theorem MemoryCanonical.tagLines {xs : List (Nat × Nat)} (h : MemoryCanonical s) : MemoryCanonical (tagLines s xs) := by
  induction xs generalizing s with
  | nil => exact h
  | cons x l ih =>
    unfold Machine.tagLines
    exact ih h.upd

theorem MemoryCanonical.touchLine {a : Nat} (h : MemoryCanonical s) : MemoryCanonical (touchLine s a) := by
  unfold Machine.touchLine
  split
  · exact h
  · exact h.bumpGen.upd

theorem MemoryCanonical.touchRange {lo : Nat} (h : MemoryCanonical s) : MemoryCanonical (touchRange s lo n) :=
  h.foldl fun h => h.touchLine

theorem MemoryCanonical.resetShadow {hit : Nat → Bool} {line : Nat} (h : MemoryCanonical s) :
    MemoryCanonical (resetShadow hit s line) :=
  h.upd.ite h

theorem MemoryCanonical.dropStruct (h : MemoryCanonical s) : MemoryCanonical (dropStruct s) := h.ite h.upd

theorem MemoryCanonical.writeBytes {l : List (Nat × Byte)} (h : MemoryCanonical s) : MemoryCanonical (writeBytes s l) := by
  unfold Machine.writeBytes
  extract_lets lines hit edits s1 s2 s3
  have h1 : MemoryCanonical s1 := (h.foldl (fun h => h.resetShadow)).foldl fun h => h.touchLine
  have h2 : MemoryCanonical s2 := h1.setMem fun h => Memory.foldl_wf _ (fun _ _ h => Memory.write_wf h _ _) h _
  have h3 : MemoryCanonical s3 := h2.foldl fun h => h.resetShadow
  exact h3.dropStruct.ite h3

theorem MemoryCanonical.tlbPut {t : TlbEntry} (h : MemoryCanonical s) : MemoryCanonical (tlbPut s c b t) := h.modBay

theorem MemoryCanonical.tlbUse (h : MemoryCanonical s) : MemoryCanonical (tlbUse s c b cx va n) := by
  unfold Machine.tlbUse
  refine h.foldl fun h => ?_
  split
  · exact h.tlbPut
  · exact h

theorem MemoryCanonical.install {o : XOk} (h : MemoryCanonical s) : MemoryCanonical (install s c b cx va o) :=
  ((h.tagLines.touchRange.setMem (fun h => Memory.clear_wf h _ _)).ite h.tagLines).tlbPut

theorem MemoryCanonical.startWake (h : MemoryCanonical s) : MemoryCanonical (startWake s c) := by
  unfold Machine.startWake
  extract_lets y s1
  have h1 : MemoryCanonical s1 := h.touchRange
  refine h.ite ?_
  split
  · exact h
  · exact h.modCrs
  · exact (h1.setMem (fun h => Memory.clear_wf h _ _)).modCrs

theorem MemoryCanonical.wakeAt {as : List Nat} (h : MemoryCanonical s) : MemoryCanonical (wakeAt s as) :=
  h.ite (h.foldl (fun h => h.startWake))

theorem MemoryCanonical.callHome {x : Nat} (h : MemoryCanonical s) : MemoryCanonical (callHome s cx x n) :=
  h.foldl fun h => h.startWake

theorem MemoryCanonical.setDirty (h : MemoryCanonical s) : MemoryCanonical (setDirty s c b cx va) := by
  unfold Machine.setDirty
  split
  · exact h
  · refine h.ite ?_
    split
    · exact h
    · extract_lets mem
      exact (h.setMem (fun h => Memory.foldl_wf _ (fun _ _ h => Memory.set_wf h _ _ _) h _)).tlbPut

theorem MemoryCanonical.onWalkOf {f : Walk → Walk} (h : MemoryCanonical s) : MemoryCanonical (onWalkOf s c cx va f) := h.modCrs

theorem MemoryCanonical.joinWalk {other : Nat} {p : Pend} (h : MemoryCanonical s) :
    MemoryCanonical (joinWalk s c cx va other p) :=
  h.onWalkOf

theorem MemoryCanonical.guestWalk (h : MemoryCanonical s) : MemoryCanonical (guestWalk s c cx va g) := h.onWalkOf

theorem MemoryCanonical.needPage (h : MemoryCanonical s) : MemoryCanonical (needPage s c cx va g) := by
  unfold Machine.needPage
  refine h.callHome.ite ?_
  split
  · exact h.guestWalk
  · exact h.callHome

theorem MemoryCanonical.dirtyRegion (h : MemoryCanonical s) : MemoryCanonical (dirtyRegion s cx fuel va n) := by
  induction fuel generalizing s va n with
  | zero => exact h
  | succ fuel ih =>
    unfold Machine.dirtyRegion
    refine h.ite ?_
    split
    · exact h
    · refine ih (h.setMem fun h => ?_)
      split
      · exact h
      · exact Memory.foldl_wf _ (fun _ _ h => Memory.set_wf h _ _ _) h _

theorem MemoryCanonical.pullLine {up from_ to_ size i : Nat} (h : MemoryCanonical s) :
    YieldsCanonical (pullLine up from_ to_ size s i) := by
  unfold Machine.pullLine
  split
  · exact h.writeBytes
  · trivial

theorem MemoryCanonical.pullLines {up from_ to_ size : Nat} (h : MemoryCanonical s) :
    YieldsCanonical (pullLines up from_ to_ size fuel n s) := by
  induction fuel generalizing up from_ to_ size n s with
  | zero => exact h
  | succ fuel ih =>
    unfold Machine.pullLines
    exact h.pullLine.bind fun h => ih h

theorem MemoryCanonical.rewriteLeaf {entry alt : Nat} (h : MemoryCanonical s) :
    MemoryCanonical (rewriteLeaf s owner entry alt) :=
  h.writeBytes.bumpGen

theorem MemoryCanonical.pullNow {q : Nat × Nat × Nat × Nat} (h : MemoryCanonical s) : YieldsCanonical (pullNow s owner q) := by
  unfold Machine.pullNow
  split
  · exact YieldsCanonical.ite trivial (h.pullLines.map_of (fun h => h.rewriteLeaf))

theorem MemoryCanonical.pullPage (h : MemoryCanonical s) : MemoryCanonical (pullPage s cx va fuel) := by
  induction fuel generalizing s cx va with
  | zero => exact h
  | succ fuel ih =>
    unfold Machine.pullPage
    split
    · exact h
    · split
      next hu => exact ih ((YieldsCanonical.bind_any h.pullNow).of_eq hu)
      · exact h

theorem MemoryCanonical.pullRange {n1 : Nat} (h : MemoryCanonical s) : MemoryCanonical (pullRange s cx fuel n n1) := by
  induction fuel generalizing s cx n n1 with
  | zero => exact h
  | succ fuel ih =>
    unfold Machine.pullRange
    exact h.ite (ih h.pullPage)

theorem MemoryCanonical.reachBytes (h : MemoryCanonical s) : MemoryCanonical (reachBytes s cx va n).1 := by
  unfold Machine.reachBytes
  split
  · exact h
  · split
    · exact h
    · exact h.pullRange

end

end Sys2Proof.Machine
end

section
/-! PROOF. The bay allocator keeps memory canonical (R61 to R84). -/

namespace Sys2Proof.Machine

section
variable {s : State} {c b pid i ft cx base sel g : Nat} {id : AllocId}

/-! ### Pools, frames and buffers -/

theorem MemoryCanonical.setRing {r : Ring} (h : MemoryCanonical s) : MemoryCanonical (setRing s cx sel c r) := h.modCtx

theorem MemoryCanonical.ringPut {off : Nat} {bs : List Byte} (h : MemoryCanonical s) :
    YieldsCanonical (ringPut s cx sel c off bs).toOption := by
  unfold Machine.ringPut
  extract_lets va
  split
  · trivial
  next hu => exact (h.reachBytes.of_fst hu).dirtyRegion.wakeAt.writeBytes

theorem MemoryCanonical.imageSlotPut {f : Frame} {v : Payload} (h : MemoryCanonical s) :
    MemoryCanonical (imageSlotPut s c f i v) := by
  unfold Machine.imageSlotPut
  refine .ite ?_ h
  split
  next hu => exact h.ringPut.of_ok hu
  · exact h

theorem MemoryCanonical.setSlot {o : Opnd} (h : MemoryCanonical s) : MemoryCanonical (setSlot s c b ft i o) := by
  unfold Machine.setSlot
  split
  · exact h
  · exact h.setFrame.imageSlotPut

theorem MemoryCanonical.syncWaits {anchored : Bool} {xs : List Waiter} (h : MemoryCanonical s) :
    MemoryCanonical (syncWaits s c b anchored xs) := by
  induction xs generalizing s c b anchored with
  | nil => exact h
  | cons x l ih =>
    unfold Machine.syncWaits
    extract_lets s1
    have h1 : MemoryCanonical s1 := by
      unfold s1
      split
      · split
        · split
          · split
            · exact h.setSlot
            · exact h
          · exact h
      · exact h
    exact ih h1

theorem MemoryCanonical.syncPool (h : MemoryCanonical s) : MemoryCanonical (syncPool s c b pid) := by
  unfold Machine.syncPool
  split
  · exact h.syncWaits
  · exact h

theorem MemoryCanonical.syncTickets {xs : List (BitVec 21 × Pend)} (h : MemoryCanonical s) :
    MemoryCanonical (syncTickets xs s) := by
  induction xs generalizing s with
  | nil => exact h
  | cons x l ih =>
    unfold Machine.syncTickets
    extract_lets c b
    split
    · extract_lets s1
      have h1 : MemoryCanonical s1 := by
        unfold s1
        split
        · exact h.setSlot
        · exact h
      exact ih h1

theorem MemoryCanonical.guardPut {on : Bool} (h : MemoryCanonical s) : MemoryCanonical (guardPut s c b g on) :=
  (h.setMem (fun h => Memory.putBytes_wf h _ _)).ite h

theorem MemoryCanonical.guardCheck {on : Bool} {ft : BitVec 12} {it : BitVec 16} {str : BitVec 11}
    (h : MemoryCanonical s) : MemoryCanonical (guardCheck s c b g cx on ft it str) :=
  (h.ite h.upd).ite h

theorem MemoryCanonical.countGrant (h : MemoryCanonical s) : MemoryCanonical (countGrant s c b pid) := h.modBay.modPool

theorem MemoryCanonical.defPut {it : Nat} {dest : BitVec 21} {next : Option Nat} (h : MemoryCanonical s) :
    MemoryCanonical (defPut s c b g ft it dest next) :=
  h.setMem fun h => Memory.set_wf (Memory.set_wf h _ _ _) _ _ _

theorem MemoryCanonical.giveBackDef {entry : Nat} (h : MemoryCanonical s) : MemoryCanonical (giveBackDef s c b pid entry) :=
  h.modPool

theorem MemoryCanonical.listIld {entry : Nat} {p : Pend} (h : MemoryCanonical s) :
    MemoryCanonical (listIld s c b pid entry base p) := by
  unfold Machine.listIld
  extract_lets g r s1 s2 s3 bt
  have h1 : MemoryCanonical s1 := h.giveBackDef
  have h2 : MemoryCanonical s2 := h1.modOwn
  have h3 : MemoryCanonical s3 := h.defPut
  split
  · exact h1.upd
  · extract_lets t s4 t' s5
    have h4 : MemoryCanonical s4 := by
      unfold s4
      split
      · exact h3.setMem fun h => Memory.set_wf h _ _ _
      · exact h3
    exact h2.emitWord.ite h4.upd.modOwn

theorem MemoryCanonical.grantAt {p : Pool} {w : Waiter} (h : MemoryCanonical s) :
    MemoryCanonical (grantAt s c b pid p w base) := by
  unfold Machine.grantAt
  extract_lets y g cxN s1 s2 age own fr
  have h1 : MemoryCanonical s1 := h.guardPut
  have h2 : MemoryCanonical s2 := h1.countGrant
  split
  · split
    · exact h1
    · extract_lets ftB s3 s4 s5 l s6
      have h3 : MemoryCanonical s3 := h2.setFrame
      have h4 : MemoryCanonical s4 := h3.modOwn
      have h5 : MemoryCanonical s5 := h2.modElem
      have h6 : MemoryCanonical s6 := h5.setFrame
      split
      · exact h4.emitWord
      · exact h2.setFrame.modBay
      · exact h6.modCrs
      · exact h2.setFrame.upd
      · extract_lets __src s7
        have h7 : MemoryCanonical s7 := h2.setFrame
        split
        · exact h7.modCtx.upd
        · exact h7
  · split
    · exact h1
    · extract_lets old gen ent s3 s4
      have h3 : MemoryCanonical s3 := h1.countGrant.modPool
      have h4 : MemoryCanonical s4 := h3.modOwn
      exact h4.emitWord.ite h3.listIld

theorem MemoryCanonical.moveBytes {from_ to_ n : Nat} (h : MemoryCanonical s) : MemoryCanonical (moveBytes s c b from_ to_ n) :=
  h.setMem fun h => Memory.putBytes_wf h _ _

theorem MemoryCanonical.setMv {v : Bool} (h : MemoryCanonical s) : MemoryCanonical (setMv s c b pid id v) := by
  unfold Machine.setMv
  split
  · exact h.modFrame
  · exact h.modPool

theorem MemoryCanonical.beginMove {xs : List AllocId} (h : MemoryCanonical s) : MemoryCanonical (beginMove s c b pid xs) := by
  induction xs generalizing s c b pid with
  | nil => exact h
  | cons x l ih =>
    unfold Machine.beginMove
    extract_lets y
    split
    · exact h.modPool.setMv.ite (ih h)
    · exact ih h

theorem MemoryCanonical.beginCompact {p : Pool} (h : MemoryCanonical s) : MemoryCanonical (beginCompact s c b pid p) := by
  unfold Machine.beginCompact
  extract_lets y ids t
  have ht : MemoryCanonical t := h.beginMove
  split
  · exact h.ite ht.modPool
  · exact h

theorem MemoryCanonical.beginRestore (h : MemoryCanonical s) : MemoryCanonical (beginRestore s c b pid id base) :=
  h.setMv.modPool

theorem MemoryCanonical.endRestore (h : MemoryCanonical s) : MemoryCanonical (endRestore s c b pid id base) := by
  unfold Machine.endRestore
  split
  · split
    · exact h
    · exact ((h.setMem (fun h => Memory.putBytes_wf h _ _)).ite h).setFrame
  · split
    · exact h
    · exact (h.setMem (fun h => Memory.putBytes_wf h _ _)).modPool

theorem MemoryCanonical.restoreStep (h : MemoryCanonical s) : MemoryCanonical (restoreStep s c b pid) := by
  unfold Machine.restoreStep
  split
  · exact h
  · extract_lets y
    refine h.ite ?_
    split
    · exact h
    · split
      · exact h.beginRestore
      · exact h.modPool

theorem MemoryCanonical.unlist (h : MemoryCanonical s) : MemoryCanonical (unlist s c b pid i) := h.modPool

theorem MemoryCanonical.scanGo {fuel : Nat} (h : MemoryCanonical s) : MemoryCanonical (scanGo c b pid fuel s) := by
  induction fuel generalizing c b pid s with
  | zero => exact h
  | succ fuel ih =>
    unfold Machine.scanGo
    split
    · exact h
    · refine h.ite ?_
      split
      · exact h
      · exact ih ((h.unlist.ite h.unlist.modPool).grantAt)

theorem MemoryCanonical.compactIfDue (h : MemoryCanonical s) : MemoryCanonical (compactIfDue s c b pid) := by
  unfold Machine.compactIfDue
  split
  · exact h
  · extract_lets y
    refine h.ite ?_
    split
    · split
      · exact h.beginCompact.ite h
    · split
      · exact h.beginCompact.ite h
      · exact h

theorem MemoryCanonical.scanPool (h : MemoryCanonical s) : MemoryCanonical (scanPool s c b pid) := by
  unfold Machine.scanPool
  split
  · exact h
  · exact h.scanGo.compactIfDue.syncPool

theorem MemoryCanonical.noteRelease (h : MemoryCanonical s) : MemoryCanonical (noteRelease s c b pid) := h.modPool.upd

theorem MemoryCanonical.serveReleases (h : MemoryCanonical s) : MemoryCanonical (serveReleases s) :=
  h.upd.foldl fun h => h.restoreStep.scanPool

theorem MemoryCanonical.joinPool {w : Waiter} (h : MemoryCanonical s) : MemoryCanonical (joinPool s c b pid w) := by
  unfold Machine.joinPool
  split
  · exact h
  · extract_lets y open_ s1
    have h1 : MemoryCanonical s1 := h.ite h.modPool
    split
    · exact h1.grantAt.compactIfDue.syncPool
    · exact h.modPool.syncPool

theorem MemoryCanonical.ringAdvance {fuel : Nat} (h : MemoryCanonical s) : MemoryCanonical (ringAdvance cx sel c fuel s) := by
  induction fuel generalizing cx sel c s with
  | zero => exact h
  | succ fuel ih =>
    unfold Machine.ringAdvance
    exact h.ite ((ih h.setRing).ite h)

theorem MemoryCanonical.imageDone {off : Nat} (h : MemoryCanonical s) : MemoryCanonical (imageDone s cx c off) := by
  unfold Machine.imageDone
  extract_lets w s1
  have h1 : MemoryCanonical s1 := by
    unfold s1
    split
    next hu => exact h.ringPut.of_ok hu
    · exact h
  exact h1.ringAdvance

theorem MemoryCanonical.guardOf (h : MemoryCanonical s) : MemoryCanonical (guardOf s c b pid id) := by
  unfold Machine.guardOf
  split
  · split
    · exact h.guardCheck
  · exact h

theorem MemoryCanonical.holdSpill {at_ : Option (Nat × BitVec 32)} {e : XErr} {addr d0 d1 : Nat}
    (h : MemoryCanonical s) : MemoryCanonical (holdSpill s c b pid id at_ e addr d0 d1) :=
  h.modPool.fileFault

theorem MemoryCanonical.beginSpill (h : MemoryCanonical s) : MemoryCanonical (beginSpill s c b pid id) := by
  unfold Machine.beginSpill
  extract_lets y cx s1 r put
  have hput : ∀ {u x bs}, MemoryCanonical u → MemoryCanonical (put u x bs) := fun h => by
    unfold put
    split
    next hu => exact h.ringPut.of_ok hu
    · exact h
  split
  · exact h.modPool
  · extract_lets len
    split
    · exact h.setMv.holdSpill
    · extract_lets at_ s2 heads bad s3
      have h2 : MemoryCanonical s2 := (h.setMv.ite h.setMv.reachBytes).reachBytes
      clear_value bad put
      split
      · exact h2.holdSpill
      · refine h2.wakeAt.modPool.ite ?_
        split
        exact (hput (h2.ite (hput h2))).setRing.modBay.modPool

theorem MemoryCanonical.spillNext (h : MemoryCanonical s) : MemoryCanonical (spillNext s c b pid) := by
  unfold Machine.spillNext
  split
  · exact h
  · refine h.ite ?_
    split
    · exact h.beginSpill
    · exact h.modPool

theorem MemoryCanonical.releaseAtBay (h : MemoryCanonical s) : MemoryCanonical (releaseAtBay s c b ft) := by
  unfold Machine.releaseAtBay
  split
  · exact h
  · exact h.setFrame.upd

theorem MemoryCanonical.leaveBytes (h : MemoryCanonical s) : MemoryCanonical (leaveBytes s c b pid id) := by
  unfold Machine.leaveBytes
  split
  · split
    · exact h.ite (h.setMem (fun h => Memory.putBytes_wf h _ _))
    · exact h
  · exact h

theorem MemoryCanonical.dropPseudo (h : MemoryCanonical s) : MemoryCanonical (dropPseudo s c b pid id) := h.modPool

theorem MemoryCanonical.dropFrame (h : MemoryCanonical s) : MemoryCanonical (dropFrame s c b ft) := by
  unfold Machine.dropFrame
  split
  · exact h
  · exact h.setFrame.ite ((h.dropPseudo.imageDone.ite h.dropPseudo.guardOf).leaveBytes.delFrame.modBay.upd)

theorem MemoryCanonical.dropBuf (h : MemoryCanonical s) : MemoryCanonical (dropBuf s c b pid i) := by
  unfold Machine.dropBuf
  split
  · exact h
  · exact h.ite (h.modPool.ite ((h.dropPseudo.imageDone.ite h.dropPseudo.guardOf).modBay.modPool))

theorem MemoryCanonical.yieldFrame (h : MemoryCanonical s) : MemoryCanonical (yieldFrame s c b ft) := by
  unfold Machine.yieldFrame
  split
  · exact h
  · exact h.dropFrame.ite h.dropFrame.noteRelease

theorem MemoryCanonical.yieldBuf (h : MemoryCanonical s) : MemoryCanonical (yieldBuf s c b pid i) := by
  unfold Machine.yieldBuf
  split
  · exact h
  · exact h.ite (h.dropBuf.ite h.dropBuf.noteRelease)

theorem MemoryCanonical.freeFrame (h : MemoryCanonical s) : MemoryCanonical (freeFrame s c b ft) := h.yieldFrame.serveReleases

theorem MemoryCanonical.freeBuf (h : MemoryCanonical s) : MemoryCanonical (freeBuf s c b pid i) := h.yieldBuf.serveReleases

theorem MemoryCanonical.freeAll {fts : List Nat} {bufs : List (Nat × Nat)} (h : MemoryCanonical s) :
    MemoryCanonical (freeAll s c b fts bufs) :=
  ((h.foldl (fun h => h.yieldBuf)).foldl (fun h => h.yieldFrame)).serveReleases

theorem MemoryCanonical.dropFreed (h : MemoryCanonical s) : MemoryCanonical (dropFreed s c b pid id) := by
  unfold Machine.dropFreed
  refine .ite ?_ h
  split
  · exact h.freeFrame
  · exact h.modPool.freeBuf

theorem MemoryCanonical.wakeMoved (h : MemoryCanonical s) : MemoryCanonical (wakeMoved s c b id) := by
  unfold Machine.wakeMoved
  split
  · exact h.releaseAtBay
  · exact h

theorem MemoryCanonical.serveHead (h : MemoryCanonical s) : MemoryCanonical (serveHead s c b pid) := by
  unfold Machine.serveHead
  split
  · exact h
  · exact (h.restoreStep.ite h).scanPool

theorem MemoryCanonical.abandonSpill (h : MemoryCanonical s) : MemoryCanonical (abandonSpill s c b pid) := by
  unfold Machine.abandonSpill
  split
  · exact h
  · split
    · refine .ite (.scanPool (.wakeMoved (.dropFreed (.modPool (.setMv (.ite ?_ h)))))) h
      split
      · exact h.imageDone
      · exact h
    · exact h

theorem MemoryCanonical.withdrawPool {f : Waiter → Bool} (h : MemoryCanonical s) :
    MemoryCanonical (withdrawPool s c b pid f) := by
  unfold Machine.withdrawPool
  split
  · exact h
  · exact h.modPool.scanPool.ite h

theorem MemoryCanonical.withdrawBay {f : Waiter → Bool} (h : MemoryCanonical s) : MemoryCanonical (withdrawBay s c b f) :=
  h.foldl fun h => h.withdrawPool

end

end Sys2Proof.Machine
end

section
/-! PROOF. Exceptions, firings and the memory and room instructions keep memory canonical (R27, R211 to R226). -/

namespace Sys2Proof.Machine

section
variable {s : State} {r : NodeRec} {c n op x ft b cx cls kind code al : Nat} {g : Firing} {a : Args}
    {act : State → State} {p : Pend} {f : Frame}

/-! ### Exceptions and firings -/

theorem MemoryCanonical.setSlotState {st : SlotState} (h : MemoryCanonical s) : MemoryCanonical (setSlotState s n st) := h.upd

theorem MemoryCanonical.grantSlot (h : MemoryCanonical s) : MemoryCanonical (grantSlot s p n) := h.setSlotState.modOwn.emitWord

theorem MemoryCanonical.serveSlots {xs : List (BitVec 21 × Pend)} (h : MemoryCanonical s) :
    MemoryCanonical (serveSlots xs s) := by
  induction xs generalizing s with
  | nil => exact h
  | cons x l ih =>
    unfold Machine.serveSlots
    split
    · exact h
    · exact ih h.upd.grantSlot

theorem MemoryCanonical.scanSlots (h : MemoryCanonical s) : MemoryCanonical (scanSlots s) := h.serveSlots.syncTickets

theorem MemoryCanonical.withdrawCast (h : MemoryCanonical s) : MemoryCanonical (withdrawCast s c b ft) := by
  unfold Machine.withdrawCast
  extract_lets mine lists cru freed s1 s2 s3 drop s4 s5
  have h2 : MemoryCanonical s2 := h.upd.scanSlots.ite h.upd
  have h3 : MemoryCanonical s3 := by
    unfold s3
    refine h2.foldl fun h => ?_
    exact h.syncTickets.ite h
  have h4 : MemoryCanonical s4 := h3.modCrs
  exact h4.upd.withdrawBay

theorem MemoryCanonical.hardFault {owner : Nat} {upd : FaultRec → FaultRec} (h : MemoryCanonical s) :
    MemoryCanonical (hardFault s g kind code owner upd) :=
  h.modCru.fileFault.ite h.modFrame.withdrawCast

theorem MemoryCanonical.fault (h : MemoryCanonical s) : MemoryCanonical (fault s g kind code) := h.hardFault

theorem MemoryCanonical.memFault {owner addr : Nat} (h : MemoryCanonical s) :
    MemoryCanonical (memFault s r g kind code owner addr) :=
  h.hardFault

theorem MemoryCanonical.addFlags {f : Flags} (h : MemoryCanonical s) : MemoryCanonical (addFlags s g f) := h.ite h.modOwn

theorem MemoryCanonical.setFlags {f : Flags} (h : MemoryCanonical s) : MemoryCanonical (setFlags s cx f) := h.ite h.modCtx

theorem MemoryCanonical.emitNothing {p e : Bool} (h : MemoryCanonical s) : MemoryCanonical (emitNothing s r g p e) := h.emitVals

theorem MemoryCanonical.actWith {idle : Bool → Bool → State} (h : MemoryCanonical s)
    (hi : ∀ {p e}, MemoryCanonical (idle p e)) (ha : ∀ {u}, MemoryCanonical u → MemoryCanonical (act u)) :
    MemoryCanonical (actWith s r a idle act) := by
  unfold Machine.actWith
  extract_lets g
  refine hi.ite ?_
  split
  · exact h.fault
  · exact h.poisonRec
  · exact hi.ite (ha h)

theorem MemoryCanonical.actNode (h : MemoryCanonical s) (ha : ∀ {u}, MemoryCanonical u → MemoryCanonical (act u)) :
    MemoryCanonical (actNode s r a act) :=
  h.actWith h.emitNothing ha

theorem MemoryCanonical.pureAt {stack course : Nat} {pl0 pl1 : Bool} {v0 v1 : Option Val} {fl : Flags}
    (h : MemoryCanonical s) : MemoryCanonical (pureAt s r a stack course pl0 pl1 v0 v1 fl) := by
  unfold Machine.pureAt
  extract_lets g e mark s1
  have h1 : MemoryCanonical s1 := h.ite h.addFlags
  split
  · exact h.ite h.fault
  · exact h.ite h.poisonRec
  · exact h1.emitTagged

theorem MemoryCanonical.pureNode {pl0 pl1 : Bool} {v0 v1 : Option Val} {fl : Flags} (h : MemoryCanonical s) :
    MemoryCanonical (pureNode s r a pl0 pl1 v0 v1 fl) :=
  h.pureAt

theorem MemoryCanonical.ctlNode {f : Args → Nat × Flags} (h : MemoryCanonical s) : MemoryCanonical (ctlNode s r f) := h.pureNode

theorem MemoryCanonical.dataNode {f : Args → Payload × Flags × Bool} (h : MemoryCanonical s) :
    MemoryCanonical (dataNode s r f) :=
  h.pureNode

theorem MemoryCanonical.holdEffect (h : MemoryCanonical s) : MemoryCanonical (holdEffect s op r) := h.modOwn

theorem MemoryCanonical.holdArgs (h : MemoryCanonical s) : MemoryCanonical (holdArgs s op r a) := h.modOwn

theorem MemoryCanonical.enqueueAt {el : Nat} {e : Ready} {slotted : Bool} (h : MemoryCanonical s) :
    YieldsCanonical (enqueueAt s c el e slotted) :=
  YieldsCanonical.ite h.upd (YieldsCanonical.map h.setElem)

theorem MemoryCanonical.enqueueHeld {el : Nat} {e : Ready} (h : MemoryCanonical s) : MemoryCanonical (enqueueHeld s c el e) :=
  h.enqueueAt.getD h.modElem

theorem MemoryCanonical.fireSlots {xs : List (Nat × Nat)} (h : MemoryCanonical s) :
    MemoryCanonical (fireSlots s c ft f xs) := by
  induction xs generalizing s c ft f with
  | nil => exact h
  | cons x l ih =>
    unfold Machine.fireSlots
    extract_lets w mk s1
    have h1 : MemoryCanonical s1 := by
      unfold s1
      refine (h.foldl (fun h => ?_)).ite (h.enqueueHeld.ite h)
      split
      · exact h.enqueueHeld.ite h
      · exact h
    exact ih h1

theorem MemoryCanonical.injectSources {nodes : List (Nat × Nat)} (h : MemoryCanonical s) :
    MemoryCanonical (injectSources s c ft f nodes) :=
  h.foldl fun h => h.enqueueHeld

theorem MemoryCanonical.injectCast {nodes : List (Nat × Nat)} (h : MemoryCanonical s) :
    MemoryCanonical (injectCast s c b ft f nodes) :=
  h.injectSources.ite h.modFrame

theorem MemoryCanonical.injectOwed (h : MemoryCanonical s) : MemoryCanonical (injectOwed s c cx) := by
  unfold Machine.injectOwed
  refine h.foldl fun h => h.foldl (fun h => ?_)
  split
  · exact h.modFrame.injectSources.ite h
  · exact h

theorem MemoryCanonical.startCast {block : Nat} {inject : Bool} (h : MemoryCanonical s) :
    MemoryCanonical (startCast s c b ft block inject) := by
  unfold Machine.startCast
  split
  · exact h
  · exact (h.setFrame.injectCast.ite h.setFrame).fireSlots

theorem MemoryCanonical.beginCast {block : Nat} (h : MemoryCanonical s) : MemoryCanonical (beginCast s c b ft block) := by
  unfold Machine.beginCast
  split
  · exact h
  · exact h.startCast

theorem MemoryCanonical.nextCast (h : MemoryCanonical s) : MemoryCanonical (nextCast s c b ft) := by
  unfold Machine.nextCast
  split
  · exact h
  · split
    · exact h.releaseAtBay
    · exact h.beginCast.releaseAtBay

theorem MemoryCanonical.refireCast {skip : Option (BitVec 13 × BitVec 6)} (h : MemoryCanonical s) :
    MemoryCanonical (refireCast s c b ft skip) := by
  unfold Machine.refireCast
  split
  · exact h
  · split
    · exact h
    · exact (h.setFrame.injectCast.ite h.setFrame).fireSlots.releaseAtBay

/-! ### Token plumbing, tags and casts -/

theorem MemoryCanonical.passNode {v : Payload} (h : MemoryCanonical s) : MemoryCanonical (passNode s r a v) := h.pureNode

theorem MemoryCanonical.sendAcross {stack course : Nat} {v : Option Val} (h : MemoryCanonical s) :
    MemoryCanonical (sendAcross s r a stack course v) :=
  h.fault.ite h.pureAt

theorem MemoryCanonical.execTagset (h : MemoryCanonical s) : OutcomeCanonical (execTagset r s) := by
  unfold Machine.execTagset
  extract_lets g a w out
  refine h.actNode fun h => h.holdArgs.emitWord.ite (h.fault.ite ?_)
  split
  · exact h.fault
  · exact h.fault.ite h.holdArgs.emitWord

theorem MemoryCanonical.waitAgain (h : MemoryCanonical s) : MemoryCanonical (waitAgain s op r) := h.modOwn

theorem MemoryCanonical.execIter (h : MemoryCanonical s) : OutcomeCanonical (execIter r s) := by
  unfold Machine.execIter
  extract_lets g a w c ftB
  refine h.actNode fun h => h.poisonRec.emitWord.ite (h.fault.ite ?_)
  split
  · exact h.fault
  · exact h.fault.ite (h.waitAgain.ite h.setFrame.modFrame.modOwn.emitWord)
  · exact h

/-! ### Loads and stores -/

theorem MemoryCanonical.waveIn {load performed : Bool} (h : MemoryCanonical s) :
    MemoryCanonical (waveIn s op r load performed) :=
  h.modOwn

theorem MemoryCanonical.waveNode (h : MemoryCanonical s) (ha : ∀ {u}, MemoryCanonical u → MemoryCanonical (act u)) :
    MemoryCanonical (waveNode s op r act) :=
  h.waitAgain.ite (ha h)

theorem MemoryCanonical.sendError {esn err : Nat} (h : MemoryCanonical s) : MemoryCanonical (sendError s g esn err) := h.sendTo

theorem MemoryCanonical.usePages (h : MemoryCanonical s) : MemoryCanonical (s.usePages g x n) := h.ite h.tlbUse

theorem MemoryCanonical.loadAct {as : List Nat} {lost : Bool} (h : MemoryCanonical s) :
    MemoryCanonical (loadAct op r x s as lost cls) := by
  unfold Machine.loadAct
  extract_lets g s1 v s2 s3
  have h1 : MemoryCanonical s1 := h.usePages.waveIn
  have h2 : MemoryCanonical s2 := h1.waveIn
  have h3 : MemoryCanonical s3 := h2.holdEffect.ite h2
  exact h3.emitAfter.ite h1

theorem MemoryCanonical.loadNode (h : MemoryCanonical s) : MemoryCanonical (loadNode op r s) := by
  unfold Machine.loadNode
  extract_lets g n c
  refine h.actNode fun h => h.waveNode (fun h => h.waveIn.emitNothing.ite ?_)
  split
  · extract_lets s1
    have h1 : MemoryCanonical s1 := h.waveIn
    split
    · exact h1.sendError
    · exact h1.emitNothing
  · refine h.memFault.ite ?_
    split
    · exact h.loadAct.ite h.memFault
    · exact h.joinWalk
    · exact h.callHome.waitAgain
    · exact h.memFault.ite h.loadAct

theorem MemoryCanonical.holdWrite (h : MemoryCanonical s) : MemoryCanonical (holdWrite s op r) := h.waveIn.modOwn

theorem MemoryCanonical.writeChecked (h : MemoryCanonical s) (ha : ∀ {u}, MemoryCanonical u → MemoryCanonical (act u)) :
    MemoryCanonical (writeChecked s op r x n al cls act) := by
  unfold Machine.writeChecked
  extract_lets g
  split
  · exact h.memFault
  · exact h.joinWalk
  · exact ha h
  · exact ha h.usePages

theorem MemoryCanonical.storeNode (h : MemoryCanonical s) : MemoryCanonical (storeNode op r s) := by
  unfold Machine.storeNode
  extract_lets g n v
  refine h.actNode fun h => h.waveNode (fun h => h.holdWrite.emitData.ite ?_)
  split
  · extract_lets s1
    have h1 : MemoryCanonical s1 := h.waveIn
    split
    · exact h1.sendError.emitData
    · exact h1.emitData
  · exact h.writeChecked fun h => h.holdWrite.emitData

theorem MemoryCanonical.fetchPage {va : Nat} (h : MemoryCanonical s) : MemoryCanonical (fetchPage s c b cx va) := by
  unfold Machine.fetchPage
  refine h.ite ?_
  split
  · exact h
  · exact h.install

theorem MemoryCanonical.fetchPages (h : MemoryCanonical s) : MemoryCanonical (fetchPages s g x n) := h.ite h.fetchPage.fetchPage

theorem MemoryCanonical.dirtyPages (h : MemoryCanonical s) : MemoryCanonical (dirtyPages s g x n) := h.ite h.setDirty.setDirty

theorem MemoryCanonical.land (h : MemoryCanonical s) : YieldsCanonical (land s g x n al cls).state? := by
  unfold Machine.land
  extract_lets s1
  have h1 : MemoryCanonical s1 := h.fetchPages
  split
  · trivial
  · split
    · trivial
    · trivial
  · trivial
  · split
    · trivial
    · split
      · exact h1.poisonRec
      · exact h1.dirtyPages

theorem MemoryCanonical.landBytes {bs : List Byte} (h : MemoryCanonical s) :
    YieldsCanonical (landBytes s g x n al cls bs).state? := by
  unfold Machine.landBytes
  split
  · trivial
  · trivial
  next hu => exact h.land.of_result hu rfl
  next hu => exact (h.land.of_result hu rfl).writeBytes

theorem MemoryCanonical.performStore (h : MemoryCanonical s) : YieldsCanonical (performStore s p).state? := by
  unfold Machine.performStore
  extract_lets op g n
  split
  · exact h.poisonMem.ite h
  · split
    · exact h.poisonMem
    · exact h.landBytes

theorem MemoryCanonical.recheck (h : MemoryCanonical s) : YieldsCanonical (recheck s g x n al cls).state? := by
  unfold Machine.recheck
  extract_lets c cx va again s1
  have h1 : MemoryCanonical s1 := h.fetchPages
  split
  · clear_value again
    split
    · exact h.guestWalk
    · trivial
  · split
    · clear_value again
      split
      · exact h.guestWalk
      · trivial
    · clear_value again
      split
      · exact h.guestWalk
      · exact h1
  · clear_value again
    split
    · exact h.guestWalk
    · exact h1

/-! ### Regions -/

theorem MemoryCanonical.writeRegion {as : List Nat} {bs : List Byte} (h : MemoryCanonical s) :
    MemoryCanonical (s.writeRegion cx x as bs) :=
  (h.ite h.dirtyRegion).writeBytes

/-! ### Allocation -/

theorem MemoryCanonical.allocNode (h : MemoryCanonical s) (ha : ∀ {u}, MemoryCanonical u → MemoryCanonical (act u)) :
    MemoryCanonical (allocNode s r act) :=
  h.actNode fun h => h.emitWord.ite (ha h)

theorem MemoryCanonical.execAllocFrm (h : MemoryCanonical s) : OutcomeCanonical (execAllocFrm r s) := by
  unfold Machine.execAllocFrm
  refine h.allocNode fun h => ?_
  extract_lets g pid
  split
  · exact h.fault
  · exact h.fault
  · exact h.joinPool

theorem MemoryCanonical.execAllocBuf (h : MemoryCanonical s) : OutcomeCanonical (execAllocBuf r s) := by
  unfold Machine.execAllocBuf
  refine h.allocNode fun h => ?_
  extract_lets g pid
  split
  · exact h.fault
  · exact h.joinPool

theorem MemoryCanonical.freeSlot (h : MemoryCanonical s) : MemoryCanonical (freeSlot s cx n) := h.setSlotState.scanSlots.ite h

theorem MemoryCanonical.grantCru (h : MemoryCanonical s) : MemoryCanonical (grantCru s c n p) := h.modCru.modOwn.emitWord

theorem MemoryCanonical.scanCru (h : MemoryCanonical s) : MemoryCanonical (scanCru s c n) := by
  unfold Machine.scanCru
  extract_lets x
  refine h.syncTickets.ite ?_
  split
  · exact h.syncTickets
  · exact h.setCru.syncTickets.grantCru

theorem MemoryCanonical.dropGotCru (h : MemoryCanonical s) : MemoryCanonical (dropGotCru s c n) := h.upd

theorem MemoryCanonical.freeCru (h : MemoryCanonical s) : MemoryCanonical (freeCru s c n) :=
  (h.upd.modCrs.dropGotCru.ite h).upd.modCru.scanCru

theorem MemoryCanonical.memFaultAt (h : MemoryCanonical s) : MemoryCanonical (bufNode.memFaultAt s g kind code x) := h.hardFault

theorem MemoryCanonical.bufNode (h : MemoryCanonical s) : MemoryCanonical (bufNode op r s) := by
  unfold Machine.bufNode
  extract_lets a x
  refine h.actNode fun h => h.holdEffect.emitWord.ite (h.memFaultAt.ite ?_)
  split
  · exact h.memFaultAt
  · exact h.holdEffect.emitWord

theorem MemoryCanonical.commitBuf {free : Bool} (h : MemoryCanonical s) : MemoryCanonical (commitBuf s g x free) := by
  unfold Machine.commitBuf
  extract_lets h' race
  have hrace : MemoryCanonical race := h.softAt
  split
  · exact hrace
  · split
    · exact hrace
    · exact hrace.ite (h.yieldBuf.ite (h.ite h.modPool))

theorem MemoryCanonical.execPoolq (h : MemoryCanonical s) : OutcomeCanonical (execPoolq r s) := by
  unfold Machine.execPoolq
  extract_lets a pid
  refine h.actNode fun h => ?_
  extract_lets g
  split
  · exact h.emitWord
  · exact h.fault.ite h.emitWord

end

end Sys2Proof.Machine
end

section
/-! PROOF. Crucibles, synchronisation and gates keep memory canonical (R227 to R275). -/

namespace Sys2Proof.Machine

section
variable {s : State} {r : NodeRec} {c b sc op n a : Nat} {g : Firing} {p : Pend} {x : Stream} {e : EvArgs}

/-! ### Crucible operations -/

theorem MemoryCanonical.modCruOf {f : Crucible → Crucible} (h : MemoryCanonical s) :
    MemoryCanonical (modCruOf s g f) :=
  h.modCru

theorem MemoryCanonical.finishOp {res : Nat} {p : Bool} (h : MemoryCanonical s) : MemoryCanonical (finishOp s g res p) :=
  h.modCruOf

theorem MemoryCanonical.cruFault {kind code owner addr row : Nat} (h : MemoryCanonical s) :
    MemoryCanonical (cruFault s g kind code owner addr row) :=
  h.hardFault

theorem MemoryCanonical.cruPull {va : Nat} (h : MemoryCanonical s) : MemoryCanonical (cruPull s g va) := h.needPage

theorem MemoryCanonical.cruNode {act : State → State} (h : MemoryCanonical s)
    (ha : ∀ {u}, MemoryCanonical u → MemoryCanonical (act u)) : MemoryCanonical (cruNode s act) :=
  h.finishOp.ite (ha h)

theorem MemoryCanonical.execMxLdb (h : MemoryCanonical s) : OutcomeCanonical (execMxLdb r s) := by
  unfold Machine.execMxLdb
  refine h.cruNode fun h => ?_
  extract_lets g t a side
  split
  · exact h
  · exact h.cruPull
  · exact h.cruFault
  · extract_lets bs bank fin
    refine .ite ?_ h.modCruOf.finishOp
    split
    · exact h
    · exact h.cruPull
    · exact h.cruFault
    · exact h.modCruOf.finishOp

theorem MemoryCanonical.execMxLda (h : MemoryCanonical s) : OutcomeCanonical (execMxLda r s) := by
  unfold Machine.execMxLda
  refine h.cruNode fun h => h.cruFault.ite (h.cruFault.ite (h.cruFault.ite ?_))
  extract_lets x x1
  split
  · exact h.modCruOf.finishOp
  · exact h.cruFault
  · exact h.cruPull
  · exact h

theorem MemoryCanonical.execMxGather (h : MemoryCanonical s) : OutcomeCanonical (execMxGather r s) := by
  unfold Machine.execMxGather
  refine h.cruNode fun h => h.cruFault.ite (h.cruFault.ite (h.cruFault.ite (h.cruFault.ite ?_)))
  extract_lets lanes x
  split
  · exact h.modCruOf.finishOp
  · exact h.cruFault
  · exact h.cruPull
  · exact h

theorem MemoryCanonical.execMxScale (h : MemoryCanonical s) : OutcomeCanonical (execMxScale r s) := by
  unfold Machine.execMxScale
  extract_lets x
  refine h.cruNode fun h => ?_
  extract_lets g
  split
  · exact h.cruFault
  · exact h.modCruOf.finishOp

theorem MemoryCanonical.execMxMma (h : MemoryCanonical s) : OutcomeCanonical (execMxMma r s) := by
  unfold Machine.execMxMma
  refine h.cruNode fun h => ?_
  extract_lets g n
  split
  · exact h.cruFault
  · extract_lets s' b
    have h' : MemoryCanonical s' := h.modCruOf
    refine (h'.modCruOf.ite h').finishOp.ite (h.cruFault.ite (h.cruFault.ite ?_))
    split
    · exact h.cruFault
    · exact h'.modCruOf.ite (h.cruFault.ite h)

theorem MemoryCanonical.drainRows {x : Crucible} {t pitch : Nat} {plan : List Region} {row : Nat} {f : Flags}
    (h : MemoryCanonical s) : MemoryCanonical (drainRows g x n t pitch plan row (s, f)).1 := by
  induction plan generalizing row s f with
  | nil => exact h
  | cons y plan ih =>
    cases y with
    | ok as lost _ => exact ih (h.poisonRec.ite h.writeRegion)
    | bad => exact h
    | pull => exact h
    | held => exact h

theorem MemoryCanonical.execMxDrain (h : MemoryCanonical s) : OutcomeCanonical (execMxDrain r s) := by
  unfold Machine.execMxDrain
  extract_lets g x n t rows pitch span plan
  refine h.softAt.finishOp.ite (h.finishOp.ite (h.cruFault.ite (h.cruFault.ite ?_)))
  split
  · exact h.cruPull
  · split
    · exact h.cruFault
    · split
      · exact h.cruPull
      · exact h
      · split
        next hu => exact (h.drainRows.of_fst hu).modCruOf.finishOp
        next hu => exact (h.drainRows.of_fst hu).cruFault
        next hu => exact h.drainRows.of_fst hu

theorem MemoryCanonical.execMxAddc (h : MemoryCanonical s) : OutcomeCanonical (execMxAddc r s) := by
  unfold Machine.execMxAddc
  refine h.cruNode fun h => ?_
  extract_lets g t w
  split
  · exact h
  · exact h.cruPull
  · exact h.cruFault
  · exact h.modCruOf.finishOp

/-! ### Atomics, structure words, combines and barriers -/

theorem MemoryCanonical.sendLater {ts : List Transit} {x : Nat} {p : Bool} (h : MemoryCanonical s) :
    MemoryCanonical (sendLater s ts x p) :=
  h.upd

theorem MemoryCanonical.outLater {ts : List Transit} {x : Nat} (h : MemoryCanonical s) :
    MemoryCanonical (outLater s g ts x) := by
  unfold Machine.outLater
  split
  · exact h.modOwn.ite h
  · exact h

theorem MemoryCanonical.atomNode (h : MemoryCanonical s) : MemoryCanonical (atomNode op r s) := by
  unfold Machine.atomNode
  extract_lets g n
  refine h.actNode fun h => h.waveNode (fun h => h.holdWrite.ite ?_)
  split
  · exact h
  · exact h.writeChecked fun h => h.holdWrite

theorem MemoryCanonical.atomPoisoned (h : MemoryCanonical s) : MemoryCanonical (atomPoisoned s r g) := h.emitVals

theorem MemoryCanonical.performAtomic (h : MemoryCanonical s) : YieldsCanonical (performAtomic s p).state? := by
  unfold Machine.performAtomic
  extract_lets g r t n b
  split
  · exact h
  · split
    · exact h.poisonMem.atomPoisoned
    · split
      · trivial
      · trivial
      next hu => exact (h.land.of_result hu rfl).atomPoisoned
      next hu =>
        extract_lets old due u s1 hit s2
        have h1 : MemoryCanonical s1 := (h.land.of_result hu rfl).writeBytes.setFlags
        have h2 : MemoryCanonical s2 := (h.land.of_result hu rfl).writeBytes.ite (h.land.of_result hu rfl)
        split
        · exact h1.emitVals.delaySince
        · exact h2.emitVals.delaySince

theorem MemoryCanonical.setStag {t : STag} (h : MemoryCanonical s) : MemoryCanonical (s.setStag a t) := h.upd.ite h.upd

theorem MemoryCanonical.waveMark {load performed : Bool} (h : MemoryCanonical s) :
    MemoryCanonical (waveMark s op r load performed) :=
  h.waveIn.modOwn

theorem MemoryCanonical.ildNode (h : MemoryCanonical s) : MemoryCanonical (ildNode r s) := by
  unfold Machine.ildNode
  extract_lets g c x
  refine h.actNode fun h => h.waveNode (fun h => h.waveIn.emitNothing.ite ?_)
  split
  · exact h.memFault
  · exact h.joinWalk
  · exact h.waitAgain.ite h.memFault
  · extract_lets s1 a t s2 dfp pid
    have h1 : MemoryCanonical s1 := h.usePages
    have h2 : MemoryCanonical s2 := h1.waveMark
    exact h1.memFault.ite (h1.waveMark.ite (h2.emitVals.delaySince.ite (h1.fault.ite h1.waveMark.joinPool)))

theorem MemoryCanonical.structNode {v : Opnd} (h : MemoryCanonical s) : MemoryCanonical (structNode op r v s) := by
  unfold Machine.structNode
  extract_lets g
  exact h.actNode fun h => h.waveNode (fun h => h.holdWrite.emitWord.ite (h.writeChecked (fun h => h.holdWrite.emitWord)))

theorem MemoryCanonical.freeDef {gran : Nat} (h : MemoryCanonical s) : MemoryCanonical (freeDef s c b gran) := by
  unfold Machine.freeDef
  extract_lets at_
  split
  · exact h.yieldBuf
  · exact h

theorem MemoryCanonical.answerReader {d : DefRec} {v : Nat} (h : MemoryCanonical s) :
    MemoryCanonical (answerReader s c b a d v) := by
  unfold Machine.answerReader
  extract_lets dst plain_
  split
  · exact h
  · split
    · exact h
    · exact h.modCast.emitVals.ite h.modCast.upd

theorem MemoryCanonical.fillWord {v : Nat} (h : MemoryCanonical s) : MemoryCanonical (fillWord s a v) := by
  unfold Machine.fillWord
  extract_lets t s1 s2
  have h1 : MemoryCanonical s1 := h.writeBytes
  have h2 : MemoryCanonical s2 := h1.setStag
  split
  · exact h2.foldl fun h => h.answerReader.freeDef

theorem MemoryCanonical.voidReaders {ft : Nat} (h : MemoryCanonical s) : MemoryCanonical (voidReaders s c b ft) := by
  unfold Machine.voidReaders
  split
  · exact h
  · refine h.foldl fun h => ?_
    split
    · exact h
    · exact h.foldl fun h => h.defPut.ite h

theorem MemoryCanonical.reserveWords {xs : List Pend} (h : MemoryCanonical s) : YieldsCanonical (reserveWords s xs) := by
  induction xs generalizing s with
  | nil => exact h
  | cons x l ih =>
    unfold Machine.reserveWords
    refine YieldsCanonical.ite ?_ (ih h)
    split
    · exact YieldsCanonical.ite trivial (ih h.setStag)
    · exact ih h

theorem MemoryCanonical.unreserveWords {held : List Pend} (h : MemoryCanonical s) : MemoryCanonical (unreserveWords s held) :=
  h.foldl fun h => h.setStag

theorem MemoryCanonical.performStruct (h : MemoryCanonical s) : YieldsCanonical (performStruct s p).state? := by
  unfold Machine.performStruct
  extract_lets g x
  split
  · exact h.poisonMem
  · split
    · trivial
    · trivial
    next hu => exact h.land.of_result hu rfl
    next hu =>
      extract_lets a t mine
      split
      · exact (h.land.of_result hu rfl).fillWord
      · split
        · trivial
        · split
          · exact (h.land.of_result hu rfl).writeBytes.setStag
          · exact h.land.of_result hu rfl

theorem MemoryCanonical.execCmb (h : MemoryCanonical s) : OutcomeCanonical (execCmb r s) := by
  unfold Machine.execCmb
  extract_lets g b n x ac cw
  exact h.actNode fun h => h.waveNode (fun h => h.holdWrite.emitData.ite (h.memFault.ite (h.writeChecked (fun h =>
    h.holdWrite.emitData))))

theorem MemoryCanonical.releaseCell {x : Cell} (h : MemoryCanonical s) : MemoryCanonical (releaseCell s x) := by
  unfold Machine.releaseCell
  split
  · exact h.softRec
  · extract_lets t w n as mem
    split
    · exact h
    · exact h.writeBytes.setFlags

theorem MemoryCanonical.joinCell {q : Partial} {pa : Nat} (h : MemoryCanonical s) : YieldsCanonical (joinCell s p q pa) := by
  unfold Machine.joinCell
  extract_lets n h' g x
  split
  · exact YieldsCanonical.ite trivial (YieldsCanonical.ite h.upd h.upd.releaseCell)
  · exact YieldsCanonical.ite trivial (YieldsCanonical.ite h.releaseCell h.upd)

theorem MemoryCanonical.rejoinCells {xs : List (Nat × Pend × Partial)} (h : MemoryCanonical s) :
    MemoryCanonical (rejoinCells xs s) := by
  induction xs generalizing s with
  | nil => exact h
  | cons x l ih =>
    unfold Machine.rejoinCells
    refine (ih h).ite ?_
    split
    next hu => exact ih (h.upd.joinCell.of_eq hu)
    · exact ih h

theorem MemoryCanonical.scanCells (h : MemoryCanonical s) : MemoryCanonical (scanCells s) := h.rejoinCells

theorem MemoryCanonical.performCmb (h : MemoryCanonical s) : YieldsCanonical (performCmb s p).state? := by
  unfold Machine.performCmb
  extract_lets g n x b
  split
  · exact h.poisonMem
  · split
    · trivial
    · split
      · trivial
      · trivial
      next hu => exact h.land.of_result hu rfl
      next hu => exact (h.land.of_result hu rfl).upd

theorem MemoryCanonical.performFence {x : Pend} (h : MemoryCanonical s) : YieldsCanonical (performFence s x).state? := h

theorem MemoryCanonical.setBarrier {x : Barrier} (h : MemoryCanonical s) : MemoryCanonical (s.setBarrier x) := h.upd.ite h.upd

theorem MemoryCanonical.execBarWait (h : MemoryCanonical s) : OutcomeCanonical (execBarWait r s) := by
  unfold Machine.execBarWait
  extract_lets g a
  exact h.actNode fun h => h.waveNode (fun h => h.waveMark.emitNothing.ite (h.waveMark.emitWord.ite h.waveMark.waitAgain))

theorem MemoryCanonical.queueCtl {w : CtlWord} (h : MemoryCanonical s) : YieldsCanonical (queueCtl s c w) :=
  YieldsCanonical.ite trivial h.modCrs

theorem MemoryCanonical.reportGuards {f : GuardNote → Bool} (h : MemoryCanonical s) : MemoryCanonical (reportGuards s f) :=
  h.upd.foldl fun h => h.softRec

theorem MemoryCanonical.strandGuards {cx : BitVec 12} {str : BitVec 11} (h : MemoryCanonical s) :
    MemoryCanonical (strandGuards s cx str) :=
  h.ite h.reportGuards

theorem MemoryCanonical.performArrive (h : MemoryCanonical s) : YieldsCanonical (performArrive s p).state? := by
  unfold Machine.performArrive
  extract_lets g r count scope str w
  split
  · exact h.poisonRec.emitVals
  · split
    · split
      · trivial
      · split
        next hu => exact h.queueCtl.of_eq hu
        · trivial
    · split
      · extract_lets s1 s2
        have h1 : MemoryCanonical s1 := h.setBarrier.strandGuards
        have h2 : MemoryCanonical s2 := h1.softRec.ite h1
        exact h2.emitVals

theorem MemoryCanonical.shadowChecked {write : Bool} {act : State → State} (h : MemoryCanonical s)
    (ha : ∀ {u}, MemoryCanonical u → MemoryCanonical (act u)) : MemoryCanonical (shadowChecked s op r write act) := by
  unfold Machine.shadowChecked
  extract_lets g x x1
  refine h.memFault.ite ?_
  split
  · exact h.memFault
  · exact h.joinWalk
  · exact ha h.usePages

theorem MemoryCanonical.execShadow (h : MemoryCanonical s) : OutcomeCanonical (execShadow r s) := by
  unfold Machine.execShadow
  extract_lets g a cp hold shadowed
  exact h.actNode fun h => (h.modOwn.ite h).emitWord.ite (h.shadowChecked (fun h => (h.modOwn.ite h).emitWord))

theorem MemoryCanonical.performShadow (h : MemoryCanonical s) : YieldsCanonical (performShadow s p).state? := by
  unfold Machine.performShadow
  extract_lets g x
  split
  · exact h.poisonRec
  · split
    · trivial
    · extract_lets src dst
      split
      · trivial
      · exact h.fetchPage.setDirty.writeBytes

theorem MemoryCanonical.execPublish (h : MemoryCanonical s) : OutcomeCanonical (execPublish r s) := by
  unfold Machine.execPublish
  extract_lets g a
  exact h.actNode fun h => h.waveNode (fun h => h.holdWrite.emitWord.ite (h.shadowChecked (fun h => h.holdWrite.emitWord)))

theorem MemoryCanonical.flipSelector {base : Nat} (h : MemoryCanonical s) : MemoryCanonical (flipSelector s base) :=
  h.upd.ite h.upd

theorem MemoryCanonical.performPublish (h : MemoryCanonical s) : YieldsCanonical (performPublish s p).state? := by
  unfold Machine.performPublish
  extract_lets g x str
  split
  · exact h.poisonRec
  · split
    · trivial
    · extract_lets base page w
      split
      · trivial
      · split
        · split
          · trivial
          · split
            next hu => exact h.queueCtl.of_eq hu
            · trivial
        · exact h.flipSelector

/-! ### Gate streams -/

theorem MemoryCanonical.gateNode (h : MemoryCanonical s) : MemoryCanonical (gateNode op r s) :=
  h.actWith h.emitOn fun h => h.modOwn

theorem MemoryCanonical.scanFences (h : MemoryCanonical s) : MemoryCanonical (scanFences s c b) :=
  h.setBay.foldl fun h => h.sendLater

theorem MemoryCanonical.freeStream (h : MemoryCanonical s) : MemoryCanonical (freeStream s c b sc) := h.modBay.scanFences

theorem MemoryCanonical.modStream {f : Stream → Stream} (h : MemoryCanonical s) : MemoryCanonical (modStream s c b sc f) :=
  h.modBay

theorem MemoryCanonical.gateFault {kind code owner addr pos : Nat} (h : MemoryCanonical s) :
    MemoryCanonical (gateFault s c b sc x kind code owner addr pos) :=
  h.modStream.fileFault

theorem MemoryCanonical.askFrame (h : MemoryCanonical s) : MemoryCanonical (askFrame s c b sc x) := by
  unfold Machine.askFrame
  extract_lets w s1
  have h1 : MemoryCanonical s1 := h.modStream
  split
  · exact h
  · exact h1.joinPool

theorem MemoryCanonical.bindStream (h : MemoryCanonical s) : MemoryCanonical (bindStream s c b sc) := by
  unfold Machine.bindStream
  split
  · exact h
  · refine h.ite ?_
    split
    · exact h
    · split
      · exact h
      · exact h.guestWalk
      · exact h.gateFault
      · split
        · exact h
        · exact h
        · exact h.gateFault
        · extract_lets x s1
          have h1 : MemoryCanonical s1 := h.modStream
          exact h1.sendLater.freeStream.ite (h1.askFrame.ite h1)

theorem MemoryCanonical.moveElem (h : MemoryCanonical s) : YieldsCanonical (moveElem s c x n).state? := by
  unfold Machine.moveElem
  split
  · trivial
  · trivial
  · trivial
  · split
    · trivial
    · trivial
    · trivial
    · split
      · split
        · exact h.poisonRec
        · exact h.writeBytes
      · exact h.writeRegion

theorem MemoryCanonical.gatePull {m : Moved} (h : MemoryCanonical s) : MemoryCanonical (gatePull s c x m) := by
  unfold Machine.gatePull
  split
  · exact h.needPage
  · exact h

theorem MemoryCanonical.moveElems {fuel : Nat} (h : MemoryCanonical s) : MemoryCanonical (moveElems c b sc fuel s) := by
  induction fuel generalizing c b sc s with
  | zero => exact h
  | succ fuel ih =>
    unfold Machine.moveElems
    split
    · exact h
    · refine h.ite ?_
      split
      next hu => exact ih ((h.moveElem.of_result hu rfl).modStream)
      · exact h.gatePull

theorem MemoryCanonical.drainElem (h : MemoryCanonical s) : YieldsCanonical (drainElem s x n).state? := by
  unfold Machine.drainElem
  split
  · trivial
  · trivial
  · trivial
  · extract_lets a
    split
    · exact h.poisonRec
    · exact h.writeRegion

theorem MemoryCanonical.drainElems {xs : List Nat} (h : MemoryCanonical s) : MemoryCanonical (drainElems c b sc xs s) := by
  induction xs generalizing c b sc s with
  | nil => exact h
  | cons x l ih =>
    unfold Machine.drainElems
    split
    · exact h
    · split
      next hu => exact ih ((h.drainElem.of_result hu rfl).modStream)
      · exact h.gatePull

theorem MemoryCanonical.beatToken {ft : BitVec 12} {bs : List Byte} {p : Bool} (h : MemoryCanonical s) :
    MemoryCanonical (beatToken s c x ft bs p) :=
  h.upd

theorem MemoryCanonical.sendBeat (h : MemoryCanonical s) : MemoryCanonical (sendBeat s c b sc) := by
  unfold Machine.sendBeat
  split
  · exact h
  · split
    · exact h
    · split
      · exact h.beatToken.modStream.askFrame.ite h.beatToken.modStream
      · exact h.gatePull

theorem MemoryCanonical.cancelStream (h : MemoryCanonical s) : MemoryCanonical (cancelStream s c b sc x) := by
  unfold Machine.cancelStream
  extract_lets s1 s2 s3
  have h1 : MemoryCanonical s1 := h.withdrawBay
  have h2 : MemoryCanonical s2 := by
    unfold s2
    split
    · split
      · exact h1.beatToken
    · exact h1
  exact h2.upd.sendLater.freeStream

theorem MemoryCanonical.takeRequest {q : AfterReq} (h : MemoryCanonical s) : YieldsCanonical (takeRequest s q) := by
  unfold Machine.takeRequest
  extract_lets p g c b sc y st
  refine YieldsCanonical.ite h.poisonRec.sendLater (YieldsCanonical.ite h.setBay.scanFences (YieldsCanonical.ite ?_
    (YieldsCanonical.ite trivial h.setBay)))
  split
  · exact YieldsCanonical.ite h.cancelStream.sendLater h.sendLater
  · exact h.sendLater

theorem MemoryCanonical.endStream (h : MemoryCanonical s) : MemoryCanonical (endStream s c b sc) := by
  unfold Machine.endStream
  split
  · exact h
  · exact h.sendLater.freeStream.ite h

theorem MemoryCanonical.execGateStreamBind (h : MemoryCanonical s) : OutcomeCanonical (execGateStreamBind e s) := by
  unfold Machine.execGateStreamBind
  split
  · exact h.bindStream

theorem MemoryCanonical.execGateFeedBeat (h : MemoryCanonical s) : OutcomeCanonical (execGateFeedBeat e s) := by
  unfold Machine.execGateFeedBeat
  split
  · split
    · exact h.ite h.sendBeat
    · exact h

theorem MemoryCanonical.execGateStreamComplete (h : MemoryCanonical s) : OutcomeCanonical (execGateStreamComplete e s) := by
  unfold Machine.execGateStreamComplete
  split
  · split
    · exact h
    · refine h.ite (.endStream ?_)
      split
      · exact h
      · exact h.drainElems
      · exact h.moveElems

theorem MemoryCanonical.execGateStreamFault (h : MemoryCanonical s) : OutcomeCanonical (execGateStreamFault e s) := by
  unfold Machine.execGateStreamFault
  split
  · split
    · exact h.gateFault
    · exact h

end

end Sys2Proof.Machine
end

section
/-! PROOF. The heap, the Ridge, kernels and contexts keep memory canonical (R299 to R347, R356 to R362, R418). -/

namespace Sys2Proof.Machine

section
variable {s : State} {cx c b n iss key t lo ch fuel str : Nat} {es : List Holding} {p : Pend} {h' : Holding}
    {k : TaskCell} {r : NodeRec} {del_ : Bool} {x : RidgeChange}

/-! ### The gain heap -/

theorem MemoryCanonical.putTask (h : MemoryCanonical s) : MemoryCanonical (s.putTask cx t k) := by
  unfold Machine.State.putTask
  split
  · exact h.writeRegion
  · exact h

theorem MemoryCanonical.addResid {new old : Nat} (h : MemoryCanonical s) : MemoryCanonical (addResid s cx new old) := by
  unfold Machine.addResid
  split
  · split
    · exact h.modCtx.setFlags

theorem MemoryCanonical.modHeap {f : Heap → Heap} (h : MemoryCanonical s) : MemoryCanonical (modHeap s c f) := h.modCrs

theorem MemoryCanonical.heapRingAdvance {xs : List Nat} (h : MemoryCanonical s) :
    MemoryCanonical (heapRingAdvance cx c xs s) := by
  induction xs generalizing cx c s with
  | nil => exact h
  | cons x l ih =>
    unfold Machine.heapRingAdvance
    exact (ih h.setRing).ite h

theorem MemoryCanonical.heapRecordDone {off : Nat} (h : MemoryCanonical s) : MemoryCanonical (heapRecordDone s cx c off) := by
  unfold Machine.heapRecordDone
  extract_lets w
  split
  next hu => exact (h.ringPut.of_ok hu).heapRingAdvance
  · exact h

theorem MemoryCanonical.evict {e : HeapEntry} (h : MemoryCanonical s) : MemoryCanonical (evict s cx c e) := by
  unfold Machine.evict
  extract_lets hold r h' seq bs
  split
  · exact h.modHeap.fileFault
  · split
    · exact h.modHeap.fileFault
    next hu => exact (h.ringPut.of_ok hu).setRing.modHeap

theorem MemoryCanonical.returnRecords {xs : List (Nat × Nat)} (h : MemoryCanonical s) :
    MemoryCanonical (returnRecords cx c xs s) := by
  induction xs generalizing cx c s with
  | nil => exact h
  | cons x l ih =>
    unfold Machine.returnRecords
    refine h.ite ?_
    extract_lets s1
    have h1 : MemoryCanonical s1 := h.heapRecordDone
    split
    · exact h1.modHeap.ite (ih h1)
    · exact ih h1

theorem MemoryCanonical.rekey (h : MemoryCanonical s) : MemoryCanonical (rekey s cx c t key) := h.modHeap

theorem MemoryCanonical.dequeue (h : MemoryCanonical s) : MemoryCanonical (dequeue s cx t k) := by
  unfold Machine.dequeue
  extract_lets s1
  have h1 : MemoryCanonical s1 := h.putTask
  split
  · exact h1.modHeap.returnRecords
  · exact h1

theorem MemoryCanonical.queueTask (h : MemoryCanonical s) : MemoryCanonical (queueTask s cx t k) :=
  h.putTask.ite h.putTask.modHeap

theorem MemoryCanonical.setGain {new : Nat} (h : MemoryCanonical s) : MemoryCanonical (setGain s cx t new k) := by
  unfold Machine.setGain
  extract_lets s1 k1
  have h1 : MemoryCanonical s1 := h.addResid
  split
  · exact h1.dequeue.ite h1.putTask.rekey
  · exact h1.putTask
  · exact h1.queueTask.ite h1.putTask

theorem MemoryCanonical.applyTask (h : MemoryCanonical s) : MemoryCanonical (applyTask s p) := by
  unfold Machine.applyTask
  split
  · split
    · exact h
    · split
      · refine (h.softAt.ite (h.addResid.modHeap.queueTask.ite h.addResid.modHeap.putTask)).ite (h.addResid.queueTask.ite
        h.setFlags.setGain)

theorem MemoryCanonical.grantEntry {w : HeapWait} (h : MemoryCanonical s) : MemoryCanonical (grantEntry s c w) :=
  h.applyTask.ite h.modHeap.modOwn.emitWord

theorem MemoryCanonical.serveHeap (h : MemoryCanonical s) : MemoryCanonical (serveHeap cx c fuel s) := by
  induction fuel generalizing cx c s with
  | zero => exact h
  | succ fuel ih =>
    unfold Machine.serveHeap
    extract_lets h'
    split
    · exact h
    · extract_lets gone need give
      have hgone : MemoryCanonical gone := h.modHeap
      clear_value need
      split
      · exact ih hgone.grantEntry
      · refine (ih (ih hgone.modHeap)).ite ((ih h.modHeap.grantEntry).ite (h.ite ?_))
        split
        · exact h
        · exact (ih h.evict.modHeap.grantEntry).ite h.evict

theorem MemoryCanonical.serveWaiting (h : MemoryCanonical s) : MemoryCanonical (serveWaiting s cx) :=
  h.foldl fun h => h.serveHeap

theorem MemoryCanonical.commitChange (h : MemoryCanonical s) : MemoryCanonical (commitChange s p) := by
  unfold Machine.commitChange
  split
  · refine h.poisonRec.ite ?_
    split
    · exact h.applyTask.serveWaiting
    · exact h.modHeap.serveHeap

theorem MemoryCanonical.disarm {x : Nat × Nat × Nat × TakeLatch} (h : MemoryCanonical s) : MemoryCanonical (disarm s x) := by
  unfold Machine.disarm
  split
  · extract_lets s1 s2
    have h1 : MemoryCanonical s1 := h.modElem
    have h2 : MemoryCanonical s2 := h1.withdrawBay
    split
    · exact h2.freeFrame
    · exact h2

theorem MemoryCanonical.endTest (h : MemoryCanonical s) : MemoryCanonical (endTest s cx) := by
  unfold Machine.endTest
  extract_lets x
  split
  · exact h
  · exact (h.upd.foldl (fun h => h.disarm)).ite h

theorem MemoryCanonical.freedUnit (h : MemoryCanonical s) : MemoryCanonical (freedUnit s cx c) := h.returnRecords.serveHeap

theorem MemoryCanonical.unreserve (h : MemoryCanonical s) : MemoryCanonical (unreserve s cx c) := by
  unfold Machine.unreserve
  split
  · exact h.modHeap.freedUnit
  · exact h

theorem MemoryCanonical.commitSpawn (h : MemoryCanonical s) : MemoryCanonical (commitSpawn s p) := by
  unfold Machine.commitSpawn
  extract_lets g cx c t b
  refine h.poisonRec.ite ?_
  split
  · exact h.modHeap.unreserve.serveHeap
  · exact h.unreserve
  · extract_lets queued running s1 s2 k s3
    have h1 : MemoryCanonical s1 := h.addResid.putTask.ite h.setGain.serveWaiting
    have h2 : MemoryCanonical s2 := h.addResid
    have h3 : MemoryCanonical s3 := h2.putTask
    refine h1.unreserve.ite (h2.putTask.unreserve.ite ?_)
    split
    · exact h3.modHeap.serveHeap
    · exact h3

theorem MemoryCanonical.commitTol {g : Firing} (h : MemoryCanonical s) : MemoryCanonical (commitTol s g) :=
  h.poisonRec.ite h.modCtx

theorem MemoryCanonical.taskNode {op : Nat} {poisoned act : State → Args → State} (h : MemoryCanonical s)
    (hp : ∀ {u a}, MemoryCanonical u → MemoryCanonical (poisoned u a))
    (ha : ∀ {u a}, MemoryCanonical u → MemoryCanonical (act u a)) : MemoryCanonical (taskNode op r s poisoned act) := by
  unfold Machine.taskNode
  extract_lets g a
  refine h.actNode fun h => (hp h).ite (h.fault.ite ?_)
  split
  · exact h.hardFault
  · exact h.guestWalk.waitAgain
  · exact h.callHome.waitAgain.ite (ha h)
  · exact ha h

theorem MemoryCanonical.changeNode {op : Nat} (h : MemoryCanonical s) : MemoryCanonical (changeNode op r s) :=
  h.taskNode (fun h => h.holdArgs.emitWord) fun h => h.holdArgs.emitWord

theorem MemoryCanonical.askTake (h : MemoryCanonical s) : MemoryCanonical (askTake s p) := by
  unfold Machine.askTake
  extract_lets g c set s1
  have h1 : MemoryCanonical s1 := h.modElem
  split
  · exact h
  · exact h1.joinPool

theorem MemoryCanonical.execHeapPop {e : EvArgs} (h : MemoryCanonical s) : OutcomeCanonical (execHeapPop e s) := by
  unfold Machine.execHeapPop
  extract_lets c __src
  split
  · exact h
  · extract_lets cx task pops it w g r s1 s2 arg s3 tok s4 s5 s6
    have h1 : MemoryCanonical s1 := h.modHeap
    have h2 : MemoryCanonical s2 := h1.modFrame
    have h3 : MemoryCanonical s3 := by
      unfold s3
      split
      · exact h2.putTask
      · exact h2
    have h5 : MemoryCanonical s5 := h3.upd.modElem
    have h6 : MemoryCanonical s6 := h5.freedUnit.endTest
    exact h6.askTake.ite h6

/-! ### The Ridge -/

theorem MemoryCanonical.execRdgSt (h : MemoryCanonical s) : OutcomeCanonical (execRdgSt r s) := by
  unfold Machine.execRdgSt
  extract_lets g b x
  exact h.actWith h.emitPos fun h => h.waveNode (fun h => h.holdWrite.emitVals.ite (h.memFault.ite (h.memFault.ite
    h.holdWrite.emitVals)))

theorem MemoryCanonical.performRdgSt (h : MemoryCanonical s) : YieldsCanonical (performRdgSt s p).state? := by
  unfold Machine.performRdgSt
  extract_lets g r c str
  split
  · exact h.poisonMem.emitPos
  · split
    · trivial
    · split
      · trivial
      · split
        · trivial
        · split
          · exact h.modCrs

theorem MemoryCanonical.rdgLdNode (h : MemoryCanonical s) : MemoryCanonical (rdgLdNode r s) := by
  unfold Machine.rdgLdNode
  extract_lets g x c
  refine h.actNode fun h => h.waveNode (fun h => h.waveIn.emitNothing.ite (h.memFault.ite (h.memFault.ite (.ite ?_ h.waveIn))))
  split
  · exact h.waveIn.waveIn.emitAfter

theorem MemoryCanonical.refireWaits {f : Pend → Bool} (h : MemoryCanonical s) : MemoryCanonical (refireWaits s f) := h.upd

theorem MemoryCanonical.recordChange (h : MemoryCanonical s) : MemoryCanonical (recordChange s x) := h.upd.ite (h.upd.ite h.upd)

theorem MemoryCanonical.execRidgeOccurrence {x : EvArgs} (h : MemoryCanonical s) :
    OutcomeCanonical (execRidgeOccurrence x s) := by
  unfold Machine.execRidgeOccurrence
  split
  · exact h
  · refine h.ite ?_
    split
    · exact h
    · extract_lets take ws s1
      have h1 : MemoryCanonical s1 := h.modCrs
      split
      · exact h1.recordChange.foldl fun h => h.elim h.outLater

theorem MemoryCanonical.execRidgeControlWord {x : EvArgs} (h : MemoryCanonical s) :
    OutcomeCanonical (execRidgeControlWord x s) := by
  unfold Machine.execRidgeControlWord
  split
  · exact h
  · extract_lets n s1 rec_ kind num
    have h1 : MemoryCanonical s1 := h.modCrs
    refine h.ite (.ite ?_ h1.recordChange)
    split
    · extract_lets s2 s3 s4
      have h2 : MemoryCanonical s2 := h1.setBarrier.strandGuards
      have h3 : MemoryCanonical s3 := by
        unfold s3
        split
        · exact h2.softRec
        · exact h2
      have h4 : MemoryCanonical s4 := h3.recordChange
      exact h4.elim h4.outLater

theorem MemoryCanonical.dropSlot {slot : Nat} (h : MemoryCanonical s) : MemoryCanonical (dropSlot s slot) := by
  unfold Machine.dropSlot
  split
  · exact h.upd.ite h.upd.scanSlots
  · exact h

theorem MemoryCanonical.applyChange (h : MemoryCanonical s) : MemoryCanonical (applyChange s x) := by
  unfold Machine.applyChange
  split
  · exact h.setRidge fun h => applyBytes_wf h
  · split
    · exact h.ite h.setBarrier
    · exact h.flipSelector
    · exact (h.setRidge (fun h => Memory.clear_wf h _ _)).dropSlot
    · exact h

theorem MemoryCanonical.keepMirrors (h : MemoryCanonical s) : MemoryCanonical (keepMirrors s x) := h.ite h.upd

theorem MemoryCanonical.applyBeat {xs : List RidgeChange} (h : MemoryCanonical s) : MemoryCanonical (applyBeat xs s) := by
  induction xs generalizing s with
  | nil => exact h
  | cons x l ih =>
    unfold Machine.applyBeat
    exact ih h.upd.keepMirrors.applyChange

theorem MemoryCanonical.execBarrierPhaseComplete {e : EvArgs} (h : MemoryCanonical s) :
    OutcomeCanonical (execBarrierPhaseComplete e s) := by
  unfold Machine.execBarrierPhaseComplete
  split
  · exact h
  · exact h.setBarrier.refireWaits

/-! ### Kernels -/

theorem MemoryCanonical.hostSend {opc p0 p1 : Nat} (h : MemoryCanonical s) : MemoryCanonical (hostSend s opc cx p0 p1) := h.upd

theorem MemoryCanonical.heapCellsEnd {ok : Bool} (h : MemoryCanonical s) : MemoryCanonical (heapCellsEnd s cx c ok) := by
  unfold Machine.heapCellsEnd
  extract_lets h' recs queued s1 s2 s3
  have h1 : MemoryCanonical s1 := by
    unfold s1
    refine h.foldl fun h => ?_
    split
    · exact h.putTask.ite h
    · exact h
  have h2 : MemoryCanonical s2 := by
    unfold s2
    refine h1.ite (h1.foldl (fun h => ?_))
    split
    · exact h.putTask.ite h
    · exact h
  have h3 : MemoryCanonical s3 := h2.foldl fun h => h.heapRecordDone
  exact h3.modHeap

theorem MemoryCanonical.unreserveSlots {cx : BitVec 12} {ns : List Nat} (h : MemoryCanonical s) :
    MemoryCanonical (unreserveSlots s cx ns) :=
  h.upd.scanSlots

theorem MemoryCanonical.heapKernelEnd {k : Kernel} {st : KStatus} (h : MemoryCanonical s) :
    MemoryCanonical (heapKernelEnd s k st) :=
  h.ite (((h.foldl (fun h => h.disarm)).ite h).foldl (fun h => h.heapCellsEnd))

theorem MemoryCanonical.endKernel {k : Kernel} {st : KStatus} {kind code : Nat} (h : MemoryCanonical s) :
    MemoryCanonical (endKernel s k st kind code) := by
  unfold Machine.endKernel
  split
  · exact h
  · extract_lets mine cx ended s1 s2 s3 s4 s5 s6
    have h3 : MemoryCanonical s3 := (h.upd.foldl fun h => h.withdrawPool).heapKernelEnd
    have h4 : MemoryCanonical s4 := h3.ite h3.unreserveSlots
    have h5 : MemoryCanonical s5 := h4.upd.ite h4
    have h6 : MemoryCanonical s6 := h5.reportGuards
    exact h6.hostSend.ite h6

theorem MemoryCanonical.settleKilled {f : FaultEntry → Bool} (h : MemoryCanonical s) : MemoryCanonical (settleKilled s f) :=
  (h.foldl (fun h => h.noteVerdict)).upd

theorem MemoryCanonical.clearReady {ft : Nat} (h : MemoryCanonical s) : MemoryCanonical (clearReady s c b ft) :=
  h.upd.foldl fun h => h.modElem

theorem MemoryCanonical.dropCast {ft : Nat} (h : MemoryCanonical s) : MemoryCanonical (dropCast s c b ft) := by
  unfold Machine.dropCast
  split
  · exact h
  · extract_lets s1 s2 s3 s4 s5 s6 s7 s8 s9 s10
    have h1 : MemoryCanonical s1 := h.unreserveWords.ite h
    have h2 : MemoryCanonical s2 := h1.withdrawCast
    have h3 : MemoryCanonical s3 := h2.clearReady
    have h5 : MemoryCanonical s5 := h3.upd.upd
    have h6 : MemoryCanonical s6 := h5.voidReaders
    have h7 : MemoryCanonical s7 := h6.foldl fun h => h.freeCru
    have h8 : MemoryCanonical s8 := by
      unfold s8
      split
      · exact h7.foldl fun h => h.freeSlot
      · exact h7
    have h9 : MemoryCanonical s9 := by
      unfold s9
      refine h8.ite ?_
      split
      · exact (h8.foldl (fun h => h.unreserve)).endTest
      · exact h8
    have h10 : MemoryCanonical s10 := h9.modFrame
    exact h10.freeAll

theorem MemoryCanonical.abandonFreed (h : MemoryCanonical s) : MemoryCanonical (abandonFreed s c b) := by
  unfold Machine.abandonFreed
  refine h.foldl fun h => ?_
  split
  · exact h.settleKilled.abandonSpill.ite h
  · exact h

theorem MemoryCanonical.dropFrames {fts : List Nat} (h : MemoryCanonical s) : MemoryCanonical (dropFrames s c b fts) :=
  ((h.foldl (fun h => h.dropCast)).foldl (fun h => h.settleKilled.modFrame)).freeAll.abandonFreed

theorem MemoryCanonical.dropLatches (h : MemoryCanonical s) : MemoryCanonical (dropLatches s cx str) :=
  h.foldl fun h => h.disarm

theorem MemoryCanonical.dropStreams {f : Stream → Bool} (h : MemoryCanonical s) : MemoryCanonical (dropStreams s f) :=
  h.foldl fun h => h.foldl (fun h => h.withdrawBay.freeStream)

theorem MemoryCanonical.dropCrucibles (h : MemoryCanonical s) : MemoryCanonical (dropCrucibles s cx str) :=
  h.foldl fun h => h.freeCru.ite h

theorem MemoryCanonical.dropFills (h : MemoryCanonical s) : MemoryCanonical (dropFills s cx str) := h.upd

theorem MemoryCanonical.killStrand (h : MemoryCanonical s) : MemoryCanonical (killStrand s cx str) := by
  unfold Machine.killStrand
  extract_lets s1 s2 s3
  have h1 : MemoryCanonical s1 := h.foldl fun h => h.ite h.dropFrames
  have h2 : MemoryCanonical s2 := h1.dropStreams
  have h3 : MemoryCanonical s3 := h2.dropLatches.dropCrucibles.dropFills
  exact h3.settleKilled

/-! ### Contexts and their holdings -/

theorem MemoryCanonical.syncParts (h : MemoryCanonical s) : MemoryCanonical (syncParts s key) := h.modBay

theorem MemoryCanonical.takeSlots (h : MemoryCanonical s) : MemoryCanonical (takeSlots s cx lo n) := h.upd.scanSlots

theorem MemoryCanonical.forgetSlot (h : MemoryCanonical s) : MemoryCanonical (forgetSlot s cx n) := h.upd

theorem MemoryCanonical.leaveSlot {from_ to_ : Nat} (h : MemoryCanonical s) : MemoryCanonical (leaveSlot s from_ to_ n) := by
  unfold Machine.leaveSlot
  split
  · exact h
  · exact h.ite (h.forgetSlot.upd.ite h.forgetSlot.upd.modCrs)

theorem MemoryCanonical.leaveSlots {from_ to_ : Nat} (h : MemoryCanonical s) : MemoryCanonical (leaveSlots s from_ to_ lo n) :=
  h.foldl fun h => h.leaveSlot

theorem MemoryCanonical.modHolds {f : List Holding → List Holding} (h : MemoryCanonical s) :
    MemoryCanonical (modHolds s cx f) :=
  h.ite h.modCtx

theorem MemoryCanonical.roomBack (h : MemoryCanonical s) : MemoryCanonical (roomBack s cx key lo n) := h.modBay

theorem MemoryCanonical.roomAway (h : MemoryCanonical s) : MemoryCanonical (roomAway s cx key lo n) := h.modBay

theorem MemoryCanonical.zeroRoom (h : MemoryCanonical s) : MemoryCanonical (zeroRoom s key lo n) :=
  h.touchRange.setMem fun h => Memory.clear_wf h _ _

theorem MemoryCanonical.wakePools (h : MemoryCanonical s) : MemoryCanonical (wakePools s key cx) := by
  unfold Machine.wakePools
  split
  · exact h.foldl fun h => (h.foldl (fun h => h.restoreStep)).scanPool

theorem MemoryCanonical.freeCrus (h : MemoryCanonical s) : MemoryCanonical (freeCrus s cx h') :=
  h.foldl fun h => h.freeCru.ite h

theorem MemoryCanonical.serveCrus (h : MemoryCanonical s) : MemoryCanonical (serveCrus s h') := h.foldl fun h => h.scanCru

theorem MemoryCanonical.giveItem (h : MemoryCanonical s) : YieldsCanonical (giveItem s iss ch h') := by
  unfold Machine.giveItem
  extract_lets k c moved added has s' sel r share
  have h'1 : MemoryCanonical s' := h.modHolds.modHolds
  split
  · clear_value k
    split
    · exact YieldsCanonical.ite trivial (YieldsCanonical.ite trivial h'1.syncParts.wakePools)
    · exact YieldsCanonical.ite h.modHolds.modHolds.roomAway.roomBack.zeroRoom.wakePools trivial
    · exact YieldsCanonical.ite trivial h.modHolds
    · exact YieldsCanonical.ite h.modHolds.modHolds.freeCrus.serveCrus trivial
    · exact YieldsCanonical.ite h.modHolds.modHolds.takeSlots trivial
    · exact YieldsCanonical.ite h.modHolds trivial
    · exact YieldsCanonical.ite h.modHolds.freedUnit trivial
    · exact h.modHolds.modCtx
    · exact YieldsCanonical.ite h.modHolds.modHolds trivial
    · exact YieldsCanonical.ite h.modHolds trivial
    · exact YieldsCanonical.ite h.modHolds trivial
    · exact h.modHolds.modCtx

theorem MemoryCanonical.giveList {xs : List Holding} (h : MemoryCanonical s) :
    YieldsCanonical (giveList s iss ch xs).toOption := by
  induction xs generalizing s iss ch with
  | nil => exact h
  | cons x l ih =>
    unfold Machine.giveList
    split
    · trivial
    · split
      next hu => exact ih (h.giveItem.of_eq hu)
      · trivial

theorem MemoryCanonical.createChild {ws : List Nat} (h : MemoryCanonical s) :
    YieldsCanonical ((createChild s iss ws es).toOption.map Prod.snd) := by
  unfold Machine.createChild
  split
  · trivial
  · split
    · trivial
    · extract_lets s1
      split
      · trivial
      next hu => exact (h.upd.giveList.of_ok hu).modCtx

theorem MemoryCanonical.imagesDone (h : MemoryCanonical s) : MemoryCanonical (imagesDone s c b cx) := by
  unfold Machine.imagesDone
  extract_lets y s1 s2
  have h1 : MemoryCanonical s1 := by
    unfold s1
    refine h.foldl fun h => ?_
    split
    · exact h.imageDone
    · exact h
  have h2 : MemoryCanonical s2 := h1.foldl fun h => h.imageDone
  exact h2.foldl fun h => h.foldl (fun h => h.imageDone)

theorem MemoryCanonical.clearBay (h : MemoryCanonical s) : MemoryCanonical (clearBay s c b cx del_) := by
  unfold Machine.clearBay
  extract_lets s1 s2
  have h1 : MemoryCanonical s1 := by
    unfold s1
    refine h.foldl fun h => ?_
    split
    · extract_lets s3
      have h3 : MemoryCanonical s3 := by
        unfold s3
        split
        · exact h.unreserveWords.ite h
        · exact h
      exact h3.leaveBytes.clearReady
    · exact h
  have h2 : MemoryCanonical s2 := h1.modBay
  exact h2.scanFences

theorem MemoryCanonical.clearCourse (h : MemoryCanonical s) : MemoryCanonical (clearCourse s c cx del_) := by
  unfold Machine.clearCourse
  refine .modCrs (h.foldl fun h => ?_)
  extract_lets x s1
  have h1 : MemoryCanonical s1 := h.setCru.scanCru.ite h
  exact h1.freeCru.ite h1

theorem MemoryCanonical.clearTags (h : MemoryCanonical s) : MemoryCanonical (clearTags s cx) := h.upd

theorem MemoryCanonical.clearWork (h : MemoryCanonical s) : MemoryCanonical (clearWork s cx del_) :=
  ((h.clearTags.foldl (fun h => h.clearBay)).foldl (fun h => h.clearCourse)).upd.scanSlots

theorem MemoryCanonical.openWaits (h : MemoryCanonical s) : MemoryCanonical (openWaits s cx c) := h.foldl fun h => h.serveHeap

theorem MemoryCanonical.openHeap (h : MemoryCanonical s) : MemoryCanonical (openHeap s cx c) := h.modHeap.openWaits

theorem MemoryCanonical.discardCtx (h : MemoryCanonical s) : MemoryCanonical (discardCtx s cx del_) := by
  unfold Machine.discardCtx
  extract_lets s1 held s2 s3
  have h1 : MemoryCanonical s1 := h.foldl fun h => h.endKernel.ite h
  have h2 : MemoryCanonical s2 := h1.settleKilled
  have h3 : MemoryCanonical s3 := h2.foldl fun h => h.imagesDone
  exact h3.clearWork.foldl fun h => h.openHeap

theorem MemoryCanonical.returnHolds (h : MemoryCanonical s) : MemoryCanonical (returnHolds s cx) := by
  unfold Machine.returnHolds
  extract_lets x up
  refine h.foldl fun h => ?_
  extract_lets s1
  have h1 : MemoryCanonical s1 := h.modHolds
  split
  · exact h1.modHolds.syncParts.wakePools
  · exact h1.modHolds.leaveSlots
  · split
    · exact h1.modHolds.roomBack.zeroRoom.wakePools
  · exact h1.modHolds.serveCrus
  · exact h1.modHolds
  · exact h1

theorem MemoryCanonical.deleteCtx (h : MemoryCanonical s) : MemoryCanonical (deleteCtx s cx) := by
  unfold Machine.deleteCtx
  extract_lets s1
  have h1 : MemoryCanonical s1 := h.bumpGen
  exact h1.foldl fun h => h.discardCtx.returnHolds.upd.dropStruct.foldl (fun h => h.ite h.freedUnit)

theorem MemoryCanonical.resetCtx (h : MemoryCanonical s) : MemoryCanonical (resetCtx s cx) :=
  h.bumpGen.foldl fun h => h.discardCtx.modCtx

theorem MemoryCanonical.lowerShare {kind n1 : Nat} (h : MemoryCanonical s) :
    MemoryCanonical (lowerShare kind c fuel s n n1) := by
  induction fuel generalizing kind c s n n1 with
  | zero => exact h
  | succ fuel ih =>
    unfold Machine.lowerShare
    exact h.modHolds.foldl fun h => h.ite (ih h)

theorem MemoryCanonical.lowerEave {link n1 : Nat} (h : MemoryCanonical s) : MemoryCanonical (lowerEave link fuel s n n1) := by
  induction fuel generalizing link s n n1 with
  | zero => exact h
  | succ fuel ih =>
    unfold Machine.lowerEave
    exact h.modHolds.foldl fun h => h.ite (ih h)

theorem MemoryCanonical.restoreBorn (h : MemoryCanonical s) : MemoryCanonical (restoreBorn s cx h') := by
  unfold Machine.restoreBorn
  extract_lets x
  split
  · split
    · exact h.giveItem.getD h
    · exact h.modHolds.modCtx
  · split
    · exact h.giveItem.getD h
    · exact h.modHolds.modCtx

theorem MemoryCanonical.takeItem (h : MemoryCanonical s) : MemoryCanonical (takeItem s iss ch h') := by
  unfold Machine.takeItem
  extract_lets k strip
  clear_value k
  split
  · exact (h.foldl (fun h => h.modHolds)).modHolds.syncParts
  · exact (h.foldl (fun h => h.modHolds)).modHolds
  · exact (h.foldl (fun h => h.modHolds)).modHolds
  · exact (h.foldl (fun h => h.modHolds)).modHolds
  · exact (h.foldl (fun h => h.modHolds)).modHolds
  · exact h.modHolds
  · exact h.foldl fun h => h.modHolds
  · exact h.lowerShare
  · exact h.lowerShare
  · exact h.foldl fun h => h.lowerEave
  · exact h.restoreBorn

theorem MemoryCanonical.spillNow {pid : Nat} {id : AllocId} (h : MemoryCanonical s) :
    YieldsCanonical (spillNow s c b pid id) := by
  unfold Machine.spillNow
  split
  · extract_lets cx len r seq s1
    have h1 : MemoryCanonical s1 := h.guardOf
    split
    · trivial
    · split
      extract_lets bs padded
      have hpadded : YieldsCanonical padded.toOption := by
        unfold padded
        split
        · exact h1
        · exact h1.ringPut
      clear_value padded
      split
      · trivial
      next u =>
        split
        · trivial
        next hu =>
          extract_lets s2 s3 s4
          have h4 : MemoryCanonical s4 := (MemoryCanonical.ringPut (s := u) hpadded).of_ok hu |>.setRing.modBay.modPool
          split
          · exact h4.modFrame
          · exact h4.modPool
  · exact h

theorem MemoryCanonical.keepSpilled (h : MemoryCanonical s) : MemoryCanonical (keepSpilled s c b cx es) :=
  h.foldl fun h => (h.foldl (fun h => h.setMv)).modPool

theorem MemoryCanonical.spillRevoked (h : MemoryCanonical s) : MemoryCanonical (spillRevoked s c b cx es) := by
  unfold Machine.spillRevoked
  extract_lets key s1 s2 s3
  have h1 : MemoryCanonical s1 := h.foldl fun h => h.roomAway.ite h
  have h2 : MemoryCanonical s2 := h1.keepSpilled
  have h3 : MemoryCanonical s3 := by
    unfold s3
    refine h2.foldl fun h => ?_
    split
    next hu => exact h.spillNow.of_eq hu
    · extract_lets ft s4
      have h4 : MemoryCanonical s4 := by
        unfold s4
        split
        · exact h.killStrand
        · split
          · exact h.freeBuf
          · exact h
      exact h4.modCtx
  exact h3.foldl fun h => h.serveHead

theorem MemoryCanonical.evictOver (h : MemoryCanonical s) : MemoryCanonical (evictOver cx c fuel s) := by
  induction fuel generalizing cx c s with
  | zero => exact h
  | succ fuel ih =>
    unfold Machine.evictOver
    extract_lets h'
    refine h.ite ?_
    split
    · exact ih h.evict
    · exact h

theorem MemoryCanonical.revokeFrom (h : MemoryCanonical s) : MemoryCanonical (revokeFrom s iss cx es) := by
  unfold Machine.revokeFrom
  extract_lets s1 s2
  have h1 : MemoryCanonical s1 := h.foldl fun h => h.spillRevoked
  have h2 : MemoryCanonical s2 := by
    unfold s2
    refine h1.foldl fun h => ?_
    split
    · exact h.freeCrus
    · exact h.leaveSlots.scanSlots
    · exact h.evictOver
    · exact h.upd
    · exact (h.foldl (fun h => h.endKernel.ite h)).ite h
    · exact h
  exact h2

theorem MemoryCanonical.acceptRevoke (h : MemoryCanonical s) : YieldsCanonical (acceptRevoke s iss ch es).toOption := by
  unfold Machine.acceptRevoke
  split
  · trivial
  · extract_lets r
    have hr : YieldsCanonical r :=
      YieldsCanonical.foldl h fun h => h.bind fun h => YieldsCanonical.ite h.takeItem trivial
    clear_value r
    split
    · trivial
    next u => exact (MemoryCanonical.foldl (s := u) hr fun h => h.modCtx).bumpGen

theorem MemoryCanonical.finishRevoke (h : MemoryCanonical s) : MemoryCanonical (finishRevoke s iss ch es) := by
  unfold Machine.finishRevoke
  extract_lets s1 s2
  have h1 : MemoryCanonical s1 := h.foldl fun h => h.revokeFrom.modCtx
  have h2 : MemoryCanonical s2 := h1.dropStruct.ite h1
  refine h2.foldl fun h => ?_
  split
  · exact h.roomBack.zeroRoom.wakePools.ite (h.wakePools.ite (h.serveCrus.ite h))

end

end Sys2Proof.Machine
end

section
/-! PROOF. Launches and the system instructions keep memory canonical (R278 to R298). -/

namespace Sys2Proof.Machine

section
variable {s : State} {p : Pend} {cx ch : Nat} {e : EvArgs} {k : Kernel} {r : NodeRec}

/-! ### Launch and configuration -/

theorem MemoryCanonical.modKernel {f : Kernel → Kernel} (h : MemoryCanonical s) : MemoryCanonical (modKernel s k f) := h.upd

theorem MemoryCanonical.headsWait (h : MemoryCanonical s) : MemoryCanonical (headsWait s cx) :=
  h.foldl fun h => h.modKernel.ite h

theorem MemoryCanonical.queueLaunch {ws args : List Nat} {fromHost : Bool} (h : MemoryCanonical s) :
    YieldsCanonical ((queueLaunch s ws args fromHost).toOption.map Prod.snd) := by
  unfold Machine.queueLaunch
  split
  · trivial
  · extract_lets l cx serial s1
    have h1 : MemoryCanonical s1 := h.modCtx
    split
    · trivial
    · split
      · trivial
      · split
        · trivial
        · split
          · trivial
          · split
            · trivial
            · exact h1.upd.headsWait

theorem MemoryCanonical.execKernelSelect (h : MemoryCanonical s) : OutcomeCanonical (execKernelSelect e s) := by
  unfold Machine.execKernelSelect
  extract_lets cx
  refine h.ite ?_
  split
  · exact h.modKernel
  · exact h

theorem MemoryCanonical.execKernelCancel (h : MemoryCanonical s) : OutcomeCanonical (execKernelCancel e s) := by
  unfold Machine.execKernelCancel
  extract_lets cx
  split
  · exact h.endKernel.headsWait
  · exact h

theorem MemoryCanonical.dropPools {p : Plane} {used : Nat → Nat → Nat → Bool} {xs : List (Nat × Nat)}
    (h : MemoryCanonical s) : YieldsCanonical (dropPools s cx p used xs) := by
  induction xs generalizing s cx p used with
  | nil => exact h
  | cons x l ih =>
    unfold Machine.dropPools
    split
    · exact ih (h.setBay.foldl (fun h => h.scanPool))
    · trivial

theorem MemoryCanonical.dropUnit {u : PUnit} (h : MemoryCanonical s) : MemoryCanonical (dropUnit s u) := h.modCru.ite h.modElem

theorem MemoryCanonical.addLoaded {cx : BitVec 12} {plane : BitVec 16} {serial : BitVec 32} {p : Plane} {c : Nat}
    (h : MemoryCanonical s) : MemoryCanonical (addLoaded s cx plane serial p c) :=
  h.modCrs

theorem MemoryCanonical.datBuffer {d : PDat} (h : MemoryCanonical s) : YieldsCanonical ((datBuffer s cx d).map Prod.fst) := by
  unfold Machine.datBuffer
  split
  · trivial
  · extract_lets y n a base
    split
    · trivial
    · split
      · extract_lets gen ent s1
        have h1 : MemoryCanonical s1 := h.modBay.modPool
        exact h1.setMem fun h => Memory.putBytes_wf h _ _
      · trivial

theorem MemoryCanonical.putHandles {p : Plane} {i h' : Nat} (h : MemoryCanonical s) :
    MemoryCanonical (putHandles s p i h') := by
  unfold Machine.putHandles
  refine h.foldl fun h => ?_
  split
  · exact h.ite h.modElem
  · exact h

theorem MemoryCanonical.dropData {p : Plane} {fuel : Nat} {xs : List PDat} (h : MemoryCanonical s) :
    YieldsCanonical (dropData cx p fuel xs s).toOption := by
  induction xs generalizing cx p fuel s with
  | nil => exact h
  | cons x l ih =>
    unfold Machine.dropData
    split
    · split
      next hu => exact ih ((h.datBuffer.of_fst hu).putHandles)
      · trivial
    · split
      · exact ih h
      · split
        · exact ih h.writeRegion
        · trivial
        · trivial
        · trivial

theorem MemoryCanonical.dropArgs {p : Plane} {l : LaunchRec} (h : MemoryCanonical s) : MemoryCanonical (dropArgs s p l) :=
  h.foldl fun h => h.modElem

theorem MemoryCanonical.reserveSlots {ns : List Nat} (h : MemoryCanonical s) : MemoryCanonical (reserveSlots s ns) := h.upd

theorem MemoryCanonical.markPops (h : MemoryCanonical s) : MemoryCanonical (markPops s cx) := h.foldl fun h => h.ite h.modHeap

theorem MemoryCanonical.startKernel (h : MemoryCanonical s) : YieldsCanonical (startKernel s k).toOption := by
  unfold Machine.startKernel
  extract_lets cx c b pid zero g
  split
  · trivial
  · split
    · trivial
    · split
      · trivial
      · split
        · trivial
        · split
          · trivial
          · split
            · trivial
            next hu =>
              extract_lets s1 s2 s3
              have h1 : MemoryCanonical s1 := (h.dropPools.of_eq hu).foldl fun h => h.dropUnit
              have h2 : MemoryCanonical s2 := h1.foldl fun h => h.addLoaded
              have h3 : MemoryCanonical s3 := (h2.markPops.ite h2).reserveSlots
              split
              · trivial
              next hd =>
                extract_lets s4 s5 me word s6
                have h4 : MemoryCanonical s4 := (h3.dropData.of_ok hd).dropArgs
                split
                · split
                  · trivial
                  · exact (h4.modKernel.ite h4.modKernel.upd).joinPool
                · trivial
                · trivial

theorem MemoryCanonical.fixTick (h : MemoryCanonical s) : MemoryCanonical (fixTick s k) := by
  unfold Machine.fixTick
  split
  · exact h.upd.modKernel
  · exact h

theorem MemoryCanonical.fixTicks (h : MemoryCanonical s) : MemoryCanonical (fixTicks s cx) := h.foldl fun h => h.fixTick

theorem MemoryCanonical.execKernelStart (h : MemoryCanonical s) : OutcomeCanonical (execKernelStart e s) := by
  unfold Machine.execKernelStart
  extract_lets cx __src
  split
  · exact h
  · extract_lets free
    refine h.ite ?_
    split
    · exact h.needPage
    · split
      next hu => exact (h.startKernel.of_ok hu).fixTicks.headsWait
      · exact h.endKernel.headsWait

theorem MemoryCanonical.execGangStartTick (h : MemoryCanonical s) : OutcomeCanonical (execGangStartTick e s) := by
  unfold Machine.execGangStartTick
  extract_lets s1
  have h1 : MemoryCanonical s1 := by
    unfold s1
    split
    · exact h
    · exact h.upd.ite h
  exact h1.fixTicks

theorem MemoryCanonical.execSourceInjection (h : MemoryCanonical s) : OutcomeCanonical (execSourceInjection e s) := by
  unfold Machine.execSourceInjection
  extract_lets cx
  split
  · exact h
  · exact h.modKernel.modCtx.startCast

theorem MemoryCanonical.freeLaunch (h : MemoryCanonical s) : MemoryCanonical (freeLaunch s k) := by
  unfold Machine.freeLaunch
  split
  · exact h.freeFrame
  · exact h

theorem MemoryCanonical.execKernelEnd (h : MemoryCanonical s) : OutcomeCanonical (execKernelEnd e s) := by
  unfold Machine.execKernelEnd
  extract_lets cx
  split
  · exact h
  · exact h.freeLaunch.ite h.freeLaunch.endKernel.headsWait

/-! ### System instructions and the Plate -/

theorem MemoryCanonical.plateNode {op : Nat} {now : Bool} {check : Args → Option (Nat × Nat)} (h : MemoryCanonical s) :
    MemoryCanonical (plateNode op r s now check) := by
  unfold Machine.plateNode
  extract_lets g a p
  refine h.actNode fun h => ?_
  split
  · exact h.fault
  · exact h.modOwn.emitWord.ite h.modOwn

theorem MemoryCanonical.addWork {es : List Holding} {due : Nat} (h : MemoryCanonical s) :
    MemoryCanonical (addWork s p ch es due) :=
  h.upd

theorem MemoryCanonical.answerNew (h : MemoryCanonical s) : YieldsCanonical (answerNew s p).state? := by
  unfold Machine.answerNew
  extract_lets cx x
  split
  · trivial
  · split
    · trivial
    · extract_lets ws
      split
      · trivial
      · split
        · trivial
        · split
          · trivial
          next hu => exact h.createChild.of_snd hu

theorem MemoryCanonical.leaveFor {t : Nat} (h : MemoryCanonical s) : MemoryCanonical (leaveFor s ch t) :=
  (h.foldl (fun h => h.modHolds)).ite ((h.foldl (fun h => h.modHolds)).upd)

theorem MemoryCanonical.answerGrant (h : MemoryCanonical s) : YieldsCanonical (answerGrant s p ch).state? := by
  unfold Machine.answerGrant
  extract_lets g cx
  split
  · trivial
  · split
    · trivial
    · split
      · split
        · trivial
        · split
          · trivial
          next hu => exact (h.giveList.of_ok hu).leaveFor.addWork
      · split
        · trivial
        next hu => exact h.giveList.of_ok hu

theorem MemoryCanonical.answerRevoke (h : MemoryCanonical s) : YieldsCanonical (answerRevoke s p ch).state? := by
  unfold Machine.answerRevoke
  extract_lets g cx
  split
  · trivial
  · split
    · trivial
    next hu => exact (h.acceptRevoke.of_ok hu).addWork

theorem MemoryCanonical.answerLaunch (h : MemoryCanonical s) : YieldsCanonical (answerLaunch s p).state? := by
  unfold Machine.answerLaunch
  extract_lets cx x
  split
  · trivial
  · extract_lets ws n t
    split
    · trivial
    · split
      · trivial
      · split
        · trivial
        · split
          · trivial
          next hu => exact h.queueLaunch.of_snd hu

theorem MemoryCanonical.beginFill {c : Nat} {f : Fill} (h : MemoryCanonical s) : MemoryCanonical (beginFill s c f) := h.modCrs

theorem MemoryCanonical.answerLoad (h : MemoryCanonical s) : YieldsCanonical (answerLoad s p).state? := by
  unfold Machine.answerLoad
  extract_lets g cx w c held
  split
  · trivial
  · split
    · exact h
    · exact h.beginFill

theorem MemoryCanonical.answerFlip (h : MemoryCanonical s) : YieldsCanonical (answerFlip s p).state? := by
  unfold Machine.answerFlip
  extract_lets g
  split
  · exact h
  · split
    · trivial
    · exact h.addWork

theorem MemoryCanonical.answerPermit (h : MemoryCanonical s) : YieldsCanonical (answerPermit s p).state? := h.modCtx

theorem MemoryCanonical.answerPlate (h : MemoryCanonical s) : YieldsCanonical (answerPlate s p).state? := by
  have hchild : ∀ {act : Nat → PlateAns}, (∀ {ch}, YieldsCanonical (act ch).state?) → YieldsCanonical
      (match childOf s p.fir.cx.toNat (p.fir.a.getD (plain 0)).word with
        | some ch => act ch
        | none => .refuse kHOLDING 5 p.fir.cx.toNat).state? := fun hact => by
    split
    · exact hact
    · trivial
  unfold Machine.answerPlate
  split
  · exact h.needPage
  · split
    · exact h.answerNew
    · exact hchild h.answerGrant
    · exact hchild h.answerRevoke
    · exact hchild h.modCtx
    · refine hchild ?_
      intro ch
      split
      · exact h.modCtx.addWork
      · exact h
    · exact hchild h.deleteCtx
    · exact hchild h.resetCtx
    · exact h.answerLoad
    · exact h.answerFlip
    · exact h.answerLaunch
    · exact h.answerPermit

theorem MemoryCanonical.sendPlate {s : State} {p : Pend} (h : MemoryCanonical s) :
    YieldsCanonical (sendPlate s p).1.state? := by
  unfold Machine.sendPlate
  extract_lets late toks
  split
  · exact h.poisonRec
  · exact h.answerPlate

theorem MemoryCanonical.of_sendPlate {s u : State} {p : Pend} {x : PlateAns} {y : List Transit × Bool}
    (h : MemoryCanonical s) (e : Machine.sendPlate s p = (x, y)) (hu : x.state? = some u) : MemoryCanonical u := by
  have hx := h.sendPlate (p := p)
  rw [e] at hx
  exact hx.of_eq hu

theorem MemoryCanonical.csrWrite {g : Firing} {n v : Nat} (h : MemoryCanonical s) : MemoryCanonical (csrWrite s g cx n v) :=
  (h.upd.ite h.modElem).ite h.modCtx

theorem MemoryCanonical.execCsrRd (h : MemoryCanonical s) : OutcomeCanonical (execCsrRd r s) := by
  unfold Machine.execCsrRd
  extract_lets g a n
  refine h.actNode fun h => h.emitWord.ite ?_
  split
  · exact h.fault
  · split
    · exact h.fault
    · refine .ite ?_ h.fault
      split
      · exact h.addFlags.emitWord

theorem MemoryCanonical.execCsrWr (h : MemoryCanonical s) : OutcomeCanonical (execCsrWr r s) := by
  unfold Machine.execCsrWr
  extract_lets g a n
  refine h.actNode fun h => h.holdArgs.emitWord.ite ?_
  split
  · exact h.fault
  · split
    · exact h.fault
    · exact h.holdArgs.emitWord.ite h.fault

theorem MemoryCanonical.commitCsr (h : MemoryCanonical s) : MemoryCanonical (commitCsr s p) := by
  unfold Machine.commitCsr
  extract_lets g
  refine h.poisonRec.ite ?_
  split
  · exact h.csrWrite
  · exact h

theorem MemoryCanonical.commitTrap (h : MemoryCanonical s) : MemoryCanonical (commitTrap s p) := h.softAt

theorem MemoryCanonical.holdAfter {op : Nat} {toks : List Transit} (h : MemoryCanonical s) :
    MemoryCanonical (holdAfter s op r toks) :=
  h.modOwn

theorem MemoryCanonical.commitSig {q : AfterReq} (h : MemoryCanonical s) : YieldsCanonical (commitSig s q) := by
  unfold Machine.commitSig
  extract_lets g ep v
  exact YieldsCanonical.ite h.poisonRec.sendLater (YieldsCanonical.ite trivial (YieldsCanonical.ite h.sendLater h.upd.sendLater))

theorem MemoryCanonical.commitRepair (h : MemoryCanonical s) : MemoryCanonical (commitRepair s p) := by
  unfold Machine.commitRepair
  refine h.poisonRec.ite ?_
  split
  · exact h.upd
  · exact h

end

end Sys2Proof.Machine
end

section
/-! PROOF. Casts and computing nodes keep memory canonical (R25, R26). -/

namespace Sys2Proof.Machine

section
variable {s : State} {c ft b el kind code fuel owner : Nat} {r : NodeRec} {e : EvArgs} {p : Pend} {t : Transit}
    {k : Cast} {f : Frame} {g : Firing}

/-! ### Arrivals and commits -/

theorem MemoryCanonical.rejectToken (h : MemoryCanonical s) : MemoryCanonical (rejectToken s t kind code) :=
  h.hardFault.ite h.fileFault

theorem MemoryCanonical.writeSlot {i : Nat} (h : MemoryCanonical s) : MemoryCanonical (writeSlot s c b ft i t) := by
  unfold Machine.writeSlot
  extract_lets s1 s2
  have h1 : MemoryCanonical s1 := h.setSlot
  have h2 : MemoryCanonical s2 := by
    unfold s2
    split
    · exact h1.modPool.ite h1
    · exact h1
  exact h2.modFrame

theorem MemoryCanonical.matchToken (h : MemoryCanonical s) : YieldsCanonical (matchToken s t el f) := by
  unfold Machine.matchToken
  extract_lets c b ft cx node port slot atBay blk merge s1 s2 done arr e
  have h1 : MemoryCanonical s1 := by
    unfold s1
    split
    · exact h.ite h.modFrame
    · exact h
  have h2 : MemoryCanonical s2 := h1.ite h1.modFrame
  refine YieldsCanonical.ite h2 (YieldsCanonical.ite h2.modFrame ?_)
  split
  · split
    · clear_value slot
      split
      · exact YieldsCanonical.ite h2.writeSlot.enqueueAt h2.writeSlot
      · exact YieldsCanonical.ite h2.modFrame (YieldsCanonical.ite h2.enqueueAt h2)
    · clear_value slot
      split
      · exact h2.writeSlot
      · exact h2.modFrame
  · clear_value slot blk
    split
    · exact h2
    · exact h2.writeSlot.beginCast
    · exact YieldsCanonical.ite h2.beginCast.enqueueAt h2.beginCast

theorem MemoryCanonical.failToken (h : MemoryCanonical s) : MemoryCanonical (failToken s t el kind code) := h.ite h.rejectToken

theorem MemoryCanonical.arriveElem (h : MemoryCanonical s) : MemoryCanonical (arriveElem s t el) := by
  unfold Machine.arriveElem
  split
  · exact h.failToken
  · split
    next hu => exact h.matchToken.of_eq hu
    · exact h.modElem

theorem MemoryCanonical.noteArrival (h : MemoryCanonical s) : MemoryCanonical (noteArrival s t el) := h.modElem

theorem MemoryCanonical.execTokenArrival (h : MemoryCanonical s) : OutcomeCanonical (execTokenArrival e s) := by
  unfold Machine.execTokenArrival
  split
  · exact h
  · extract_lets out
    refine h.ite (h.upd.upd.ite (h.ite ?_))
    split
    · exact h.ite h.upd.noteArrival.arriveElem
    · exact h.upd.rejectToken
    · exact h

theorem MemoryCanonical.drainInput (h : MemoryCanonical s) : MemoryCanonical (drainInput c el fuel s) := by
  induction fuel generalizing s with
  | zero => exact h
  | succ fuel ih =>
    unfold Machine.drainInput
    extract_lets x heads
    split
    next hu =>
      obtain ⟨t, -, ht⟩ := List.exists_of_findSome?_eq_some hu
      extract_lets s' at ht
      split at ht
      · cases ht
        exact ih h.modElem.failToken
      · exact ih (h.modElem.matchToken.of_eq ht)
    · exact h

theorem MemoryCanonical.refillElem (h : MemoryCanonical s) : MemoryCanonical (refillElem s c el) := h.modElem.drainInput

theorem MemoryCanonical.recheckAll {xs : List Pend} (h : MemoryCanonical s) : YieldsCanonical (recheckAll s xs).state? := by
  induction xs generalizing s with
  | nil => exact h
  | cons x l ih =>
    unfold Machine.recheckAll
    split
    · exact ih h
    · split
      · trivial
      next hu => exact h.recheck.of_result hu rfl
      next hu => exact ih (h.recheck.of_result hu rfl)

theorem MemoryCanonical.commitFault {addr : Nat} (h : MemoryCanonical s) :
    MemoryCanonical (commitFault s p kind code owner addr) :=
  h.hardFault

theorem MemoryCanonical.openCommit (h : MemoryCanonical s) : MemoryCanonical (openCommit s c b ft k) := by
  unfold Machine.openCommit
  extract_lets held go
  split
  · exact h.commitFault
  next hu => exact h.recheckAll.of_result hu rfl
  next u hu =>
    have h := h.recheckAll.of_result hu rfl
    split
    · exact h.commitFault
    · split
      · exact h.commitFault
      · extract_lets s0 s1
        have h1 : MemoryCanonical s1 := h.reserveWords.getD h
        split
        · exact h1.modCast
        · split
          · exact h.commitFault
          · split
            next hu => exact h.of_sendPlate hu rfl
            · exact h
          next hu => exact (h1.of_sendPlate hu rfl).modCast

theorem MemoryCanonical.performHeld (h : MemoryCanonical s) : YieldsCanonical (performHeld s p).state? := by
  unfold Machine.performHeld
  split
  · trivial
  · split
    · exact h.performStore
    · exact h.performStore
    · exact h.performStore
    · exact h.performStore
    · exact h.performAtomic
    · exact h.performAtomic
    · exact h.performStruct
    · exact h.performStruct
    · exact h.performCmb
    · exact h.performFence
    · exact h.performArrive
    · exact h.performPublish
    · exact h.performShadow
    · exact h.performRdgSt
    · exact h

theorem MemoryCanonical.suspendWrite {addr : Nat} (h : MemoryCanonical s) :
    MemoryCanonical (suspendWrite s c b ft p kind code owner addr) :=
  h.modCast.upd.fileFault

theorem MemoryCanonical.callHeld (h : MemoryCanonical s) : MemoryCanonical (callHeld s p) := by
  unfold Machine.callHeld
  split
  · exact h.callHome
  · exact h

theorem MemoryCanonical.runHeld (h : MemoryCanonical s) : MemoryCanonical (runHeld c b ft fuel s) := by
  induction fuel generalizing c b ft s with
  | zero => exact h
  | succ fuel ih =>
    unfold Machine.runHeld
    split
    · exact h
    · refine h.ite ?_
      split
      next hu => exact ih ((h.performHeld.of_result hu rfl).modCast)
      · exact h.ite h.callHeld
      next hu => exact h.performHeld.of_result hu rfl
      · exact h.suspendWrite

theorem MemoryCanonical.runAfter (h : MemoryCanonical s) : MemoryCanonical (runAfter c b ft fuel s) := by
  induction fuel generalizing s with
  | zero => exact h
  | succ fuel ih =>
    unfold Machine.runAfter
    split
    · exact h
    · extract_lets r
      have hr : YieldsCanonical r := by
        unfold r
        split
        · exact h.commitSig
        · exact h.commitRepair
        · exact h.takeRequest
      clear_value r
      split
      · exact h
      next u => exact ih (MemoryCanonical.modCast hr)

theorem MemoryCanonical.commitTagset (h : MemoryCanonical s) : MemoryCanonical (commitTagset s g) := by
  unfold Machine.commitTagset
  extract_lets c ft
  split
  · exact h.softAt.ite h.setFrame
  · exact h.softAt

theorem MemoryCanonical.putLink {l : Link} (h : MemoryCanonical s) : MemoryCanonical (putLink s c b ft l) := by
  unfold Machine.putLink
  split
  · exact h
  · exact h.setFrame.imageSlotPut

theorem MemoryCanonical.commitCall (h : MemoryCanonical s) : MemoryCanonical (commitCall s p) := by
  unfold Machine.commitCall
  extract_lets g w set
  refine h.ite ((h.modCru.ite h.softAt).ite ?_)
  split
  · exact h.putLink
  · exact h.softAt

theorem MemoryCanonical.commitStrand (h : MemoryCanonical s) : MemoryCanonical (commitStrand s g) := by
  unfold Machine.commitStrand
  extract_lets c ft
  split
  · exact h.putLink
  · exact h.softAt

theorem MemoryCanonical.commitFreeFrm (h : MemoryCanonical s) : MemoryCanonical (commitFreeFrm s g ft) := by
  unfold Machine.commitFreeFrm
  extract_lets c
  split
  · exact h.softAt
  · exact h.softAt.ite (h.dropCast.yieldFrame.ite (h.setFrame.ite h.yieldFrame))

theorem MemoryCanonical.commitEffect (h : MemoryCanonical s) : MemoryCanonical (commitEffect s p) := by
  unfold Machine.commitEffect
  extract_lets g a eight
  split
  · exact h.poisonRec.ite h.commitTagset
  · exact h.commitCall
  · exact h.poisonRec.ite h.commitStrand
  · exact h.poisonRec.ite h.commitFreeFrm
  · exact h.poisonRec.ite h.commitBuf
  · exact h.poisonRec.ite h.commitBuf
  · exact h.poisonRec.ite (h.freeSlot.ite h.softAt)
  · exact h.commitBuf
  · exact h.commitSpawn
  · exact h.commitChange
  · exact h.commitChange
  · exact h.commitChange
  · exact h.commitTol
  · exact h.commitCsr
  · exact h.commitTrap
  · exact h

theorem MemoryCanonical.releaseOut {ts : List Transit} (h : MemoryCanonical s) : MemoryCanonical (releaseOut s ts) := h.upd

theorem MemoryCanonical.clearSlots (h : MemoryCanonical s) : MemoryCanonical (clearSlots s c b ft k) := by
  unfold Machine.clearSlots
  split
  · exact h
  · exact h.setFrame

theorem MemoryCanonical.markReady (h : MemoryCanonical s) : MemoryCanonical (markReady s c b ft) := h.upd

theorem MemoryCanonical.killContext {cx : Nat} (h : MemoryCanonical s) : MemoryCanonical (killContext s cx) := h.ite h.deleteCtx

theorem MemoryCanonical.runDooms {xs : List Doom} (h : MemoryCanonical s) : MemoryCanonical (runDooms s xs) := by
  induction xs generalizing s with
  | nil => exact h
  | cons x l ih =>
    unfold Machine.runDooms
    exact ih (h.killContext.ite h.killStrand)

theorem MemoryCanonical.doomsAt (h : MemoryCanonical s) : MemoryCanonical (doomsAt s c b ft) := h.upd.runDooms

theorem MemoryCanonical.runEffects {xs : List Pend} (h : MemoryCanonical s) : MemoryCanonical (runEffects c b ft xs s) := by
  induction xs generalizing c b ft s with
  | nil =>
    unfold Machine.runEffects
    exact h.modCast
  | cons x l ih =>
    unfold Machine.runEffects
    exact h.modCast.commitEffect.ite (ih h.modCast.commitEffect)

theorem MemoryCanonical.closeCommit (h : MemoryCanonical s) : MemoryCanonical (closeCommit s c b ft f k) := by
  unfold Machine.closeCommit
  extract_lets cx s1 late out s2 s3 s4 s5 s6
  have h1 : MemoryCanonical s1 := h.endTest
  have h2 : MemoryCanonical s2 := h1.releaseOut
  have h3 : MemoryCanonical s3 := h2.setFlags
  have h4 : MemoryCanonical s4 := h3.clearSlots
  have h5 : MemoryCanonical s5 := h4.markReady
  have h6 : MemoryCanonical s6 := by
    unfold s6
    split
    · exact h5.yieldFrame.ite h5.nextCast
    · exact h5
  exact h6.serveReleases.doomsAt

theorem MemoryCanonical.finishCommit (h : MemoryCanonical s) : MemoryCanonical (finishCommit s c b ft k) := by
  unfold Machine.finishCommit
  refine h.ite ?_
  extract_lets s1
  have h1 : MemoryCanonical s1 := h.runEffects
  split
  · exact h1
  · split
    · exact h1
    · exact h1.ite h1.closeCommit

theorem MemoryCanonical.runCommit (h : MemoryCanonical s) : MemoryCanonical (runCommit s c b ft) := by
  unfold Machine.runCommit
  refine .serveReleases ?_
  split
  · exact h
  · refine h.ite ?_
    extract_lets s1
    have h1 : MemoryCanonical s1 := h.runHeld
    split
    · exact h1
    · split
      · exact h1
      · refine h1.ite ?_
        extract_lets s2
        have h2 : MemoryCanonical s2 := h1.runAfter
        split
        · exact h2.finishCommit.ite h2
        · exact h2

theorem MemoryCanonical.execCastCommit (h : MemoryCanonical s) : OutcomeCanonical (execCastCommit e s) := by
  unfold Machine.execCastCommit
  extract_lets c b ft
  split
  · exact h
  · refine h.runCommit.ite (.ite ?_ h)
    extract_lets s1
    have h1 : MemoryCanonical s1 := h.openCommit
    split
    · exact h1.runCommit.ite h1
    · exact h1

theorem MemoryCanonical.abortCast (h : MemoryCanonical s) : MemoryCanonical (abortCast s c b ft f k) := by
  unfold Machine.abortCast
  extract_lets s1 s2 s3 s4 s5 s6 s7 s8
  have h1 : MemoryCanonical s1 := h.voidReaders
  have h2 : MemoryCanonical s2 := h1.clearReady
  have h3 : MemoryCanonical s3 := by
    unfold s3
    split
    · exact h2.modFrame.modFrame
    · exact h2
  have h4 : MemoryCanonical s4 := h3.foldl fun h => h.freeCru
  have h5 : MemoryCanonical s5 := h4.foldl fun h => h.freeSlot
  have h6 : MemoryCanonical s6 := (h5.foldl (fun h => h.unreserve)).endTest
  have h7 : MemoryCanonical s7 := h6.modCast
  have h8 : MemoryCanonical s8 := h7.freeAll
  split
  · exact h8.fileFault
  · exact h8

theorem MemoryCanonical.execCastAbort (h : MemoryCanonical s) : OutcomeCanonical (execCastAbort e s) := by
  unfold Machine.execCastAbort
  extract_lets c b ft
  split
  · exact h
  · split
    · exact h
    · exact h.abortCast.ite h

theorem MemoryCanonical.execStall (h : MemoryCanonical s) : OutcomeCanonical (execStall e s) := by
  unfold Machine.execStall
  extract_lets c b ft
  split
  · exact h
  · split
    · exact h
    · exact h.fault.ite h

theorem MemoryCanonical.execWaveLoadPerform (h : MemoryCanonical s) : OutcomeCanonical (execWaveLoadPerform e s) := by
  unfold Machine.execWaveLoadPerform
  extract_lets c b ft
  split
  · exact h
  · split
    · exact h.upd
    · exact h

theorem MemoryCanonical.execWalkerStart (h : MemoryCanonical s) : OutcomeCanonical (execWalkerStart e s) := by
  unfold Machine.execWalkerStart
  extract_lets c y
  split
  · exact h
  · exact h.ite h.modCrs

theorem MemoryCanonical.wakeUsers {ps : List Pend} (h : MemoryCanonical s) : MemoryCanonical (wakeUsers s ps) := h.upd

theorem MemoryCanonical.walkFault {va : Nat} (h : MemoryCanonical s) : MemoryCanonical (walkFault s p kind code owner va) :=
  h.hardFault

theorem MemoryCanonical.execWalkComplete (h : MemoryCanonical s) : OutcomeCanonical (execWalkComplete e s) := by
  unfold Machine.execWalkComplete
  extract_lets c
  split
  · exact h
  · extract_lets cx va here gone bays
    refine h.ite (h.modCrs.ite ?_)
    split
    · exact h.wakeAt.ite ((h.modCrs.foldl (fun h => h.install)).wakeUsers)
    · exact h.ite (h.modCrs.foldl (fun h => h.walkFault))

theorem MemoryCanonical.execCmbPartialArrival (h : MemoryCanonical s) : OutcomeCanonical (execCmbPartialArrival e s) := by
  unfold Machine.execCmbPartialArrival
  split
  · exact h
  · extract_lets g c gone home s1
    have h1 : MemoryCanonical s1 := h.upd.modCast
    split
    · split
      next hu => exact (h.upd.modCast.joinCell.of_eq hu).scanCells
      · exact h1.upd
    · split
      · exact h.callHeld
      next hu => exact h.land.of_result hu rfl
      next hu => exact (h.land.of_result hu rfl).upd.modCast
      · exact h.upd.suspendWrite

theorem MemoryCanonical.execCmbCellTimeout {x : EvArgs} (h : MemoryCanonical s) :
    OutcomeCanonical (execCmbCellTimeout x s) := by
  unfold Machine.execCmbCellTimeout
  split
  · exact h
  · exact h.upd.softRec.scanCells

/-! ### Integer nodes -/

theorem MemoryCanonical.intNode {f : Int → Int → Int → Int × Flags} (h : MemoryCanonical s) :
    OutcomeCanonical (intNode s r f) :=
  h.ctlNode

theorem MemoryCanonical.bitNode {f : Nat → Nat → Nat → Nat} (h : MemoryCanonical s) : OutcomeCanonical (bitNode s r f) :=
  h.ctlNode

/-! ### Vector nodes -/

theorem MemoryCanonical.vecInt {sat : Bool} {f : Int → Int → Int → Int} (h : MemoryCanonical s) :
    OutcomeCanonical (vecInt s r sat f) :=
  h.dataNode

theorem MemoryCanonical.vecBits {f : Nat → Nat → Nat → Nat → Nat} (h : MemoryCanonical s) : OutcomeCanonical (vecBits s r f) :=
  h.dataNode

theorem MemoryCanonical.execVcmp (h : MemoryCanonical s) : OutcomeCanonical (execVcmp r s) := by
  unfold Machine.execVcmp
  extract_lets t
  exact h.vecBits

theorem MemoryCanonical.mixNode {f : Args → Payload × Bool} (h : MemoryCanonical s) : MemoryCanonical (mixNode s r f) :=
  h.pureNode

/-! ### Vector float nodes -/

theorem MemoryCanonical.vecFloat {mode : Nat} {f : Rounder → Nat → Nat → Nat → Rounded} (h : MemoryCanonical s) :
    OutcomeCanonical (vecFloat s r mode f) :=
  h.dataNode

theorem MemoryCanonical.execVfabs (h : MemoryCanonical s) : OutcomeCanonical (execVfabs r s) := by
  unfold Machine.execVfabs
  extract_lets f
  exact h.vecFloat

theorem MemoryCanonical.execVfneg (h : MemoryCanonical s) : OutcomeCanonical (execVfneg r s) := by
  unfold Machine.execVfneg
  extract_lets f
  exact h.vecFloat

theorem MemoryCanonical.execVfcmp (h : MemoryCanonical s) : OutcomeCanonical (execVfcmp r s) := by
  unfold Machine.execVfcmp
  extract_lets f w
  exact h.vecFloat

end

end Sys2Proof.Machine
end

section
/-! PROOF. Events of crucibles, room, faults and slices keep memory canonical (R250 to R261, R381 to R391, R421 to R430). -/

namespace Sys2Proof.Machine

section
variable {s : State} {c cx b n pid p : Nat} {e : EvArgs} {f : FaultEntry} {skip : Bool} {id : AllocId} {w : PlateWork}

/-! ### Crucible events -/

theorem MemoryCanonical.chargeEnergy (h : MemoryCanonical s) : MemoryCanonical (chargeEnergy s cx) := h.upd.modCtx

theorem MemoryCanonical.fireCru {node : Nat} (h : MemoryCanonical s) : MemoryCanonical (fireCru s c n node) :=
  h.setCru.upd.ite h.setCru

theorem MemoryCanonical.execCrucibleTokenArrival (h : MemoryCanonical s) : OutcomeCanonical (execCrucibleTokenArrival e s) := by
  unfold Machine.execCrucibleTokenArrival
  split
  · exact h
  · refine h.ite ?_
    split
    · extract_lets c out node out1
      have hout1 : MemoryCanonical out1 := h.upd.modCru
      split
      · exact h.upd.rejectToken
      · exact hout1.fireCru.ite hout1
    · exact h

theorem MemoryCanonical.modOpAt {i : Nat} {f : CruOp → CruOp} (h : MemoryCanonical s) : MemoryCanonical (modOpAt s c n i f) :=
  h.modCru

theorem MemoryCanonical.execCrucibleOperationStart (h : MemoryCanonical s) :
    OutcomeCanonical (execCrucibleOperationStart e s) := by
  unfold Machine.execCrucibleOperationStart
  extract_lets c n k x s1
  have h1 : MemoryCanonical s1 := h.modOpAt
  split
  · exact h
  · exact (h.ite h.upd).ite (h1.upd.chargeEnergy.ite h)

theorem MemoryCanonical.completeOp {i : Nat} {o : CruOp} (h : MemoryCanonical s) : MemoryCanonical (completeOp s c n i o) :=
  h.modCru.setFlags.emitWord.freeCru.ite h.modCru.setFlags.emitWord

theorem MemoryCanonical.execCrucibleOperationComplete (h : MemoryCanonical s) :
    OutcomeCanonical (execCrucibleOperationComplete e s) := by
  unfold Machine.execCrucibleOperationComplete
  extract_lets c n k
  split
  · exact h.completeOp.ite h
  · exact h

theorem MemoryCanonical.execPermitHandout (h : MemoryCanonical s) : OutcomeCanonical (execPermitHandout e s) := by
  unfold Machine.execPermitHandout
  extract_lets c
  refine h.ite ?_
  split
  · exact h
  · exact h.modCru.modCrs

theorem MemoryCanonical.returnPermit (h : MemoryCanonical s) : MemoryCanonical (returnPermit s c n) :=
  h.modCru.modCrs.ite h.modCru

theorem MemoryCanonical.endBurst (h : MemoryCanonical s) : MemoryCanonical (endBurst s c n) := by
  unfold Machine.endBurst
  extract_lets x
  split
  · exact h
  · exact h.setCru.returnPermit

theorem MemoryCanonical.execBurstEnd (h : MemoryCanonical s) : OutcomeCanonical (execBurstEnd e s) := by
  unfold Machine.execBurstEnd
  extract_lets c n
  refine .ite ?_ h
  split
  · exact h.ite h.endBurst
  · exact h.returnPermit

theorem MemoryCanonical.execPermitFallDue (h : MemoryCanonical s) : OutcomeCanonical (execPermitFallDue e s) := by
  unfold Machine.execPermitFallDue
  extract_lets c
  split
  · exact h
  · exact h.chargeEnergy.returnPermit.ite h

theorem MemoryCanonical.execGateDrainBeat (h : MemoryCanonical s) : OutcomeCanonical (execGateDrainBeat e s) := by
  unfold Machine.execGateDrainBeat
  split
  · exact h
  · refine h.ite ?_
    split
    · extract_lets out
      split
      · exact h.upd.rejectToken
      · exact h.upd.modStream
    · exact h

/-! ### Room events -/

theorem MemoryCanonical.landAt {base : Nat} (h : MemoryCanonical s) : MemoryCanonical (landAt s c b pid id base) := by
  unfold Machine.landAt
  split
  · exact h.modFrame
  · exact h.modPool

theorem MemoryCanonical.movedOn (h : MemoryCanonical s) : MemoryCanonical (movedOn s c b pid) := by
  unfold Machine.movedOn
  split
  · exact h.serveHead.ite h
  · exact h

theorem MemoryCanonical.execCompactionMoveDone (h : MemoryCanonical s) : OutcomeCanonical (execCompactionMoveDone e s) := by
  unfold Machine.execCompactionMoveDone
  extract_lets c b pid
  split
  · exact h
  · split
    · exact h
    · split
      · exact h.beginMove.movedOn
      · exact h.ite h.guardOf.moveBytes.landAt.dropFreed.wakeMoved.beginMove.movedOn

theorem MemoryCanonical.execSpillTimerExpiry (h : MemoryCanonical s) : OutcomeCanonical (execSpillTimerExpiry e s) := by
  unfold Machine.execSpillTimerExpiry
  extract_lets c b pid
  split
  · exact h
  · exact h.spillNext.ite h

theorem MemoryCanonical.putImage {off : Nat} (h : MemoryCanonical s) :
    YieldsCanonical (putImage s c b pid id off).toOption := by
  unfold Machine.putImage
  extract_lets cx bs at_
  split
  · trivial
  · split
    next hu => exact h.ringPut.of_ok hu
    · trivial

theorem MemoryCanonical.spillAt {off seq : Nat} (h : MemoryCanonical s) : MemoryCanonical (spillAt s c b pid id off seq) := by
  unfold Machine.spillAt
  split
  · exact h.modFrame
  · exact h.modPool

theorem MemoryCanonical.execSpillWriteAck (h : MemoryCanonical s) : OutcomeCanonical (execSpillWriteAck e s) := by
  unfold Machine.execSpillWriteAck
  extract_lets c b pid
  split
  · exact h
  · split
    · exact h
    · refine h.ite (h.beginSpill.ite ((h.imageDone.ite h).modPool.serveHead.spillNext.ite ?_))
      extract_lets s1
      have h1 : MemoryCanonical s1 := h.guardOf
      split
      · exact h1.holdSpill
      next hu =>
        extract_lets s2 s3 s4
        have h2 : MemoryCanonical s2 := (h1.putImage.of_ok hu).spillAt
        have h3 : MemoryCanonical s3 := h2.modPool
        have h4 : MemoryCanonical s4 := h3.dropFreed.wakeMoved
        split
        · exact h4
        · exact h4.spillNext.ite h4.serveHead

theorem MemoryCanonical.execRestoreCopyDone (h : MemoryCanonical s) : OutcomeCanonical (execRestoreCopyDone e s) := by
  unfold Machine.execRestoreCopyDone
  extract_lets c b pid
  split
  · exact h
  · split
    · exact h
    · extract_lets s1
      have h1 : MemoryCanonical s1 := h.modPool
      refine .ite ?_ h1.scanPool
      split
      · exact h1.endRestore.imageDone.modPool.dropFreed.wakeMoved.scanPool

/-! ### Delivery and verdicts -/

theorem MemoryCanonical.admitAll {h' : Nat} (h : MemoryCanonical s) : MemoryCanonical (admitAll s h') :=
  h.foldl fun h => h.admitFaults

theorem MemoryCanonical.modFault {g : FaultEntry → FaultEntry} (h : MemoryCanonical s) :
    MemoryCanonical (modFault s f g) :=
  h.upd

theorem MemoryCanonical.settle {v : Nat} (h : MemoryCanonical s) : MemoryCanonical (settle s f v) := h.noteVerdict.modFault

theorem MemoryCanonical.execFaultDelivery (h : MemoryCanonical s) : OutcomeCanonical (execFaultDelivery e s) := by
  unfold Machine.execFaultDelivery
  extract_lets h' s1
  have h1 : MemoryCanonical s1 := h.admitAll
  split
  · exact h1
  · split
    · exact h1.settle.reflectFault
    · split
      · exact h1.settle.reflectFault
      · exact h1.modFault.modCtx.joinPool

theorem MemoryCanonical.dropWrite {p : Pend} (h : MemoryCanonical s) : MemoryCanonical (dropWrite s p) := by
  unfold Machine.dropWrite
  extract_lets g z
  split
  · exact h.emitVals
  · exact h.emitVals
  · exact h.emitVals
  · exact h.emitVals
  · exact h.unreserveWords
  · exact h

theorem MemoryCanonical.resumeHome {ft : Nat} (h : MemoryCanonical s) : MemoryCanonical (resumeHome s c b ft skip) := by
  unfold Machine.resumeHome
  split
  · exact h
  · exact h.upd.modCast.modCast.dropWrite.ite h.upd.modCast

theorem MemoryCanonical.resumeCru {node : BitVec 6} (h : MemoryCanonical s) : MemoryCanonical (resumeCru s c n node skip) :=
  h.modCru

theorem MemoryCanonical.resumeGate {sc pos : Nat} (h : MemoryCanonical s) : MemoryCanonical (resumeGate s c b sc pos skip) := by
  unfold Machine.resumeGate
  split
  · exact h
  · exact h.modStream.ite (h.sendLater.freeStream.ite h.modStream)

theorem MemoryCanonical.resumeSpill (h : MemoryCanonical s) : MemoryCanonical (resumeSpill s c b pid) := by
  unfold Machine.resumeSpill
  split
  · exact h
  · split
    · exact h.ite (h.modPool.ite h.beginSpill)
    · exact h

theorem MemoryCanonical.resumeHeap {again : Bool} (h : MemoryCanonical s) : MemoryCanonical (resumeHeap s cx c again) :=
  (h.modHeap.evictOver.ite h.modHeap).openWaits.endTest

theorem MemoryCanonical.resumeFill {p : Pend} (h : MemoryCanonical s) : MemoryCanonical (resumeFill s c p skip) := by
  unfold Machine.resumeFill
  split
  · exact h
  · exact h.modCrs.sendLater.modCrs.ite h.modCrs.beginFill

theorem MemoryCanonical.resumeSite (h : MemoryCanonical s) : MemoryCanonical (resumeSite s f skip) := by
  unfold Machine.resumeSite
  split
  · exact h
  · exact h.refireCast
  · exact h.resumeHome
  · exact h.resumeCru
  · exact h.resumeGate
  · exact h.resumeSpill
  · exact h.resumeHeap
  · exact h.resumeFill
  · exact h.ite h.upd

theorem MemoryCanonical.killSite (h : MemoryCanonical s) : MemoryCanonical (killSite s f) := by
  unfold Machine.killSite
  split
  · exact h.freeCru.ite h
  · exact h.withdrawBay.freeStream
  · exact h.abandonSpill
  · exact h.resumeHeap
  · split
    · exact h.modCrs
    · exact h
  · exact h

theorem MemoryCanonical.applyVerdict {v : Nat} (h : MemoryCanonical s) : MemoryCanonical (applyVerdict s f v) := by
  unfold Machine.applyVerdict
  extract_lets h' s1 __src s2
  have h1 : MemoryCanonical s1 := h.settle
  have h2 : MemoryCanonical s2 := by
    unfold s2
    split
    · exact h1.resumeSite
    · exact h1.resumeSite
    · exact h1.killStrand.killSite
    · exact h1.killContext
    · exact h1.reflectFault
  exact h2.admitAll

theorem MemoryCanonical.execVerdictApply (h : MemoryCanonical s) : OutcomeCanonical (execVerdictApply e s) := by
  unfold Machine.execVerdictApply
  split
  · split
    · exact h.applyVerdict
    · exact h
  · exact h.upd.runDooms

/-! ### Slices and fills -/

theorem MemoryCanonical.setPass {x : Nat} {v : BitVec 64} (h : MemoryCanonical s) : MemoryCanonical (setPass s p x c v) :=
  h.modCtx

theorem MemoryCanonical.dropPass {x : Nat} (h : MemoryCanonical s) : MemoryCanonical (dropPass s p x c) := h.modCtx

theorem MemoryCanonical.joinPasses (h : MemoryCanonical s) : MemoryCanonical (joinPasses s c p) :=
  (h.foldl (fun h => h.dropPass)).foldl fun h => h.setPass

theorem MemoryCanonical.renewPasses (h : MemoryCanonical s) : MemoryCanonical (renewPasses s) :=
  h.foldl fun h => h.foldl (fun h => h.joinPasses)

theorem MemoryCanonical.chargeSlice {t : Nat} (h : MemoryCanonical s) : MemoryCanonical (chargeSlice s c cx t) := by
  unfold Machine.chargeSlice
  extract_lets raise
  exact (h.ite h.setPass).foldl fun h => h.ite h.setPass

theorem MemoryCanonical.startSlice (h : MemoryCanonical s) : MemoryCanonical (startSlice s c cx) := h.modCrs.injectOwed

theorem MemoryCanonical.discardFills {cx : BitVec 12} (h : MemoryCanonical s) :
    MemoryCanonical (discardFills s c cx) :=
  h.modCrs

theorem MemoryCanonical.fillNextHolder (h : MemoryCanonical s) : MemoryCanonical (fillNextHolder s c cx) :=
  (h.foldl (fun h => h.modElem)).foldl fun h => h.modCru

theorem MemoryCanonical.beginSweep {h' : BitVec 12} (h : MemoryCanonical s) : MemoryCanonical (beginSweep s c h') :=
  h.discardFills.fillNextHolder.modCrs

theorem MemoryCanonical.execSliceEnd (h : MemoryCanonical s) : OutcomeCanonical (execSliceEnd e s) := by
  unfold Machine.execSliceEnd
  extract_lets c y
  split
  · exact (h.chargeSlice.startSlice.ite h.chargeSlice.beginSweep).ite h
  · exact h

theorem MemoryCanonical.saveElement {el : Nat} {cx : BitVec 12} (h : MemoryCanonical s) :
    MemoryCanonical (saveElement s c el cx) :=
  h.ite h.setElem.upd.drainInput

theorem MemoryCanonical.saveCourse {cx : BitVec 12} (h : MemoryCanonical s) : MemoryCanonical (saveCourse s c cx) :=
  h.foldl fun h => h.saveElement

theorem MemoryCanonical.endSweep {cx : BitVec 12} {start : Nat} (h : MemoryCanonical s) :
    MemoryCanonical (endSweep s c cx start) :=
  h.saveCourse.modCtx.modCrs

theorem MemoryCanonical.execSweep (h : MemoryCanonical s) : OutcomeCanonical (execSweep e s) := by
  unfold Machine.execSweep
  extract_lets c
  split
  · exact h
  · exact h.endSweep.ite h

theorem MemoryCanonical.execFreeze (h : MemoryCanonical s) : OutcomeCanonical (execFreeze e s) := by
  unfold Machine.execFreeze
  extract_lets c
  split
  · exact h
  · exact h.upd.modCrs.endSweep.ite h

theorem MemoryCanonical.loadElement {v : Saved} (h : MemoryCanonical s) : MemoryCanonical (loadElement s c v) := h.modElem

theorem MemoryCanonical.fillBanks {p : Plane} (h : MemoryCanonical s) : MemoryCanonical (fillBanks s c p) := by
  unfold Machine.fillBanks
  extract_lets s1 s2
  have h1 : MemoryCanonical s1 := h.foldl fun h => h.modElem
  have h2 : MemoryCanonical s2 := h1.foldl fun h => h.modCru
  refine h2.foldl fun h => ?_
  exact h.modCru.ite h.modElem

theorem MemoryCanonical.loadCourse (h : MemoryCanonical s) : MemoryCanonical (loadCourse s c cx) := by
  unfold Machine.loadCourse
  extract_lets mine vs s1 y back again s2 old s3
  have h1 : MemoryCanonical s1 := h.upd.foldl fun h => h.loadElement
  have h3 : MemoryCanonical s3 := by
    unfold s3
    clear_value old
    split
    · exact h1.upd.fillBanks
    · exact h1.upd
  exact h3.modCrs

theorem MemoryCanonical.execSliceResume (h : MemoryCanonical s) : OutcomeCanonical (execSliceResume e s) := by
  unfold Machine.execSliceResume
  extract_lets c y
  refine h.ite ?_
  split
  · exact h.loadCourse.startSlice
  · exact h

theorem MemoryCanonical.flipPools {old new : Plane} (h : MemoryCanonical s) : YieldsCanonical (flipPools s cx c old new) :=
  h.dropPools

theorem MemoryCanonical.nextFill (h : MemoryCanonical s) : MemoryCanonical (nextFill s c) := h.modCrs

theorem MemoryCanonical.failFill {f : Fill} {kind code : Nat} {bad : Option Illegal} (h : MemoryCanonical s) :
    MemoryCanonical (failFill s c f kind code bad) :=
  h.nextFill.modCrs.fileFault

theorem MemoryCanonical.execCfgFillComplete (h : MemoryCanonical s) : OutcomeCanonical (execCfgFillComplete e s) := by
  unfold Machine.execCfgFillComplete
  extract_lets c y
  split
  · exact h
  · extract_lets cx
    refine h.ite ?_
    split
    · exact h.failFill
    · refine h.failFill.ite ?_
      split
      · exact h.failFill
      · exact h.failFill.ite (h.fillBanks.modCrs.sendLater.modCrs.ite h.fillBanks.modCrs.sendLater.nextFill)

theorem MemoryCanonical.swapUnits (h : MemoryCanonical s) : MemoryCanonical (swapUnits s cx c) :=
  (h.foldl (fun h => h.modElem)).foldl fun h => h.modCru

theorem MemoryCanonical.renumber {plane : BitVec 16} {new : Plane} (h : MemoryCanonical s) :
    MemoryCanonical (renumber s cx c plane new) :=
  h.upd

theorem MemoryCanonical.flipNow {g : Firing} (h : MemoryCanonical s) : MemoryCanonical (flipNow s g) := by
  unfold Machine.flipNow
  extract_lets cx c layout
  split
  · exact h.softRec
  · refine h.softRec.ite ?_
    split
    · exact h.softRec
    next hu => exact (h.flipPools.of_eq hu).renumber.swapUnits.upd.modCrs

theorem MemoryCanonical.modWork {f : PlateWork → PlateWork} (h : MemoryCanonical s) : MemoryCanonical (modWork s w f) := h.upd

theorem MemoryCanonical.endWork (h : MemoryCanonical s) : MemoryCanonical (endWork s w) := h.upd

theorem MemoryCanonical.goRevoke (h : MemoryCanonical s) : MemoryCanonical (goRevoke s w) := by
  unfold Machine.goRevoke
  extract_lets ch bays send
  exact (h.ite h.finishRevoke.modWork).ite ((h.endWork.notice.sendLater.ite h).ite (h.sendLater.modWork.ite h))

end

end Sys2Proof.Machine
end

section
/-! PROOF. Pages, power, errors, bring-up, captures and host messages keep memory canonical (R393 to R401, R431 to R455). -/

namespace Sys2Proof.Machine

section
variable {s : State} {c b bank cx code pid n : Nat} {m : Msg} {e x : EvArgs} {o : XOk}
    {pages : List (Nat × Nat × XOk)} {cxs as : List Nat}

/-! ### Pulls -/

theorem MemoryCanonical.execPagePull (h : MemoryCanonical s) : OutcomeCanonical (execPagePull e s) := by
  unfold Machine.execPagePull
  split
  · exact h
  · split
    · exact h
    · exact h.wakeAt.ite (h.pullNow.getD h)

theorem MemoryCanonical.guestLost {g : Firing} {owner page : Nat} (h : MemoryCanonical s) :
    MemoryCanonical (guestLost s g code owner page) := by
  unfold Machine.guestLost
  extract_lets c
  refine h.cruFault.ite ?_
  split
  · exact h.gateFault
  · split
    · exact h
    · exact (h.unreserveWords.modCast.ite h).hardFault.ite h

theorem MemoryCanonical.walkLost {owner : Nat} {w : Walk} (h : MemoryCanonical s) :
    MemoryCanonical (walkLost code owner s c w) :=
  (h.modCrs.foldl (fun h => h.hardFault)).foldl fun h => h.guestLost

theorem MemoryCanonical.execPullLost (h : MemoryCanonical s) : OutcomeCanonical (execPullLost e s) := by
  unfold Machine.execPullLost
  extract_lets c
  split
  · exact h
  · split
    · exact h
    · split
      · exact h
      · exact h.foldl fun h => h.foldl (fun h => h.walkLost)

/-! ### Power -/

theorem MemoryCanonical.execPermitStepLower (h : MemoryCanonical s) : OutcomeCanonical (execPermitStepLower x s) := by
  unfold Machine.execPermitStepLower
  extract_lets due __src
  split
  · exact h.upd.modCrs
  · exact h

theorem MemoryCanonical.execPermitStepRaise (h : MemoryCanonical s) : OutcomeCanonical (execPermitStepRaise x s) := by
  unfold Machine.execPermitStepRaise
  extract_lets due __src
  split
  · exact h.upd.modCrs
  · exact h

theorem MemoryCanonical.beginJournal (h : MemoryCanonical s) : MemoryCanonical (beginJournal s) := h.ite h.upd

theorem MemoryCanonical.endWake (h : MemoryCanonical s) : MemoryCanonical (endWake s c) := h.modCrs

theorem MemoryCanonical.execCourseWake (h : MemoryCanonical s) : OutcomeCanonical (execCourseWake e s) := by
  unfold Machine.execCourseWake
  extract_lets c
  split
  · exact h.endWake.ite h
  · exact h.startWake.ite h

/-! ### Errors -/

theorem MemoryCanonical.execScrub (h : MemoryCanonical s) : OutcomeCanonical (execScrub e s) := by
  unfold Machine.execScrub
  extract_lets c b now __src s1 __src1
  have h1 : MemoryCanonical s1 := by
    unfold s1
    split
    · exact (h.foldl (fun h => h.guardOf)).modBay
    · exact h.modCrs
    · exact h.upd
  exact h1.upd

theorem MemoryCanonical.useSpare {spare : Nat} (h : MemoryCanonical s) : MemoryCanonical (useSpare s bank spare) := h.upd

theorem MemoryCanonical.dataLost {scope : Nat} {upd : FaultRec → FaultRec} (h : MemoryCanonical s) :
    MemoryCanonical (dataLost s cx scope upd) :=
  h.notice

theorem MemoryCanonical.putLost {leaves gone : List Nat} (h : MemoryCanonical s) : MemoryCanonical (putLost s o leaves gone) :=
  h.upd

theorem MemoryCanonical.markLost {gone : List Nat} (h : MemoryCanonical s) : MemoryCanonical (markLost s pages o gone) :=
  h.putLost.foldl fun h => h.dataLost

theorem MemoryCanonical.decidePage (h : MemoryCanonical s) : MemoryCanonical (decidePage s pages o bank) := by
  unfold Machine.decidePage
  extract_lets spare s1 zero copy
  have h1 : MemoryCanonical s1 := by
    unfold s1
    clear_value spare
    split
    · exact h.useSpare
    · exact h
  split
  · extract_lets s2 s3
    have h2 : MemoryCanonical s2 := h.useSpare
    have h3 : MemoryCanonical s3 := h2.setMem fun h => Memory.foldl_wf _ (fun _ _ h => Memory.write_wf h _ _) h _
    exact h3.foldl fun h => h.bumpGen
  · exact (h1.setMem (fun h => Memory.foldl_wf _ (fun _ _ h => Memory.write_wf h _ _) h _)).markLost

theorem MemoryCanonical.decideBank (h : MemoryCanonical s) : MemoryCanonical (decideBank s pages bank) :=
  h.foldl fun h => h.decidePage

theorem MemoryCanonical.loseFrame {ft : Nat} (h : MemoryCanonical s) : MemoryCanonical (loseFrame s c b ft) := by
  unfold Machine.loseFrame
  extract_lets s1
  have h1 : MemoryCanonical s1 := h.modBay
  split
  · exact h1
  · exact h1.killStrand.dataLost

theorem MemoryCanonical.loseBuf {i : Nat} (h : MemoryCanonical s) : MemoryCanonical (loseBuf s c b pid i) := by
  unfold Machine.loseBuf
  split
  · exact h
  · exact h.modPool.dataLost.ite h

theorem MemoryCanonical.loseAlloc {a : AllocId} (h : MemoryCanonical s) : MemoryCanonical (loseAlloc s c b pid a) := by
  unfold Machine.loseAlloc
  split
  · exact h.loseFrame
  · exact h.loseBuf

theorem MemoryCanonical.loseGranules {g : Nat} (h : MemoryCanonical s) : MemoryCanonical (loseGranules s c b g n) :=
  h.foldl fun h => h.loseAlloc

theorem MemoryCanonical.failBank (h : MemoryCanonical s) : MemoryCanonical (failBank s bank) :=
  h.upd.modBay.loseGranules.decideBank

theorem MemoryCanonical.countBank (h : MemoryCanonical s) : MemoryCanonical (countBank s bank).2 := h.upd

theorem MemoryCanonical.bayError {x : Nat} {own : Bool} (h : MemoryCanonical s) : MemoryCanonical (bayError s c b x own) := by
  unfold Machine.bayError
  extract_lets bank
  split
  next hu => refine (h.countBank.of_snd hu).failBank.ite ((h.countBank.of_snd hu).loseGranules.decideBank)

theorem MemoryCanonical.losePool (h : MemoryCanonical s) : MemoryCanonical (losePool s c b pid) :=
  (h.foldl (fun h => h.loseBuf)).foldl fun h => h.loseFrame

theorem MemoryCanonical.farError {off : Nat} (h : MemoryCanonical s) : MemoryCanonical (farError s off) := by
  unfold Machine.farError
  extract_lets blk a pages __src s1
  have h1 : MemoryCanonical s1 := h.setMem fun h => Memory.foldl_wf _ (fun _ _ h => Memory.write_wf h _ _) h _
  exact h1.foldl fun h => h.markLost

theorem MemoryCanonical.execUncorrectableError (h : MemoryCanonical s) : OutcomeCanonical (execUncorrectableError e s) := by
  unfold Machine.execUncorrectableError
  extract_lets c b x __src s1
  split
  · exact h.upd.bayError
  · exact h.upd.loseFrame
  · exact h.upd.losePool
  · exact h.upd.ite h.upd.modCrs
  · exact h.upd.upd
  · exact h.upd.farError.ite h.upd
  · exact h.upd

theorem MemoryCanonical.wipeCourse (h : MemoryCanonical s) : MemoryCanonical (wipeCourse s c) := by
  unfold Machine.wipeCourse
  extract_lets s1 cxs s2 s3 __src
  have h1 : MemoryCanonical s1 := h.settleKilled
  have h2 : MemoryCanonical s2 := h1.foldl fun h => (h.foldl (fun h => h.clearBay)).ite h
  have h3 : MemoryCanonical s3 := h2.foldl fun h => h.clearCourse
  exact h3.setMem fun h => Memory.clear_wf h _ _

theorem MemoryCanonical.execCourseFail (h : MemoryCanonical s) : OutcomeCanonical (execCourseFail e s) := by
  unfold Machine.execCourseFail
  extract_lets c pages killed users s1 s2 lost s3
  have h1 : MemoryCanonical s1 := h.foldl fun h => h.endKernel
  have h2 : MemoryCanonical s2 := h1.wipeCourse
  have h3 : MemoryCanonical s3 := h2.foldl fun h => h.putLost
  exact h.ite (h3.foldl (fun h => h.dataLost))

/-! ### Bring-up and links -/

theorem MemoryCanonical.startClocks (h : MemoryCanonical s) : MemoryCanonical (startClocks s) := h.upd

theorem MemoryCanonical.powerOn (h : MemoryCanonical s) : MemoryCanonical (powerOn s) :=
  ⟨Memory.wf_filter h.mem _, h.hostMem, rfl⟩

theorem MemoryCanonical.execPowerGood (h : MemoryCanonical s) : OutcomeCanonical (execPowerGood s) := by
  unfold Machine.execPowerGood
  extract_lets p __src s1 s2 __src1
  have h2 : MemoryCanonical s2 := h.upd.upd.startClocks
  refine h.powerOn.ite ?_
  split
  · exact h.upd.upd
  · exact h2.upd
  · exact h.upd

/-! ### Checkpoints and restores -/

theorem MemoryCanonical.stopAll (h : MemoryCanonical s) : MemoryCanonical (stopAll s cxs) := h.foldl fun h => h.modCtx

theorem MemoryCanonical.freezeCourse (h : MemoryCanonical s) : MemoryCanonical (freezeCourse cxs s c) := by
  unfold Machine.freezeCourse
  extract_lets y go
  split
  · exact h.discardFills.upd.modCrs.endSweep.ite h
  · exact (h.chargeSlice.ite h).discardFills.upd.modCrs.endSweep.ite (h.chargeSlice.ite h)
  · exact h

theorem MemoryCanonical.freezeAll (h : MemoryCanonical s) : MemoryCanonical (freezeAll s cxs) := h.foldl fun h => h.freezeCourse

theorem MemoryCanonical.writeImage {cp : Capture} {at_ cap : Nat} (h : MemoryCanonical s) :
    YieldsCanonical (writeImage s cp at_ cap) :=
  YieldsCanonical.ite trivial (h.setHostMem (fun h => Memory.putBytes_wf h _ _))

theorem MemoryCanonical.checkpointAt {at_ cap : Nat} {resume : Bool} (h : MemoryCanonical s) :
    YieldsCanonical ((checkpointAt s cx resume at_ cap).map Prod.fst) := by
  unfold Machine.checkpointAt
  extract_lets cxs z cp
  have hz : MemoryCanonical z := h.freezeAll
  rw [Option.map_map]
  exact (hz.ite hz.stopAll).writeImage.map_of id

theorem MemoryCanonical.departWork {xs : List Nat} (h : MemoryCanonical s) : MemoryCanonical (departWork s xs) :=
  h.foldl fun h => h.upd.clearWork

theorem MemoryCanonical.migrate {ch target : Nat} (h : MemoryCanonical s) : MemoryCanonical (migrate s ch target) :=
  h.ite h.freezeAll.upd.departWork

theorem MemoryCanonical.plateGo {p : Pend} (h : MemoryCanonical s) : MemoryCanonical (plateGo s p) := by
  unfold Machine.plateGo
  split
  · exact h
  · split
    · exact (h.migrate.ite h).sendLater.endWork.ite h
    · exact h.goRevoke
    · exact h.sendLater.endWork.ite h
    · exact h.endWork.flipNow.ite h

theorem MemoryCanonical.restoreBay {k : Nat} {p : Bay} (h : MemoryCanonical s) : MemoryCanonical (restoreBay s k p) := h.modBay

theorem MemoryCanonical.restoreElement {k : Nat} {p : Element} (h : MemoryCanonical s) :
    MemoryCanonical (restoreElement s k p) :=
  h.modElem

theorem MemoryCanonical.restoreCourse {p : Course} (h : MemoryCanonical s) : MemoryCanonical (restoreCourse s c p) := h.modCrs

theorem MemoryCanonical.restoreMem {c : Capture} (h : MemoryCanonical s) : MemoryCanonical (restoreMem s c) := by
  unfold Machine.restoreMem
  extract_lets s1 m
  have h1 : MemoryCanonical s1 := h.foldl fun h => h.touchRange
  exact h1.setMem fun h => Memory.foldl_wf _ (fun _ _ h => Memory.write_wf h _ _) (Memory.foldl_wf _ (fun _ _ h =>
    Memory.clear_wf h _ _) h _) _

theorem MemoryCanonical.restoreRidge {c : Capture} (h : MemoryCanonical s) : MemoryCanonical (restoreRidge s c) :=
  h.setRidge fun h => Memory.foldl_wf _ (fun _ _ h => Memory.write_wf h _ _) (Memory.foldl_wf _ (fun _ _ h => Memory.clear_wf h _
    _) h _) _

theorem MemoryCanonical.restoreCapture {c : Capture} (h : MemoryCanonical s) : MemoryCanonical (restoreCapture s c) := by
  unfold Machine.restoreCapture
  extract_lets s1 s2 s3 s4 s5 s6
  have h1 : MemoryCanonical s1 := h.restoreMem
  have h2 : MemoryCanonical s2 := h1.foldl fun h => h.restoreBay
  have h3 : MemoryCanonical s3 := h2.foldl fun h => h.restoreElement
  have h4 : MemoryCanonical s4 := h3.foldl fun h => h.setCru
  have h5 : MemoryCanonical s5 := (h4.foldl (fun h => h.restoreCourse)).restoreRidge
  exact h5.upd.foldl fun h => h.syncParts

/-! ### Host messages -/

theorem MemoryCanonical.respond {status p0 p1 : Nat} {payload : List Byte} (h : MemoryCanonical s) :
    MemoryCanonical (respond s m status p0 p1 payload) :=
  h.upd

theorem MemoryCanonical.refuse {status : Nat} (h : MemoryCanonical s) : MemoryCanonical (refuse s m status) := h.respond

theorem MemoryCanonical.refuseFault {kind addr : Nat} (h : MemoryCanonical s) :
    MemoryCanonical (refuseFault s m kind code addr) :=
  h.respond

theorem MemoryCanonical.refuseRepeats (h : MemoryCanonical s) : MemoryCanonical (refuseRepeats s) := by
  unfold Machine.refuseRepeats
  split
  · exact h.upd.foldl fun h => h.refuse

theorem MemoryCanonical.hostEvent {f : Msg → Bool} {act : State → Msg → State} {hold : State → Msg → Option State}
    (h : MemoryCanonical s) (ha : ∀ {u m}, MemoryCanonical u → MemoryCanonical (act u m))
    (hh : ∀ {u m}, MemoryCanonical u → YieldsCanonical (hold u m)) : MemoryCanonical (hostEvent s f act hold) := by
  unfold Machine.hostEvent
  refine h.ite ?_
  extract_lets s1
  split
  · exact h.refuseRepeats
  · extract_lets t
    refine h.refuseRepeats.upd.refuse.ite (h.refuseRepeats.upd.refuse.ite ?_)
    split
    next hu => exact (hh h.refuseRepeats).of_eq hu
    · exact ha h.refuseRepeats.upd

theorem MemoryCanonical.windowPut {w : Nat × List Byte} (h : MemoryCanonical s) : MemoryCanonical (windowPut s w) :=
  h.writeBytes.ite h

theorem MemoryCanonical.execHostWindowWrite (h : MemoryCanonical s) : OutcomeCanonical (execHostWindowWrite x s) := by
  unfold Machine.execHostWindowWrite
  split
  · exact h
  · exact h.upd.windowPut

theorem MemoryCanonical.execCtxCreate (h : MemoryCanonical s) : OutcomeCanonical (execCtxCreate s) := by
  unfold Machine.execCtxCreate
  refine h.hostEvent (fun h => ?_) fun h => trivial
  extract_lets ws es
  split
  · exact h.refuse
  · refine h.refuse.ite ?_
    split
    · exact h.refuse
    next hu => exact (h.createChild.of_snd hu).modCtx.upd.respond

theorem MemoryCanonical.execPlanePut (h : MemoryCanonical s) : OutcomeCanonical (execPlanePut s) := by
  unfold Machine.execPlanePut
  refine h.hostEvent (fun h => h.refuse.ite ?_) fun h => trivial
  split
  · exact h.refuse
  · split
    · exact h.refuse
    · exact h.refuse.ite (h.refuse.ite h.upd.respond)

theorem MemoryCanonical.execLaunchMessage (h : MemoryCanonical s) : OutcomeCanonical (execLaunchMessage s) := by
  unfold Machine.execLaunchMessage
  refine h.hostEvent (fun h => h.refuse.ite (h.refuse.ite ?_)) fun h => trivial
  split
  next hu => exact (h.queueLaunch.of_snd hu).respond
  · exact h.refuse.ite (h.refuseFault.ite h.refuse)

theorem MemoryCanonical.noteGuards (h : MemoryCanonical s) : MemoryCanonical (noteGuards s as) :=
  h.foldl fun h => h.foldl (fun h => h.guardOf)

theorem MemoryCanonical.hostWrite {va : Nat} {bs : List Byte} (h : MemoryCanonical s) :
    MemoryCanonical (hostWrite s cx va as bs) :=
  h.writeBytes.noteGuards.ite h.writeRegion

theorem MemoryCanonical.hostPull {va : Nat} (h : MemoryCanonical s) : MemoryCanonical (hostPull s cx va n) := h.ite h.pullRange

theorem MemoryCanonical.copyPull {dir : Nat} (h : MemoryCanonical s) : MemoryCanonical (copyPull s m dir n) :=
  (h.ite h.hostPull).ite ((h.ite h.hostPull).hostPull)

theorem MemoryCanonical.holdFor (h : MemoryCanonical s) : YieldsCanonical (holdFor s as) := YieldsCanonical.ite h.wakeAt trivial

theorem MemoryCanonical.copyHold (h : MemoryCanonical s) : YieldsCanonical (copyHold s m) := by
  unfold Machine.copyHold
  split
  · trivial
  · exact YieldsCanonical.ite trivial h.copyPull.holdFor

theorem MemoryCanonical.memCopy (h : MemoryCanonical s) : MemoryCanonical (memCopy s m) := by
  unfold Machine.memCopy
  extract_lets cx src dst
  split
  · exact h.refuse
  · extract_lets s1 from_
    have h1 : MemoryCanonical s1 := h.copyPull
    clear_value from_
    split
    · exact h1.refuseFault
    · refine (h1.setHostMem (fun h => Memory.putBytes_wf h _ _)).respond.ite ?_
      split
      · exact h1.refuseFault
      · exact h1.hostWrite.respond

theorem MemoryCanonical.execCheckpoint (h : MemoryCanonical s) : OutcomeCanonical (execCheckpoint s) := by
  unfold Machine.execCheckpoint
  refine h.hostEvent (fun h => h.refuse.ite (h.refuse.ite ?_)) fun h => trivial
  split
  · exact h.refuse
  next hu => exact (h.checkpointAt.of_fst hu).respond

theorem MemoryCanonical.execCheckpointDebug (h : MemoryCanonical s) : OutcomeCanonical (execCheckpointDebug s) := by
  unfold Machine.execCheckpointDebug
  refine h.hostEvent (fun h => h.refuse.ite ?_) fun h => trivial
  extract_lets cp
  split
  · exact h.refuse
  next hu => exact (h.writeImage.of_eq hu).upd.respond

theorem MemoryCanonical.execRestoreMessage (h : MemoryCanonical s) : OutcomeCanonical (execRestoreMessage s) := by
  unfold Machine.execRestoreMessage
  refine h.hostEvent (fun h => h.refuse.ite ?_) fun h => trivial
  split
  · exact h.refuse
  · exact h.refuse.ite (h.refuse.ite h.restoreCapture.respond)

theorem MemoryCanonical.telemAct {ws : State → List Nat} (h : MemoryCanonical s) : MemoryCanonical (telemAct ws s m) :=
  h.refuse.ite h.respond

theorem MemoryCanonical.resetState (h : MemoryCanonical s) : MemoryCanonical (resetState s) :=
  MemoryCanonical.startClocks ⟨Memory.wf_filter h.mem _, h.hostMem, rfl⟩

theorem MemoryCanonical.execResetStack (h : MemoryCanonical s) : OutcomeCanonical (execResetStack s) := by
  unfold Machine.execResetStack
  exact h.hostEvent (fun h => h.refuse.ite (((h.foldl (fun h => h.refuse)).foldl (fun h => h.endKernel)).resetState.respond))
    fun h => trivial

theorem MemoryCanonical.epPull (h : MemoryCanonical s) : MemoryCanonical (epPull s m) := h.pullPage.ite h

theorem MemoryCanonical.epHold (h : MemoryCanonical s) : YieldsCanonical (epHold s m) := by
  unfold Machine.epHold
  refine YieldsCanonical.ite trivial ?_
  extract_lets s1
  have h1 : MemoryCanonical s1 := h.epPull
  split
  · exact h1.holdFor
  · trivial

theorem MemoryCanonical.epSend (h : MemoryCanonical s) : MemoryCanonical (epSend s m) := by
  unfold Machine.epSend
  extract_lets cx va s1
  have h1 : MemoryCanonical s1 := h.epPull
  split
  · exact h.refuse
  · split
    · exact h1.refuseFault
    · extract_lets s2
      have h2 : MemoryCanonical s2 := by
        unfold s2
        split
        · exact h1.install
        · exact h1
      exact h2.refuse.ite h2.dirtyRegion.fillWord.serveReleases.respond

theorem MemoryCanonical.execSigDeliveryAck (h : MemoryCanonical s) : OutcomeCanonical (execSigDeliveryAck e s) := by
  unfold Machine.execSigDeliveryAck
  refine h.ite ?_
  split
  · exact h
  · exact h.upd.hostSend

theorem MemoryCanonical.policyAct {early : Bool} {ok : Msg → Bool} {set : Policy → Msg → Policy}
    (h : MemoryCanonical s) : MemoryCanonical (policyAct early ok set s m) :=
  h.refuse.ite (h.refuse.ite h.upd.respond)

end

end Sys2Proof.Machine
end

section
/-! PROOF. Every step keeps memory canonical. -/

namespace Sys2Proof.Machine

section
variable {s : State}

/-! ### Time and the choice of a move -/

theorem MemoryCanonical.refillAll (h : MemoryCanonical s) : MemoryCanonical (refillAll s) := h.foldl fun h => h.refillElem

theorem MemoryCanonical.passTime {dt : Nat} (h : MemoryCanonical s) : MemoryCanonical (passTime s dt) :=
  h.upd.ite h.upd.refillAll.renewPasses

theorem MemoryCanonical.issueAt {c el : Nat} (h : MemoryCanonical s) : YieldsCanonical ((issueAt s c el).map Prod.snd) := by
  unfold Machine.issueAt
  split
  · trivial
  · extract_lets b
    split
    · trivial
    · split
      · trivial
      · exact h.modElem.modCast.refillElem.chargeEnergy.upd

theorem MemoryCanonical.refire {p : Pend} (h : MemoryCanonical s) : MemoryCanonical (refire s p) := h.upd.ite h.upd.modOwn

theorem MemoryCanonical.noteWaits {ps : List Pick} {chosen : Option Pick} (h : MemoryCanonical s) :
    MemoryCanonical (noteWaits s ps chosen) :=
  h.upd

end

/-! ### The step -/

section
variable {s : State}

/-- Each instruction is built of operations that keep the form. -/
theorem MemoryCanonical.exec (h : MemoryCanonical s) (i : Instr) : OutcomeCanonical (exec i s) := by
  unfold Machine.exec
  cases i with
  | tokenArrival => exact h.execTokenArrival
  | castCommit => exact h.execCastCommit
  | castAbort => exact h.execCastAbort
  | stall => exact h.execStall
  | compactionMoveDone => exact h.execCompactionMoveDone
  | spillTimerExpiry => exact h.execSpillTimerExpiry
  | spillWriteAck => exact h.execSpillWriteAck
  | waveLoadPerform => exact h.execWaveLoadPerform
  | walkComplete => exact h.execWalkComplete
  | walkerStart => exact h.execWalkerStart
  | cmbPartialArrival => exact h.execCmbPartialArrival
  | cmbCellTimeout => exact h.execCmbCellTimeout
  | barrierPhaseComplete => exact h.execBarrierPhaseComplete
  | ridgeOccurrence => exact h.execRidgeOccurrence
  | ridgeControlWord => exact h.execRidgeControlWord
  | ridgeMirrorApply => exact h.upd.applyBeat.refireWaits
  | tickUntilExpiry => exact h.refireWaits
  | crucibleTokenArrival => exact h.execCrucibleTokenArrival
  | crucibleOperationStart => exact h.execCrucibleOperationStart
  | permitHandout => exact h.execPermitHandout
  | burstEnd => exact h.execBurstEnd
  | gateStreamBind => exact h.execGateStreamBind
  | gateFeedBeat => exact h.execGateFeedBeat
  | gateDrainBeat => exact h.execGateDrainBeat
  | gateStreamComplete => exact h.execGateStreamComplete
  | gateStreamFault => exact h.execGateStreamFault
  | faultDelivery => exact h.execFaultDelivery
  | verdictApply => exact h.execVerdictApply
  | kernelSelect => exact h.execKernelSelect
  | kernelStart => exact h.execKernelStart
  | kernelCancel => exact h.execKernelCancel
  | gangStartTick => exact h.execGangStartTick
  | sourceInjection => exact h.execSourceInjection
  | kernelEnd => exact h.execKernelEnd
  | heapPop => exact h.execHeapPop
  | sliceEnd => exact h.execSliceEnd
  | sweep => exact h.execSweep
  | freeze => exact h.execFreeze
  | sliceResume => exact h.execSliceResume
  | cfgFillComplete => exact h.execCfgFillComplete
  | pagePull => exact h.execPagePull
  | pullLost => exact h.execPullLost
  | permitStepLower => exact h.execPermitStepLower
  | permitStepRaise => exact h.execPermitStepRaise
  | courseRetentionEnter => exact h.modCrs.ite h
  | courseOffEnter => exact h.beginJournal.modCrs.ite h
  | courseWake => exact h.execCourseWake
  | scrub => exact h.execScrub
  | uncorrectableError => exact h.execUncorrectableError
  | downpipeFail => exact h.ite h.upd
  | courseFail => exact h.execCourseFail
  | downpipeTestBeat | eaveFlitReplay | powerMeasure | timeSync | hostLinkDown => exact h.upd
  | eaveLinkLoss => exact h.upd.upd
  | restoreCopyDone => exact h.execRestoreCopyDone
  | crucibleOperationComplete => exact h.execCrucibleOperationComplete
  | sigDeliveryAck => exact h.execSigDeliveryAck
  | hostWindowWrite => exact h.execHostWindowWrite
  | permitFallDue => exact h.execPermitFallDue
  | pass | sel | merge | join => exact h.passNode
  | sink => exact h
  | lit | src | repl | extr | qcvt | sfop => exact h.pureNode
  | steer | dqcvt => exact h.pureNode.ite h.pureNode
  | vert => exact h.sendAcross
  | eave => exact h.fault.ite h.sendAcross
  | tagget | ret | cmp | bfx | bfi | ext | fcvt | tickRd | residRd | heapQ => exact h.ctlNode
  | tagset => exact h.execTagset
  | call => exact h.actNode fun h => h.holdEffect.emitWord
  | exit => exact h.modOwn
  | iter => exact h.execIter
  | strand => exact h.actNode fun h => h.holdArgs.emitWord.ite (h.fault.ite (h.fault.ite h.holdArgs.emitWord))
  | allocFrm => exact h.execAllocFrm
  | allocBuf => exact h.execAllocBuf
  | allocRdg => exact h.allocNode fun h => h.fault.ite (h.waitAgain.ite h.upd.scanSlots)
  | allocCru => exact h.allocNode fun h => h.fault.ite (h.waitAgain.ite h.modCru.scanCru)
  | freeFrm => exact h.actNode fun h => h.holdEffect.emitWord.ite (h.fault.ite (h.fault.ite h.holdEffect.emitWord))
  | freeBuf | use => exact h.bufNode
  | freeRdg => exact h.actNode fun h => h.holdEffect.emitWord.ite (h.hardFault.ite h.holdEffect.emitWord)
  | poolq => exact h.execPoolq
  | add | sub | mul | mulh | div | rem | mad | neg | abs | min | max | lea | satadd | clamp => exact h.intNode
  | and | or | xor | not | andn | shl | shr | sar | rol | clz | pop => exact h.bitNode
  | vadd | vsub | vmul | vmad | vmin | vmax | vabs => exact h.vecInt
  | vand | vor | vxor | vshl | vshr | vsel | vpopc => exact h.vecBits
  | vcmp => exact h.execVcmp
  | vdot4 | vperm | vslide | vpack | vunpk | vred | vscan | vmask | viota | vcvt => exact h.dataNode
  | vins => exact h.mixNode
  | vfadd | vfsub | vfmul | vfma | vfmin | vfmax | vfdiv | vfsqrt | vfrcp | vfrsq | vfexp2 | vflog2 | vfcls | vrnd => exact
    h.vecFloat
  | vfabs => exact h.execVfabs
  | vfneg => exact h.execVfneg
  | vfcmp => exact h.execVfcmp
  | ld | vld | ldx | ldl | vldx => exact h.loadNode
  | st | vst | stx | vstx => exact h.storeNode
  | pref => exact h.actNode fun h => h.waveNode (fun h => (h.waveIn.guestWalk.ite h.waveIn).emitWord)
  | atom | cas => exact h.atomNode
  | ild => exact h.ildNode
  | ist | iclr => exact h.structNode
  | cmb => exact h.execCmb
  | fence => exact h.actNode fun h => h.waveNode (fun h => (h.holdWrite.ite h.waveIn).emitWord)
  | barArrive => exact h.actNode fun h => h.waveNode (fun h => h.memFault.ite h.holdWrite)
  | barWait => exact h.execBarWait
  | publish => exact h.execPublish
  | shadow => exact h.execShadow
  | rdgSt => exact h.execRdgSt
  | rdgLd => exact h.rdgLdNode
  | rdgWait => exact h.actNode fun h => h.emitNothing.ite (h.hardFault.ite (h.emitWord.ite h.waitAgain))
  | tickUntil => exact h.actNode fun h => h.emitWord.ite (h.emitWord.ite h.waitAgain)
  | gateLoad | gateStore | gateFeed | gateDrain | gateFence | gateCancel => exact h.gateNode
  | gateQry => exact h.actNode fun h => h.emitWord
  | mxLdb => exact h.execMxLdb
  | mxGather => exact h.execMxGather
  | mxLda => exact h.execMxLda
  | mxMma => exact h.execMxMma
  | mxScale => exact h.execMxScale
  | mxDrain => exact h.execMxDrain
  | mxZero => exact h.cruNode fun h => h.modCruOf.finishOp
  | mxAddc => exact h.execMxAddc
  | mxQry => exact h.cruNode fun h => (h.modCruOf.ite h).finishOp
  | spawn => exact h.taskNode (fun h => h.holdArgs.emitWord) fun h => h.fault.ite h.holdArgs.modHeap.serveHeap
  | gainAdd | gainDone | gainSet => exact h.changeNode
  | gainTake => exact h.actNode fun h => h.ite h.modElem.askTake
  | tolWr => exact h.actNode fun h => h.holdArgs.emitWord
  | ctxNew | ctxGrant | ctxRevoke | ctxRun | ctxStop | ctxDel | ctxRst | cfgLoad | cfgFlip | launch | permit => exact h.plateNode
  | csrRd => exact h.execCsrRd
  | csrWr => exact h.execCsrWr
  | trap => exact h.actNode fun h => h.holdEffect.emitWord.ite h.hardFault
  | repair => exact h.actNode fun h => h.holdAfter.emitWord
  | hostSig => exact h.actNode fun h => h.holdAfter.ite h.fault
  | powerGood => exact h.execPowerGood
  | wfence => exact h.upd.foldl fun h => h.windowPut
  | ctxCreate => exact h.execCtxCreate
  | ctxDelete => exact h.hostEvent (fun h => h.refuse.ite (h.refuse.ite h.deleteCtx.respond)) fun h => trivial
  | planePut => exact h.execPlanePut
  | launchMessage => exact h.execLaunchMessage
  | memCopyToDevice | memCopyToHost | memCopyDevice => exact h.hostEvent (fun h => h.memCopy) fun h => h.copyHold
  | checkpoint => exact h.execCheckpoint
  | checkpointDebug => exact h.execCheckpointDebug
  | restoreMessage => exact h.execRestoreMessage
  | attestReport => exact h.hostEvent (fun h => h.refuse.ite h.upd.respond) fun h => trivial
  | attestChain => exact h.hostEvent (fun h => h.refuse.ite h.respond) fun h => trivial
  | telemPower | telemTemperature | telemErrors | telemSleep => exact h.hostEvent (fun h => h.telemAct) fun h => trivial
  | telemSync => exact h.hostEvent (fun h => h.refuse.ite h.telemAct) fun h => trivial
  | resetStack => exact h.execResetStack
  | resetContext => exact h.hostEvent (fun h => h.refuse.ite (h.refuse.ite h.resetCtx.respond)) fun h => trivial
  | epSend => exact h.hostEvent (fun h => h.epSend) fun h => h.epHold
  | policyPowerLimit | policySleep | policySpareBanks | policySignedPlanes => exact h.hostEvent (fun h => h.policyAct) fun h =>
    trivial
  | policyKeyInstall => exact h.hostEvent (fun h => h.refuse.ite h.policyAct) fun h => trivial

theorem MemoryCanonical.runRecord {w : BitVec 96} (h : MemoryCanonical s) : OutcomeCanonical (runRecord w s) := by
  unfold Machine.runRecord
  split
  · exact h.exec _
  · exact h

theorem MemoryCanonical.runPick {p : Pick} (h : MemoryCanonical s) : OutcomeCanonical (runPick p s) := by
  unfold Machine.runPick
  split
  · split
    · exact h.exec _
    · trivial
  · split
    next hu => exact (h.issueAt.of_pair hu).runRecord
    · exact h
  · exact h.refire.runRecord
  · exact h.plateGo

theorem MemoryCanonical.freeStep (h : MemoryCanonical s) : OutcomeCanonical (freeStep s) := by
  unfold Machine.freeStep
  extract_lets ps p u
  have hu : MemoryCanonical u := h.noteWaits
  clear_value u p
  split
  · exact hu.runPick
  · exact hu

theorem MemoryCanonical.step (h : MemoryCanonical s) : OutcomeCanonical (step s) := by
  unfold Machine.step
  split
  · exact h.upd.runPick
  · split
    · exact h.runPick
    · extract_lets u
      split
      · exact h.passTime.runPick
      · exact h.passTime.freeStep
end

/-- Settles O59: the agenda's move, a due move or a free one runs an instruction or the Plate's work after time has passed, and
each of these keeps the form. -/
theorem stepKeepsMemoryCanonical : Obligations.StepKeepsMemoryCanonical := by
  unfold Obligations.StepKeepsMemoryCanonical
  intro s t h ht
  have hstep := h.step
  rw [ht] at hstep
  exact hstep

end Sys2Proof.Machine
end


section
/-! PROOF. A reset writes the memory of another stack (R369, R373, R412, R455). -/

namespace Sys2Proof.Machine

/-! ### A heap ring in the memory of another stack -/

/-- The far page of stack 3 that holds the heap ring. -/
def remotePage : Nat := 2 ^ 55 + 3 * 2 ^ 45 + farBase

/-- RESET of the stack. -/
def resetMsg : Msg := { opc := 10, flags := 0, tag := 1, cx := 0, status := 0, p0 := 0, p1 := 0, payload := [] }

/-- A context of depth 1 whose window holds the page of stack 3, with one record in the heap ring of course 0. Entry 0 of its
table names the table again, so that every level but the last reads it, and entry 1 is the leaf. -/
def remoteRingCtx : Ctx :=
  { Ctx.fresh with
    depth := 1, runnable := true, troot := 0x10000
    holds := [{ kind := 2, course := 0, p0 := BitVec.ofNat 56 remotePage, p1 := 2 ^ 32 + 1 }]
    rings := [(16, { base := 0x10000, sz := 0, head := 0, tail := 16, written := 1 })] }

/-- The heap kernel of a LAUNCH message runs, and its queued task 0 stands in the ring as a record that is not done. -/
def remoteRingState : State :=
  { State.reset with
    mem := [(0x10002, 0x01), (0x10007, 0x80), (0x10015, 0x61), (0x10016, 0x80), (0x10017, 0xCE), (remotePage + 7, 0x20)]
    ctxs := [(0, { Ctx.fresh with runnable := true }), (5, remoteRingCtx)]
    kernels := [{ (default : Kernel) with cx := 5, serial := 1, fromHost := true, state := .running, heap := true }]
    reach := [3], hostIn := [resetMsg] }

/-- The reset kills the kernel, and the record in the other stack's memory is done (R369, R373). -/
theorem execResetStack_writesRemoteRing :
    (match exec .resetStack remoteRingState with
      | .next u => Memory.read u.mem (remotePage + 7)
      | _ => 0) = 0xA0#8 := by
  decide +kernel

/-- Refutes O58: a reset ends the kernels of LAUNCH messages, and a heap kernel that ends marks the records of its heap ring done.
The ring's page may stand in another stack's memory, where the mark changes a byte from 0x20 to 0xA0. -/
theorem not_resetStateHolds : ¬ Obligations.ResetStateHolds := by
  unfold Obligations.ResetStateHolds
  intro h
  obtain ⟨-, -, hreset⟩ := h
  obtain ⟨u, hu, -, -, -, hpod, -⟩ := hreset remoteRingState resetMsg [] ⟨rfl, rfl, rfl, rfl, by decide, by decide⟩ rfl rfl rfl rfl rfl
  have hwritten := execResetStack_writesRemoteRing
  rw [hu] at hwritten
  have hkept : Memory.read u.mem (remotePage + 7) = 0x20#8 := (hpod (remotePage + 7) (by decide +kernel)).trans (by decide +kernel)
  exact absurd (hwritten.symm.trans hkept) (by decide)
end Sys2Proof.Machine
end

section
/-! PROOF. Stores and prefetches at issue, and where loads and stores fault (R55, R212, R213, R219, R220, R222, R456). -/

namespace Sys2Proof.Machine

/-! ### What an access faults with (R55, R212, R213) -/

section
variable {s : State} {c b cx x n al cls : Nat} {write : Bool}

theorem State.access_noAddress (h : addrKind (x % 2 ^ 64) = .bad) : s.access c b cx x n al cls write = .bad kPROT 0 cx := by
  simp only [State.access, h]

theorem State.access_misaligned (h : addrKind (x % 2 ^ 64) ≠ .bad) (hal : x % al ≠ 0) :
    s.access c b cx x n al cls write = .bad kALIGN 0 cx := by
  unfold State.access
  cases hk : addrKind (x % 2 ^ 64) with
  | bad => exact absurd hk h
  | handle => exact if_pos hal
  | virt => exact if_pos hal
  | shadowAlias => exact if_pos hal

theorem State.access_badHandle (h : addrKind (x % 2 ^ 64) = .handle) (hal : x % al = 0) {code : Nat}
    (he : s.handleEntry cx x n = .error code) : s.access c b cx x n al cls write = .bad kPROT code cx := by
  simp only [State.access, h, hal, he, ne_eq, not_true_eq_false, if_false]

theorem State.access_virt (h : addrKind (x % 2 ^ 64) = .virt) (hal : x % al = 0) :
    s.access c b cx x n al cls write = s.virtAccess c b cx x n cls write false := by
  simp only [State.access, h, hal, ne_eq, not_true_eq_false, if_false]

theorem State.access_shadow (h : addrKind (x % 2 ^ 64) = .shadowAlias) (hal : x % al = 0) :
    s.access c b cx x n al cls write = s.virtAccess c b cx (x % 2 ^ 56) n cls write true := by
  simp only [State.access, h, hal, ne_eq, not_true_eq_false, if_false]

variable {va : Nat} {shadow : Bool} {t u : TlbEntry} (ht : s.tlbHit c b cx va = some t)
  (hu : s.tlbHit c b cx (va + n - 1) = some u)
include ht hu

/-- A page of a class that the access does not allow. -/
theorem State.virtAccess_class (h : ¬ cls / 2 ^ t.cls % 2 = 1 ∨ ¬ cls / 2 ^ u.cls % 2 = 1) :
    s.virtAccess c b cx va n cls write shadow = .bad kPROT 7 cx := by
  simp only [State.virtAccess, ht, hu]
  split
  · rfl
  · exact if_pos (by omega)

/-- A shadow address of a page that has no shadow copy. -/
theorem State.virtAccess_noShadow (h : t.cls ≠ 5 ∨ u.cls ≠ 5) :
    s.virtAccess c b cx va n cls write true = .bad kPROT 7 cx := by
  simp only [State.virtAccess, ht, hu]
  split
  · rfl
  · exact if_pos (by tauto)

section
variable (hct : cls / 2 ^ t.cls % 2 = 1) (hcu : cls / 2 ^ u.cls % 2 = 1)
include hct hcu

theorem State.virtAccess_readOnly (hw : write = true) (h : (t.w && u.w) = false) :
    s.virtAccess c b cx va n cls write false = .bad kPROT 6 cx := by
  simp [State.virtAccess, ht, hu, hct, hcu, hw, h]

theorem State.virtAccess_twoClasses (hw : write = true → (t.w && u.w) = true) (h : t.cls ≠ u.cls) :
    s.virtAccess c b cx va n cls write false = .bad kATTR 0 cx := by
  have hright : (write && !(t.w && u.w)) = false := by
    cases write with
    | false => rfl
    | true => rw [hw rfl]; rfl
  simp only [State.virtAccess, ht, hu, hct, hcu, hright, h, Bool.false_eq_true, false_and, or_false, if_false, if_true, ne_eq,
    not_false_eq_true, Nat.one_ne_zero]
end
end

/-! ### Stores and loads at issue (R212, R219, R220) -/

section
variable {op : Nat} {i : Instr} {r : NodeRec} {s : State}

theorem exec_store (hi : (op, i) ∈ [(0x91, Instr.st r), (0x93, .vst r), (0x95, .stx r), (0x98, .vstx r)]) :
    exec i s = .next (storeNode op r s) := by
  simp only [List.mem_cons, Prod.mk.injEq, List.not_mem_nil, or_false] at hi
  rcases hi with ⟨rfl, rfl⟩ | ⟨rfl, rfl⟩ | ⟨rfl, rfl⟩ | ⟨rfl, rfl⟩ <;> rfl

theorem sendsPayload_mem (s : State) (r : NodeRec) (x : Payload) (p : Bool) : (sendsPayload s r x p).mem = s.mem := by
  unfold sendsPayload sendsPair
  split
  · unfold afterSend
    split
    · rfl
    · exact (modOwn_baysOnly ..).mem
  · rfl

/-- A write that its checks hold back for the commit only. -/
theorem writeChecked_held {x n al cls : Nat} (act : State → State)
    (h : s.access s.firing.course.toNat s.firing.bay s.firing.cx.toNat x n al cls true = .held) :
    writeChecked s op r x n al cls act = act s := by
  simp only [writeChecked, h]

theorem writeChecked_bad {x n al cls kind code owner : Nat} (act : State → State)
    (h : s.access s.firing.course.toNat s.firing.bay s.firing.cx.toNat x n al cls true = .bad kind code owner) :
    writeChecked s op r x n al cls act = memFault s r s.firing kind code owner x := by
  simp only [writeChecked, h]

section
variable {x : Nat} (hact : actsFreely s r (argsOf r.ar.toNat s.firing 0)) (hp : firingP s.firing = false)
  (hroom : waveCount s s.firing.course.toNat s.firing.bay < 1024)
  (haddr : memAddr op r s.firing (memWidth op r) = .addr x)
include hact hp hroom haddr

/-- A store with an address is checked, and what passes sends its value and holds its write. -/
theorem storeNode_checked : storeNode op r s = writeChecked s op r x (memWidth op r) (memAlign op r) clsStore fun u =>
    emitData (holdWrite u op r) r s.firing (storeVal op s.firing).val false := by
  unfold storeNode
  rw [actNode_free _ hact, waveNode_free _ _ _ hroom]
  simp only [hp, haddr, Bool.false_eq_true, if_false]

variable (hldl : op = 0x96 → (s.firing.a.getD (plain 0)).word / 2 ^ 60 = 0xF)
include hldl

theorem loadNode_bad {kind code owner : Nat} (hwave : inWave s op r = false)
    (hacc : s.access s.firing.course.toNat s.firing.bay s.firing.cx.toNat x (memWidth op r) (memAlign op r) clsLoad false =
      .bad kind code owner) : loadNode op r s = memFault s r s.firing kind code owner x := by
  have hkind : ¬ (op = 0x96 ∧ isHandle (s.firing.a.getD (plain 0)).word = false) := fun h => by
    simp [isHandle_of_top (hldl h.1)] at h
  unfold loadNode
  rw [actNode_free _ hact, waveNode_free _ _ _ hroom]
  simp only [hp, haddr, hkind, hacc, hwave, Bool.and_false, Bool.false_eq_true, if_false]

/-- A load of a stack that no route reaches (R456). -/
theorem loadNode_unreachable {as : List Nat} {lost : Bool} {cls : Nat}
    (hacc : s.access s.firing.course.toNat s.firing.bay s.firing.cx.toNat x (memWidth op r) (memAlign op r) clsLoad false =
      .ok as lost cls)
    (hroute : ∃ y ∈ as, s.unreachable y = true) :
    loadNode op r s = memFault s r s.firing kPAGE 8 s.firing.cx.toNat x := by
  have hkind : ¬ (op = 0x96 ∧ isHandle (s.firing.a.getD (plain 0)).word = false) := fun h => by
    simp [isHandle_of_top (hldl h.1)] at h
  have hany : as.any s.unreachable = true := List.any_eq_true.mpr hroute
  unfold loadNode
  rw [actNode_free _ hact, waveNode_free _ _ _ hroom]
  simp only [hp, haddr, hkind, hacc, hany, Bool.false_eq_true, if_false, if_true]
end

/-! ### Prefetches (R222) -/

/-- What a prefetch that acts does before it sends A: it enters the wave buffer, and may join a walk as its guest. -/
def PrefDone (s u : State) : Prop := u.firing = s.firing ∧ u.mem = s.mem ∧ u.transit = s.transit

theorem PrefDone.waveIn : PrefDone s (waveIn s op r false true) :=
  ⟨waveIn_firing .., (waveIn_baysOnly ..).mem, State.modOwn_transit ..⟩

theorem PrefDone.guestWalk {u : State} {c cx va : Nat} {g : Firing} (h : PrefDone s u) : PrefDone s (guestWalk u c cx va g) := h

theorem PrefDone.ite {u v : State} {p : Prop} [Decidable p] (hu : PrefDone s u) (hv : PrefDone s v) :
    PrefDone s (if p then u else v) := by
  split <;> assumption

/-- A prefetch has a page walked at most, and sends A. -/
theorem execPref_sends (hact : actsFreely s r (argsOf r.ar.toNat s.firing 0))
    (hroom : waveCount s s.firing.course.toNat s.firing.bay < 1024) (har : r.ar.toNat = 0) :
    ∃ t, exec (.pref r) s = .next (sendsValue t r ((s.firing.a.getD (plain 0)).low 64) false) ∧ t.mem = s.mem ∧
      t.transit = s.transit := by
  have ⟨_, _, _, _, hp⟩ := hact
  have ha : (argsOf r.ar.toNat s.firing 0).a = s.firing.a.getD (plain 0) := by rw [har]; rfl
  have hsent : ∀ u : State, PrefDone s u → ∃ t, emitWord u r s.firing (argsOf r.ar.toNat s.firing 0).a.word
      (argsOf r.ar.toNat s.firing 0).p = sendsValue t r ((s.firing.a.getD (plain 0)).low 64) false ∧ t.mem = s.mem ∧
        t.transit = s.transit := by
    rintro u ⟨hfir, hmem, htransit⟩
    exact ⟨u, by rw [hp, ha, emitWord_opnd r _ _ hfir], hmem, htransit⟩
  have hdone : PrefDone s (waveIn s 0x99 r false true) := .waveIn
  show ∃ t, Host.Outcome.next (actNode s r _ _) = _ ∧ _
  rw [actNode_free _ hact, waveNode_free _ _ _ hroom]
  simp only [Host.Outcome.next.injEq]
  refine hsent _ ?_
  exact hdone.guestWalk.ite hdone
end

/-- The loads and stores of R218 to R221, with whether they write. -/
theorem exec_access_bad {op : Nat} {i : Instr} {r : NodeRec} {s : State} {x : Nat} {write : Bool}
    (hi : (op, i, write) ∈ [(0x90, Instr.ld r, false), (0x92, .vld r, false), (0x94, .ldx r, false), (0x96, .ldl r, false),
      (0x97, .vldx r, false), (0x91, .st r, true), (0x93, .vst r, true), (0x95, .stx r, true), (0x98, .vstx r, true)])
    (hact : actsFreely s r (argsOf r.ar.toNat s.firing 0)) (hp : firingP s.firing = false)
    (hroom : waveCount s s.firing.course.toNat s.firing.bay < 1024) (hwave : inWave s op r = false)
    (haddr : memAddr op r s.firing (memWidth op r) = .addr x)
    (hldl : op = 0x96 → (s.firing.a.getD (plain 0)).word / 2 ^ 60 = 0xF) {kind code : Nat}
    (hacc : s.access s.firing.course.toNat s.firing.bay s.firing.cx.toNat x (memWidth op r) (memAlign op r)
      (if write then clsStore else clsLoad) write = .bad kind code s.firing.cx.toNat) :
    exec i s = .next (memFault s r s.firing kind code s.firing.cx.toNat x) := by
  cases write with
  | false =>
    have hload : (op, i) ∈ [(0x90, Instr.ld r), (0x92, .vld r), (0x94, .ldx r), (0x96, .ldl r), (0x97, .vldx r)] := by
      simpa using hi
    rw [exec_load hload, loadNode_bad hact hp hroom haddr hldl hwave hacc]
  | true =>
    have hstore : (op, i) ∈ [(0x91, Instr.st r), (0x93, .vst r), (0x95, .stx r), (0x98, .vstx r)] := by simpa using hi
    exact (exec_store hstore).trans
      (congrArg _ ((storeNode_checked hact hp hroom haddr).trans (writeChecked_bad (cls := clsStore) _ hacc)))

/-- Settles O11: a checked store sends and holds; each fault is the one that the checks of the access give. -/
theorem storesAreHeld : Obligations.StoresAreHeld := by
  unfold Obligations.StoresAreHeld
  refine ⟨?_, ?_⟩
  · intro r s op i x cls as lost hi g c n hact hp sent hroom
    have hsent : ∀ u : State, u.firing = g → emitData (holdWrite u op r) r g (storeVal op g).val false = sent u := fun u hu =>
      emitData_of _ r g _ _ ((holdWrite_firing ..).trans hu)
    have hmem : ∀ u : State, (sent u).mem = u.mem := fun u => (sendsPayload_mem ..).trans (holdWrite_baysOnly u op r).mem
    refine ⟨fun haddr => ⟨fun hacc => ⟨?_, ?_⟩, fun hacc => ⟨?_, hmem s⟩⟩, execPref_sends hact hroom⟩
    · rw [exec_store hi, storeNode_checked hact hp hroom haddr, writeChecked_ok _ hacc, hsent _ (usePages_firing ..)]
    · exact (hmem _).trans (usePages_baysOnly ..).mem
    · rw [exec_store hi, storeNode_checked hact hp hroom haddr, writeChecked_held _ hacc, hsent s rfl]
  · intro r s op i x write hi g c n cls allowed faults hact hp hroom hwave haddr hldl
    have bad {kind code : Nat} (hacc) : faults kind code := exec_access_bad hi hact hp hroom hwave haddr hldl hacc
    refine ⟨fun h => bad (State.access_noAddress h), fun h hal => bad (State.access_misaligned h hal),
      fun hal => ⟨fun h code he => bad (State.access_badHandle h hal he), fun t u h ht hu => ?_, fun t u h ht hu hcls => ?_⟩, ?_⟩
    · have virt {kind code : Nat} (hv : s.virtAccess c g.bay g.cx.toNat x n cls write false = .bad kind code g.cx.toNat) :
          faults kind code := bad ((State.access_virt h hal).trans hv)
      exact ⟨fun hc => virt (State.virtAccess_class ht hu hc),
        fun hct hcu hw hr => virt (State.virtAccess_readOnly ht hu hct hcu hw hr),
        fun hct hcu hw hne => virt (State.virtAccess_twoClasses ht hu hct hcu hw hne)⟩
    · exact bad ((State.access_shadow h hal).trans (State.virtAccess_noShadow ht hu hcls))
    · rintro as lost k rfl hacc hroute
      have hload : (op, i) ∈ [(0x90, Instr.ld r), (0x92, .vld r), (0x94, .ldx r), (0x96, .ldl r), (0x97, .vldx r)] := by
        simpa using hi
      exact (exec_load hload).trans (congrArg _ (loadNode_unreachable hact hp hroom haddr hldl hacc hroute))

end Sys2Proof.Machine
end

section
/-! PROOF. Plate requests at issue, and the answers of the Plate (R278 to R280, R286, R287, R294 to R298, R432, R453). -/

namespace Sys2Proof.Machine

/-! ### Plate requests at issue (R278, R279) -/

/-- What a cast holds after a Plate request of the firing at hand. -/
def State.holdPlate (s : State) (r : NodeRec) (op : Nat) : State :=
  let a := argsCtl s r s.firing
  s.modOwn s.firing fun k => { k with plate := k.plate ++
    [pendOf op r { s.firing with a := some a.a, b := some a.b, c := some a.c }] }

section
variable {r : NodeRec} {s : State} {op : Nat} {now : Bool} {check : Args → Option (Nat × Nat)}
  (hact : actsFreely s r (argsCtl s r s.firing))
include hact

theorem plateNode_refused {kind code : Nat} (h : check (argsCtl s r s.firing) = some (kind, code)) :
    plateNode op r s now check = fault s s.firing kind code := by
  have ⟨_, _, _, _, hp⟩ := hact
  unfold plateNode
  rw [actNode_free _ hact]
  simp only [hp, h, Bool.false_eq_true, if_false]

theorem plateNode_waits (h : check (argsCtl s r s.firing) = none) : plateNode op r s false check = s.holdPlate r op := by
  have ⟨_, _, _, _, hp⟩ := hact
  unfold plateNode
  rw [actNode_free _ hact]
  simp only [hp, h, Bool.false_eq_true, if_false]
  rfl

theorem plateNode_sends (h : check (argsCtl s r s.firing) = none) :
    plateNode op r s true check = sendsValue (s.holdPlate r op) r ((argsCtl s r s.firing).a.low 64) false := by
  have ⟨_, _, _, _, hp⟩ := hact
  unfold plateNode
  rw [actNode_free _ hact]
  simp only [hp, h, Bool.false_eq_true, if_false, if_true]
  exact emitWord_opnd r _ _ (State.modOwn_firing ..)
end

/-! ### The issue checks (R278, R280) -/

section
variable {a : Args}

theorem ctxCheck_ok (h : a.a.word < 2 ^ 16) : ctxCheck a = none := if_pos (by omega)

theorem ctxCheck_reserved (h : 2 ^ 16 ≤ a.a.word) : ctxCheck a = some (kPROT, 19) := if_neg (by omega)

theorem listCheck_ok (h : a.a.word < 2 ^ 16) (hlo : 1 ≤ a.c.word) (hhi : a.c.word ≤ 1024) : listCheck a = none :=
  (if_neg (by omega)).trans (ctxCheck_ok h)

theorem listCheck_count (h : a.c.word = 0 ∨ 1024 < a.c.word) : listCheck a = some (kPROT, 19) := if_pos h

theorem listCheck_reserved (h : 2 ^ 16 ≤ a.a.word) : listCheck a = some (kPROT, 19) := by
  unfold listCheck
  rw [ctxCheck_reserved h, ite_self]
end

/-! ### The answers of the Plate (R279, R280, R432) -/

theorem childOf_eq {s : State} {cx w ch : Nat} {x : Ctx} (h0 : ch ≠ 0) (hch : ch = w % 4096) (hx : s.ctx? ch = some x)
    (hparent : x.parent.toNat = cx) (hdepth : x.depth.toNat = w / 2 ^ 12 % 8) : childOf s cx w = some ch := by
  subst hch
  simp only [childOf, hx]
  exact if_pos ⟨h0, hparent, hdepth⟩

section
variable {s : State} {p : Pend}

/-- A request whose data waits for a page or for its home. -/
theorem answerPlate_pulls {va : Nat} (h : platePull s p = some va) :
    answerPlate s p = .waits (needPage s p.fir.course.toNat p.fir.cx.toNat va p.fir) := by
  simp only [answerPlate, h]

/-- These requests read no data of their own. -/
theorem platePull_none {k : Nat} (hop : p.op = k) (hk : k ∈ [0xE3, 0xE4, 0xE5, 0xE6, 0xED, 0xEF] := by decide) :
    platePull s p = none := by
  simp only [List.mem_cons, List.not_mem_nil, or_false] at hk
  obtain rfl | rfl | rfl | rfl | rfl | rfl := hk <;> simp only [platePull, hop]

/-- A request on a child whose word names none. -/
theorem answerPlate_noChild (hop : p.op ∈ [0xE1, 0xE2, 0xE3, 0xE4, 0xE5, 0xE6]) (hpull : platePull s p = none)
    (hc : childOf s p.fir.cx.toNat (p.fir.a.getD (plain 0)).word = none) :
    answerPlate s p = .refuse kHOLDING 5 p.fir.cx.toNat := by
  simp only [List.mem_cons, List.not_mem_nil, or_false] at hop
  obtain h | h | h | h | h | h := hop <;> simp only [answerPlate, hpull, h, hc]

section
variable {ch : Nat} (hc : childOf s p.fir.cx.toNat (p.fir.a.getD (plain 0)).word = some ch)
include hc

theorem answerPlate_run (hop : p.op = 0xE3) :
    answerPlate s p = .done (s.modCtx ch fun x => { x with runnable := true }) (some (p.fir.a.getD (plain 0)).word) := by
  simp only [answerPlate, platePull_none hop, hop, hc]

theorem answerPlate_stop (hop : p.op = 0xE4) : answerPlate s p =
    if (s.ctx ch).runnable then .done (addWork (s.modCtx ch fun x => { x with runnable := false }) p ch [] 0) none
    else .done s (some (p.fir.a.getD (plain 0)).word) := by
  simp only [answerPlate, platePull_none hop, hop, hc]

theorem answerPlate_del (hop : p.op = 0xE5) : answerPlate s p = .done (deleteCtx s ch) (some (p.fir.a.getD (plain 0)).word) := by
  simp only [answerPlate, platePull_none hop, hop, hc]

theorem answerPlate_rst (hop : p.op = 0xE6) : answerPlate s p = .done (resetCtx s ch) (some (p.fir.a.getD (plain 0)).word) := by
  simp only [answerPlate, platePull_none hop, hop, hc]
end

/-- A CFG.FLIP waits for the fill of its shadow bank (R295). -/
theorem answerPlate_flipFilling (hop : p.op = 0xED) (h : filling s p.fir.cx.toNat p.fir.course.toNat = true) :
    answerPlate s p = .waits s := by
  simp only [answerPlate, platePull_none hop, hop, answerFlip, h, if_true]

theorem answerPlate_permit (hop : p.op = 0xEF) : answerPlate s p = answerPermit s p := by
  simp only [answerPlate, platePull_none hop, hop]
end

/-- Settles O38: at issue each request by its check; at the commit the answer by the request's code and the child that it
names. -/
theorem plateRequestsWaitAndAreAnswered : Obligations.PlateRequestsWaitAndAreAnswered := by
  unfold Obligations.PlateRequestsWaitAndAreAnswered
  refine ⟨?_, ?_⟩
  · intro r s g a held waits sends bad hact
    have wait {op : Nat} {i : Instr} {check} (hi : exec i s = .next (plateNode op r s false check)) (hc : check a = none) :
        waits op i := hi.trans (congrArg _ (plateNode_waits hact hc))
    have send {op : Nat} {i : Instr} {check} (hi : exec i s = .next (plateNode op r s true check)) (hc : check a = none) :
        sends op i := hi.trans (congrArg _ (plateNode_sends hact hc))
    have refused {op : Nat} {i : Instr} {now check} (hi : exec i s = .next (plateNode op r s now check))
        (hc : check a = some (kPROT, 19)) : bad i := hi.trans (congrArg _ (plateNode_refused hact hc))
    refine ⟨wait rfl rfl, wait rfl rfl, send rfl rfl, fun h => ?_, fun h => ?_, fun h => ?_, fun h => ?_, fun h => ?_, fun h => ?_⟩
    · have hctx := ctxCheck_ok h
      exact ⟨wait rfl hctx, wait rfl hctx, wait rfl hctx, wait rfl hctx,
        fun hlo hhi => ⟨wait rfl (listCheck_ok h hlo hhi), wait rfl (listCheck_ok h hlo hhi)⟩,
        fun hn => ⟨refused rfl (listCheck_count hn), refused rfl (listCheck_count hn)⟩⟩
    · have hctx := ctxCheck_reserved h
      have hlist := listCheck_reserved h
      exact ⟨refused rfl hlist, refused rfl hlist, refused rfl hctx, refused rfl hctx, refused rfl hctx, refused rfl hctx⟩
    · exact wait rfl (if_pos (by omega))
    · exact refused rfl (if_neg (by omega))
    · exact send rfl (if_pos (by omega))
    · exact refused rfl (if_neg (by omega))
  · intro s r g ch x cx word c
    have op_eq {op : Nat} (h : op < 256) : (pendOf op r g).op = op := pendOf_op h r g
    refine ⟨fun hno op hop hpull => answerPlate_noChild ?_ hpull hno, fun h0 hch hx hparent hdepth => ?_,
      fun op va hpull => answerPlate_pulls hpull, answerPlate_flipFilling (op_eq (by decide)), _,
      answerPlate_permit (op_eq (by decide)), rfl⟩
    · have hlt : ∀ n ∈ [0xE1, 0xE2, 0xE3, 0xE4, 0xE5, 0xE6], n < 256 := by decide
      rwa [op_eq (hlt op hop)]
    · have hchild : childOf s cx word = some ch := childOf_eq h0 hch hx (congrArg _ hparent) hdepth
      have hctx : s.ctx ch = x := congrArg (·.getD Ctx.fresh) hx
      have hstop := answerPlate_stop (p := pendOf 0xE4 r g) hchild (op_eq (by decide))
      rw [hctx] at hstop
      exact ⟨answerPlate_run hchild (op_eq (by decide)), fun hrun => hstop.trans (if_neg (by simp [hrun])),
        fun hrun => hstop.trans (if_pos hrun), answerPlate_del hchild (op_eq (by decide)),
        answerPlate_rst hchild (op_eq (by decide))⟩

end Sys2Proof.Machine
end

section
/-! PROOF. CSR.RD of the own context (R288, R290, R384, R424). -/

namespace Sys2Proof.Machine

/-! ### The rights of R290 -/

theorem csrRights_frec {i : Nat} (hi : i < 8) : csrRights (0x030 + i) = some (true, false, true, false) := by
  interval_cases i <;> rfl

theorem csrRights_k {n : Nat} (hlo : 0x100 ≤ n) (hhi : n ≤ 0x10F) : csrRights n = some (true, true, false, false) := by
  interval_cases n <;> rfl

/-- The registers that a context may only read. -/
theorem csrRights_readOnly {n : Nat} (h : n ∉ ctxRegs) (hk : n < 0x100 ∨ 0x110 ≤ n) :
    csrRights n = none ∨ ∃ sr ar aw, csrRights n = some (sr, false, ar, aw) := by
  by_contra hno
  obtain ⟨hsome, hread⟩ := not_or.mp hno
  obtain hm | hm | ⟨hlo, hhi⟩ | hm := csrRights_listed hsome
  · exact h hm
  · simp only [List.mem_cons, List.not_mem_nil, or_false] at hm
    obtain rfl | rfl | rfl | rfl | rfl | rfl | rfl | rfl | rfl | rfl | rfl | rfl := hm <;> exact hread ⟨_, _, _, rfl⟩
  · interval_cases n <;> exact hread ⟨_, _, _, rfl⟩
  · omega

/-! ### What a register reads -/

/-- A context word: DEPTH above the context's number (R280). -/
theorem ctxWord_eq_append (s : State) (cx : BitVec 12) :
    BitVec.ofNat 64 (ctxWord s cx.toNat) = (s.ctx cx.toNat).depth.setWidth 64 <<< 12 ||| cx.setWidth 64 := by
  have hdepth := (s.ctx cx.toNat).depth.isLt
  have hcx := cx.isLt
  apply BitVec.eq_of_toNat_eq
  rw [BitVec.toNat_or, BitVec.toNat_shiftLeft, BitVec.toNat_setWidth, BitVec.toNat_setWidth, BitVec.toNat_ofNat, ctxWord,
    Nat.mod_eq_of_lt (b := 2 ^ 64) (by omega), Nat.mod_eq_of_lt (b := 2 ^ 64) (by omega : cx.toNat < 2 ^ 64),
    Nat.mod_eq_of_lt (b := 2 ^ 64) (by omega : (s.ctx cx.toNat).depth.toNat < 2 ^ 64), Nat.mod_eq_of_lt hcx,
    Nat.mod_eq_of_lt (by rw [Nat.shiftLeft_eq]; omega), ← Nat.shiftLeft_add_eq_or_of_lt hcx, Nat.shiftLeft_eq]

theorem kernelWord_eq_append (cx : BitVec 12) (serial : BitVec 32) :
    BitVec.ofNat 64 (kernelWord cx.toNat serial.toNat) = 0#20 ++ cx ++ serial := by
  have hcx := cx.isLt
  have hserial := serial.isLt
  apply BitVec.eq_of_toNat_eq
  simp only [kernelWord, BitVec.toNat_ofNat, toNat_append_add]
  omega

/-- PARENT: 0 at depth 0. -/
theorem parentWord_eq (s : State) (cx : Nat) :
    BitVec.ofNat 64 (if (s.ctx cx).depth = 0 then 0 else ctxWord s (s.ctx cx).parent.toNat) =
      if (s.ctx cx).depth = 0 then 0#64
      else (s.ctx (s.ctx cx).parent.toNat).depth.setWidth 64 <<< 12 ||| (s.ctx cx).parent.setWidth 64 := by
  split
  · rfl
  · exact ctxWord_eq_append ..

/-- KERNEL: 0 at an element that holds none. -/
theorem loadedKernelWord_eq (s : State) (g : Firing) :
    BitVec.ofNat 64
        (((s.kernelAt g.cx.toNat g.course.toNat g.unit.toNat).map fun k => kernelWord g.cx.toNat k.serial.toNat).getD 0) =
      match s.kernelAt g.cx.toNat g.course.toNat g.unit.toNat with
      | some k => 0#20 ++ g.cx ++ k.serial
      | none => 0#64 := by
  cases s.kernelAt g.cx.toNat g.course.toNat g.unit.toNat with
  | none => rfl
  | some k => exact kernelWord_eq_append ..

/-- The floor bit of the quantum, RUNNABLE and REVOKING (R290, R424). -/
theorem stateWord_eq_append (low run revoke : Bool) :
    BitVec.ofNat 64 (low.toNat + run.toNat * 2 + revoke.toNat * 4) =
      (BitVec.ofBool revoke ++ BitVec.ofBool run ++ BitVec.ofBool low).setWidth 64 := by
  cases low <;> cases run <;> cases revoke <;> rfl

/-- The words of a fault record, as R384 lays them out. -/
def frecWords (f : FaultRec) : List (BitVec 64) :=
  [f.kind ++ f.site ++ BitVec.ofBool f.soft ++ f.hops ++ f.ocx ++ 0#24 ++ f.aux,
    f.course ++ f.bay.extractLsb' 0 4 ++ f.bay.extractLsb' 4 4 ++ f.unit ++ f.node ++ f.port ++ f.stack ++ 0#21,
    f.ft ++ f.it ++ f.wave ++ f.str ++ BitVec.ofBool f.strv ++ 0#17, f.addr, f.pos ++ f.snode ++ 0#26, f.data0, f.data1,
    f.seq ++ f.verdict ++ 0#13 ++ f.lost]

theorem frecWord_eq_append (f : FaultRec) {i : Nat} (hi : i < 8) : BitVec.ofNat 64 (frecWord f i) = (frecWords f).getD i 0 := by
  refine Eq.trans (congrArg (BitVec.ofNat 64) ?_) (ofNat_toNat_self _)
  have hbay := f.bay.isLt
  interval_cases i <;>
    simp only [frecWords, frecWord, List.getD_cons_zero, List.getD_cons_succ, toNat_append_add, BitVec.extractLsb'_toNat,
      Nat.shiftRight_eq_div_pow, BitVec.toNat_ofBool, BitVec.toNat_ofNat] <;>
    omega

/-- RESID as a 64-bit register: clamped, with SAT (R157, R290). -/
theorem csrRead_resid_clamp (s : State) (g : Firing) (cx : Nat) :
    let resid := (s.ctx cx).resid.toInt
    BitVec.ofNat 64 (csrRead s g cx 0x020).1 = BitVec.ofInt 64 (max (-(2 ^ 63)) (min (2 ^ 63 - 1) resid)) ∧
      (csrRead s g cx 0x020).2 = if -(2 ^ 63) ≤ resid ∧ resid ≤ 2 ^ 63 - 1 then 0 else fSAT := by
  intro resid
  have hresid : residInt (s.ctx cx) = resid := by
    rw [residInt, signedVal_eq, BitVec.ofNat_toNat, BitVec.setWidth_eq]
  rw [csrRead_resid, hresid, satInt_eq, natMod_eq, BitVec.ofNat_toNat, BitVec.setWidth_eq]
  exact ⟨rfl, rfl⟩

/-! ### CSR.RD at issue (R288) -/

section
variable {s : State} {r : NodeRec}

theorem addFlags_zero (s : State) (g : Firing) : addFlags s g 0 = s := if_pos rfl

section
variable (h : actsFreely s r (argsOf r.ar.toNat s.firing 0)) (hown : (argsOf r.ar.toNat s.firing 0).a.word < 2 ^ 15)
include h hown

/-- CSR.RD of a register that the own context may read sends it. -/
theorem execCsrRd_reads {n w : Nat} {v : BitVec 64} {fl : Flags} {sw ar aw : Bool} (hn : (r.lit.extractLsb' 0 12).toNat = n)
    (hr : csrRights n = some (true, sw, ar, aw)) (hv : csrRead s s.firing s.firing.cx.toNat n = (w, fl))
    (hw : BitVec.ofNat 64 w = v) :
    exec (.csrRd r) s = .next (sendsValue (addFlags s s.firing fl) r v false) := by
  have ⟨_, _, _, _, hp⟩ := h
  show Host.Outcome.next (actNode s r _ _) = _
  rw [actNode_free _ h]
  simp only [hp, csrTarget_own _ _ hown, bitsAt_eq, hn, hr, hv, Bool.false_eq_true, if_false, if_true]
  rw [emitWord_of _ _ _ _ _ (addFlags_firing ..), hw]

/-- The same for a register that no conversion flags. -/
theorem execCsrRd_value {n w : Nat} {v : BitVec 64} {sw ar aw : Bool} (hn : (r.lit.extractLsb' 0 12).toNat = n)
    (hr : csrRights n = some (true, sw, ar, aw)) (hv : csrRead s s.firing s.firing.cx.toNat n = (w, 0))
    (hw : BitVec.ofNat 64 w = v) : exec (.csrRd r) s = .next (sendsValue s r v false) := by
  rw [execCsrRd_reads h hown hn hr hv hw, addFlags_zero]

theorem execCsrRd_unlisted (hr : csrRights (r.lit.extractLsb' 0 12).toNat = none) :
    exec (.csrRd r) s = .next (fault s s.firing kPROT 18) := by
  have ⟨_, _, _, _, hp⟩ := h
  show Host.Outcome.next (actNode s r _ _) = _
  rw [actNode_free _ h]
  simp only [hp, csrTarget_own _ _ hown, bitsAt_eq, hr, Bool.false_eq_true, if_false]
end

/-- A target word with a reserved bit set (R280). -/
theorem execCsrRd_badTarget (h : actsFreely s r (argsOf r.ar.toNat s.firing 0))
    (hw : 2 ^ 16 ≤ (argsOf r.ar.toNat s.firing 0).a.word) : exec (.csrRd r) s = .next (fault s s.firing kPROT 19) := by
  have ⟨_, _, _, _, hp⟩ := h
  have htarget : csrTarget s s.firing.cx.toNat (argsOf r.ar.toNat s.firing 0).a.word = .error (kPROT, 19) :=
    if_pos (by omega)
  show Host.Outcome.next (actNode s r _ _) = _
  rw [actNode_free _ h]
  simp only [hp, htarget, Bool.false_eq_true, if_false]

/-- CSR.WR of a register that the own context does not write. -/
theorem execCsrWr_readOnly {b : Args} (hb : b = argsOf r.ar.toNat s.firing (BitVec.ofNat 512 (csrLit s s.firing r)))
    (h : actsFreely s r b) (hown : b.a.word < 2 ^ 15) (hreg : (r.lit.extractLsb' 0 12).toNat ∉ ctxRegs)
    (hk : (r.lit.extractLsb' 0 12).toNat < 0x100 ∨ 0x110 ≤ (r.lit.extractLsb' 0 12).toNat) :
    exec (.csrWr r) s = .next (fault s s.firing kPROT 18) := by
  have ⟨_, _, _, _, hp⟩ := h
  subst hb
  show Host.Outcome.next (actNode s r _ _) = _
  rw [actNode_free _ h]
  obtain hr | ⟨sr, ar, aw, hr⟩ := csrRights_readOnly hreg hk <;>
    simp only [hp, csrTarget_own _ _ hown, bitsAt_eq, hr, Bool.false_and, Bool.false_eq_true, if_false, if_true]
end

/-- Settles O39: each register by its value and the own context's right to read it; a number that R290 does not list, or lists as
read-only, by `csrRights_listed`. -/
theorem specialRegistersRead : Obligations.SpecialRegistersRead := by
  unfold Obligations.SpecialRegistersRead
  intro r s g a b x n values f frec resid
  refine ⟨fun h hown => ⟨fun v hv => ?_, fun hlo hhi => ?_, fun i hi hn => ?_, fun hn => ?_, fun hno hresid hfrec hk => ?_⟩,
    fun h hown hreg hk => execCsrWr_readOnly rfl h hown hreg hk, fun h hw => execCsrRd_badTarget h hw⟩
  · simp only [values, List.mem_cons, Prod.mk.injEq, List.not_mem_nil, or_false] at hv
    have wide : ∀ {w : Nat} {y : BitVec w}, BitVec.ofNat 64 y.toNat = y.setWidth 64 := BitVec.ofNat_toNat ..
    have word : ∀ {y : BitVec 64}, BitVec.ofNat 64 y.toNat = y := ofNat_toNat_self _
    obtain ⟨hn, rfl⟩ | ⟨hn, rfl⟩ | ⟨hn, rfl⟩ | ⟨hn, rfl⟩ | ⟨hn, rfl⟩ | ⟨hn, rfl⟩ | ⟨hn, rfl⟩ | ⟨hn, rfl⟩ | ⟨hn, rfl⟩ | ⟨hn, rfl⟩ |
      ⟨hn, rfl⟩ | ⟨hn, rfl⟩ | ⟨hn, rfl⟩ | ⟨hn, rfl⟩ | ⟨hn, rfl⟩ | ⟨hn, rfl⟩ | ⟨hn, rfl⟩ | ⟨hn, rfl⟩ | ⟨hn, rfl⟩ | ⟨hn, rfl⟩ := hv <;>
      refine execCsrRd_value h hown hn rfl rfl ?_
    exacts [ctxWord_eq_append s g.cx, wide, word, word, word, wide, wide, word, word, word, rfl, word, word, wide, word, wide,
      parentWord_eq .., loadedKernelWord_eq s g, stateWord_eq_append .., rfl]
  · refine execCsrRd_value h hown rfl (csrRights_k hlo hhi) (if_pos hlo) ?_
    rw [show n % 16 = n - 0x100 by omega]
    exact ofNat_toNat_self _
  · have hread : csrRead s g g.cx.toNat (0x030 + i) = (frecWord f i, 0) := by
      unfold csrRead
      rw [if_neg (by omega), if_pos (by omega), show (0x030 + i) % 8 = i by omega]
    exact execCsrRd_value h hown hn (csrRights_frec hi) hread (frecWord_eq_append f hi)
  · obtain ⟨hvalue, hflags⟩ := csrRead_resid_clamp s g g.cx.toNat
    exact execCsrRd_reads h hown hn rfl (Prod.ext rfl hflags) hvalue
  · refine execCsrRd_unlisted h hown (by_contra fun hsome => ?_)
    simp only [values, List.map_cons, List.map_nil, List.mem_cons, List.not_mem_nil, or_false, not_or] at hno
    obtain hm | hm | hm | hm := csrRights_listed hsome
    · have := mem_ctxRegs.mp hm
      omega
    · simp only [List.mem_cons, List.not_mem_nil, or_false] at hm
      omega
    · omega
    · omega

end Sys2Proof.Machine
end

section
/-! PROOF. Two kernels with one serial (R353, R356, R360). -/

namespace Sys2Proof.Machine

/-- A quiet kernel of context 5 whose launch frame has been freed. -/
def quietKernel : Kernel := { (default : Kernel) with cx := 5, serial := 1, state := .running }

/-- A state after the serials of context 5 have come round: a later kernel has the serial of the quiet one, and its launch frame. -/
def repeatedSerialState : State :=
  { State.reset with kernels := [quietKernel, { quietKernel with frame := some 0 }] }

/-- KERNEL_END of context 5. -/
def endOfQuiet : EvArgs := { (default : EvArgs) with cx := 5 }

/-- The states of the kernels that a step leaves. -/
def kernelStates : Host.Outcome State Fault Refusal → List KState
  | .next u => u.kernels.map Kernel.state
  | _ => []

/-- The frame of the later kernel holds the end of the quiet one back. -/
theorem execKernelEnd_repeatedSerial :
    kernelStates (exec (.kernelEnd endOfQuiet) repeatedSerialState) = [.running, .running] := by
  decide +kernel

theorem endKernel_repeatedSerial :
    kernelStates (.next (headsWait (endKernel repeatedSerialState quietKernel .normal 0 0) 5)) = [.ended, .ended] := by
  decide +kernel

/-- Refutes O51: the model knows a kernel by its context and serial, and a serial comes again after 2^32 launches. A quiet kernel
without a launch frame does not end while a later one with its serial holds a frame. -/
theorem not_kernelEventsAct : ¬ Obligations.KernelEventsAct := by
  unfold Obligations.KernelEventsAct
  intro h
  obtain ⟨-, -, -, -, -, -, -, hend⟩ := h endOfQuiet repeatedSerialState quietKernel
  have hstates := congrArg kernelStates (hend (by decide +kernel) rfl)
  have hkept := execKernelEnd_repeatedSerial
  rw [hstates] at hkept
  exact absurd (endKernel_repeatedSerial.symm.trans hkept) (by decide)

end Sys2Proof.Machine
end
